-- ==== Sys2Proof/Word.lean ====
section
/-! DEFINITION. Sys2Proof/Word.lean: the two widths in which the model keeps bits as bits, and the value that a
floating-point code stands for. -/

namespace Sys2Proof

/-- One byte of memory, of a mailbox or of a record. -/
abbrev Byte := BitVec 8

/-- One 32-bit register of a vector-engine lane (R245). -/
abbrev Word := BitVec 32

/-- The exact value of a floating-point code (R196): a NaN or an infinity with its sign, or ± m × 2^e. -/
inductive FVal where
  | nan (neg : Bool)
  | inf (neg : Bool)
  | fin (neg : Bool) (m : Nat) (e : Int)
deriving DecidableEq, Repr

end Sys2Proof
end

