-- ==== Sys2Proof/Syntax.lean ====
section
/-! DEFINITION. Sys2Proof/Syntax.lean: the commands that the module takes, one constructor for each row of the
opcode table, with the operands of the row. A mailbox command carries the mailbox that holds it and the fields of its
request; an arrival on a link carries what arrived; an event of the hardware carries what the event names. -/

namespace Sys2Proof

/-- A team that the dispatch of a stroke program starts (R246): die, vector engine, team, and the address of its first
instruction. The launch mask and the entry addresses are part of the compiler's program image. -/
structure Launch where
  die : Nat
  ve : Nat
  team : Nat
  entry : Nat
deriving DecidableEq, Repr

/-- A vector-engine instruction as one team executes it (R249): the engine and team, and the fields of the word below
its operation code. -/
structure VeF where
  die : Nat
  ve : Nat
  team : Nat
  rd : Nat
  ra : Nat
  rb : Nat
  rc : Nat
  pred : Nat
  pneg : Bool
  imm : Nat
deriving DecidableEq, Repr

/-- A KV pool description (R343). -/
structure PoolDesc where
  format : Nat := 0
  layers : Nat := 1
  maxPages : Nat := 1
  hbmFrames : Nat := 0
  cisFrames : Nat := 0
  pages : Nat := 0
  seqs : Nat := 1
  lowWater : Nat := 0
deriving DecidableEq, Repr

/-- The fields of SECURE_CONFIG after JOB_ID. -/
structure SecureReq where
  interval : Nat
  slots : Nat
  aqEvery : Nat
  threshold : Nat
  partner : Nat
  heldFor : Nat
  group : Nat
  storeEvery : Nat
  partnerLinks : Nat
  heldLinks : Nat
  reserve : Nat
  holdBytes : Nat
  aqFirst : Nat
  storeGbps : Nat
  flags : Nat
  storeAddr : Nat
  storeRkey : Nat
  storeQp : Nat
  storeStride : Nat
deriving DecidableEq, Repr

/-- A Jainzel frame as the receiver finds it (R447, R448). `symErr` counts the byte symbols in error (R449);
`fastOk` says that HCHK of the header and the CRC-32 of the flit pass before any correction (R452); the other fields
are those of the corrected frame. `flit` holds bytes 0 to 11 of the express flit when `exp` is set. `launches` are
the teams that a boundary delivered with this frame starts. -/
structure Frame where
  seq : Nat
  ack : Nat
  nak : Bool
  exp : Bool
  vc : Nat
  vcValid : Bool
  creditVc : Nat
  credit : Nat
  wideReq : Bool
  dropPair : Bool
  pair : Nat
  symErr : Nat
  fastOk : Bool
  flit : List Byte
  launches : List Launch
deriving DecidableEq, Repr

/-- What a die hands over with SLICE_HANDOFF (R426): its number, the slice's number and the slice's gradient, binary32 word by
binary32 word. -/
structure Handoff where
  die : Nat
  slice : Nat
  data : List Nat
deriving DecidableEq, Repr

/-- A bulk packet (R463) on its channel, VC6 or VC7 (R460); `crcOk` says that its CRC-64 passes. -/
structure Packet where
  type : Nat
  dest : Nat
  src : Nat
  window : Nat
  offset : Nat
  payload : List Byte
  poisonMap : Nat
  crcOk : Bool
  vc : Nat
deriving DecidableEq, Repr

/-- A collective chunk (R495) on its channel, VC0 to VC5 (R460): the fields of its header, its payload and the poison mark of
each 64-byte block. -/
structure Chunk where
  kind : Nat
  flags : Nat
  tree : Nat
  src : Nat
  phase : Nat
  restarts : Nat
  digest : Nat
  chunk : Nat
  epoch : Nat
  seq : Nat
  group : Nat
  payload : List Byte
  poison : List Bool
  vc : Nat
deriving DecidableEq, Repr

/-- The commands: one constructor for each row of the opcode table, with the row's operands. -/
inductive Instr where
  /-- R91: Returns the identification registers, the module state, the bound jobs, the firmware version and the local stroke. -/
  | moduleInfo (mb : Nat)
  /-- R82: Moves the module from ACTIVE to QUIESCED when every bound job is in IDLE or HALTED. -/
  | moduleQuiesce (mb : Nat)
  /-- R82: Moves the module from QUIESCED back to ACTIVE. -/
  | moduleResume (mb : Nat)
  /-- R115: Writes its reply and then takes the module to BOOT, aborting every other DEVICE-owned mailbox. -/
  | moduleReset (mb flags : Nat)
  /-- R142: Registers, replaces or unregisters the event area of the requester's partition at the next local stroke. -/
  | eventAreaSet (mb areaAddr areaRkey slots consumerAddr consumerRkey qp : Nat)
  /-- R667: Sets the die sets and HBM classes of the partitions and clears the control window of each changed partition. -/
  | partitionSet (mb : Nat) (dies classes : List Nat)
  /-- R674: Resets one partition at the next local boundary, destroying its jobs and aborting its mailboxes, collectives and buckets. -/
  | partitionReset (mb partition : Nat)
  /-- R679: Returns a partition's configuration, remote keys, addresses and grant counts. -/
  | partitionStatus (mb partition : Nat)
  /-- R671: Grants read access to one whole allocation to other partitions and blocks writes to it. -/
  | shareGrant (mb addr grantees : Nat)
  /-- R673: Revokes a grant on an allocation, unless a grantee's job is running. -/
  | shareRevoke (mb addr grantees : Nat)
  /-- R660: Sets a partition's addresses, VLAN, priority, allowed prefix and queue-pair limit. -/
  | partitionNet (mb partition priority vlan ipv4 ipv6 allow allowLen qpMax : Nat)
  /-- R466: Sets the module's position identifier and announces it on every link. -/
  | linkIdentity (mb position : Nat)
  /-- R467: Replaces a range of routing-table entries from a bucket at one boundary. -/
  | routeSet (mb firstPos count bucket : Nat)
  /-- R469: Adds, replaces or deletes tree entries from a bucket at one boundary. -/
  | treeSet (mb count bucket : Nat)
  /-- R451: Disables, enables and trains, or retrains one Jainzel link. -/
  | linkControl (mb link action : Nat)
  /-- R601: Arms or disarms the module as a hot spare holding a job's recovery plan. -/
  | spareArm (mb jobId partition flags count first : Nat)
  /-- R656: Sets the Ethernet speed, low-power idle, PTP transport, domain and MTU. -/
  | portConfig (mb speed lpi ptp domain mtu : Nat)
  /-- R145: Maps COUNT buckets onto held HBM or cistern memory with an initial owner. -/
  | bucketMap (mb first count kind ownerInit addr jobId notify : Nat)
  /-- R146: Sets COUNT HOST or FREE buckets to FREE and unmapped. -/
  | bucketUnmap (mb first count : Nat)
  /-- R291: Grants the lowest-addressed long enough run of FREE segments on a stack or package, within quota. -/
  | memAlloc (mb jobId kind unit segments : Nat)
  /-- R292: Puts the segments of a whole allocation into CLEARING and ends their charge. -/
  | memFree (mb addr : Nat)
  /-- R296: Sets a partition or job quota of HBM, cistern or aquifer without evicting anything. -/
  | quotaSet (mb partition kind jobId limit : Nat)
  /-- R292: Returns the quotas, usage, free, clearing and retired segments and the aquifer state. -/
  | memStatus (mb partition : Nat)
  /-- R310: Starts writing memory into aquifer extents, each extent atomically. -/
  | aqWrite (mb addr firstExtent count : Nat)
  /-- R311: Starts reading aquifer extents into memory. -/
  | aqRead (mb addr firstExtent count : Nat)
  /-- R308: Makes the named extents hold no data and leave usage. -/
  | aqTrim (mb firstExtent count : Nat)
  /-- R85: Binds a job in a job slot in IDLE with epoch 0 and sends the module's join up the tree. -/
  | jobCreate (mb jobId partition periodK stretchLimit priority voteMargin self origin members firstStroke seed : Nat)
  /-- R67: Returns the job's phase, period, margin in force, epoch, strokes and stretch statistics. -/
  | jobStatus (mb jobId : Nat)
  /-- R86: Job-wide: moves the job to HALTED with HALT_CAUSE COMMANDED. -/
  | jobHalt (mb jobId : Nat)
  /-- R86: Job-wide: returns a commanded halt to the phase before the halt. -/
  | jobResume (mb jobId : Nat)
  /-- R79: Frees the job slot and every allocation of the job, entering READY when no job remains. -/
  | jobDestroy (mb jobId : Nat)
  /-- R403: Replaces the generation configuration, allocating the KV pool and request store and loading the program image. -/
  | genConfig (mb jobId imgFirst imgCount outCount outFirst eos context queueMax reqStore : Nat) (pool : PoolDesc)
  /-- R369: Queues all requests in the named buckets into the request store, or none. -/
  | genSubmit (mb jobId first count : Nat)
  /-- R386: Marks a live request cancelled, recording its cancel stroke. -/
  | genCancel (mb jobId reqId slot : Nat)
  /-- R368: Replaces a live request's grammar bitmask from the next round opening. -/
  | genMask (mb jobId reqId first : Nat)
  /-- R389: Starts copying a tincture image into job HBM as the next version. -/
  | tinctureLoad (mb jobId tincture count first : Nat)
  /-- R387: Retires the current version of a tincture. -/
  | tinctureUnload (mb jobId tincture count first : Nat)
  /-- R362: Returns round, queue, token, withdrawal and slot statistics. -/
  | genStatus (mb jobId slot : Nat)
  /-- R440: Sets the learning configuration, allocates the feed store, queue slots and gradient hold, and loads the image. -/
  | learnConfig (mb jobId imgFirst imgCount groupSize shard group b1 b2 eps wd maxNorm lsInit fmtShift fmtWindow lsGrowth fillJob feedStore : Nat)
  /-- R411: Queues all micro-batches in the named buckets, or none. -/
  | learnFeed (mb jobId first count : Nat)
  /-- R441: Job-wide: sets RUN_REMAINING and the learning rate of steps that start from then on. -/
  | learnRun (mb jobId steps lr : Nat)
  /-- R442: Sets the trainable slice mask that takes effect at step FROM_STEP. -/
  | learnMask (mb jobId first fromStep count : Nat)
  /-- R404: Returns the step number, stage, slices done, queue and stall counts. -/
  | learnStatus (mb jobId : Nat)
  /-- R514: Job-wide: enters TURNING and starts a turn towards the target phase and layout. -/
  | turnBegin (mb jobId epoch target source periodK layout stageLimit turnGroup distGroup : Nat) (src : List Byte) (imageDigest layoutDigest : Nat)
  /-- R540: Job-wide: fails the running turn with cause ABORTED. -/
  | turnAbort (mb jobId : Nat)
  /-- R514: Returns the stage, epoch, cause and byte counts of the current or latest turn. -/
  | turnStatus (mb jobId : Nat)
  /-- R523: Loads or deletes a layout image in a layout slot. -/
  | layoutLoad (mb jobId layout flags count first : Nat)
  /-- R582: Sets partner, holding, slots, triggers and deep layers, allocating hold slots and opening hold windows. -/
  | secureConfig (mb jobId : Nat) (cfg : SecureReq)
  /-- R569: Job-wide: makes a snapshot due with cause COMMANDED, or with DEEP writes held slots to deeper layers. -/
  | secureNow (mb jobId flags : Nat)
  /-- R564: Returns generations begun and complete, hold, aquifer and store slot contents and the risk estimate. -/
  | secureStatus (mb jobId : Nat)
  /-- R575: Returns up to 62 journal entries from a given step. -/
  | journalRead (mb jobId step : Nat)
  /-- R588: Loads a member's recovery plan after checking its digest and certificate chains. -/
  | recoveryPlan (mb jobId count first : Nat)
  /-- R618: Applies a list of configuration requests at a spare that took a position, in order, stopping at the first failure. -/
  | takeoverConfig (mb jobId first count : Nat)
  /-- R608: Names the member's source for generation G and, with TRIGGER at the coordinator, enters RECOVERING with ROLLBACK. -/
  | recoveryRestore (mb jobId generation layer flags refLoss storeAddr storeRkey storeQp : Nat)
  /-- R619: Returns the recovery stage, failed set, replacements and plan digest. -/
  | recoveryStatus (mb jobId : Nat)
  /-- R513: Writes or deletes a collective group entry and resets its SEQ count. -/
  | collGroupSet (mb jobId group flags dies rank members podShift nroots : Nat) (roots : List (Nat × Nat))
  /-- R490: Returns collective counts and the state of one collective. -/
  | collStatus (mb jobId group seq : Nat)
  /-- R641: Sets the module power cap and replies once it settles. -/
  | powerCapSet (mb capW : Nat)
  /-- R638: Sets a partition's power share. -/
  | powerShareSet (mb partition shareW : Nat)
  /-- R625: Moves named dies into P1 or P2, the module into P3 to P5, or wakes them. -/
  | powerStateSet (mb target dies : Nat)
  /-- R646: Selects native or Vrelra 1 compatibility frequency mode. -/
  | freqModeSet (mb mode : Nat)
  /-- R300: Sets the throttle start and hysteresis of stacks and the throttle start of dies. -/
  | thermalSet (mb stackThr stackHyst dieThr : Nat)
  /-- R643: Sets priming enables, slope and limit. -/
  | primingSet (mb enable slopeUs limitMs : Nat)
  /-- R650: Returns power state, draw, cap, die and rail power and shares. -/
  | powerStatus (mb : Nat)
  /-- R634: Returns the energy of a partition and of its jobs in millijoules. -/
  | energyReport (mb partition : Nat)
  /-- R697: Opens an image session after checks 1 to 6, erases the flash and programs the segment table. -/
  | imageBegin (mb flags : Nat) (head : List Byte)
  /-- R697: Programs segment pages of the open session. -/
  | imageWrite (mb offset : Nat) (data : List Byte)
  /-- R697: Reads the image back, checks segment digests and programs the header page last. -/
  | imageCommit (mb : Nat)
  /-- R703: Returns a signed attestation report with the measurements and certificate chain. -/
  | attest (mb : Nat) (nonce : List Byte) (jobId : Nat)
  /-- R190: Returns the array map digest and MA_DESC of the named arrays. -/
  | arrayMap (mb die : Nat)
  /-- R187: Runs the array self-test for 30 ms and enters newly failing columns as pending. -/
  | arraySelftest (mb die : Nat)
  /-- R241: Returns the loss-scale state and numeric counters of a job. -/
  | numericsStatus (mb jobId : Nat)
  /-- R343: Returns the KV pool statistics of one die. -/
  | kvStatus (mb jobId die : Nat)
  /-- R475: Returns the status, peer and error counters of one or all links. -/
  | linkStatus (mb link : Nat)
  /-- R573: Sets the seven weights of the risk estimate. -/
  | riskConfig (mb : Nat) (weights : List Nat)
  /-- R572: Returns the risk estimate, scores, weights and power-on hours. -/
  | riskStatus (mb : Nat)
  /-- R666: Returns port status and counters with PTP time and strokes latched in one cycle. -/
  | portStatus (mb jobId : Nat)
  /-- R691: Returns failed-start count, latest reasons, fuses, session state and start records. -/
  | bootStatus (mb : Nat)
  /-- R97: A host RDMA write to the control window lands, or is dropped and counted when outside the partition or to a DEVICE mailbox. -/
  | hostCwWrite (qp key offset : Nat) (data : List Byte)
  /-- R101: A host write of 1 into OWNER while it reads 0 flips the mailbox to DEVICE. -/
  | mailboxFlip (qp key mb : Nat)
  /-- R104: 16 cycles after a flip lands, the watcher reports it and the wellhead makes the acceptance checks. -/
  | watcherReport (mb : Nat)
  /-- R121: A host write to a flag-table entry updates FILL, TAG or flips OWNER to DEVICE, or is dropped. -/
  | hostFlagWrite (qp key bucket offset : Nat) (data : List Byte)
  /-- R122: A host RDMA write to a data bucket is admitted while HOST-owned or dropped and counted. -/
  | hostBucketWrite (qp key bucket offset : Nat) (data : List Byte)
  /-- R123: A host RDMA read of a bucket returns data, zero for poisoned blocks. -/
  | hostBucketRead (qp key bucket offset len : Nat)
  /-- R135: While the event area is full, the module re-reads the host's consumer word at most every 7,000 cycles. -/
  | consumerReread (partition value : Nat)
  /-- R660: A communication-management REQ opens a queue pair bound to a partition, or is rejected. -/
  | cmReq (service : Nat) (src : List Byte) (remoteQpn : Nat)
  /-- R660: A communication-management DREQ closes a queue pair. -/
  | cmDreq (qp : Nat)
  /-- R661: A queue pair's 8 ms ACK timeout expires and it retransmits, or enters error after 7 retries. -/
  | rdmaAckTimeout (qp : Nat)
  /-- R663: An arriving packet with congestion experienced makes the module send a CNP, rate-limited. -/
  | ecnMarkedPacket (qp : Nat)
  /-- R663: A received congestion notification packet halves the queue pair's send rate. -/
  | cnpReceive (qp : Nat)
  /-- R664: The Ethernet link goes up, down or retrains, including at power-state changes. -/
  | portLinkChange (mode cause : Nat) (lpiOk : Bool)
  /-- R71: At the end of a period the origin sends the next boundary flit or, on a STRETCH vote, a stretch flit. -/
  | originPeriodEnd (slot : Nat) (launches : List Launch)
  /-- R77: A member receives a boundary flit and sets the count, applies transitions and commands, dispatches, and writes the closed stroke's results. -/
  | strokeBoundary (link tree natt count : Nat) (stretched first : Bool) (launches : List Launch)
  /-- R71: A member receives a stretch flit and takes a new vote deadline. -/
  | stretchFlit (link tree stretches count : Nat)
  /-- R66: At cycle P − M each member sends its vote, READY or STRETCH. -/
  | voteDeadline (slot : Nat)
  /-- R69: A vote flit from a child is combined with the subtree's votes and forwarded up. -/
  | voteFlit (link tree count : Nat) (vote : Bool) (lowest voters : Nat)
  /-- R70: A child's vote missing M/2 cycles after the deadline is taken as STRETCH and reported. -/
  | childVoteTimeout (slot link : Nat)
  /-- R60: No boundary or stretch flit for two periods; the member reports the origin lost. -/
  | originLostTimeout (slot : Nat)
  /-- R85: A JOIN count is kept and the combined count sent up; at the origin all joins start the first stroke. -/
  | joinFlit (link tree joined : Nat)
  /-- R456: An ATTACH flit carrying eight data bytes of the boundary record is delivered and forwarded. -/
  | attachFlit (link tree index : Nat) (data : List Byte)
  /-- R459: A DECLARE flit is reported to the wellhead, forwarded up trees, and reported to coordinators. -/
  | declareFlit (link position reason : Nat)
  /-- R445: The link sees the peer's signal and begins a training attempt. -/
  | linkPeerSignal (link : Nat)
  /-- R445: A training attempt completes, recording flight time and peer, or fails. -/
  | linkTrainDone (link lanes flight : Nat) (peerAssigned : Bool) (peerPos peerLink cause : Nat)
  /-- R445: A training attempt reaches 25 ms and fails; after three the link is FAILED. -/
  | linkTrainTimeout (link cause : Nat)
  /-- R445: The peer's signal disappears during an attempt, which fails with NO_PEER uncounted. -/
  | linkPeerLoss (link : Nat)
  /-- R450: A frame arrives, is corrected and delivered in order, or is discarded with a NAK. -/
  | frameReceive (link : Nat) (frame : Frame)
  /-- R450: A NAK makes the sender replay from the frame after ACK; eight failed replays take the link down. -/
  | nakReceive (link ack : Nat)
  /-- R451: No frame for 7,000 cycles takes the link down, discarding buffered traffic. -/
  | linkIdleTimeout (link : Nat)
  /-- R472: A widening or narrowing agreed by WIDE_REQ completes and frames resume. -/
  | widthChangeDone (link : Nat)
  /-- R464: A bulk WRITE packet for this module is written into an open window or refused. -/
  | bulkPacketReceive (link : Nat) (packet : Packet)
  /-- R731: A bulk packet for another destination is cut through on PRIMARY or ALTERNATE, or discarded. -/
  | bulkPacketForward (link : Nat) (packet : Packet)
  /-- R163: A matrix instruction loads one weight tile and streams K rows, writing FP32-accumulated results. -/
  | matmul (die array unit : Nat)
  /-- R184: A DITHER instruction runs K dither rows through the array without memory access. -/
  | dither (die array : Nat)
  /-- R169: A sub-unit's weight buffer fill completes and streaming may begin. -/
  | arrayFillDone (die array : Nat)
  /-- R176: An instruction's last output write is acknowledged and the completion count rises. -/
  | arrayInstrDone (die array unit : Nat)
  /-- R178: An idle array changes shape in 32 cycles before a descriptor of a new shape. -/
  | arrayShapeChange (die array : Nat)
  /-- R182: After the last row, dither rows ramp the array down over 32 cycles. -/
  | arrayRampDown (die array : Nat)
  /-- R250: rd = rne32(ra × rb + rc). -/
  | fmaF32 (f : VeF)
  /-- R250: rd = rne32(ra + rb). -/
  | addF32 (f : VeF)
  /-- R250: rd = rne32(ra × rb). -/
  | mulF32 (f : VeF)
  /-- R250: rd = maximum, positive quiet NaN on any NaN operand. -/
  | maxF32 (f : VeF)
  /-- R250: rd = minimum, positive quiet NaN on any NaN operand. -/
  | minF32 (f : VeF)
  /-- R250: Two BF16 fused multiply-adds per lane, each rounded once. -/
  | fmaBf16x2 (f : VeF)
  /-- R250: Format conversion by rne or, with IMM bit 8, sr. -/
  | cvt (f : VeF)
  /-- R250: Correctly rounded FP32 quotient. -/
  | divF32 (f : VeF)
  /-- R250: Correctly rounded FP32 square root. -/
  | sqrtF32 (f : VeF)
  /-- R253: Correctly rounded natural exponential. -/
  | expF32 (f : VeF)
  /-- R253: Correctly rounded natural logarithm. -/
  | logF32 (f : VeF)
  /-- R250: 32-bit integer add. -/
  | iadd (f : VeF)
  /-- R250: 32-bit integer subtract. -/
  | isub (f : VeF)
  /-- R250: 32-bit integer multiply. -/
  | imul (f : VeF)
  /-- R250: 32-bit bitwise AND. -/
  | vAnd (f : VeF)
  /-- R250: 32-bit bitwise OR. -/
  | vOr (f : VeF)
  /-- R250: 32-bit bitwise XOR. -/
  | vXor (f : VeF)
  /-- R250: 32-bit shift left. -/
  | shl (f : VeF)
  /-- R250: 32-bit shift right. -/
  | shr (f : VeF)
  /-- R250: Compares and writes a predicate with the condition in IMM. -/
  | cmp (f : VeF)
  /-- R250: Selects between operands. -/
  | sel (f : VeF)
  /-- R252: Loads 32 bits per lane from U[IMM] + ra. -/
  | ld (f : VeF)
  /-- R252: Stores 32 bits per lane to U[IMM] + ra. -/
  | st (f : VeF)
  /-- R268: Atomic wrapping 32-bit add, buffered on a bank or posted on HBM. -/
  | atomAdd32 (f : VeF)
  /-- R268: Atomic 64-bit add. -/
  | atomAdd64 (f : VeF)
  /-- R268: Atomic 32-bit swap on a bank. -/
  | atomSwap32 (f : VeF)
  /-- R268: Atomic 64-bit swap on a bank. -/
  | atomSwap64 (f : VeF)
  /-- R268: Atomic bit set (OR). -/
  | atomBset (f : VeF)
  /-- R268: Atomic bit clear. -/
  | atomBclr (f : VeF)
  /-- R275: Posted unsigned max on HBM. -/
  | atomUmax32 (f : VeF)
  /-- R275: Posted unsigned min on HBM. -/
  | atomUmin32 (f : VeF)
  /-- R277: The shared cache applies posted atomics at up to 32 lane operations per cycle. -/
  | postedAtomicApply (die : Nat)
  /-- R267: Queues a copy on a DMA engine, which owns the banks it touches. -/
  | dmaCopy (f : VeF)
  /-- R267: A DMA engine completes a copy in issue order and counts it. -/
  | dmaCopyDone (die engine : Nat)
  /-- R250: Waits until the team's writes and posted atomics are acknowledged. -/
  | fence (f : VeF)
  /-- R250: Waits until a DMA engine's completion count reaches a count. -/
  | dmaWait (f : VeF)
  /-- R250: rd = ra of lane rb. -/
  | shfl (f : VeF)
  /-- R236: Team reduction by FP32 add in fixed pairwise order. -/
  | reduceFadd (f : VeF)
  /-- R236: Team reduction by FP32 max. -/
  | reduceFmax (f : VeF)
  /-- R236: Team reduction by integer add. -/
  | reduceIadd (f : VeF)
  /-- R251: Branches when the guard holds in at least one lane. -/
  | br (f : VeF)
  /-- R270: Engine barrier; when all teams arrive, buffered atomics commit in thread order. -/
  | barE (f : VeF)
  /-- R246: Ends the team; the last exit commits the atomic buffer. -/
  | exit (f : VeF)
  /-- R232: Returns one draw of the lane generator. -/
  | draw (f : VeF)
  /-- R254: Places a matrix descriptor in an array's queue and returns its check code. -/
  | mxIssue (f : VeF)
  /-- R255: Waits until a sub-unit's completion count reaches a count and returns the ORed flags. -/
  | mxWait (f : VeF)
  /-- R262: Hands a bank to a new owner, stalling the team until the handover takes effect. -/
  | spbGive (f : VeF)
  /-- R250: Waits until the engine owns a bank. -/
  | spbWait (f : VeF)
  /-- R250: Returns and clears the team's sticky flags. -/
  | getf (f : VeF)
  /-- R250: Sets a uniform base register from lanes 0 and 1. -/
  | ubase (f : VeF)
  /-- R263: A pending bank handover takes effect once the old owner has finished. -/
  | spbHandoverEffect (die bank : Nat)
  /-- R281: A wellhead write to SPB_OWNER hands a bank over and may change its job slot, clearing it. -/
  | spbOwnerWrite (die bank value : Nat)
  /-- R12: A wellhead or standpipe write to a register without a row of its own, per the access codes. -/
  | registerWrite (addr value : Nat)
  /-- R331: A command bank handed to the attention engine is checked and its descriptors run. -/
  | attBankHandover (die bank : Nat)
  /-- R323: A forward descriptor computes attention rows over the attended pages. -/
  | attFwd (die : Nat)
  /-- R347: An append descriptor quantises positions into pages, allocating or copying pages. -/
  | attAppend (die : Nat)
  /-- R340: Copies another sequence's map entries and raises REF. -/
  | pageShare (die : Nat)
  /-- R340: Releases pages beyond POS and sets the length. -/
  | pageTruncate (die : Nat)
  /-- R340: Releases every page of the list. -/
  | pageRelease (die : Nat)
  /-- R340: Releases pages lying wholly in a range. -/
  | pageDrop (die : Nat)
  /-- R355: Moves cistern pages in a range to HBM. -/
  | pagePromote (die : Nat)
  /-- R355: Moves HBM pages in a range to the cistern. -/
  | pageDemote (die : Nat)
  /-- R352: A shared page is copied for an append once earlier writes pass, then REF falls. -/
  | pageCopyOnWrite (die slot seq layer kvh index : Nat)
  /-- R355: A promote or demote copy completes and FRAME is rewritten. -/
  | pageMoveDone (die slot page : Nat)
  /-- R376: A command bank handed to the atomiser is checked and its descriptors run. -/
  | atmBankHandover (die bank : Nat)
  /-- R377: The atomiser samples one token for a slot from its logits with one draw. -/
  | sample (die : Nat)
  /-- R384: A held output bucket reads DEVICE; records are written and the round opens at the next boundary. -/
  | outputBucketReady (slot : Nat)
  /-- R389: A tincture copy completes and is checked; the version becomes current or is discarded. -/
  | tinctureCopyDone (slot tincture version : Nat)
  /-- R394: A poisoned block of generation weights is reported and restoration from the golden copy starts. -/
  | weightPoisonReport (slot addr : Nat)
  /-- R395: Restoration of a weight block completes, or fails on a poisoned golden block. -/
  | weightRestoreDone (slot addr : Nat)
  /-- R426: A completed weight-gradient slice is handed to the collective engine for reduction. -/
  | sliceHandoff (slot : Nat) (slice : Handoff) (nonfinite poison : Bool)
  /-- R427: A reduced slice arrives at its owner, is held and added to the squared norm. -/
  | sliceDelivered (slot slice : Nat) (data : List Nat)
  /-- R406: The step record reduction completes at the origin, which carries the verdict next boundary. -/
  | verdictReduceDone (slot flags count tokens loss sqnorm : Nat)
  /-- R487: A command bank handed to the collective engine is posted descriptor by descriptor. -/
  | collBankHandover (die bank : Nat)
  /-- R481: Native broadcast of the root's source to every member. -/
  | bcast (die jobSlot group seq : Nat)
  /-- R481: Native reduce of every member's source to the root. -/
  | reduce (die jobSlot group seq : Nat)
  /-- R482: Reduce to ROOT then broadcast, chunk by chunk. -/
  | allreduce (die jobSlot group seq : Nat)
  /-- R482: Reduce over GROUP then broadcast over GROUP2. -/
  | reduceDeliver (die jobSlot group seq : Nat)
  /-- R482: Broadcast of each root's piece in ascending position. -/
  | allgather (die jobSlot group seq : Nat)
  /-- R482: Reduce with OR where each member contributes its piece. -/
  | gather (die jobSlot group seq : Nat)
  /-- R482: Broadcast where each member writes only its piece. -/
  | scatter (die jobSlot group seq : Nat)
  /-- R482: Reduce of part i to root i for each root. -/
  | reduceScatter (die jobSlot group seq : Nat)
  /-- R492: A HEADER chunk arrives; once all are held the anchor sends HEADER up or the root sends GO. -/
  | headerChunk (link : Nat) (chunk : Chunk)
  /-- R492: A GO chunk arrives, starting the data phase or ending with COLL_MISMATCH. -/
  | goChunk (link : Nat) (chunk : Chunk)
  /-- R495: A data chunk arrives and is combined, forwarded or written. -/
  | dataChunk (link : Nat) (chunk : Chunk)
  /-- R505: An ABORT chunk ends the collective or, with RESTART, restarts it. -/
  | abortChunk (link : Nat) (chunk : Chunk)
  /-- R732: An ENDED chunk arrives; when all are held the anchor sends ENDED up or the root sends FINISH. -/
  | endedChunk (link : Nat) (chunk : Chunk)
  /-- R732: FINISH reaches a member, which ends the collective and writes its completion record. -/
  | finishChunk (link : Nat) (chunk : Chunk)
  /-- R504: Over each 7,000 cycles an engine below 7/8 of link rate reports WAITING. -/
  | collWaitingTick (die : Nat) (below : Bool)
  /-- R538: A member's part of a turn stage ends and its sluice posts the stage record. -/
  | sluicePartDone (slot cause : Nat)
  /-- R538: A stage record completes at the origin, which starts the next stage or fails the turn. -/
  | stageRecordDone (slot : Nat) (words : List Nat)
  /-- R538: STAGE_LIMIT strokes pass without the record and the turn fails with TIMEOUT. -/
  | stageLimitTimeout (slot : Nat)
  /-- R554: A write to a protected page is held while the page is copied to the reserve or sent. -/
  | protectedWrite (die addr : Nat) (data : List Byte)
  /-- R554: A first-touch reserve copy completes and the held write proceeds. -/
  | reserveCopyDone (die page : Nat)
  /-- R553: A protected page is sent to the holder and its protection ends. -/
  | siphonPageSent (slot page : Nat)
  /-- R561: A SECURE_REQUEST control packet at the origin makes a RISK snapshot due. -/
  | secureRequest (slot src estimate : Nat)
  /-- R562: A holder receives BEGIN and marks its slot RECEIVING. -/
  | secureBegin (slot src generation bytes : Nat)
  /-- R562: A sender receives READY and starts sending parts. -/
  | secureReady (slot src generation holdSlot : Nat)
  /-- R562: The last aquifer or store write reading a slot ends and the holder sends READY. -/
  | holdSlotFree (slot holdSlot : Nat)
  /-- R562: A holder receives END and marks the slot HELD once all bytes match. -/
  | secureEnd (slot src generation link bytes : Nat)
  /-- R562: A sender receives HELD and posts its secure record. -/
  | secureHeld (slot src generation holdSlot : Nat)
  /-- R563: The secure record completes at the origin, which attaches COMPLETE or FAILED. -/
  | secureRecordDone (slot : Nat) (words : List Nat)
  /-- R563: 60 s after the arm without a record the origin attaches FAILED with TIMEOUT. -/
  | secureTimeout (slot : Nat)
  /-- R567: A holder's aquifer slot write ends, then the store write may start. -/
  | aquiferSlotWriteDone (slot status : Nat)
  /-- R568: A holder's store write ends with the header last, or with STORE_UNREACHABLE. -/
  | storeSlotWriteDone (slot status : Nat)
  /-- R586: The coordinator receives a REPORT and may declare the subject failed. -/
  | reportReceive (slot src cause subject : Nat)
  /-- R597: A member receives NOTICE, applies detour sets, disables links and sends ACK. -/
  | noticeReceive (slot src attempt coordinator : Nat) (failed : List Nat)
  /-- R598: The coordinator receives an ACK with the holder's slot information. -/
  | ackReceive (slot src attempt flags : Nat) (holdGen aqGen holdStep aqStep : List Nat)
  /-- R586: A member sends no ACK within ACK_LIMIT strokes and is declared failed. -/
  | ackLimitTimeout (slot position : Nat)
  /-- R598: One period after the last ACK the coordinator sends the entry boundary with ENTER. -/
  | recoveryEntryTimer (slot : Nat) (launches : List Launch)
  /-- R594: The next succession position takes the coordinator role and declares the old one failed. -/
  | coordinatorTakeover (slot : Nat)
  /-- R595: No NOTICE within two periods after a cause-3 REPORT; the member reports to the next position. -/
  | reportOriginTimeout (slot : Nat)
  /-- R603: A spare checks a signed TAKEOVER and takes the position, binds the job and sends SPARE_UP. -/
  | takeoverReceive (payload : List Byte)
  /-- R605: When every spare is up the coordinator attaches the TAKEOVER item. -/
  | spareUpReceive (slot src position : Nat)
  /-- R606: When every spare is configured the coordinator attaches RESTORE. -/
  | configuredReceive (slot src result : Nat)
  /-- R609: A holder sends the requested image to the restorer's window. -/
  | fetchReceive (slot src layer holdSlot generation : Nat)
  /-- R611: When all members report restored the coordinator attaches RESUME, else starts a new attempt. -/
  | restoredReceive (slot src result : Nat)
  /-- R637: Every 10 µs the hub measures rails, apportions energy and adjusts priming and cap duty. -/
  | capControlTick (rails : List Nat) (input : Nat)
  /-- R642: A die starts priming on WAITING, an early-complete program or a stall. -/
  | primingStart (die cause activity : Nat)
  /-- R649: Periodically a die's thermal duty falls or rises by 1. -/
  | thermalDutyTick (die temp : Nat)
  /-- R300: Every 7,000 cycles a stack reads its temperature and raises the throttle level. -/
  | stackTempRead (stack temp : Nat)
  /-- R292: A CLEARING segment finishes zeroing and becomes FREE. -/
  | segmentCleared (segment : Nat)
  /-- R313: An aquifer command finishes its extents. -/
  | aqOpDone (index : Nat) (failed : List Nat) (wear spare : Nat)
  /-- R687: A start runs its steps from standpipe start to READY. -/
  | startStep (failCols : List Nat)
  /-- R693: A start fails a check and the standpipe logs its reason and begins the 100 ms wait. -/
  | startFailed (reason detail : Nat)
  /-- R129: The copy of a layout or program image into job memory completes and its digest is checked, ending the command with success or DIGEST_MISMATCH. -/
  | imageCopyDone (slot kind index : Nat)
  /-- R697: An erase, page programming or commit read-back of the image session in the boot NOR flash completes, letting the header be programmed or a deferred reset apply. -/
  | flashOperationDone (ok : Bool)
  /-- R663: Each 50 µs without a CNP raises the queue pair's rate by 1/64 of line rate. -/
  | cnpRateRaise (qp : Nat)
  /-- R665: A PTP event or general message is timestamped and steers the time-receiver clock. -/
  | ptpMessage (kind time : Nat) (offset : Int) (locked : Bool)
  /-- R657: The module answers ARP, neighbour discovery and ICMP echo for its addresses. -/
  | arpNdIcmp (kind : Nat) (addr : List Byte)
  /-- R473: A lane fails in use and the link drops to HALF or NARROW. -/
  | laneFailure (link lane : Nat)
  /-- R188: A column's parity check fails and its output blocks are poisoned for the rest of the instruction. -/
  | columnParityFail (die array unit column row : Nat)
  /-- R574: 600 s after disarming, the risk request re-arms. -/
  | riskRearmTimeout (slot : Nat)
  /-- R643: Each PRIME_SLOPE the prime level falls by 1 after its cause ends. -/
  | primingStepDown (die : Nat)
  /-- R643: Priming lasting PRIME_LIMIT starts its ramp down. -/
  | primeLimitTimeout (die : Nat)
  /-- R626: A die in P1 or P2 wakes on dispatch or access and the access waits the exit time. -/
  | dieWake (die : Nat)
  /-- R635: A regulator raises an over-current, over-temp, under-voltage, phase or input alarm. -/
  | regulatorAlarm (rail alarm value : Nat) (holds : Bool)
  /-- R645: VCORE falls 5 % below nominal and the die runs at half duty for 64 cycles. -/
  | vcoreDroop (die : Nat)
  /-- R300: Every 70,000 cycles below the hysteresis level the throttle level falls by 1. -/
  | stackThrottleDecay (stack : Nat)
  /-- R648: A sensor reaches a critical temperature and the module enters FAILED. -/
  | criticalTemp (sensor temp : Nat)
  /-- R721: Every 1 ms the hub reads coolant sensors and the leak trace. -/
  | coolantSensorTick (inlet outlet : Nat) (wet : Bool)
  /-- R306: Each controller scrubs its memory every 24 hours, correcting or poisoning blocks. -/
  | patrolScrub (addr : Nat) (corrected uncorrectable : Bool)
  /-- R307: A row becomes a repair candidate and soft repair begins, holding its bank. -/
  | rowRepairCandidate (kind unit bank row : Nat)
  /-- R307: A soft row remap completes after 7,000 cycles and held accesses are served. -/
  | softRepairDone (unit : Nat)
  /-- R82: An uncontained fault takes the module to FAILED and DECLARE is sent. -/
  | uncontainedFault (unit : Nat)
  /-- R696: On a wake from P5 the wellhead restarts with the image in flash and memory is cleared. -/
  | p5WakeRestart (reason : Nat)
  /-- R712: A management-bus read of the FRU memory at address 0x50. -/
  | smbFruRead (offset len : Nat)
  /-- R585: A link whose JL_PEER is a member has stayed down for two stroke periods, and the member sends a REPORT of cause LINK_LOST. -/
  | linkLostTimeout (link : Nat)
  /-- R648: An IO die, cistern package or aquifer NAND sensor crosses its throttle start and the lanes, controller or writes are slowed or paused. -/
  | thermalThresholdCrossed (kind unit temp : Nat)
  /-- R661: A RoCEv2 NAK arrives for a module-initiated write or read, and the queue pair retransmits from the NAKed PSN. -/
  | rdmaNakReceive (qp psn cause : Nat)
  /-- R658: An IEEE 802.1Qbb priority flow control frame arrives and pauses or resumes egress on a partition's priority. -/
  | pfcPauseFrame (priority quanta : Nat)
  /-- R187: The 30 ms array self-test started by ARRAY_SELFTEST completes, pending columns are entered and deferred JOB_CREATE may apply. -/
  | selftestDone (failCols : List Nat)
  /-- R55: The wellhead's 256 µs local stroke ends, applying local commands and writing replies and events. -/
  | localStrokeTick
  /-- R713: POWER_BRAKE is taken high; arrays stop within 3 cycles and BRAKE_ACK rises. -/
  | powerBrakeAssert
  /-- R644: POWER_BRAKE is taken low; arrays resume with the start ramp and BRAKE_ACK falls. -/
  | powerBrakeRelease
  /-- R644: 100 µs after brake release the cap loop may raise duty again. -/
  | brakeHoldEnd
  /-- R572: Every 1 ms the module recomputes the risk scores and estimate. -/
  | riskEstimateTick
  /-- R647: Every 1 ms in compatibility mode the hub raises or lowers the clock one step. -/
  | freqStepTick
  /-- R628: A bulk packet addressed to a module in P3 wakes it to P0. -/
  | p3PacketWake
  /-- R718: Input power arrives; soft start ends and the module enters BOOT. -/
  | powerOn
  /-- R717: The input leaves the shutdown limits and the module goes OFF. -/
  | inputShutdown
  /-- R715: RESET_N held low 100 ms takes the module OFF. -/
  | resetNLow
  /-- R715: RESET_N deasserts after a pulse or long hold and the module enters BOOT. -/
  | resetNHigh
  /-- R693: After 100 ms a new start begins, or MINIMAL starts at count 3. -/
  | startWaitEnd
  /-- R694: The minimal service comes up and takes waiting requests. -/
  | minimalServiceUp
  /-- R692: No READY within 30 s of the start fails it with WATCHDOG. -/
  | startWatchdog
  /-- R114: The standpipe finds the wellhead unresponsive, enters FAILED and answers accepted mailboxes. -/
  | wellheadUnresponsive
  /-- R315: The aquifer controller itself fails and the aquifer enters FAILED, after which every aquifer command fails with UNIT_FAULT. -/
  | aquiferControllerFailure
  /-- R699: The identity engine finishes an Ed448 signature after 140,000 cycles, and the waiting TAKEOVER is sent or the ATTEST reply is written. -/
  | identitySignatureDone
  /-- R621: The module or the named dies reach the target power state after the entry or exit time, and the POWER_STATE_SET reply is written. -/
  | powerStateReached
deriving DecidableEq, Repr

end Sys2Proof
end

