-- ==== Sys2Proof/Decode.lean ====
section
/-! DEFINITION. Sys2Proof/Decode.lean: the opcode table gives none of its rows any bits, so no word of the table spells a command.
What a mailbox holds is read by Machine/Requests.lean; the 64-bit instruction words of the vector engines are read here. -/

namespace Sys2Proof

/-- Bits `lo` to `lo + n - 1` of an instruction word. -/
def wordBits (w lo n : Nat) : Nat := (w >>> lo) % 2 ^ n

/-- R249: the fields of a 64-bit instruction word, for the team that executes it. -/
def veFields (die ve team w : Nat) : VeF :=
  { die, ve, team, rd := wordBits w 8 5, ra := wordBits w 13 5, rb := wordBits w 18 5, rc := wordBits w 23 5
    pred := wordBits w 28 3, pneg := w.testBit 31, imm := wordBits w 32 32 }

/-- R268, R275: the operation of ATOM, by IMM 3:0; 8 to 15 are not allowed. -/
def decodeAtom (f : VeF) : Option Instr :=
  match f.imm % 16 with
  | 0 => some (.atomAdd32 f)
  | 1 => some (.atomAdd64 f)
  | 2 => some (.atomSwap32 f)
  | 3 => some (.atomSwap64 f)
  | 4 => some (.atomBset f)
  | 5 => some (.atomBclr f)
  | 6 => some (.atomUmax32 f)
  | 7 => some (.atomUmin32 f)
  | _ => none

/-- R250: the operation of REDUCE, by IMM 1:0; 3 is not allowed. -/
def decodeReduce (f : VeF) : Option Instr :=
  match f.imm % 4 with
  | 0 => some (.reduceFadd f)
  | 1 => some (.reduceFmax f)
  | 2 => some (.reduceIadd f)
  | _ => none

/-- R250: the arithmetic operations, by their code. -/
def decodeArith (opc : Nat) (f : VeF) : Option Instr :=
  match opc with
  | 0x01 => some (.fmaF32 f)
  | 0x02 => some (.addF32 f)
  | 0x03 => some (.mulF32 f)
  | 0x04 => some (.maxF32 f)
  | 0x05 => some (.minF32 f)
  | 0x08 => some (.fmaBf16x2 f)
  | 0x09 => some (.cvt f)
  | 0x0C => some (.divF32 f)
  | 0x0D => some (.sqrtF32 f)
  | 0x0E => some (.expF32 f)
  | 0x0F => some (.logF32 f)
  | 0x10 => some (.iadd f)
  | 0x11 => some (.isub f)
  | 0x12 => some (.imul f)
  | 0x13 => some (.vAnd f)
  | 0x14 => some (.vOr f)
  | 0x15 => some (.vXor f)
  | 0x16 => some (.shl f)
  | 0x17 => some (.shr f)
  | 0x18 => some (.cmp f)
  | 0x19 => some (.sel f)
  | _ => none

/-- R250: the instruction that a code spells; none for a reserved code or an IMM that is not allowed. -/
def decodeOpc (opc : Nat) (f : VeF) : Option Instr :=
  match opc with
  | 0x20 => some (.ld f)
  | 0x21 => some (.st f)
  | 0x22 => decodeAtom f
  | 0x23 => some (.dmaCopy f)
  | 0x24 => some (.fence f)
  | 0x25 => some (.dmaWait f)
  | 0x28 => some (.shfl f)
  | 0x29 => decodeReduce f
  | 0x30 => some (.br f)
  | 0x31 => some (.barE f)
  | 0x32 => some (.exit f)
  | 0x33 => some (.draw f)
  | 0x38 => some (.mxIssue f)
  | 0x39 => some (.mxWait f)
  | 0x3A => some (.spbGive f)
  | 0x3B => some (.spbWait f)
  | 0x3C => some (.getf f)
  | 0x3D => some (.ubase f)
  | _ => decodeArith opc f

/-- R249, R250: the command that a 64-bit instruction word spells when a team of a vector engine executes it. -/
def decodeVe (die ve team w : Nat) : Option Instr := decodeOpc (wordBits w 0 8) (veFields die ve team w)

/-- The command that a word spells by the table's bits: none, because no row of the table has bits. -/
def decodeTableWord (_nbits _w : Nat) : Option Instr := none

end Sys2Proof
end

