-- ==== Sys2Proof/Config.lean ====
section
/-! DEFINITION. Sys2Proof/Config.lean: what Wilron's manual leaves to one module or leaves open. Each constant has no
body, so no statement can rest on a value of it. -/

namespace Sys2Proof.Config

/-- The free values, in the order in which the model draws them (a DESIGN CHOICE of the model: nothing constrains
them). -/
opaque freeNat : Nat → Nat

/-- The sign of a NaN that an operation makes, or that it takes from two NaN operands of different signs: the manual
states none. -/
opaque nanNeg : List FVal → Bool

/-- The sign of the maximum or minimum of a positive and a negative zero: the manual states none. -/
opaque zeroNeg : Bool → Bool → Bool

/-- The uniform base register that ATOM adds to RA, by IMM: R250 gives IMM 3:0 to the operation, and no rule names the
base. -/
opaque atomBase : Nat → Nat

/-- GNORM (0) and the clip factor (1) of a step whose job-wide COUNT is 0, by its SQNORM: R219 and R439 divide by COUNT and
give no result for 0. -/
opaque noCount : Nat → Nat → Nat

/-- The boot ROM's four firmware-signing public keys (R685). -/
opaque fwKey : Nat → List Byte

/-- The Wilron root public key of the boot ROM (R685). -/
opaque rootKey : List Byte

/-- The module's certificate chain of 512 bytes, written at manufacture (R681, R701). -/
opaque certChain : Nat → Byte

/-- The Ed448 signature that the identity engine makes over a payload; the private key never leaves it (R699). -/
opaque identitySign : List Byte → Nat → Byte

/-- ROM_MEAS: SHAKE256 over the boot ROM, fixed for the stepping (R702). -/
opaque romMeas : Nat → Byte

/-- FW_VERSION and SVN of the image the module is shipped with, and the bytes 0 to 1,279 of that image (R683). -/
opaque shippedVersion : Nat
opaque shippedSvn : Nat
opaque shippedHead : Nat → Byte

/-- The port's 48-bit address, written at manufacture (R657). -/
opaque mac : Nat → Byte

/-- FRU memory content (R712), by byte offset. -/
opaque fruByte : Nat → Byte

/-- The segments that a row of a memory touches (R307): memory kind, unit, bank and row. The manual gives no geometry. -/
opaque rowSegments : Nat → Nat → Nat → Nat → List Nat

/-- The 64-byte block of HBM or of the cistern that becomes uncorrectable in a cycle of the reference clock, if any (R304). -/
opaque damage : Nat → Option Nat

/-- The thread that computes a parameter's update, by slice and parameter: the learning program places them (R235). -/
opaque updateThread : Nat → Nat → Nat

/-- What the program images' consumers of scaled output tensors record in a step, by the free-value counter (R210 to R213):
tensor, amax exponent as a signed byte, recomputes of its tiles, and whether it is SATURATED. The manual gives no
program image. -/
opaque tensorSteps : Nat → List (Nat × Nat × Nat × Bool)

/-- The image's loss of a step at a member, by its micro-batches, its working weights and its position: R240 makes it a
function of these, and the image alone gives it (R410). -/
opaque imageLoss : List (List Byte) → List Byte → Nat → Nat

end Sys2Proof.Config
end

