-- ==== Sys2Proof/Machine/Float.lean ====
section
/-! DEFINITION. Sys2Proof/Machine/Float.lean: the formats of R196 to R199, rounding and conversion (R201 to R208), and
correctly rounded arithmetic on exact values (R218, R250, R253). -/

namespace Sys2Proof.Machine

/-- A format of R196: exponent and mantissa bits, bias, the code of the largest finite magnitude, and how it treats
what it cannot hold (R197, R204): 0 like IEEE 754, 1 E4M3, 2 E5M2, 3 an MX element without NaN or infinity. -/
structure Fmt where
  eb : Nat
  mb : Nat
  bias : Int
  top : Nat
  kind : Nat
deriving DecidableEq, Repr

def fp32 : Fmt := { eb := 8, mb := 23, bias := 127, top := 0x7F7FFFFF, kind := 0 }
def bf16 : Fmt := { eb := 8, mb := 7, bias := 127, top := 0x7F7F, kind := 0 }
def fp16 : Fmt := { eb := 5, mb := 10, bias := 15, top := 0x7BFF, kind := 0 }
def e4m3 : Fmt := { eb := 4, mb := 3, bias := 7, top := 0x7E, kind := 1 }
def e5m2 : Fmt := { eb := 5, mb := 2, bias := 15, top := 0x7B, kind := 2 }
def e3m2 : Fmt := { eb := 3, mb := 2, bias := 3, top := 0x1F, kind := 3 }
def e2m3 : Fmt := { eb := 2, mb := 3, bias := 1, top := 0x1F, kind := 3 }
def e2m1 : Fmt := { eb := 2, mb := 1, bias := 1, top := 0x7, kind := 3 }

/-- Bits of an element of a format. -/
def fbits (f : Fmt) : Nat := 1 + f.eb + f.mb

/-- The sign bit of a format. -/
def fsign (f : Fmt) (neg : Bool) : Nat := if neg then 2 ^ (f.eb + f.mb) else 0

/-- The value of a code (R196, R197). -/
def fdec (f : Fmt) (c : Nat) : FVal :=
  let neg := c.testBit (f.eb + f.mb)
  let ex := (c >>> f.mb) % 2 ^ f.eb
  let ma := c % 2 ^ f.mb
  if (f.kind = 0 ∨ f.kind = 2) ∧ ex = 2 ^ f.eb - 1 then (if ma = 0 then .inf neg else .nan neg)
  else if f.kind = 1 ∧ ex = 15 ∧ ma = 7 then .nan neg
  else if ex = 0 then .fin neg ma (1 - f.bias - f.mb)
  else .fin neg (ma + 2 ^ f.mb) (ex - f.bias - f.mb)

/-- The code of a NaN (R204). An MX element has none: R205 gives its block the scale 0xFF. -/
def fnan (f : Fmt) (neg : Bool) : Nat :=
  fsign f neg + (match f.kind with
    | 0 => ((2 ^ f.eb - 1) <<< f.mb) + 2 ^ (f.mb - 1)
    | 1 => 0x7F
    | 2 => 0x7E
    | _ => 0)

/-- The code of an infinity (R204). -/
def finf (f : Fmt) (neg : Bool) : Nat :=
  match f.kind with
  | 0 => fsign f neg + ((2 ^ f.eb - 1) <<< f.mb)
  | 1 => fnan f neg
  | 2 => fsign f neg + 0x7C
  | _ => fsign f neg

/-- What a finite value beyond the range becomes (R204). -/
def fover (f : Fmt) (neg : Bool) : Nat := if f.kind = 0 then finf f neg else fsign f neg + f.top

/-- R201, R202: the magnitude m × 2^e in units of its last place, and the exponent of that place. `sr` is the 16-bit
draw of a stochastic rounding; `none` rounds to nearest even. -/
def froundUnits (f : Fmt) (sr : Option Nat) (m : Nat) (e : Int) : Nat × Int :=
  let q := max ((Nat.log2 m : Int) + e) (1 - f.bias) - f.mb
  if q ≤ e then (m <<< (e - q).toNat, q)
  else
    let sh := (q - e).toNat
    let base := m >>> sh
    let rem := m % 2 ^ sh
    match sr with
    | some d => (if d < rem * 65536 / 2 ^ sh then base + 1 else base, q)
    | none => (if 2 ^ sh < 2 * rem ∨ (2 ^ sh = 2 * rem ∧ base % 2 = 1) then base + 1 else base, q)

/-- The code that a finite value rounds to, and whether it lay beyond the range (R204). -/
def fround (f : Fmt) (sr : Option Nat) (neg : Bool) (m : Nat) (e : Int) : Nat × Bool :=
  if m = 0 then (fsign f neg, false)
  else
    let u := froundUnits f sr m e
    let code := ((u.2 + f.mb + f.bias - 1).toNat <<< f.mb) + u.1
    if f.top < code then (fover f neg, true) else (fsign f neg + code, false)

/-- R204: the conversion of a value into a format, and whether a finite value saturated or became an infinity. -/
def fcvt (f : Fmt) (sr : Option Nat) : FVal → Nat × Bool
  | .nan neg => (fnan f neg, false)
  | .inf neg => (finf f neg, false)
  | .fin neg m e => fround f sr neg m e

/-- rne32 and rne16. -/
def rne32 (v : FVal) : Nat := (fcvt fp32 none v).1
def rne16 (v : FVal) : Nat := (fcvt bf16 none v).1

/-- The value of an FP32 code. -/
def dec32 (c : Nat) : FVal := fdec fp32 c

/-- A value is NaN or infinite. -/
def fvNonfinite : FVal → Bool
  | .fin _ _ _ => false
  | _ => true

/-- A code of a format is NaN or infinite. -/
def codeNonfinite (f : Fmt) (c : Nat) : Bool := fvNonfinite (fdec f c)

/-! ### Exact arithmetic -/

/-- The signed integer m or −m. -/
def signedOf (neg : Bool) (m : Nat) : Int := if neg then -(m : Int) else m

/-- The exact sum. The sum of two zeros is negative only when both are (IEEE 754, rounding to nearest). -/
def fvAdd (a b : FVal) : FVal :=
  match a, b with
  | .nan s, .nan t => .nan (if s = t then s else Config.nanNeg [a, b])
  | .nan s, _ => .nan s
  | _, .nan t => .nan t
  | .inf s, .inf t => if s = t then .inf s else .nan (Config.nanNeg [a, b])
  | .inf s, _ => .inf s
  | _, .inf t => .inf t
  | .fin s m e, .fin t n d =>
    let x := min e d
    let v := signedOf s m * 2 ^ (e - x).toNat + signedOf t n * 2 ^ (d - x).toNat
    if v = 0 then .fin (decide (m = 0 ∧ n = 0) && s && t) 0 x else .fin (decide (v < 0)) v.natAbs x

/-- The exact product. -/
def fvMul (a b : FVal) : FVal :=
  match a, b with
  | .nan s, .nan t => .nan (if s = t then s else Config.nanNeg [a, b])
  | .nan s, _ => .nan s
  | _, .nan t => .nan t
  | .inf s, .inf t => .inf (s != t)
  | .inf s, .fin t n _ => if n = 0 then .nan (Config.nanNeg [a, b]) else .inf (s != t)
  | .fin s m _, .inf t => if m = 0 then .nan (Config.nanNeg [a, b]) else .inf (s != t)
  | .fin s m e, .fin t n d => .fin (s != t) (m * n) (e + d)

/-- The value times a power of two. -/
def fvScale (a : FVal) (k : Int) : FVal :=
  match a with
  | .fin s m e => .fin s m (e + k)
  | x => x

def fvNeg : FVal → FVal
  | .nan s => .nan (!s)
  | .inf s => .inf (!s)
  | .fin s m e => .fin (!s) m e

def fvAbs : FVal → FVal
  | .nan _ => .nan false
  | .inf _ => .inf false
  | .fin _ m e => .fin false m e

/-- a < b for values that are not NaN; zeros are equal. -/
def fvLt (a b : FVal) : Bool :=
  match a, b with
  | .nan _, _ => false
  | _, .nan _ => false
  | .inf s, .inf t => s && !t
  | .inf s, .fin _ _ _ => s
  | .fin _ _ _, .inf t => !t
  | .fin s m e, .fin t n d =>
    let x := min e d
    decide (signedOf s m * 2 ^ (e - x).toNat < signedOf t n * 2 ^ (d - x).toNat)

/-- floor(log2 |a|) of a finite value that is not zero. -/
def fvLog2 : FVal → Int
  | .fin _ m e => (Nat.log2 m : Int) + e
  | _ => 0

/-- The value is a zero. -/
def fvZero : FVal → Bool
  | .fin _ m _ => decide (m = 0)
  | _ => false

/-- A quotient to more bits than any format has, its last bit set when the division leaves a rest; it rounds as the
exact quotient does. -/
def fvDiv (a b : FVal) : FVal :=
  match a, b with
  | .nan s, .nan t => .nan (if s = t then s else Config.nanNeg [a, b])
  | .nan s, _ => .nan s
  | _, .nan t => .nan t
  | .inf _, .inf _ => .nan (Config.nanNeg [a, b])
  | .inf s, .fin t _ _ => .inf (s != t)
  | .fin s _ _, .inf t => .fin (s != t) 0 0
  | .fin s m e, .fin t n d =>
    if n = 0 then (if m = 0 then .nan (Config.nanNeg [a, b]) else .inf (s != t))
    else
      let k := 128 + Nat.log2 n
      let q := (m <<< k) / n
      .fin (s != t) (2 * q + (if (m <<< k) % n = 0 then 0 else 1)) (e - d - k - 1)

/-- The integer square root, from bit `b` down. -/
def isqrtFrom : Nat → Nat → Nat → Nat
  | 0, _, r => r
  | b + 1, n, r => isqrtFrom b n (if (r + 2 ^ b) * (r + 2 ^ b) ≤ n then r + 2 ^ b else r)

/-- A square root to more bits than any format has, its last bit set when it is not exact. -/
def fvSqrt (a : FVal) : FVal :=
  match a with
  | .nan s => .nan s
  | .inf s => if s then .nan (Config.nanNeg [a]) else .inf false
  | .fin s m e =>
    if m = 0 then a
    else if s then .nan (Config.nanNeg [a])
    else
      let odd := (e % 2).toNat
      let n := m <<< (128 + odd)
      let r := isqrtFrom 100 n 0
      .fin false (2 * r + (if r * r = n then 0 else 1)) ((e - odd) / 2 - 65)

/-! ### e^x and ln x (R253) -/

/-- Fractional bits of the fixed-point evaluation: far more than the 24 + 64 that decide an FP32 rounding (PRESUMED, log
entry 10). -/
def fixBits : Nat := 256

/-- ln 2. -/
def ln2Fix : Nat := ((List.range 330).foldl (fun s k => s + 2 ^ 330 / ((k + 1) * 2 ^ (k + 1))) 0) >>> (330 - 256)

/-- The sum of the exponential series of `r`, from term `k`. -/
def expSeries (r : Nat) : Nat → Nat → Nat → Nat → Nat
  | 0, _, _, s => s
  | fuel + 1, k, t, s => expSeries r fuel (k + 1) (t * r / (k * 2 ^ fixBits)) (s + t)

/-- e^x for finite x that is not zero, its last bit always set: the value is never a dyadic number. -/
def expFin (neg : Bool) (m : Nat) (e : Int) : FVal :=
  if 8 < (Nat.log2 m : Int) + e then (if neg then .fin false 1 (-400) else .fin false 1 400)
  else
    let x := signedOf neg (m <<< (e + fixBits).toNat)
    let k := x / ln2Fix
    let r := (x - k * ln2Fix).toNat
    .fin false (2 * expSeries r 80 1 (2 ^ fixBits) 0 + 1) (k - fixBits - 1)

/-- exp of R253. -/
def fvExp : FVal → FVal
  | .nan s => .nan s
  | .inf s => if s then .fin false 0 0 else .inf false
  | .fin s m e => if m = 0 then .fin false 1 0 else expFin s m e

/-- The series z + z³/3 + z⁵/5 + …; `t` is the power and `k` its exponent. -/
def atanhSeries (z2 : Nat) : Nat → Nat → Nat → Nat → Nat
  | 0, _, _, s => s
  | fuel + 1, k, t, s => atanhSeries z2 fuel (k + 2) (t * z2 / 2 ^ fixBits) (s + t / k)

/-- ln of a positive finite value that is not zero. -/
def logFin (m : Nat) (e : Int) : FVal :=
  let t := Nat.log2 m
  let c := if m * m < 2 ^ (2 * t + 1) then t else t + 1
  let den := m + 2 ^ c
  let z := ((if 2 ^ c ≤ m then m - 2 ^ c else 2 ^ c - m) <<< fixBits) / den
  let a := 2 * atanhSeries (z * z / 2 ^ fixBits) 70 1 z 0
  let v := signedOf (decide (m < 2 ^ c)) a + (e + c) * ln2Fix
  if m = 2 ^ c ∧ e + c = 0 then .fin false 0 0 else .fin (decide (v < 0)) (2 * v.natAbs + 1) (-(fixBits : Int) - 1)

/-- log of R253. -/
def fvLog : FVal → FVal
  | .nan s => .nan s
  | .inf s => if s then .nan false else .inf false
  | .fin s m e => if m = 0 then .inf true else if s then .nan false else logFin m e

/-! ### Scales (R198, R205 to R208) -/

/-- The exponent of an E8M0 scale; `none` for NaN (R198). -/
def scaleExp (b : Nat) : Option Int := if b = 255 then none else some ((b : Int) - 127)

/-- The largest element exponent (R205). -/
def emaxOf (f : Fmt) : Int := if f = e4m3 then 8 else if f = e5m2 then 15 else if f = e3m2 then 4 else 2

/-- The largest magnitude of a list of finite values. -/
def fvMaxAbs (l : List FVal) : FVal := l.foldl (fun a v => if fvLt a (fvAbs v) then fvAbs v else a) (.fin false 0 0)

def clampInt (lo hi x : Int) : Int := max lo (min hi x)

/-- R205: the scale byte and the elements of a block. -/
def quantBlock (f : Fmt) (l : List FVal) : Nat × List Nat :=
  if l.any fvNonfinite then (255, l.map (fun _ => 0))
  else
    let a := fvMaxAbs l
    let e := clampInt (-127) 127 (if fvZero a then -127 else fvLog2 a - emaxOf f)
    ((e + 127).toNat, l.map (fun v => (fcvt f none (fvScale v (-e))).1))

/-- R206: the scale exponent of a weight tile, from its finite values. -/
def tileExp (f : Fmt) (l : List FVal) : Int :=
  let a := fvMaxAbs (l.filter (fun v => !fvNonfinite v))
  if fvZero a then -64 else clampInt (-64) 63 (fvLog2 a - emaxOf f)

/-- R206: an element of a weight tile. -/
def tileElem (f : Fmt) (e : Int) (v : FVal) : Nat := (fcvt f none (fvScale v (-e))).1

/-- R207: the first scale exponent of a KV channel. -/
def kvScale (f : Fmt) (v : FVal) : Int := if fvZero v then -127 else clampInt (-127) 127 (fvLog2 v - emaxOf f + 2)

/-- A value quantises within the format under a scale exponent. -/
def kvFits (f : Fmt) (v : FVal) (x : Int) : Bool := !(fcvt f none (fvScale v (-x))).2

/-- R208: the smallest exponent from `x` up under which a value fits. -/
def kvRaise (f : Fmt) (v : FVal) : Nat → Int → Int
  | 0, x => x
  | fuel + 1, x => if kvFits f v x then x else kvRaise f v fuel (x + 1)

/-- R208: a stored entry under a raised scale. -/
def kvRescale (f : Fmt) (old new : Int) (c : Nat) : Nat := (fcvt f none (fvScale (fdec f c) (old - new))).1

/-! ### Philox (R230) -/

/-- One round of the generator. -/
def philoxRound (x : Nat × Nat × Nat × Nat × Nat × Nat) : Nat × Nat × Nat × Nat × Nat × Nat :=
  match x with
  | (c0, c1, c2, c3, k0, k1) =>
    let p0 := 0xD2511F53 * c0
    let p1 := 0xCD9E8D57 * c2
    (((p1 >>> 32) ^^^ c1 ^^^ k0) % 2 ^ 32, p1 % 2 ^ 32, ((p0 >>> 32) ^^^ c3 ^^^ k1) % 2 ^ 32, p0 % 2 ^ 32,
      (k0 + 0x9E3779B9) % 2 ^ 32, (k1 + 0xBB67AE85) % 2 ^ 32)

/-- The four output words. -/
def philox (c0 c1 c2 c3 k0 k1 : Nat) : List Nat :=
  match (List.range 10).foldl (fun x _ => philoxRound x) (c0, c1, c2, c3, k0, k1) with
  | (a, b, c, d, _, _) => [a, b, c, d]

/-! ### The update of a parameter (R199, R218 to R222) -/

/-- The exponent of ulp32 of an FP32 value (R199). -/
def ulpExp32 (c : Nat) : Int := max (((c >>> 23) % 256 : Nat) : Int) 1 - 127 - 23

/-- FP32 operations on codes, each rounded once. -/
def mul32 (a b : Nat) : Nat := rne32 (fvMul (dec32 a) (dec32 b))
def add32 (a b : Nat) : Nat := rne32 (fvAdd (dec32 a) (dec32 b))
def sub32 (a b : Nat) : Nat := rne32 (fvAdd (dec32 a) (fvNeg (dec32 b)))
def div32 (a b : Nat) : Nat := rne32 (fvDiv (dec32 a) (dec32 b))
def sqrt32 (a : Nat) : Nat := rne32 (fvSqrt (dec32 a))
def exp32 (a : Nat) : Nat := rne32 (fvExp (dec32 a))
def log32 (a : Nat) : Nat := rne32 (fvLog (dec32 a))
def scale32 (a : Nat) (k : Int) : Nat := rne32 (fvScale (dec32 a) k)
def addSr32 (a b d : Nat) : Nat := (fcvt fp32 (some d) (fvAdd (dec32 a) (dec32 b))).1

/-- A natural number in FP32. -/
def nat32 (n : Nat) : Nat := rne32 (.fin false n 0)

/-- A quotient by a count, rounded once. -/
def divNat32 (a n : Nat) : Nat := rne32 (fvDiv (dec32 a) (.fin false n 0))

/-- What an update step uses (R218, R219): b1, b2, eps, wd, lr, the loss-scale exponent, the count, and clip. -/
structure AdamEnv where
  b1 : Nat
  b2 : Nat
  eps : Nat
  wd : Nat
  lr : Nat
  lsExp : Nat
  count : Nat
  clip : Nat
  t : Nat
deriving DecidableEq, Repr

/-- 1 − b (R219). -/
def oneMinus (b : Nat) : Nat := rne32 (fvAdd (.fin false 1 0) (fvNeg (dec32 b)))

/-- 1 − b^t, from the exact power, rounded once (R219). -/
def oneMinusPow (b t : Nat) : Nat :=
  match dec32 b with
  | .fin s m e => rne32 (fvAdd (.fin false 1 0) (fvNeg (.fin (s && decide (t % 2 = 1)) (m ^ t) (e * t))))
  | v => rne32 (fvAdd (.fin false 1 0) (fvNeg v))

/-- R219: the clip factor. -/
def clipFactor (maxNorm s lsExp count : Nat) : Nat :=
  let c : FVal := .fin false count 0
  -- the quotient by count and the sum are exact: one rounding
  let n := rne32 (fvDiv (fvAdd (dec32 (scale32 (sqrt32 s) (-(lsExp : Int)))) (fvMul (dec32 0x358637BD) c)) c)
  let q := div32 maxNorm n
  if fvLt (dec32 q) (.fin false 1 0) then q else 0x3F800000

/-- R218: new moments m and v, and the master's change, from gradient sum, moments, master weight and two draws. -/
def adamStep (a : AdamEnv) (gsum m v w d1 d2 : Nat) : Nat × Nat × Nat :=
  let g := mul32 (divNat32 (scale32 gsum (-(a.lsExp : Int))) a.count) a.clip
  let m' := addSr32 (mul32 a.b1 m) (mul32 (oneMinus a.b1) g) d1
  let v' := addSr32 (mul32 a.b2 v) (mul32 (oneMinus a.b2) (mul32 g g)) d2
  let mh := div32 m' (oneMinusPow a.b1 a.t)
  let vh := div32 v' (oneMinusPow a.b2 a.t)
  let dn := add32 (sqrt32 vh) a.eps
  let dl := add32 (div32 mh dn) (mul32 a.wd w)
  (m', v', rne32 (fvNeg (fvMul (dec32 a.lr) (dec32 dl))))

/-- R220: the master weight and remainder after a change, and whether the update was held. -/
def masterUpdate (w : Nat) (q : Int) (dl : Nat) : Nat × Int × Bool :=
  let u := ulpExp32 w
  let t := fvAdd (fvAdd (dec32 w) (.fin (decide (q < 0)) q.natAbs (u - 16))) (dec32 dl)
  let wn := rne32 t
  match dec32 wn, fvAdd t (fvNeg (dec32 wn)) with
  | .fin _ _ _, .fin s m e =>
    let x := e - ulpExp32 wn + 16
    let n := if 0 ≤ x then m <<< x.toNat
      else
        let sh := (-x).toNat
        let base := m >>> sh
        let rem := m % 2 ^ sh
        if 2 ^ sh < 2 * rem ∨ (2 ^ sh = 2 * rem ∧ base % 2 = 1) then base + 1 else base
    (wn, clampInt (-32768) 32767 (signedOf s n), false)
  | _, _ => (w, q, true)

end Sys2Proof.Machine
end

