-- ==== Sys2Proof/Machine/State.lean ====
section
/-! DEFINITION. Sys2Proof/Machine/State.lean: every piece of state the manual gives the module, as plain data,
and the state right after a module reset. Large families of like things (memory bytes, registers of 384 arrays,
32,768 flag-table entries) are canonical sparse tables; see `Tab`. -/

namespace Sys2Proof.Machine

/-- A sparse table: pairs of key and value with rising keys; a key that is not listed reads as the table's default.
The operations and the canonical form are in Machine/Ops.lean. -/
abbrev Tab (α : Type) := List (Nat × α)

/-- R82: the module states, with the codes of the state table. -/
inductive ModuleState where
  | off | boot | minimal | ready | active | quiesced | failed
deriving DecidableEq, Repr

/-- R86: the job phases. -/
inductive Phase where
  | idle | generate | learn | turning | recovering | halted
deriving DecidableEq, Repr

/-- JOB_STATUS HALT_CAUSE (R86). -/
inductive HaltCause where
  | none | commanded | recoveryFailed
deriving DecidableEq, Repr

/-- An express flit as the module sends it (R455). -/
inductive Flit where
  | boundary (tree natt count : Nat) (stretched first : Bool)
  | stretch (tree stretches count : Nat)
  | vote (tree count : Nat) (vote : Bool) (lowest voters : Nat)
  | join (tree joined : Nat)
  | attach (tree index : Nat) (data : List Byte)
  | declare (position reason : Nat)
deriving DecidableEq, Repr

/-- What the module has sent to the outside, in order: RDMA traffic to the host, flits, chunks and packets on links,
and replies on the other interfaces. A model's own list of outputs, not a register. -/
inductive Out where
  | hostWrite (qp addr rkey : Nat) (data : List Byte)
  | hostRead (qp addr rkey len : Nat)
  | readData (qp : Nat) (data : List Byte)
  | rdmaNak (qp : Nat)
  | retransmit (qp psn : Nat)
  | cnp (qp : Nat)
  | cmRep (qp partition : Nat)
  | cmReject (partition : Nat)
  | netAnswer (kind : Nat) (addr : List Byte)
  | ptpDelayReq
  | flit (link : Nat) (f : Flit)
  /-- the fields of the next frame's header besides its SEQ and its flit space: ACK, NAK, CREDIT_VC, CREDIT, WIDE_REQ, and the pair kept
  under DROP_PAIR (R448) -/
  | header (link ack : Nat) (nak : Bool) (creditVc credit : Nat) (wideReq : Bool) (keep : Option Nat)
  | identity (position : Nat)
  | replay (link seq : Nat)
  | chunk (link : Nat) (c : Chunk)
  | packet (link : Nat) (p : Packet)
  | siphonPage (slot page : Nat) (poisoned : Bool)
  | noRoute (dest : Nat)
  | slice (slot slice : Nat) (data : List Nat)
  | record (slot kind : Nat) (words : List Nat)
  | fruData (data : List Byte)
deriving DecidableEq, Repr

/-! ### Control path (03) -/

/-- One flag-table entry (R119). The default is a FREE entry as R118 writes it. -/
structure Flag where
  owner : Nat := 0
  part : Nat := 0
  kind : Nat := 0
  jobSlot : Nat := 0xFF
  notify : Nat := 0
  addr : Nat := 0
  fill : Nat := 0
  tag : Nat := 0
  handoffs : Nat := 0
  stroke : Nat := 0
  strokeKind : Nat := 0
deriving DecidableEq, Repr

/-- A registered event area (EVENT_AREA_SET). -/
structure AreaReg where
  addr : Nat
  rkey : Nat
  slots : Nat
  cAddr : Nat
  cRkey : Nat
  qp : Nat
deriving DecidableEq, Repr

/-- One event before it is written (R133). -/
structure Event where
  etype : Nat
  part : Nat
  strokeKind : Nat := 0
  jobId : Nat := 0
  stroke : Nat := 0
  status : Nat := 0
  payload : List Byte := []
deriving DecidableEq, Repr

/-- The event area of one partition (R132 to R136): registration, next EVENT_SEQ, the copy of C, the records held
until there is room, and the count for LOST. -/
structure Area where
  reg : Option AreaReg := none
  nextSeq : Nat := 1
  consumer : Nat := 0
  /-- the copy of C has not been read since the registration took effect (R142) -/
  fresh : Bool := false
  held : List Event := []
  lost : Nat := 0
deriving DecidableEq, Repr

/-- A request accepted and waiting for its boundary (R74): the command, its mailbox, the stream that times it
(`none`: the local stroke) and the stroke of acceptance. -/
structure Accepted where
  cmd : Instr
  mb : Nat
  slot : Option Nat
  stroke : Nat
deriving DecidableEq, Repr

/-- A reply that is committed and waits for the stroke end that writes it (R79): the stream that times it, the
strokes of acceptance and of commitment, and whether a stretched stroke turns success into STROKE_STRETCH (R73). -/
structure Reply where
  mb : Nat
  status : Nat
  body : List Byte
  /-- stream and stroke whose end writes the reply -/
  slot : Option Nat
  due : Nat
  kind : Nat
  accept : Nat
  done : Nat
  stretch : Bool
  jobId : Nat
  /-- the stroke at whose boundary the command was applied (R114, R728) -/
  applied : Nat := 0
  /-- a stroke of the stream that the command's effect spans was stretched (R73) -/
  spanned : Bool := false
deriving DecidableEq, Repr

/-- What a long command's reply waits for. A cap or a share carries the cycle at which it took effect (R641). -/
inductive WaitFor where
  | capSettle (at' : Nat) | capOld | shareSettle (partition at' : Nat) | powerState | selftest | flash | signature | imageCopy (slot kind : Nat)
  | aqOp
deriving DecidableEq, Repr

/-- A command that has taken effect and whose reply waits for a condition other than a boundary. -/
structure Wait where
  why : WaitFor
  reply : Reply
deriving DecidableEq, Repr

/-- A bucket held by a command or an engine, or finished and due to return at its next stroke end (R129). -/
structure BucketHold where
  bucket : Nat
  mb : Nat
  /-- the holder has finished in this stroke of the stream that timed the bucket then, at whose end the bucket returns -/
  due : Option (Option Nat × Nat) := none
  /-- `some (n, t)`: the module wrote the bucket, and FILL becomes n and TAG t; `none`: it was only read -/
  fill : Option (Nat × Nat) := none
deriving DecidableEq, Repr

/-- The control path: windows, flags, event areas, requests in progress (03). -/
structure Ctl where
  /-- control window bytes (R95), default 0 -/
  cw : Tab Byte := []
  /-- flag table (R117), default FREE; entry 0 is fixed by R117 -/
  flags : Tab Flag := []
  /-- MBX_DROP and BKT_DROP of WH_CW_VIOL per partition (R147) -/
  mbxDrop : Tab Nat := []
  bktDrop : Tab Nat := []
  /-- buckets that have raised a violation in the present local stroke (R122) -/
  violated : List Nat := []
  areas : Tab Area := []
  /-- mailbox flips landed and not yet reported (R104) -/
  flips : List Nat := []
  /-- bucket flips that have not taken effect yet for the engines (R126) -/
  bucketFlips : List Nat := []
  accepted : List Accepted := []
  /-- job-wide requests that wait at the origin for a later stroke (R75) -/
  waiting : List Accepted := []
  replies : List Reply := []
  waits : List Wait := []
  holds : List BucketHold := []
  /-- events bound to a stroke that wait for its end: `none` local, `some j` the stream of job slot j (R81) -/
  evq : List (Option Nat × Event) := []
  localStroke : Nat := 0
deriving DecidableEq, Repr

/-! ### Matrix arrays (04) -/

/-- A 32-byte matrix descriptor (R157, R158) as its four words. -/
structure Desc where
  w0 : Nat := 0
  w1 : Nat := 0
  w2 : Nat := 0
  w3 : Nat := 0
deriving DecidableEq, Repr

/-- The three completion flags of R166. -/
structure Flags3 where
  ovf : Bool := false
  nonfinite : Bool := false
  poison : Bool := false
deriving DecidableEq, Repr

/-- Where a released instruction stands (R172, R176, R178): its shape is not the array's yet, its weight buffer is filling, it is
filled, or all its rows are in and its last write is not yet acknowledged. -/
inductive RelStage where
  | shape | filling | filled | streamed
deriving DecidableEq, Repr

/-- A released instruction: its sub-unit and descriptor, the weight buffer with the poison its fill met (R153, R167), and
the flags of its rows. -/
structure Rel where
  unit : Nat
  d : Desc
  stage : RelStage := .filling
  weights : List Byte := []
  poison : Bool := false
  flags : Flags3 := {}
  /-- it ended without a row: its gang's instructions differ (R180) -/
  void : Bool := false
deriving DecidableEq, Repr

/-- One matrix array (R191 to R194 and the queue, buffers and counts of R150, R156). -/
structure MArray where
  width : Nat := 256
  bad : List Nat := []
  pend : Option Nat := none
  shape : Nat := 0
  queue : List Desc := []
  /-- released and not complete, in the order of release (two weight buffers per sub-unit) -/
  held : List Rel := []
  /-- the flags of the completed instructions of each sub-unit in order, since the dispatch (R166, R256) -/
  done : Tab (List Flags3) := []
  sticky : Flags3 := {}
  parity : Bool := false
  zeroRead : Bool := false
  braked : Bool := false
  gangMismatch : Bool := false
  lastTag : Nat := 0
  active : Nat := 0
  parityCount : Nat := 0
  lastCol : Nat := 0
  refused : Nat := 0
  /-- columns that failed parity in this stroke (R189) -/
  failedCols : List Nat := []
  job : Option Nat := none
  /-- the activity ramp: rows were admitted and the array has not stopped since (R181, R182) -/
  ramped : Bool := false
  /-- MA_ACTIVE at the start of the present run of cycles with rows in the cells, and for each sub-unit at the cycle that can
  admit its next row (R171, R193) -/
  runFrom : Nat := 0
  nextRow : Tab Nat := []
deriving DecidableEq, Repr

/-! ### Vector engines, scratchpad, DMA (06) -/

/-- Why a team does not issue. -/
inductive TeamWait where
  | ready | barrier | handover (bank : Nat)
deriving DecidableEq, Repr

/-- One running team (R245, R246): 64 threads with V, P, U registers, poison bits and sticky flags. -/
structure Team where
  job : Nat := 0
  pc : Nat := 0
  /-- what the registers hold before the team writes them: free values from this number on -/
  start : Nat := 0
  /-- V registers written since the start, key = lane * 32 + register -/
  v : Tab Word := []
  /-- poison bits beside the V registers, same keys (R257) -/
  vp : Tab Bool := []
  /-- predicates written, key = lane * 8 + register; P0 always reads 1 -/
  p : Tab Bool := []
  u : Tab Nat := []
  flags : Flags3 := {}
  wait : TeamWait := .ready
  /-- registers that a buffered atomic will write at the commit (R271), as register numbers -/
  atomRegs : List Nat := []
deriving DecidableEq, Repr

/-- One entry of an atomic buffer (R269). -/
structure AtomOp where
  team : Nat
  lane : Nat
  addr : Nat
  op : Nat
  operand : Nat
  rd : Nat
  job : Nat
  poison : Bool
  /-- number of its instruction among those of the job in the buffer -/
  no : Nat := 0
deriving DecidableEq, Repr

/-- One vector engine (R283, R284). A team that is listed runs. -/
structure VEngine where
  teams : Tab Team := []
  atoms : List AtomOp := []
  /-- ATOM_USED by job slot: 64 entries for each buffered ATOM (R269, R283) -/
  atomUsed : Tab Nat := []
  sticky : Flags3 := {}
  atomFull : Bool := false
  atomTarget : Bool := false
  illegal : Bool := false
  active : Nat := 0
  /-- job slot served last, for the energy account (R633) -/
  job : Option Nat := none
deriving DecidableEq, Repr

/-- One scratchpad bank's registers (R281, R282) and its pending handover. -/
structure Bank where
  owner : Nat := 0xFF
  jobSlot : Nat := 0
  jobValid : Bool := false
  giver : Nat := 0
  giverValid : Bool := false
  /-- new owner, and the vector engine and team that wait (R263) -/
  pending : Option (Nat × Nat × Nat) := none
  /-- SPB_OWNER as the wellhead has written it, until that handover takes effect (R262 item 4, R263) -/
  written : Option Nat := none
  /-- the engine that holds the bank as a possible command bank has not yet read its header (R331, R487) -/
  fresh : Bool := false
  count : Nat := 0
  lastReq : Nat := 0
  lastCause : Nat := 0
  /-- BANK_FAULT already raised in this stroke (R261) -/
  faulted : Bool := false
deriving DecidableEq, Repr

/-- A queued DMA copy (R267). -/
structure DmaOp where
  src : Nat
  dst : Nat
  bytes : Nat
  ve : Nat
  team : Nat
  job : Nat
deriving DecidableEq, Repr

/-- One DMA engine of a die. -/
structure Dma where
  queue : List DmaOp := []
  /-- one entry for each completed copy since the dispatch: it met poison -/
  done : List Bool := []
  /-- the job slot whose program it serves (R256, R267) -/
  job : Option Nat := none
deriving DecidableEq, Repr

/-- One posted lane operation at a shared cache (R275). -/
structure Posted where
  addr : Nat
  op : Nat
  operand : Nat
  die : Nat
  ve : Nat
  team : Nat
  job : Nat
  poison : Bool
deriving DecidableEq, Repr

/-! ### Attention, KV pages, atomiser (08, 09) -/

/-- A command bank an engine holds: bank, job slot, next descriptor, count (R331). -/
structure CmdBank where
  bank : Nat
  job : Nat
  next : Nat
  count : Nat
  done : Nat := 0
  failed : Nat := 0
  /-- sequences whose later descriptors are skipped (R336) -/
  skip : List Nat := []
deriving DecidableEq, Repr

/-- The attention engine of a die (R357, R358). -/
structure Att where
  banks : List CmdBank := []
  badBatch : Bool := false
  nonfinite : Bool := false
  poison : Bool := false
  empty : Bool := false
  cold : Bool := false
  lastTag : Nat := 0
  active : Nat := 0
  /-- job slot served last (R633) -/
  job : Option Nat := none
  /-- pages of the head descriptor, a PROMOTE or DEMOTE, that still move (R335, R355) -/
  moves : List Nat := []
deriving DecidableEq, Repr

/-- The atomiser of a die (R401). -/
structure Atm where
  banks : List CmdBank := []
  badBatch : Bool := false
  nonfinite : Bool := false
  poison : Bool := false
  noToken : Bool := false
  lastTag : Nat := 0
  active : Nat := 0
  /-- job slot served last (R633) -/
  job : Option Nat := none
  samples : Nat := 0
deriving DecidableEq, Repr

/-- STATE of a page-table entry (R346). -/
inductive PageState where
  | free | inUse | moving | retiring
deriving DecidableEq, Repr

/-- A page-table entry (R346); an entry that is not listed is FREE. -/
structure Page where
  frame : Nat
  cistern : Bool := false
  ref : Nat := 0
  pin : Nat := 0
  fill : Nat := 0
  st : PageState := .inUse
  moveTo : Option (Bool × Nat) := none
deriving DecidableEq, Repr

/-- One job's KV pool on one die (R343 to R346, R353, R359, R360). -/
structure KvPool where
  desc : PoolDesc
  /-- base addresses of the HBM frames in the two stacks and of the cistern frames in the four packages (R729) -/
  hbmBase : List Nat
  cisBase : List Nat
  /-- base address of the page table, which the sequence maps and the length table follow (R344) -/
  tableBase : Nat := 0
  pages : Tab Page := []
  /-- frames that a move left in this stroke, cistern or not, and that return at its end (R353, R355) -/
  oldFrames : List (Bool × Nat) := []
  /-- sequence maps: key L * MAX_PAGES + i, value page number + 1 -/
  map : Tab Nat := []
  len : Tab Nat := []
  copies : Nat := 0
  coldReads : Nat := 0
  noPage : Nat := 0
  noPageReg : Nat := 0
  countFault : Nat := 0
  /-- KV_POOL_LOW has been raised and FREE_HBM has not risen since -/
  low : Bool := false
deriving DecidableEq, Repr

/-- A generation request (R367, R368). -/
structure Request where
  reqId : Nat
  promptLen : Nat
  maxNew : Nat
  tincture : Nat
  tversion : Nat
  shareReq : Nat
  shareLen : Nat
  temp : Nat
  topP : Nat
  minP : Nat
  repPen : Nat
  freqPen : Nat
  presPen : Nat
  topK : Nat
  penWindow : Nat
  flags : Nat
  stop : List Nat
  prompt : List Nat
  bias : List (Nat × Nat)
  mask : List Byte
  bytes : Nat
  /-- the service's copy of the request carries a poison mark (R380) -/
  poison : Bool := false
deriving DecidableEq, Repr

/-- STATE of SEQ_CTX (R399). -/
inductive SeqState where
  | free | waitShare | prefill | decode
deriving DecidableEq, Repr

/-- The sample a slot holds for the round (R377, R380): a token with its log-probability, or the code it ended with. -/
inductive Sampled where
  | none | token (t logprob : Nat) | ended (result : Nat)
deriving DecidableEq, Repr

/-- One hardware sequence context (R399, R400) with the service's context of the slot. -/
structure SeqCtx where
  st : SeqState := .free
  cancel : Bool := false
  cancelStroke : Nat := 0
  retry : Nat := 0
  restoreWait : Bool := false
  jobSlot : Nat := 0
  tslot : Option Nat := none
  reqId : Nat := 0
  length : Nat := 0
  generated : Nat := 0
  req : Option Request := none
  tokens : List Nat := []
  /-- rows this round, and whether the last prompt position falls in it (R363) -/
  rows : Nat := 0
  samples : Bool := false
  sampled : Sampled := .none
  /-- list length and generator entry at the round's opening (R393) -/
  openLen : Nat := 0
  openGen : Nat × Nat := (0, 0)
  /-- attention ended POISONED or an append ended NO_PAGE in this round -/
  attPoison : Bool := false
  kvFull : Bool := false
  nonfinite : Bool := false
  saturated : Bool := false
  retried : Bool := false
  endPoisoned : Bool := false
  newMask : Option (List Byte × Bool) := none
  admitRound : Nat := 0
  /-- poisoned blocks this sequence waits for (R393) -/
  waitBlocks : List Nat := []
deriving DecidableEq, Repr

/-- State of a tincture version (R387 to R391). -/
inductive TinctState where
  | loading | current | retired
deriving DecidableEq, Repr

/-- One entry of the tincture table, 0 to 511. -/
structure Tincture where
  job : Nat
  id : Nat
  version : Nat
  st : TinctState := .loading
  pins : Nat := 0
  /-- the stroke of the job at whose end a retired version is freed (R365 item 2, R391) -/
  freeAt : Option Nat := none
  image : List Byte := []
  mb : Nat := 0
  /-- the copy has completed with this status, and the change is due at a boundary -/
  outcome : Option Nat := none
deriving DecidableEq, Repr

/-- A job's generation configuration and service state (R362 to R403). -/
structure Gen where
  rows : Nat := 0
  roundStrokes : Nat := 0
  vocab : Nat := 0
  eos : Nat := 0
  context : Nat := 0
  queueMax : Nat := 0
  storeBytes : Nat := 0
  outFirst : Nat := 0
  outCount : Nat := 0
  outNext : Nat := 0
  pool : PoolDesc := {}
  round : Nat := 0
  roundStroke : Nat := 0
  /-- strokes of the round still to run, the current one included; 0: no round is open -/
  left : Nat := 0
  queue : List Request := []
  /-- records of a commit that wait for an output bucket (R384) -/
  held : Option (List Byte) := none
  heldStrokes : Nat := 0
  /-- end records of requests whose tincture did not resolve, for the commit of the open round (R372) -/
  endRecs : List (Nat × List Byte) := []
  tokens : Nat := 0
  withdrawn : Nat := 0
  restored : Nat := 0
  /-- weight blocks whose restoration failed (R395) -/
  badBlocks : List Nat := []
deriving DecidableEq, Repr

/-! ### Numerics and learning (05, 10) -/

/-- An amax history (R243). -/
structure Hist where
  head : Nat := 0
  hist : List Nat := List.replicate 16 0
deriving DecidableEq, Repr

/-- A job's numeric state on this member (R241); the generator table holds (N, I) per thread index (R232). -/
structure Numerics where
  lsExp : Nat := 16
  lsGrowth : Nat := 2000
  finiteRun : Nat := 0
  adamStep : Nat := 0
  skipped : Nat := 0
  recomputes : Nat := 0
  saturated : Nat := 0
  masterOverflow : Nat := 0
  hists : Tab Hist := []
  gens : Tab (Nat × Nat) := []
deriving DecidableEq, Repr

/-- A micro-batch as fed (R409). -/
structure MicroBatch where
  step : Nat
  index : Nat
  rows : Nat
  seqs : List (Nat × Nat)
  tokens : List (Nat × Nat × Nat × Nat)
  raw : List Byte
deriving DecidableEq, Repr

/-- WH_STAGE and the item bookkeeping of one pipeline stage (R413 to R417, R438). -/
structure Stage where
  /-- 0 none, 1 forward, 2 backward, 3 weight-gradient -/
  kind : Nat := 0
  mb : Nat := 0
  stalled : Bool := false
  lent : Bool := false
  stallStrokes : Nat := 0
  /-- inbound entries present or reserved: (forward?, micro-batch, present) -/
  inbox : List (Bool × Nat × Bool) := []
  forwarded : List Nat := []
  backwarded : List Nat := []
  wgradDone : Bool := false
deriving DecidableEq, Repr

/-- A step record as the verdict carries it (R429). -/
structure StepRec where
  flags : Nat
  count : Nat
  tokens : Nat
  loss : Nat
  sqnorm : Nat
deriving DecidableEq, Repr

/-- The optimizer state of one slice (R199, R218, R220): FP32 masters, remainders, and two FP32 moments. -/
structure OptSlice where
  w : List Nat
  q : List Int
  m : List Nat
  v : List Nat
deriving DecidableEq, Repr

/-- A job's learning configuration and service state (R404 to R442). -/
structure Learn where
  configured : Bool := false
  imgSlots : Nat := 0
  mbMax : Nat := 0
  mbRows : Nat := 0
  commitStrokes : Nat := 0
  vocab : Nat := 0
  slices : Nat := 0
  layers : Nat := 0
  fillBanks : Nat := 0
  groupSize : Nat := 1
  shard : Nat := 0
  group : Nat := 0
  b1 : Nat := 0
  b2 : Nat := 0
  eps : Nat := 0
  wd : Nat := 0
  maxNorm : Nat := 0
  fmtShift : Nat := 0
  fmtWindow : Nat := 0
  fillJob : Nat := 0
  feedBytes : Nat := 0
  stepNext : Nat := 0
  runRemaining : Nat := 0
  lr : Nat := 0
  running : Bool := false
  /-- 0 none, 1 ITEMS, 2 REDUCE, 3 VERDICT, 4 UPDATE, 5 GATHER -/
  stage : Nat := 0
  stepLr : Nat := 0
  feed : List MicroBatch := []
  taken : List MicroBatch := []
  mask : List Byte := []
  masks : Tab (List Byte) := []
  /-- EXCEED and FMT per layer, head last (R437) -/
  formats : Tab (Nat × Nat) := []
  slicesDone : Nat := 0
  withdrawn : Nat := 0
  times : Nat := 0
  handed : List Nat := []
  held : Tab (List Nat) := []
  sqnorm : Nat := 0
  /-- embedding gradients of one end that wait for the other's (R423), key = slice * 8 + die -/
  ends : Tab (List Nat) := []
  /-- the step's records of scaled output tensors: tensor, amax exponent, recomputes, SATURATED (R210 to R213) -/
  tensors : List (Nat × Nat × Nat × Bool) := []
  flagNonfinite : Bool := false
  flagPoison : Bool := false
  flagMismatch : Bool := false
  /-- a boundary that starts a step has found no configuration in force (R407) -/
  waits : Bool := false
  /-- a verdict waiting at the origin (R577), the commit stroke C -/
  verdict : Option StepRec := none
  commitAt : Option Nat := none
  rerunAt : Option Nat := none
  genCopy : Tab (Nat × Nat) := []
  stages : Tab Stage := []
  /-- REF_LOSS of a verification step (R613) -/
  verifyLoss : Option Nat := none
  /-- first of the learner group's eight groups (R536), of the turn that entered LEARN -/
  distGroup : Nat := 0
  /-- the job holds an optimizer shard; masters, remainders and moments by slice (R218, R220) -/
  hasShard : Bool := false
  opt : Tab OptSlice := []
deriving DecidableEq, Repr

/-! ### Turn (13) -/

/-- What an allocation is for; `cmd` is MEM_ALLOC's, the others are R729's. -/
inductive AllocUse where
  | cmd | kvPool | reqStore | feedStore | layout (slot : Nat) | tincture (entry : Nat) | queueSlots | gradHold
  | layoutRegion (tag : Nat) | golden (tag : Nat) | holdSlot (slot : Nat) | reserve | journal | generators | shard | turnSpace
deriving DecidableEq, Repr

/-- An allocation: first segment, length, holder. -/
structure Alloc where
  first : Nat
  count : Nat
  part : Nat
  job : Option Nat
  use : AllocUse := .cmd
  /-- index of the allocation a share belongs to, so that a grant or free takes the whole (R729) -/
  group : Nat := 0
  /-- released while granted: enters CLEARING when its last grant is revoked (R672) -/
  parked : Bool := false
deriving DecidableEq, Repr

/-- A layout slot (R523). -/
structure Layout where
  phase : Nat
  groupSize : Nat
  slices : Nat
  regionBytes : Nat
  digest : Nat
  entries : List Nat
  /-- the copy into job memory has not completed (R129) -/
  copying : Bool := false
deriving DecidableEq, Repr

/-- The turn in progress or the latest one (R514 to R543). -/
structure Turn where
  stage : Nat := 0
  target : Nat := 0
  cause : Nat := 0
  source : Nat := 0
  layout : Nat := 0
  periodK : Nat := 0
  stageLimit : Nat := 0
  turnGroup : Nat := 0
  distGroup : Nat := 0
  src : List Byte := []
  imageDigest : Nat := 0
  layoutDigest : Nat := 0
  prev : Phase := .idle
  stageStrokes : Nat := 0
  turnStroke : Nat := 0
  strokes : Nat := 0
  stretched : Nat := 0
  converted : Nat := 0
  received : Nat := 0
  discarded : Nat := 0
  snapshotGen : Nat := 0
  /-- the causes of this member's next stage record, a mask by code; its record of the stage is posted -/
  mine : Nat := 0
  posted : Bool := false
  /-- a snapshot generation was open when the SIPHON stage began -/
  openAt : Bool := false
  /-- the turn space as it was allocated (R532) -/
  space : List Alloc := []
  /-- learning state of the new layout, in force at the commit: shards of the group, this shard, optimizer state, the
  snapshot image that it came from, and the group of allocations that holds it (R533 to R535) -/
  groupSize : Nat := 0
  shard : Nat := 0
  newOpt : Tab OptSlice := []
  newImage : List Byte := []
  newShard : Option Nat := none
  /-- learning state that moves to this member in the distribute stage: the slices still awaited, and what has come of each, by byte
  offset (R535) -/
  awaited : List Nat := []
  moving : Tab (List (Nat × List Byte)) := []
  /-- transition decided at the origin for the next boundary: stage (6 failure) and cause (R539) -/
  next : Option (Nat × Nat) := none
deriving DecidableEq, Repr

/-! ### Securing (14) -/

/-- State of a hold slot (R564). -/
inductive HoldState where
  | empty | receiving | held | complete | invalid
deriving DecidableEq, Repr

/-- One hold slot. -/
structure Hold where
  st : HoldState := .empty
  gen : Nat := 0
  bytes : Nat := 0
  stepNext : Nat := 0
  /-- bytes received per link, and END counts per link (R562) -/
  got : Tab Nat := []
  ends : Tab Nat := []
  /-- BEGIN arrived while the slot was being read; READY is owed -/
  readyOwed : Bool := false
deriving DecidableEq, Repr

/-- A job's securing state on this member (R546 to R582). -/
structure Secure where
  cfg : Option SecureReq := none
  begun : Nat := 0
  complete : Nat := 0
  opened : Bool := false
  begunStep : Nat := 0
  armStroke : Nat := 0
  armCause : Nat := 0
  /-- the snapshot image of the latest arm: the protected set as it stood at that boundary (R552, R556) -/
  image : List Byte := []
  copy : Nat := 0
  failCause : Nat := 0
  /-- the copy's bytes that the peer of each link used has acknowledged (R561), and the image's blocks that were read poisoned, by
  offset (R558) -/
  delivered : Tab Nat := []
  poisoned : List Nat := []
  holds : Tab Hold := []
  aqGen : Tab Nat := []
  aqStep : Tab Nat := []
  storeGen : Tab Nat := []
  /-- a deep write in progress: layer (1 aquifer, 2 store), slot, generation -/
  deep : Option (Nat × Nat × Nat) := none
  /-- the store follows whatever STORE_EVERY says -/
  deepAll : Bool := false
  /-- deep writes that wait for the one in progress: generation, and whether every layer is to hold it -/
  deepWait : List (Nat × Bool) := []
  reqArmed : Bool := true
  dueCommanded : Bool := false
  dueRisk : Bool := false
  dueInterval : Bool := false
  /-- item decided at the origin for the next boundary: ACTION, CAUSE, GENERATION (R560) -/
  next : Option (Nat × Nat × Nat) := none
  /-- protected 64 KiB pages not yet sent, copied pages in the reserve, pages being copied -/
  protectedPages : List Nat := []
  reserved : Tab (List (Nat × Byte)) := []
  /-- reserve slots of each die (R555) -/
  reserveCap : Tab Nat := []
  copying : List Nat := []
  /-- writes held until their page's copy is complete (R554): page, address, bytes -/
  heldWrites : List (Nat × Nat × List Byte) := []
  reservePeak : Nat := 0
  touches : Nat := 0
  journal : List (List Byte) := []
deriving DecidableEq, Repr

/-! ### Recovery (15) -/

/-- A tree entry (R469). -/
structure TreeEntry where
  tree : Nat
  up : Nat
  flags : Nat
  depth : Nat
  down : Nat
  jobId : Nat
deriving DecidableEq, Repr

/-- A delta set (R590). -/
structure DeltaSet where
  subject : Nat
  spare : Nat
  kind : Nat
  routes : List (Nat × Nat)
  trees : List TreeEntry
  groups : List (Nat × Nat × Nat)
deriving DecidableEq, Repr

/-- A recovery plan (R588 to R590). -/
structure Plan where
  /-- succession: POSITION, STROKE_TREE, public key -/
  succ : List (Nat × Nat × List Byte)
  /-- spares: SPARE, COVER_FIRST, COVER_COUNT -/
  spares : List (Nat × Nat × Nat)
  ackLimit : Nat
  attempts : Nat
  distGroup : Nat
  sets : List DeltaSet
  digest : Nat
deriving DecidableEq, Repr

/-- The transition items the coordinator decides (R599). -/
structure RecItem where
  action : Nat
  kind : Nat
  attempt : Nat
  generation : Nat
  pairs : List (Nat × Nat) := []
  verify : Bool := false
  refLoss : Nat := 0
deriving DecidableEq, Repr

/-- An ACK as the coordinator keeps it (R596). -/
structure AckInfo where
  src : Nat
  flags : Nat
  holdGen : List Nat
  aqGen : List Nat
  holdStep : List Nat
  aqStep : List Nat
deriving DecidableEq, Repr

/-- A job's recovery state on this member (R583 to R619). -/
structure Recov where
  plan : Option Plan := none
  /-- 0 none, 1 ENTER, 2 TAKEOVER, 3 CONFIGURE, 4 RESTORE -/
  stage : Nat := 0
  kind : Nat := 0
  attempt : Nat := 0
  generation : Nat := 0
  failed : List Nat := []
  /-- positions seen declared failed since the plan was loaded (R593) -/
  passed : List Nat := []
  /-- positions that spares have taken, with the spare; spares used in this job (R591); positions left fenced and removed
  from the job (R616) -/
  replaced : List (Nat × Nat) := []
  used : List Nat := []
  fenced : List Nat := []
  chosen : List (Nat × Nat) := []
  recoveries : Nat := 0
  enterStroke : Nat := 0
  acks : List AckInfo := []
  expected : List Nat := []
  spareUps : List Nat := []
  configured : List Nat := []
  restored : List Nat := []
  /-- status class with which the recovery would fail (R614) -/
  lastCause : Nat := 1
  next : Option RecItem := none
  /-- NOTICE has gone out and the entry boundary has not (R597) -/
  noticeSent : Bool := false
  /-- this module took its position in the current attempt (TAKEOVER_CONFIG), and PHASE of its TAKEOVER -/
  tookPhase : Nat := 0
  /-- declared positions already reported (R459), reports recorded (R586) -/
  reported : List Nat := []
  recorded : List (Nat × Nat) := []
  /-- positions addressed with a cause-3 REPORT that wait for a NOTICE (R595) -/
  addressed : Option Nat := none
  /-- RECOVERY_RESTORE source: LAYER, GENERATION, REF_LOSS, UNVERIFIED -/
  source : Option (Nat × Nat × Nat × Bool) := none
  /-- STORE_ADDR, STORE_RKEY, STORE_QP of that source -/
  sourceStore : Nat × Nat × Nat := (0, 0, 0)
  /-- the recovery was entered from HALTED, by RECOVERY_RESTORE -/
  byHost : Bool := false
  prevPhase : Phase := .idle
  /-- an image on its way into window 0xF100: its source, its layer, what has come, and whether some of it was
  poisoned (R533, R609) -/
  fetchFrom : Option Nat := none
  fetchLayer : Nat := 0
  fetched : List (Nat × List Byte) := []
  fetchPoison : Bool := false
  /-- RESTORED has been sent in the present attempt, or waits for the broadcasts of R610 -/
  done : Bool := false
  spreading : Bool := false
  /-- a verification step has failed: 1 RECOVERING is due, 2 HALTED is due (R613) -/
  mismatch : Nat := 0
  /-- this position is next in the succession and has learnt that the origin is lost (R594); the claimant whose NOTICE
  it has acknowledged; its own next boundary carries h + 2 -/
  claim : Bool := false
  noticed : Option Nat := none
  skip : Bool := false
deriving DecidableEq, Repr

/-! ### Jobs (02) -/

/-- One job slot: WH_STROKE_CFG, WH_STROKE_COUNT and everything the module keeps for the job. -/
structure Job where
  id : Nat
  part : Nat
  periodK : Nat := 8
  margin : Nat := 0x800
  cfgMargin : Nat := 0x800
  /-- ENABLE of WH_STROKE_CFG: 1 while the slot holds a job, unless software clears it (R93) -/
  enable : Bool := true
  stretchLimit : Nat := 8
  fill : Bool := false
  isOrigin : Bool := false
  self : Nat := 0
  origin : Nat := 0
  members : Nat := 1
  firstStroke : Nat := 0
  seed : Nat := 0
  phase : Phase := .idle
  haltCause : HaltCause := .none
  beforeHalt : Phase := .idle
  epoch : Nat := 0
  turnNumber : Nat := 0
  /-- R85: the stream has begun (a boundary has been received) -/
  started : Bool := false
  stroke : Nat := 0
  /-- stretches of the current stroke -/
  stretches : Nat := 0
  stretchedCount : Nat := 0
  stretchPeriods : Nat := 0
  ownVotes : Nat := 0
  lastStretch : Nat := 0
  lastVoter : Nat := 0
  lastVoters : Nat := 0
  joined : Nat := 0
  /-- minimum margin of R67, 0 until the origin has computed it -/
  minMargin : Nat := 0
  /-- tree whose boundaries the member takes (R594) -/
  tree : Option Nat := none
  /-- stretch record of the stroke for the STROKE_STRETCHED event: this member voted STRETCH -/
  votedStretch : Bool := false
  voted : Bool := false
  voteSent : Bool := false
  ownStretch : Bool := false
  combined : Option (Bool × Nat × Nat) := none
  missed : Tab Nat := []
  /-- job-wide command accepted at the origin for the next boundary (R75) -/
  jobWide : Option Accepted := none
  /-- attachments received for the next boundary: index → eight bytes (R456) -/
  attach : Tab (List Byte) := []
  quota : List Nat := [0xFFFFFFFFFFFFFFFF, 0xFFFFFFFFFFFFFFFF, 0xFFFFFFFFFFFFFFFF]
  /-- energy and priming energy in microjoules, exact (R633, R634) -/
  energy : Rat := 0
  primeEnergy : Rat := 0
  meas : List Byte := List.replicate 32 0
  measCount : Nat := 0
  /-- COLL_STATUS of every group -/
  collStats : List Nat := [0, 0, 0, 0, 0, 0]
  num : Numerics := {}
  gen : Option Gen := none
  /-- latest version given to each tincture identifier (R387) -/
  tinctLast : Tab Nat := []
  learn : Learn := {}
  turn : Turn := {}
  layouts : Tab Layout := []
  /-- layout slot in force, the layout itself, and the tag of the regions that hold it (R524, R537) -/
  layoutNow : Option Nat := none
  layoutCur : Option Layout := none
  layTag : Nat := 0
  secure : Secure := {}
  recov : Recov := {}
deriving DecidableEq, Repr

/-! ### Memory tiers (07) -/

/-- A grant (R671): first address of the allocation, holder, grantee mask. -/
structure Grant where
  addr : Nat
  part : Nat
  grantees : Nat
deriving DecidableEq, Repr

/-- SC_HBM_STATUS, SC_HBM_THERM, SC_HBM_ECC of a stack (R316 to R318). -/
structure Stack where
  temp : Nat := 0
  level : Nat := 0
  refresh2x : Bool := false
  remapping : Bool := false
  softRemaps : Nat := 0
  retired : Nat := 0
  /-- spare rows of a bank, and how many of each bank are used (R307) -/
  spares : Nat := 4
  used : Tab Nat := []
  thrStart : Nat := 0x5A
  hyst : Nat := 3
  corrected : Nat := 0
  uncorrectable : Nat := 0
deriving DecidableEq, Repr

/-- CIS_STATUS and CIS_ECC of a package (R319). -/
structure Cis where
  temp : Nat := 0
  refresh2x : Bool := false
  retired : Nat := 0
  corrected : Nat := 0
  uncorrectable : Nat := 0
  halfRate : Bool := false
  /-- spare rows of a bank, and how many of each bank are used (R307) -/
  spares : Nat := 4
  used : Tab Nat := []
deriving DecidableEq, Repr

/-- A host aquifer command (R313). -/
structure AqCmd where
  write : Bool
  part : Nat
  addr : Nat
  first : Nat
  count : Nat
  mb : Nat
  opcode : Nat
  seq : Nat
deriving DecidableEq, Repr

/-- One aquifer extent that holds data: its bytes and the job it counts against (R293, R308). -/
structure Extent where
  data : Tab Byte := []
  job : Option Nat := none
deriving DecidableEq, Repr

/-- The aquifer (R308 to R315, R320). -/
structure Aquifer where
  /-- 0 NORMAL, 1 READ_ONLY, 2 FAILED -/
  st : Nat := 0
  wear : Nat := 0
  spare : Nat := 7
  uncorr : Nat := 0
  /-- key = partition * 2^25 + extent -/
  extents : Tab Extent := []
  cmds : List AqCmd := []
  /-- AQUIFER_WEAR already raised at 90 and at 100 -/
  warned : Nat := 0
  /-- NAND temperature limits: 0 normal, 1 writes at half rate, 2 writes paused (R648) -/
  throttle : Nat := 0
deriving DecidableEq, Repr

/-- A row of the repair record: kind (1 HBM, 2 cistern), unit, bank, row (R307). -/
structure RepairRow where
  kind : Nat
  unit : Nat
  bank : Nat
  row : Nat
  /-- a soft repair serves it from a spare row already -/
  soft : Bool := false
deriving DecidableEq, Repr

/-- The three memory tiers. -/
structure Mem where
  /-- HBM, cistern and scratchpad bytes by device address; an unlisted byte reads 0 -/
  bytes : Tab Byte := []
  /-- poisoned 64-byte blocks, key = address / 64 (R303 to R305) -/
  poison : Tab Bool := []
  /-- blocks of HBM and of the cistern that cannot be corrected and that no read has found yet, key as above (R304) -/
  damaged : List Nat := []
  /-- the modified lines of the shared caches, by HBM block number (R245, R273, R279); a clean line cannot be told from an
  absent one, and is not held -/
  lines : Tab Bool := []
  allocs : List Alloc := []
  /-- segments in CLEARING in the order they entered (R292) -/
  clearing : List Nat := []
  retired : List Nat := []
  /-- retired at the next reset (R307 item 4), no longer in the free pool when free -/
  retirePending : List Nat := []
  nextGroup : Nat := 1
  grants : List Grant := []
  /-- quota, key = partition * 3 + kind - 1 (R293) -/
  quota : Tab Nat := []
  hbm : Tab Stack := []
  cis : Tab Cis := []
  aq : Aquifer := {}
  /-- soft repairs in progress, in the order they began -/
  remaps : List RepairRow := []
  rowRecord : List RepairRow := []
deriving DecidableEq, Repr

/-! ### Links and collectives (11, 12) -/

/-- STATE of JL_STATUS (R475). -/
inductive LinkState where
  | off | training | wide | half | narrow | failed
deriving DecidableEq, Repr

/-- What a frame in the retry buffer carries (R450): an express flit, or flit space of a channel with the data unit that it completes. -/
inductive Sent where
  | flit (f : Flit) | data (vc : Nat) (unit : Option Out)
deriving DecidableEq, Repr

/-- One Jainzel link (R475 to R478 and the frame state of R450). -/
structure Link where
  st : LinkState := .off
  enabled : Bool := true
  lanesOk : Nat := 15
  flight : Nat := 0
  cause : Nat := 0
  upSince : Nat := 0
  peerPos : Nat := 0xFFFF
  peerLink : Nat := 0
  peerValid : Bool := false
  corrected : Nat := 0
  uncorr : Nat := 0
  fecPath : Nat := 0
  noTree : Nat := 0
  noRoute : Nat := 0
  window : Nat := 0
  replays : Nat := 0
  laneFaults : Nat := 0
  downs : Nat := 0
  trains : Nat := 0
  fShifts : Nat := 0
  /-- failed attempts with the peer present since training began; an attempt is running -/
  attempts : Nat := 0
  attempting : Bool := false
  /-- SEQ expected next, SEQ of the last frame in order, waiting for a replay, SEQ of the last flit delivered -/
  expSeq : Nat := 0
  lastAck : Nat := 4095
  awaitReplay : Bool := false
  lastFlit : Option Nat := none
  /-- NAKs in a row for the same frame, and its SEQ (R451) -/
  sameReplays : Nat := 0
  replaySeq : Nat := 0
  /-- the peer requests WIDE; a width change runs towards this state (R472) -/
  peerWide : Bool := true
  widthTo : Option LinkState := none
  /-- by channel VC0 to VC7 (R460, R462): frames that this end may still send, frames in the receive buffer, and frames that
  have left it and whose credit has not been returned -/
  credit : List Nat := List.replicate 8 64
  rx : List Nat := List.replicate 8 0
  owed : List Nat := List.replicate 8 0
  /-- data units that wait to be sent, in order: their channel, the frames of them still to go, and the unit -/
  txq : List (Nat × Nat × Out) := []
  /-- R461: the collective and the bulk channel served last, and the frames that a bulk channel has waited -/
  lastVc : Nat := 5
  lastBulk : Nat := 7
  bulkWait : Nat := 0
  /-- SEQ of the next frame, the frames that no ACK covers yet, and the express flits that wait while there are 4,095 (R450) -/
  nextSeq : Nat := 0
  retry : List (Nat × Sent) := []
  flitq : List Flit := []
  /-- the pair kept under DROP_PAIR (R473) -/
  keepPair : Option Nat := none
deriving DecidableEq, Repr

/-- A receive window (R464). -/
structure Window where
  src : Nat
  size : Nat
  /-- the runs of memory under the window, in order: address and bytes; none when an engine takes the data itself -/
  pieces : List (Nat × Nat)
  job : Nat
deriving DecidableEq, Repr

/-- A HEADER chunk that has met no collective yet (R492). -/
structure Early where
  link : Nat
  tree : Nat
  digest : Nat
  mismatch : Bool
  src : Nat
  restarts : Nat
deriving DecidableEq, Repr

/-- A collective group entry (R484, R490). -/
structure Group where
  dies : Nat
  rank : Nat
  members : Nat
  podShift : Nat
  /-- (ROOT, TREE) in ascending ROOT -/
  roots : List (Nat × Nat)
  seq : Nat := 0
  /-- COLL_STATUS: posted, completed, mismatched, aborted, throttled, restarts -/
  stats : List Nat := [0, 0, 0, 0, 0, 0]
  early : List Early := []
deriving DecidableEq, Repr

/-- Where a collective stands (COLL_STATUS STATE). -/
inductive CollState where
  | header | data | held | stopped
deriving DecidableEq, Repr

/-- Who posted a collective: a stroke program's team, or an engine of the module: the sluice for a stage record (R538) or for
a run of a shard (R536, R610), the siphon for its secure record (R563), the learning engine for a gathered slice (R431). -/
inductive Poster where
  | program | stage | secure | run | gather
deriving DecidableEq, Repr

/-- A die's part in a collective that an engine of the module posts: the record that it gives, or the memory that it reads
and the memory that it writes, as runs of addresses and lengths. -/
structure EnginePart where
  record : Option (List Byte) := none
  reads : List (Nat × Nat) := []
  writes : List (Nat × Nat) := []
deriving DecidableEq, Repr

/-- One die's descriptor in a collective (R488). -/
structure CollDie where
  die : Nat
  src : Nat
  dst : Nat
  doneAddr : Nat
  stageFirst : Nat
  stageCount : Nat
  digest : Nat
  /-- the engine has read its source: the elements' bytes and one poison bit for each 64-byte block -/
  contrib : Option (List Byte × List Bool) := none
  ready : Bool := false
  nonfinite : Bool := false
  poison : Bool := false
  written : Nat := 0
  engine : Option EnginePart := none
deriving DecidableEq, Repr

/-- A staged contribution of a child (R496). -/
structure StagedChunk where
  phase : Nat
  chunk : Nat
  link : Nat
  src : Nat
  flags : Nat
  payload : List Byte
  poison : List Bool
deriving DecidableEq, Repr

/-- A collective in flight at this module (R480 to R508, R732). -/
structure Coll where
  slot : Nat
  group : Nat
  group2 : Nat := 0
  seq : Nat
  op : Nat
  red : Nat
  typ : Nat
  chunkLog : Nat
  root : Nat
  rootDie : Nat
  vc : Nat
  epoch : Nat
  bytes : Nat
  digest : Nat
  dies : List CollDie
  st : CollState := .header
  restarts : Nat := 0
  mismatch : Bool := false
  /-- links that have sent HEADER, and ENDED -/
  headers : List Nat := []
  endeds : List Nat := []
  headerSent : Bool := false
  endedSent : Bool := false
  staged : List StagedChunk := []
  /-- chunks (phase, index) finished at this module -/
  doneChunks : List (Nat × Nat) := []
  throttled : Bool := false
  /-- restart counts whose ABORT has been forwarded (R508) -/
  abortSeen : List Nat := []
  /-- who posted it; the result of a record's reduction, at the root -/
  poster : Poster := .program
  result : List Byte := []
deriving DecidableEq, Repr

/-- FAB_COLL_STATUS, FAB_COLL_COUNT, FAB_COLL_ACTIVE of a die (R509 to R511), with FAB_SLUICE (R544) and
FAB_SIPHON (R580). -/
structure Fab where
  waiting : Bool := false
  mismatch : Bool := false
  aborted : Bool := false
  throttled : Bool := false
  nonfinite : Bool := false
  poison : Bool := false
  badBatch : Bool := false
  posted : Nat := 0
  mismatched : Nat := 0
  abortedCount : Nat := 0
  restarts : Nat := 0
  stray : Nat := 0
  active : Nat := 0
  /-- job slot served last (R633) -/
  job : Option Nat := none
  sluiceBusy : Bool := false
  sluicePoison : Bool := false
  sluiceDigest : Bool := false
  sluiceSbc : Bool := false
  sluiceSlices : Nat := 0
  sluiceCount : Nat := 0
  sluiceActive : Nat := 0
  siphonFull : Bool := false
  siphonPoison : Bool := false
  siphonActive : Nat := 0
  /-- first-touch copies of the current generation (R580) -/
  touches : Nat := 0
deriving DecidableEq, Repr

/-- Links, routes, trees, windows (11). -/
structure Net where
  links : Tab Link := []
  position : Option Nat := none
  routes : Tab Nat := []
  trees : List TreeEntry := []
  /-- key = window * 65536 + allowed source -/
  windows : Tab Window := []
  /-- windows that have raised LINK_WINDOW_FAULT in the present local stroke (R464) -/
  winFaults : List Nat := []
  /-- latest JOIN count per tree and DOWN link, key = tree * 32 + link (R85) -/
  joins : Tab Nat := []
  /-- declarations already forwarded: (tree, position) (R459) -/
  declared : List (Nat × Nat) := []
  /-- votes of the DOWN links of a tree for the present deadline, key = tree * 32 + link: stroke count, STRETCH, lowest
  voter, voters (R69) -/
  votes : Tab (Nat × Bool × Nat × Nat) := []
  /-- FINISH chunks that wait for their link to come up (R732) -/
  finWait : List (Nat × Chunk) := []
deriving DecidableEq, Repr

/-! ### Power and cooling (16, 19) -/

/-- PWR_DIE and the hub's figures of one die (R636, R642, R649, R653). -/
structure PwrDie where
  capDuty : Nat := 64
  thermDuty : Nat := 64
  priming : Bool := false
  level : Nat := 0
  cause : Nat := 0
  rampDown : Bool := false
  temp : Nat := 0
  thr : Nat := 100
  /-- 0 P0, 1 P1, 2 P2, 3 off -/
  st : Nat := 0
  /-- cycle of the latest droop; half duty for 64 cycles (R645) -/
  droopUntil : Nat := 0
  throttling : Bool := false
  /-- the job whose work the priming die waits on (R638) -/
  job : Option Nat := none
deriving DecidableEq, Repr

/-- PWR_RAIL and PWR_RAIL_E (R654). -/
structure Rail where
  power : Nat := 0
  voltage : Nat := 0
  alarm : Nat := 0
  /-- microjoules, exact -/
  energy : Rat := 0
deriving DecidableEq, Repr

/-- The power-management hub (R650 to R654, R722). -/
structure Power where
  /-- cycle of the latest point of the grid of R631 -/
  gridAt : Nat := 0
  /-- module power state 0 to 5; P0 to P2 follow the dies (R622) -/
  deep : Nat := 0
  /-- POWER_STATE_SET commands that have taken effect and are on their way: TARGET and DIES, oldest first -/
  target : List (Nat × Nat) := []
  freqMode : Nat := 0
  freq : Nat := 0x23
  /-- the level of POWER_BRAKE, which the module takes only with power (R711, R713) -/
  brakePin : Bool := false
  brake : Bool := false
  brakeAck : Bool := false
  brakeHold : Bool := false
  brakeStart : Nat := 0
  capUnits : Nat := 0xF0
  primeSlope : Nat := 0x0A
  primeEn : Nat := 7
  primeLimit : Nat := 0x14
  brakes : Nat := 0
  droops : Nat := 0
  capFloor : Nat := 0
  alarms : Nat := 0
  capUnreach : Bool := false
  /-- intervals above C in a row, intervals since the last raise (R637, R640) -/
  above : Nat := 0
  sinceRaise : Nat := 10
  dies : Tab PwrDie := []
  rails : Tab Rail := []
  input : Rail := {}
  /-- each unit's activity counter at the last interval, key = die * 256 + unit (R633) -/
  lastAct : Tab Nat := []
  /-- a restart from P5 is running (R696) -/
  restarting : Bool := false
  inlet : Nat := 0
  outlet : Nat := 0
  hot : Bool := false
  leak : Bool := false
  ioHot : Tab Bool := []
deriving DecidableEq, Repr

/-! ### Port and partitions (17) -/

/-- A queue pair (R660 to R663). -/
structure Qp where
  part : Nat
  remote : Nat
  error : Bool := false
  retries : Nat := 0
  psn : Nat := 0
  /-- send rate in bit/s (R663) -/
  rate : Nat
  lastCnpOut : Option Nat := none
  /-- the cycle of the last congestion notification received (R663) -/
  lastCnp : Option Nat := none
  lastCut : Option Nat := none
deriving DecidableEq, Repr

/-- WH_PART and the settings of one partition (R667 to R679). -/
structure Part where
  configured : Bool := false
  dies : Nat := 0
  hbmClass : Nat := 0
  resetting : Bool := false
  resets : Nat := 0
  cwKey : Nat := 0
  bwKey : Nat := 0
  ipv4 : Nat := 0
  ipv6 : Nat := 0
  vlan : Nat := 0
  priority : Nat := 0
  allow : Nat := 0
  /-- prefix length; `none`: no source is admitted (R660) -/
  allowLen : Option Nat := none
  qpMax : Nat := 4096
  share : Nat := 0
  /-- idle energy in microjoules, exact -/
  idleEnergy : Rat := 0
  /-- energy of the partition's destroyed jobs, in microjoules (R634) -/
  pastEnergy : Rat := 0
  paused : Bool := false
deriving DecidableEq, Repr

/-- The Ethernet port (R656 to R666, R677, R678). -/
structure Port where
  /-- 0 down, 1 1.6 Tb/s, 2 800 Gb/s, 3 100 Gb/s, 4 training -/
  mode : Nat := 0
  lpi : Bool := false
  lpiOk : Bool := false
  ptpLocked : Bool := false
  ptpTime : Nat := 0
  /-- the cycle at which `ptpTime` was set -/
  ptpAt : Nat := 0
  ptpOffset : Int := 0
  upSince : Nat := 0
  retransmits : Nat := 0
  cnpRx : Nat := 0
  speed : Nat := 0
  lpiCfg : Nat := 0
  ptpCfg : Nat := 0
  ptpDomain : Nat := 0
  mtu : Nat := 1024
  qps : Tab Qp := []
  nextQp : Nat := 2
  /-- partition 0 is always configured (R667); its two keys are the first free values drawn (R659) -/
  parts : Tab Part := [(0, { configured := true, dies := 255, hbmClass := 2, allowLen := some 0,
                             cwKey := Config.freeNat 0 % 2 ^ 32, bwKey := Config.freeNat 1 % 2 ^ 32 })]
deriving DecidableEq, Repr

/-! ### Boot, firmware, risk (14, 18) -/

/-- A start record (R691). -/
structure StartRec where
  seq : Nat
  reason : Nat := 0xFFFF
  detail : Nat := 0xFFFF
  ticks : Nat := 0xFFFFFFFFFFFFFFFF
deriving DecidableEq, Repr

/-- What the image service is doing with the flash (R697). -/
inductive FlashOp where
  | erase | program | readBack
deriving DecidableEq, Repr

/-- An open image session (R697). -/
structure Session where
  head : List Byte
  length : Nat
  pages : List Nat := []
  committing : Bool := false
  /-- operations in progress in order of acceptance -/
  ops : List FlashOp := []
deriving DecidableEq, Repr

/-- An armed spare's plan (R601). -/
structure SpareArm where
  jobId : Nat
  part : Nat
  plan : Plan
deriving DecidableEq, Repr

/-- What outlives every reset and loss of power apart from the aquifer: the boot flash and the fuses (R681 to R691).
Only the boot path and the image service change it. -/
structure NonVol where
  /-- the image region still holds the image the module was shipped with; its bytes are Wilron's -/
  shipped : Bool := true
  /-- image region bytes once the first erase has begun; an unlisted byte reads erased, 0xFF (R681, R682) -/
  flash : Tab Byte := []
  /-- REVOKED and MIN_SVN fuses (R685) -/
  revoked : Nat := 0
  minSvn : Nat := 0
  /-- start log, oldest first (R691) -/
  records : List StartRec := []
deriving DecidableEq, Repr

/-- The standpipe's and boot state (R687 to R705) with the pins and the risk estimate (R572, R579). -/
structure Sys where
  st : ModuleState := .boot
  inputOk : Bool := true
  /-- V3P3_AUX present: the FRU memory answers (R712) -/
  aux : Bool := true
  resetLow : Bool := false
  /-- last completed step of the running start, 0 to 7 (R687); the start is waiting 100 ms (R693) -/
  startStep : Nat := 0
  startWait : Bool := false
  svcUp : Bool := false
  failedReason : Nat := 0
  /-- columns pending bypass at the next reset, key = die * 48 + array (R187, R189) -/
  colRecord : Tab (List Nat) := []
  /-- image in force: FW_VERSION, SVN, first 1,280 bytes (`none`: the shipped image), and RAISE_MIN, REVOKE -/
  fwVersion : Nat := 0
  svn : Nat := 0
  imageHead : Option (List Byte) := none
  session : Option Session := none
  /-- a reset deferred by R698: the mailbox that asked, and the local stroke of its acceptance -/
  deferredReset : Option (Nat × Nat) := none
  configMeas : List Byte := List.replicate 32 0
  configCount : Nat := 0
  maFull : Nat := 384
  maNarrow : Nat := 0
  /-- an array self-test runs (ARRAY_SELFTEST): the die, 0xFF for all, and the mailbox -/
  selftest : Option (Nat × Nat) := none
  spare : Option SpareArm := none
  riskWeights : List Nat := [32, 255, 48, 64, 64, 128, 16]
  riskScores : List Nat := [0, 0, 0, 0, 0, 0, 0]
  estimate : Nat := 0
  peak : Nat := 0
  top : Nat := 0
  hours : Nat := 0
  /-- milliseconds of the present power-on hour -/
  hourMs : Nat := 0
  /-- counts of the seven inputs per 1-second bucket of the last 64 s, newest first, and ms in the newest -/
  riskWin : List (List Nat) := []
  riskMs : Nat := 0
  /-- what the links had counted when the risk estimate last read them (R474) -/
  riskLinks : Nat := 0
  /-- identity engine requests in order: payload, and the mailbox or the spare's identifier -/
  signing : List (List Byte × Option Nat × Nat) := []
deriving DecidableEq, Repr

/-- Everything that the module holds, apart from the queue, the non-volatile boot state and what it reports of completed strokes. -/
structure Body where
  /-- cycles of the fixed 700 MHz reference clock (R9); it advances when the queue is empty -/
  cycle : Nat := 0
  /-- counter of free values drawn (the model's own field); the two keys of partition 0 have been drawn -/
  free : Nat := 2
  /-- what the module has sent (the model's own field), oldest first -/
  out : List Out := []
  sys : Sys := {}
  ctl : Ctl := {}
  jobs : Tab Job := []
  mem : Mem := {}
  /-- key = die * 48 + array -/
  arrays : Tab MArray := []
  /-- key = die * 128 + engine -/
  ves : Tab VEngine := []
  /-- key = die * 160 + bank -/
  banks : Tab Bank := []
  /-- key = die * 4 + engine -/
  dmas : Tab Dma := []
  /-- posted atomics per die -/
  posted : Tab (List Posted) := []
  atts : Tab Att := []
  atms : Tab Atm := []
  /-- key = die * 16 + job slot -/
  pools : Tab KvPool := []
  seqs : Tab SeqCtx := []
  tinctures : Tab Tincture := []
  /-- weight blocks under restoration: job slot and block address (R394) -/
  restores : List (Nat × Nat) := []
  net : Net := {}
  /-- key = job slot * 65536 + group -/
  groups : Tab Group := []
  colls : List Coll := []
  /-- collectives that engines of the module have still to post, oldest first -/
  posts : List Coll := []
  /-- command banks the collective engines hold, per die -/
  fabs : Tab Fab := []
  /-- WH_STROKE_CFG of a slot without a job and KVP_ERR of one without a pool, as last written, by address -/
  slotRegs : Tab Nat := []
  power : Power := {}
  port : Port := {}
deriving DecidableEq, Repr

/-- Everything but the queue and the non-volatile boot state: what the module holds, and the module as it stood at the latest
completed stroke end of each stream, which a query reports (R80): key 16 for the local stroke, the job slot for a job's. -/
structure Dev extends Body where
  seen : Tab Body := []
deriving DecidableEq, Repr

/-- The whole module, with the commands that wait for it. -/
structure State where
  /-- commands waiting, first in first out (the model's own field) -/
  pending : List Instr := []
  nv : NonVol := {}
  m : Dev := {}
deriving DecidableEq, Repr

/-- Why a step stops. -/
inductive Fault where
  /-- Raised by every meaning when an operand names a unit that the module does not have or does not fit its field
  (`Instr.wf`). Safe: no such command can reach the hardware. -/
  | illFormed
deriving DecidableEq, Repr

/-- Why a command is turned away without a meaning. -/
inductive Refusal where
  /-- Raised by an arm of `exec` that has no meaning yet. Safe: it claims nothing about the command. -/
  | notModelled (mnemonic : String)
deriving DecidableEq, Repr

/-- The module right after a module reset: it has just entered BOOT with input power present and RESET_N high, and no
step of the start has run (R82, R687). Every register holds its reset value; see the assumption log for the
values that the manual leaves to hardware. -/
def State.reset : State := {}

end Sys2Proof.Machine
end

