-- ==== Sys2Proof/WellFormed.lean ====
section
/-! DEFINITION. Sys2Proof/WellFormed.lean: the commands that name only units the module has and whose operands fit
the fields of their row. Every meaning checks it first and faults on a command that fails it. -/

namespace Sys2Proof

/-- Each value lies below its bound. -/
def boundsWf (l : List (Nat × Nat)) : Bool := l.all (fun x => decide (x.1 < x.2))

/-- Exactly `n` values below `b`. -/
def natsExact (l : List Nat) (n b : Nat) : Bool := decide (l.length = n) && l.all (fun x => decide (x < b))

/-- At most `n` values below `b`. -/
def natsWf (l : List Nat) (n b : Nat) : Bool := decide (l.length ≤ n) && l.all (fun x => decide (x < b))

/-- At most `n` bytes. -/
def bytesWf (l : List Byte) (n : Nat) : Bool := decide (l.length ≤ n)

/-- Eight bytes, as an ATTACH flit carries them (R455). -/
def bytes8Wf (l : List Byte) : Bool := decide (l.length = 8)

/-- NROOTS roots, at most 64, each a position and a tree (COLL_GROUP_SET). -/
def rootsWf (n : Nat) (l : List (Nat × Nat)) : Bool :=
  decide (l.length = min n 64) && l.all (fun x => decide (x.1 < 65536) && decide (x.2 < 65536))

/-- Each team lies on a vector engine of the module (R245). -/
def launchesWf (l : List Launch) : Bool :=
  l.all (fun x => decide (x.die < 8) && decide (x.ve < 128) && decide (x.team < 32) && decide (x.entry < 2 ^ 48))

/-- The fields of an instruction word fit their bits (R249), and the engine and team exist (R245). -/
def VeF.wf (f : VeF) : Bool :=
  decide (f.die < 8) && decide (f.ve < 128) && decide (f.team < 32) && decide (f.rd < 32) && decide (f.ra < 32)
    && decide (f.rb < 32) && decide (f.rc < 32) && decide (f.pred < 8) && decide (f.imm < 2 ^ 32)

/-- The fields of a pool description fit their bytes (R343). -/
def PoolDesc.wf (p : PoolDesc) : Bool :=
  decide (p.format < 256) && decide (p.layers < 256) && decide (p.maxPages < 65536) && decide (p.hbmFrames < 2 ^ 32)
    && decide (p.cisFrames < 2 ^ 32) && decide (p.pages < 2 ^ 32) && decide (p.seqs < 65536) && decide (p.lowWater < 256)

/-- The fields of SECURE_CONFIG fit their bytes. -/
def SecureReq.wf (r : SecureReq) : Bool :=
  decide (r.interval < 256) && decide (r.slots < 256) && decide (r.aqEvery < 256) && decide (r.threshold < 256)
    && decide (r.partner < 65536) && decide (r.heldFor < 65536) && decide (r.group < 65536)
    && decide (r.storeEvery < 65536) && decide (r.partnerLinks < 2 ^ 32) && decide (r.heldLinks < 2 ^ 32)
    && decide (r.reserve < 2 ^ 64) && decide (r.holdBytes < 2 ^ 64) && decide (r.aqFirst < 2 ^ 32)
    && decide (r.storeGbps < 256) && decide (r.flags < 256) && decide (r.storeAddr < 2 ^ 64)
    && decide (r.storeRkey < 2 ^ 32) && decide (r.storeQp < 2 ^ 32) && decide (r.storeStride < 2 ^ 64)

/-- The fields of a frame header fit their bits (R448), and an express flit has its 12 checked bytes (R452). -/
def Frame.wf (f : Frame) : Bool :=
  decide (f.seq < 4096) && decide (f.ack < 4096) && decide (f.vc < 8) && decide (f.creditVc < 8)
    && decide (f.credit < 256) && decide (f.pair < 2) && decide (f.symErr ≤ 224)
    && decide (f.flit.length = if f.exp then 12 else 0) && launchesWf f.launches

/-- The fields of a bulk packet fit their bytes, and its payload is 64 to 4,096 bytes in multiples of 64 (R463). -/
def Packet.wf (p : Packet) : Bool :=
  decide (p.type < 256) && decide (p.dest < 65536) && decide (p.src < 65536) && decide (p.window < 65536)
    && decide (p.offset < 2 ^ 64) && decide (p.offset % 64 = 0) && decide (64 ≤ p.payload.length)
    && decide (p.payload.length ≤ 4096) && decide (p.payload.length % 64 = 0) && decide (p.poisonMap < 2 ^ 64)
    && decide (6 ≤ p.vc ∧ p.vc < 8)

/-- The fields of a chunk header fit their bytes, and the poison map has one mark for each block (R495). -/
def Chunk.wf (c : Chunk) : Bool :=
  decide (c.kind < 7) && decide (c.flags < 32) && decide (c.tree < 65536) && decide (c.src < 65536)
    && decide (c.phase < 256) && decide (c.restarts < 256) && decide (c.digest < 2 ^ 64) && decide (c.chunk < 2 ^ 32)
    && decide (c.epoch < 2 ^ 32) && decide (c.seq < 2 ^ 32) && decide (c.group < 65536)
    && decide (c.payload.length ≤ 1048576) && decide (c.payload.length % 64 = 0)
    && decide (c.poison.length * 64 = c.payload.length) && decide (c.vc < 6)

/-- The operands of CNP_RATE_RAISE. -/
def wfCnpRateRaise (qp : Nat) : Bool :=
  boundsWf [(qp, 16777216)]

/-- The operands of PTP_MESSAGE. -/
def wfPtpMessage (kind : Nat) (time : Nat) (offset : Int) (_locked : Bool) : Bool :=
  boundsWf [(kind, 256), (time, 18446744073709551616)] && decide (offset.natAbs < 9223372036854775808)

/-- The operands of ARP_ND_ICMP. -/
def wfArpNdIcmp (kind : Nat) (addr : List Byte) : Bool :=
  boundsWf [(kind, 256)] && decide (addr.length ≤ 2097152)

/-- The operands of LANE_FAILURE. -/
def wfLaneFailure (link : Nat) (lane : Nat) : Bool :=
  boundsWf [(link, 32), (lane, 4)]

/-- The operands of COLUMN_PARITY_FAIL. -/
def wfColumnParityFail (die : Nat) (array : Nat) (unit : Nat) (column : Nat) (row : Nat) : Bool :=
  boundsWf [(die, 8), (array, 48), (unit, 16), (column, 256), (row, 16777216)]

/-- The operands of RISK_REARM_TIMEOUT. -/
def wfRiskRearmTimeout (slot : Nat) : Bool :=
  boundsWf [(slot, 16)]

/-- The operands of PRIMING_STEP_DOWN. -/
def wfPrimingStepDown (die : Nat) : Bool :=
  boundsWf [(die, 8)]

/-- The operands of PRIME_LIMIT_TIMEOUT. -/
def wfPrimeLimitTimeout (die : Nat) : Bool :=
  boundsWf [(die, 8)]

/-- The operands of DIE_WAKE. -/
def wfDieWake (die : Nat) : Bool :=
  boundsWf [(die, 8)]

/-- The operands of REGULATOR_ALARM. -/
def wfRegulatorAlarm (rail : Nat) (alarm : Nat) (value : Nat) (_holds : Bool) : Bool :=
  boundsWf [(rail, 33), (alarm, 5), (value, 18446744073709551616)]

/-- The operands of VCORE_DROOP. -/
def wfVcoreDroop (die : Nat) : Bool :=
  boundsWf [(die, 8)]

/-- The operands of STACK_THROTTLE_DECAY. -/
def wfStackThrottleDecay (stack : Nat) : Bool :=
  boundsWf [(stack, 16)]

/-- The operands of CRITICAL_TEMP. -/
def wfCriticalTemp (sensor : Nat) (temp : Nat) : Bool :=
  boundsWf [(sensor, 65536), (temp, 256)]

/-- The operands of COOLANT_SENSOR_TICK. -/
def wfCoolantSensorTick (inlet : Nat) (outlet : Nat) (_wet : Bool) : Bool :=
  boundsWf [(inlet, 65536), (outlet, 65536)]

/-- The operands of PATROL_SCRUB. -/
def wfPatrolScrub (addr : Nat) (_corrected : Bool) (_uncorrectable : Bool) : Bool :=
  boundsWf [(addr, 281474976710656)]

/-- The operands of ROW_REPAIR_CANDIDATE. -/
def wfRowRepairCandidate (kind : Nat) (unit : Nat) (bank : Nat) (row : Nat) : Bool :=
  boundsWf [(kind, 3), (unit, if kind = 2 then 32 else 16), (bank, 65536), (row, 16777216)] && decide (1 ≤ kind)

/-- The operands of SOFT_REPAIR_DONE. -/
def wfSoftRepairDone (unit : Nat) : Bool :=
  boundsWf [(unit, 16)]

/-- The operands of UNCONTAINED_FAULT. -/
def wfUncontainedFault (unit : Nat) : Bool :=
  boundsWf [(unit, 65536)]

/-- The operands of P5_WAKE_RESTART. -/
def wfP5WakeRestart (reason : Nat) : Bool :=
  boundsWf [(reason, 65536)]

/-- The operands of SMB_FRU_READ. -/
def wfSmbFruRead (offset : Nat) (len : Nat) : Bool :=
  boundsWf [(offset, 65536), (len, 65536)]

/-- The operands of LINK_LOST_TIMEOUT. -/
def wfLinkLostTimeout (link : Nat) : Bool :=
  boundsWf [(link, 32)]

/-- The operands of THERMAL_THRESHOLD_CROSSED. -/
def wfThermalThresholdCrossed (kind : Nat) (unit : Nat) (temp : Nat) : Bool :=
  boundsWf [(kind, 256), (unit, 65536), (temp, 256)]

/-- The operands of RDMA_NAK_RECEIVE. -/
def wfRdmaNakReceive (qp : Nat) (psn : Nat) (cause : Nat) : Bool :=
  boundsWf [(qp, 16777216), (psn, 16777216), (cause, 256)]

/-- The operands of PFC_PAUSE_FRAME. -/
def wfPfcPauseFrame (priority : Nat) (quanta : Nat) : Bool :=
  boundsWf [(priority, 8), (quanta, 65536)]

/-- The operands of SELFTEST_DONE. -/
def wfSelftestDone (_failCols : List Nat) : Bool :=
  true

/-- Every operand names a unit that the module has and lies in the width of its field. -/
def Instr.wf : Instr → Bool
  | .moduleInfo mb => boundsWf [(mb, 256)]
  | .moduleQuiesce mb => boundsWf [(mb, 256)]
  | .moduleResume mb => boundsWf [(mb, 256)]
  | .moduleReset mb flags => boundsWf [(mb, 256), (flags, 4294967296)]
  | .eventAreaSet mb areaAddr areaRkey slots consumerAddr consumerRkey qp => boundsWf [(mb, 256), (areaAddr, 18446744073709551616), (areaRkey, 4294967296), (slots, 4294967296), (consumerAddr, 18446744073709551616), (consumerRkey, 4294967296), (qp, 4294967296)]
  | .partitionSet mb dies classes => boundsWf [(mb, 256)] && natsExact dies 8 256 && natsExact classes 8 256
  | .partitionReset mb partition => boundsWf [(mb, 256), (partition, 256)]
  | .partitionStatus mb partition => boundsWf [(mb, 256), (partition, 256)]
  | .shareGrant mb addr grantees => boundsWf [(mb, 256), (addr, 18446744073709551616), (grantees, 256)]
  | .shareRevoke mb addr grantees => boundsWf [(mb, 256), (addr, 18446744073709551616), (grantees, 256)]
  | .partitionNet mb partition priority vlan ipv4 ipv6 allow allowLen qpMax => boundsWf [(mb, 256), (partition, 256), (priority, 256), (vlan, 65536), (ipv4, 4294967296), (ipv6, 340282366920938463463374607431768211456), (allow, 340282366920938463463374607431768211456), (allowLen, 256), (qpMax, 65536)]
  | .linkIdentity mb position => boundsWf [(mb, 256), (position, 65536)]
  | .routeSet mb firstPos count bucket => boundsWf [(mb, 256), (firstPos, 65536), (count, 4294967296), (bucket, 4294967296)]
  | .treeSet mb count bucket => boundsWf [(mb, 256), (count, 65536), (bucket, 4294967296)]
  | .linkControl mb link action => boundsWf [(mb, 256), (link, 256), (action, 256)]
  | .spareArm mb jobId partition flags count first => boundsWf [(mb, 256), (jobId, 4294967296), (partition, 256), (flags, 256), (count, 65536), (first, 4294967296)]
  | .portConfig mb speed lpi ptp domain mtu => boundsWf [(mb, 256), (speed, 256), (lpi, 256), (ptp, 256), (domain, 256), (mtu, 65536)]
  | .bucketMap mb first count kind ownerInit addr jobId notify => boundsWf [(mb, 256), (first, 4294967296), (count, 65536), (kind, 256), (ownerInit, 256), (addr, 18446744073709551616), (jobId, 4294967296), (notify, 256)]
  | .bucketUnmap mb first count => boundsWf [(mb, 256), (first, 4294967296), (count, 65536)]
  | .memAlloc mb jobId kind unit segments => boundsWf [(mb, 256), (jobId, 4294967296), (kind, 256), (unit, 256), (segments, 4294967296)]
  | .memFree mb addr => boundsWf [(mb, 256), (addr, 18446744073709551616)]
  | .quotaSet mb partition kind jobId limit => boundsWf [(mb, 256), (partition, 256), (kind, 256), (jobId, 4294967296), (limit, 18446744073709551616)]
  | .memStatus mb partition => boundsWf [(mb, 256), (partition, 256)]
  | .aqWrite mb addr firstExtent count => boundsWf [(mb, 256), (addr, 18446744073709551616), (firstExtent, 4294967296), (count, 4294967296)]
  | .aqRead mb addr firstExtent count => boundsWf [(mb, 256), (addr, 18446744073709551616), (firstExtent, 4294967296), (count, 4294967296)]
  | .aqTrim mb firstExtent count => boundsWf [(mb, 256), (firstExtent, 4294967296), (count, 4294967296)]
  | .jobCreate mb jobId partition periodK stretchLimit priority voteMargin self origin members firstStroke seed => boundsWf [(mb, 256), (jobId, 4294967296), (partition, 256), (periodK, 256), (stretchLimit, 256), (priority, 256), (voteMargin, 65536), (self, 65536), (origin, 65536), (members, 65536), (firstStroke, 18446744073709551616), (seed, 18446744073709551616)]
  | .jobStatus mb jobId => boundsWf [(mb, 256), (jobId, 4294967296)]
  | .jobHalt mb jobId => boundsWf [(mb, 256), (jobId, 4294967296)]
  | .jobResume mb jobId => boundsWf [(mb, 256), (jobId, 4294967296)]
  | .jobDestroy mb jobId => boundsWf [(mb, 256), (jobId, 4294967296)]
  | .genConfig mb jobId imgFirst imgCount outCount outFirst eos context queueMax reqStore pool => boundsWf [(mb, 256), (jobId, 4294967296), (imgFirst, 4294967296), (imgCount, 65536), (outCount, 65536), (outFirst, 4294967296), (eos, 4294967296), (context, 4294967296), (queueMax, 4294967296), (reqStore, 18446744073709551616)] && pool.wf
  | .genSubmit mb jobId first count => boundsWf [(mb, 256), (jobId, 4294967296), (first, 4294967296), (count, 65536)]
  | .genCancel mb jobId reqId slot => boundsWf [(mb, 256), (jobId, 4294967296), (reqId, 4294967296), (slot, 65536)]
  | .genMask mb jobId reqId first => boundsWf [(mb, 256), (jobId, 4294967296), (reqId, 4294967296), (first, 4294967296)]
  | .tinctureLoad mb jobId tincture count first => boundsWf [(mb, 256), (jobId, 4294967296), (tincture, 65536), (count, 65536), (first, 4294967296)]
  | .tinctureUnload mb jobId tincture count first => boundsWf [(mb, 256), (jobId, 4294967296), (tincture, 65536), (count, 65536), (first, 4294967296)]
  | .genStatus mb jobId slot => boundsWf [(mb, 256), (jobId, 4294967296), (slot, 65536)]
  | .learnConfig mb jobId imgFirst imgCount groupSize shard group b1 b2 eps wd maxNorm lsInit fmtShift fmtWindow lsGrowth fillJob feedStore => boundsWf [(mb, 256), (jobId, 4294967296), (imgFirst, 4294967296), (imgCount, 65536), (groupSize, 65536), (shard, 65536), (group, 65536), (b1, 4294967296), (b2, 4294967296), (eps, 4294967296), (wd, 4294967296), (maxNorm, 4294967296), (lsInit, 256), (fmtShift, 256), (fmtWindow, 256), (lsGrowth, 65536), (fillJob, 4294967296), (feedStore, 18446744073709551616)]
  | .learnFeed mb jobId first count => boundsWf [(mb, 256), (jobId, 4294967296), (first, 4294967296), (count, 65536)]
  | .learnRun mb jobId steps lr => boundsWf [(mb, 256), (jobId, 4294967296), (steps, 4294967296), (lr, 4294967296)]
  | .learnMask mb jobId first fromStep count => boundsWf [(mb, 256), (jobId, 4294967296), (first, 4294967296), (fromStep, 18446744073709551616), (count, 65536)]
  | .learnStatus mb jobId => boundsWf [(mb, 256), (jobId, 4294967296)]
  | .turnBegin mb jobId epoch target source periodK layout stageLimit turnGroup distGroup src imageDigest layoutDigest => boundsWf [(mb, 256), (jobId, 4294967296), (epoch, 4294967296), (target, 256), (source, 256), (periodK, 256), (layout, 256), (stageLimit, 65536), (turnGroup, 65536), (distGroup, 65536), (imageDigest, 18446744073709551616), (layoutDigest, 18446744073709551616)] && decide (src.length = 32)
  | .turnAbort mb jobId => boundsWf [(mb, 256), (jobId, 4294967296)]
  | .turnStatus mb jobId => boundsWf [(mb, 256), (jobId, 4294967296)]
  | .layoutLoad mb jobId layout flags count first => boundsWf [(mb, 256), (jobId, 4294967296), (layout, 256), (flags, 256), (count, 65536), (first, 4294967296)]
  | .secureConfig mb jobId cfg => boundsWf [(mb, 256), (jobId, 4294967296)] && cfg.wf
  | .secureNow mb jobId flags => boundsWf [(mb, 256), (jobId, 4294967296), (flags, 256)]
  | .secureStatus mb jobId => boundsWf [(mb, 256), (jobId, 4294967296)]
  | .journalRead mb jobId step => boundsWf [(mb, 256), (jobId, 4294967296), (step, 18446744073709551616)]
  | .recoveryPlan mb jobId count first => boundsWf [(mb, 256), (jobId, 4294967296), (count, 65536), (first, 4294967296)]
  | .takeoverConfig mb jobId first count => boundsWf [(mb, 256), (jobId, 4294967296), (first, 4294967296), (count, 65536)]
  | .recoveryRestore mb jobId generation layer flags refLoss storeAddr storeRkey storeQp => boundsWf [(mb, 256), (jobId, 4294967296), (generation, 4294967296), (layer, 256), (flags, 256), (refLoss, 4294967296), (storeAddr, 18446744073709551616), (storeRkey, 4294967296), (storeQp, 4294967296)]
  | .recoveryStatus mb jobId => boundsWf [(mb, 256), (jobId, 4294967296)]
  | .collGroupSet mb jobId group flags dies rank members podShift nroots roots => boundsWf [(mb, 256), (jobId, 4294967296), (group, 65536), (flags, 256), (dies, 256), (rank, 65536), (members, 65536), (podShift, 256), (nroots, 256)] && rootsWf nroots roots
  | .collStatus mb jobId group seq => boundsWf [(mb, 256), (jobId, 4294967296), (group, 65536), (seq, 4294967296)]
  | .powerCapSet mb capW => boundsWf [(mb, 256), (capW, 65536)]
  | .powerShareSet mb partition shareW => boundsWf [(mb, 256), (partition, 256), (shareW, 65536)]
  | .powerStateSet mb target dies => boundsWf [(mb, 256), (target, 256), (dies, 256)]
  | .freqModeSet mb mode => boundsWf [(mb, 256), (mode, 256)]
  | .thermalSet mb stackThr stackHyst dieThr => boundsWf [(mb, 256), (stackThr, 256), (stackHyst, 256), (dieThr, 256)]
  | .primingSet mb enable slopeUs limitMs => boundsWf [(mb, 256), (enable, 256), (slopeUs, 256), (limitMs, 256)]
  | .powerStatus mb => boundsWf [(mb, 256)]
  | .energyReport mb partition => boundsWf [(mb, 256), (partition, 256)]
  | .imageBegin mb flags head => boundsWf [(mb, 256), (flags, 256)] && decide (head.length = 1280)
  | .imageWrite mb offset data => boundsWf [(mb, 256), (offset, 4294967296)] && bytesWf data 4032
  | .imageCommit mb => boundsWf [(mb, 256)]
  | .attest mb nonce jobId => boundsWf [(mb, 256), (jobId, 4294967296)] && decide (nonce.length = 32)
  | .arrayMap mb die => boundsWf [(mb, 256), (die, 256)]
  | .arraySelftest mb die => boundsWf [(mb, 256), (die, 256)]
  | .numericsStatus mb jobId => boundsWf [(mb, 256), (jobId, 4294967296)]
  | .kvStatus mb jobId die => boundsWf [(mb, 256), (jobId, 4294967296), (die, 256)]
  | .linkStatus mb link => boundsWf [(mb, 256), (link, 256)]
  | .riskConfig mb weights => boundsWf [(mb, 256)] && natsExact weights 7 256
  | .riskStatus mb => boundsWf [(mb, 256)]
  | .portStatus mb jobId => boundsWf [(mb, 256), (jobId, 4294967296)]
  | .bootStatus mb => boundsWf [(mb, 256)]
  | .hostCwWrite qp key offset data => boundsWf [(qp, 16777216), (key, 4294967296), (offset, 1048576)] && decide (data.length ≤ 2097152)
  | .mailboxFlip qp key mb => boundsWf [(qp, 16777216), (key, 4294967296), (mb, 256)]
  | .watcherReport mb => boundsWf [(mb, 256)]
  | .hostFlagWrite qp key bucket offset data => boundsWf [(qp, 16777216), (key, 4294967296), (bucket, 32768), (offset, 64)] && decide (data.length ≤ 2097152)
  | .hostBucketWrite qp key bucket offset data => boundsWf [(qp, 16777216), (key, 4294967296), (bucket, 32768), (offset, 2097152)] && decide (data.length ≤ 2097152)
  | .hostBucketRead qp key bucket offset len => boundsWf [(qp, 16777216), (key, 4294967296), (bucket, 32768), (offset, 2097152), (len, 2097153)]
  | .consumerReread partition value => boundsWf [(partition, 8), (value, 18446744073709551616)]
  | .cmReq service src remoteQpn => boundsWf [(service, 18446744073709551616), (remoteQpn, 16777216)] && decide (src.length ≤ 2097152)
  | .cmDreq qp => boundsWf [(qp, 16777216)]
  | .rdmaAckTimeout qp => boundsWf [(qp, 16777216)]
  | .ecnMarkedPacket qp => boundsWf [(qp, 16777216)]
  | .cnpReceive qp => boundsWf [(qp, 16777216)]
  | .portLinkChange mode cause _ => boundsWf [(mode, 5), (cause, 256)]
  | .originPeriodEnd slot launches => boundsWf [(slot, 16)] && launchesWf launches
  | .strokeBoundary link tree natt count _ _ launches => boundsWf [(link, 32), (tree, 65536), (natt, 65), (count, 18446744073709551616)] && launchesWf launches
  | .stretchFlit link tree stretches count => boundsWf [(link, 32), (tree, 65536), (stretches, 256), (count, 18446744073709551616)]
  | .voteDeadline slot => boundsWf [(slot, 16)]
  | .voteFlit link tree count _ lowest voters => boundsWf [(link, 32), (tree, 65536), (count, 18446744073709551616), (lowest, 65536), (voters, 65536)]
  | .childVoteTimeout slot link => boundsWf [(slot, 16), (link, 32)]
  | .originLostTimeout slot => boundsWf [(slot, 16)]
  | .joinFlit link tree joined => boundsWf [(link, 32), (tree, 65536), (joined, 65536)]
  | .attachFlit link tree index data => boundsWf [(link, 32), (tree, 65536), (index, 64)] && bytes8Wf data
  | .declareFlit link position reason => boundsWf [(link, 32), (position, 65536), (reason, 65536)]
  | .linkPeerSignal link => boundsWf [(link, 32)]
  | .linkTrainDone link lanes flight _ peerPos peerLink cause => boundsWf [(link, 32), (lanes, 16), (flight, 2048), (peerPos, 65536), (peerLink, 32), (cause, 256)]
  | .linkTrainTimeout link cause => boundsWf [(link, 32), (cause, 256)]
  | .linkPeerLoss link => boundsWf [(link, 32)]
  | .frameReceive link frame => boundsWf [(link, 32)] && frame.wf
  | .nakReceive link ack => boundsWf [(link, 32), (ack, 4096)]
  | .linkIdleTimeout link => boundsWf [(link, 32)]
  | .widthChangeDone link => boundsWf [(link, 32)]
  | .bulkPacketReceive link packet => boundsWf [(link, 32)] && packet.wf
  | .bulkPacketForward link packet => boundsWf [(link, 32)] && packet.wf
  | .matmul die array unit => boundsWf [(die, 8), (array, 48), (unit, 16)]
  | .dither die array => boundsWf [(die, 8), (array, 48)]
  | .arrayFillDone die array => boundsWf [(die, 8), (array, 48)]
  | .arrayInstrDone die array unit => boundsWf [(die, 8), (array, 48), (unit, 16)]
  | .arrayShapeChange die array => boundsWf [(die, 8), (array, 48)]
  | .arrayRampDown die array => boundsWf [(die, 8), (array, 48)]
  | .fmaF32 f => f.wf
  | .addF32 f => f.wf
  | .mulF32 f => f.wf
  | .maxF32 f => f.wf
  | .minF32 f => f.wf
  | .fmaBf16x2 f => f.wf
  | .cvt f => f.wf
  | .divF32 f => f.wf
  | .sqrtF32 f => f.wf
  | .expF32 f => f.wf
  | .logF32 f => f.wf
  | .iadd f => f.wf
  | .isub f => f.wf
  | .imul f => f.wf
  | .vAnd f => f.wf
  | .vOr f => f.wf
  | .vXor f => f.wf
  | .shl f => f.wf
  | .shr f => f.wf
  | .cmp f => f.wf
  | .sel f => f.wf
  | .ld f => f.wf
  | .st f => f.wf
  | .atomAdd32 f => f.wf
  | .atomAdd64 f => f.wf
  | .atomSwap32 f => f.wf
  | .atomSwap64 f => f.wf
  | .atomBset f => f.wf
  | .atomBclr f => f.wf
  | .atomUmax32 f => f.wf
  | .atomUmin32 f => f.wf
  | .postedAtomicApply die => boundsWf [(die, 8)]
  | .dmaCopy f => f.wf
  | .dmaCopyDone die engine => boundsWf [(die, 8), (engine, 4)]
  | .fence f => f.wf
  | .dmaWait f => f.wf
  | .shfl f => f.wf
  | .reduceFadd f => f.wf
  | .reduceFmax f => f.wf
  | .reduceIadd f => f.wf
  | .br f => f.wf
  | .barE f => f.wf
  | .exit f => f.wf
  | .draw f => f.wf
  | .mxIssue f => f.wf
  | .mxWait f => f.wf
  | .spbGive f => f.wf
  | .spbWait f => f.wf
  | .getf f => f.wf
  | .ubase f => f.wf
  | .spbHandoverEffect die bank => boundsWf [(die, 8), (bank, 160)]
  | .spbOwnerWrite die bank value => boundsWf [(die, 8), (bank, 160), (value, 18446744073709551616)]
  | .registerWrite addr value => boundsWf [(addr, 281474976710656), (value, 18446744073709551616)]
  | .attBankHandover die bank => boundsWf [(die, 8), (bank, 160)]
  | .attFwd die => boundsWf [(die, 8)]
  | .attAppend die => boundsWf [(die, 8)]
  | .pageShare die => boundsWf [(die, 8)]
  | .pageTruncate die => boundsWf [(die, 8)]
  | .pageRelease die => boundsWf [(die, 8)]
  | .pageDrop die => boundsWf [(die, 8)]
  | .pagePromote die => boundsWf [(die, 8)]
  | .pageDemote die => boundsWf [(die, 8)]
  | .pageCopyOnWrite die slot seq layer kvh index => boundsWf [(die, 8), (slot, 16), (seq, 4294967296), (layer, 65536), (kvh, 2), (index, 65536)]
  | .pageMoveDone die slot page => boundsWf [(die, 8), (slot, 16), (page, 4294967296)]
  | .atmBankHandover die bank => boundsWf [(die, 8), (bank, 160)]
  | .sample die => boundsWf [(die, 8)]
  | .outputBucketReady slot => boundsWf [(slot, 16)]
  | .tinctureCopyDone slot tincture version => boundsWf [(slot, 16), (tincture, 65536), (version, 65536)]
  | .weightPoisonReport slot addr => boundsWf [(slot, 16), (addr, 281474976710656)]
  | .weightRestoreDone slot addr => boundsWf [(slot, 16), (addr, 281474976710656)]
  | .sliceHandoff slot slice _ _ => boundsWf [(slot, 16), (slice.slice, 4294967296), (slice.die, 8)]
      && natsWf slice.data 65536 18446744073709551616
  | .sliceDelivered slot slice data => boundsWf [(slot, 16), (slice, 4294967296)] && natsWf data 65536 18446744073709551616
  | .verdictReduceDone slot flags count tokens loss sqnorm => boundsWf [(slot, 16), (flags, 65536), (count, 18446744073709551616), (tokens, 4294967296), (loss, 4294967296), (sqnorm, 4294967296)]
  | .collBankHandover die bank => boundsWf [(die, 8), (bank, 160)]
  | .bcast die jobSlot group seq => boundsWf [(die, 8), (jobSlot, 16), (group, 65536), (seq, 4294967296)]
  | .reduce die jobSlot group seq => boundsWf [(die, 8), (jobSlot, 16), (group, 65536), (seq, 4294967296)]
  | .allreduce die jobSlot group seq => boundsWf [(die, 8), (jobSlot, 16), (group, 65536), (seq, 4294967296)]
  | .reduceDeliver die jobSlot group seq => boundsWf [(die, 8), (jobSlot, 16), (group, 65536), (seq, 4294967296)]
  | .allgather die jobSlot group seq => boundsWf [(die, 8), (jobSlot, 16), (group, 65536), (seq, 4294967296)]
  | .gather die jobSlot group seq => boundsWf [(die, 8), (jobSlot, 16), (group, 65536), (seq, 4294967296)]
  | .scatter die jobSlot group seq => boundsWf [(die, 8), (jobSlot, 16), (group, 65536), (seq, 4294967296)]
  | .reduceScatter die jobSlot group seq => boundsWf [(die, 8), (jobSlot, 16), (group, 65536), (seq, 4294967296)]
  | .headerChunk link chunk => boundsWf [(link, 32)] && chunk.wf
  | .goChunk link chunk => boundsWf [(link, 32)] && chunk.wf
  | .dataChunk link chunk => boundsWf [(link, 32)] && chunk.wf
  | .abortChunk link chunk => boundsWf [(link, 32)] && chunk.wf
  | .endedChunk link chunk => boundsWf [(link, 32)] && chunk.wf
  | .finishChunk link chunk => boundsWf [(link, 32)] && chunk.wf
  | .collWaitingTick die _ => boundsWf [(die, 8)]
  | .sluicePartDone slot cause => boundsWf [(slot, 16), (cause, 256)]
  | .stageRecordDone slot words => boundsWf [(slot, 16)] && natsWf words 65536 18446744073709551616
  | .stageLimitTimeout slot => boundsWf [(slot, 16)]
  | .protectedWrite die addr data => boundsWf [(die, 8), (addr, 281474976710656)] && decide (data.length ≤ 2097152)
  | .reserveCopyDone die page => boundsWf [(die, 8), (page, 4294967296)]
  | .siphonPageSent slot page => boundsWf [(slot, 16), (page, 4294967296)]
  | .secureRequest slot src estimate => boundsWf [(slot, 16), (src, 65536), (estimate, 256)]
  | .secureBegin slot src generation bytes => boundsWf [(slot, 16), (src, 65536), (generation, 4294967296), (bytes, 18446744073709551616)]
  | .secureReady slot src generation holdSlot => boundsWf [(slot, 16), (src, 65536), (generation, 4294967296), (holdSlot, 2)]
  | .holdSlotFree slot holdSlot => boundsWf [(slot, 16), (holdSlot, 2)]
  | .secureEnd slot src generation link bytes => boundsWf [(slot, 16), (src, 65536), (generation, 4294967296), (link, 32), (bytes, 18446744073709551616)]
  | .secureHeld slot src generation holdSlot => boundsWf [(slot, 16), (src, 65536), (generation, 4294967296), (holdSlot, 2)]
  | .secureRecordDone slot words => boundsWf [(slot, 16)] && natsWf words 65536 18446744073709551616
  | .secureTimeout slot => boundsWf [(slot, 16)]
  | .aquiferSlotWriteDone slot status => boundsWf [(slot, 16), (status, 65536)]
  | .storeSlotWriteDone slot status => boundsWf [(slot, 16), (status, 65536)]
  | .reportReceive slot src cause subject => boundsWf [(slot, 16), (src, 65536), (cause, 256), (subject, 65536)]
  | .noticeReceive slot src attempt coordinator failed => boundsWf [(slot, 16), (src, 65536), (attempt, 65536), (coordinator, 65536)] && natsWf failed 65536 18446744073709551616
  | .ackReceive slot src attempt flags holdGen aqGen holdStep aqStep => boundsWf [(slot, 16), (src, 65536), (attempt, 65536), (flags, 65536)] && natsWf holdGen 65536 18446744073709551616 && natsWf aqGen 65536 18446744073709551616 && natsWf holdStep 65536 18446744073709551616 && natsWf aqStep 65536 18446744073709551616
  | .ackLimitTimeout slot position => boundsWf [(slot, 16), (position, 65536)]
  | .recoveryEntryTimer slot launches => boundsWf [(slot, 16)] && launchesWf launches
  | .coordinatorTakeover slot => boundsWf [(slot, 16)]
  | .reportOriginTimeout slot => boundsWf [(slot, 16)]
  | .takeoverReceive payload => decide (payload.length ≤ 2097152)
  | .spareUpReceive slot src position => boundsWf [(slot, 16), (src, 65536), (position, 65536)]
  | .configuredReceive slot src result => boundsWf [(slot, 16), (src, 65536), (result, 65536)]
  | .fetchReceive slot src layer holdSlot generation => boundsWf [(slot, 16), (src, 65536), (layer, 65536), (holdSlot, 2), (generation, 4294967296)]
  | .restoredReceive slot src result => boundsWf [(slot, 16), (src, 65536), (result, 65536)]
  | .capControlTick rails input => boundsWf [(input, 65536)] && natsWf rails 65536 18446744073709551616
  | .primingStart die cause activity => boundsWf [(die, 8), (cause, 256), (activity, 65537)]
  | .thermalDutyTick die temp => boundsWf [(die, 8), (temp, 256)]
  | .stackTempRead stack temp => boundsWf [(stack, 16), (temp, 256)]
  | .segmentCleared segment => boundsWf [(segment, 2097152)]
  | .aqOpDone index _ wear spare => boundsWf [(index, 8), (wear, 65536), (spare, 101)]
  | .startStep _ => true
  | .startFailed reason detail => boundsWf [(reason, 65536), (detail, 65536)]
  | .imageCopyDone slot kind index => boundsWf [(slot, 16), (kind, 256), (index, 65536)]
  | .flashOperationDone _ => true
  | .cnpRateRaise qp => wfCnpRateRaise qp
  | .ptpMessage kind time offset locked => wfPtpMessage kind time offset locked
  | .arpNdIcmp kind addr => wfArpNdIcmp kind addr
  | .laneFailure link lane => wfLaneFailure link lane
  | .columnParityFail die array unit column row => wfColumnParityFail die array unit column row
  | .riskRearmTimeout slot => wfRiskRearmTimeout slot
  | .primingStepDown die => wfPrimingStepDown die
  | .primeLimitTimeout die => wfPrimeLimitTimeout die
  | .dieWake die => wfDieWake die
  | .regulatorAlarm rail alarm value holds => wfRegulatorAlarm rail alarm value holds
  | .vcoreDroop die => wfVcoreDroop die
  | .stackThrottleDecay stack => wfStackThrottleDecay stack
  | .criticalTemp sensor temp => wfCriticalTemp sensor temp
  | .coolantSensorTick inlet outlet wet => wfCoolantSensorTick inlet outlet wet
  | .patrolScrub addr corrected uncorrectable => wfPatrolScrub addr corrected uncorrectable
  | .rowRepairCandidate kind unit bank row => wfRowRepairCandidate kind unit bank row
  | .softRepairDone unit => wfSoftRepairDone unit
  | .uncontainedFault unit => wfUncontainedFault unit
  | .p5WakeRestart reason => wfP5WakeRestart reason
  | .smbFruRead offset len => wfSmbFruRead offset len
  | .linkLostTimeout link => wfLinkLostTimeout link
  | .thermalThresholdCrossed kind unit temp => wfThermalThresholdCrossed kind unit temp
  | .rdmaNakReceive qp psn cause => wfRdmaNakReceive qp psn cause
  | .pfcPauseFrame priority quanta => wfPfcPauseFrame priority quanta
  | .selftestDone failCols => wfSelftestDone failCols
  | .localStrokeTick => true
  | .powerBrakeAssert => true
  | .powerBrakeRelease => true
  | .brakeHoldEnd => true
  | .riskEstimateTick => true
  | .freqStepTick => true
  | .p3PacketWake => true
  | .powerOn => true
  | .inputShutdown => true
  | .resetNLow => true
  | .resetNHigh => true
  | .startWaitEnd => true
  | .minimalServiceUp => true
  | .startWatchdog => true
  | .wellheadUnresponsive => true
  | .aquiferControllerFailure => true
  | .identitySignatureDone => true
  | .powerStateReached => true

end Sys2Proof
end

