-- ==== Sys2Proof/Machine/Ops.lean ====
section
/-! DEFINITION. Sys2Proof/Machine/Ops.lean: sparse tables, byte order, memory bytes and poison marks, device
addresses, and the frames in which every meaning is written. -/

namespace Sys2Proof.Machine

/-! ### Sparse tables -/

/-- The value listed under a key. -/
def tfind {α : Type} : Tab α → Nat → Option α
  | [], _ => none
  | (k', v) :: t, k => if k' = k then some v else tfind t k

/-- The value of a key in a table whose default is `d`. -/
def tget {α : Type} (d : α) (t : Tab α) (k : Nat) : α := (tfind t k).getD d

/-- Lists a value under a key, in rising key order. -/
def tput {α : Type} : Tab α → Nat → α → Tab α
  | [], k, v => [(k, v)]
  | (k', v') :: t, k, v =>
    if k < k' then (k, v) :: (k', v') :: t
    else if k' = k then (k, v) :: t
    else (k', v') :: tput t k v

/-- Takes a key out of the list. -/
def tdel {α : Type} (t : Tab α) (k : Nat) : Tab α := t.filter (fun p => decide (p.1 ≠ k))

/-- Sets a key of a table whose default is `d`; the default itself is never listed. -/
def tset {α : Type} [DecidableEq α] (d : α) (t : Tab α) (k : Nat) (v : α) : Tab α :=
  if v = d then tdel t k else tput t k v

/-- Changes the value of a key of a table whose default is `d`. -/
def tmod {α : Type} [DecidableEq α] (d : α) (t : Tab α) (k : Nat) (f : α → α) : Tab α :=
  tset d t k (f (tget d t k))

/-- Changes the value of a key only when it is listed. -/
def tupd {α : Type} (t : Tab α) (k : Nat) (f : α → α) : Tab α :=
  match tfind t k with
  | some v => tput t k (f v)
  | none => t

/-- Changes every listed value. -/
def tmap {α β : Type} (t : Tab α) (f : Nat → α → β) : Tab β := t.map (fun p => (p.1, f p.1 p.2))

/-- The entries with keys in `[lo, lo + n)`. -/
def trange {α : Type} (t : Tab α) (lo n : Nat) : Tab α :=
  t.filter (fun p => decide (lo ≤ p.1) && decide (p.1 < lo + n))

/-- Replaces the entries with keys in `[lo, lo + n)`; `es` holds rising keys of that range. -/
def tsplice {α : Type} (t : Tab α) (lo n : Nat) (es : Tab α) : Tab α :=
  t.filter (fun p => decide (p.1 < lo)) ++ es ++ t.filter (fun p => decide (lo + n ≤ p.1))

/-- The entries whose keys satisfy a test. -/
def tkeep {α : Type} (t : Tab α) (f : Nat → α → Bool) : Tab α := t.filter (fun p => f p.1 p.2)

/-- Entries of `l` moved to start at key `dst` instead of `src`. -/
def tshift {α : Type} (l : Tab α) (src dst : Nat) : Tab α := l.map (fun p => (p.1 - src + dst, p.2))

/-- Keys strictly rising from above `lo`. -/
def tsorted {α : Type} : Tab α → Bool
  | [] => true
  | [_] => true
  | (k, _) :: (k', v') :: t => decide (k < k') && tsorted ((k', v') :: t)

/-- The canonical form of a table whose default is `d`. -/
def twf {α : Type} [DecidableEq α] (d : α) (t : Tab α) : Bool := tsorted t && t.all (fun p => decide (p.2 ≠ d))

/-! ### Byte order and records (R7) -/

/-- The `n` bytes of a value, least significant first. -/
def leBytes (n v : Nat) : List Byte := (List.range n).map (fun i => BitVec.ofNat 8 (v >>> (8 * i)))

/-- The value of bytes, least significant first. -/
def leNat : List Byte → Nat
  | [] => 0
  | b :: l => b.toNat + 256 * leNat l

/-- `n` zero bytes. -/
def zeros (n : Nat) : List Byte := List.replicate n 0

/-- A field of a record: `n` bytes at offset `o`, zero beyond the end of the record. -/
def recField (l : List Byte) (o n : Nat) : Nat := leNat ((l.drop o).take n)

/-- `n` bytes at offset `o`, padded with zeros. -/
def recBytes (l : List Byte) (o n : Nat) : List Byte :=
  let x := (l.drop o).take n
  x ++ zeros (n - x.length)

/-- A record padded with zeros, or cut, to `n` bytes. -/
def padTo (n : Nat) (l : List Byte) : List Byte := l.take n ++ zeros (n - l.length)

/-- A value saturating at `n` bits. -/
def sat (n v : Nat) : Nat := min v (2 ^ n - 1)

/-- Bit `i` of a mask. -/
def bitOf (v i : Nat) : Bool := v.testBit i

/-- The set bits of a mask among the first `n`. -/
def bitsOf (n v : Nat) : List Nat := (List.range n).filter (fun i => v.testBit i)

/-- The mask of a list of bit numbers. -/
def maskOf (l : List Nat) : Nat := l.foldl (fun a i => a ||| (1 <<< i)) 0

/-- 1 or 0. -/
def b2n (b : Bool) : Nat := if b then 1 else 0

/-- The element at an index of a list, or a default. -/
def nth {α : Type} (d : α) (l : List α) (i : Nat) : α := l.getD i d

/-- Replaces the element at an index, when the list has it. -/
def setNth {α : Type} (l : List α) (i : Nat) (v : α) : List α := l.set i v

/-- Cuts a list into pieces of `n` elements, at most `fuel` of them. -/
def chunksOf {α : Type} (n : Nat) : Nat → List α → List (List α)
  | 0, _ => []
  | _, [] => []
  | fuel + 1, l => l.take n :: chunksOf n fuel (l.drop n)

/-! ### Device addresses (R30 to R35) -/

/-- Where a device address lies. -/
inductive Place where
  | hbm (stack : Nat) | cis (package : Nat) | spad (die bank : Nat) | regs | unmapped
deriving DecidableEq, Repr

/-- R30 to R33: the place of an address. -/
def placeOf (a : Nat) : Place :=
  if a < 0x020000000000 then .hbm (a / 0x2000000000)
  else if a < 0x040000000000 then .cis ((a - 0x020000000000) / 0x1000000000)
  else if a < 0x040800000000 then
    let d := (a - 0x040000000000) / 0x100000000
    let o := (a - 0x040000000000) % 0x100000000
    if o < 0x0A000000 then .spad d (o / 0x100000) else .unmapped
  else if 0x050000000000 ≤ a ∧ a < 0x050100000000 then .regs
  else .unmapped

/-- An address of HBM or of the cistern. -/
def isExtMem (a : Nat) : Bool := decide (a < 0x040000000000)

/-- R33: the first address of bank `b` of die `d`. -/
def bankAddr (d b : Nat) : Nat := 0x040000000000 + d * 0x100000000 + b * 0x100000

/-- R31: the first address of stack `k`. -/
def stackAddr (k : Nat) : Nat := k * 0x2000000000

/-- R32: the first address of package `j`. -/
def pkgAddr (j : Nat) : Nat := 0x020000000000 + j * 0x1000000000

/-! ### Memory bytes and poison marks -/

/-- A byte as memory holds it; a byte that is not listed reads zero (R280, R291, R688). -/
def memByte (m : Mem) (a : Nat) : Byte := tget 0 m.bytes a

/-- `n` bytes from an address. -/
def memRead (m : Mem) (a n : Nat) : List Byte := (List.range n).map (fun i => memByte m (a + i))

/-- A little-endian value of `n` bytes. -/
def memNat (m : Mem) (a n : Nat) : Nat := leNat (memRead m a n)

/-- Some 64-byte block that `n` bytes from an address touch is poisoned (R304). -/
def memPoisoned (m : Mem) (a n : Nat) : Bool :=
  m.poison.any (fun p => decide (a / 64 ≤ p.1) && decide (p.1 * 64 < a + n) && p.2)

/-- The listed bytes of a run: the ones that are not zero. -/
def runEntries (a : Nat) : List Byte → Tab Byte
  | [] => []
  | b :: l => if b = 0 then runEntries (a + 1) l else (a, b) :: runEntries (a + 1) l

/-- A block lies wholly within `n` bytes from an address. -/
def blockIn (a n b : Nat) : Bool := decide (a ≤ b * 64) && decide (b * 64 + 64 ≤ a + n)

/-- Two HBM blocks fall into one set of a shared cache: 64 MiB of 64-byte lines in 16 ways (R245) are 65,536 sets a die. -/
def sameSet (b c : Nat) : Bool := decide (b / 0x100000000 = c / 0x100000000) && decide (b % 65536 = c % 65536)

/-- R245, R273: the lines of a run of bytes, if it lies in HBM, become modified lines of their die's cache. A set holds 16 lines;
which one leaves a full set no rule says: here the lowest-addressed is written back (DESIGN CHOICE, log entry 27; nothing that a
command reads depends on it). -/
def cacheLines (t : Tab Bool) (a n : Nat) : Tab Bool :=
  if n = 0 ∨ 0x020000000000 ≤ a then t
  else
    let k := (a + n - 1) / 64 + 1 - a / 64
    let t := tsplice t (a / 64) k ((List.range k).map (fun i => (a / 64 + i, true)))
    if t.length ≤ 16 then t
    else t.filter (fun p => decide ((t.filter (fun q => sameSet p.1 q.1 && decide (p.1 < q.1))).length < 16))

/-- Writes bytes. A block that the write covers whole loses its poison mark; another keeps it (R305). -/
def memWrite (m : Mem) (a : Nat) (l : List Byte) : Mem :=
  { m with
    bytes := tsplice m.bytes a l.length (runEntries a l)
    poison := m.poison.filter (fun p => !blockIn a l.length p.1)
    damaged := m.damaged.filter (fun b => !blockIn a l.length b)
    lines := cacheLines m.lines a l.length }

/-- Sets or clears the poison mark of the block that holds an address. -/
def memMark (m : Mem) (a : Nat) (p : Bool) : Mem := { m with poison := tset false m.poison (a / 64) p }

/-- Poisons every block that `n` bytes from an address touch. -/
def memPoison (m : Mem) (a n : Nat) : Mem :=
  if n = 0 then m
  else { m with poison := tsplice m.poison (a / 64) ((a + n - 1) / 64 + 1 - a / 64)
                  ((List.range ((a + n - 1) / 64 + 1 - a / 64)).map (fun i => (a / 64 + i, true))) }

/-- A controller writes zeros and clears every poison mark of whole blocks; cached lines of them are gone. -/
def memZero (m : Mem) (a n : Nat) : Mem :=
  { m with
    bytes := tsplice m.bytes a n []
    poison := m.poison.filter (fun p => !blockIn a n p.1)
    damaged := m.damaged.filter (fun b => !blockIn a n b)
    lines := m.lines.filter (fun p => !blockIn a n p.1) }

/-- Copies `n` bytes with their poison marks; both addresses and `n` are multiples of 64. -/
def memCopy (m : Mem) (src dst n : Nat) : Mem :=
  { m with
    bytes := tsplice m.bytes dst n (tshift (trange m.bytes src n) src dst)
    poison := tsplice m.poison (dst / 64) (n / 64) (tshift (trange m.poison (src / 64) (n / 64)) (src / 64) (dst / 64))
    damaged := m.damaged.filter (fun b => !blockIn dst n b)
    lines := cacheLines m.lines dst n }

/-- The canonical form of the memory's two tables. -/
abbrev Mem.wf (m : Mem) : Bool := twf 0 m.bytes && twf false m.poison && twf false m.lines

/-! ### Free values -/

/-- The next value that nothing constrains, below `2 ^ w`, and the state after it. -/
def drawFree (m : Dev) (w : Nat) : Nat × Dev := (Config.freeNat m.free % 2 ^ w, { m with free := m.free + 1 })

/-- `n` bytes that nothing constrains. -/
def drawFreeBytes (m : Dev) (n : Nat) : List Byte × Dev :=
  ((List.range n).map (fun i => BitVec.ofNat 8 (Config.freeNat (m.free + i))), { m with free := m.free + n })

/-! ### The frames of a meaning -/

/-- A command that changes the module but not the queue, the boot flash or the fuses. -/
def onDev (c : Instr) (f : Dev → Dev) (s : State) : Host.Outcome State Fault Refusal :=
  if c.wf then .next { s with m := f s.m } else .fault .illFormed

/-- The same for a command whose well-formedness is given as a Bool: compiled code cannot build the constructors of
`Instr` past the 245th that have operands. -/
def onDevW (wf : Bool) (f : Dev → Dev) (s : State) : Host.Outcome State Fault Refusal :=
  if wf then .next { s with m := f s.m } else .fault .illFormed

/-- A command of the boot path or of the image service, which may also change the boot flash and the fuses. -/
def onBoot (c : Instr) (f : NonVol → Dev → NonVol × Dev) (s : State) : Host.Outcome State Fault Refusal :=
  if c.wf then .next { s with nv := (f s.nv s.m).1, m := (f s.nv s.m).2 } else .fault .illFormed

/-- A query of the boot path, which reads the boot flash and the fuses and changes only the module. -/
def onNvRead (c : Instr) (f : NonVol → Dev → Dev) (s : State) : Host.Outcome State Fault Refusal :=
  if c.wf then .next { s with m := f s.nv s.m } else .fault .illFormed

/-- Sends something to the outside. -/
def send (m : Dev) (o : Out) : Dev := { m with out := m.out ++ [o] }

/-! ### Jobs and units -/

/-- The job of a slot. -/
def jobAt (m : Dev) (slot : Nat) : Option Job := tfind m.jobs slot

/-- The slot and job that an identifier is bound to here. -/
def jobById (m : Dev) (id : Nat) : Option (Nat × Job) := m.jobs.find? (fun p => decide (p.2.id = id))

/-- Changes a bound job. -/
def updJob (m : Dev) (slot : Nat) (f : Job → Job) : Dev := { m with jobs := tupd m.jobs slot f }

/-- R52: cycles of a stroke period. -/
def periodCycles (k : Nat) : Nat := 700 * 2 ^ k

/-- The default of a matrix array's table: an array in reset. -/
def arrayAt (m : Dev) (die a : Nat) : MArray := tget {} m.arrays (die * 48 + a)

/-- Changes an array. -/
def updArray (m : Dev) (die a : Nat) (f : MArray → MArray) : Dev :=
  { m with arrays := tmod {} m.arrays (die * 48 + a) f }

/-- A vector engine. -/
def veAt (m : Dev) (die v : Nat) : VEngine := tget {} m.ves (die * 128 + v)

/-- Changes a vector engine. -/
def updVe (m : Dev) (die v : Nat) (f : VEngine → VEngine) : Dev := { m with ves := tmod {} m.ves (die * 128 + v) f }

/-- A scratchpad bank's registers. -/
def bankAt (m : Dev) (die b : Nat) : Bank := tget {} m.banks (die * 160 + b)

/-- Changes a scratchpad bank's registers. -/
def updBank (m : Dev) (die b : Nat) (f : Bank → Bank) : Dev := { m with banks := tmod {} m.banks (die * 160 + b) f }

/-- A link. -/
def linkAt (m : Dev) (l : Nat) : Link := tget {} m.net.links l

/-- Changes a link. -/
def updLink (m : Dev) (l : Nat) (f : Link → Link) : Dev :=
  { m with net := { m.net with links := tmod {} m.net.links l f } }

/-- A die's power state. -/
def pdieAt (m : Dev) (d : Nat) : PwrDie := tget {} m.power.dies d

/-- Changes a die's power state. -/
def updPdie (m : Dev) (d : Nat) (f : PwrDie → PwrDie) : Dev :=
  { m with power := { m.power with dies := tmod {} m.power.dies d f } }

/-- A partition's settings. -/
def partAt (m : Dev) (p : Nat) : Part := tget {} m.port.parts p

/-- Changes a partition's settings. -/
def updPart (m : Dev) (p : Nat) (f : Part → Part) : Dev :=
  { m with port := { m.port with parts := tmod {} m.port.parts p f } }

/-- The partition that owns a die: the configured partition whose die set holds it, 0 when none does. -/
def dieOwner (m : Dev) (die : Nat) : Nat :=
  ((List.range 8).find? (fun p => (partAt m p).configured && bitOf (partAt m p).dies die)).getD 0

/-- A collective engine's status. -/
def fabAt (m : Dev) (d : Nat) : Fab := tget {} m.fabs d

/-- Changes a collective engine's status. -/
def updFab (m : Dev) (d : Nat) (f : Fab → Fab) : Dev := { m with fabs := tmod {} m.fabs d f }

/-- Changes the control path. -/
def updCtl (m : Dev) (f : Ctl → Ctl) : Dev := { m with ctl := f m.ctl }

/-- Changes the memory tiers. -/
def updMem (m : Dev) (f : Mem → Mem) : Dev := { m with mem := f m.mem }

/-- Changes the boot, pin and risk state. -/
def updSys (m : Dev) (f : Sys → Sys) : Dev := { m with sys := f m.sys }

/-- Changes the power hub. -/
def updPower (m : Dev) (f : Power → Power) : Dev := { m with power := f m.power }

/-- Changes the Ethernet port. -/
def updPort (m : Dev) (f : Port → Port) : Dev := { m with port := f m.port }

/-- Changes the links' tables. -/
def updNet (m : Dev) (f : Net → Net) : Dev := { m with net := f m.net }

/-! ### Events (R133 to R143) -/

/-- R89 and R91 number the module states as the state table does. -/
def stateCode : ModuleState → Nat
  | .off => 0 | .boot => 1 | .minimal => 2 | .ready => 3 | .active => 4 | .quiesced => 5 | .failed => 6

/-- The codes of the job phases. -/
def phaseCode : Phase → Nat
  | .idle => 0 | .generate => 1 | .learn => 2 | .turning => 3 | .recovering => 4 | .halted => 5

/-- The event area of a partition. -/
def areaAt (m : Dev) (p : Nat) : Area := tget {} m.ctl.areas p

/-- The 64 bytes of a record with a given EVENT_SEQ and LOST (R133). -/
def eventBytes (e : Event) (seq lost : Nat) : List Byte :=
  leBytes 8 seq ++ leBytes 2 e.etype ++ leBytes 1 e.part ++ leBytes 1 e.strokeKind ++ leBytes 4 e.jobId
    ++ leBytes 8 e.stroke ++ leBytes 2 e.status ++ leBytes 2 lost ++ zeros 4 ++ padTo 28 e.payload
    ++ leBytes 4 (seq % 2 ^ 32)

/-- R135: there is room in the area for its next record. -/
def areaRoom (a : Area) : Bool :=
  match a.reg with
  | none => false
  | some r => !a.fresh && decide (a.nextSeq - a.consumer ≤ r.slots)

/-- R132, R134: writes one record into its slot. -/
def writeRecord (m : Dev) (p : Nat) (e : Event) : Dev :=
  let a := areaAt m p
  match a.reg with
  | none => m
  | some r =>
    let m := { m with ctl := { m.ctl with areas := tset {} m.ctl.areas p { a with nextSeq := a.nextSeq + 1, lost := 0 } } }
    send m (.hostWrite r.qp (r.addr + (a.nextSeq - 1) % r.slots * 64) r.rkey (eventBytes e a.nextSeq a.lost))

/-- R135, R136: writes a record, holds it while there is no room, or drops and counts it. -/
def emit (m : Dev) (e : Event) : Dev :=
  let a := areaAt m e.part
  if a.held.isEmpty && areaRoom a then writeRecord m e.part e
  else if a.held.length < 256 then
    { m with ctl := { m.ctl with areas := tset {} m.ctl.areas e.part { a with held := a.held ++ [e] } } }
  else { m with ctl := { m.ctl with areas := tset {} m.ctl.areas e.part { a with lost := sat 16 (a.lost + 1) } } }

/-- Writes the held records of a partition, oldest first, while there is room. -/
def flushHeld (p : Nat) : Nat → Dev → Dev
  | 0, m => m
  | fuel + 1, m =>
    let a := areaAt m p
    match a.held with
    | [] => m
    | e :: l =>
      if areaRoom a then
        flushHeld p fuel
          (writeRecord { m with ctl := { m.ctl with areas := tset {} m.ctl.areas p { a with held := l } } } p e)
      else m

/-- The stream that times a happening of a job: the job's own once it has begun, otherwise the local stroke
(R74, R126). -/
def streamOf (m : Dev) (slot : Option Nat) : Option Nat :=
  match slot with
  | none => none
  | some j => match jobAt m j with
    | some job => if job.started then some j else none
    | none => none

/-- The stroke of a stream. -/
def strokeOf (m : Dev) (stream : Option Nat) : Nat :=
  match stream with
  | none => m.ctl.localStroke
  | some j => match jobAt m j with
    | some job => job.stroke
    | none => 0

/-- Puts an event among those that wait for the end of their stroke (R81, R138). -/
def queueEvent (m : Dev) (stream : Option Nat) (e : Event) : Dev :=
  { m with ctl := { m.ctl with evq := m.ctl.evq ++ [(stream, e)] } }

/-- R137: an event of a job, bound to the job's stroke. -/
def raiseJob (m : Dev) (slot etype status : Nat) (payload : List Byte) : Dev :=
  match jobAt m slot with
  | none => m
  | some j =>
    let st := streamOf m (some slot)
    queueEvent m st { etype, part := j.part, strokeKind := b2n st.isSome, jobId := j.id, stroke := strokeOf m st,
                      status, payload }

/-- R137: an event of a partition, bound to the local stroke. -/
def raisePart (m : Dev) (part etype status : Nat) (payload : List Byte) : Dev :=
  queueEvent m none { etype, part, stroke := m.ctl.localStroke, status, payload }

/-- R137: an event of the whole module. -/
def raiseModule (m : Dev) (etype status : Nat) (payload : List Byte) : Dev := raisePart m 0 etype status payload

/-- R35: an access to an address where nothing is. The requester's unit code follows R260. The event goes to the
partition of the requester's die, to partition 0 for a unit of the whole module. -/
def addressFault (m : Dev) (requester a : Nat) : Dev :=
  let die := requester / 256 % 16
  raisePart m (if die < 8 then dieOwner m die else 0) 0x0204 0 (leBytes 2 requester ++ zeros 6 ++ leBytes 8 a)

/-- Counts for an input of the risk estimate in the newest second of its window (R572). -/
def riskHit (m : Dev) (i n : Nat) : Dev :=
  updSys m (fun s => { s with riskWin := match s.riskWin with
    | [] => [setNth (List.replicate 7 0) i n]
    | b :: l => setNth b i (nth 0 b i + n) :: l })

end Sys2Proof.Machine
end

