-- ==== Sys2Proof/Machine/Flags.lean ====
section
/-! DEFINITION. Sys2Proof/Machine/Flags.lean: the flags OVF, NONFINITE and POISON (R166, R253, R257) and how a rounding
sets them. -/

namespace Sys2Proof.Machine

/-- The OR of two sets of flags. -/
def orFlags (a b : Flags3) : Flags3 :=
  { ovf := a.ovf || b.ovf, nonfinite := a.nonfinite || b.nonfinite, poison := a.poison || b.poison }

/-- The OR of a list of flags. -/
def orAll (l : List Flags3) : Flags3 := l.foldl orFlags {}

/-- Flags as a word: bit 0 OVF, 1 NONFINITE, 2 POISON (R250, R255). -/
def flagWord (f : Flags3) : Nat := b2n f.ovf + 2 * b2n f.nonfinite + 4 * b2n f.poison

/-- R253: a result of FP32 operands: OVF when a finite value became an infinity (R204), NONFINITE when NaN or infinity
came from finite operands. -/
def arithFlags (ins : List FVal) (r : Nat × Bool) : Flags3 :=
  { ovf := r.2, nonfinite := codeNonfinite fp32 r.1 && ins.all (fun v => !fvNonfinite v) }

/-- R204, R206, R253: a conversion sets OVF when a finite value saturated, and NONFINITE when a NaN or an infinity came from a
finite value. One to plain E4M3 or E5M2 (`tile`) also sets NONFINITE for a value that is NaN or infinite itself (R206). -/
def cvtFlags (f : Fmt) (tile : Bool) (v : FVal) (r : Nat × Bool) : Flags3 :=
  { ovf := r.2, nonfinite := (tile && fvNonfinite v) || (codeNonfinite f r.1 && !fvNonfinite v) }

end Sys2Proof.Machine
end

