-- ==== Sys2Proof/Machine/Requests.lean ====
section
/-! DEFINITION. Sys2Proof/Machine/Requests.lean: the mailbox commands as bytes: the opcode of each (R16), the layout of
its request body, and the reading of a body into a command with the checks on its form of R15, R17 and R108
(UNKNOWN_OPCODE, BAD_LENGTH, RESERVED_NONZERO). -/

namespace Sys2Proof.Machine

/-- Some byte of a run `(offset, size)` of a body is not zero. -/
def runNonzero (b : List Byte) (r : Nat × Nat) : Bool := ((b.drop r.1).take r.2).any (fun x => decide (x ≠ 0))

/-- Some bit of a field `(offset, size, mask)` outside the mask is set. -/
def bitsNonzero (b : List Byte) (r : Nat × Nat × Nat) : Bool :=
  decide (recField b r.1 r.2.1 &&& r.2.2 ≠ recField b r.1 r.2.1)

/-- A body of a fixed length gives its command; BAD_LENGTH comes before RESERVED_NONZERO (R108). With `strict`, reserved runs and
bits are tested; without, the command is read as its fields stand, for the SECURITY checks that come before (R21). -/
def fixedReq (strict : Bool) (b : List Byte) (len : Nat) (runs : List (Nat × Nat)) (bits : List (Nat × Nat × Nat)) (i : Instr) :
    Except Nat Instr :=
  if b.length ≠ len then .error 0x2005
  else if strict && (runs.any (runNonzero b) || bits.any (bitsNonzero b)) then .error 0x2002
  else .ok i

/-- A pool description from its 24 bytes (R343). -/
def readPool (b : List Byte) : PoolDesc :=
  { format := recField b 0 1, layers := recField b 1 1, maxPages := recField b 2 2, hbmFrames := recField b 4 4,
    cisFrames := recField b 8 4, pages := recField b 12 4, seqs := recField b 16 2, lowWater := recField b 18 1 }

/-- The 24 bytes of a pool description. -/
def poolBytes (p : PoolDesc) : List Byte :=
  leBytes 1 p.format ++ leBytes 1 p.layers ++ leBytes 2 p.maxPages ++ leBytes 4 p.hbmFrames ++ leBytes 4 p.cisFrames
    ++ leBytes 4 p.pages ++ leBytes 2 p.seqs ++ leBytes 1 p.lowWater ++ zeros 5

/-- The fields of SECURE_CONFIG from offset 4 of its body. -/
def readSecure (b : List Byte) : SecureReq :=
  { interval := recField b 4 1, slots := recField b 5 1, aqEvery := recField b 6 1, threshold := recField b 7 1,
    partner := recField b 8 2, heldFor := recField b 10 2, group := recField b 12 2, storeEvery := recField b 14 2,
    partnerLinks := recField b 16 4, heldLinks := recField b 20 4, reserve := recField b 24 8,
    holdBytes := recField b 32 8, aqFirst := recField b 40 4, storeGbps := recField b 44 1, flags := recField b 45 1,
    storeAddr := recField b 48 8, storeRkey := recField b 56 4, storeQp := recField b 60 4,
    storeStride := recField b 64 8 }

/-- Bytes 4 to 71 of a SECURE_CONFIG body. -/
def secureBytes (r : SecureReq) : List Byte :=
  leBytes 1 r.interval ++ leBytes 1 r.slots ++ leBytes 1 r.aqEvery ++ leBytes 1 r.threshold ++ leBytes 2 r.partner
    ++ leBytes 2 r.heldFor ++ leBytes 2 r.group ++ leBytes 2 r.storeEvery ++ leBytes 4 r.partnerLinks
    ++ leBytes 4 r.heldLinks ++ leBytes 8 r.reserve ++ leBytes 8 r.holdBytes ++ leBytes 4 r.aqFirst
    ++ leBytes 1 r.storeGbps ++ leBytes 1 r.flags ++ zeros 2 ++ leBytes 8 r.storeAddr ++ leBytes 4 r.storeRkey
    ++ leBytes 4 r.storeQp ++ leBytes 8 r.storeStride

/-- `n` bytes from an offset as one value each. -/
def readNats (b : List Byte) (o n : Nat) : List Nat := (List.range n).map (fun i => recField b (o + i) 1)

/-- The first `n` of the 64 root entries of COLL_GROUP_SET. -/
def readRoots (b : List Byte) (n : Nat) : List (Nat × Nat) :=
  (List.range (min n 64)).map (fun i => (recField b (16 + 4 * i) 2, recField b (18 + 4 * i) 2))

/-- One byte for each value, padded to `n` bytes. -/
def natsBytes (n : Nat) (l : List Nat) : List Byte := padTo n (l.map (BitVec.ofNat 8))

/-- COLL_GROUP_SET: root entries beyond NROOTS are reserved, except with DELETE set (R513). -/
def readGroupSet (strict : Bool) (b : List Byte) (mb : Nat) : Except Nat Instr :=
  let n := recField b 13 1
  let del := bitOf (recField b 6 1) 0
  fixedReq strict b 272 (if del then [(14, 2)] else [(14, 2), (16 + 4 * min n 64, 256 - 4 * min n 64)]) [(6, 1, 1)]
    (.collGroupSet mb (recField b 0 4) (recField b 4 2) (recField b 6 1) (recField b 7 1) (recField b 8 2)
      (recField b 10 2) (recField b 12 1) n (readRoots b n))

/-- IMAGE_WRITE: the body holds 16 + LENGTH bytes. -/
def readImageWrite (strict : Bool) (b : List Byte) (mb : Nat) : Except Nat Instr :=
  if b.length ≠ 16 + recField b 4 2 then .error 0x2005
  else fixedReq strict b b.length [(6, 10)] [] (.imageWrite mb (recField b 0 4) (b.drop 16))

/-- The opcode of a mailbox command; `none` for what is no mailbox command. -/
def requestOpcode : Instr → Option Nat
  | .moduleInfo _ => some 0x0101
  | .moduleQuiesce _ => some 0x0102
  | .moduleResume _ => some 0x0103
  | .moduleReset _ _ => some 0x0104
  | .eventAreaSet _ _ _ _ _ _ _ => some 0x0105
  | .partitionSet _ _ _ => some 0x0110
  | .partitionReset _ _ => some 0x0111
  | .partitionStatus _ _ => some 0x0112
  | .shareGrant _ _ _ => some 0x0113
  | .shareRevoke _ _ _ => some 0x0114
  | .partitionNet _ _ _ _ _ _ _ _ _ => some 0x0115
  | .linkIdentity _ _ => some 0x0120
  | .routeSet _ _ _ _ => some 0x0121
  | .treeSet _ _ _ => some 0x0122
  | .linkControl _ _ _ => some 0x0123
  | .spareArm _ _ _ _ _ _ => some 0x0130
  | .portConfig _ _ _ _ _ _ => some 0x0140
  | .bucketMap _ _ _ _ _ _ _ _ => some 0x0201
  | .bucketUnmap _ _ _ => some 0x0202
  | .memAlloc _ _ _ _ _ => some 0x0203
  | .memFree _ _ => some 0x0204
  | .quotaSet _ _ _ _ _ => some 0x0205
  | .memStatus _ _ => some 0x0206
  | .aqWrite _ _ _ _ => some 0x0207
  | .aqRead _ _ _ _ => some 0x0208
  | .aqTrim _ _ _ => some 0x0209
  | .jobCreate _ _ _ _ _ _ _ _ _ _ _ _ => some 0x0301
  | .jobStatus _ _ => some 0x0302
  | .jobHalt _ _ => some 0x0303
  | .jobResume _ _ => some 0x0304
  | .jobDestroy _ _ => some 0x0305
  | .genConfig _ _ _ _ _ _ _ _ _ _ _ => some 0x0401
  | .genSubmit _ _ _ _ => some 0x0402
  | .genCancel _ _ _ _ => some 0x0403
  | .genMask _ _ _ _ => some 0x0404
  | .tinctureLoad _ _ _ _ _ => some 0x0405
  | .tinctureUnload _ _ _ _ _ => some 0x0406
  | .genStatus _ _ _ => some 0x0407
  | .learnConfig _ _ _ _ _ _ _ _ _ _ _ _ _ _ _ _ _ _ => some 0x0501
  | .learnFeed _ _ _ _ => some 0x0502
  | .learnRun _ _ _ _ => some 0x0503
  | .learnMask _ _ _ _ _ => some 0x0504
  | .learnStatus _ _ => some 0x0505
  | .turnBegin _ _ _ _ _ _ _ _ _ _ _ _ _ => some 0x0601
  | .turnAbort _ _ => some 0x0602
  | .turnStatus _ _ => some 0x0603
  | .layoutLoad _ _ _ _ _ _ => some 0x0604
  | .secureConfig _ _ _ => some 0x0701
  | .secureNow _ _ _ => some 0x0702
  | .secureStatus _ _ => some 0x0703
  | .journalRead _ _ _ => some 0x0704
  | .recoveryPlan _ _ _ _ => some 0x0705
  | .takeoverConfig _ _ _ _ => some 0x0706
  | .recoveryRestore _ _ _ _ _ _ _ _ _ => some 0x0707
  | .recoveryStatus _ _ => some 0x0708
  | .collGroupSet _ _ _ _ _ _ _ _ _ _ => some 0x0801
  | .collStatus _ _ _ _ => some 0x0802
  | .powerCapSet _ _ => some 0x0901
  | .powerShareSet _ _ _ => some 0x0902
  | .powerStateSet _ _ _ => some 0x0903
  | .freqModeSet _ _ => some 0x0904
  | .thermalSet _ _ _ _ => some 0x0905
  | .primingSet _ _ _ _ => some 0x0906
  | .powerStatus _ => some 0x0907
  | .energyReport _ _ => some 0x0908
  | .imageBegin _ _ _ => some 0x0A01
  | .imageWrite _ _ _ => some 0x0A02
  | .imageCommit _ => some 0x0A03
  | .attest _ _ _ => some 0x0A10
  | .arrayMap _ _ => some 0x0B10
  | .arraySelftest _ _ => some 0x0B11
  | .numericsStatus _ _ => some 0x0B20
  | .kvStatus _ _ _ => some 0x0B40
  | .linkStatus _ _ => some 0x0B60
  | .riskConfig _ _ => some 0x0B70
  | .riskStatus _ => some 0x0B71
  | .portStatus _ _ => some 0x0B80
  | .bootStatus _ => some 0x0B90
  | _ => none

/-- The mailbox of a mailbox command. -/
def requestMailbox : Instr → Option Nat
  | .moduleInfo mb => some mb
  | .moduleQuiesce mb => some mb
  | .moduleResume mb => some mb
  | .moduleReset mb _ => some mb
  | .eventAreaSet mb _ _ _ _ _ _ => some mb
  | .partitionSet mb _ _ => some mb
  | .partitionReset mb _ => some mb
  | .partitionStatus mb _ => some mb
  | .shareGrant mb _ _ => some mb
  | .shareRevoke mb _ _ => some mb
  | .partitionNet mb _ _ _ _ _ _ _ _ => some mb
  | .linkIdentity mb _ => some mb
  | .routeSet mb _ _ _ => some mb
  | .treeSet mb _ _ => some mb
  | .linkControl mb _ _ => some mb
  | .spareArm mb _ _ _ _ _ => some mb
  | .portConfig mb _ _ _ _ _ => some mb
  | .bucketMap mb _ _ _ _ _ _ _ => some mb
  | .bucketUnmap mb _ _ => some mb
  | .memAlloc mb _ _ _ _ => some mb
  | .memFree mb _ => some mb
  | .quotaSet mb _ _ _ _ => some mb
  | .memStatus mb _ => some mb
  | .aqWrite mb _ _ _ => some mb
  | .aqRead mb _ _ _ => some mb
  | .aqTrim mb _ _ => some mb
  | .jobCreate mb _ _ _ _ _ _ _ _ _ _ _ => some mb
  | .jobStatus mb _ => some mb
  | .jobHalt mb _ => some mb
  | .jobResume mb _ => some mb
  | .jobDestroy mb _ => some mb
  | .genConfig mb _ _ _ _ _ _ _ _ _ _ => some mb
  | .genSubmit mb _ _ _ => some mb
  | .genCancel mb _ _ _ => some mb
  | .genMask mb _ _ _ => some mb
  | .tinctureLoad mb _ _ _ _ => some mb
  | .tinctureUnload mb _ _ _ _ => some mb
  | .genStatus mb _ _ => some mb
  | .learnConfig mb _ _ _ _ _ _ _ _ _ _ _ _ _ _ _ _ _ => some mb
  | .learnFeed mb _ _ _ => some mb
  | .learnRun mb _ _ _ => some mb
  | .learnMask mb _ _ _ _ => some mb
  | .learnStatus mb _ => some mb
  | .turnBegin mb _ _ _ _ _ _ _ _ _ _ _ _ => some mb
  | .turnAbort mb _ => some mb
  | .turnStatus mb _ => some mb
  | .layoutLoad mb _ _ _ _ _ => some mb
  | .secureConfig mb _ _ => some mb
  | .secureNow mb _ _ => some mb
  | .secureStatus mb _ => some mb
  | .journalRead mb _ _ => some mb
  | .recoveryPlan mb _ _ _ => some mb
  | .takeoverConfig mb _ _ _ => some mb
  | .recoveryRestore mb _ _ _ _ _ _ _ _ => some mb
  | .recoveryStatus mb _ => some mb
  | .collGroupSet mb _ _ _ _ _ _ _ _ _ => some mb
  | .collStatus mb _ _ _ => some mb
  | .powerCapSet mb _ => some mb
  | .powerShareSet mb _ _ => some mb
  | .powerStateSet mb _ _ => some mb
  | .freqModeSet mb _ => some mb
  | .thermalSet mb _ _ _ => some mb
  | .primingSet mb _ _ _ => some mb
  | .powerStatus mb => some mb
  | .energyReport mb _ => some mb
  | .imageBegin mb _ _ => some mb
  | .imageWrite mb _ _ => some mb
  | .imageCommit mb => some mb
  | .attest mb _ _ => some mb
  | .arrayMap mb _ => some mb
  | .arraySelftest mb _ => some mb
  | .numericsStatus mb _ => some mb
  | .kvStatus mb _ _ => some mb
  | .linkStatus mb _ => some mb
  | .riskConfig mb _ => some mb
  | .riskStatus mb => some mb
  | .portStatus mb _ => some mb
  | .bootStatus mb => some mb
  | _ => none

/-- The request body of a mailbox command; empty for what is no mailbox command. -/
def requestBytes : Instr → List Byte
  | .moduleInfo _ => []
  | .moduleQuiesce _ => []
  | .moduleResume _ => []
  | .moduleReset _ flags => leBytes 4 flags
  | .eventAreaSet _ areaAddr areaRkey slots consumerAddr consumerRkey qp => leBytes 8 areaAddr ++ leBytes 4 areaRkey ++ leBytes 4 slots ++ leBytes 8 consumerAddr ++ leBytes 4 consumerRkey ++ leBytes 4 qp
  | .partitionSet _ dies classes => natsBytes 8 dies ++ natsBytes 8 classes
  | .partitionReset _ partition => leBytes 1 partition ++ zeros 7
  | .partitionStatus _ partition => leBytes 1 partition ++ zeros 7
  | .shareGrant _ addr grantees => leBytes 8 addr ++ leBytes 1 grantees ++ zeros 7
  | .shareRevoke _ addr grantees => leBytes 8 addr ++ leBytes 1 grantees ++ zeros 7
  | .partitionNet _ partition priority vlan ipv4 ipv6 allow allowLen qpMax => leBytes 1 partition ++ leBytes 1 priority ++ leBytes 2 vlan ++ leBytes 4 ipv4 ++ leBytes 16 ipv6 ++ leBytes 16 allow ++ leBytes 1 allowLen ++ zeros 1 ++ leBytes 2 qpMax ++ zeros 4
  | .linkIdentity _ position => leBytes 2 position ++ zeros 2
  | .routeSet _ firstPos count bucket => leBytes 2 firstPos ++ zeros 2 ++ leBytes 4 count ++ leBytes 4 bucket ++ zeros 4
  | .treeSet _ count bucket => leBytes 2 count ++ zeros 2 ++ leBytes 4 bucket
  | .linkControl _ link action => leBytes 1 link ++ leBytes 1 action ++ zeros 2
  | .spareArm _ jobId partition flags count first => leBytes 4 jobId ++ leBytes 1 partition ++ leBytes 1 flags ++ leBytes 2 count ++ leBytes 4 first ++ zeros 4
  | .portConfig _ speed lpi ptp domain mtu => leBytes 1 speed ++ leBytes 1 lpi ++ leBytes 1 ptp ++ leBytes 1 domain ++ leBytes 2 mtu ++ zeros 2
  | .bucketMap _ first count kind ownerInit addr jobId notify => leBytes 4 first ++ leBytes 2 count ++ leBytes 1 kind ++ leBytes 1 ownerInit ++ leBytes 8 addr ++ leBytes 4 jobId ++ leBytes 1 notify ++ zeros 3
  | .bucketUnmap _ first count => leBytes 4 first ++ leBytes 2 count ++ zeros 2
  | .memAlloc _ jobId kind unit segments => leBytes 4 jobId ++ leBytes 1 kind ++ leBytes 1 unit ++ zeros 2 ++ leBytes 4 segments ++ zeros 4
  | .memFree _ addr => leBytes 8 addr
  | .quotaSet _ partition kind jobId limit => leBytes 1 partition ++ leBytes 1 kind ++ zeros 2 ++ leBytes 4 jobId ++ leBytes 8 limit
  | .memStatus _ partition => leBytes 1 partition ++ zeros 3
  | .aqWrite _ addr firstExtent count => leBytes 8 addr ++ leBytes 4 firstExtent ++ leBytes 4 count
  | .aqRead _ addr firstExtent count => leBytes 8 addr ++ leBytes 4 firstExtent ++ leBytes 4 count
  | .aqTrim _ firstExtent count => leBytes 4 firstExtent ++ leBytes 4 count
  | .jobCreate _ jobId partition periodK stretchLimit priority voteMargin self origin members firstStroke seed => leBytes 4 jobId ++ leBytes 1 partition ++ leBytes 1 periodK ++ leBytes 1 stretchLimit ++ leBytes 1 priority ++ leBytes 2 voteMargin ++ leBytes 2 self ++ leBytes 2 origin ++ leBytes 2 members ++ leBytes 8 firstStroke ++ leBytes 8 seed
  | .jobStatus _ jobId => leBytes 4 jobId
  | .jobHalt _ jobId => leBytes 4 jobId
  | .jobResume _ jobId => leBytes 4 jobId
  | .jobDestroy _ jobId => leBytes 4 jobId
  | .genConfig _ jobId imgFirst imgCount outCount outFirst eos context queueMax reqStore pool => leBytes 4 jobId ++ leBytes 4 imgFirst ++ leBytes 2 imgCount ++ leBytes 2 outCount ++ leBytes 4 outFirst ++ leBytes 4 eos ++ leBytes 4 context ++ leBytes 4 queueMax ++ zeros 4 ++ leBytes 8 reqStore ++ poolBytes pool
  | .genSubmit _ jobId first count => leBytes 4 jobId ++ leBytes 4 first ++ leBytes 2 count ++ zeros 2
  | .genCancel _ jobId reqId slot => leBytes 4 jobId ++ leBytes 4 reqId ++ leBytes 2 slot ++ zeros 2
  | .genMask _ jobId reqId first => leBytes 4 jobId ++ leBytes 4 reqId ++ leBytes 4 first ++ zeros 4
  | .tinctureLoad _ jobId tincture count first => leBytes 4 jobId ++ leBytes 2 tincture ++ leBytes 2 count ++ leBytes 4 first ++ zeros 4
  | .tinctureUnload _ jobId tincture count first => leBytes 4 jobId ++ leBytes 2 tincture ++ leBytes 2 count ++ leBytes 4 first ++ zeros 4
  | .genStatus _ jobId slot => leBytes 4 jobId ++ leBytes 2 slot ++ zeros 2
  | .learnConfig _ jobId imgFirst imgCount groupSize shard group b1 b2 eps wd maxNorm lsInit fmtShift fmtWindow lsGrowth fillJob feedStore => leBytes 4 jobId ++ leBytes 4 imgFirst ++ leBytes 2 imgCount ++ leBytes 2 groupSize ++ leBytes 2 shard ++ leBytes 2 group ++ leBytes 4 b1 ++ leBytes 4 b2 ++ leBytes 4 eps ++ leBytes 4 wd ++ leBytes 4 maxNorm ++ leBytes 1 lsInit ++ leBytes 1 fmtShift ++ leBytes 1 fmtWindow ++ zeros 1 ++ leBytes 2 lsGrowth ++ zeros 2 ++ leBytes 4 fillJob ++ leBytes 8 feedStore
  | .learnFeed _ jobId first count => leBytes 4 jobId ++ leBytes 4 first ++ leBytes 2 count ++ zeros 2
  | .learnRun _ jobId steps lr => leBytes 4 jobId ++ leBytes 4 steps ++ leBytes 4 lr ++ zeros 4
  | .learnMask _ jobId first fromStep count => leBytes 4 jobId ++ leBytes 4 first ++ leBytes 8 fromStep ++ leBytes 2 count ++ zeros 6
  | .learnStatus _ jobId => leBytes 4 jobId ++ zeros 4
  | .turnBegin _ jobId epoch target source periodK layout stageLimit turnGroup distGroup src imageDigest layoutDigest => leBytes 4 jobId ++ leBytes 4 epoch ++ leBytes 1 target ++ leBytes 1 source ++ leBytes 1 periodK ++ leBytes 1 layout ++ leBytes 2 stageLimit ++ leBytes 2 turnGroup ++ leBytes 2 distGroup ++ zeros 14 ++ padTo 32 src ++ leBytes 8 imageDigest ++ leBytes 8 layoutDigest
  | .turnAbort _ jobId => leBytes 4 jobId ++ zeros 4
  | .turnStatus _ jobId => leBytes 4 jobId ++ zeros 4
  | .layoutLoad _ jobId layout flags count first => leBytes 4 jobId ++ leBytes 1 layout ++ leBytes 1 flags ++ leBytes 2 count ++ leBytes 4 first ++ zeros 4
  | .secureConfig _ jobId cfg => leBytes 4 jobId ++ secureBytes cfg
  | .secureNow _ jobId flags => leBytes 4 jobId ++ leBytes 1 flags ++ zeros 3
  | .secureStatus _ jobId => leBytes 4 jobId ++ zeros 4
  | .journalRead _ jobId step => leBytes 4 jobId ++ zeros 4 ++ leBytes 8 step
  | .recoveryPlan _ jobId count first => leBytes 4 jobId ++ zeros 2 ++ leBytes 2 count ++ leBytes 4 first ++ zeros 4
  | .takeoverConfig _ jobId first count => leBytes 4 jobId ++ leBytes 4 first ++ leBytes 2 count ++ zeros 2
  | .recoveryRestore _ jobId generation layer flags refLoss storeAddr storeRkey storeQp => leBytes 4 jobId ++ leBytes 4 generation ++ leBytes 1 layer ++ leBytes 1 flags ++ zeros 2 ++ leBytes 4 refLoss ++ leBytes 8 storeAddr ++ leBytes 4 storeRkey ++ leBytes 4 storeQp
  | .recoveryStatus _ jobId => leBytes 4 jobId ++ zeros 4
  | .collGroupSet _ jobId group flags dies rank members podShift nroots roots => leBytes 4 jobId ++ leBytes 2 group ++ leBytes 1 flags ++ leBytes 1 dies ++ leBytes 2 rank ++ leBytes 2 members ++ leBytes 1 podShift ++ leBytes 1 nroots ++ zeros 2 ++ padTo 256 (roots.flatMap (fun p => leBytes 2 p.1 ++ leBytes 2 p.2))
  | .collStatus _ jobId group seq => leBytes 4 jobId ++ leBytes 2 group ++ zeros 2 ++ leBytes 4 seq ++ zeros 4
  | .powerCapSet _ capW => leBytes 2 capW ++ zeros 6
  | .powerShareSet _ partition shareW => leBytes 1 partition ++ zeros 1 ++ leBytes 2 shareW ++ zeros 4
  | .powerStateSet _ target dies => leBytes 1 target ++ leBytes 1 dies ++ zeros 6
  | .freqModeSet _ mode => leBytes 1 mode ++ zeros 7
  | .thermalSet _ stackThr stackHyst dieThr => leBytes 1 stackThr ++ leBytes 1 stackHyst ++ leBytes 1 dieThr ++ zeros 5
  | .primingSet _ enable slopeUs limitMs => leBytes 1 enable ++ leBytes 1 slopeUs ++ leBytes 1 limitMs ++ zeros 5
  | .powerStatus _ => []
  | .energyReport _ partition => leBytes 1 partition ++ zeros 7
  | .imageBegin _ flags head => leBytes 1 flags ++ zeros 7 ++ padTo 1280 head
  | .imageWrite _ offset data => leBytes 4 offset ++ leBytes 2 data.length ++ zeros 10 ++ data
  | .imageCommit _ => zeros 8
  | .attest _ nonce jobId => padTo 32 nonce ++ leBytes 4 jobId ++ zeros 4
  | .arrayMap _ die => leBytes 1 die ++ zeros 3
  | .arraySelftest _ die => leBytes 1 die ++ zeros 3
  | .numericsStatus _ jobId => leBytes 4 jobId ++ zeros 4
  | .kvStatus _ jobId die => leBytes 4 jobId ++ leBytes 1 die ++ zeros 3
  | .linkStatus _ link => leBytes 1 link ++ zeros 3
  | .riskConfig _ weights => natsBytes 7 weights ++ zeros 1
  | .riskStatus _ => []
  | .portStatus _ jobId => leBytes 4 jobId ++ zeros 4
  | .bootStatus _ => []
  | _ => []

/-- Reads the request body of an opcode; an opcode without a command is UNKNOWN_OPCODE (R17). -/
def readRequest (strict : Bool) (op mb : Nat) (b : List Byte) : Except Nat Instr :=
  match op with
  | 0x0101 => fixedReq strict b 0 [] [] (.moduleInfo mb)
  | 0x0102 => fixedReq strict b 0 [] [] (.moduleQuiesce mb)
  | 0x0103 => fixedReq strict b 0 [] [] (.moduleResume mb)
  | 0x0104 => fixedReq strict b 4 [] [(0, 4, 1)] (.moduleReset mb (recField b 0 4))
  | 0x0105 => fixedReq strict b 32 [] [] (.eventAreaSet mb (recField b 0 8) (recField b 8 4) (recField b 12 4) (recField b 16 8) (recField b 24 4) (recField b 28 4))
  | 0x0110 => fixedReq strict b 16 [] [] (.partitionSet mb (readNats b 0 8) (readNats b 8 8))
  | 0x0111 => fixedReq strict b 8 [(1, 7)] [] (.partitionReset mb (recField b 0 1))
  | 0x0112 => fixedReq strict b 8 [(1, 7)] [] (.partitionStatus mb (recField b 0 1))
  | 0x0113 => fixedReq strict b 16 [(9, 7)] [] (.shareGrant mb (recField b 0 8) (recField b 8 1))
  | 0x0114 => fixedReq strict b 16 [(9, 7)] [] (.shareRevoke mb (recField b 0 8) (recField b 8 1))
  | 0x0115 => fixedReq strict b 48 [(41, 1), (44, 4)] [] (.partitionNet mb (recField b 0 1) (recField b 1 1) (recField b 2 2) (recField b 4 4) (recField b 8 16) (recField b 24 16) (recField b 40 1) (recField b 42 2))
  | 0x0120 => fixedReq strict b 4 [(2, 2)] [] (.linkIdentity mb (recField b 0 2))
  | 0x0121 => fixedReq strict b 16 [(2, 2), (12, 4)] [] (.routeSet mb (recField b 0 2) (recField b 4 4) (recField b 8 4))
  | 0x0122 => fixedReq strict b 8 [(2, 2)] [] (.treeSet mb (recField b 0 2) (recField b 4 4))
  | 0x0123 => fixedReq strict b 4 [(2, 2)] [] (.linkControl mb (recField b 0 1) (recField b 1 1))
  | 0x0130 => fixedReq strict b 16 [(12, 4)] [(5, 1, 1)] (.spareArm mb (recField b 0 4) (recField b 4 1) (recField b 5 1) (recField b 6 2) (recField b 8 4))
  | 0x0140 => fixedReq strict b 8 [(6, 2)] [] (.portConfig mb (recField b 0 1) (recField b 1 1) (recField b 2 1) (recField b 3 1) (recField b 4 2))
  | 0x0201 => fixedReq strict b 24 [(21, 3)] [] (.bucketMap mb (recField b 0 4) (recField b 4 2) (recField b 6 1) (recField b 7 1) (recField b 8 8) (recField b 16 4) (recField b 20 1))
  | 0x0202 => fixedReq strict b 8 [(6, 2)] [] (.bucketUnmap mb (recField b 0 4) (recField b 4 2))
  | 0x0203 => fixedReq strict b 16 [(6, 2), (12, 4)] [] (.memAlloc mb (recField b 0 4) (recField b 4 1) (recField b 5 1) (recField b 8 4))
  | 0x0204 => fixedReq strict b 8 [] [] (.memFree mb (recField b 0 8))
  | 0x0205 => fixedReq strict b 16 [(2, 2)] [] (.quotaSet mb (recField b 0 1) (recField b 1 1) (recField b 4 4) (recField b 8 8))
  | 0x0206 => fixedReq strict b 4 [(1, 3)] [] (.memStatus mb (recField b 0 1))
  | 0x0207 => fixedReq strict b 16 [] [] (.aqWrite mb (recField b 0 8) (recField b 8 4) (recField b 12 4))
  | 0x0208 => fixedReq strict b 16 [] [] (.aqRead mb (recField b 0 8) (recField b 8 4) (recField b 12 4))
  | 0x0209 => fixedReq strict b 8 [] [] (.aqTrim mb (recField b 0 4) (recField b 4 4))
  | 0x0301 => fixedReq strict b 32 [] [] (.jobCreate mb (recField b 0 4) (recField b 4 1) (recField b 5 1) (recField b 6 1) (recField b 7 1) (recField b 8 2) (recField b 10 2) (recField b 12 2) (recField b 14 2) (recField b 16 8) (recField b 24 8))
  | 0x0302 => fixedReq strict b 4 [] [] (.jobStatus mb (recField b 0 4))
  | 0x0303 => fixedReq strict b 4 [] [] (.jobHalt mb (recField b 0 4))
  | 0x0304 => fixedReq strict b 4 [] [] (.jobResume mb (recField b 0 4))
  | 0x0305 => fixedReq strict b 4 [] [] (.jobDestroy mb (recField b 0 4))
  | 0x0401 => fixedReq strict b 64 [(28, 4), (59, 5)] [] (.genConfig mb (recField b 0 4) (recField b 4 4) (recField b 8 2) (recField b 10 2) (recField b 12 4) (recField b 16 4) (recField b 20 4) (recField b 24 4) (recField b 32 8) (readPool (b.drop 40)))
  | 0x0402 => fixedReq strict b 12 [(10, 2)] [] (.genSubmit mb (recField b 0 4) (recField b 4 4) (recField b 8 2))
  | 0x0403 => fixedReq strict b 12 [(10, 2)] [] (.genCancel mb (recField b 0 4) (recField b 4 4) (recField b 8 2))
  | 0x0404 => fixedReq strict b 16 [(12, 4)] [] (.genMask mb (recField b 0 4) (recField b 4 4) (recField b 8 4))
  | 0x0405 => fixedReq strict b 16 [(12, 4)] [] (.tinctureLoad mb (recField b 0 4) (recField b 4 2) (recField b 6 2) (recField b 8 4))
  | 0x0406 => fixedReq strict b 16 [(12, 4)] [] (.tinctureUnload mb (recField b 0 4) (recField b 4 2) (recField b 6 2) (recField b 8 4))
  | 0x0407 => fixedReq strict b 8 [(6, 2)] [] (.genStatus mb (recField b 0 4) (recField b 4 2))
  | 0x0501 => fixedReq strict b 56 [(39, 1), (42, 2)] [] (.learnConfig mb (recField b 0 4) (recField b 4 4) (recField b 8 2) (recField b 10 2) (recField b 12 2) (recField b 14 2) (recField b 16 4) (recField b 20 4) (recField b 24 4) (recField b 28 4) (recField b 32 4) (recField b 36 1) (recField b 37 1) (recField b 38 1) (recField b 40 2) (recField b 44 4) (recField b 48 8))
  | 0x0502 => fixedReq strict b 12 [(10, 2)] [] (.learnFeed mb (recField b 0 4) (recField b 4 4) (recField b 8 2))
  | 0x0503 => fixedReq strict b 16 [(12, 4)] [] (.learnRun mb (recField b 0 4) (recField b 4 4) (recField b 8 4))
  | 0x0504 => fixedReq strict b 24 [(18, 6)] [] (.learnMask mb (recField b 0 4) (recField b 4 4) (recField b 8 8) (recField b 16 2))
  | 0x0505 => fixedReq strict b 8 [(4, 4)] [] (.learnStatus mb (recField b 0 4))
  | 0x0601 => fixedReq strict b 80 [(18, 14)] [] (.turnBegin mb (recField b 0 4) (recField b 4 4) (recField b 8 1) (recField b 9 1) (recField b 10 1) (recField b 11 1) (recField b 12 2) (recField b 14 2) (recField b 16 2) (recBytes b 32 32) (recField b 64 8) (recField b 72 8))
  | 0x0602 => fixedReq strict b 8 [(4, 4)] [] (.turnAbort mb (recField b 0 4))
  | 0x0603 => fixedReq strict b 8 [(4, 4)] [] (.turnStatus mb (recField b 0 4))
  | 0x0604 => fixedReq strict b 16 [(12, 4)] [(5, 1, 1)] (.layoutLoad mb (recField b 0 4) (recField b 4 1) (recField b 5 1) (recField b 6 2) (recField b 8 4))
  | 0x0701 => fixedReq strict b 72 [(46, 2)] [(45, 1, 1)] (.secureConfig mb (recField b 0 4) (readSecure b))
  | 0x0702 => fixedReq strict b 8 [(5, 3)] [(4, 1, 1)] (.secureNow mb (recField b 0 4) (recField b 4 1))
  | 0x0703 => fixedReq strict b 8 [(4, 4)] [] (.secureStatus mb (recField b 0 4))
  | 0x0704 => fixedReq strict b 16 [(4, 4)] [] (.journalRead mb (recField b 0 4) (recField b 8 8))
  | 0x0705 => fixedReq strict b 16 [(4, 2), (12, 4)] [] (.recoveryPlan mb (recField b 0 4) (recField b 6 2) (recField b 8 4))
  | 0x0706 => fixedReq strict b 12 [(10, 2)] [] (.takeoverConfig mb (recField b 0 4) (recField b 4 4) (recField b 8 2))
  | 0x0707 => fixedReq strict b 32 [(10, 2)] [(9, 1, 3)] (.recoveryRestore mb (recField b 0 4) (recField b 4 4) (recField b 8 1) (recField b 9 1) (recField b 12 4) (recField b 16 8) (recField b 24 4) (recField b 28 4))
  | 0x0708 => fixedReq strict b 8 [(4, 4)] [] (.recoveryStatus mb (recField b 0 4))
  | 0x0801 => readGroupSet strict b mb
  | 0x0802 => fixedReq strict b 16 [(6, 2), (12, 4)] [] (.collStatus mb (recField b 0 4) (recField b 4 2) (recField b 8 4))
  | 0x0901 => fixedReq strict b 8 [(2, 6)] [] (.powerCapSet mb (recField b 0 2))
  | 0x0902 => fixedReq strict b 8 [(1, 1), (4, 4)] [] (.powerShareSet mb (recField b 0 1) (recField b 2 2))
  | 0x0903 => fixedReq strict b 8 [(2, 6)] [] (.powerStateSet mb (recField b 0 1) (recField b 1 1))
  | 0x0904 => fixedReq strict b 8 [(1, 7)] [] (.freqModeSet mb (recField b 0 1))
  | 0x0905 => fixedReq strict b 8 [(3, 5)] [] (.thermalSet mb (recField b 0 1) (recField b 1 1) (recField b 2 1))
  | 0x0906 => fixedReq strict b 8 [(3, 5)] [(0, 1, 7)] (.primingSet mb (recField b 0 1) (recField b 1 1) (recField b 2 1))
  | 0x0907 => fixedReq strict b 0 [] [] (.powerStatus mb)
  | 0x0908 => fixedReq strict b 8 [(1, 7)] [] (.energyReport mb (recField b 0 1))
  | 0x0A01 => fixedReq strict b 1288 [(1, 7)] [(0, 1, 1)] (.imageBegin mb (recField b 0 1) (recBytes b 8 1280))
  | 0x0A02 => readImageWrite strict b mb
  | 0x0A03 => fixedReq strict b 8 [(0, 8)] [] (.imageCommit mb)
  | 0x0A10 => fixedReq strict b 40 [(36, 4)] [] (.attest mb (recBytes b 0 32) (recField b 32 4))
  | 0x0B10 => fixedReq strict b 4 [(1, 3)] [] (.arrayMap mb (recField b 0 1))
  | 0x0B11 => fixedReq strict b 4 [(1, 3)] [] (.arraySelftest mb (recField b 0 1))
  | 0x0B20 => fixedReq strict b 8 [(4, 4)] [] (.numericsStatus mb (recField b 0 4))
  | 0x0B40 => fixedReq strict b 8 [(5, 3)] [] (.kvStatus mb (recField b 0 4) (recField b 4 1))
  | 0x0B60 => fixedReq strict b 4 [(1, 3)] [] (.linkStatus mb (recField b 0 1))
  | 0x0B70 => fixedReq strict b 8 [(7, 1)] [] (.riskConfig mb (readNats b 0 7))
  | 0x0B71 => fixedReq strict b 0 [] [] (.riskStatus mb)
  | 0x0B80 => fixedReq strict b 8 [(4, 4)] [] (.portStatus mb (recField b 0 4))
  | 0x0B90 => fixedReq strict b 0 [] [] (.bootStatus mb)
  | _ => .error 0x2001

/-- The request of an opcode, with every check on its form. -/
def decodeRequest (op mb : Nat) (b : List Byte) : Except Nat Instr := readRequest true op mb b

end Sys2Proof.Machine
end

