-- ==== Sys2Proof/Machine/Shake.lean ====
section
/-! DEFINITION. Sys2Proof/Machine/Shake.lean: SHAKE256, which every digest and measurement of the module uses (R726,
R702). The manual names the function and does not retell it; PRESUMED as FIPS 202 states it. The sponge is held as five columns of
five 64-bit numbers, the column being the first coordinate. -/

namespace Sys2Proof.Machine

/-- A 64-bit number rotated to the left. -/
def rotl (n v : Nat) : Nat := (v <<< n ||| v >>> (64 - n)) % 2 ^ 64

/-- One step of the 8-bit shift register behind the round constants: x^8 + x^6 + x^5 + x^4 + 1. -/
def tapStep (r : Nat) : Nat := if r < 128 then 2 * r else (2 * r) % 256 ^^^ 0x71

/-- The constant of a round and the register after it: seven steps, whose low bits go to places 0, 1, 3, 7, 15, 31 and 63. -/
def roundConst (r : Nat) : Nat × Nat :=
  [0, 1, 3, 7, 15, 31, 63].foldl (fun p place => (p.1 + ((p.2 % 2) <<< place), tapStep p.2)) (0, r)

/-- The places of the lanes but the first, in the order in which the permutation carries one to the next; the t-th is turned by the
t-th triangular number. -/
def laneWalk : Nat → Nat → Nat → Nat → List (Nat × Nat)
  | 0, _, _, _ => []
  | left + 1, t, x, y => (5 * x + y, (t * (t + 1) / 2) % 64) :: laneWalk left (t + 1) y ((2 * x + 3 * y) % 5)

/-- How far each lane is turned, by 5 times its column plus its row. -/
def turnOf : List (Nat × Nat) := (0, 0) :: laneWalk 24 1 1 0

/-- A lane of the sponge. -/
def laneIn (s : List (List Nat)) (x y : Nat) : Nat := nth 0 (nth [] s (x % 5)) y

/-- Every column takes the parities of its two neighbours, the right one turned by 1. -/
def mixColumns (s : List (List Nat)) : List (List Nat) :=
  let par := s.map (fun c => c.foldl (· ^^^ ·) 0)
  (List.range 5).map (fun x =>
    let t := nth 0 par ((x + 4) % 5) ^^^ rotl 1 (nth 0 par ((x + 1) % 5))
    (nth [] s x).map (· ^^^ t))

/-- Lane (x, y) comes from row x of column x + 3 y, turned. -/
def moveLanes (s : List (List Nat)) : List (List Nat) :=
  (List.range 5).map (fun x => (List.range 5).map (fun y =>
    rotl ((turnOf.lookup (5 * ((x + 3 * y) % 5) + x)).getD 0) (laneIn s (x + 3 * y) x)))

/-- The one step that is not linear: along a row, each lane takes the next but one where the next has zeros. -/
def foldRows (s : List (List Nat)) : List (List Nat) :=
  (List.range 5).map (fun x => (List.range 5).map (fun y =>
    laneIn s x y ^^^ ((laneIn s (x + 1) y ^^^ (2 ^ 64 - 1)) &&& laneIn s (x + 2) y)))

/-- The constant goes into the first lane of the first column. -/
def addConst (k : Nat) : List (List Nat) → List (List Nat)
  | (v :: c) :: s => ((v ^^^ k) :: c) :: s
  | s => s

/-- The permutation of 24 rounds. -/
def spongePermute (s : List (List Nat)) : List (List Nat) :=
  ((List.range 24).foldl (fun (p : List (List Nat) × Nat) _ =>
    let k := roundConst p.2
    (addConst k.1 (foldRows (moveLanes (mixColumns p.1))), k.2)) (s, 1)).1

/-- One block of 136 bytes enters the sponge: its i-th eight bytes go to row i / 5 of column i mod 5. -/
def spongeTake (s : List (List Nat)) (block : List Byte) : List (List Nat) :=
  spongePermute ((List.range 5).map (fun x => (List.range 5).map (fun y => laneIn s x y ^^^ recField block (8 * (5 * y + x)) 8)))

/-- A message with its padding: 0x1F, zeros, and 0x80 added to the last byte of the last block. -/
def spongePad (l : List Byte) : List Byte :=
  let n := 136 - l.length % 136
  if n = 1 then l ++ [0x9F] else l ++ 0x1F :: zeros (n - 2) ++ [0x80]

/-- The 136 bytes that the sponge gives at a time. -/
def spongeGive (s : List (List Nat)) : List Byte := (List.range 17).flatMap (fun i => leBytes 8 (laneIn s i (i / 5)))

/-- Blocks of output, as many as `left`. -/
def spongeOut (s : List (List Nat)) : Nat → List Byte
  | 0 => []
  | left + 1 => spongeGive s ++ spongeOut (spongePermute s) left

/-- The first `n` bytes of SHAKE256 over a message (R726). -/
def shake256 (n : Nat) (l : List Byte) : List Byte :=
  let p := spongePad l
  let s := (chunksOf 136 (p.length / 136) p).foldl spongeTake (List.replicate 5 (List.replicate 5 0))
  (spongeOut s ((n + 135) / 136)).take n

/-- The first 8 bytes, read as an integer under R7. -/
def digest8 (l : List Byte) : Nat := leNat (shake256 8 l)

end Sys2Proof.Machine
end

