-- ==== Sys2Proof/Machine/Control.lean ====
section
/-! DEFINITION. Sys2Proof/Machine/Control.lean: what every mailbox command shares (chapter 03): the acceptance checks in
the order of R21 and R108, the application with the checks of R78, replies, the buckets a command holds, and what the
module writes to the host at a stroke end (R130). -/

namespace Sys2Proof.Machine

/-! ### Control window -/

/-- A byte of the control window. -/
def cwByte (m : Dev) (o : Nat) : Byte := tget 0 m.ctl.cw o

/-- `n` bytes of mailbox `mb` from offset `o`. -/
def mbRead (m : Dev) (mb o n : Nat) : List Byte := (List.range n).map (fun i => cwByte m (mb * 4096 + o + i))

/-- A header field of a mailbox (R99). -/
def mbField (m : Dev) (mb o n : Nat) : Nat := leNat (mbRead m mb o n)

/-- Writes bytes into the control window. -/
def cwWrite (m : Dev) (o : Nat) (l : List Byte) : Dev :=
  { m with ctl := { m.ctl with cw := tsplice m.ctl.cw o l.length (runEntries o l) } }

/-- R101: bit 0 of OWNER, the only bit of it that is stored. -/
def mbOwned (m : Dev) (mb : Nat) : Bool := (cwByte m (mb * 4096)).getLsbD 0

/-- R105: writes a reply, OWNER last, and the MAILBOX_DONE record when NOTIFY asks for it. -/
def writeReply (m : Dev) (r : Reply) : Dev :=
  let o := r.mb * 4096
  let m := cwWrite m (o + 64) r.body
  let m := cwWrite m (o + 14) (leBytes 2 r.body.length ++ leBytes 2 r.status ++ leBytes 1 r.kind)
  let m := cwWrite m (o + 24) (leBytes 8 r.accept ++ leBytes 8 r.done)
  let m := cwWrite m o (zeros 4)
  if bitOf (mbField m r.mb 11 1) 0 then
    emit m { etype := 0x0101, part := r.mb / 32, strokeKind := r.kind, jobId := r.jobId, stroke := r.done,
             status := r.status, payload := leBytes 2 r.mb ++ leBytes 2 (mbField m r.mb 8 2) ++ leBytes 4 (mbField m r.mb 4 4) }
  else m

/-! ### Flag table (R117 to R121) -/

/-- R117: entry 0 is fixed; R118: an entry that is not listed is FREE. -/
def flagAt (m : Dev) (b : Nat) : Flag := if b = 0 then { owner := 2 } else tget {} m.ctl.flags b

/-- Sets a flag-table entry; entry 0 never changes (R117). -/
def setFlag (m : Dev) (b : Nat) (f : Flag) : Dev :=
  if b = 0 then m else { m with ctl := { m.ctl with flags := tset {} m.ctl.flags b f } }

/-- R126: the stream that times a bucket. -/
def bucketStream (m : Dev) (b : Nat) : Option Nat :=
  let f := flagAt m b
  if f.jobSlot < 16 then streamOf m (some f.jobSlot) else none

/-- The entries of the buckets that satisfy a test become FREE (R118, R120). -/
def freeFlags (m : Dev) (p : Nat → Flag → Bool) : Dev :=
  { m with ctl := { m.ctl with
      flags := tkeep m.ctl.flags (fun b f => !p b f)
      holds := m.ctl.holds.filter (fun h => !p h.bucket (flagAt m h.bucket)) } }

/-- The buckets of a range as a request writes it. -/
def bucketRange (first count : Nat) : List Nat := (List.range count).map (fun i => first + i)

/-- The bytes of a run of buckets, in order, from the memory under them. -/
def bucketBytes (m : Dev) (bs : List Nat) (n : Nat) : List Byte :=
  (List.range n).map (fun i => memByte m.mem ((flagAt m (bs.getD (i / 0x200000) 0)).addr + i % 0x200000))

/-- The bytes that a bucket's FILL declares valid. -/
def bucketData (m : Dev) (b : Nat) : List Byte := memRead m.mem (flagAt m b).addr (flagAt m b).fill

/-! ### Commands -/

/-- A failed check: its status, and the OBJECT_STATE of R89 or a reply body of the command's own. -/
structure Err where
  status : Nat
  obj : Nat := 0
  /-- the job that counts as named in the R89 body, when the request itself names none -/
  job : Option Nat := none
  body : List Byte := []

/-- A check that fails with a status unless its condition holds. -/
def ensure (c : Bool) (status : Nat) (obj : Nat := 0) : Option Err :=
  if c then none else some { status := status, obj := obj }

/-- The first check of a list that fails. -/
def firstErr : List (Option Err) → Option Err
  | [] => none
  | some e :: _ => some e
  | none :: l => firstErr l

/-- What applying a command leaves: the module, the status, OBJECT_STATE, the reply body, what the reply still waits
for, and whether its buckets stay held. -/
structure Applied where
  m : Dev
  status : Nat := 0
  obj : Nat := 0
  body : List Byte := []
  wait : Option WaitFor := none
  keep : Bool := false

/-- One mailbox command: where it came from, what R91, R92, R108 and R127 check of every command, its own checks in
the classes of R21, and its effect. -/
structure CmdSpec where
  cmd : Instr
  opcode : Nat
  mb : Nat
  /-- acts on the whole module (R109) -/
  admin : Bool := false
  /-- the job that JOB_ID names -/
  job : Option Nat := none
  /-- the strokes of the named job time the command -/
  jobTimed : Bool := true
  query : Bool := false
  jobWide : Bool := false
  /-- the command's statuses hold STROKE_STRETCH -/
  stretch : Bool := false
  /-- module states of the command, narrower than its family's -/
  states : Option (List ModuleState) := none
  /-- job phases of the command; `none`: every phase -/
  phases : Option (List Phase) := none
  buckets : List Nat := []
  sec : Dev → Option Err := fun _ => none
  par : Dev → Option Err := fun _ => none
  sta : Dev → Option Err := fun _ => none
  apply : Dev → Applied

/-- R91: the module states in which an opcode is legal. -/
def familyStates (op : Nat) : List ModuleState :=
  let f := op / 256
  if op = 0x0101 ∨ op = 0x0104 ∨ op = 0x0B90 then [.boot, .minimal, .ready, .active, .quiesced, .failed]
  else if f = 1 ∨ f = 2 ∨ f = 9 then [.ready, .active, .quiesced]
  else if op = 0x0301 then [.ready, .active]
  else if op = 0x0302 ∨ op = 0x0305 then [.active, .quiesced]
  else if 3 ≤ f ∧ f ≤ 8 then [.active]
  else if op = 0x0B60 then [.minimal, .ready, .active, .quiesced, .failed]
  else if f = 10 then [.minimal, .ready, .active, .quiesced]
  else if f = 11 then [.ready, .active, .quiesced, .failed]
  else []

/-- R622: the module's power state. -/
def powerState (m : Dev) : Nat :=
  if m.power.deep ≠ 0 then m.power.deep
  else (List.range 8).foldl (fun a d => min a (pdieAt m d).st) 3

/-- R629, R630: the power state lets the module take the opcode from the mailbox. -/
def powerAllows (m : Dev) (op mb : Nat) : Bool :=
  let p := powerState m
  if p < 3 then true
  else if p = 3 then
    decide (op ∈ [0x0101, 0x0104, 0x0105, 0x0206]) || decide (op / 256 = 9) || decide (op / 256 = 11)
  else decide (mb < 8) && decide (op ∈ [0x0101, 0x0104, 0x0907, 0x0903])

/-- R112, R695: in BOOT, MINIMAL and FAILED only mailboxes 0 to 7 are served, and there only these opcodes. -/
def servedHere (m : Dev) (op mb : Nat) : Bool :=
  match m.sys.st with
  | .boot => decide (mb < 8) && decide (op ∈ [0x0101, 0x0104, 0x0B90])
  | .minimal => decide (mb < 8) && decide (op ∈ [0x0101, 0x0104, 0x0A01, 0x0A02, 0x0A03, 0x0A10, 0x0B60, 0x0B90])
  | .failed => decide (mb < 8) && (decide (op ∈ [0x0101, 0x0104]) || decide (op / 256 = 11))
  | _ => true

/-- The bytes of R89 for a check or an application that a job, or none, was named in. -/
def stateBody (m : Dev) (job : Option Nat) (obj : Nat) : List Byte :=
  let j := job.bind (jobById m)
  let stroke := match m.sys.st with
    | .boot => 0
    | .failed => 0
    | _ => strokeOf m (streamOf m (j.map (·.1)))
  leBytes 1 (stateCode m.sys.st) ++ leBytes 1 (match j with | some p => phaseCode p.2.phase | none => 0xFF)
    ++ leBytes 2 obj ++ leBytes 4 (match j with | some p => p.2.epoch | none => 0) ++ leBytes 8 stroke ++ zeros 16

/-- R21, R118, R127: every named bucket belongs to the requester's partition; entry 0, an index beyond the table and a FREE entry
belong to none. OBJECT_STATE gives the first that fails, for R78. -/
def bucketsOwned (m : Dev) (part : Nat) (bs : List Nat) : Option Err :=
  match bs.find? (fun b => !(decide (1 ≤ b) && decide (b ≤ 32767) && decide ((flagAt m b).owner ≠ 0) && decide ((flagAt m b).part = part))) with
  | some b => some { status := 0x7001, obj := b }
  | none => none

/-- R127: every index is a data bucket's. -/
def bucketsIndexed (bs : List Nat) : Option Err :=
  ensure (bs.all fun b => decide (1 ≤ b) && decide (b ≤ 32767)) 0x2006

/-- R127: every bucket is mapped and reads DEVICE; OBJECT_STATE gives the first that fails. -/
def bucketsDevice (m : Dev) (bs : List Nat) : Option Err :=
  match bs.find? (fun b => decide ((flagAt m b).owner ≠ 2)) with
  | some b => some { status := 0x1005, obj := b }
  | none => none

/-- The slot and job that a command names. -/
def specJob (c : CmdSpec) (m : Dev) : Option (Nat × Job) := c.job.bind (jobById m)

/-- SECURITY checks (R21, R108): the requester is the mailbox's partition. -/
def secErr (c : CmdSpec) (m : Dev) : Option Err :=
  firstErr [
    ensure (!c.admin || decide (c.mb / 32 = 0)) 0x7002,
    (match specJob c m with
      | some p => ensure (decide (p.2.part = c.mb / 32)) 0x7001
      | none => none),
    c.sec m,
    bucketsOwned m (c.mb / 32) c.buckets]

/-- PARAM checks: JOB_UNKNOWN, then the command's own in the order in which its description lists them, then the bucket indices
(DESIGN CHOICE, log entry 5: the spec does not order the checks of one class). -/
def parErr (c : CmdSpec) (m : Dev) : Option Err :=
  firstErr [
    ensure (c.job.isNone || (specJob c m).isSome) 0x2004,
    c.par m,
    bucketsIndexed c.buckets]

/-- STATE checks: R629, R91, R76, R92, then the command's own and its buckets'. -/
def staErr (c : CmdSpec) (m : Dev) : Option Err :=
  firstErr [
    ensure (powerAllows m c.opcode c.mb) 0x1001 (0x0900 + powerState m),
    ensure (decide (m.sys.st ∈ c.states.getD (familyStates c.opcode))) 0x1001,
    (if c.jobWide then match specJob c m with
      | some p => ensure p.2.isOrigin 0x1003 p.2.origin
      | none => none
     else none),
    (match c.phases, specJob c m with
      | some l, some p => ensure (decide (p.2.phase ∈ l)) 0x1001
      | _, _ => none),
    c.sta m,
    bucketsDevice m c.buckets]

/-- R112, R113: what is not served gets WRONG_STATE. -/
def unserved (c : CmdSpec) (m : Dev) : Option Err := ensure (servedHere m c.opcode c.mb) 0x1001

/-- R21: the first failing check in the order SECURITY, PARAM, STATE. -/
def acceptErr (c : CmdSpec) (m : Dev) : Option Err :=
  match ensure (!c.admin || decide (c.mb / 32 = 0)) 0x7002 with
  | some e => some e
  | none => firstErr [unserved c m, secErr c m, parErr c m, staErr c m]

/-- R78: every check again, before the application. -/
def recheckErr (c : CmdSpec) (m : Dev) : Option Err := firstErr [secErr c m, parErr c m, staErr c m]

/-- The body of a refusal: R89 for the STATE class (R19). -/
def errBody (c : CmdSpec) (m : Dev) (e : Err) : List Byte :=
  if e.status / 4096 = 1 then stateBody m (e.job.or c.job) e.obj else e.body

/-- R74: the stream that times a command. -/
def specStream (c : CmdSpec) (m : Dev) : Option Nat :=
  if c.jobTimed then streamOf m ((specJob c m).map (·.1)) else none

/-- The standpipe answers, with no strokes (R113). -/
def noStrokes (m : Dev) : Bool := decide (m.sys.st = .boot) || decide (m.sys.st = .failed)

/-- R80, R111: an answer written at once. -/
def answerNow (c : CmdSpec) (m : Dev) (status : Nat) (body : List Byte) : Dev :=
  let st := specStream c m
  let k := if noStrokes m then 0 else b2n st.isSome
  let n := if noStrokes m then 0 else strokeOf m st
  writeReply m { mb := c.mb, status := status, body := body, slot := none, due := 0, kind := k, accept := n, done := n,
                 stretch := false, jobId := c.job.getD 0 }

/-- The key of a stream in `Dev.seen`. -/
def streamKey : Option Nat → Nat
  | none => 16
  | some j => j

/-- R80: the module as a query reports it: as of the latest completed stroke end of the stream that times the query. Where no
stroke has completed, where no strokes run (R113), and for a job bound since then, it reports the module as it stands (DESIGN
CHOICE, log entry 5). -/
def reported (c : CmdSpec) (m : Dev) : Dev :=
  match tfind m.seen (streamKey (specStream c m)) with
  | none => m
  | some b =>
    let d : Dev := { toBody := { b with free := m.free, cycle := m.cycle } }
    if noStrokes m ∨ (specJob c d).map (·.1) ≠ (specJob c m).map (·.1) then m else d

/-- R129: a command holds the buckets it names from its acceptance. -/
def takeBuckets (m : Dev) (mb : Nat) (bs : List Nat) : Dev :=
  { m with ctl := { m.ctl with holds := m.ctl.holds ++ bs.map (fun b => { bucket := b, mb := mb }) } }

/-- R129: the buckets of a command that has ended return at the end of the stroke in which it ended, in each bucket's own
timing (R126). -/
def endBuckets (m : Dev) (mb : Nat) : Dev :=
  { m with ctl := { m.ctl with holds := m.ctl.holds.map (fun h =>
      if h.mb = mb ∧ h.due = none then { h with due := some (bucketStream m h.bucket, strokeOf m (bucketStream m h.bucket)) } else h) } }

/-- R702: the commands that extend CONFIG_MEAS. -/
def measuredConfig (op : Nat) : Bool := decide (op ∈ [0x0110, 0x0115, 0x0140, 0x0904, 0x0120, 0x0205, 0x0113, 0x0114, 0x0130])

/-- R702: extends CONFIG_MEAS by a command that has succeeded. -/
def extendConfig (m : Dev) (op : Nat) (body : List Byte) : Dev :=
  { m with sys := { m.sys with
      configMeas := shake256 32 (m.sys.configMeas ++ leBytes 2 op ++ body)
      configCount := m.sys.configCount + 1 } }

/-- Stages the reply of a command that the boundary opening stroke `n` has applied. `stream` and `accept` are those of its
acceptance. A command whose effect ended its stream has no closing boundary there: its reply comes at the end of the local
stroke (JOB_DESTROY). -/
def stageReply (c : CmdSpec) (a : Applied) (stream : Option Nat) (accept n : Nat) : Dev :=
  let alive := match stream with
    | none => true
    | some j => (jobAt a.m j).isSome
  let slot := if alive then stream else none
  let r : Reply := {
    mb := c.mb, status := a.status
    body := if a.status / 4096 = 1 then stateBody a.m c.job a.obj else a.body
    slot := slot, due := strokeOf a.m slot
    kind := b2n stream.isSome, accept := accept, done := n, stretch := c.stretch, jobId := c.job.getD 0, applied := n }
  let t := if a.status = 0 ∧ measuredConfig c.opcode then extendConfig a.m c.opcode (requestBytes c.cmd) else a.m
  let t := if a.keep then t else endBuckets t c.mb
  match a.wait with
  | some w => if a.status = 0 then { t with ctl := { t.ctl with waits := t.ctl.waits ++ [{ why := w, reply := r }] } }
              else { t with ctl := { t.ctl with replies := t.ctl.replies ++ [r] } }
  | none => { t with ctl := { t.ctl with replies := t.ctl.replies ++ [r] } }

/-- R694: a request of the MINIMAL command set waits in its mailbox until the minimal service is up, apart from the
ones that the standpipe serves. -/
def leftWaiting (m : Dev) (op mb : Nat) : Bool :=
  decide (m.sys.st = .minimal) && !m.sys.svcUp && decide (mb < 8) && decide (op ∈ [0x0A01, 0x0A02, 0x0A03, 0x0A10, 0x0B60])

/-- A request that no one takes up: the module is OFF, the partition that owns its mailbox is not configured (R96), or it waits for
the minimal service (R694). -/
def unreached (m : Dev) (op mb : Nat) : Bool :=
  decide (m.sys.st = .off) || !(partAt m (mb / 32)).configured || leftWaiting m op mb

/-- R75, R85: a job-wide command for a job of which this module is the origin waits while the origin has accepted another for its
next boundary, or its job has no strokes yet. Its STATE checks are made when it is accepted. -/
def jobWideBusy (c : CmdSpec) (m : Dev) : Bool :=
  c.jobWide && (firstErr [unserved c m, secErr c m, parErr c m]).isNone
    && (match specJob c m with | some p => p.2.isOrigin && (p.2.jobWide.isSome || !p.2.started) | none => false)

/-- R74, R75: an accepted command that changes state. Its buckets are held (R129). A job-wide command goes into the origin's next
boundary record, and every other waits for the next boundary of the stream that times it. -/
def queueCmd (c : CmdSpec) (m : Dev) : Dev :=
  let st := specStream c m
  let a : Accepted := { cmd := c.cmd, mb := c.mb, slot := st, stroke := strokeOf m st }
  let m := takeBuckets m c.mb c.buckets
  match c.jobWide, specJob c m with
  | true, some p => updJob m p.1 (fun j => { j with jobWide := some { a with slot := some p.1 } })
  | _, _ => updCtl m (fun t => { t with accepted := t.accepted ++ [a] })

/-- A mailbox command meets its acceptance checks (R74). A refusal and a query are answered at once (R80); a command that changes
state takes effect at the boundary that `queueCmd` names (R23). A job-wide command that finds another accepted in the same
stroke waits (R75). -/
def runCmd (c : CmdSpec) (m : Dev) : Dev :=
  if unreached m c.opcode c.mb then m
  else if jobWideBusy c m then
    updCtl m (fun t => { t with waiting := t.waiting ++ [{ cmd := c.cmd, mb := c.mb, slot := specStream c m, stroke := 0 }] })
  else match acceptErr c m with
  | some e => answerNow c m e.status (errBody c m e)
  | none =>
    if c.query then
      let a := c.apply (reported c m)
      answerNow c { m with free := a.m.free } a.status (if a.status / 4096 = 1 then stateBody m c.job a.obj else a.body)
    else queueCmd c m

/-- R77 steps 3 and 4: a request accepted in an earlier stroke meets the boundary that opens stroke `n`, with the checks of R78. -/
def applyAccepted (c : CmdSpec) (m : Dev) (stream : Option Nat) (accept n : Nat) : Dev :=
  match recheckErr c m with
  | some e => stageReply c { m := m, status := 0x1001, obj := e.obj } stream accept n
  | none => stageReply c (c.apply m) stream accept n

/-- Ends the replies that wait for a condition: they are written at the end of the current stroke of their stream. -/
def finishWaits (m : Dev) (p : WaitFor → Bool) (f : Reply → Reply) : Dev :=
  let hit := m.ctl.waits.filter (fun w => p w.why)
  let m := { m with ctl := { m.ctl with waits := m.ctl.waits.filter (fun w => !p w.why) } }
  { m with ctl := { m.ctl with replies := m.ctl.replies ++ hit.map (fun w =>
      f { w.reply with due := max w.reply.due (strokeOf m w.reply.slot)
                       done := if w.reply.slot.isSome = decide (w.reply.kind = 1)
                         then max w.reply.done (strokeOf m w.reply.slot) else w.reply.done }) } }

/-! ### Stroke ends (R129, R130) -/

/-- R129: writes the entry of a bucket that returns at the end of stroke `n` of its stream. -/
def returnBucket (m : Dev) (h : BucketHold) (n kind : Nat) : Dev :=
  let f := flagAt m h.bucket
  if f.owner = 2 then
    setFlag m h.bucket { f with
      owner := 1, handoffs := f.handoffs + 1, stroke := n, strokeKind := kind
      fill := match h.fill with | some x => x.1 | none => f.fill
      tag := match h.fill with | some x => x.2 | none => f.tag }
  else m

/-- R140: BUCKET_TO_HOST records for a rising list of returned buckets of one partition. The spec does not say where a window of
192 indices begins: each begins at the lowest index not yet told (DESIGN CHOICE, log entry 6). -/
def returnRecords (part jobId kind n : Nat) : Nat → List Nat → List Event
  | 0, _ => []
  | _, [] => []
  | fuel + 1, b :: l =>
    let run := (b :: l).takeWhile (fun x => decide (x < b + 192))
    { etype := 0x0201, part := part, strokeKind := kind, jobId := jobId, stroke := n,
      payload := leBytes 4 b ++ leBytes 24 (maskOf (run.map (· - b))) }
      :: returnRecords part jobId kind n fuel ((b :: l).dropWhile (fun x => decide (x < b + 192)))

/-- R130 items 1 to 3 for one stream whose stroke `n` ends: the buckets that are due, and the event records. A record of an earlier
stroke goes ahead of the stroke's own (R81), and the returns come last, because they happen at the end (R138). -/
def endStrokeData (m : Dev) (stream : Option Nat) (n : Nat) : Dev :=
  let kind := b2n stream.isSome
  let due := m.ctl.holds.filter (fun h => match h.due with | some (s, k) => decide (s = stream) && decide (k ≤ n) | none => false)
  let told := (due.map (·.bucket)).filter (fun b => decide ((flagAt m b).owner = 2) && decide ((flagAt m b).notify = 1))
  let jobId := match stream with
    | some j => ((jobAt m j).map (·.id)).getD 0
    | none => 0
  let evs := (List.range 8).flatMap fun p =>
    let l := (told.filter (fun b => decide ((flagAt m b).part = p))).mergeSort
    returnRecords p jobId kind n l.length l
  let m := due.foldl (fun m h => returnBucket m h n kind) m
  let m := { m with ctl := { m.ctl with holds := m.ctl.holds.filter (fun h => !decide (h ∈ due)) } }
  let own := (m.ctl.evq.filter (fun e => decide (e.1 = stream))).map (·.2)
  let late := fun (e : Event) => decide (e.stroke ≠ n) || decide (e.strokeKind ≠ kind)
  let m := { m with ctl := { m.ctl with evq := m.ctl.evq.filter (fun e => !decide (e.1 = stream)) } }
  (own.filter late ++ own.filter (fun e => !late e) ++ evs).foldl emit m

/-- R73: a stretched stroke of a stream marks every command of it whose reply is still owed. -/
def markSpanned (m : Dev) (stream : Option Nat) : Dev :=
  let f := fun (r : Reply) => if r.slot = stream then { r with spanned := true } else r
  { m with ctl := { m.ctl with replies := m.ctl.replies.map f, waits := m.ctl.waits.map (fun w => { w with reply := f w.reply }) } }

/-- R130 item 4: the replies committed at the end of stroke `n` of a stream; success across a stretched stroke is
STROKE_STRETCH (R73). -/
def endStrokeReplies (m : Dev) (stream : Option Nat) (n : Nat) : Dev :=
  let p := fun (r : Reply) => decide (r.slot = stream) && decide (r.due ≤ n)
  let rs := m.ctl.replies.filter p
  let m := { m with ctl := { m.ctl with replies := m.ctl.replies.filter (fun r => !p r) } }
  rs.foldl (fun m r => writeReply m (if r.spanned ∧ r.stretch ∧ r.status = 0 then { r with status := 0x8001 } else r)) m

/-- R130: everything that the end of a stroke writes to the host; what a query reports stands as of now (R80). -/
def endStroke (m : Dev) (stream : Option Nat) (n : Nat) (stretched : Bool) : Dev :=
  let m := if stretched then markSpanned m stream else m
  let m := endStrokeReplies (endStrokeData m stream n) stream n
  { m with seen := tput m.seen (streamKey stream) { m.toBody with out := [] } }

/-- The frame of a mailbox row. -/
def onCmd (c : CmdSpec) (s : State) : Host.Outcome State Fault Refusal := onDev c.cmd (runCmd c) s

end Sys2Proof.Machine
end

