-- ==== Sys2Proof/Machine/Memory.lean ====
section
/-! DEFINITION. Sys2Proof/Machine/Memory.lean: HBM, the cistern and the aquifer (chapter 07): segments, allocation and
quotas, accesses of a unit with scratchpad ownership (R259 to R266) and the siphon's protection (R554), and the
commands and events of the memory tiers. -/

namespace Sys2Proof.Machine

/-! ### Segments and allocation (R289 to R296, R729) -/

/-- A segment is 2 MiB (R289). -/
def segBytes : Nat := 0x200000

/-- The unit of a segment: 0 to 15 a stack, 16 to 47 a package. -/
def segUnit (seg : Nat) : Nat := if seg < 1048576 then seg / 65536 else 16 + (seg - 1048576) / 32768

/-- First segment and number of segments of a unit. -/
def unitSegs (u : Nat) : Nat × Nat := if u < 16 then (u * 65536, 65536) else (1048576 + (u - 16) * 32768, 32768)

/-- 1 for HBM, 2 for the cistern. -/
def segKind (seg : Nat) : Nat := if seg < 1048576 then 1 else 2

/-- The runs of segments that are not FREE (R290). -/
def takenRuns (m : Mem) : List (Nat × Nat) :=
  m.allocs.map (fun a => (a.first, a.count)) ++ m.clearing.map (fun s => (s, 1)) ++ m.retired.map (fun s => (s, 1))
    ++ m.retirePending.map (fun s => (s, 1))

/-- Two runs share a segment. -/
def runsMeet (a b : Nat × Nat) : Bool := decide (a.1 < b.1 + b.2) && decide (b.1 < a.1 + a.2)

/-- R291: the lowest-addressed run of `n` contiguous FREE segments of a unit. It starts at the unit's first segment or
right after a run that is taken. -/
def findRun (m : Mem) (u n : Nat) : Option Nat :=
  let r := unitSegs u
  let taken := takenRuns m
  let ok := fun f => decide (r.1 ≤ f) && decide (f + n ≤ r.1 + r.2) && !taken.any (runsMeet (f, n))
  ((r.1 :: taken.map (fun t => t.1 + t.2)).filter ok).min?

/-- The number of FREE segments in a region. -/
def freeSegs (m : Mem) (kind : Nat) : Nat :=
  1048576 - ((takenRuns m).filter (fun r => decide (segKind r.1 = kind))).foldl (fun n r => n + r.2) 0

/-- An extent's key: its partition's space and its number (R308). -/
def extentKey (p e : Nat) : Nat := p * 33554432 + e

/-- R290, R293: what a partition uses of a kind. -/
def usedBy (m : Mem) (part kind : Nat) : Nat :=
  if kind = 3 then (trange m.aq.extents (extentKey part 0) 33554432).length
  else (m.allocs.filter (fun a => decide (a.part = part) && decide (segKind a.first = kind))).foldl
    (fun n a => n + a.count) 0

/-- What a job uses of a kind. -/
def usedByJob (m : Mem) (slot kind : Nat) : Nat :=
  if kind = 3 then (m.aq.extents.filter (fun e => decide (e.2.job = some slot))).length
  else (m.allocs.filter (fun a => decide (a.job = some slot) && decide (segKind a.first = kind))).foldl
    (fun n a => n + a.count) 0

/-- R294: the capacity of a kind, partition 0's quota at entry to READY. -/
def capacityOf (kind : Nat) : Nat := if kind = 3 then 30517578 else 1048576

/-- A partition's quota (R293, R294). -/
def quotaOf (m : Mem) (part kind : Nat) : Nat := tget (if part = 0 then capacityOf kind else 0) m.quota (part * 3 + (kind - 1))

/-- A quota of all ones is unlimited (R293). -/
def withinQuota (quota used n : Nat) : Bool := decide (quota = 0xFFFFFFFFFFFFFFFF) || decide (used + n ≤ quota)

/-- R295: the quota tests of a request; a request of nothing meets none. -/
def quotaAdmits (m : Dev) (part : Nat) (job : Option Nat) (kind n : Nat) : Bool :=
  decide (n = 0) || withinQuota (quotaOf m.mem part kind) (usedBy m.mem part kind) n
    && (match job with
      | none => true
      | some j => match jobAt m j with
        | some b => withinQuota (nth 0 b.quota (kind - 1)) (usedByJob m.mem j kind) n
        | none => true)

/-- Places shares, each a unit and a number of segments, one after another; `none` when one does not fit (R729). A grant reads
zero and carries no poison mark (R291). -/
def placeShares (m : Mem) (part : Nat) (job : Option Nat) (use : AllocUse) (group : Nat) :
    List (Nat × Nat) → Option Mem
  | [] => some m
  | (u, n) :: l =>
    if n = 0 then placeShares m part job use group l
    else match findRun m u n with
      | none => none
      | some f =>
        let m := memZero m (f * segBytes) (n * segBytes)
        placeShares { m with allocs := m.allocs ++ [{ first := f, count := n, part := part, job := job, use := use, group := group }] }
          part job use group l

/-- Number of segments that hold a number of bytes. -/
def segsOf (bytes : Nat) : Nat := (bytes + segBytes - 1) / segBytes

/-- R295, R729: an allocation of shares as a whole: OVER_QUOTA, NO_MEMORY or the module with its group number. -/
def allocate (m : Dev) (part : Nat) (job : Option Nat) (use : AllocUse) (shares : List (Nat × Nat)) : Except Nat (Dev × Nat) :=
  let hbm := (shares.filter (fun s => decide (s.1 < 16))).foldl (fun n s => n + s.2) 0
  let cis := (shares.filter (fun s => decide (16 ≤ s.1))).foldl (fun n s => n + s.2) 0
  if !quotaAdmits m part job 1 hbm || !quotaAdmits m part job 2 cis then .error 0x3002
  else match placeShares m.mem part job use m.mem.nextGroup shares with
    | none => .error 0x3004
    | some mem => .ok ({ m with mem := { mem with nextGroup := mem.nextGroup + 1 } }, m.mem.nextGroup)

/-- The allocations of a group, in the order they were placed. -/
def groupAllocs (m : Mem) (g : Nat) : List Alloc := m.allocs.filter (fun a => decide (a.group = g))

/-- The first address of an allocation: the lowest of its shares. -/
def groupAddr (m : Mem) (g : Nat) : Nat := ((groupAllocs m g).map (fun a => a.first * segBytes)).min?.getD 0

/-- R671, R672: a grant is in force on an allocation. -/
def granted (m : Mem) (g : Nat) : Bool := m.grants.any (fun r => decide (r.addr = groupAddr m g))

/-- R292, R672: releases the allocations that satisfy a test: their segments enter CLEARING in ascending address, and
one under a grant is parked until its last grant is revoked. -/
def releaseAllocs (m : Mem) (p : Alloc → Bool) : Mem :=
  let go := m.allocs.filter (fun a => p a && !granted m a.group)
  { m with
    allocs := (m.allocs.filter (fun a => !(p a && !granted m a.group))).map
      (fun a => if p a then { a with parked := true, job := none } else a)
    clearing := m.clearing ++ (go.flatMap (fun a => (List.range a.count).map (fun i => a.first + i))).mergeSort }

/-- The allocation that holds a segment. -/
def allocOfSeg (m : Mem) (seg : Nat) : Option Alloc :=
  m.allocs.find? (fun a => decide (a.first ≤ seg) && decide (seg < a.first + a.count))

/-- Every segment of a run of bytes lies in an allocation that satisfies a test. -/
def rangeHeld (m : Mem) (addr bytes : Nat) (p : Alloc → Bool) : Bool :=
  let f := addr / segBytes
  let n := (addr + bytes + segBytes - 1) / segBytes - f
  let inside := (m.allocs.filter p).foldl
    (fun k a => k + (min (a.first + a.count) (f + n) - max a.first f)) 0
  decide (bytes = 0) || (decide (addr + bytes ≤ 0x040000000000) && decide (inside = n))

/-- A mapped bucket lies over an allocation of which a test holds (R125). -/
def mappedOver (m : Dev) (p : Alloc → Bool) : Bool :=
  m.ctl.flags.any (fun f => decide (f.2.owner ≠ 0) && m.mem.allocs.any
    (fun a => p a && decide (a.first * segBytes ≤ f.2.addr) && decide (f.2.addr < (a.first + a.count) * segBytes)))

/-- The partition to which an event about a memory address goes (R321). -/
def holderOf (m : Mem) (addr : Nat) : Nat := match allocOfSeg m (addr / segBytes) with | some a => a.part | none => 0

/-! ### Accesses of a unit (R35, R36, R259 to R266, R303 to R305, R554) -/

/-- The 16-bit code of the owner in a bank's register (R260). -/
def ownerCode (die : Nat) (b : Bank) : Nat := if b.owner ≥ 0xFE ∨ b.owner = 0xC1 then 0xF00 + b.owner else die * 256 + b.owner

/-- R261: counts a non-owner access or a refused handover, with one BANK_FAULT per bank and stroke. -/
def bankFault (m : Dev) (die bank requester cause offset : Nat) : Dev :=
  let b := bankAt m die bank
  let m' := updBank m die bank (fun b => { b with
    count := sat 16 (b.count + 1), lastReq := requester % 256, lastCause := cause, faulted := true })
  if b.faulted then m'
  else raisePart m' (dieOwner m die) 0x0B30 0
    (leBytes 1 die ++ leBytes 1 bank ++ leBytes 2 requester ++ leBytes 2 (ownerCode die b) ++ leBytes 1 cause
      ++ leBytes 1 b.jobSlot ++ leBytes 4 offset)

/-- R259: the unit owns the bank, is on the bank's die, and works for the bank's job slot. -/
def ownsBank (m : Dev) (unit slot die bank : Nat) : Bool :=
  let b := bankAt m die bank
  decide (b.owner = unit % 256) && (decide (unit / 256 = die) || decide (unit / 256 = 15))
    && (decide (unit % 256 = 0xFF) || (b.jobValid && decide (b.jobSlot = slot)))

/-- The partition that a unit serves: that of the job slot's job, or of its die (R669). -/
def servedPart (m : Dev) (unit slot : Nat) : Nat :=
  match jobAt m slot with
  | some j => j.part
  | none => if unit / 256 < 8 then dieOwner m (unit / 256) else 0

/-- R670: a segment's holder, or a grant of it, admits the access of a unit that serves a partition. The wellhead, the
standpipe and the sluice are exempt. -/
def segAdmits (m : Dev) (unit part seg : Nat) (write : Bool) : Bool :=
  decide (unit ∈ [0xFC1, 0xFFE, 0xFFF]) ||
  match allocOfSeg m.mem seg with
  | none => false
  | some a =>
    if a.part = part then !write || !granted m.mem a.group
    else !write && m.mem.grants.any (fun g => decide (g.addr = groupAddr m.mem a.group) && bitOf g.grantees part)

/-- R124: some byte of a run lies under a mapped bucket that reads HOST; no engine writes it. -/
def underHost (m : Dev) (a n : Nat) : Bool :=
  m.ctl.flags.any (fun f => decide (f.2.owner = 1) && decide (f.2.addr < a + n) && decide (a < f.2.addr + segBytes))

/-- R304: a controller finds an uncorrectable block: it takes the poison syndrome, is counted, and raises MEM_POISON. -/
def poisonFound (m : Dev) (requester addr : Nat) : Dev :=
  let k := segKind (addr / segBytes)
  let u := segUnit (addr / segBytes)
  let m := riskHit (updMem m (fun x => { memMark x addr true with damaged := x.damaged.filter (fun b => decide (b ≠ addr / 64)) })) 1 1
  let m := updMem m (fun x =>
    if k = 1 then { x with hbm := tmod {} x.hbm u (fun s => { s with uncorrectable := sat 16 (s.uncorrectable + 1) }) }
    else { x with cis := tmod {} x.cis (u - 16) (fun s => { s with uncorrectable := sat 16 (s.uncorrectable + 1) }) })
  raisePart m (holderOf m.mem addr) 0x0205 0
    (leBytes 1 k ++ leBytes 1 (if k = 1 then u else u - 16) ++ leBytes 2 requester ++ zeros 4 ++ leBytes 8 addr)

/-- A cycle of the fixed reference clock passes (R9); a block of memory may become uncorrectable in it (R304). -/
def idleCycle (m : Dev) : Dev :=
  let m := { m with cycle := m.cycle + 1 }
  match Config.damage m.cycle with
  | some b => if isExtMem (b * 64) && !decide (b ∈ m.mem.damaged) then updMem m (fun x => { x with damaged := b :: x.damaged }) else m
  | none => m

/-- R304: what the controllers find in the blocks that a read of a requester touches. -/
def readFinds (m : Dev) (requester addr n : Nat) : Dev :=
  (m.mem.damaged.filter (fun b => decide (addr / 64 ≤ b) && decide (b * 64 < addr + n))).foldl
    (fun m b => poisonFound m requester (b * 64)) m

/-- The same over runs of memory. -/
def readsFind (m : Dev) (requester : Nat) (ps : List (Nat × Nat)) : Dev :=
  if m.mem.damaged.isEmpty then m else ps.foldl (fun m p => readFinds m requester p.1 p.2) m

/-- The same for a reader to which R260 gives no unit code (the Ethernet port, the siphon, the aquifer): its REQUESTER is a free
value, twelve bits of a unit code (DESIGN CHOICE, log entry 27). -/
def freeFinds (m : Dev) (ps : List (Nat × Nat)) : Dev :=
  if m.mem.damaged.isEmpty || ps.isEmpty then m else
    let r := drawFree m 12
    readsFind r.2 r.1 ps

/-- An access of a unit for a job slot to `n` bytes, within one bank, that does not reach memory: R35, R261, R670. -/
def barred (m : Dev) (unit slot addr n cause : Nat) : Bool :=
  match placeOf addr with
  | .hbm _ | .cis _ =>
    let p := servedPart m unit slot
    !(segAdmits m unit p (addr / segBytes) (cause ≠ 0) && segAdmits m unit p ((addr + n - 1) / segBytes) (cause ≠ 0))
  | .spad d b => !ownsBank m unit slot d b
  | .regs | .unmapped => true

/-- What such an access raises. -/
def barredFault (m : Dev) (unit cause addr : Nat) : Dev :=
  match placeOf addr with
  | .spad d b => bankFault m d b unit cause (addr % 0x100000)
  | _ => addressFault m unit addr

/-- An access of a unit reaches memory; otherwise the module with what the failed access raises. `cause` is that of R286: 0 for
a read, another for a write or an atomic, which R124 bars under a bucket that the host owns: it is dropped, and raises nothing
(DESIGN CHOICE, log entry 8: R124 names no event). -/
def admitAccess (m : Dev) (unit slot addr n cause : Nat) : Bool × Dev :=
  if barred m unit slot addr n cause then (false, barredFault m unit cause addr)
  else (cause = 0 || !isExtMem addr || !underHost m addr n, m)

/-- The barred accesses of one instruction: it counts and raises once for each bank, and once for what is neither bank nor memory
it may use (R35, R261; DEDUCED, log entry 12: a load of 64 lanes is one access to each bank it touches). -/
def barredLanes (m : Dev) (unit slot n cause : Nat) (as : List Nat) : Dev :=
  let key := fun a => match placeOf a with | .spad d b => d * 160 + b | _ => 1280
  let bad := as.filter (fun a => barred m unit slot a n cause)
  (bad.foldl (fun (x : List Nat × Dev) a =>
    if key a ∈ x.1 then x else (key a :: x.1, barredFault x.2 unit cause a)) ([], m)).2

/-- The parts of an access that lie in different banks. -/
def bankPieces (addr n : Nat) : List (Nat × Nat) :=
  if isExtMem addr then [(addr, n)]
  else (List.range ((addr % 0x100000 + n + 0xFFFFF) / 0x100000)).map (fun i =>
    let lo := max addr ((addr / 0x100000 + i) * 0x100000)
    (lo, min (addr + n) ((addr / 0x100000 + i + 1) * 0x100000) - lo))

/-- A read of a unit: the bytes, whether a block was poisoned, whether a bank that it does not own was met (R155), and the
module. What does not reach memory reads zero. -/
def unitReads (m : Dev) (unit slot addr n : Nat) : List Byte × Bool × Bool × Dev :=
  (bankPieces addr n).foldl (fun x p =>
    match admitAccess x.2.2.2 unit slot p.1 p.2 0 with
    | (true, m) =>
      let m := readFinds m unit p.1 p.2
      (x.1 ++ memRead m.mem p.1 p.2, x.2.1 || memPoisoned m.mem p.1 p.2, x.2.2.1, m)
    | (false, m) => (x.1 ++ zeros p.2, x.2.1, x.2.2.1 || !isExtMem p.1, m)) ([], false, false, m)

/-- The same without the third. -/
def unitRead (m : Dev) (unit slot addr n : Nat) : List Byte × Bool × Dev :=
  let r := unitReads m unit slot addr n
  (r.1, r.2.1, r.2.2.2)

/-- The die whose shared cache guards an address; the cistern counts as die 8. -/
def dieOfAddr (a : Nat) : Nat := if a < 0x020000000000 then a / 0x4000000000 else 8

/-- R554, R555: the siphon's protection of one job over the 64 KiB pages that a write touches: each goes to a free reserve slot. When
its die has none the write waits in the hardware until the page has been sent, for a time that the model leaves out (log entry 26): the
page stays to be sent, and the write goes on. -/
def touchJob (slot : Nat) (m : Dev) (a n : Nat) : Dev :=
  match jobAt m slot with
  | none => m
  | some j =>
    let hit := j.secure.protectedPages.filter (fun p => decide (p * 65536 < a + n) && decide (a < p * 65536 + 65536))
    hit.foldl
      (fun m p => match jobAt m slot with
        | none => m
        | some j =>
          let die := dieOfAddr (p * 65536)
          let used := (j.secure.reserved.filter (fun r => decide (dieOfAddr (r.1 * 65536) = die))).length
          if used < tget 0 j.secure.reserveCap die then
            let m := updJob m slot (fun j => { j with secure := { j.secure with
              protectedPages := j.secure.protectedPages.filter (fun q => decide (q ≠ p)), touches := j.secure.touches + 1
              reserved := tput j.secure.reserved p (trange m.mem.bytes (p * 65536) 65536)
              reservePeak := max j.secure.reservePeak (j.secure.reserved.length + 1) } })
            updFab m die (fun f => { f with touches := f.touches + 1, siphonActive := (f.siphonActive + 1400) % 2 ^ 64 })
          else updFab m die (fun f => { f with siphonFull := true }))
      (freeFinds m (hit.map (fun p => (p * 65536, 65536))))

/-- R554 for every job. -/
def touchPages (m : Dev) (a n : Nat) : Dev :=
  if isExtMem a then (m.jobs.map (·.1)).foldl (fun m s => touchJob s m a n) m else m

/-- A write of a unit. A poisoned value marks the blocks it touches (R257). -/
def unitWrite (m : Dev) (unit slot addr : Nat) (l : List Byte) (poisoned : Bool) : Dev :=
  (bankPieces addr l.length).foldl (fun m p =>
    match admitAccess m unit slot p.1 p.2 1 with
    | (true, m) =>
      let m := touchPages m p.1 p.2
      let mem := memWrite m.mem p.1 ((l.drop (p.1 - addr)).take p.2)
      { m with mem := if poisoned then memPoison mem p.1 p.2 else mem }
    | (false, m) => m) m

/-! ### Memory commands -/

/-- A JOB_ID field in which 0 names no job. -/
def optJob (id : Nat) : Option Nat := if id = 0 then none else some id

/-- MEM_ALLOC (R291, R295). -/
def specMemAlloc (mb jobId kind unit segments : Nat) : CmdSpec where
  cmd := .memAlloc mb jobId kind unit segments
  opcode := 0x0203
  mb := mb
  job := optJob jobId
  stretch := true
  par := fun _ => ensure (decide ((kind = 1 ∧ unit < 16 ∧ 1 ≤ segments ∧ segments ≤ 65536)
    ∨ (kind = 2 ∧ unit < 32 ∧ 1 ≤ segments ∧ segments ≤ 32768))) 0x2003
  apply := fun m =>
    match allocate m (mb / 32) ((optJob jobId).bind fun id => (jobById m id).map (·.1)) .cmd
      [(if kind = 1 then unit else 16 + unit, segments)] with
    | .error e => { m := m, status := e }
    | .ok (m', g) => { m := m', body := leBytes 8 (groupAddr m'.mem g) }

def execMemAlloc (mb jobId kind unit segments : Nat) (s : State) : Host.Outcome State Fault Refusal :=
  onCmd (specMemAlloc mb jobId kind unit segments) s

/-- The allocation group of a partition that starts at an address. -/
def groupAt (m : Mem) (part addr : Nat) : Option Nat :=
  (m.allocs.find? (fun a => decide (a.part = part) && decide (groupAddr m a.group = addr))).map (·.group)

/-- The mapped buckets over an allocation group (R125). -/
def groupMapped (m : Dev) (g : Nat) : Bool := mappedOver m (fun a => decide (a.group = g))

/-- A queued aquifer command names memory of an allocation group. -/
def groupInAq (m : Mem) (g : Nat) : Bool :=
  m.aq.cmds.any (fun c => (groupAllocs m g).any (fun a => runsMeet (a.first, a.count) (c.addr / segBytes, c.count)))

/-- MEM_FREE (R292). -/
def specMemFree (mb addr : Nat) : CmdSpec where
  cmd := .memFree mb addr
  opcode := 0x0204
  mb := mb
  sec := fun m => ensure (groupAt m.mem (mb / 32) addr).isSome 0x7001
  sta := fun m => match groupAt m.mem (mb / 32) addr with
    | none => none
    | some g => firstErr [
        (match ((groupAllocs m.mem g).head?.bind (·.job)).bind (fun j => jobAt m j) with
          | some j => if j.phase = .idle ∨ j.phase = .halted then none
                      else some { status := 0x1001, job := some j.id }
          | none => none),
        ensure (!groupMapped m g && !groupInAq m.mem g && !granted m.mem g) 0x1007]
  apply := fun m => match groupAt m.mem (mb / 32) addr with
    | none => { m := m }
    | some g => { m := { m with mem := releaseAllocs m.mem (fun a => decide (a.group = g)) } }

def execMemFree (mb addr : Nat) (s : State) : Host.Outcome State Fault Refusal := onCmd (specMemFree mb addr) s

/-- QUOTA_SET (R293, R296). -/
def specQuotaSet (mb partition kind jobId limit : Nat) : CmdSpec where
  cmd := .quotaSet mb partition kind jobId limit
  opcode := 0x0205
  mb := mb
  job := optJob jobId
  sec := fun _ => ensure (decide (jobId ≠ 0) || decide (mb / 32 = 0)) 0x7002
  par := fun m => firstErr [
    ensure (decide (partition < 8) && decide (1 ≤ kind) && decide (kind ≤ 3)) 0x2003,
    (match (optJob jobId).bind (jobById m) with
      | some p => ensure (decide (p.2.part = partition)) 0x2003
      | none => none)]
  apply := fun m => match (optJob jobId).bind (jobById m) with
    | some p => { m := updJob m p.1 (fun j => { j with quota := setNth j.quota (kind - 1) limit }) }
    | none => { m := { m with mem := { m.mem with quota := tput m.mem.quota (partition * 3 + (kind - 1)) limit } } }

def execQuotaSet (mb partition kind jobId limit : Nat) (s : State) : Host.Outcome State Fault Refusal :=
  onCmd (specQuotaSet mb partition kind jobId limit) s

/-- MEM_STATUS. -/
def specMemStatus (mb partition : Nat) : CmdSpec where
  cmd := .memStatus mb partition
  opcode := 0x0206
  mb := mb
  query := true
  sec := fun _ => ensure (decide (partition = 0xFF) || decide (partition = mb / 32) || decide (mb / 32 = 0)) 0x7002
  par := fun _ => ensure (decide (partition = 0xFF) || decide (partition < 8)) 0x2003
  apply := fun m =>
    let p := if partition = 0xFF then mb / 32 else partition
    { m := m
      body := ([1, 2, 3].flatMap fun k => leBytes 8 (quotaOf m.mem p k)) ++ ([1, 2, 3].flatMap fun k => leBytes 8 (usedBy m.mem p k))
        ++ leBytes 8 (freeSegs m.mem 1) ++ leBytes 8 (freeSegs m.mem 2) ++ leBytes 4 m.mem.clearing.length
        ++ leBytes 4 m.mem.retired.length ++ leBytes 1 m.mem.aq.st ++ leBytes 1 m.mem.aq.wear ++ leBytes 1 m.mem.aq.spare
        ++ zeros 5 }

def execMemStatus (mb partition : Nat) (s : State) : Host.Outcome State Fault Refusal := onCmd (specMemStatus mb partition) s

/-! ### Aquifer commands (R308 to R315) -/

/-- The extents of a command lie in the aquifer. -/
def extentsOk (first count : Nat) : Bool :=
  decide (first ≤ 30517577) && decide (1 ≤ count) && decide (count ≤ 65536) && decide (first + count ≤ 30517578)

/-- The extents of a run that hold no data. -/
def emptyExtents (m : Mem) (part first count : Nat) : Nat := count - (trange m.aq.extents (extentKey part first) count).length

/-- The checks and the start that AQ_WRITE and AQ_READ share. -/
def specAq (cmd : Instr) (write : Bool) (opcode mb addr first count : Nat) : CmdSpec where
  cmd := cmd
  opcode := opcode
  mb := mb
  sec := fun m => ensure (rangeHeld m.mem addr (count * segBytes) (fun a => decide (a.part = mb / 32))) 0x7001
  par := fun _ => firstErr [ensure (extentsOk first count) 0x2003, ensure (decide (addr % segBytes = 0)) 0x2007]
  sta := fun m => firstErr [
    ensure (decide (m.mem.aq.st ≠ 2)) 0x5002,
    ensure (!write || decide (m.mem.aq.st = 0)) 0x1001 m.mem.aq.st]
  apply := fun m =>
    if 64 ≤ m.mem.aq.cmds.length then { m := m, status := 0x3001 }
    else if write && !quotaAdmits m (mb / 32) none 3 (emptyExtents m.mem (mb / 32) first count) then { m := m, status := 0x3002 }
    else if write && decide (capacityOf 3 < m.mem.aq.extents.length + emptyExtents m.mem (mb / 32) first count) then
      { m := m, status := 0x3004 }
    else { m := { m with mem := { m.mem with aq := { m.mem.aq with cmds := m.mem.aq.cmds ++
            [{ write := write, part := mb / 32, addr := addr, first := first, count := count, mb := mb, opcode := opcode,
               seq := mbField m mb 4 4 }] } } } }

/-- AQ_WRITE. -/
def specAqWrite (mb addr firstExtent count : Nat) : CmdSpec :=
  specAq (.aqWrite mb addr firstExtent count) true 0x0207 mb addr firstExtent count

def execAqWrite (mb addr firstExtent count : Nat) (s : State) : Host.Outcome State Fault Refusal :=
  onCmd (specAqWrite mb addr firstExtent count) s

/-- AQ_READ. -/
def specAqRead (mb addr firstExtent count : Nat) : CmdSpec :=
  specAq (.aqRead mb addr firstExtent count) false 0x0208 mb addr firstExtent count

def execAqRead (mb addr firstExtent count : Nat) (s : State) : Host.Outcome State Fault Refusal :=
  onCmd (specAqRead mb addr firstExtent count) s

/-- AQ_TRIM (R308). -/
def specAqTrim (mb firstExtent count : Nat) : CmdSpec where
  cmd := .aqTrim mb firstExtent count
  opcode := 0x0209
  mb := mb
  par := fun _ => ensure (extentsOk firstExtent count) 0x2003
  sta := fun m => firstErr [
    ensure (decide (m.mem.aq.st ≠ 2)) 0x5002,
    ensure (!m.mem.aq.cmds.any (fun c => decide (c.part = mb / 32) && runsMeet (c.first, c.count) (firstExtent, count))) 0x1007]
  apply := fun m => { m := { m with mem := { m.mem with aq := { m.mem.aq with
    extents := tsplice m.mem.aq.extents (extentKey (mb / 32) firstExtent) count [] } } } }

def execAqTrim (mb firstExtent count : Nat) (s : State) : Host.Outcome State Fault Refusal :=
  onCmd (specAqTrim mb firstExtent count) s

/-- The AQ_DONE record of a command (R321). -/
def aqDone (m : Dev) (c : AqCmd) (status done bad : Nat) : Dev :=
  raisePart m c.part 0x0209 status
    (leBytes 2 c.mb ++ leBytes 2 c.opcode ++ leBytes 4 c.seq ++ leBytes 4 done ++ leBytes 4 bad)

/-- One extent of AQ_WRITE: it takes the 2 MiB as memory stands (R310, R314). -/
def aqWriteExtent (m : Mem) (c : AqCmd) (i : Nat) : Mem :=
  let k := extentKey c.part (c.first + i)
  let e := (tfind m.aq.extents k).getD {}
  let d := tshift (trange m.bytes (c.addr + i * segBytes) segBytes) (c.addr + i * segBytes) 0
  { m with aq := { m.aq with extents := tput m.aq.extents k { e with data := d } } }

/-- One extent of AQ_READ (R311). -/
def aqReadExtent (m : Mem) (c : AqCmd) (bad : Bool) (i : Nat) : Mem :=
  let a := c.addr + i * segBytes
  let d := match tfind m.aq.extents (extentKey c.part (c.first + i)) with | some e => e.data | none => []
  let m := memZero m a segBytes
  if bad then memPoison m a segBytes
  else { m with bytes := tsplice m.bytes a segBytes (tshift d 0 a) }

/-- R315: how many of the two wear thresholds a reading has reached. -/
def wearLevel (wear : Nat) : Nat := if 100 ≤ wear then 2 else if 90 ≤ wear then 1 else 0

/-- R315: the controller reads its wear and its spare blocks. Below 2 % of spares a NORMAL aquifer enters READ_ONLY.
AQUIFER_WEAR is raised for each threshold that the wear reaches for the first time, and at the entry to READ_ONLY. -/
def aqWear (wear spare : Nat) (m : Dev) : Dev :=
  let a := m.mem.aq
  let enters := decide (a.st = 0) && decide (spare < 2)
  let st := if enters then 1 else a.st
  let a' := { a with st := st, wear := sat 8 wear, spare := spare, warned := max a.warned (wearLevel wear) }
  let m := { m with mem := { m.mem with aq := a' } }
  (List.range (max (wearLevel wear - a.warned) (b2n enters))).foldl (fun m _ =>
    raiseModule m 0x0208 0 (leBytes 1 (sat 8 wear) ++ leBytes 1 spare ++ leBytes 1 st)) m

/-- An aquifer command ends. `failed` names the extents whose read could not be corrected (R311). A write
fails on none. R260 gives the aquifer no unit code: the REQUESTER of what its reads find (R304) is a free value. -/
def aqCmdDone (failed : List Nat) (c : AqCmd) (l : List AqCmd) (m : Dev) : Dev :=
  let mem := { m.mem with aq := { m.mem.aq with cmds := l } }
  if c.write then
    let m := freeFinds { m with mem := mem } [(c.addr, c.count * segBytes)]
    let mem := { m.mem with aq := mem.aq }
    let mem := (List.range c.count).foldl (fun x i => aqWriteExtent x c i) mem
    aqDone { m with mem := mem } c 0 c.count 0xFFFFFFFF
  else
    let bad := (List.range c.count).filter (fun i => decide (c.first + i ∈ failed))
    let free := (List.range c.count).filter (fun i => !underHost m (c.addr + i * segBytes) segBytes)
    let m := free.foldl (fun m i => touchPages m (c.addr + i * segBytes) segBytes) m
    let mem := free.foldl (fun x i => aqReadExtent x c (decide (i ∈ bad)) i) { m.mem with aq := mem.aq }
    let mem := { mem with aq := { mem.aq with uncorr := sat 32 (mem.aq.uncorr + bad.length) } }
    let m := riskHit m 1 bad.length
    match bad with
    | [] => aqDone { m with mem := mem } c 0 c.count 0xFFFFFFFF
    | i :: _ => aqDone { m with mem := mem } c 0x4005 (c.count - bad.length) (c.first + i)

/-- R313: two commands name an extent in common. -/
def aqOverlap (a b : AqCmd) : Bool := decide (a.part = b.part) && runsMeet (a.first, a.count) (b.first, b.count)

/-- AQ_OP_DONE: one of the 8 oldest aquifer commands ends, unless an older one names one of its extents (R313). The
controller then reads its wear and its spare blocks anew. -/
def aqOpDone (index : Nat) (failed : List Nat) (wear spare : Nat) (m : Dev) : Dev :=
  match m.mem.aq.cmds.drop index with
  | [] => m
  | c :: l =>
    let older := m.mem.aq.cmds.take index
    if older.any (aqOverlap c) then m else aqWear wear spare (aqCmdDone failed c (older ++ l) m)

def execAqOpDone (index : Nat) (failed : List Nat) (wear spare : Nat) (s : State) : Host.Outcome State Fault Refusal :=
  onDev (.aqOpDone index failed wear spare) (aqOpDone index failed wear spare) s

/-- R315: the controller fails: the aquifer is FAILED, and the commands it holds end with UNIT_FAULT. -/
def aquiferFailed (m : Dev) : Dev :=
  let cs := m.mem.aq.cmds
  let m := { m with mem := { m.mem with aq := { m.mem.aq with st := 2, cmds := [] } } }
  cs.foldl (fun m c => aqDone m c 0x5002 0 0xFFFFFFFF) m

def execAquiferControllerFailure (s : State) : Host.Outcome State Fault Refusal :=
  onDev .aquiferControllerFailure aquiferFailed s

/-! ### Clearing, scrub and repair (R292, R306, R307) -/

/-- SEGMENT_CLEARED: the first segment in CLEARING of its unit is zeroed and becomes FREE. -/
def segmentCleared (seg : Nat) (m : Dev) : Dev :=
  if m.mem.clearing.find? (fun s => decide (segUnit s = segUnit seg)) = some seg then
    { m with mem := { memZero m.mem (seg * segBytes) segBytes with clearing := m.mem.clearing.erase seg } }
  else m

def execSegmentCleared (segment : Nat) (s : State) : Host.Outcome State Fault Refusal :=
  onDev (.segmentCleared segment) (segmentCleared segment) s

/-- PATROL_SCRUB of the block at an address (R306): a corrected block is counted, an uncorrectable one is poisoned
under R304. R260 gives the controller no unit code, so REQUESTER is a free value. -/
def patrolScrub (addr : Nat) (corrected uncorrectable : Bool) (m : Dev) : Dev :=
  if isExtMem addr then
    let u := segUnit (addr / segBytes)
    let m := if corrected then updMem (riskHit m 0 1) (fun x =>
        if u < 16 then { x with hbm := tmod {} x.hbm u (fun s => { s with corrected := sat 32 (s.corrected + 1) }) }
        else { x with cis := tmod {} x.cis (u - 16) (fun s => { s with corrected := sat 32 (s.corrected + 1) }) }) else m
    if uncorrectable || decide (addr / 64 ∈ m.mem.damaged) then
      let r := drawFree m 12
      poisonFound r.2 r.1 (addr / 64 * 64)
    else m
  else m

def execPatrolScrub (addr : Nat) (corrected uncorrectable : Bool) (s : State) : Host.Outcome State Fault Refusal :=
  onDevW (wfPatrolScrub addr corrected uncorrectable) (patrolScrub addr corrected uncorrectable) s

/-- Spare rows left in the bank of a row. -/
def bankSpares (m : Mem) (r : RepairRow) : Nat :=
  if r.kind = 1 then (tget {} m.hbm r.unit).spares - tget 0 (tget {} m.hbm r.unit).used r.bank
  else (tget {} m.cis r.unit).spares - tget 0 (tget {} m.cis r.unit).used r.bank

/-- A row takes a spare row of its bank. -/
def takeSpare (m : Mem) (r : RepairRow) : Mem :=
  if r.kind = 1 then { m with hbm := tmod {} m.hbm r.unit (fun s => { s with used := tmod 0 s.used r.bank (· + 1) }) }
  else { m with cis := tmod {} m.cis r.unit (fun s => { s with used := tmod 0 s.used r.bank (· + 1) }) }

/-- R316: the fewest spare rows left in any bank of a stack or package. -/
def sparesLeft (m : Mem) (kind unit : Nat) : Nat :=
  let r := if kind = 1 then ((tget {} m.hbm unit).spares, (tget {} m.hbm unit).used) else ((tget {} m.cis unit).spares, (tget {} m.cis unit).used)
  r.1 - r.2.foldl (fun n u => max n u.2) 0

/-- The ROW_REMAP record (R321). -/
def rowRemap (m : Dev) (r : RepairRow) (mode : Nat) : Dev :=
  raiseModule m 0x0206 0 (leBytes 1 r.kind ++ leBytes 1 r.unit ++ leBytes 1 r.bank ++ leBytes 1 mode ++ leBytes 4 r.row
    ++ leBytes 1 (sparesLeft m.mem r.kind r.unit))

/-- ROW_REPAIR_CANDIDATE (R307): a row of an HBM bank with a spare row left starts a soft repair, and a cistern row waits in the
repair record for the next reset. A row that cannot be repaired retires its segments then; the FREE ones leave the free pool at
once. Spare rows are the soft-repair resource of a bank (DEDUCED, log entry 27). -/
def rowCandidate (r : RepairRow) (m : Dev) : Dev :=
  let left := bankSpares m.mem r - (m.mem.remaps.filter (fun q => decide (q.kind = r.kind ∧ q.unit = r.unit ∧ q.bank = r.bank))).length
  if r.kind = 1 ∧ 0 < left then
    updMem m (fun x => { x with
      remaps := x.remaps ++ [r]
      hbm := tmod {} x.hbm r.unit (fun s => { s with remapping := true }) })
  else
    let waiting := (m.mem.rowRecord.filter (fun q => decide (q.kind = r.kind ∧ q.unit = r.unit ∧ q.bank = r.bank) && !q.soft)).length
    let m := updMem m (fun x => { x with rowRecord := x.rowRecord ++ [r] })
    if waiting < left then rowRemap m r 1
    else rowRemap (updMem m (fun x => { x with retirePending := x.retirePending
      ++ (Config.rowSegments r.kind r.unit r.bank r.row).filter (fun s => !(takenRuns x).any (runsMeet (s, 1))) })) r 2

def execRowRepairCandidate (kind unit bank row : Nat) (s : State) : Host.Outcome State Fault Refusal :=
  onDevW (wfRowRepairCandidate kind unit bank row) (rowCandidate { kind, unit, bank, row }) s

/-- SOFT_REPAIR_DONE (R307 item 2): 7,000 cycles after the stack's oldest repair began, the row is served from the spare,
and the repair record holds it. -/
def softRepairDone (unit : Nat) (m : Dev) : Dev :=
  match m.mem.remaps.find? (fun q => decide (q.unit = unit)) with
  | none => m
  | some r =>
    let left := m.mem.remaps.erase r
    rowRemap (updMem m (fun x =>
      let x := takeSpare x r
      { x with
        remaps := left
        rowRecord := x.rowRecord ++ [{ r with soft := true }]
        hbm := tmod {} x.hbm unit (fun s => { s with
          remapping := left.any (fun q => decide (q.unit = unit)), softRemaps := sat 16 (s.softRemaps + 1) }) })) r 0

def execSoftRepairDone (unit : Nat) (s : State) : Host.Outcome State Fault Refusal :=
  onDevW (wfSoftRepairDone unit) (softRepairDone unit) s

end Sys2Proof.Machine
end

