-- ==== Sys2Proof/Machine/Operands.lean ====
section
/-! DEFINITION. Sys2Proof/Machine/Operands.lean: the operands of a vector-engine instruction: V, P and U registers,
the guard, the address forms (R249 to R252), the element formats of R159, and the lane generators (R230 to R235). -/

namespace Sys2Proof.Machine

/-! ### Registers of a team -/

/-- The team that executes an instruction, when it runs. -/
def teamAt (m : Dev) (die ve team : Nat) : Option Team := tfind (veAt m die ve).teams team

/-- Replaces a team. -/
def putTeam (m : Dev) (die ve team : Nat) (t : Team) : Dev :=
  updVe m die ve (fun v => { v with teams := tput v.teams team t })

/-- V register `r` of a lane. What it holds at the team's start is open. -/
def vGet (t : Team) (lane r : Nat) : Nat := match tfind t.v (lane * 32 + r) with
  | some w => w.toNat
  | none => Config.freeNat (t.start + lane * 32 + r) % 2 ^ 32

/-- Its poison bit (R257). -/
def vPoison (t : Team) (lane r : Nat) : Bool := tget false t.vp (lane * 32 + r)

/-- Writes a V register with its poison bit. -/
def vPut (t : Team) (lane r x : Nat) (p : Bool) : Team :=
  { t with v := tput t.v (lane * 32 + r) (BitVec.ofNat 32 x), vp := tset false t.vp (lane * 32 + r) p }

/-- Predicate `r` of a lane; P0 always reads 1 (R245). -/
def pGet (t : Team) (lane r : Nat) : Bool := decide (r = 0) || (tfind t.p (lane * 8 + r)).getD (decide (Config.freeNat (t.start + 2048 + lane * 8 + r) % 2 = 1))

/-- Writes a predicate; P0 keeps its value. -/
def pPut (t : Team) (lane r : Nat) (b : Bool) : Team :=
  if r = 0 then t else { t with p := tput t.p (lane * 8 + r) b }

/-- U register `r`. -/
def uGet (t : Team) (r : Nat) : Nat := (tfind t.u r).getD (Config.freeNat (t.start + 2560 + r) % 2 ^ 64)

/-- The guard of a lane (R249, R251). -/
def guardOn (t : Team) (f : VeF) (lane : Nat) : Bool := pGet t lane f.pred != f.pneg

/-- The lanes whose guard is true. -/
def lanesOn (t : Team) (f : VeF) : List Nat := (List.range 64).filter (guardOn t f)

/-- R252: the device address U[base] + ra of a lane, bits 47:0 of the 64-bit sum. -/
def laneAddr (t : Team) (base ra lane : Nat) : Nat := (uGet t base + vGet t lane ra) % 2 ^ 64 % 2 ^ 48

/-- An address with its low bits cleared to a multiple of `n`. -/
def alignTo (n a : Nat) : Nat := a / n * n

/-- Bits of the immediate. -/
def immBits (f : VeF) (lo n : Nat) : Nat := (f.imm >>> lo) % 2 ^ n

/-- The immediate as a signed number. -/
def immSigned (f : VeF) : Int := if f.imm < 2 ^ 31 then f.imm else (f.imm : Int) - 2 ^ 32

/-- Eight 32-bit words of lanes 0 to 7 of RA (R254, R267). -/
def laneWords (t : Team) (ra : Nat) : List Nat := (List.range 8).map (fun l => vGet t l ra)

/-- The unit code of a vector engine (R260). -/
def veUnit (f : VeF) : Nat := f.die * 256 + f.ve

/-! ### Element formats (R159) -/

/-- The format of a code; 15 is FP32 in CVT (R250). -/
def fmtOf (c : Nat) : Option Fmt :=
  match c with
  | 0 => some e4m3
  | 1 => some e5m2
  | 2 => some e4m3
  | 3 => some e5m2
  | 4 => some e2m3
  | 5 => some e3m2
  | 6 => some e2m1
  | 7 => some bf16
  | 8 => some fp16
  | 15 => some fp32
  | _ => none

/-- The format carries E8M0 scales per 32 elements. -/
def isMx (c : Nat) : Bool := decide (2 ≤ c ∧ c ≤ 6)

/-! ### Lane generators (R230 to R233) -/

/-- The thread index T (R231). -/
def threadIndex (die ve team lane : Nat) : Nat := die * 262144 + ve * 2048 + team * 64 + lane

/-- One draw of thread T's generator of a job. -/
def jobDraw (j : Job) (T : Nat) : Nat × Job :=
  let g := tget (0, 0) j.num.gens T
  let w := philox (g.1 % 2 ^ 32) (g.1 >>> 32 % 2 ^ 32) T (j.self % 2 ^ 16) (j.seed % 2 ^ 32) (j.seed >>> 32 % 2 ^ 32)
  let g' := if g.2 = 3 then ((g.1 + 1) % 2 ^ 64, 0) else (g.1, g.2 + 1)
  (nth 0 w g.2, { j with num := { j.num with gens := tset (0, 0) j.num.gens T g' } })

/-- The 16 bytes of an entry of the generator table (R242). -/
def genBytes (g : Nat × Nat) : List Byte := leBytes 8 g.1 ++ leBytes 1 g.2 ++ zeros 7

/-- R233: the entries of `n` threads from T are written to the table in the die's first stack. -/
def genStore (slot T n : Nat) (m : Dev) : Dev :=
  match jobAt m slot, m.mem.allocs.find? (fun a => decide (a.job = some slot) && decide (a.use = .generators) && decide (segUnit a.first = 2 * (T / 262144))) with
  | some j, some a => updMem m (fun x => memWrite x (a.first * segBytes + T % 262144 * 16)
      ((List.range n).flatMap (fun i => genBytes (tget (0, 0) j.num.gens (T + i)))))
  | _, _ => m

/-- One draw for a job slot; a slot without a job draws nothing. -/
def draw (m : Dev) (slot T : Nat) : Nat × Dev :=
  match jobAt m slot with
  | some j => ((jobDraw j T).1, { m with jobs := tput m.jobs slot (jobDraw j T).2 })
  | none => (0, m)

end Sys2Proof.Machine
end

