-- ==== Sys2Proof/Machine/Vector.lean ====
section
/-! DEFINITION. Sys2Proof/Machine/Vector.lean: the vector engines' arithmetic and control (chapter 06, R246 to R253).
Each row is one instruction of one team. A team that does not run, waits, or would read the destination of a buffered
atomic (R271) does not issue, and nothing changes. -/

namespace Sys2Proof.Machine

/-! ### Issue and retirement -/

/-- The team may issue an instruction that reads these registers. -/
def mayIssue (t : Team) (srcs : List Nat) : Bool := decide (t.wait = .ready) && !srcs.any (fun r => decide (r ∈ t.atomRegs))

/-- The frame of an instruction: what it does when its team issues it. -/
def onTeam (f : VeF) (srcs : List Nat) (act : Team → Dev → Dev) (m : Dev) : Dev :=
  match teamAt m f.die f.ve f.team with
  | none => m
  | some t => if mayIssue t srcs then act t m else m

/-- The instruction address after `d` bytes. -/
def pcPlus (t : Team) (d : Int) : Nat := (((t.pc : Int) + d) % 2 ^ 48).toNat

/-- An instruction has been issued: it counts (R284), the team's flags go into VE_STATUS (R283), and the team goes on at
`pc + d`. -/
def retireAt (f : VeF) (t : Team) (d : Int) (m : Dev) : Dev :=
  updVe m f.die f.ve (fun v => { v with
    teams := tput v.teams f.team { t with pc := pcPlus t d }
    active := (v.active + 1) % 2 ^ 64
    sticky := orFlags v.sticky t.flags })

/-- The next instruction in order. -/
def retire (f : VeF) (t : Team) (m : Dev) : Dev := retireAt f t 8 m

/-- VE_FAULT (R285). -/
def veFault (f : VeF) (t : Team) (cause : Nat) (m : Dev) : Dev :=
  raisePart m (dieOwner m f.die) 0x0B31 0
    (leBytes 1 f.die ++ leBytes 1 f.ve ++ leBytes 1 f.team ++ leBytes 1 cause ++ leBytes 8 t.pc)

/-- R250: an instruction that executes as nothing and sets ILLEGAL. -/
def illegal (f : VeF) (t : Team) (m : Dev) : Dev :=
  veFault f t 2 (retire f t (updVe m f.die f.ve (fun v => { v with illegal := true })))

/-! ### Lane arithmetic -/

/-- The result of one lane: value, flags. -/
abbrev LaneOut := Nat × Flags3

/-- Writes RD of every guarded lane from the registers as they stood, with poison from the sources (R257). -/
def lanesWrite (f : VeF) (t : Team) (srcs : List Nat) (op : Nat → LaneOut) : Team :=
  (lanesOn t f).foldl (fun u lane =>
    let r := op lane
    let p := srcs.any (fun s => vPoison t lane s)
    let u := vPut u lane f.rd r.1 p
    { u with flags := orFlags u.flags { r.2 with poison := p } }) t

/-- An instruction that computes RD of each lane from that lane's registers. -/
def laneOp (f : VeF) (srcs : List Nat) (op : Team → Nat → LaneOut) : Dev → Dev :=
  onTeam f srcs (fun t m => retire f (lanesWrite f t srcs (op t)) m)

/-- An FP32 operation on exact values, rounded once. -/
def f32Out (ins : List FVal) (v : FVal) : LaneOut := ((fcvt fp32 none v).1, arithFlags ins (fcvt fp32 none v))

/-- FMA.F32. -/
def execFmaF32 (f : VeF) (s : State) : Host.Outcome State Fault Refusal :=
  onDev (.fmaF32 f) (laneOp f [f.ra, f.rb, f.rc] (fun t l =>
    let a := dec32 (vGet t l f.ra)
    let b := dec32 (vGet t l f.rb)
    let c := dec32 (vGet t l f.rc)
    f32Out [a, b, c] (fvAdd (fvMul a b) c))) s

/-- ADD.F32. -/
def execAddF32 (f : VeF) (s : State) : Host.Outcome State Fault Refusal :=
  onDev (.addF32 f) (laneOp f [f.ra, f.rb] (fun t l =>
    let a := dec32 (vGet t l f.ra)
    let b := dec32 (vGet t l f.rb)
    f32Out [a, b] (fvAdd a b))) s

/-- MUL.F32. -/
def execMulF32 (f : VeF) (s : State) : Host.Outcome State Fault Refusal :=
  onDev (.mulF32 f) (laneOp f [f.ra, f.rb] (fun t l =>
    let a := dec32 (vGet t l f.ra)
    let b := dec32 (vGet t l f.rb)
    f32Out [a, b] (fvMul a b))) s

/-- The maximum or minimum of two FP32 codes; any NaN gives 0x7FC0_0000 (R250). -/
def maxMin32 (isMax : Bool) (x y : Nat) : Nat :=
  let a := dec32 x
  let b := dec32 y
  match a, b with
  | .nan _, _ => 0x7FC00000
  | _, .nan _ => 0x7FC00000
  | _, _ =>
    if fvLt a b then (if isMax then y else x)
    else if fvLt b a then (if isMax then x else y)
    else if x = y then x
    else fsign fp32 (Config.zeroNeg isMax (x.testBit 31))

/-- MAX.F32. -/
def execMaxF32 (f : VeF) (s : State) : Host.Outcome State Fault Refusal :=
  onDev (.maxF32 f) (laneOp f [f.ra, f.rb] (fun t l => (maxMin32 true (vGet t l f.ra) (vGet t l f.rb), {}))) s

/-- MIN.F32. -/
def execMinF32 (f : VeF) (s : State) : Host.Outcome State Fault Refusal :=
  onDev (.minF32 f) (laneOp f [f.ra, f.rb] (fun t l => (maxMin32 false (vGet t l f.ra) (vGet t l f.rb), {}))) s

/-- One half of FMA.BF16X2. -/
def fmaBf16 (x y z : Nat) : LaneOut :=
  let a := fdec bf16 x
  let b := fdec bf16 y
  let c := fdec bf16 z
  let r := fcvt bf16 none (fvAdd (fvMul a b) c)
  (r.1, { ovf := r.2, nonfinite := codeNonfinite bf16 r.1 && [a, b, c].all (fun v => !fvNonfinite v) })

/-- FMA.BF16X2. -/
def execFmaBf16x2 (f : VeF) (s : State) : Host.Outcome State Fault Refusal :=
  onDev (.fmaBf16x2 f) (laneOp f [f.ra, f.rb, f.rc] (fun t l =>
    let lo := fmaBf16 (vGet t l f.ra % 65536) (vGet t l f.rb % 65536) (vGet t l f.rc % 65536)
    let hi := fmaBf16 (vGet t l f.ra / 65536) (vGet t l f.rb / 65536) (vGet t l f.rc / 65536)
    (lo.1 + 65536 * hi.1, orFlags lo.2 hi.2))) s

/-- One lane of CVT: the draw of sr() is consumed in every case (R203). An MX element that would be NaN or infinite has
no block scale here; its bits are a free value. -/
def cvtLane (f : VeF) (src dst : Fmt) (x : Team × Dev) (lane : Nat) : Team × Dev :=
  let t := x.1
  let v := fdec src (vGet t lane f.ra % 2 ^ fbits src)
  let p := vPoison t lane f.ra
  let d := if bitOf f.imm 8 then
      let r := draw x.2 t.job (threadIndex f.die f.ve f.team lane)
      (some (r.1 % 65536), r.2)
    else (none, x.2)
  let r := fcvt dst d.1 v
  let o := if dst.kind = 3 ∧ fvNonfinite v then drawFree d.2 (fbits dst) else (r.1, d.2)
  let u := vPut t lane f.rd o.1 p
  ({ u with flags := orFlags u.flags { cvtFlags dst (decide (immBits f 4 4 ≤ 1)) v r with poison := p } }, o.2)

/-- CVT (R204, R250). -/
def execCvt (f : VeF) (s : State) : Host.Outcome State Fault Refusal :=
  onDev (.cvt f) (onTeam f [f.ra] (fun t m =>
    match fmtOf (immBits f 0 4), fmtOf (immBits f 4 4) with
    | some a, some b =>
      let r := (lanesOn t f).foldl (cvtLane f a b) (t, m)
      retire f r.1 r.2
    | _, _ => illegal f t m)) s

/-- DIV.F32. -/
def execDivF32 (f : VeF) (s : State) : Host.Outcome State Fault Refusal :=
  onDev (.divF32 f) (laneOp f [f.ra, f.rb] (fun t l =>
    let a := dec32 (vGet t l f.ra)
    let b := dec32 (vGet t l f.rb)
    f32Out [a, b] (fvDiv a b))) s

/-- SQRT.F32. -/
def execSqrtF32 (f : VeF) (s : State) : Host.Outcome State Fault Refusal :=
  onDev (.sqrtF32 f) (laneOp f [f.ra] (fun t l =>
    let a := dec32 (vGet t l f.ra)
    f32Out [a] (fvSqrt a))) s

/-- EXP.F32 (R253). -/
def execExpF32 (f : VeF) (s : State) : Host.Outcome State Fault Refusal :=
  onDev (.expF32 f) (laneOp f [f.ra] (fun t l =>
    let a := dec32 (vGet t l f.ra)
    f32Out [a] (fvExp a))) s

/-- LOG.F32 (R253). -/
def execLogF32 (f : VeF) (s : State) : Host.Outcome State Fault Refusal :=
  onDev (.logF32 f) (laneOp f [f.ra] (fun t l =>
    let a := dec32 (vGet t l f.ra)
    f32Out [a] (fvLog a))) s

/-- A 32-bit integer operation on RA and RB. -/
def intOp (f : VeF) (op : Nat → Nat → Nat) : Dev → Dev :=
  laneOp f [f.ra, f.rb] (fun t l => (op (vGet t l f.ra) (vGet t l f.rb) % 2 ^ 32, {}))

/-- IADD, wrapping at 32 bits (DEDUCED, log entry 12). -/
def execIadd (f : VeF) (s : State) : Host.Outcome State Fault Refusal := onDev (.iadd f) (intOp f (· + ·)) s

/-- ISUB. -/
def execIsub (f : VeF) (s : State) : Host.Outcome State Fault Refusal :=
  onDev (.isub f) (intOp f (fun a b => a + (2 ^ 32 - b))) s

/-- IMUL, the low 32 bits. -/
def execImul (f : VeF) (s : State) : Host.Outcome State Fault Refusal := onDev (.imul f) (intOp f (· * ·)) s

/-- AND. -/
def execVAnd (f : VeF) (s : State) : Host.Outcome State Fault Refusal := onDev (.vAnd f) (intOp f (· &&& ·)) s

/-- OR. -/
def execVOr (f : VeF) (s : State) : Host.Outcome State Fault Refusal := onDev (.vOr f) (intOp f (· ||| ·)) s

/-- XOR. -/
def execVXor (f : VeF) (s : State) : Host.Outcome State Fault Refusal := onDev (.vXor f) (intOp f (· ^^^ ·)) s

/-- An operation whose result in some lanes nothing states: `op` also takes a free value of the lane. -/
def freeLaneOp (f : VeF) (srcs : List Nat) (op : Team → Nat → Nat → Nat) : Dev → Dev :=
  onTeam f srcs (fun t m =>
    retire f (lanesWrite f t srcs (fun l => (op t l (Config.freeNat (m.free + l)) % 2 ^ 32, {}))) { m with free := m.free + 64 })

/-- SHL. By 32 or more the manual states no result. -/
def execShl (f : VeF) (s : State) : Host.Outcome State Fault Refusal :=
  onDev (.shl f) (freeLaneOp f [f.ra, f.rb] (fun t l free =>
    if vGet t l f.rb < 32 then vGet t l f.ra <<< vGet t l f.rb else free)) s

/-- SHR. The manual does not say whether the sign is kept: for a negative operand the result is one of the two, and by
32 or more it states none. -/
def execShr (f : VeF) (s : State) : Host.Outcome State Fault Refusal :=
  onDev (.shr f) (freeLaneOp f [f.ra, f.rb] (fun t l free =>
    let a := vGet t l f.ra
    let n := vGet t l f.rb
    if 32 ≤ n then free
    else if 2 ^ 31 ≤ a ∧ free % 2 = 1 then (a >>> n) + (2 ^ 32 - 2 ^ (32 - n)) else a >>> n)) s

/-- CMP writes a predicate (R250). The manual gives no meaning to the 16 conditions: the predicate is a free value. -/
def execCmp (f : VeF) (s : State) : Host.Outcome State Fault Refusal :=
  onDev (.cmp f) (onTeam f [f.ra, f.rb] (fun t m =>
    retire f ((lanesOn t f).foldl (fun u l =>
      let u := pPut u l (f.rd % 8) (Config.freeNat (m.free + l) % 2 = 1)
      { u with flags := orFlags u.flags { poison := vPoison t l f.ra || vPoison t l f.rb } }) t) { m with free := m.free + 64 })) s

/-- SEL takes RA or RB; by which rule the manual does not say. -/
def execSel (f : VeF) (s : State) : Host.Outcome State Fault Refusal :=
  onDev (.sel f) (freeLaneOp f [f.ra, f.rb] (fun t l free => if free % 2 = 1 then vGet t l f.ra else vGet t l f.rb)) s

/-! ### Lanes together -/

/-- SHFL. A lane number of 64 or more names no lane: the result is a free value. -/
def execShfl (f : VeF) (s : State) : Host.Outcome State Fault Refusal :=
  onDev (.shfl f) (onTeam f [f.ra, f.rb] (fun t m =>
    let u := (lanesOn t f).foldl (fun u l =>
      let n := vGet t l f.rb
      let p := vPoison t l f.rb || vPoison t n f.ra && decide (n < 64)
      let u := vPut u l f.rd (if n < 64 then vGet t n f.ra else Config.freeNat (m.free + l) % 2 ^ 32) p
      { u with flags := orFlags u.flags { poison := p } }) t
    retire f u { m with free := m.free + 64 })) s

/-- One level of R236: element 2i with element 2i + 1, the lower index left. -/
def pairLevel {α : Type} (op : α → α → α) : List α → List α
  | a :: b :: l => op a b :: pairLevel op l
  | l => l

/-- R236: six levels over 64 elements. -/
def pairTree {α : Type} (op : α → α → α) (l : List α) : List α := (List.range 6).foldl (fun l _ => pairLevel op l) l

/-- A reduction over the 64 lanes of RA; every guarded lane receives the result. IMM 1:0 = 3 is not allowed (R250). -/
def reduceOp (f : VeF) (op : LaneOut → LaneOut → LaneOut) : Dev → Dev :=
  onTeam f [f.ra] (fun t m =>
    if immBits f 0 2 = 3 then illegal f t m else
    let r := (pairTree op ((List.range 64).map (fun l => (vGet t l f.ra, ({} : Flags3))))).headD (0, {})
    let p := (List.range 64).any (fun l => vPoison t l f.ra)
    let u := (lanesOn t f).foldl (fun u l => vPut u l f.rd r.1 p) t
    retire f (if (lanesOn t f).isEmpty then u else { u with flags := orFlags u.flags { r.2 with poison := p } }) m)

/-- REDUCE, FP32 add. -/
def execReduceFadd (f : VeF) (s : State) : Host.Outcome State Fault Refusal :=
  onDev (.reduceFadd f) (reduceOp f (fun a b =>
    let r := f32Out [dec32 a.1, dec32 b.1] (fvAdd (dec32 a.1) (dec32 b.1))
    (r.1, orFlags r.2 (orFlags a.2 b.2)))) s

/-- REDUCE, FP32 max. -/
def execReduceFmax (f : VeF) (s : State) : Host.Outcome State Fault Refusal :=
  onDev (.reduceFmax f) (reduceOp f (fun a b => (maxMin32 true a.1 b.1, {}))) s

/-- REDUCE, integer add. -/
def execReduceIadd (f : VeF) (s : State) : Host.Outcome State Fault Refusal :=
  onDev (.reduceIadd f) (reduceOp f (fun a b => ((a.1 + b.1) % 2 ^ 32, {}))) s

/-- DRAW (R232): one draw of each guarded lane's generator. -/
def execDraw (f : VeF) (s : State) : Host.Outcome State Fault Refusal :=
  onDev (.draw f) (onTeam f [] (fun t m =>
    let r := (lanesOn t f).foldl (fun (x : Team × Dev) l =>
      let d := draw x.2 t.job (threadIndex f.die f.ve f.team l)
      (vPut x.1 l f.rd d.1 false, d.2)) (t, m)
    retire f r.1 r.2)) s

/-- GETF: the team's sticky flags, which it clears. -/
def execGetf (f : VeF) (s : State) : Host.Outcome State Fault Refusal :=
  onDev (.getf f) (onTeam f [] (fun t m =>
    let u := (lanesOn t f).foldl (fun u l => vPut u l f.rd (flagWord t.flags) false) t
    retire f (if (lanesOn t f).isEmpty then u else { u with flags := {} }) m)) s

/-- UBASE: lanes 0 and 1 of RA as low and high words; the guard of lane 0 decides. -/
def execUbase (f : VeF) (s : State) : Host.Outcome State Fault Refusal :=
  onDev (.ubase f) (onTeam f [f.ra] (fun t m =>
    retire f (if guardOn t f 0 then { t with u := tput t.u (immBits f 0 4) (vGet t 0 f.ra + 2 ^ 32 * vGet t 1 f.ra) } else t) m)) s

/-- BR (R251): taken when the guard is true in at least one lane. -/
def execBr (f : VeF) (s : State) : Host.Outcome State Fault Refusal :=
  onDev (.br f) (onTeam f [] (fun t m => retireAt f t (if (lanesOn t f).isEmpty then 8 else immSigned f * 8) m)) s

/-! ### Memory -/

/-- LD (R252, R257). -/
def execLd (f : VeF) (s : State) : Host.Outcome State Fault Refusal :=
  onDev (.ld f) (onTeam f [f.ra] (fun t m =>
    let a := fun l => alignTo 4 (laneAddr t (immBits f 0 4) f.ra l)
    let on := lanesOn t f
    let bad := fun l => barred m (veUnit f) t.job (a l) 4 0
    let m := barredLanes m (veUnit f) t.job 4 0 (on.map a)
    let m := (on.filter (fun l => !bad l)).foldl (fun m l => readFinds m (veUnit f) (a l) 4) m
    let u := on.foldl (fun u l =>
      let p := (!bad l && memPoisoned m.mem (a l) 4) || vPoison t l f.ra
      let u := vPut u l f.rd (if bad l then 0 else memNat m.mem (a l) 4) p
      { u with flags := orFlags u.flags { poison := p } }) t
    retire f u m)) s

/-- One lane of ST: a store that is not barred; what lies under a bucket of the host is not written (R124). -/
def storeLane (m : Dev) (addr : Nat) (v : Nat) (poison : Bool) : Dev :=
  if isExtMem addr && underHost m addr 4 then m
  else
    let m := touchPages m addr 4
    let mem := memWrite m.mem addr (leBytes 4 v)
    { m with mem := if poison then memPoison mem addr 4 else mem }

/-- ST (R252, R257). -/
def execSt (f : VeF) (s : State) : Host.Outcome State Fault Refusal :=
  onDev (.st f) (onTeam f [f.ra, f.rb] (fun t m =>
    let a := fun l => alignTo 4 (laneAddr t (immBits f 0 4) f.ra l)
    let on := lanesOn t f
    let go := on.filter (fun l => !barred m (veUnit f) t.job (a l) 4 1)
    let m := barredLanes m (veUnit f) t.job 4 1 (on.map a)
    let m := go.foldl (fun m l => storeLane m (a l) (vGet t l f.rb) (vPoison t l f.rb)) m
    retire f { t with flags := orFlags t.flags { poison := on.any (fun l => vPoison t l f.rb) } } m)) s

/-! ### Atomics (R268 to R277) -/

/-- Bytes that an atomic operation code acts on: 8 for ADD64 and SWAP64. -/
def atomBytes (op : Nat) : Nat := if op = 1 ∨ op = 3 then 8 else 4

/-- The new value of a word (R268, R275). -/
def atomApply (op old x : Nat) : Nat :=
  match op with
  | 0 => (old + x) % 2 ^ 32
  | 1 => (old + x) % 2 ^ 64
  | 2 => x
  | 3 => x
  | 4 => old ||| x
  | 5 => old &&& (x ^^^ 0xFFFFFFFF)
  | 6 => max old x
  | _ => min old x

/-- The operand of a lane: RB, or RB and RB + 1. -/
def atomOperand (t : Team) (f : VeF) (op lane : Nat) : Nat :=
  if atomBytes op = 8 then vGet t lane f.rb + 2 ^ 32 * vGet t lane ((f.rb + 1) % 32) else vGet t lane f.rb

/-- The address of a lane; the base register is open, see `Config.atomBase`. -/
def atomAddr (t : Team) (f : VeF) (op lane : Nat) : Nat :=
  alignTo (atomBytes op) (laneAddr t (Config.atomBase f.imm % 16) f.ra lane)

/-- The destination registers of an atomic on a bank. -/
def atomDest (f : VeF) (op : Nat) : List Nat := if atomBytes op = 8 then [f.rd, (f.rd + 1) % 32] else [f.rd]

/-- ATOM_USED of an engine (R283). -/
def atomEntries (v : VEngine) : Nat := v.atomUsed.foldl (fun n p => n + p.2) 0

/-- The lane lies on a bank. -/
def onBank (a : Nat) : Bool := match placeOf a with | .spad _ _ => true | _ => false

/-- The lane lies on HBM. -/
def onHbm (a : Nat) : Bool := match placeOf a with | .hbm _ => true | _ => false

/-- One guarded lane of ATOM: buffered on a bank (R269), posted on HBM (R275), refused on the cistern (R276). Elsewhere the
instruction raises an address fault (R35). -/
def atomLane (f : VeF) (t : Team) (op no : Nat) (m : Dev) (lane : Nat) : Dev :=
  let a := atomAddr t f op lane
  let x := atomOperand t f op lane
  let p := vPoison t lane f.rb
  match placeOf a with
  | .spad _ _ => updVe m f.die f.ve (fun v => { v with atoms := v.atoms ++
      [{ team := f.team, lane := lane, addr := a, op := op, operand := x, rd := f.rd, job := t.job, poison := p, no := no }] })
  | .hbm _ => { m with posted := tmod [] m.posted (dieOfAddr a) (fun l => l ++
      [{ addr := a, op := op, operand := x, die := f.die, ve := f.ve, team := f.team, job := t.job, poison := p }]) }
  | .cis _ => veFault f t 1 (updVe m f.die f.ve (fun v => { v with atomTarget := true }))
  | _ => m

/-- The lane lies where nothing is. -/
def onNothing (a : Nat) : Bool := match placeOf a with | .regs | .unmapped => true | _ => false

/-- ATOM with operation code `op`. What the lanes' addresses decide for the whole instruction, its guarded lanes decide;
with no lane guarded, all lanes tell whether it takes entries of the buffer (R269). IMM 3:0 of 8 or more is not allowed (R250). -/
def atom (f : VeF) (op : Nat) : Dev → Dev :=
  onTeam f (f.ra :: f.rb :: (if atomBytes op = 8 then [(f.rb + 1) % 32] else [])) (fun t m =>
    let on := lanesOn t f
    let bank := (if on.isEmpty then List.range 64 else on).any (fun l => onBank (atomAddr t f op l))
    if 8 ≤ immBits f 0 4 then illegal f t m
    else if on.any (fun l => ((decide (op = 6) || decide (op = 7)) && onBank (atomAddr t f op l))
        || ((decide (op = 2) || decide (op = 3)) && onHbm (atomAddr t f op l))) then illegal f t m
    else if bank ∧ 2048 < atomEntries (veAt m f.die f.ve) + 64 then
      veFault f t 0 (retire f ((List.range 64).foldl (fun u l => vPut u l f.rd 0 false) t)
        (updVe m f.die f.ve (fun v => { v with atomFull := true })))
    else
      let no := tget 0 (veAt m f.die f.ve).atomUsed t.job / 64
      let m := if bank then updVe m f.die f.ve (fun v => { v with atomUsed := tmod 0 v.atomUsed t.job (· + 64) }) else m
      let m := barredLanes m (veUnit f) t.job (atomBytes op) 2 ((on.map (atomAddr t f op)).filter onNothing)
      let m := on.foldl (atomLane f t op no) m
      let t := if bank then { t with atomRegs := t.atomRegs ++ atomDest f op } else t
      retire f { t with flags := orFlags t.flags { poison := (lanesOn t f).any (fun l => vPoison t l f.rb) } } m)

def execAtomAdd32 (f : VeF) (s : State) : Host.Outcome State Fault Refusal := onDev (.atomAdd32 f) (atom f 0) s
def execAtomAdd64 (f : VeF) (s : State) : Host.Outcome State Fault Refusal := onDev (.atomAdd64 f) (atom f 1) s
def execAtomSwap32 (f : VeF) (s : State) : Host.Outcome State Fault Refusal := onDev (.atomSwap32 f) (atom f 2) s
def execAtomSwap64 (f : VeF) (s : State) : Host.Outcome State Fault Refusal := onDev (.atomSwap64 f) (atom f 3) s
def execAtomBset (f : VeF) (s : State) : Host.Outcome State Fault Refusal := onDev (.atomBset f) (atom f 4) s
def execAtomBclr (f : VeF) (s : State) : Host.Outcome State Fault Refusal := onDev (.atomBclr f) (atom f 5) s
def execAtomUmax32 (f : VeF) (s : State) : Host.Outcome State Fault Refusal := onDev (.atomUmax32 f) (atom f 6) s
def execAtomUmin32 (f : VeF) (s : State) : Host.Outcome State Fault Refusal := onDev (.atomUmin32 f) (atom f 7) s

/-- One buffered atomic at the commit (R270): the word changes and the old value goes to its register. An atomic of a
unit that does not own the bank is dropped, and its old value reads zero (R261); an instruction counts once for each bank. -/
def commitOne (die ve : Nat) (x : List (Nat × Nat) × Dev) (a : AtomOp) : List (Nat × Nat) × Dev :=
  let n := atomBytes a.op
  let bad := barred x.2 (die * 256 + ve) a.job a.addr n 2
  let key := (a.no, a.addr / 0x100000)
  let old := if bad then 0 else memNat x.2.mem a.addr n
  let was := !bad && memPoisoned x.2.mem a.addr n
  let m := if bad then (if key ∈ x.1 then x.2 else barredFault x.2 (die * 256 + ve) 2 a.addr)
    else
      let mem := memWrite x.2.mem a.addr (leBytes n (atomApply a.op old a.operand))
      { x.2 with mem := if a.poison then memPoison mem a.addr n else mem }
  (if bad then key :: x.1 else x.1,
   match teamAt m die ve a.team with
   | none => m
   | some t =>
     let t := vPut { t with flags := orFlags t.flags { poison := was } } a.lane a.rd (old % 2 ^ 32) was
     putTeam m die ve a.team (if n = 8 then vPut t a.lane ((a.rd + 1) % 32) (old / 2 ^ 32) was else t))

/-- R270: the commit of a job slot's atomics in ascending thread index, within a thread in issue order. -/
def commitAtoms (die ve job : Nat) (m : Dev) : Dev :=
  let mine := (veAt m die ve).atoms.filter (fun a => decide (a.job = job))
  let order := (List.range 2048).flatMap (fun k => mine.filter (fun a => decide (a.team * 64 + a.lane = k)))
  let m := (order.foldl (commitOne die ve) ([], m)).2
  updVe m die ve (fun v => { v with
    atoms := v.atoms.filter (fun a => !decide (a.job = job))
    atomUsed := tdel v.atomUsed job
    teams := tmap v.teams (fun _ t => if t.job = job then { t with atomRegs := [] } else t) })

/-- R270: when every running team of a job slot is at BAR.E, or none runs, the engine commits and releases them. -/
def barrier (die ve job : Nat) (m : Dev) : Dev :=
  if (veAt m die ve).teams.all (fun t => decide (t.2.job ≠ job) || decide (t.2.wait = .barrier)) then
    updVe (commitAtoms die ve job m) die ve (fun v => { v with
      teams := tmap v.teams (fun _ t => if t.job = job then { t with wait := .ready, pc := pcPlus t 8 } else t) })
  else m

/-- BAR.E (R270); the guard of lane 0 decides. -/
def execBarE (f : VeF) (s : State) : Host.Outcome State Fault Refusal :=
  onDev (.barE f) (onTeam f [] (fun t m =>
    if guardOn t f 0 then
      barrier f.die f.ve t.job (updVe m f.die f.ve (fun v => { v with
        teams := tput v.teams f.team { t with wait := .barrier }, active := (v.active + 1) % 2 ^ 64 }))
    else retire f t m)) s

/-- R227: work of a backward or weight-gradient item of a die has met a NaN or an infinity: the learning step's flag is set. What a
team's flags record stands for its operations on gradients and on the loss (DEDUCED, log entry 17). -/
def stepNonfinite (die job : Nat) (fl : Flags3) (m : Dev) : Dev :=
  match jobAt m job with
  | some j =>
    if fl.nonfinite && decide (2 ≤ ((tget {} j.learn.stages die : Stage)).kind) then
      updJob m job (fun j => { j with learn := { j.learn with flagNonfinite := true } })
    else m
  | none => m

/-- EXIT (R246, R270): the team ends and its generators' entries are written back (R233); a barrier that waited only for it
completes, and the last exit commits. -/
def execExit (f : VeF) (s : State) : Host.Outcome State Fault Refusal :=
  onDev (.exit f) (onTeam f [] (fun t m =>
    if guardOn t f 0 then
      let m := genStore t.job (threadIndex f.die f.ve f.team 0) 64 (stepNonfinite f.die t.job t.flags m)
      barrier f.die f.ve t.job (updVe m f.die f.ve (fun v => { v with
        teams := tdel v.teams f.team, active := (v.active + 1) % 2 ^ 64, sticky := orFlags v.sticky t.flags }))
    else retire f t m)) s

/-- FENCE: the team goes on once none of its posted atomics waits. -/
def execFence (f : VeF) (s : State) : Host.Outcome State Fault Refusal :=
  onDev (.fence f) (onTeam f [] (fun t m =>
    if m.posted.any (fun p => p.2.any (fun a => decide (a.die = f.die ∧ a.ve = f.ve ∧ a.team = f.team))) then m
    else retire f t m)) s

/-- One posted atomic at the shared cache (R275). -/
def applyPosted (m : Dev) (a : Posted) : Dev :=
  let n := atomBytes a.op
  let r := admitAccess m (a.die * 256 + a.ve) a.job a.addr n 2
  if r.1 then
    let m := touchPages (readFinds r.2 (a.die * 256 + a.ve) a.addr n) a.addr n
    let mem := memWrite m.mem a.addr (leBytes n (atomApply a.op (memNat m.mem a.addr n) a.operand))
    { m with mem := if a.poison then memPoison mem a.addr n else mem }
  else r.2

/-- POSTED_ATOMIC_APPLY (R275, R277): one cycle of a die's cache, up to 32 operations. -/
def postedApply (die : Nat) (m : Dev) : Dev :=
  let l := tget [] m.posted die
  (l.take 32).foldl applyPosted { m with posted := tset [] m.posted die (l.drop 32) }

def execPostedAtomicApply (die : Nat) (s : State) : Host.Outcome State Fault Refusal :=
  onDev (.postedAtomicApply die) (postedApply die) s

/-! ### DMA (R267) -/

def dmaAt (m : Dev) (die e : Nat) : Dma := tget {} m.dmas (die * 4 + e)

def updDma (m : Dev) (die e : Nat) (f : Dma → Dma) : Dev := { m with dmas := tmod {} m.dmas (die * 4 + e) f }

/-- R267: the form of a DMA descriptor. -/
def dmaOk (w : List Nat) : Bool :=
  let src := nth 0 w 0 + 2 ^ 32 * nth 0 w 1
  let dst := nth 0 w 2 + 2 ^ 32 * nth 0 w 3
  decide (src < 2 ^ 48) && decide (dst < 2 ^ 48) && decide (src % 64 = 0) && decide (dst % 64 = 0)
    && decide (64 ≤ nth 0 w 4) && decide (nth 0 w 4 % 64 = 0) && (w.drop 5).all (fun x => decide (x = 0))

/-- DMA.COPY; a descriptor out of its form executes as nothing and sets ILLEGAL (DEDUCED, log entry 12). -/
def execDmaCopy (f : VeF) (s : State) : Host.Outcome State Fault Refusal :=
  onDev (.dmaCopy f) (onTeam f [f.ra] (fun t m =>
    let w := laneWords t f.ra
    if !guardOn t f 0 then retire f t m
    else if dmaOk w then
      retire f t (updDma m f.die (immBits f 0 2) (fun d => { d with job := some t.job, queue := d.queue ++
        [{ src := nth 0 w 0 + 2 ^ 32 * nth 0 w 1, dst := nth 0 w 2 + 2 ^ 32 * nth 0 w 3, bytes := nth 0 w 4, ve := f.ve
           team := f.team, job := t.job }] }))
    else illegal f t m)) s

/-- Copies up to the end of the 1 MiB that holds the next source or destination byte, until nothing is left. Returns
whether poison was met. -/
def dmaRun (unit job : Nat) : Nat → Nat → Nat → Nat → Bool × Dev → Bool × Dev
  | 0, _, _, _, x => x
  | _, _, _, 0, x => x
  | fuel + 1, src, dst, left, x =>
    let n := min left (min (0x100000 - src % 0x100000) (0x100000 - dst % 0x100000))
    let r := admitAccess x.2 unit job src n 0
    let x' := if r.1 then readFinds r.2 unit src n else r.2
    let bad := r.1 && memPoisoned x'.mem src n
    let w := admitAccess x' unit job dst n 1
    let m := if w.1 then
        let m := touchPages w.2 dst n
        { m with mem := if r.1 then memCopy m.mem src dst n else memZero m.mem dst n }
      else w.2
    dmaRun unit job fuel (src + n) (dst + n) (left - n) (x.1 || bad, m)

/-- DMA_COPY_DONE: the oldest copy of an engine is made and counted (R267). -/
def dmaDone (die engine : Nat) (m : Dev) : Dev :=
  match (dmaAt m die engine).queue with
  | [] => m
  | c :: l =>
    let r := dmaRun (die * 256 + 0xC2 + engine) c.job (c.bytes / 0x80000 + 4) c.src c.dst c.bytes (false, m)
    updDma r.2 die engine (fun d => { d with queue := l, done := d.done ++ [r.1] })

def execDmaCopyDone (die engine : Nat) (s : State) : Host.Outcome State Fault Refusal :=
  onDev (.dmaCopyDone die engine) (dmaDone die engine) s

/-- DMA.WAIT: the count stands in lane 0 of RA; RD tells whether a counted copy met poison. -/
def execDmaWait (f : VeF) (s : State) : Host.Outcome State Fault Refusal :=
  onDev (.dmaWait f) (onTeam f [f.ra] (fun t m =>
    let d := dmaAt m f.die (immBits f 0 2)
    let n := vGet t 0 f.ra
    if d.done.length < n then m
    else retire f ((lanesOn t f).foldl (fun u l => vPut u l f.rd (flagWord { poison := (d.done.take n).any id }) false) t) m)) s

end Sys2Proof.Machine
end

