-- ==== Sys2Proof/Machine/Arrays.lean ====
section
/-! DEFINITION. Sys2Proof/Machine/Arrays.lean: the matrix arrays (chapter 04): descriptors and their checks, the weight
buffers, the arithmetic of R163 to R165, gangs, parity and column bypass, and the instructions MX.ISSUE and MX.WAIT. -/

namespace Sys2Proof.Machine

/-! ### Descriptors (R157, R158) -/

/-- Bits `hi` to `lo` of a word. -/
def bitField (w lo n : Nat) : Nat := (w >>> lo) % 2 ^ n

def dOp (d : Desc) : Nat := bitField d.w0 0 4
def dShape (d : Desc) : Nat := bitField d.w0 4 2
def dUnit (d : Desc) : Nat := bitField d.w0 6 4
def dAfmt (d : Desc) : Nat := bitField d.w0 10 4
def dWfmt (d : Desc) : Nat := bitField d.w0 14 4
def dOfmt (d : Desc) : Nat := bitField d.w0 18 2
def dAcc (d : Desc) : Bool := bitOf d.w0 20
def dGang (d : Desc) : Bool := bitOf d.w0 21
def dK (d : Desc) : Nat := bitField d.w0 24 12 + 1
def dTag (d : Desc) : Nat := bitField d.w0 36 12
def dXscale (d : Desc) : Int := if bitField d.w0 48 8 < 128 then bitField d.w0 48 8 else (bitField d.w0 48 8 : Int) - 256
def dGmask (d : Desc) : Nat := bitField d.w0 56 8
def wAddr (w : Nat) : Nat := bitField w 0 48
def wPitch (w : Nat) : Nat := bitField w 48 16 * 64

/-- The descriptor in eight 32-bit words (R254). -/
def descOf (l : List Nat) : Desc :=
  { w0 := nth 0 l 0 + 2 ^ 32 * nth 0 l 1, w1 := nth 0 l 2 + 2 ^ 32 * nth 0 l 3
    w2 := nth 0 l 4 + 2 ^ 32 * nth 0 l 5, w3 := nth 0 l 6 + 2 ^ 32 * nth 0 l 7 }

/-- R160: the class of a pair of formats: 1 A, 2 B, 3 C. -/
def classOf (a w : Nat) : Option Nat :=
  if a = 6 ∧ w = 6 then some 2
  else if a ≤ 5 ∧ w ≤ 6 then some 1
  else if (a = 7 ∨ a = 8) ∧ (w = 7 ∨ w = 8) then some 3
  else none

/-- R151: the reduction depth of an instruction. -/
def depthOf (d : Desc) : Nat :=
  let x := match dShape d with | 0 => 256 | 1 => 128 | _ => 64
  if classOf (dAfmt d) (dWfmt d) = some 2 then 2 * x else x

/-- R177, R185: the physical columns of a sub-unit that are not bypassed, in ascending order. -/
def unitCols (a : MArray) (shape unit : Nat) : List Nat :=
  let r := match shape with
    | 0 => (0, 256)
    | 1 => (128 * (unit % 2), 128)
    | _ => (64 * (unit % 4), 64)
  if a.width = 0 then [] else ((List.range r.2).map (· + r.1)).filter (fun c => !decide (c ∈ a.bad))

/-- Bits of an element of a format code. -/
def elemBits (c : Nat) : Nat := match fmtOf c with | some f => fbits f | none => 8

/-- Bytes of `n` packed elements (R161). -/
def packedBytes (c n : Nat) : Nat := (n * elemBits c + 7) / 8

/-- Bytes of an output element. -/
def outBytes (d : Desc) : Nat := match dOfmt d with | 0 => 4 | 1 => 2 | _ => 1

/-- Bytes of a stream row, with the scales of an MX format (R161). -/
def streamRow (d : Desc) : Nat := packedBytes (dAfmt d) (depthOf d) + if isMx (dAfmt d) then depthOf d / 32 else 0

/-- Bytes of a weight row, and weight and scale rows together (R161). -/
def weightRow (d : Desc) (w : Nat) : Nat := max (packedBytes (dWfmt d) w) (if isMx (dWfmt d) then w else 0)
def weightRows (d : Desc) : Nat := depthOf d + if isMx (dWfmt d) then depthOf d / 32 else 0

/-- Bytes of the last row of the weight operand: a scale row of an MX format, an element row otherwise. -/
def lastWeightRow (d : Desc) (w : Nat) : Nat := if isMx (dWfmt d) then w else packedBytes (dWfmt d) w

/-- R174: first address and length of an operand's range. -/
def operandRange (w rows : Nat) : Nat × Nat := (wAddr w, rows * wPitch w)

/-- R154: `rows` rows at a pitch, the last of `len` bytes, lie where an array of a die may read, or with `write` may write. HBM and
the cistern adjoin (R30). -/
def arrayReach (die : Nat) (write : Bool) (w rows len : Nat) : Bool :=
  let lo := wAddr w
  let hi := lo + (rows - 1) * wPitch w + len - 1
  (!write && isExtMem lo && isExtMem hi)
    || match placeOf lo, placeOf hi with
      | .spad a _, .spad b _ => decide (a = die ∧ b = die)
      | _, _ => false

/-- R162: the checks of a descriptor, in the order of the table; 0 is ACCEPTED. -/
def descCheck (die array : Nat) (a : MArray) (d : Desc) : Nat :=
  let w := (unitCols a (dShape d) (dUnit d)).length
  let units := match dShape d with | 0 => 1 | 1 => 4 | _ => 16
  if bitField d.w0 22 2 ≠ 0 ∨ (dOp d = 2 ∧ (d.w1 ≠ 0 ∨ d.w2 ≠ 0 ∨ d.w3 ≠ 0)) then 1
  else if (dOp d ≠ 1 ∧ dOp d ≠ 2) ∨ dOfmt d = 3 ∨ classOf (dAfmt d) (dWfmt d) = none then 2
  else if dShape d = 3 ∨ units ≤ dUnit d ∨ w = 0 then 3
  else if dOp d = 1 ∧ !(decide (wAddr d.w1 % 64 = 0) && decide (wAddr d.w2 % 64 = 0) && decide (wAddr d.w3 % 64 = 0)
      && decide (streamRow d ≤ wPitch d.w1) && decide (weightRow d w ≤ wPitch d.w2) && decide (w * outBytes d ≤ wPitch d.w3)
      && arrayReach die false d.w1 (dK d) (streamRow d) && arrayReach die false d.w2 (weightRows d) (lastWeightRow d w)
      && arrayReach die true d.w3 (dK d) (w * outBytes d)) then 4
  else if dAcc d ∧ dOfmt d ≠ 0 then 5
  else if (dGang d ∧ (dShape d ≠ 0 ∨ !bitOf (dGmask d) (array % 8))) ∨ (!dGang d ∧ dGmask d ≠ 0) then 6
  else 0

/-! ### MX.ISSUE and MX.WAIT (R156, R254, R255) -/

/-- The instructions of a sub-unit that hold a weight buffer (R150, R172). -/
def buffersUsed (a : MArray) (unit : Nat) : Nat :=
  (a.held.filter (fun x => decide (x.unit = unit) && (decide (x.stage = .filling) || decide (x.stage = .filled)))).length

/-- A descriptor as it leaves the queue: a DITHER has nothing to fill (R184). -/
def released (d : Desc) (stage : RelStage) : Rel := { unit := dUnit d, d := d, stage := stage }

/-- The stage of an instruction whose sub-unit is ready for it. -/
def startStage (d : Desc) : RelStage := if dOp d = 2 then .filled else .filling

/-- R172, R173, R178: the oldest queued descriptor leaves the queue when its sub-unit has a free weight buffer. One of another
shape is released too, and waits for the array to be idle; until it has started, nothing behind it leaves the queue. -/
def releaseOne (a : MArray) : MArray :=
  match a.queue with
  | [] => a
  | d :: l =>
    if a.held.any (fun x => decide (x.stage = .shape)) then a
    else if dShape d ≠ a.shape then { a with queue := l, held := a.held ++ [released d .shape] }
    else if buffersUsed a (dUnit d) < 2 then { a with queue := l, held := a.held ++ [released d (startStage d)] }
    else a

/-- Every descriptor that may leave the queue does. -/
def releaseAll (a : MArray) : MArray := (List.range 16).foldl (fun a _ => releaseOne a) a

/-- MX.ISSUE: the guard of lane 0 decides; a full queue stalls the team. -/
def execMxIssue (f : VeF) (s : State) : Host.Outcome State Fault Refusal :=
  onDev (.mxIssue f) (onTeam f [f.ra] (fun t m =>
    let n := immBits f 0 6
    if 48 ≤ n then illegal f t m
    else if !guardOn t f 0 then retire f t m
    else
      let a := arrayAt m f.die n
      if 16 ≤ a.queue.length then m
      else
        let d := descOf (laneWords t f.ra)
        let code := descCheck f.die n a d
        let m := updArray m f.die n (fun a =>
          if code = 0 then releaseAll { a with queue := a.queue ++ [d], job := some t.job } else { a with refused := sat 8 (a.refused + 1) })
        retire f ((List.range 64).foldl (fun u l => vPut u l f.rd code false) t) m)) s

/-- MX.WAIT: the count stands in lane 0 of RA; RD receives the flags of the instructions numbered 1 to the count. -/
def execMxWait (f : VeF) (s : State) : Host.Outcome State Fault Refusal :=
  onDev (.mxWait f) (onTeam f [f.ra] (fun t m =>
    let n := immBits f 0 6
    if 48 ≤ n then illegal f t m
    else
      let l := tget [] (arrayAt m f.die n).done (immBits f 6 4)
      let c := vGet t 0 f.ra
      if l.length < c then m
      else retire f ((lanesOn t f).foldl (fun u k => vPut u k f.rd (flagWord (orAll (l.take c))) false) t) m)) s

/-! ### Reads and writes of an array -/

/-- The unit code of an array (R260). -/
def maUnit (die a : Nat) : Nat := die * 256 + 0x80 + a

/-- A read by an array: zeros from a bank it does not own set ZEROREAD (R155). -/
def arrayRead (die n addr len : Nat) (m : Dev) : List Byte × Bool × Dev :=
  let r := unitReads m (maUnit die n) ((arrayAt m die n).job.getD 16) addr len
  (r.1, r.2.1, if r.2.2.1 then updArray r.2.2.2 die n (fun a => { a with zeroRead := true }) else r.2.2.2)

/-- The weight operand of an instruction: its element rows, then its scale rows (R161), each padded to the length of
`weightRow`. -/
def weightRead (die n : Nat) (d : Desc) (w : Nat) (m : Dev) : List Byte × Bool × Dev :=
  (List.range (weightRows d)).foldl (fun x r =>
    let y := arrayRead die n (wAddr d.w2 + r * wPitch d.w2) (if r < depthOf d then packedBytes (dWfmt d) w else w) x.2.2
    (x.1 ++ padTo (weightRow d w) y.1, x.2.1 || y.2.1, y.2.2)) ([], false, m)

/-- Element `i` of packed elements (R161). -/
def elemAt (c row i : Nat) : Nat := bitField row (i * elemBits c) (elemBits c)

/-- The value of an element of a format code; a reserved code has been refused. -/
def elemVal (c row i : Nat) : FVal :=
  match fmtOf c with
  | some f => fdec f (elemAt c row i)
  | none => .fin false 0 0

/-! ### Weight buffers and shape (R169, R172 to R174, R178) -/

/-- R174: two ranges share a byte. -/
def rangesMeet (a b : Nat × Nat) : Bool := decide (a.1 < b.1 + b.2) && decide (b.1 < a.1 + a.2)

/-- R172, R174: the instruction at an index of the released ones fills now: no earlier one that has not completed writes its
weights. -/
def mayFill (a : MArray) (i : Nat) : Bool :=
  match a.held[i]? with
  | none => false
  | some x => decide (x.stage = .filling) && (a.held.take i).all (fun y =>
      !(decide (dOp y.d = 1) && rangesMeet (operandRange y.d.w3 (dK y.d)) (operandRange x.d.w2 (weightRows x.d))))

/-- ARRAY_FILL_DONE: the oldest weight buffer that fills is full. -/
def fillDone (die n : Nat) (m : Dev) : Dev :=
  let a := arrayAt m die n
  match (List.range a.held.length).find? (mayFill a) with
  | none => m
  | some i =>
    match a.held[i]? with
    | none => m
    | some x =>
      let r := weightRead die n x.d (unitCols a (dShape x.d) x.unit).length m
      updArray r.2.2 die n (fun a => { a with held := a.held.set i { x with stage := .filled, weights := r.1, poison := r.2.1 } })

def execArrayFillDone (die array : Nat) (s : State) : Host.Outcome State Fault Refusal :=
  onDev (.arrayFillDone die array) (fillDone die array) s

/-- ARRAY_SHAPE_CHANGE (R178): an array that holds nothing but a descriptor of another shape takes that shape, and starts it. -/
def shapeChange (die n : Nat) (m : Dev) : Dev :=
  match (arrayAt m die n).held with
  | [x] =>
    if x.stage = .shape then
      updArray m die n (fun a => releaseAll { a with shape := dShape x.d, held := [{ x with stage := startStage x.d }] })
    else m
  | _ => m

def execArrayShapeChange (die array : Nat) (s : State) : Host.Outcome State Fault Refusal :=
  onDev (.arrayShapeChange die array) (shapeChange die array) s

/-! ### Arithmetic (R163 to R165) -/

/-- A rounding to FP32 that notes an overflow. -/
def accRound (v : FVal) : Nat × Bool := fcvt fp32 none v

/-- One step acc = rne32(acc + v). -/
def accAdd (x : Nat × Bool) (v : FVal) : Nat × Bool :=
  let r := accRound (fvAdd (dec32 x.1) v)
  (r.1, x.2 || r.2)

/-- R163: the sum of one group of 32, scaled; a NaN scale makes it NaN. -/
def groupSum (a w : List FVal) (scale : Option Int) : FVal :=
  let s := (List.zipWith fvMul a w).foldl fvAdd (.fin false 0 0)
  match scale with
  | some k => fvScale s k
  | none => .nan (Config.nanNeg a)

/-- The accumulated sum before XSCALE: R164 with `fused`, otherwise R163 over groups of 32. -/
def sumCols (fused : Bool) (a w : List FVal) (scales : List (Option Int)) : Nat × Bool :=
  if fused then (List.zip a w).foldl (fun x p => accAdd x (fvMul p.1 p.2)) (0, false)
  else (List.range (a.length / 32)).foldl (fun x j =>
    let r := accRound (groupSum ((a.drop (32 * j)).take 32) ((w.drop (32 * j)).take 32) (nth (some 0) scales j))
    accAdd (x.1, x.2 || r.2) (dec32 r.1)) (0, false)

/-- XSCALE, the prior content, and the output format; `cin` is C in, when ACC is set. -/
def finishElem (d : Desc) (x : Nat × Bool) (cin : Option Nat) : Nat × Flags3 :=
  let r := accRound (fvScale (dec32 x.1) (dXscale d))
  let y := (r.1, x.2 || r.2)
  let y := match cin with
    | some c => let r := accRound (fvAdd (dec32 c) (dec32 y.1)); (r.1, y.2 || r.2)
    | none => y
  let f := match dOfmt d with | 0 => fp32 | 1 => bf16 | _ => e4m3
  let o := fcvt f none (dec32 y.1)
  (o.1, { ovf := y.2 || o.2, nonfinite := codeNonfinite f o.1 })

/-- The E8M0 scales of a stream row: zero for a format without them. -/
def rowScales (c depth : Nat) (row : List Byte) : List (Option Int) :=
  (List.range (depth / 32)).map (fun j => if isMx c then scaleExp (recField row (packedBytes c depth + j) 1) else some 0)

/-- The sum of two scale exponents; NaN when one is. -/
def addScale (a b : Option Int) : Option Int := match a, b with | some x, some y => some (x + y) | _, _ => none

/-- Column `c` of a filled weight buffer: its values and its scales. -/
def weightCol (d : Desc) (w c : Nat) (buf : List Byte) : List FVal × List (Option Int) :=
  let rl := weightRow d w
  ((List.range (depthOf d)).map (fun i => elemVal (dWfmt d) (leNat ((buf.drop (i * rl)).take rl)) c),
   (List.range (depthOf d / 32)).map (fun j =>
     if isMx (dWfmt d) then scaleExp (recField buf ((depthOf d + j) * rl + c) 1) else some 0))

/-- One output row: its bytes and the flags of its elements. -/
def outRow (d : Desc) (cols : List (List FVal × List (Option Int))) (row cin : List Byte) : List Byte × Flags3 :=
  let depth := depthOf d
  let n := leNat (row.take (packedBytes (dAfmt d) depth))
  let a := (List.range depth).map (elemVal (dAfmt d) n)
  let sa := rowScales (dAfmt d) depth row
  let fused := decide (classOf (dAfmt d) (dWfmt d) = some 3)
  let os := (List.range cols.length).map (fun c =>
    let w := nth ([], []) cols c
    finishElem d (sumCols fused a w.1 (List.zipWith addScale sa w.2))
      (if dAcc d then some (recField cin (4 * c) 4) else none))
  (os.flatMap (fun o => leBytes (outBytes d) o.1), orAll (os.map (·.2)))

/-- Blocks of C in that carry poison keep it in C out, where the array owns the bank (R167). -/
def keepPoison (die n : Nat) (blocks : List Nat) (m : Dev) : Dev :=
  let slot := (arrayAt m die n).job.getD 16
  updMem m (fun x => (blocks.filter (fun b => !barred m (maUnit die n) slot (b * 64) 64 1)).foldl (fun x b => memMark x (b * 64) true) x)

/-- An instruction as it streams: its array, its index among the array's released ones, and its columns. -/
structure Streamer where
  n : Nat
  i : Nat
  x : Rel
  cols : List (List FVal × List (Option Int))
deriving DecidableEq, Repr

/-- Row `k` of an instruction: the stream row `a` enters, and the output row is written (R163 to R167). -/
def streamOne (die k : Nat) (a : List Byte × Bool) (p : Streamer) (x : Flags3 × Dev) : Flags3 × Dev :=
  let d := p.x.d
  let caddr := wAddr d.w3 + k * wPitch d.w3
  let len := p.cols.length * outBytes d
  let c := if dAcc d then arrayRead die p.n caddr len x.2 else ([], false, x.2)
  let bad := if c.2.1 then ((List.range ((caddr + len - 1) / 64 + 1 - caddr / 64)).map (· + caddr / 64)).filter
    (fun b => memPoisoned c.2.2.mem (b * 64) 64) else []
  let o := outRow d p.cols a.1 c.1
  let poison := p.x.poison || a.2
  let m := unitWrite c.2.2 (maUnit die p.n) ((arrayAt c.2.2 die p.n).job.getD 16) caddr o.1 poison
  (orFlags x.1 { o.2 with poison := poison || c.2.1 }, if bad = [] then m else keepPoison die p.n bad m)

/-- R179: one stream row is read once, by the array `lead`, and reaches every part in the same cycle. -/
def streamRowOf (die lead : Nat) (d : Desc) (ps : List Streamer) (x : List Flags3 × Dev) (k : Nat) : List Flags3 × Dev :=
  let a := arrayRead die lead (wAddr d.w1 + k * wPitch d.w1) (streamRow d) x.2
  (ps.zip x.1).foldl (fun y p =>
    let r := streamOne die k (a.1, a.2.1) p.1 (p.2, y.2)
    (y.1 ++ [r.1], r.2)) ([], a.2.2)

/-- The cycles between two rows of an instruction (R160), and from a row's entry to its output row (R171). DITHER runs through
the whole array (R184). -/
def rowCycles (d : Desc) : Nat := if classOf (dAfmt d) (dWfmt d) = some 3 then 2 else 1
def latency (d : Desc) : Nat := if dOp d = 2 then 520 else match dShape d with | 0 => 520 | 1 => 264 | _ => 136

/-- R193: the cycles that an instruction's rows add to MA_ACTIVE. Its first row enters after the latest row of its sub-unit, at the
start of the run where that has none; a start ramp costs 12 cycles (R181); sub-units that run at once count once (DESIGN CHOICE, log
entry 13). -/
def countRows (a : MArray) (unit : Nat) (d : Desc) : MArray :=
  let a := if a.ramped then a else { a with ramped := true, runFrom := a.active, nextRow := [] }
  let first := tget a.runFrom a.nextRow unit + (if a.nextRow = [] then 12 else 0)
  { a with
    nextRow := tput a.nextRow unit (first + dK d * rowCycles d)
    active := max a.active (first + (dK d - 1) * rowCycles d + latency d) % 2 ^ 64 }

/-- All rows of an instruction are in: its buffer is free, and it waits for the acknowledgement. -/
def streamed (i : Nat) (x : Rel) (fl : Flags3) (a : MArray) : MArray :=
  releaseAll (countRows { a with held := a.held.set i { x with stage := .streamed, flags := fl } } x.unit x.d)

/-- The instructions of one stream run through their filled buffers (R172, R179). -/
def streamAll (die lead : Nat) (d : Desc) (ps : List Streamer) (m : Dev) : Dev :=
  let r := (List.range (dK d)).foldl (streamRowOf die lead d ps) (ps.map (fun _ => {}), m)
  (ps.zip r.1).foldl (fun m p => updArray m die p.1.n (streamed p.1.i p.1.x p.2)) r.2

/-- The oldest instruction of a sub-unit that has not streamed, once it is filled, with its index (R172, R178). -/
def headFill (a : MArray) (unit : Nat) : Option (Nat × Rel) :=
  match a.held.findIdx? (fun x => decide (x.unit = unit) && decide (x.stage ≠ .streamed)) with
  | none => none
  | some i => (a.held[i]?.filter (fun x => decide (x.stage = .filled))).map (fun x => (i, x))

/-- R174: the ranges that an instruction reads and writes meet those that an earlier one writes, or the reverse. -/
def rangesClash (p q : Desc) : Bool :=
  let reads := fun (d : Desc) => [operandRange d.w1 (dK d), operandRange d.w2 (weightRows d)]
  let write := fun (d : Desc) => operandRange d.w3 (dK d)
  dOp p = 1 && dOp q = 1 && (rangesMeet (write p) (write q) || (reads p).any (rangesMeet (write q)) || (reads q).any (rangesMeet (write p)))

/-- R174: no instruction released earlier and not complete holds the one at an index back. -/
def mayStream (a : MArray) (h : Nat × Rel) : Bool := (a.held.take h.1).all (fun y => !rangesClash y.d h.2.d)

/-- The arrays of a gang (R179). -/
def gangOf (n : Nat) (d : Desc) : List Nat := (bitsOf 8 (dGmask d)).map (fun i => n / 8 * 8 + i)

/-- The fields that R179 requires to be identical. -/
def gangKey (d : Desc) : Nat × Nat × Nat × Int × Nat := (dGmask d, dAfmt d, dK d, dXscale d, d.w1)

/-- An instruction about to stream. -/
def partOf (m : Dev) (die n : Nat) (h : Nat × Rel) : Streamer :=
  let w := (unitCols (arrayAt m die n) (dShape h.2.d) h.2.unit).length
  { n := n, i := h.1, x := h.2, cols := (List.range w).map (fun c => weightCol h.2.d w c h.2.weights) }

/-- A member of a gang ends its instruction without a row, and raises ARRAY_GANG_MISMATCH with its own TAG (R180). LEADER and GMASK
are those of its own descriptor. -/
def gangFails (die : Nat) (m : Dev) (p : Nat × Nat × Rel) : Dev :=
  let m := updArray m die p.1 (fun a => releaseAll { a with
    held := a.held.set p.2.1 { p.2.2 with stage := .streamed, void := true }, gangMismatch := true })
  raisePart m (dieOwner m die) 0x0B12 0
    (leBytes 1 die ++ leBytes 1 ((gangOf p.1 p.2.2.d).headD p.1) ++ leBytes 1 (dGmask p.2.2.d) ++ zeros 1 ++ leBytes 2 (dTag p.2.2.d))

/-- R179: the gang instruction that heads sub-unit 0 of each member, filled. -/
def gangHeads (m : Dev) (die n : Nat) (d : Desc) : List (Nat × Option (Nat × Rel)) :=
  (gangOf n d).map (fun a => (a, (headFill (arrayAt m die a) 0).filter (fun h => dGang h.2.d)))

/-- The instruction that a MATMUL of a sub-unit streams, and with it those of its gang once every member holds its own (R172, R174,
R179): none while something holds it back. -/
def streamers (m : Dev) (die n unit : Nat) : List (Nat × Nat × Rel) :=
  match headFill (arrayAt m die n) unit with
  | none => []
  | some h =>
    if dOp h.2.d ≠ 1 || !mayStream (arrayAt m die n) h then []
    else if !dGang h.2.d then [(n, h)]
    else
      let hs := gangHeads m die n h.2.d
      let xs := hs.filterMap (fun p => p.2.map (fun f => (p.1, f)))
      if xs.length < hs.length || !xs.all (fun p => mayStream (arrayAt m die p.1) p.2) then [] else xs

/-- MATMUL: the oldest filled instruction of a sub-unit streams (R163, R172). The arrays of a gang stream together once
all have filled (R179), and end together when their instructions differ (R180). A braked array streams nothing (R183). -/
def matmul (die n unit : Nat) (m : Dev) : Dev :=
  if m.power.brake then m
  else match streamers m die n unit with
  | [] => m
  | p :: l =>
    if (p :: l).all (fun q => decide (gangKey q.2.2.d = gangKey p.2.2.d)) then
      streamAll die p.1 p.2.2.d ((p :: l).map (fun q => partOf m die q.1 q.2)) m
    else (p :: l).foldl (gangFails die) m

def execMatmul (die array unit : Nat) (s : State) : Host.Outcome State Fault Refusal :=
  onDev (.matmul die array unit) (matmul die array unit) s

/-- The DITHER that heads a sub-unit of an array. -/
def headDither (a : MArray) : Option (Nat × Rel) :=
  ((List.range 16).filterMap (headFill a)).find? (fun h => decide (dOp h.2.d = 2))

/-- DITHER (R184): reads and writes nothing and sets no flag; it counts in MA_ACTIVE. -/
def dither (die n : Nat) (m : Dev) : Dev :=
  if m.power.brake then m
  else match headDither (arrayAt m die n) with
  | none => m
  | some h => updArray m die n (streamed h.1 h.2 {})

def execDither (die array : Nat) (s : State) : Host.Outcome State Fault Refusal :=
  onDev (.dither die array) (dither die array) s

/-- ARRAY_INSTR_DONE (R176, R178): the oldest instruction of a sub-unit completes and is counted, once all its rows are in. -/
def instrDone (die n unit : Nat) (m : Dev) : Dev :=
  let a := arrayAt m die n
  match a.held.findIdx? (fun x => decide (x.unit = unit)) with
  | none => m
  | some i =>
    match a.held[i]? with
    | none => m
    | some x =>
      if x.stage = .streamed then
        let m := stepNonfinite die (a.job.getD 16) x.flags m
        updArray m die n (fun a => { a with
          held := a.held.eraseIdx i
          done := tmod [] a.done unit (· ++ [x.flags])
          sticky := orFlags a.sticky x.flags
          lastTag := dTag x.d })
      else m

def execArrayInstrDone (die array unit : Nat) (s : State) : Host.Outcome State Fault Refusal :=
  onDev (.arrayInstrDone die array unit) (instrDone die array unit) s

/-- Some row is admissible: an instruction of the array may stream (R182). -/
def rowsWait (m : Dev) (die n : Nat) : Bool :=
  (List.range 16).any (fun u => !(streamers m die n u).isEmpty) || (headDither (arrayAt m die n)).isSome

/-- ARRAY_RAMP_DOWN (R182): no further row can be admitted; 32 cycles of dither rows follow the last row. A braked array drives
none (R183). -/
def rampDown (die n : Nat) (m : Dev) : Dev :=
  if m.power.brake || rowsWait m die n then m
  else updArray m die n (fun a => if a.ramped then { a with ramped := false, active := (a.active + 32) % 2 ^ 64 } else a)

def execArrayRampDown (die array : Nat) (s : State) : Host.Outcome State Fault Refusal :=
  onDev (.arrayRampDown die array) (rampDown die array) s

/-! ### Parity and columns (R186 to R190) -/

/-- MA_DESC of an array (R191). -/
def maDesc (a : MArray) : Nat :=
  a.width + (a.bad.length <<< 9) + ((List.range 4).foldl (fun n i => n + (nth 0 a.bad i <<< (16 + 8 * i))) 0)
    + (a.pend.getD 0 <<< 48) + (b2n a.pend.isSome <<< 56)

/-- R189: a column becomes pending, with ARRAY_COLUMN_PENDING; one already pending or bypassed is not entered again. -/
def columnPending (die n col : Nat) (m : Dev) : Dev :=
  let a := arrayAt m die n
  let rec' := tget [] m.sys.colRecord (die * 48 + n)
  if col ∈ rec' ∨ col ∈ a.bad then m
  else
    let m := updSys m (fun s => { s with colRecord := tset [] s.colRecord (die * 48 + n) (rec' ++ [col]) })
    let m := updArray m die n (fun a => { a with pend := a.pend.or (some col) })
    raiseModule m 0x0B11 0 (leBytes 1 die ++ leBytes 1 n ++ leBytes 1 col ++ leBytes 1 (min 4 (rec'.length + 1)))

/-- R188: the blocks of the running instruction that carry a column's result from a row on are poisoned, in the banks that the
array writes (R155). -/
def poisonColumn (die n : Nat) (d : Desc) (j row : Nat) (m : Dev) : Dev :=
  let slot := (arrayAt m die n).job.getD 16
  let at' := fun k => wAddr d.w3 + k * wPitch d.w3 + j * outBytes d
  updMem m (fun x => ((List.range (dK d)).filter (fun k => decide (row ≤ k) && !barred m (maUnit die n) slot (at' k) (outBytes d) 1)).foldl
    (fun x k => memPoison x (at' k) (outBytes d)) x)

/-- COLUMN_PARITY_FAIL (R188, R189): a physical column fails while an instruction of a sub-unit runs. A DITHER has no output and
sets no flag of R166 (R184): of it PARITY and the count remain. -/
def parityFail (die n unit column row : Nat) (m : Dev) : Dev :=
  let a := arrayAt m die n
  match a.held.findIdx? (fun x => decide (x.unit = unit) && decide (x.stage = .streamed) && !x.void) with
  | none => m
  | some i =>
    match a.held[i]? with
    | none => m
    | some x =>
      match (unitCols a (dShape x.d) unit).idxOf? column with
      | none => m
      | some j =>
        let mul := decide (dOp x.d = 1)
        let m := if mul then poisonColumn die n x.d j row m else m
        let again := decide (column ∈ a.failedCols)
        let m := updArray m die n (fun a => { a with
          held := if mul then a.held.set i { x with flags := { x.flags with poison := true } } else a.held
          parity := true, sticky := { a.sticky with poison := a.sticky.poison || mul }
          parityCount := sat 16 (a.parityCount + 1), lastCol := column, failedCols := a.failedCols ++ [column] })
        let m := riskHit m 3 1
        let m := raisePart m (dieOwner m die) 0x0B10 0
          (leBytes 1 die ++ leBytes 1 n ++ leBytes 1 column ++ zeros 1 ++ leBytes 2 (dTag x.d) ++ zeros 2
            ++ leBytes 4 (if mul then dK x.d - row else 0))
        if again then columnPending die n column m else m

def execColumnParityFail (die array unit column row : Nat) (s : State) : Host.Outcome State Fault Refusal :=
  onDevW (wfColumnParityFail die array unit column row) (parityFail die array unit column row) s

/-- R190: the array map digest, as the eight bytes of its field. -/
def mapDigest (m : Dev) : List Byte :=
  shake256 8 ((List.range 384).flatMap (fun i => leBytes 6 (maDesc (tget {} m.arrays i) % 2 ^ 48)))

/-- ARRAY_MAP. -/
def specArrayMap (mb die : Nat) : CmdSpec where
  cmd := .arrayMap mb die
  opcode := 0x0B10
  mb := mb
  query := true
  states := some [.ready, .active, .quiesced]
  par := fun _ => ensure (decide (die < 8) || decide (die = 0xFF)) 0x2003
  apply := fun m =>
    let r := if die = 0xFF then (0, 384) else (die * 48, 48)
    { m := m
      body := leBytes 2 r.2 ++ zeros 6 ++ mapDigest m
        ++ (List.range r.2).flatMap (fun i => leBytes 8 (maDesc (tget {} m.arrays (r.1 + i)))) }

def execArrayMap (mb die : Nat) (s : State) : Host.Outcome State Fault Refusal := onCmd (specArrayMap mb die) s

/-- ARRAY_SELFTEST: the test of 30 ms starts at the next local stroke; SELFTEST_DONE ends it. -/
def specArraySelftest (mb die : Nat) : CmdSpec where
  cmd := .arraySelftest mb die
  opcode := 0x0B11
  mb := mb
  admin := true
  states := some [.ready]
  par := fun _ => ensure (decide (die < 8) || decide (die = 0xFF)) 0x2003
  sta := fun m => ensure m.sys.selftest.isNone 0x1001
  apply := fun m => { m := updSys m (fun s => { s with selftest := some (die, mb) }), wait := some .selftest }

def execArraySelftest (mb die : Nat) (s : State) : Host.Outcome State Fault Refusal := onCmd (specArraySelftest mb die) s

/-- The columns that a self-test found: numbers (die × 48 + array) × 256 + column of the dies it tested. -/
def selftestHits (die : Nat) (fails : List Nat) : List Nat :=
  fails.filter (fun x => decide (x < 384 * 256) && (decide (die = 0xFF) || decide (x / 256 / 48 = die)))

/-- One column of the self-test's result is entered. -/
def selftestCol (x : Nat × List Nat × Dev) (c : Nat) : Nat × List Nat × Dev :=
  let n := c / 256
  let seen := decide (c % 256 ∈ tget [] x.2.2.sys.colRecord n) || decide (c % 256 ∈ (tget {} x.2.2.arrays n).bad)
  if seen then x else (x.1 + 1, x.2.1 ++ [n], columnPending (n / 48) (n % 48) (c % 256) x.2.2)

/-- SELFTEST_DONE (R187): the newly failing columns become pending, and the reply of ARRAY_SELFTEST is due. -/
def selftestDone (fails : List Nat) (m : Dev) : Dev :=
  match m.sys.selftest with
  | none => m
  | some p =>
    let r := (selftestHits p.1 fails).foldl selftestCol (0, [], updSys m (fun s => { s with selftest := none }))
    let tested := ((List.range 384).filter (fun i =>
      (decide (p.1 = 0xFF) || decide (i / 48 = p.1)) && decide ((tget {} m.arrays i).width ≠ 0))).length
    finishWaits r.2.2 (fun w => decide (w = .selftest)) (fun y => { y with
      body := leBytes 2 tested ++ leBytes 2 r.1 ++ zeros 4 ++ leBytes 48 (maskOf r.2.1) })

def execSelftestDone (failCols : List Nat) (s : State) : Host.Outcome State Fault Refusal :=
  onDevW (wfSelftestDone failCols) (selftestDone failCols) s

end Sys2Proof.Machine
end

