-- ==== Sys2Proof/Machine/Scratch.lean ====
section
/-! DEFINITION. Sys2Proof/Machine/Scratch.lean: the handover of scratchpad banks (R259 to R266, R281). -/

namespace Sys2Proof.Machine

/-- A range of bytes lies, in part, in a bank. -/
def inBank (die bank addr len : Nat) : Bool :=
  decide (addr < bankAddr die bank + 0x100000) && decide (bankAddr die bank < addr + len)

/-- A descriptor names an address in a bank. -/
def descInBank (die bank : Nat) (d : Desc) : Bool :=
  dOp d = 1 && ([operandRange d.w1 (dK d), operandRange d.w2 (weightRows d), operandRange d.w3 (dK d)].any
    (fun r => inBank die bank r.1 r.2))

/-- The magic of a command bank of the collective engine, the attention engine and the atomiser (R331, R376, R487). -/
def bankMagic (unit : Nat) : Nat := if unit = 0xC0 then 0xA7C0 else if unit = 0xC8 then 0xA7E0 else 0xA7A1

/-- The header of a command bank: its magic and a count of 1 to 16,383 (R331). -/
def bankHeader (m : Dev) (unit die bank : Nat) : Bool :=
  let a := bankAddr die bank
  decide (memNat m.mem a 2 = bankMagic unit) && decide (1 ≤ memNat m.mem (a + 2) 2 ∧ memNat m.mem (a + 2) 2 ≤ 16383)

/-- The engine has read the header of a bank (R331): the bank is a command bank in its list, or a bank of data. -/
def headerRead (m : Dev) (die bank : Nat) : Dev := updBank m die bank (fun b => { b with fresh := false })

/-- The addresses that a descriptor of the attention engine (R338, R339) or of the atomiser (R377) gives. -/
def descAddrs (unit : Nat) (d : List Byte) : List Nat :=
  if unit = 0xC9 then [recField d 8 8, recField d 16 8]
  else if recField d 0 1 = 1 then [recField d 32 8, recField d 40 8] ++ (if recField d 48 8 = 0 then [] else [recField d 48 8])
  else if recField d 0 1 = 2 then [recField d 32 8] else []

/-- A descriptor of a command bank that has not ended names an address in the bank. -/
def queuedNames (m : Dev) (unit die bank : Nat) (c : CmdBank) : Bool :=
  (List.range (c.count - c.next)).any (fun i =>
    (descAddrs unit (memRead m.mem (bankAddr die c.bank + 64 + 64 * (c.next + i)) 64)).any (fun a => inBank die bank a 1))

/-- The attention engine or the atomiser has work that names the bank (R263, R334): a command bank not yet received, one that it
runs, or a range of a queued descriptor. A range lies in one bank (R333), so its first address names it. -/
def cmdBusy (m : Dev) (unit die bank : Nat) (banks : List CmdBank) : Bool :=
  ((bankAt m die bank).fresh && bankHeader m unit die bank)
    || banks.any (fun c => decide (c.bank = bank) || queuedNames m unit die bank c)

/-- R263: none of the queued or running work of the owner names an address in the bank. Reads and writes of a vector
engine are complete when its instruction is. -/
def ownerFinished (m : Dev) (die bank : Nat) : Bool :=
  let o := (bankAt m die bank).owner
  if 0x80 ≤ o ∧ o < 0xB0 then
    let a := arrayAt m die (o - 0x80)
    !(a.queue.any (descInBank die bank) || a.held.any (fun x => descInBank die bank x.d))
  else if 0xC2 ≤ o ∧ o ≤ 0xC5 then
    !(dmaAt m die (o - 0xC2)).queue.any (fun c => inBank die bank c.src c.bytes || inBank die bank c.dst c.bytes)
  else if o = 0xC0 then
    !((bankAt m die bank).fresh && bankHeader m o die bank) && !m.colls.any (fun c => c.dies.any (fun x => decide (x.die = die) &&
      (inBank die bank x.src (if x.src = 0 then 0 else c.bytes) || inBank die bank x.dst (if x.dst = 0 then 0 else c.bytes)
        || inBank die bank x.doneAddr 32 || (decide (x.stageFirst ≤ bank) && decide (bank < x.stageFirst + x.stageCount)))))
  else if o = 0xC8 then !cmdBusy m o die bank (tget {} m.atts die).banks
  else if o = 0xC9 then !cmdBusy m o die bank (tget {} m.atms die).banks
  else true

/-- A unit code that SPB.GIVE may name: a unit of the die, or the sluice (R260, R262). -/
def givable (u : Nat) : Bool :=
  decide (u < 0xB0) || decide (0xC0 ≤ u ∧ u ≤ 0xC5) || decide (0xC8 ≤ u ∧ u ≤ 0xCA)

/-- R262 items 1 and 2, and R487 for the banks of the collective engine: the engine may hand the bank over. -/
def mayGive (m : Dev) (f : VeF) (job bank : Nat) : Bool :=
  let b := bankAt m f.die bank
  ownsBank m (veUnit f) job f.die bank
    || ((decide (0x80 ≤ b.owner ∧ b.owner < 0xB0) || decide (0xC2 ≤ b.owner ∧ b.owner ≤ 0xC5) || decide (b.owner = 0xC8)
        || decide (b.owner = 0xC9) || decide (b.owner = 0xC0)) && b.giverValid && decide (b.giver = f.ve) && b.jobValid && decide (b.jobSlot = job))

/-- SPB.GIVE (R262, R263, R265): the team stalls until the handover takes effect. -/
def execSpbGive (f : VeF) (s : State) : Host.Outcome State Fault Refusal :=
  onDev (.spbGive f) (onTeam f [] (fun t m =>
    let bank := immBits f 0 8
    let u := immBits f 8 8
    if !guardOn t f 0 then retire f t m
    else if 160 ≤ bank || !givable u then illegal f t m
    else if !mayGive m f t.job bank || (bankAt m f.die bank).pending.isSome then
      retire f t (bankFault m f.die bank (veUnit f) 3 0)
    else if (veAt m f.die f.ve).atoms.any (fun a => decide (placeOf a.addr = .spad f.die bank)) then
      retire f t (bankFault m f.die bank (veUnit f) 4 0)
    else
      let m := updBank m f.die bank (fun b => { b with pending := some (u, f.ve, f.team) })
      updVe m f.die f.ve (fun v => { v with
        teams := tput v.teams f.team { t with wait := .handover bank }, active := (v.active + 1) % 2 ^ 64 }))) s

/-- The team that waits for a bank goes on. -/
def releaseGiver (m : Dev) (die bank ve team : Nat) : Dev :=
  match teamAt m die ve team with
  | none => m
  | some t => if t.wait = .handover bank then putTeam m die ve team { t with wait := .ready, pc := pcPlus t 8 } else m

/-- R266: every block of a bank reads zero. -/
def clearBank (m : Dev) (die bank : Nat) : Dev := updMem m (fun x => memZero x (bankAddr die bank) 0x100000)

/-- Units that take command banks: the collective engine, the attention engine and the atomiser. -/
def takesBanks (unit : Nat) : Bool := decide (unit = 0xC0 ∨ unit = 0xC8 ∨ unit = 0xC9)

/-- The wellhead's handover takes effect (R262 item 4, R264, R266). A change of job slot clears the bank, and a SPB.GIVE that waits
is refused. -/
def bankAssign (die bank value : Nat) (m : Dev) : Dev :=
  let b := bankAt m die bank
  let slot := bitField value 8 4
  let valid := bitOf value 12
  let m := if b.jobSlot ≠ slot ∨ b.jobValid ≠ valid then clearBank m die bank else m
  let m := updBank m die bank (fun b => { b with
    owner := value % 256, jobSlot := slot, jobValid := valid, pending := none, written := none, fresh := takesBanks (value % 256) })
  match b.pending with
  | none => m
  | some p => releaseGiver (bankFault m die bank (die * 256 + p.2.1) 3 0) die bank p.2.1 p.2.2

/-- SPB_HANDOVER_EFFECT (R263): once the old owner has finished with the bank, the new one has it. The wellhead's handover comes
before a SPB.GIVE (R264). -/
def handoverEffect (die bank : Nat) (m : Dev) : Dev :=
  if !ownerFinished m die bank then m
  else match (bankAt m die bank).written, (bankAt m die bank).pending with
  | some v, _ => bankAssign die bank v m
  | none, some p =>
    releaseGiver (updBank m die bank (fun b => { b with
      owner := p.1, giver := p.2.1, giverValid := true, pending := none, fresh := takesBanks p.1 })) die bank p.2.1 p.2.2
  | none, none => m

def execSpbHandoverEffect (die bank : Nat) (s : State) : Host.Outcome State Fault Refusal :=
  onDev (.spbHandoverEffect die bank) (handoverEffect die bank) s

/-- SPB.WAIT: waits until the engine owns the bank. -/
def execSpbWait (f : VeF) (s : State) : Host.Outcome State Fault Refusal :=
  onDev (.spbWait f) (onTeam f [] (fun t m =>
    let bank := immBits f 0 8
    if 160 ≤ bank then illegal f t m
    else if !guardOn t f 0 || ownsBank m (veUnit f) t.job f.die bank then retire f t m else m)) s

/-- SPB_OWNER as a word (R281). -/
def spbOwner (b : Bank) : Nat :=
  b.owner + (b.jobSlot <<< 8) + (b2n b.jobValid <<< 12) + (b.giver <<< 16) + (b2n b.giverValid <<< 23)
    + (b2n (b.pending.isSome || b.written.isSome) <<< 24)

/-- SPB_OWNER_WRITE (R262 item 4, R281): the wellhead hands a bank over; the handover waits under R263, and a later write stands in
its place. -/
def ownerWrite (die bank value : Nat) (m : Dev) : Dev := updBank m die bank (fun b => { b with written := some value })

def execSpbOwnerWrite (die bank value : Nat) (s : State) : Host.Outcome State Fault Refusal :=
  onDev (.spbOwnerWrite die bank value) (ownerWrite die bank value) s

/-- Banks return to the wellhead, with no job slot (R266). -/
def returnBanks (m : Dev) (p : Nat → Bank → Bool) : Dev :=
  (m.banks.filter (fun b => p (b.1 / 160) b.2)).foldl (fun m b =>
    let m := clearBank m (b.1 / 160) (b.1 % 160)
    updBank m (b.1 / 160) (b.1 % 160) (fun b => { b with owner := 0xFF, jobSlot := 0, jobValid := false, pending := none, written := none })) m

end Sys2Proof.Machine
end

