-- ==== Sys2Proof/Machine/Attention.lean ====
section
/-! DEFINITION. Sys2Proof/Machine/Attention.lean: the attention engine and the page-table unit (chapter 08): command
banks, forward and append descriptors, page operations, copies on write and moves. -/

namespace Sys2Proof.Machine

/-! ### Pools, lists and frames (R342 to R346, R353) -/

def poolAt (m : Dev) (die slot : Nat) : Option KvPool := tfind m.pools (die * 16 + slot)

/-- A frame as a page-table entry names it: number, TIER and VALID (R346). -/
def frameWord (cistern : Bool) (frame : Nat) : Nat := frame % 2 ^ 25 + (if cistern then 2 ^ 30 else 0) + 2 ^ 31

/-- STATE of a page-table entry (R346). -/
def pageState : PageState → Nat
  | .free => 0
  | .inUse => 1
  | .moving => 2
  | .retiring => 3

/-- The 16 bytes of a page-table entry (R346); a free one is zero (DESIGN CHOICE, log entry 15). -/
def pageBytes : Option Page → List Byte
  | none => zeros 16
  | some x => leBytes 4 (frameWord x.cistern x.frame) ++ leBytes 2 x.ref ++ leBytes 2 x.pin ++ leBytes 1 x.fill
      ++ leBytes 1 (pageState x.st) ++ zeros 2 ++ leBytes 4 (match x.moveTo with | some (c, f) => frameWord c f | none => 0)

/-- The keys at which two tables differ. -/
def changedKeys {α : Type} [DecidableEq α] (old new : Tab α) : List Nat :=
  (((old ++ new).map (·.1)).dedup).filter (fun k => decide (tfind old k ≠ tfind new k))

/-- R344, R346: what a change of a pool writes into its page table, its maps and its length table. -/
def tableWrites (old new : KvPool) : List (Nat × List Byte) :=
  let maps := new.tableBase + new.desc.pages * 16
  let lens := maps + new.desc.seqs * new.desc.layers * 2 * new.desc.maxPages * 4
  (changedKeys old.pages new.pages).map (fun k => (new.tableBase + 16 * k, pageBytes (tfind new.pages k)))
    ++ (changedKeys old.map new.map).map (fun k => (maps + 4 * k, leBytes 4 (match tget 0 new.map k with | 0 => 0 | n + 1 => n + 2 ^ 31)))
    ++ (changedKeys old.len new.len).map (fun k => (lens + 4 * k, leBytes 4 (tget 0 new.len k)))

/-- A pool changes; its tables in HS(2d) follow. -/
def updPool (m : Dev) (die slot : Nat) (f : KvPool → KvPool) : Dev :=
  match poolAt m die slot with
  | none => m
  | some p => (tableWrites p (f p)).foldl (fun m w => updMem m (fun x => memWrite x w.1 w.2))
      { m with pools := tput m.pools (die * 16 + slot) (f p) }

/-- The format of a pool's pages. -/
def kvFmt (p : KvPool) : Fmt := if p.desc.format = 0 then e4m3 else e2m1

/-- Bytes of key data of a position, and of a page with its scale block, which follows the data (DEDUCED, log entry 15). -/
def kvRow (p : KvPool) : Nat := if p.desc.format = 0 then 128 else 64
def kvData (p : KvPool) : Nat := 128 * kvRow p
def kvFrame (p : KvPool) : Nat := kvData p + 256

/-- R344: the index of a list. -/
def listIndex (p : KvPool) (s l h : Nat) : Nat := s * p.desc.layers * 2 + l * 2 + h

/-- The page of map entry `i` of a list. -/
def mapPage (p : KvPool) (L i : Nat) : Option Nat :=
  if i < p.desc.maxPages then
    match tget 0 p.map (L * p.desc.maxPages + i) with
    | 0 => none
    | n + 1 => some n
  else none

def setMap (p : KvPool) (L i : Nat) (pg : Option Nat) : KvPool :=
  { p with map := tset 0 p.map (L * p.desc.maxPages + i) (match pg with | some n => n + 1 | none => 0) }

def listLen (p : KvPool) (L : Nat) : Nat := tget 0 p.len L
def setLen (p : KvPool) (L n : Nat) : KvPool := { p with len := tset 0 p.len L n }

def updPage (p : KvPool) (pg : Nat) (f : Page → Page) : KvPool := { p with pages := tupd p.pages pg f }

/-- R344: the address of a frame. -/
def frameAddr (p : KvPool) (cistern : Bool) (f : Nat) : Nat :=
  if cistern then nth 0 p.cisBase (f % 4) + f / 4 * kvFrame p else nth 0 p.hbmBase (f % 2) + f / 2 * kvFrame p

/-- The frames of a tier that are not free. -/
def usedFrames (p : KvPool) (cistern : Bool) : List Nat :=
  (p.pages.filter (fun x => decide (x.2.cistern = cistern))).map (fun x => x.2.frame)
    ++ p.pages.filterMap (fun x => match x.2.moveTo with
        | some (c, f) => if c = cistern then some f else none
        | none => none)
    ++ (p.oldFrames.filter (fun x => decide (x.1 = cistern))).map (·.2)

def tierFrames (p : KvPool) (cistern : Bool) : Nat := if cistern then p.desc.cisFrames else p.desc.hbmFrames

def freeFrames (p : KvPool) (cistern : Bool) : Nat := tierFrames p cistern - (usedFrames p cistern).length

/-- The lowest number below `n` that is not taken. -/
def lowestFree (taken : List Nat) (n : Nat) : Option Nat :=
  ((0 :: taken.map (· + 1)).filter (fun x => decide (x < n) && !decide (x ∈ taken))).min?

/-- R345: the lowest free entry and HBM frame. -/
def newPage (p : KvPool) : Option (Nat × Nat) :=
  match lowestFree (p.pages.map (·.1)) p.desc.pages, lowestFree (usedFrames p false) p.desc.hbmFrames with
  | some n, some f => some (n, f)
  | _, _ => none

/-- R361: KV_POOL_LOW once each time FREE_HBM falls below the mark. -/
def poolWater (die slot : Nat) (m : Dev) : Dev :=
  match poolAt m die slot with
  | none => m
  | some p =>
    let below := decide (freeFrames p false * 100 < p.desc.lowWater * p.desc.hbmFrames)
    let above := decide (p.desc.lowWater * p.desc.hbmFrames < freeFrames p false * 100)
    if below = p.low ∨ (p.low ∧ !above) then m
    else
      let m := updPool m die slot (fun p => { p with low := below })
      if below then raiseJob m slot 0x0B41 0 (leBytes 1 die ++ zeros 3 ++ leBytes 4 (freeFrames p false) ++ leBytes 4 p.desc.hbmFrames)
      else m

/-- R353: a page that nothing names and nothing reads retires; a page that moves completes its move first (R355). -/
def settlePage (p : KvPool) (pg : Nat) : KvPool :=
  updPage p pg (fun x => if x.ref = 0 ∧ x.pin = 0 ∧ x.st = .inUse then { x with st := .retiring } else x)

/-- R353: at the end of the job's stroke, retired pages and left frames return to the pool. -/
def poolStrokeEnd (p : KvPool) : KvPool :=
  { p with pages := tkeep p.pages (fun _ x => decide (x.st ≠ .retiring)), oldFrames := [] }

/-- R340, R354: releases the page of a map entry. -/
def releaseEntry (die slot seq L : Nat) (m : Dev) (i : Nat) : Dev :=
  match poolAt m die slot with
  | none => m
  | some p =>
    match mapPage p L i with
    | none => m
    | some pg =>
      let m := updPool m die slot (fun p => setMap p L i none)
      match tfind p.pages pg with
      | some x =>
        if 0 < x.ref then updPool m die slot (fun p => settlePage (updPage p pg (fun x => { x with ref := x.ref - 1 })) pg)
        else raiseJob (updPool m die slot (fun p => { p with countFault := sat 16 (p.countFault + 1) })) slot 0x0B42 0
          (leBytes 1 die ++ zeros 1 ++ leBytes 2 seq ++ leBytes 4 pg ++ leBytes 1 0)
      | none => raiseJob (updPool m die slot (fun p => { p with countFault := sat 16 (p.countFault + 1) })) slot 0x0B42 0
          (leBytes 1 die ++ zeros 1 ++ leBytes 2 seq ++ leBytes 4 pg ++ leBytes 1 0)

/-- The map indices of a list. -/
def listPages (p : KvPool) : List Nat := List.range p.desc.maxPages

/-- R340 TRUNCATE of one list. -/
def truncateList (die slot seq L pos : Nat) (m : Dev) : Dev :=
  match poolAt m die slot with
  | none => m
  | some p =>
    let m := ((listPages p).filter (fun i => decide (pos ≤ i * 64))).foldl (releaseEntry die slot seq L) m
    let m := if pos % 64 = 0 then m
      else match mapPage p L (pos / 64) with
        | some pg => updPool m die slot (fun p => updPage p pg (fun x => if x.ref = 1 then { x with fill := pos % 64 } else x))
        | none => m
    updPool m die slot (fun p => setLen p L pos)

/-- R340 RELEASE of one list. -/
def releaseList (die slot seq L : Nat) (m : Dev) : Dev :=
  match poolAt m die slot with
  | none => m
  | some p => updPool ((listPages p).foldl (releaseEntry die slot seq L) m) die slot (fun p => setLen p L 0)

/-- R340 SHARE of one list: the first entries of another list. -/
def shareList (die slot L L2 pos : Nat) (m : Dev) : Dev :=
  updPool m die slot (fun p =>
    setLen ((List.range ((pos + 63) / 64)).foldl (fun p i =>
      match mapPage p L2 i with
      | some pg => updPage (setMap p L i (some pg)) pg (fun x => { x with ref := x.ref + 1 })
      | none => p) p) L pos)

/-- Every list of a sequence. -/
def seqLists (p : KvPool) (s : Nat) : List Nat := (List.range (p.desc.layers * 2)).map (fun i => listIndex p s 0 0 + i)

/-- The page operations that the generation service sends for a sequence, on every die (R349). -/
def truncateSeq (slot s pos : Nat) (m : Dev) : Dev :=
  (List.range 8).foldl (fun m die => match poolAt m die slot with
    | none => m
    | some p => (seqLists p s).foldl (fun m L => if pos < listLen p L then truncateList die slot s L pos m else m) m) m

def releaseSeq (slot s : Nat) (m : Dev) : Dev :=
  (List.range 8).foldl (fun m die => match poolAt m die slot with
    | none => m
    | some p => (seqLists p s).foldl (fun m L => releaseList die slot s L m) m) m

def shareSeq (slot s s2 pos : Nat) (m : Dev) : Dev :=
  (List.range 8).foldl (fun m die => match poolAt m die slot with
    | none => m
    | some p => (List.range (p.desc.layers * 2)).foldl (fun m i =>
        shareList die slot (listIndex p s 0 0 + i) (listIndex p s2 0 0 + i) pos m) m) m

/-! ### Writes of pages -/

/-- A write of a unit that holds the memory: the siphon's protection first (R554). Under a bucket that the host owns it is dropped
(R124). -/
def ownWrite (m : Dev) (a : Nat) (l : List Byte) : Dev :=
  if underHost m a l.length then m
  else
    let m := touchPages m a l.length
    { m with mem := memWrite m.mem a l }

/-- A copy with its poison marks. -/
def ownCopy (m : Dev) (src dst n : Nat) : Dev :=
  if underHost m dst n then m
  else
    let m := touchPages m dst n
    { m with mem := memCopy m.mem src dst n }

/-- Copies runs of memory into runs of memory, in order, with the poison marks. -/
def copyRuns : Nat → List (Nat × Nat) → List (Nat × Nat) → Dev → Dev
  | 0, _, _, m => m
  | fuel + 1, (a, n) :: s, (b, k) :: d, m =>
    let c := min n k
    copyRuns fuel (if c < n then (a + c, n - c) :: s else s) (if c < k then (b + c, k - c) :: d else d) (ownCopy m a b c)
  | _, _, _, m => m

/-- The first `n` bytes of runs of memory. -/
def cutRuns : Nat → List (Nat × Nat) → List (Nat × Nat)
  | _, [] => []
  | n, (a, k) :: l => if n = 0 then [] else (a, min n k) :: cutRuns (n - min n k) l

/-- The copy of an image of `n` bytes from runs of memory into the shares of an allocation, `per i` bytes in share i; what the reads
find is found (R304). -/
def imageCopy (m : Dev) (src : List (Nat × Nat)) (n : Nat) (per : Nat → Nat) (shares : List Alloc) : Dev :=
  let dst := (List.zip (List.range shares.length) shares).map (fun x => (x.2.first * segBytes, per x.1))
  let src := cutRuns n src
  copyRuns (src.length + dst.length) src dst (readsFind m 0xFFF src)

/-- R352: the copy of a page for the list that appends at `slot`; `none` without a free page. -/
def copyOnWrite (die js L i at' : Nat) (m : Dev) : Option Dev :=
  match poolAt m die js with
  | none => none
  | some p =>
    match mapPage p L i, newPage p with
    | some pg, some (n, f) =>
      match tfind p.pages pg with
      | none => none
      | some x =>
        let src := frameAddr p x.cistern x.frame
        let dst := frameAddr p false f
        let m := ownCopy (readsFind m (die * 256 + 0xCA) [(src, kvFrame p)]) src dst (kvFrame p)
        let m := updPool m die js (fun p =>
          let p := { p with pages := tput p.pages n { frame := f, ref := 1, fill := at' }, copies := p.copies + 1 }
          settlePage (updPage (setMap p L i (some n)) pg (fun x => { x with ref := x.ref - 1 })) pg)
        some (poolWater die js m)
    | _, _ => none

/-- R355: a move that completes: data and marks are copied, FRAME is rewritten, the old frame returns at the stroke's
end. -/
def moveTo (die js pg : Nat) (cistern : Bool) (f : Nat) (m : Dev) : Dev :=
  match poolAt m die js with
  | none => m
  | some p =>
    match tfind p.pages pg with
    | none => m
    | some x =>
      let src := frameAddr p x.cistern x.frame
      let m := ownCopy (readsFind m (die * 256 + 0xCA) [(src, kvFrame p)]) src (frameAddr p cistern f) (kvFrame p)
      poolWater die js (updPool m die js (fun p =>
        let p := updPage p pg (fun x => { x with frame := f, cistern := cistern, st := .inUse, moveTo := none })
        settlePage { p with oldFrames := p.oldFrames ++ [(x.cistern, x.frame)] } pg))

/-! ### Descriptors (R331 to R341) -/

def attUnit (die : Nat) : Nat := die * 256 + 0xC8

def attAt (m : Dev) (die : Nat) : Att := tget {} m.atts die
def updAtt (m : Dev) (die : Nat) (f : Att → Att) : Dev := { m with atts := tmod {} m.atts die f }

/-- ATT_BANK_HANDOVER (R331, R332): the header of a command bank that the engine has received. -/
def attHandover (die bank : Nat) (m : Dev) : Dev :=
  let b := bankAt m die bank
  if b.owner = 0xC8 ∧ b.jobValid ∧ !(attAt m die).banks.any (fun x => decide (x.bank = bank)) then
    let a := bankAddr die bank
    let magic := memNat m.mem a 2
    let count := memNat m.mem (a + 2) 2
    let m := headerRead m die bank
    if magic = 0xA7E0 ∧ 1 ≤ count ∧ count ≤ 16383 then
      updAtt m die (fun t => { t with banks := t.banks ++ [{ bank := bank, job := b.jobSlot, next := 0, count := count }] })
    else
      let m := ownWrite m (a + 8) (zeros 4)
      let m := updAtt m die (fun t => { t with badBatch := true })
      raiseJob m b.jobSlot 0x0B40 0 (leBytes 1 die ++ leBytes 1 bank ++ leBytes 2 magic ++ leBytes 2 count)
  else m

def execAttBankHandover (die bank : Nat) (s : State) : Host.Outcome State Fault Refusal :=
  onDev (.attBankHandover die bank) (attHandover die bank) s

/-- The next descriptor of the engine: its bank, its address and its bytes (R335). -/
def attNext (m : Dev) (die : Nat) : Option (CmdBank × Nat × List Byte) :=
  match (attAt m die).banks with
  | [] => none
  | b :: _ =>
    let a := bankAddr die b.bank + 64 + 64 * b.next
    some (b, a, memRead m.mem a 64)

/-- Which row runs a descriptor: 1 FWD, 2 APPEND, 10 + code for a page operation. One of no operation is ended by
the FWD row. -/
def descKind (d : List Byte) : Nat :=
  match recField d 0 1 with
  | 2 => 2
  | 3 => if 1 ≤ recField d 1 1 ∧ recField d 1 1 ≤ 6 then 10 + recField d 1 1 else 1
  | _ => 1

/-- R336: the results after which the batch skips a sequence. -/
def skipsSeq (result : Nat) : Bool := decide (result ∈ [4, 5, 6, 7])

/-- Counters and sticky bits of a descriptor that has ended (R331, R341, R357). -/
def attEnd (die : Nat) (b : CmdBank) (addr : Nat) (d : List Byte) (result flags : Nat) (m : Dev) : Dev :=
  let m := ownWrite m (addr + 60) (leBytes 1 result ++ leBytes 1 flags)
  let b' := { b with next := b.next + 1, done := b.done + 1, failed := b.failed + (if result = 0 then 0 else 1)
                     skip := if skipsSeq result then b.skip ++ [recField d 4 2] else b.skip }
  let m := ownWrite m (bankAddr die b.bank + 8) (leBytes 4 b'.done ++ leBytes 4 b'.failed)
  updAtt m die (fun t => { t with
    banks := if b'.next < b'.count then b' :: t.banks.drop 1 else t.banks.drop 1
    nonfinite := t.nonfinite || bitOf flags 0, poison := t.poison || bitOf flags 1, empty := t.empty || bitOf flags 2
    cold := t.cold || bitOf flags 3, lastTag := recField d 56 2 })

/-- What the result of a descriptor means to its sequence at the commit (R393, R396). What a forward descriptor's NONFINITE and POISON do
to a sequence comes with its logits (R229, R325). -/
def noteSeq (slot seq result : Nat) (m : Dev) : Dev :=
  match tfind m.seqs seq with
  | none => m
  | some c =>
    if c.jobSlot = slot then
      { m with seqs := tput m.seqs seq { c with
          attPoison := c.attPoison || decide (result = 7)
          kvFull := c.kvFull || decide (result = 4)
          nonfinite := c.nonfinite || decide (result = 6) } }
    else m

/-- Some byte of a range of a descriptor is not zero. -/
def anyByte (d : List Byte) (o n : Nat) : Bool := decide (recField d o n ≠ 0)

/-- R337 to R340: a reserved field is not zero. -/
def descReserved (d : List Byte) : Bool :=
  anyByte d 58 2 || anyByte d 62 2 ||
  match recField d 0 1 with
  | 1 => decide (8 ≤ recField d 1 1) || anyByte d 38 2 || anyByte d 46 2 || anyByte d 54 2
  | 2 => anyByte d 12 20 || anyByte d 38 18
  | 3 => anyByte d 18 38
  | _ => false

/-- The list fields of a descriptor are in range. -/
def descLists (p : KvPool) (d : List Byte) (all : Bool) : Bool :=
  decide (recField d 4 2 < p.desc.seqs)
    && (decide (recField d 6 1 < p.desc.layers) || (all && decide (recField d 6 1 = 0xFF)))
    && (decide (recField d 7 1 < 2) || (all && decide (recField d 7 1 = 0xFF)))

/-- The lists that a PAGE descriptor names. -/
def namedLists (p : KvPool) (d : List Byte) (seq : Nat) : List Nat :=
  let ls := if recField d 6 1 = 0xFF then List.range p.desc.layers else [recField d 6 1]
  let hs := if recField d 7 1 = 0xFF then [0, 1] else [recField d 7 1]
  ls.flatMap (fun l => hs.map (fun h => listIndex p seq l h))

/-- R338: the fields of FWD. -/
def fwdFields (p : KvPool) (d : List Byte) : Bool :=
  let nh := recField d 2 1
  let rows := recField d 3 1
  let kvEnd := recField d 16 4
  descLists p d false && decide (1 ≤ nh ∧ nh ≤ 16) && decide (1 ≤ rows ∧ rows ≤ 64) && decide (rows % nh = 0)
    && decide (recField d 12 4 % 64 = 0) && decide (1 ≤ kvEnd ∧ kvEnd ≤ 131072) && decide (recField d 24 4 ≤ 131072)
    && decide (recField d 8 4 + rows / nh - 1 < kvEnd)
    && (decide (recField d 1 1 / 2 ≠ 0) || decide (recField d 48 8 = 0))

/-- R339: the fields of APPEND. -/
def appendFields (p : KvPool) (d : List Byte) : Bool :=
  descLists p d false && decide (recField d 1 1 = 0) && decide (recField d 2 1 = 0)
    && decide (1 ≤ recField d 3 1 ∧ recField d 3 1 ≤ 64) && decide (recField d 8 4 + recField d 3 1 ≤ p.desc.maxPages * 64)

/-- R333: a range begins at a 64-byte boundary and lies in one bank of the die that the engine owns for the job. -/
def inOwnBank (m : Dev) (die job addr len : Nat) : Bool :=
  match placeOf addr with
  | .spad d b => decide (d = die) && decide (addr % 64 = 0) && decide (addr % 0x100000 + len ≤ 0x100000)
      && ownsBank m (attUnit die) job die b
  | _ => false

/-! ### Forward (R323 to R330) -/

/-- What a row accumulates: maximum, sum, 128 accumulators, and whether a score or the query was not finite. -/
structure AttRow where
  mx : Nat := 0xFF800000
  l : Nat := 0
  acc : List Nat := List.replicate 128 0
  bad : Bool := false
  poison : Bool := false
deriving DecidableEq, Repr

/-- The stored element of a position (R342): key when `v` is 0, value when 1. -/
def kvElem (p : KvPool) (page : List Byte) (v pos c : Nat) : FVal :=
  if p.desc.format = 0 then fdec e4m3 (recField page (v * 8192 + pos * 128 + c) 1)
  else fdec e2m1 ((recField page (v * 4096 + pos * 64 + c / 2) 1 >>> (4 * (c % 2))) % 16)

/-- The channel's scale exponent. -/
def kvScaleOf (p : KvPool) (page : List Byte) (v c : Nat) : Option Int := scaleExp (recField page (kvData p + v * 128 + c) 1)

/-- A stored value with its scale. -/
def kvVal (p : KvPool) (page : List Byte) (v pos c : Nat) : FVal :=
  match kvScaleOf p page v c with
  | some x => fvScale (kvElem p page v pos c) x
  | none => .nan false

/-- The exact sum of values. -/
def exactSum (l : List FVal) : FVal := l.foldl fvAdd (.fin false 0 0)

/-- The greater of two FP32 codes that are not NaN. -/
def maxCode (a b : Nat) : Nat := if fvLt (dec32 a) (dec32 b) then b else a

/-- One block of R323: the positions of a page that the row attends. -/
def attBlock (p : KvPool) (page : List Byte) (poisoned : Bool) (q : List FVal) (smScale : Nat) (ps : List Nat) (r : AttRow) :
    AttRow :=
  if ps.isEmpty then r
  else
    let s := ps.map (fun j => mul32 (rne32 (exactSum ((List.range 128).map (fun c => fvMul (nth (.fin false 0 0) q c) (kvVal p page 0 j c))))) smScale)
    if s.any (codeNonfinite fp32) then { r with bad := true, poison := r.poison || poisoned }
    else
      let mb := s.foldl maxCode 0xFF800000
      let r := if fvLt (dec32 r.mx) (dec32 mb) then
          let a := exp32 (sub32 r.mx mb)
          { r with mx := mb, l := mul32 r.l a, acc := r.acc.map (fun x => mul32 x a) }
        else r
      let w := s.map (fun x => exp32 (sub32 x r.mx))
      { r with
        l := add32 r.l (rne32 (exactSum (w.map dec32)))
        acc := (List.range 128).map (fun c => add32 (nth 0 r.acc c)
          (rne32 (exactSum (List.zipWith (fun j x => fvMul (dec32 x) (kvVal p page 1 j c)) ps w))))
        poison := r.poison || poisoned }

/-- R328 items 1, 2 and 4. -/
def attends (q kvFirst kvEnd window glob j : Nat) : Bool :=
  decide (j ≤ q) && decide (kvFirst ≤ j) && decide (j < kvEnd)
    && (decide (window = 0) || decide (q < j + window) || decide (j < glob))

/-- The positions of page `i`, within the page, that a row attends. -/
def attendedIn (p : KvPool) (d : List Byte) (q i fill : Nat) : List Nat :=
  (List.range (min fill 64)).filter (fun k =>
    attends q (recField d 12 4) (recField d 16 4) (recField d 20 4) (recField d 24 4) (i * 64 + k))

/-- The pages that some row of the descriptor reads (R329): map index, page, entry. -/
def fwdPages (p : KvPool) (d : List Byte) (L : Nat) : List (Nat × Nat × Page) :=
  let q0 := recField d 8 4
  let n := recField d 3 1 / recField d 2 1
  (List.range ((recField d 16 4 + 63) / 64)).filterMap (fun i =>
    match mapPage p L i with
    | none => none
    | some pg => match tfind p.pages pg with
      | none => none
      | some x => if (List.range n).any (fun k => !(attendedIn p d (q0 + k) i x.fill).isEmpty) then some (i, pg, x) else none)

/-- One query row over the pages. -/
def fwdRow (m : Dev) (p : KvPool) (d : List Byte) (pages : List (Nat × Nat × Page)) (r : Nat) : AttRow :=
  let qa := recField d 32 6 + r * 256
  let q := (List.range 128).map (fun c => fdec bf16 (memNat m.mem (qa + 2 * c) 2))
  let sa := recField d 48 6 + r * 576
  let start : AttRow := if bitOf (recField d 1 1) 1 then
      { mx := memNat m.mem sa 4, l := memNat m.mem (sa + 4) 4, acc := (List.range 128).map (fun c => memNat m.mem (sa + 16 + 4 * c) 4) }
    else {}
  let start := { start with bad := q.any fvNonfinite, poison := memPoisoned m.mem qa 256
                            || (bitOf (recField d 1 1) 1 && memPoisoned m.mem sa 528) }
  pages.foldl (fun a x =>
    let ad := frameAddr p x.2.2.cistern x.2.2.frame
    attBlock p (memRead m.mem ad (kvFrame p)) (memPoisoned m.mem ad (kvFrame p)) q (recField d 28 4)
      (attendedIn p d (recField d 8 4 + r / recField d 2 1) x.1 x.2.2.fill) a) start

/-- The bytes a row leaves: its state record under PARTIAL (R327), otherwise its output. A row that is not finite
leaves a record from which every later descriptor gives NaN again (DESIGN CHOICE, log entry 15). -/
def rowOut (d : List Byte) (a : AttRow) : List Byte :=
  let nan := fnan fp32 (Config.nanNeg [])
  if bitOf (recField d 1 1) 2 then
    let a := if a.bad then { a with mx := 0x7F800000, l := nan, acc := List.replicate 128 nan } else a
    leBytes 4 a.mx ++ leBytes 4 a.l ++ zeros 8 ++ a.acc.flatMap (leBytes 4)
  else
    let o := a.acc.map (fun x => if a.bad then nan else if a.l % 2 ^ 31 = 0 then 0 else div32 x a.l)
    if bitOf (recField d 1 1) 0 then o.flatMap (leBytes 4) else o.flatMap (fun x => leBytes 2 (rne16 (dec32 x)))

/-- Address and length of a row's result. -/
def rowPlace (d : List Byte) (r : Nat) : Nat × Nat :=
  if bitOf (recField d 1 1) 2 then (recField d 48 6 + r * 576, 528)
  else if bitOf (recField d 1 1) 0 then (recField d 40 6 + r * 512, 512) else (recField d 40 6 + r * 256, 256)

/-- Writes one row with its poison (R325). -/
def fwdWrite (d : List Byte) (m : Dev) (x : Nat × AttRow) : Dev :=
  let pl := rowPlace d x.1
  let m := ownWrite m pl.1 (rowOut d x.2)
  if x.2.poison then updMem m (fun y => memPoison y pl.1 pl.2) else m

/-- FLAGS_OUT of a forward descriptor. -/
def fwdFlags (d : List Byte) (rows : List AttRow) (cold missing : Bool) : Nat :=
  b2n (rows.any (·.bad)) + 2 * b2n (rows.any (·.poison))
    + 4 * b2n (!bitOf (recField d 1 1) 2 && rows.any (fun a => !a.bad && decide (a.l % 2 ^ 31 = 0))) + 8 * b2n cold + 32 * b2n missing

/-- The addresses of a forward descriptor lie in the engine's banks (R333, R338). -/
def fwdAddrs (m : Dev) (die job : Nat) (d : List Byte) : Bool :=
  let rows := recField d 3 1
  let md := recField d 1 1
  inOwnBank m die job (recField d 32 8) (rows * 256)
    && inOwnBank m die job (recField d 40 8) (rows * if bitOf md 0 then 512 else 256)
    && (decide (md / 2 = 0) || inOwnBank m die job (recField d 48 8) (rows * 576))

/-- R322: cycles of a page of a forward descriptor of `n` rows. -/
def pageCost (p : KvPool) (cistern : Bool) (n : Nat) : Nat :=
  let hbm := max (if p.desc.format = 0 then 3 else 2) (4 * ((n + 15) / 16))
  if cistern then max (if p.desc.format = 0 then 35 else 18) hbm else hbm

/-- R322: cycles of a forward descriptor on an engine that is otherwise idle. -/
def fwdCycles (p : KvPool) (pages : List (Nat × Nat × Page)) (n : Nat) : Nat :=
  40 + 280 + (pages.map (fun x => pageCost p x.2.2.cistern n)).foldl (· + ·) 0 + 16 * ((n + 15) / 16)

/-- The effect of a forward descriptor whose checks pass. -/
def fwdRun (die : Nat) (b : CmdBank) (addr : Nat) (d : List Byte) (p : KvPool) (m : Dev) : Dev :=
  let L := listIndex p (recField d 4 2) (recField d 6 1) (recField d 7 1)
  let all := fwdPages p d L
  let pages := all.filter (fun x => decide (0 < x.2.2.ref))
  let m := readsFind m (attUnit die) (pages.map (fun x => (frameAddr p x.2.2.cistern x.2.2.frame, kvFrame p)))
  let rows := (List.range (recField d 3 1)).map (fwdRow m p d pages)
  let cold := (pages.filter (fun x => x.2.2.cistern)).length
  let flags := fwdFlags d rows (decide (0 < cold)) (decide (pages.length < all.length))
  let m := (List.zip (List.range rows.length) rows).foldl (fwdWrite d) m
  let m := updPool m die b.job (fun p => { p with coldReads := p.coldReads + cold })
  let m := updAtt m die (fun t => { t with job := some b.job, active := (t.active + fwdCycles p pages rows.length) % 2 ^ 64 })
  attEnd die b addr d 0 flags m

/-- The frame of a descriptor row: the next descriptor, when it is the row's, is skipped (R336), refused with a result
code (R341), or run. -/
def attRow (die kind : Nat) (fields : KvPool → List Byte → Bool) (addrs : Dev → CmdBank → List Byte → Bool)
    (run : CmdBank → Nat → List Byte → KvPool → Dev → Dev) (m : Dev) : Dev :=
  match attNext m die with
  | none => m
  | some (b, a, d) =>
    if descKind d ≠ kind ∨ (attAt m die).moves ≠ [] then m
    else if recField d 4 2 ∈ b.skip then attEnd die b a d 0x0F 0 m
    else if descReserved d then attEnd die b a d 1 0 m
    else match poolAt m die b.job with
      | none => attEnd die b a d 2 0 m
      | some p =>
        if !(decide (recField d 0 1 ∈ [1, 2, 3]) && fields p d) then attEnd die b a d 2 0 m
        else if !addrs m b d then attEnd die b a d 3 0 m
        else run b a d p m

/-- ATT_FWD. -/
def attFwd (die : Nat) : Dev → Dev :=
  attRow die 1 (fun p d => decide (recField d 0 1 = 1) && fwdFields p d) (fun m b d => fwdAddrs m die b.job d) (fwdRun die)

def execAttFwd (die : Nat) (s : State) : Host.Outcome State Fault Refusal := onDev (.attFwd die) (attFwd die) s

/-! ### Append (R347) -/

/-- Writes a stored element of a page. -/
def putElem (p : KvPool) (ad v pos c code : Nat) (m : Dev) : Dev :=
  if p.desc.format = 0 then ownWrite m (ad + v * 8192 + pos * 128 + c) (leBytes 1 code)
  else
    let a := ad + v * 4096 + pos * 64 + c / 2
    let old := memNat m.mem a 1
    ownWrite m a (leBytes 1 (if c % 2 = 0 then old / 16 * 16 + code else old % 16 + 16 * code))

/-- The element code stored at a place. -/
def getElem' (p : KvPool) (ad v pos c : Nat) (m : Dev) : Nat :=
  if p.desc.format = 0 then memNat m.mem (ad + v * 8192 + pos * 128 + c) 1
  else (memNat m.mem (ad + v * 4096 + pos * 64 + c / 2) 1 >>> (4 * (c % 2))) % 16

/-- R207, R208: one channel of one position; `v` is 0 for the key and 1 for the value. Returns whether a scale rose. -/
def quantChannel (p : KvPool) (ad pos v : Nat) (src : Nat → FVal) (x : Bool × Dev) (c : Nat) : Bool × Dev :=
  let f := kvFmt p
  let val := src c
  let sa := ad + kvData p + v * 128 + c
  let old : Int := if pos = 0 then kvScale f val else (memNat x.2.mem sa 1 : Int) - 127
  let new := if pos = 0 then old else kvRaise f val 400 old
  let m := if pos = 0 ∨ new ≠ old then ownWrite x.2 sa (leBytes 1 (new + 127).toNat) else x.2
  let m := if new ≠ old then
      (List.range pos).foldl (fun m j => putElem p ad v j c (kvRescale f old new (getElem' p ad v j c m)) m) m
    else m
  (x.1 || decide (new ≠ old), putElem p ad v pos c (fcvt f none (fvScale val (-new))).1 m)

/-- R347 steps 7 and 8 in the page at an address. -/
def appendInto (die js L i slot src n pos : Nat) (pg : Nat) (m : Dev) : Bool × Dev :=
  match poolAt m die js with
  | none => (false, m)
  | some p =>
    match tfind p.pages pg with
    | none => (false, m)
    | some x =>
      let ad := frameAddr p x.cistern x.frame
      let val := fun (v c : Nat) => fdec bf16 (memNat m.mem (src + v * n * 256 + (pos % n) * 256 + 2 * c) 2)
      let r := (List.range 128).foldl (quantChannel p ad slot 0 (val 0)) (false, m)
      let r := (List.range 128).foldl (quantChannel p ad slot 1 (val 1)) r
      (r.1, updPool r.2 die js (fun p =>
        setLen (updPage p pg (fun x => { x with fill := slot + 1 })) L (i * 64 + slot + 1)))

/-- The page for position i × 64 + slot, exclusive and in HBM (R347 steps 3 to 6). -/
def appendPage (die js L i slot : Nat) (m : Dev) : Option (Nat × Dev) :=
  match poolAt m die js with
  | none => none
  | some p =>
    if slot = 0 then
      match newPage p with
      | none => none
      | some (n, f) =>
        some (n, poolWater die js (updPool m die js (fun p => setMap { p with pages := tput p.pages n { frame := f, ref := 1 } } L i (some n))))
    else
      match mapPage p L i with
      | none => none
      | some pg =>
        match tfind p.pages pg with
        | none => none
        | some x =>
          let cow := if 1 < x.ref then copyOnWrite die js L i slot m else some m
          match cow with
          | none => none
          | some m =>
            match poolAt m die js with
            | none => none
            | some p =>
              match mapPage p L i with
              | none => none
              | some pg =>
                match tfind p.pages pg with
                | none => none
                | some x =>
                  let promoted := if x.cistern then
                      (match lowestFree (usedFrames p false) p.desc.hbmFrames with
                        | none => none
                        | some f => some (moveTo die js pg false f m))
                    else some m
                  promoted.map (fun m => (pg, updPool m die js (fun p => updPage p pg (fun x => { x with fill := min x.fill slot }))))

/-- What an append has come to: result, flags, module. -/
structure AppendSt where
  result : Nat := 0
  rescaled : Bool := false
  stop : Bool := false
  m : Dev

/-- One position of an append (R347). `n` is COUNT, `k` the position's index in the source. -/
def appendOne (die js L src n pos0 : Nat) (x : AppendSt) (k : Nat) : AppendSt :=
  if x.stop then x
  else
    let pos := pos0 + k
    let len := match poolAt x.m die js with | some p => listLen p L | none => 0
    let ka := src + k * 256
    let va := src + n * 256 + k * 256
    let bad := (List.range 128).any (fun c => codeNonfinite bf16 (memNat x.m.mem (ka + 2 * c) 2) || codeNonfinite bf16 (memNat x.m.mem (va + 2 * c) 2))
    if pos ≠ len then { x with result := 5, stop := true }
    else if bad then { x with result := 6, stop := true }
    else if memPoisoned x.m.mem ka 256 || memPoisoned x.m.mem va 256 then { x with result := 7, stop := true }
    else match appendPage die js L (pos / 64) (pos % 64) x.m with
      | none => { x with result := 4, stop := true }
      | some (pg, m) =>
        let r := appendInto die js L (pos / 64) (pos % 64) src n k pg m
        { x with rescaled := x.rescaled || r.1, m := r.2 }

/-- A page that a list is about to write is moving: the write waits (R351). -/
def listMoving (p : KvPool) (L pos : Nat) : Bool :=
  match mapPage p L (pos / 64) with
  | some pg => (match tfind p.pages pg with | some x => decide (x.st = .moving) | none => false)
  | none => false

/-- NO_PAGE is counted (R345, R360). -/
def countNoPage (die js result : Nat) (m : Dev) : Dev :=
  if result = 4 then updPool m die js (fun p => { p with noPage := p.noPage + 1, noPageReg := sat 16 (p.noPageReg + 1) }) else m

/-- ATT_APPEND. -/
def attAppend (die : Nat) : Dev → Dev :=
  attRow die 2 appendFields (fun m b d => inOwnBank m die b.job (recField d 32 8) (recField d 3 1 * 512)) (fun b a d p m =>
    let L := listIndex p (recField d 4 2) (recField d 6 1) (recField d 7 1)
    let pos := recField d 8 4
    let n := recField d 3 1
    if listMoving p L pos && decide (pos % 64 ≠ 0) then m
    else
      let r := (List.range n).foldl (appendOne die b.job L (recField d 32 6) n pos) { m := m }
      let flags := 16 * b2n r.rescaled
      let m := updAtt r.m die (fun t => { t with job := some b.job, active := (t.active + 40 + 4 * n) % 2 ^ 64 })
      attEnd die b a d r.result flags (noteSeq b.job (recField d 4 2) r.result (countNoPage die b.job r.result m)))

def execAttAppend (die : Nat) (s : State) : Host.Outcome State Fault Refusal := onDev (.attAppend die) (attAppend die) s

/-! ### Page operations (R340, R349) -/

/-- R340: the fields of a page operation that names one sequence. -/
def pageFields (p : KvPool) (d : List Byte) : Bool :=
  descLists p d true && decide (recField d 2 1 = 0) && decide (recField d 3 1 = 0)

/-- A page operation: checked over every list it names before any of them changes (DEDUCED, log entry 15), then applied
to each. -/
def pageRow (die code : Nat) (check : KvPool → List Byte → Nat → Nat) (op : Nat → List Byte → KvPool → Nat → Dev → Dev) :
    Dev → Dev :=
  attRow die (10 + code) (fun p d => pageFields p d
      && (decide (code ≠ 1) || decide (recField d 16 2 < p.desc.seqs))) (fun _ _ _ => true) (fun b a d p m =>
    let ls := namedLists p d (recField d 4 2)
    match (ls.map (check p d)).find? (fun r => decide (r ≠ 0)) with
    | some r => attEnd die b a d r 0 (noteSeq b.job (recField d 4 2) r (countNoPage die b.job r m))
    | none =>
      let m := updAtt (ls.foldl (fun m L => op b.job d p L m) m) die (fun t => { t with job := some b.job, active := (t.active + 40) % 2 ^ 64 })
      attEnd die b a d 0 0 m)

/-- The list of SEQ2 that answers list `L` of SEQ. -/
def otherList (p : KvPool) (d : List Byte) (L : Nat) : Nat := L + recField d 16 2 * p.desc.layers * 2 - recField d 4 2 * p.desc.layers * 2

/-- PAGE_SHARE. -/
def execPageShare (die : Nat) (s : State) : Host.Outcome State Fault Refusal :=
  onDev (.pageShare die) (pageRow die 1
    (fun p d L => if listLen p (otherList p d L) < recField d 8 4 then 2
      else if listLen p L ≠ 0 ∨ (listPages p).any (fun i => (mapPage p L i).isSome) then 8 else 0)
    (fun js d p L m => shareList die js L (otherList p d L) (recField d 8 4) m)) s

/-- PAGE_TRUNCATE. -/
def execPageTruncate (die : Nat) (s : State) : Host.Outcome State Fault Refusal :=
  onDev (.pageTruncate die) (pageRow die 2 (fun p d L => if listLen p L < recField d 8 4 then 2 else 0)
    (fun js d _ L m => truncateList die js (recField d 4 2) L (recField d 8 4) m)) s

/-- PAGE_RELEASE. -/
def execPageRelease (die : Nat) (s : State) : Host.Outcome State Fault Refusal :=
  onDev (.pageRelease die) (pageRow die 3 (fun _ _ _ => 0) (fun js d _ L m => releaseList die js (recField d 4 2) L m)) s

/-- PAGE_DROP: the pages whose 64 positions all lie in the range. -/
def execPageDrop (die : Nat) (s : State) : Host.Outcome State Fault Refusal :=
  onDev (.pageDrop die) (pageRow die 4 (fun _ _ _ => 0) (fun js d p L m =>
    ((listPages p).filter (fun i => decide (recField d 8 4 ≤ i * 64) && decide (i * 64 + 64 ≤ recField d 8 4 + recField d 12 4))).foldl
      (releaseEntry die js (recField d 4 2) L) m)) s

/-- The pages of a list in a range that lie in a tier and do not move: map index order. -/
def pagesIn (p : KvPool) (d : List Byte) (cistern : Bool) (L : Nat) : List Nat :=
  (listPages p).filterMap (fun i =>
    if 0 < recField d 12 4 ∧ i * 64 < recField d 8 4 + recField d 12 4 ∧ recField d 8 4 < i * 64 + 64 then
      match mapPage p L i with
      | some pg => (match tfind p.pages pg with
        | some x => if x.cistern = cistern ∧ x.st = .inUse then some pg else none
        | none => none)
      | none => none
    else none)

/-- A page enters MOVING towards the lowest free frame of the other tier (R345, R355). -/
def startMove (die js : Nat) (cistern : Bool) (m : Dev) (pg : Nat) : Dev :=
  match poolAt m die js with
  | none => m
  | some p =>
    match tfind p.pages pg, lowestFree (usedFrames p cistern) (tierFrames p cistern) with
    | some x, some f => if x.st = .inUse then
        poolWater die js (updPool m die js (fun p => updPage p pg (fun x => { x with st := .moving, moveTo := some (cistern, f) })))
      else m
    | _, _ => m

/-- The pages that a PROMOTE or DEMOTE of a pool's lists moves. -/
def pagesToMove (p : KvPool) (d : List Byte) (cistern : Bool) : List Nat :=
  ((namedLists p d (recField d 4 2)).flatMap (pagesIn p d (!cistern))).dedup

/-- PROMOTE and DEMOTE: every page of the named lists moves, or the operation ends with NO_PAGE and moves none (R345). The
descriptor ends with the last of its moves, and later descriptors wait for it (R335, R355). -/
def movePages (die code : Nat) (cistern : Bool) : Dev → Dev :=
  attRow die (10 + code) pageFields (fun _ _ _ => true) (fun b a d p m =>
    let pages := pagesToMove p d cistern
    if freeFrames p cistern < pages.length then
      attEnd die b a d 4 0 (noteSeq b.job (recField d 4 2) 4 (countNoPage die b.job 4 m))
    else
      let m := updAtt (pages.foldl (startMove die b.job cistern) m) die (fun t => { t with
        job := some b.job, active := (t.active + 40) % 2 ^ 64, moves := pages })
      if pages.isEmpty then attEnd die b a d 0 0 m else m)

def execPagePromote (die : Nat) (s : State) : Host.Outcome State Fault Refusal := onDev (.pagePromote die) (movePages die 5 false) s
def execPageDemote (die : Nat) (s : State) : Host.Outcome State Fault Refusal := onDev (.pageDemote die) (movePages die 6 true) s

/-- The head descriptor of the die ends when the last of its moves has completed (R335). -/
def moveEnded (die slot page : Nat) (m : Dev) : Dev :=
  match attNext m die with
  | none => m
  | some (b, a, d) =>
    let left := (attAt m die).moves
    if b.job ≠ slot ∨ page ∉ left then m
    else
      let m := updAtt m die (fun t => { t with moves := left.filter (fun x => decide (x ≠ page)) })
      if left.all (fun x => decide (x = page)) then attEnd die b a d 0 0 m else m

/-- PAGE_MOVE_DONE (R355 steps 3 and 4). -/
def pageMoveDone (die slot page : Nat) (m : Dev) : Dev :=
  match poolAt m die slot with
  | none => m
  | some p =>
    match (tfind p.pages page).bind (·.moveTo) with
    | none => m
    | some (c, f) => moveEnded die slot page (moveTo die slot page c f m)

def execPageMoveDone (die slot page : Nat) (s : State) : Host.Outcome State Fault Refusal :=
  onDev (.pageMoveDone die slot page) (pageMoveDone die slot page) s

/-- PAGE_COPY_ON_WRITE (R352): the page at the end of a list, when it is shared and does not move, is copied for the
list's next append. -/
def pageCopy (die slot seq layer kvh index : Nat) (m : Dev) : Dev :=
  match poolAt m die slot with
  | none => m
  | some p =>
    let L := listIndex p seq layer kvh
    let len := listLen p L
    match mapPage p L index with
    | none => m
    | some pg =>
      match tfind p.pages pg with
      | none => m
      | some x =>
        if seq < p.desc.seqs ∧ layer < p.desc.layers ∧ 1 < x.ref ∧ x.st = .inUse ∧ index = len / 64 ∧ len % 64 ≠ 0 then
          match copyOnWrite die slot L index (len % 64) m with
          | some m => m
          | none => countNoPage die slot 4 m
        else m

def execPageCopyOnWrite (die slot seq layer kvh index : Nat) (s : State) : Host.Outcome State Fault Refusal :=
  onDev (.pageCopyOnWrite die slot seq layer kvh index) (pageCopy die slot seq layer kvh index) s

/-! ### KV_STATUS -/

/-- KV_STATUS. -/
def specKvStatus (mb jobId die : Nat) : CmdSpec where
  cmd := .kvStatus mb jobId die
  opcode := 0x0B40
  mb := mb
  job := some jobId
  query := true
  states := some [.active, .quiesced]
  par := fun _ => ensure (decide (die < 8)) 0x2003
  sta := fun m => ensure ((jobById m jobId).bind (fun p => poolAt m die p.1)).isSome 0x1001
  apply := fun m => match (jobById m jobId).bind (fun p => poolAt m die p.1) with
    | none => { m := m }
    | some p =>
      let count := fun (f : Page → Bool) => (p.pages.filter (fun x => f x.2)).length
      { m := m
        body := leBytes 4 p.desc.hbmFrames ++ leBytes 4 (freeFrames p false) ++ leBytes 4 p.desc.cisFrames
          ++ leBytes 4 (freeFrames p true) ++ leBytes 4 (count (fun x => decide (x.st = .inUse ∨ x.st = .moving)))
          ++ leBytes 4 (count (fun x => decide (1 < x.ref))) ++ leBytes 4 (count (fun x => decide (x.st = .retiring)))
          ++ leBytes 4 (count (fun x => decide (x.st = .moving))) ++ leBytes 8 p.copies ++ leBytes 8 p.coldReads
          ++ leBytes 8 p.noPage ++ leBytes 1 p.desc.format ++ zeros 7 }

def execKvStatus (mb jobId die : Nat) (s : State) : Host.Outcome State Fault Refusal := onCmd (specKvStatus mb jobId die) s

end Sys2Proof.Machine
end

