-- ==== Sys2Proof/Machine/Ed448.lean ====
section
/-! DEFINITION. Sys2Proof/Machine/Ed448.lean: the verification of an Ed448 signature with an empty context, as RFC 8032
defines it (R602, R685; the algorithm is PRESUMED from RFC 8032, log entry 11). -/

namespace Sys2Proof.Machine

/-- The field's prime, the curve's d, and the order of the base point. -/
def edP : Nat := 2 ^ 448 - 2 ^ 224 - 1
def edD : Nat := edP - 39081
def edL : Nat := 2 ^ 446 - 13818066809895115352007386748515426880336692474882178609894547503885

def edMul (a b : Nat) : Nat := a * b % edP
def edAdd (a b : Nat) : Nat := (a + b) % edP
def edSub (a b : Nat) : Nat := (a + (edP - b % edP)) % edP

/-- Power by repeated squaring over the low `n` bits of the exponent. -/
def edPow : Nat → Nat → Nat → Nat
  | 0, _, _ => 1
  | n + 1, b, e =>
    let r := edPow n (edMul b b) (e / 2)
    if e % 2 = 1 then edMul b r else r

/-- A point in projective coordinates. -/
structure EdPoint where
  x : Nat
  y : Nat
  z : Nat

def edZero : EdPoint := { x := 0, y := 1, z := 1 }

def edBase : EdPoint :=
  { x := 224580040295924300187604334099896036246789641632564134246125461686950415467406032909029192869357953282578032075146446173674602635247710
    y := 298819210078481492676017930443930673437544040154080242095928241372331506189835876003536878655418784733982303233503462500531545062832660
    z := 1 }

/-- The addition law, complete on this curve. -/
def edPlus (p q : EdPoint) : EdPoint :=
  let a := edMul p.z q.z
  let b := edMul a a
  let c := edMul p.x q.x
  let d := edMul p.y q.y
  let e := edMul edD (edMul c d)
  let f := edSub b e
  let g := edAdd b e
  let h := edMul (edAdd p.x p.y) (edAdd q.x q.y)
  { x := edMul (edMul a f) (edSub (edSub h c) d), y := edMul (edMul a g) (edSub d c), z := edMul f g }

/-- A multiple of a point over the low `n` bits of the scalar. -/
def edTimes : Nat → Nat → EdPoint → EdPoint
  | 0, _, _ => edZero
  | n + 1, k, p =>
    let r := edTimes n (k / 2) (edPlus p p)
    if k % 2 = 1 then edPlus p r else r

def edSame (p q : EdPoint) : Bool := decide (edMul p.x q.z = edMul q.x p.z) && decide (edMul p.y q.z = edMul q.y p.z)

/-- The point that 57 bytes encode. -/
def edDecode (l : List Byte) : Option EdPoint :=
  let y := leNat (l.take 56)
  let last := leNat ((l.drop 56).take 1)
  if l.length ≠ 57 ∨ edP ≤ y ∨ last % 128 ≠ 0 then none
  else
    let u := edSub (edMul y y) 1
    let v := edSub (edMul edD (edMul y y)) 1
    let u3v := edMul (edMul u (edMul u u)) v
    let u5v3 := edMul (edMul u3v (edMul u u)) (edMul v v)
    let x := edMul u3v (edPow 448 u5v3 ((edP - 3) / 4))
    if edMul v (edMul x x) ≠ u then none
    else if x = 0 ∧ last = 128 then none
    else some { x := if x % 2 = last / 128 then x else edSub 0 x, y := y, z := 1 }

/-- A signature of 114 bytes over a message verifies under a public key of 57 bytes. -/
def edVerify (key msg sig : List Byte) : Bool :=
  let s := leNat (sig.drop 57)
  match edDecode key, edDecode (sig.take 57) with
  | some a, some r =>
    let dom := ("SigEd448".toList.map (fun c => BitVec.ofNat 8 c.toNat)) ++ zeros 2
    let k := leNat (shake256 114 (dom ++ sig.take 57 ++ key ++ msg)) % edL
    let four := fun (p : EdPoint) => edTimes 3 4 p
    decide (sig.length = 114) && decide (s < edL)
      && edSame (four (edTimes 446 s edBase)) (edPlus (four r) (four (edTimes 446 k a)))
  | _, _ => false

end Sys2Proof.Machine
end

