-- ==== Sys2Proof/Machine/HostPort.lean ====
section
/-! DEFINITION. Sys2Proof/Machine/HostPort.lean: the Ethernet port (chapter 17), the partitions' settings and shared
memory, and what a host does through its two windows (chapter 03): mailbox writes and flips, the flag table, bucket
data, event areas, BUCKET_MAP and BUCKET_UNMAP. -/

namespace Sys2Proof.Machine

/-! ### Queue pairs (R658 to R663) -/

/-- A queue pair that is connected and not in the error state. -/
def liveQp (m : Dev) (qp : Nat) : Option Qp := (tfind m.port.qps qp).filter (fun q => !q.error)

/-- Changes a queue pair. -/
def updQp (m : Dev) (qp : Nat) (f : Qp → Qp) : Dev := updPort m (fun p => { p with qps := tupd p.qps qp f })

/-- R660: the queue pairs bound to a partition; the error state ends the binding. -/
def qpsOf (m : Dev) (part : Nat) : Nat := (m.port.qps.filter (fun q => decide (q.2.part = part) && !q.2.error)).length

/-- Every queue pair that is connected. -/
def qpsLive (m : Dev) : Nat := (m.port.qps.filter (fun q => !q.2.error)).length

/-- A queue pair enters the error state (R659, R661) with QP_ERROR. -/
def qpFails (m : Dev) (qp cause : Nat) : Dev :=
  match liveQp m qp with
  | none => m
  | some q => raisePart (updQp m qp (fun q => { q with error := true })) q.part 0x0106 0 (leBytes 4 qp ++ leBytes 1 cause)

/-- R659: an access with a remote key. The right key gives the queue pair's partition; a wrong one is answered by a
remote-access NAK and puts the queue pair into the error state. -/
def keyed (m : Dev) (qp key : Nat) (right : Part → Nat) (f : Nat → Dev → Dev) : Dev :=
  match liveQp m qp with
  | none => m
  | some q => if key = right (partAt m q.part) then f q.part m else qpFails (send m (.rdmaNak qp)) qp 1

/-- The line rate of the port's mode, in bit/s (R656). -/
def lineRate (m : Dev) : Nat :=
  match m.port.mode with
  | 2 => 800000000000
  | 3 => 100000000000
  | _ => 1600000000000

/-- Big-endian value of bytes. -/
def beNat (l : List Byte) : Nat := l.foldl (fun a b => a * 256 + b.toNat) 0

/-- R660: a source address of 16 bytes falls within a partition's allowed prefix. -/
def sourceAllowed (p : Part) (src : List Byte) : Bool :=
  match p.allowLen with
  | none => false
  | some n => decide (beNat (padTo 16 src) >>> (128 - n) = beNat (leBytes 16 p.allow) >>> (128 - n))

/-- CM_REQ (R660): opens a queue pair bound to the partition that the service identifier names, or rejects. Its number
is the lowest not given out since BOOT (DESIGN CHOICE, log entry 14). -/
def cmReq (service : Nat) (src : List Byte) (remoteQpn : Nat) (m : Dev) : Dev :=
  let p := service - 0x5756320000000000
  let pt := partAt m p
  if 0x5756320000000000 ≤ service ∧ p < 8 ∧ pt.configured ∧ sourceAllowed pt src ∧ qpsOf m p < pt.qpMax
      ∧ qpsLive m < 4096 then
    let n := m.port.nextQp
    send (updPort m (fun t => { t with
      qps := tput t.qps n { part := p, remote := remoteQpn, rate := lineRate m }, nextQp := n + 1 })) (.cmRep n p)
  else send m (.cmReject p)

def execCmReq (service : Nat) (src : List Byte) (remoteQpn : Nat) (s : State) : Host.Outcome State Fault Refusal :=
  onDev (.cmReq service src remoteQpn) (cmReq service src remoteQpn) s

/-- CM_DREQ (R660). -/
def cmDreq (qp : Nat) (m : Dev) : Dev := updPort m (fun t => { t with qps := tdel t.qps qp })

def execCmDreq (qp : Nat) (s : State) : Host.Outcome State Fault Refusal := onDev (.cmDreq qp) (cmDreq qp) s

/-- Retransmission from a PSN (R661). -/
def retransmit (m : Dev) (qp psn : Nat) : Dev :=
  send (updPort m (fun t => { t with retransmits := sat 32 (t.retransmits + 1) })) (.retransmit qp psn)

/-- RDMA_ACK_TIMEOUT (R661): retransmits seven times, then gives up. -/
def ackTimeout (qp : Nat) (m : Dev) : Dev :=
  match liveQp m qp with
  | none => m
  | some q => if q.retries < 7 then retransmit (updQp m qp (fun q => { q with retries := q.retries + 1 })) qp q.psn
              else qpFails m qp 0

def execRdmaAckTimeout (qp : Nat) (s : State) : Host.Outcome State Fault Refusal :=
  onDev (.rdmaAckTimeout qp) (ackTimeout qp) s

/-- RDMA_NAK_RECEIVE (R661): a sequence NAK (cause 0) restarts from its PSN; a remote-access NAK (1) and any other end
the queue pair (R680). -/
def nakReceive (qp psn cause : Nat) (m : Dev) : Dev :=
  match liveQp m qp with
  | none => m
  | some _ =>
    if cause = 0 then retransmit (updQp m qp (fun q => { q with psn := psn, retries := 0 })) qp psn
    else qpFails m qp (if cause = 1 then 1 else 2)

def execRdmaNakReceive (qp psn cause : Nat) (s : State) : Host.Outcome State Fault Refusal :=
  onDevW (wfRdmaNakReceive qp psn cause) (nakReceive qp psn cause) s

/-- 50 µs have passed since a cycle (R663). -/
def spaced (m : Dev) (last : Option Nat) : Bool :=
  match last with
  | none => true
  | some c => decide (c + 35000 ≤ m.cycle)

/-- ECN_MARKED_PACKET (R663): at most one notification per queue pair in 35,000 cycles. -/
def ecnMarked (qp : Nat) (m : Dev) : Dev :=
  match liveQp m qp with
  | none => m
  | some q => if spaced m q.lastCnpOut then send (updQp m qp (fun q => { q with lastCnpOut := some m.cycle })) (.cnp qp) else m

def execEcnMarkedPacket (qp : Nat) (s : State) : Host.Outcome State Fault Refusal :=
  onDev (.ecnMarkedPacket qp) (ecnMarked qp) s

/-- CNP_RECEIVE (R663): the send rate halves, at most once in 50 µs, down to 1 Gb/s. -/
def cnpReceive (qp : Nat) (m : Dev) : Dev :=
  match liveQp m qp with
  | none => m
  | some q =>
    let m := updPort m (fun t => { t with cnpRx := sat 32 (t.cnpRx + 1) })
    let m := updQp m qp (fun q => { q with lastCnp := some m.cycle })
    if spaced m q.lastCut then
      updQp m qp (fun q => { q with rate := max 1000000000 (q.rate / 2), lastCut := some m.cycle })
    else m

def execCnpReceive (qp : Nat) (s : State) : Host.Outcome State Fault Refusal := onDev (.cnpReceive qp) (cnpReceive qp) s

/-- CNP_RATE_RAISE (R663): 50 µs without a notification raise the rate by 1/64 of the line rate. -/
def rateRaise (qp : Nat) (m : Dev) : Dev :=
  match liveQp m qp with
  | none => m
  | some q => if spaced m q.lastCnp then
      updQp m qp (fun q => { q with rate := min (lineRate m) (q.rate + lineRate m / 64) }) else m

def execCnpRateRaise (qp : Nat) (s : State) : Host.Outcome State Fault Refusal :=
  onDevW (wfCnpRateRaise qp) (rateRaise qp) s

/-! ### The port (R656 to R666) -/

/-- Sets PTP_LOCKED with PTP_STATE when it changes (R680). -/
def setPtp (m : Dev) (locked : Bool) (offset : Int) : Dev :=
  let was := m.port.ptpLocked
  let m := updPort m (fun t => { t with ptpLocked := locked, ptpOffset := offset })
  if was = locked then m
  else raiseModule m 0x0107 0 (leBytes 1 (b2n locked) ++ zeros 3 ++ leBytes 4 ((offset % 2 ^ 32).toNat))

/-- R666: PTP_TIME runs on between messages; a cycle of 700 MHz is 10/7 ns (DEDUCED, log entry
14). -/
def ptpNow (m : Dev) : Nat := (m.port.ptpTime + (m.cycle - m.port.ptpAt) * 10 / 7) % 2 ^ 64

/-- PTP_MESSAGE (R665, R666): with PTP on, a message sets the clock and what it knows of its offset; a Sync (kind 0)
is followed by a delay request. In P4 and P5 the clock runs free and reports unlocked. -/
def ptpMessage (kind time : Nat) (offset : Int) (locked : Bool) (m : Dev) : Dev :=
  if m.port.ptpCfg = 0 then m
  else if 4 ≤ powerState m then setPtp m false m.port.ptpOffset
  else
    let m := setPtp (updPort m (fun t => { t with ptpTime := time, ptpAt := m.cycle })) locked offset
    if kind = 0 then send m .ptpDelayReq else m

def execPtpMessage (kind time : Nat) (offset : Int) (locked : Bool) (s : State) : Host.Outcome State Fault Refusal :=
  onDevW (wfPtpMessage kind time offset locked) (ptpMessage kind time offset locked) s

/-- The EUI-48 address of the port. -/
def macBytes : List Byte := (List.range 6).map Config.mac

/-- R657: the IPv6 link-local address formed from the MAC address, by the modified EUI-64 form (PRESUMED, log entry
14). -/
def linkLocal : List Byte :=
  [0xFE, 0x80] ++ zeros 6 ++ [nth 0 macBytes 0 ^^^ 2] ++ (macBytes.drop 1).take 2 ++ [0xFF, 0xFE] ++ macBytes.drop 3

/-- R657: an address that the port holds. -/
def portHolds (m : Dev) (addr : List Byte) : Bool :=
  decide (addr = linkLocal) || m.port.parts.any (fun p => p.2.configured
    && ((decide (p.2.ipv4 ≠ 0) && decide (addr = leBytes 4 p.2.ipv4))
      || (decide (p.2.ipv6 ≠ 0) && decide (addr = leBytes 16 p.2.ipv6))))

/-- ARP_ND_ICMP (R657): answered for the port's own addresses. -/
def arpNdIcmp (kind : Nat) (addr : List Byte) (m : Dev) : Dev :=
  if portHolds m addr then send m (.netAnswer kind addr) else m

def execArpNdIcmp (kind : Nat) (addr : List Byte) (s : State) : Host.Outcome State Fault Refusal :=
  onDevW (wfArpNdIcmp kind addr) (arpNdIcmp kind addr) s

/-- The port's mode changes, with PORT_LINK (R677, R680). -/
def setPortMode (m : Dev) (mode cause : Nat) : Dev :=
  let old := m.port.mode
  if old = mode then m
  else
    let up := decide (1 ≤ mode ∧ mode ≤ 3)
    let m := updPort m (fun t => { t with
      mode := mode
      upSince := if up then m.ctl.localStroke % 2 ^ 32 else t.upSince
      lpi := if mode = 1 ∨ mode = 2 then t.lpi else false })
    raiseModule m 0x0104 0 (leBytes 1 old ++ leBytes 1 mode ++ leBytes 1 cause)

/-- R664, R666: the port follows the power state. In P3 it idles where the partner negotiated that; into P4 and out of it
the port retrains; from P4 on PTP is not locked. -/
def portFollows (m : Dev) : Dev :=
  let fast := decide (m.port.mode = 1 ∨ m.port.mode = 2)
  let m := updPort m (fun t => { t with lpi := decide (m.power.deep = 3) && t.lpiOk && fast })
  if 4 ≤ m.power.deep then setPtp (if fast then setPortMode m 4 1 else m) false m.port.ptpOffset
  else if m.port.mode = 3 then setPortMode m 4 1
  else m

/-- PORT_LINK_CHANGE (R664). Low-power idle is offered only in the two fast modes (R656). -/
def portLinkChange (mode cause : Nat) (lpiOk : Bool) (m : Dev) : Dev :=
  let ok := lpiOk && decide (mode = 1 ∨ mode = 2) && decide (m.port.lpiCfg = 1)
  setPortMode (updPort m (fun t => { t with lpiOk := ok, lpi := ok && decide (m.power.deep = 3) })) mode cause

def execPortLinkChange (mode cause : Nat) (lpiOk : Bool) (s : State) : Host.Outcome State Fault Refusal :=
  onDev (.portLinkChange mode cause lpiOk) (portLinkChange mode cause lpiOk) s

/-- PFC_PAUSE_FRAME (R658): pauses, or with no quanta resumes, the partitions of a priority. -/
def pfcPause (priority quanta : Nat) (m : Dev) : Dev :=
  updPort m (fun t => { t with parts := tmap t.parts (fun _ p =>
    if p.priority = priority then { p with paused := decide (quanta ≠ 0) } else p) })

def execPfcPauseFrame (priority quanta : Nat) (s : State) : Host.Outcome State Fault Refusal :=
  onDevW (wfPfcPauseFrame priority quanta) (pfcPause priority quanta) s

/-- PORT_CONFIG. A change of SPEED retrains the port outside P4 and P5 (R664). -/
def specPortConfig (mb speed lpi ptp domain mtu : Nat) : CmdSpec where
  cmd := .portConfig mb speed lpi ptp domain mtu
  opcode := 0x0140
  mb := mb
  admin := true
  par := fun _ => ensure (decide (speed ≤ 2) && decide (lpi ≤ 1) && decide (ptp ≤ 3) && decide (mtu ∈ [1024, 2048, 4096])) 0x2003
  apply := fun m =>
    let old := m.port.speed
    let m := updPort m (fun t => { t with speed := speed, lpiCfg := lpi, ptpCfg := ptp, ptpDomain := domain, mtu := mtu })
    let m := if ptp = 0 then setPtp m false m.port.ptpOffset else m
    { m := if old ≠ speed ∧ powerState m < 4 then setPortMode m 4 2 else m }

def execPortConfig (mb speed lpi ptp domain mtu : Nat) (s : State) : Host.Outcome State Fault Refusal :=
  onCmd (specPortConfig mb speed lpi ptp domain mtu) s

/-- ETH_STATUS (R677). -/
def ethStatus (m : Dev) : Nat :=
  m.port.mode + (b2n m.port.lpi <<< 3) + (b2n m.port.lpiOk <<< 4) + (b2n m.port.ptpLocked <<< 5) + (qpsLive m <<< 16)
    + (m.port.upSince <<< 32)

/-- PORT_STATUS. What counts into RX_BYTES and TX_BYTES the manual does not say: both are free values. -/
def specPortStatus (mb jobId : Nat) : CmdSpec where
  cmd := .portStatus mb jobId
  opcode := 0x0B80
  mb := mb
  job := optJob jobId
  query := true
  apply := fun m =>
    let rx := drawFree m 64
    let tx := drawFree rx.2 64
    let js := match jobById m jobId with
      | some p => if jobId ≠ 0 then p.2.stroke else 0
      | none => 0
    { m := tx.2
      body := leBytes 8 (ethStatus m) ++ leBytes 8 rx.1 ++ leBytes 8 tx.1 ++ leBytes 4 m.port.retransmits
        ++ leBytes 4 m.port.cnpRx ++ leBytes 8 (ptpNow m) ++ leBytes 8 m.ctl.localStroke ++ leBytes 8 js
        ++ leBytes 4 ((m.port.ptpOffset % 2 ^ 32).toNat) ++ zeros 4 }

def execPortStatus (mb jobId : Nat) (s : State) : Host.Outcome State Fault Refusal := onCmd (specPortStatus mb jobId) s

/-! ### Partitions (R667 to R673, R679) -/

/-- Some segment, mapped bucket or grant of a partition. -/
def partHolds (m : Dev) (p : Nat) : Bool :=
  m.mem.allocs.any (fun a => decide (a.part = p)) || m.ctl.flags.any (fun f => decide (f.2.owner ≠ 0) && decide (f.2.part = p))
    || m.mem.grants.any (fun g => decide (g.part = p) || bitOf g.grantees p)

/-- R667: the masks of PARTITION_SET. -/
def diesOk (dies classes : List Nat) : Bool :=
  decide (nth 0 dies 0 ≠ 0) && decide (dies.foldl (· ||| ·) 0 = 255) && decide (dies.foldl (· + ·) 0 = 255)
    && (List.range 8).all (fun p => if nth 0 dies p = 0 then decide (nth 0 classes p = 0)
        else decide (1 ≤ nth 0 classes p) && decide (nth 0 classes p ≤ 3))

/-- R98: the control window of a partition is cleared. What its mailboxes still wait for is dropped with it, so that no reply reaches
the next holder; partition 0 keeps its requests, because its holder stays (DESIGN CHOICE, log entry 6). -/
def clearWindow (p : Nat) (m : Dev) : Dev :=
  let mine := fun (mb : Nat) => decide (mb / 32 = p) && decide (p ≠ 0)
  updCtl m (fun c => { c with
    cw := tsplice c.cw (p * 131072) 131072 []
    flips := c.flips.filter (fun k => decide (k / 32 ≠ p)), waiting := c.waiting.filter (fun a => !mine a.mb)
    accepted := c.accepted.filter (fun a => !mine a.mb), replies := c.replies.filter (fun r => !mine r.mb)
    waits := c.waits.filter (fun w => !mine w.reply.mb) })

/-- One partition of PARTITION_SET: new keys (R659), and the window cleared when its die set changes (R98). -/
def setPartition (dies cls : Nat) (m : Dev) (p : Nat) : Dev :=
  let old := partAt m p
  let m := if old.dies ≠ dies then clearWindow p m else m
  if dies = 0 then
    updPort m (fun t => { t with parts := tset {} t.parts p { resets := old.resets }
                                 qps := tkeep t.qps (fun _ q => decide (q.part ≠ p)) })
  else
    let a := drawFree m 32
    let b := drawFree a.2 32
    updPart b.2 p (fun x => { x with configured := true, dies := dies, hbmClass := cls, cwKey := a.1, bwKey := b.1 })

/-- PARTITION_SET (R667). -/
def specPartitionSet (mb : Nat) (dies classes : List Nat) : CmdSpec where
  cmd := .partitionSet mb dies classes
  opcode := 0x0110
  mb := mb
  admin := true
  states := some [.ready]
  par := fun _ => ensure (diesOk dies classes) 0x2003
  sta := fun m => ensure ((List.range 8).all (fun p => decide ((partAt m p).dies = nth 0 dies p) || !partHolds m p)) 0x1007
  apply := fun m => { m := (List.range 8).foldl (fun m p => setPartition (nth 0 dies p) (nth 0 classes p) m p) m }

def execPartitionSet (mb : Nat) (dies classes : List Nat) (s : State) : Host.Outcome State Fault Refusal :=
  onCmd (specPartitionSet mb dies classes) s

/-- WH_PART (R679). -/
def whPart (m : Dev) (p : Nat) : Nat :=
  let x := partAt m p
  b2n x.configured + (x.dies <<< 1) + (x.hbmClass <<< 9) + (b2n x.resetting <<< 11)
    + ((m.jobs.filter (fun j => decide (j.2.part = p))).length <<< 12) + (qpsOf m p <<< 32) + (sat 16 x.resets <<< 48)

/-- PARTITION_STATUS. -/
def specPartitionStatus (mb partition : Nat) : CmdSpec where
  cmd := .partitionStatus mb partition
  opcode := 0x0112
  mb := mb
  query := true
  sec := fun _ => ensure (decide (partition = 0xFF) || decide (partition = mb / 32) || decide (mb / 32 = 0)) 0x7002
  par := fun _ => ensure (decide (partition = 0xFF) || decide (partition < 8)) 0x2003
  apply := fun m =>
    let p := if partition = 0xFF then mb / 32 else partition
    let x := partAt m p
    { m := m
      body := leBytes 8 (whPart m p) ++ leBytes 4 x.cwKey ++ leBytes 4 x.bwKey ++ leBytes 4 x.ipv4 ++ leBytes 2 x.vlan
        ++ leBytes 1 x.priority ++ zeros 1 ++ leBytes 16 x.ipv6
        ++ leBytes 2 (m.mem.grants.filter (fun g => bitOf g.grantees p)).length
        ++ leBytes 2 (m.mem.grants.filter (fun g => decide (g.part = p))).length ++ zeros 4 }

def execPartitionStatus (mb partition : Nat) (s : State) : Host.Outcome State Fault Refusal :=
  onCmd (specPartitionStatus mb partition) s

/-- SHARE_GRANT (R671): one grant per allocation; a second command adds grantees to it. -/
def specShareGrant (mb addr grantees : Nat) : CmdSpec where
  cmd := .shareGrant mb addr grantees
  opcode := 0x0113
  mb := mb
  sec := fun m => ensure (groupAt m.mem (mb / 32) addr).isSome 0x7001
  par := fun _ => ensure (!bitOf grantees (mb / 32)) 0x2003
  apply := fun m =>
    match m.mem.grants.find? (fun g => decide (g.addr = addr)) with
    | some _ => { m := updMem m (fun x => { x with grants := x.grants.map (fun g =>
        if g.addr = addr then { g with grantees := g.grantees ||| grantees } else g) }) }
    | none =>
      if grantees = 0 then { m := m }
      else if 64 ≤ m.mem.grants.length then { m := m, status := 0x3001 }
      else { m := updMem m (fun x => { x with grants := x.grants ++ [{ addr := addr, part := mb / 32, grantees := grantees }] }) }

def execShareGrant (mb addr grantees : Nat) (s : State) : Host.Outcome State Fault Refusal :=
  onCmd (specShareGrant mb addr grantees) s

/-- R673: a job of a grantee is at work. -/
def granteeBusy (m : Dev) (grantees : Nat) : Bool :=
  m.jobs.any (fun j => bitOf grantees j.2.part && decide (j.2.phase ∈ [.generate, .learn, .turning, .recovering]))

/-- R672: the revocation takes the last grantee of a parked allocation, whose segments it frees. -/
def revokeFrees (m : Dev) (addr grantees : Nat) : Bool :=
  m.mem.allocs.any (fun a => a.parked && decide (groupAddr m.mem a.group = addr))
    && m.mem.grants.all (fun g => decide (g.addr ≠ addr) || decide (g.grantees &&& (255 ^^^ grantees) = 0))

/-- SHARE_REVOKE (R672, R673): with its last grant gone, a parked allocation enters CLEARING. -/
def specShareRevoke (mb addr grantees : Nat) : CmdSpec where
  cmd := .shareRevoke mb addr grantees
  opcode := 0x0114
  mb := mb
  sec := fun m => ensure (groupAt m.mem (mb / 32) addr).isSome 0x7001
  par := fun _ => ensure (!bitOf grantees (mb / 32)) 0x2003
  sta := fun m => ensure (!granteeBusy m grantees && !(revokeFrees m addr grantees && groupMapped m ((groupAt m.mem (mb / 32) addr).getD 0))) 0x1007
  apply := fun m =>
    let gs := (m.mem.grants.map (fun g => if g.addr = addr then { g with grantees := g.grantees &&& (255 ^^^ grantees) } else g)).filter
      (fun g => decide (g.grantees ≠ 0))
    let mem := { m.mem with grants := gs }
    { m := { m with mem := releaseAllocs mem (fun a => a.parked && decide (groupAddr mem a.group = addr)) } }

def execShareRevoke (mb addr grantees : Nat) (s : State) : Host.Outcome State Fault Refusal :=
  onCmd (specShareRevoke mb addr grantees) s

/-- PARTITION_NET (R657, R660). -/
def specPartitionNet (mb partition priority vlan ipv4 ipv6 allow allowLen qpMax : Nat) : CmdSpec where
  cmd := .partitionNet mb partition priority vlan ipv4 ipv6 allow allowLen qpMax
  opcode := 0x0115
  mb := mb
  admin := true
  par := fun m => ensure (decide (partition < 8) && (partAt m partition).configured && decide (priority < 8)
    && decide (vlan ≤ 4094) && decide (allowLen ≤ 128) && decide (1 ≤ qpMax) && decide (qpMax ≤ 4096)) 0x2003
  apply := fun m => { m := updPart m partition (fun p => { p with
    priority := priority, vlan := vlan, ipv4 := ipv4, ipv6 := ipv6, allow := allow, allowLen := some allowLen, qpMax := qpMax }) }

def execPartitionNet (mb partition priority vlan ipv4 ipv6 allow allowLen qpMax : Nat) (s : State) :
    Host.Outcome State Fault Refusal :=
  onCmd (specPartitionNet mb partition priority vlan ipv4 ipv6 allow allowLen qpMax) s

/-! ### Control window (R97 to R103) -/

/-- Cuts data that begins at offset `off` of item `idx` into the parts that fall into items of `unit` bytes. -/
def pieces (unit : Nat) : Nat → Nat → Nat → List Byte → List (Nat × Nat × List Byte)
  | 0, _, _, _ => []
  | _, _, _, [] => []
  | fuel + 1, idx, off, l => (idx, off, l.take (unit - off)) :: pieces unit fuel (idx + 1) 0 (l.drop (unit - off))

/-- R97, R102: counts a refused access and raises MAILBOX_VIOLATION for the queue pair's partition. -/
def mailboxViolation (m : Dev) (qp part offset cause : Nat) : Dev :=
  raisePart (updCtl m (fun c => { c with mbxDrop := tmod 0 c.mbxDrop part (fun n => sat 16 (n + 1)) })) part 0x0102 0
    (leBytes 4 qp ++ leBytes 4 offset ++ leBytes 1 cause)

/-- A byte of OWNER as a write forms it: the written byte, or the byte as it reads. -/
def ownerAfter (old off : Nat) (l : List Byte) : Nat :=
  leNat ((List.range 4).map (fun i => if off ≤ i ∧ i < off + l.length then nth 0 l (i - off) else nth 0 (leBytes 4 old) i))

/-- R101: OWNER reads 0 and a write that reaches it forms the value 1. -/
def flipsOwner (off : Nat) (l : List Byte) : Bool := decide (off < 4) && decide (ownerAfter 0 off l = 1)

/-- The write of one mailbox's bytes (R101, R102): nothing of OWNER is stored but a flip. -/
def mailboxWrite (qp part : Nat) (m : Dev) (x : Nat × Nat × List Byte) : Dev :=
  if mbOwned m x.1 then mailboxViolation m qp part (x.1 * 4096 + x.2.1) 0
  else
    let skip := 4 - x.2.1
    let m := cwWrite m (x.1 * 4096 + max x.2.1 4) (x.2.2.drop skip)
    if flipsOwner x.2.1 x.2.2 then
      updCtl (cwWrite m (x.1 * 4096) (leBytes 4 1)) (fun c => { c with flips := c.flips ++ [x.1] })
    else m

/-- What a partition reads of the control window, `len` bytes from an offset (R97, R102, R106): zeros outside its 128 KiB, with the count
and the event, and bytes 4 to 4,095 of a DEVICE mailbox without meaning, free values. The table has no row for such a read. -/
def hostCwRead (qp part offset len : Nat) (m : Dev) : List Byte × Dev :=
  if part * 131072 ≤ offset ∧ offset + len ≤ part * 131072 + 131072 then
    let free := drawFreeBytes m len
    let owned := (List.range len).any (fun i => mbOwned m ((offset + i) / 4096) && decide (4 ≤ (offset + i) % 4096))
    ((List.range len).map (fun i => if mbOwned m ((offset + i) / 4096) ∧ 4 ≤ (offset + i) % 4096 then nth 0 free.1 i else cwByte m (offset + i)),
     if owned then free.2 else m)
  else (zeros len, mailboxViolation m qp part offset 1)

/-- HOST_CW_WRITE (R97). A write that spans several DEVICE mailboxes is counted and reported once for each of them (DESIGN CHOICE, log
entry 6). -/
def hostCwWrite (qp key offset : Nat) (data : List Byte) (m : Dev) : Dev :=
  keyed m qp key (·.cwKey) (fun part m =>
    if part * 131072 ≤ offset ∧ offset + data.length ≤ part * 131072 + 131072 then
      (pieces 4096 (data.length / 4096 + 2) (offset / 4096) (offset % 4096) data).foldl (mailboxWrite qp part) m
    else mailboxViolation m qp part offset 1)

def execHostCwWrite (qp key offset : Nat) (data : List Byte) (s : State) : Host.Outcome State Fault Refusal :=
  onDev (.hostCwWrite qp key offset data) (hostCwWrite qp key offset data) s

/-- MAILBOX_FLIP (R101): the host writes 1 into OWNER. -/
def execMailboxFlip (qp key mb : Nat) (s : State) : Host.Outcome State Fault Refusal :=
  onDev (.mailboxFlip qp key mb) (hostCwWrite qp key (mb * 4096) (leBytes 4 1)) s

/-! ### Flag table and bucket data (R117 to R126) -/

/-- R121, R122, R137: counts a refused access to the bucket window; one BUCKET_VIOLATION per bucket and stroke. -/
def bucketViolation (m : Dev) (qp part bucket offset cause : Nat) : Dev :=
  let m := updCtl m (fun c => { c with bktDrop := tmod 0 c.bktDrop part (fun n => sat 16 (n + 1)) })
  if bucket ∈ m.ctl.violated then m
  else raisePart (updCtl m (fun c => { c with violated := c.violated ++ [bucket] })) part 0x0202 0
    (leBytes 4 qp ++ leBytes 4 bucket ++ leBytes 4 offset ++ leBytes 1 cause)

/-- A four-byte field of an entry after a write at entry offset `off`; `o` is the field's offset. -/
def fieldAfter (old o off : Nat) (l : List Byte) : Nat :=
  leNat ((List.range 4).map (fun i => if off ≤ o + i ∧ o + i < off + l.length then nth 0 l (o + i - off) else nth 0 (leBytes 4 old) i))

/-- The write of one entry's bytes (R121). A refused write names the entry's bucket and the offset inside the entry in its event
(DESIGN CHOICE, log entry 6: R121 does not say whether they are bucket 0's). A flip counts as a handoff when it lands, with the
stroke current then in the bucket's stream (DESIGN CHOICE, log entry 6: R119 gives STROKE by R129 and R145 only). -/
def flagWrite (qp part : Nat) (m : Dev) (x : Nat × Nat × List Byte) : Dev :=
  let f := flagAt m x.1
  if x.1 = 0 ∨ f.owner = 0 then bucketViolation m qp part x.1 x.2.1 2
  else if f.part ≠ part then bucketViolation m qp part x.1 x.2.1 1
  else if f.owner ≠ 1 then m
  else
    let f := { f with fill := fieldAfter f.fill 16 x.2.1 x.2.2, tag := fieldAfter f.tag 20 x.2.1 x.2.2 }
    if x.2.1 < 4 ∧ fieldAfter 1 0 x.2.1 x.2.2 = 2 then
      updCtl (setFlag m x.1 { f with owner := 2, handoffs := f.handoffs + 1, stroke := strokeOf m (bucketStream m x.1)
                                     strokeKind := b2n (bucketStream m x.1).isSome })
        (fun c => { c with bucketFlips := c.bucketFlips ++ [x.1] })
    else setFlag m x.1 f

/-- HOST_FLAG_WRITE (R121). -/
def hostFlagWrite (qp key bucket offset : Nat) (data : List Byte) (m : Dev) : Dev :=
  keyed m qp key (·.bwKey) (fun part m =>
    ((pieces 64 (data.length / 64 + 2) bucket offset data).filter (fun x => decide (x.1 < 32768))).foldl (flagWrite qp part) m)

def execHostFlagWrite (qp key bucket offset : Nat) (data : List Byte) (s : State) : Host.Outcome State Fault Refusal :=
  onDev (.hostFlagWrite qp key bucket offset data) (hostFlagWrite qp key bucket offset data) s

/-- R671, R670: a grant forbids the write of a bucket's memory. -/
def bucketGranted (m : Dev) (b : Nat) : Bool :=
  match allocOfSeg m.mem ((flagAt m b).addr / segBytes) with
  | some a => granted m.mem a.group
  | none => false

/-- R629: in P3 to P5 the host reaches no data bucket. -/
def bucketsBarred (m : Dev) : Bool := decide (3 ≤ m.power.deep)

/-- The write of one bucket's bytes (R122). Memory under a grant is not written (R671); R260 gives the port no unit
code, so REQUESTER is a free value. -/
def bucketWrite (qp part : Nat) (m : Dev) (x : Nat × Nat × List Byte) : Dev :=
  let f := flagAt m x.1
  if x.1 = 0 ∨ 32767 < x.1 ∨ f.owner = 0 ∨ bucketsBarred m then bucketViolation m qp part x.1 x.2.1 2
  else if f.part ≠ part then bucketViolation m qp part x.1 x.2.1 1
  else if f.owner ≠ 1 then bucketViolation m qp part x.1 x.2.1 0
  else if bucketGranted m x.1 then
    let r := drawFree m 16
    raisePart r.2 part 0x0204 0 (leBytes 2 r.1 ++ zeros 6 ++ leBytes 8 (f.addr + x.2.1))
  else
    let m := touchPages m (f.addr + x.2.1) x.2.2.length
    { m with mem := memWrite m.mem (f.addr + x.2.1) x.2.2 }

/-- HOST_BUCKET_WRITE (R122). Bucket 0 holds the flag table (R117). -/
def hostBucketWrite (qp key bucket offset : Nat) (data : List Byte) (m : Dev) : Dev :=
  if bucket = 0 then hostFlagWrite qp key (offset / 64) (offset % 64) data m
  else keyed m qp key (·.bwKey) (fun part m =>
    (pieces 0x200000 (data.length / 0x200000 + 2) bucket offset data).foldl (bucketWrite qp part) m)

def execHostBucketWrite (qp key bucket offset : Nat) (data : List Byte) (s : State) : Host.Outcome State Fault Refusal :=
  onDev (.hostBucketWrite qp key bucket offset data) (hostBucketWrite qp key bucket offset data) s

/-- The 64 bytes of an entry (R119). -/
def flagBytes (f : Flag) : List Byte :=
  leBytes 4 f.owner ++ leBytes 1 f.part ++ leBytes 1 f.kind ++ leBytes 1 f.jobSlot ++ leBytes 1 f.notify ++ leBytes 8 f.addr ++ leBytes 4 f.fill ++ leBytes 4 f.tag
    ++ leBytes 8 f.handoffs ++ leBytes 8 f.stroke ++ leBytes 1 f.strokeKind ++ zeros 23

/-- What a partition reads of the entry of a bucket (R121). -/
def flagSeen (m : Dev) (part b : Nat) : List Byte :=
  let f := flagAt m b
  if b = 0 ∨ f.owner = 0 ∨ f.part = part then flagBytes f else zeros 64

/-- BUCKET_POISON for each poisoned block of a read (R123), and the bytes with zeros in their place. -/
def poisonedRead (part b offset : Nat) (data : List Byte) (m : Dev) : List Byte × Dev :=
  let f := flagAt m b
  let len := data.length
  let bad := (m.mem.poison.filter (fun p => p.2 && decide ((f.addr + offset) / 64 ≤ p.1) && decide (p.1 * 64 < f.addr + offset + len))).map (·.1)
  ((List.range len).map (fun i => if (f.addr + offset + i) / 64 ∈ bad then 0 else nth 0 data i),
   bad.foldl (fun m k =>
     let pl := leBytes 4 b ++ leBytes 4 (k * 64 - f.addr)
     if f.jobSlot < 16 then raiseJob m f.jobSlot 0x0203 0 pl else raisePart m part 0x0203 0 pl) m)

/-- What a read answers of one bucket (R121 to R123): zeros where it is refused; a DEVICE bucket's bytes are without meaning, free
values, and its poisoned blocks read zero like any other. -/
def bucketReadPiece (qp part : Nat) (r : List Byte × Dev) (x : Nat × Nat × Nat) : List Byte × Dev :=
  let m := r.2
  let f := flagAt m x.1
  if x.1 = 0 then
    let l := (List.range (x.2.2 / 64 + 2)).flatMap (fun i => flagSeen m part (x.2.1 / 64 + i))
    (r.1 ++ (l.drop (x.2.1 % 64)).take x.2.2, m)
  else if 32767 < x.1 ∨ f.owner = 0 ∨ bucketsBarred m then (r.1 ++ zeros x.2.2, bucketViolation m qp part x.1 x.2.1 2)
  else if f.part ≠ part then (r.1 ++ zeros x.2.2, bucketViolation m qp part x.1 x.2.1 1)
  else
    let m := freeFinds m [(f.addr + x.2.1, x.2.2)]
    let d := if f.owner = 2 then drawFreeBytes m x.2.2 else (memRead m.mem (f.addr + x.2.1) x.2.2, m)
    let y := poisonedRead part x.1 x.2.1 d.1 d.2
    (r.1 ++ y.1, y.2)

/-- Cuts a read of `len` bytes from offset `off` of bucket `b` at the buckets' ends. -/
def bucketRuns : Nat → Nat → Nat → Nat → List (Nat × Nat × Nat)
  | 0, _, _, _ => []
  | fuel + 1, b, off, len =>
    if len = 0 then []
    else (b, off, min len (0x200000 - off)) :: bucketRuns fuel (b + 1) 0 (len - min len (0x200000 - off))

/-- HOST_BUCKET_READ (R121 to R123): what it answers. -/
def hostBucketRead (qp key bucket offset len : Nat) (m : Dev) : Dev :=
  keyed m qp key (·.bwKey) (fun part m =>
    let r := (bucketRuns (len / 0x200000 + 2) bucket offset len).foldl (bucketReadPiece qp part) ([], m)
    send r.2 (.readData qp r.1))

def execHostBucketRead (qp key bucket offset len : Nat) (s : State) : Host.Outcome State Fault Refusal :=
  onDev (.hostBucketRead qp key bucket offset len) (hostBucketRead qp key bucket offset len) s

/-! ### Event areas (R132 to R143) -/

/-- EVENT_AREA_SET (R142). -/
def specEventAreaSet (mb areaAddr areaRkey slots consumerAddr consumerRkey qp : Nat) : CmdSpec where
  cmd := .eventAreaSet mb areaAddr areaRkey slots consumerAddr consumerRkey qp
  opcode := 0x0105
  mb := mb
  states := some [.ready, .active, .quiesced]
  sec := fun m => ensure (match liveQp m qp with | some q => decide (q.part = mb / 32) | none => false) 0x7001
  par := fun _ => ensure ((decide (slots = 0) || decide (slots ∈ (List.range 11).map (fun i => 64 <<< i)))
    && decide (areaAddr % 64 = 0) && decide (consumerAddr % 8 = 0)) 0x2003
  apply := fun m =>
    let a := areaAt m (mb / 32)
    { m := updCtl m (fun c => { c with areas := tset {} c.areas (mb / 32) { a with
        reg := if slots = 0 then none else some { addr := areaAddr, rkey := areaRkey, slots := slots, cAddr := consumerAddr,
                                                  cRkey := consumerRkey, qp := qp }
        fresh := decide (slots ≠ 0) } })
      body := leBytes 8 a.nextSeq ++ leBytes 4 a.held.length ++ zeros 4 }

def execEventAreaSet (mb areaAddr areaRkey slots consumerAddr consumerRkey qp : Nat) (s : State) :
    Host.Outcome State Fault Refusal :=
  onCmd (specEventAreaSet mb areaAddr areaRkey slots consumerAddr consumerRkey qp) s

/-- CONSUMER_REREAD (R135, R142, R143): while a record has no room, and before the first write into a new area, the
module reads C, clamps it to the last EVENT_SEQ written, and writes the records it holds. -/
def consumerReread (partition value : Nat) (m : Dev) : Dev :=
  let a := areaAt m partition
  match a.reg with
  | none => m
  | some r =>
    if areaRoom a then m
    else
      let m := send m (.hostRead r.qp r.cAddr r.cRkey 8)
      let m := updCtl m (fun c => { c with areas := tset {} c.areas partition { a with
        consumer := min value (a.nextSeq - 1), fresh := false } })
      flushHeld partition (a.held.length + 1) m

def execConsumerReread (partition value : Nat) (s : State) : Host.Outcome State Fault Refusal :=
  onDev (.consumerReread partition value) (consumerReread partition value) s

/-! ### BUCKET_MAP and BUCKET_UNMAP (R144 to R146) -/

/-- R144: memory at an address is held by the requester, or by the named job; a job that is not bound here is JOB_UNKNOWN's to
refuse. -/
def holdsSeg (m : Dev) (part addr jobId : Nat) : Bool :=
  match optJob jobId with
  | none => rangeHeld m.mem addr segBytes (fun a => decide (a.part = part) && a.job.isNone)
  | some id => match jobById m id with
    | some p => rangeHeld m.mem addr segBytes (fun a => decide (a.job = some p.1))
    | none => true

/-- R144: the first bucket whose memory does not lie in the region of KIND and in memory that the requester, or the named job,
holds; an empty range names none (R21). -/
def mapUnheld (m : Dev) (part first count kind addr jobId : Nat) : Option Nat :=
  (List.range count).find? (fun i =>
    let a := addr + i * segBytes
    !((match kind with
      | 1 => decide (a + segBytes ≤ 0x020000000000)
      | 2 => decide (0x020000000000 ≤ a) && decide (a + segBytes ≤ 0x040000000000)
      | _ => true) && holdsSeg m part a jobId)) |>.map (first + ·)

/-- A bucket cannot be mapped at an address: it is not FREE, or its memory lies under another one. -/
def bucketTaken (m : Dev) (b addr : Nat) : Bool :=
  decide ((flagAt m b).owner ≠ 0) || m.ctl.flags.any (fun f => decide (f.2.owner ≠ 0) && decide (f.2.addr / segBytes = addr / segBytes))

/-- BUCKET_MAP (R144, R145). -/
def specBucketMap (mb first count kind ownerInit addr jobId notify : Nat) : CmdSpec where
  cmd := .bucketMap mb first count kind ownerInit addr jobId notify
  opcode := 0x0201
  mb := mb
  job := optJob jobId
  stretch := true
  sec := fun m => (mapUnheld m (mb / 32) first count kind addr jobId).map (fun b => { status := 0x7001, obj := b })
  par := fun _ => firstErr [
    ensure (decide (1 ≤ count ∧ count ≤ 4096) && decide (kind = 1 ∨ kind = 2) && decide (ownerInit = 1 ∨ ownerInit = 2)
      && decide (notify ≤ 1)) 0x2003,
    ensure (decide (1 ≤ first ∧ first + count ≤ 32768)) 0x2006,
    ensure (decide (addr % segBytes = 0)) 0x2007]
  sta := fun m => match (bucketRange first count).find? (fun b => bucketTaken m b (addr + (b - first) * segBytes)) with
    | some b => some { status := 0x1006, obj := b }
    | none => none
  apply := fun m =>
    let st := streamOf m ((jobById m jobId).map (·.1))
    let st := if jobId = 0 then none else st
    let n := strokeOf m st
    let slot := match jobById m jobId with
      | some p => if jobId = 0 then 0xFF else p.1
      | none => 0xFF
    { m := (bucketRange first count).foldl (fun m b => setFlag m b {
        owner := ownerInit, part := mb / 32, kind := kind, jobSlot := slot, notify := notify
        addr := addr + (b - first) * segBytes, stroke := n, strokeKind := b2n st.isSome }) m }

def execBucketMap (mb first count kind ownerInit addr jobId notify : Nat) (s : State) : Host.Outcome State Fault Refusal :=
  onCmd (specBucketMap mb first count kind ownerInit addr jobId notify) s

/-- BUCKET_UNMAP (R146). -/
def specBucketUnmap (mb first count : Nat) : CmdSpec where
  cmd := .bucketUnmap mb first count
  opcode := 0x0202
  mb := mb
  sec := fun m => ensure ((bucketRange first (min count 32768)).all (fun b =>
    decide (32767 < b) || decide ((flagAt m b).owner = 0) || decide (b = 0) || decide ((flagAt m b).part = mb / 32))) 0x7001
  par := fun _ => firstErr [ensure (decide (1 ≤ count ∧ count ≤ 4096)) 0x2003,
                            ensure (decide (1 ≤ first ∧ first + count ≤ 32768)) 0x2006]
  sta := fun m => match (bucketRange first count).find? (fun b => decide ((flagAt m b).owner = 2)) with
    | some b => some { status := 0x1007, obj := b }
    | none => none
  apply := fun m => { m := freeFlags m (fun b _ => decide (first ≤ b ∧ b < first + count)) }

def execBucketUnmap (mb first count : Nat) (s : State) : Host.Outcome State Fault Refusal :=
  onCmd (specBucketUnmap mb first count) s

end Sys2Proof.Machine
end

