-- ==== Sys2Proof/Machine/Generation.lean ====
section
/-! DEFINITION. Sys2Proof/Machine/Generation.lean: the generation service and the atomiser (chapter 09): requests,
rounds, sampling, token delivery and tinctures. -/

namespace Sys2Proof.Machine

/-! ### The service's tables -/

def genOf (m : Dev) (slot : Nat) : Option Gen := (jobAt m slot).bind (·.gen)

def updGen (m : Dev) (slot : Nat) (f : Gen → Gen) : Dev := updJob m slot (fun j => { j with gen := j.gen.map f })

def seqAt (m : Dev) (s : Nat) : SeqCtx := tget {} m.seqs s

def updSeq (m : Dev) (s : Nat) (f : SeqCtx → SeqCtx) : Dev := { m with seqs := tmod {} m.seqs s f }

/-- The slots of a job that are not FREE, ascending (R399). -/
def liveSeqs (m : Dev) (slot : Nat) : Tab SeqCtx := m.seqs.filter (fun p => decide (p.2.st ≠ .free) && decide (p.2.jobSlot = slot))

/-- R379: the thread whose stream a slot's draws come from. -/
def seqThread (s : Nat) : Nat := s % 8 * 262144 + s / 8

/-- The generator entry of a thread. -/
def genEntry (m : Dev) (slot T : Nat) : Nat × Nat := match jobAt m slot with | some j => tget (0, 0) j.num.gens T | none => (0, 0)

def setGenEntry (m : Dev) (slot T : Nat) (g : Nat × Nat) : Dev :=
  genStore slot T 1 (updJob m slot (fun j => { j with num := { j.num with gens := tset (0, 0) j.num.gens T g } }))

/-- R702: extends JOB_MEAS. -/
def extendJob (m : Dev) (slot opcode : Nat) (data : List Byte) : Dev :=
  updJob m slot (fun j => { j with meas := shake256 32 (j.meas ++ leBytes 2 opcode ++ data), measCount := j.measCount + 1 })

/-- R369: bytes of the request store in use. -/
def storeUsed (m : Dev) (slot : Nat) (g : Gen) : Nat :=
  (g.queue.map (·.bytes)).sum + ((liveSeqs m slot).map (fun p => match p.2.req with | some r => r.bytes | none => 0)).sum

/-! ### GEN_CONFIG (R362, R388, R403) -/

/-- The dies of a job's partition (R669). -/
def jobDies (m : Dev) (slot : Nat) : List Nat :=
  match jobAt m slot with
  | some j => bitsOf 8 (partAt m j.part).dies
  | none => []

/-- Address of each share in an allocation; an empty share has none. -/
def shareAddrs : List (Nat × Nat) → List Alloc → List Nat
  | [], _ => []
  | (_, n) :: l, as =>
    if n = 0 then 0 :: shareAddrs l as
    else match as with
      | [] => 0 :: shareAddrs l []
      | a :: as => a.first * segBytes :: shareAddrs l as

/-- R344, R729: the shares of a pool on one die: HBM frames on its two stacks, cistern frames on its four packages, then
the page table, the maps and the length table. -/
def poolShares (d : PoolDesc) (frame die : Nat) : List (Nat × Nat) :=
  [(2 * die, segsOf ((d.hbmFrames + 1) / 2 * frame)), (2 * die + 1, segsOf (d.hbmFrames / 2 * frame))]
    ++ (List.range 4).map (fun k => (16 + 4 * die + k, segsOf ((d.cisFrames + 3 - k) / 4 * frame)))
    ++ [(2 * die, segsOf (d.pages * 16 + d.seqs * d.layers * 2 * (d.maxPages + 1) * 4))]

/-- R729: 16 equal shares, one on each stack. -/
def evenShares (bytes : Nat) : List (Nat × Nat) := (List.range 16).map (fun k => (k, segsOf ((bytes + 15) / 16)))

/-- R343. -/
def poolOk (d : PoolDesc) : Bool :=
  decide (d.format ≤ 1) && decide (1 ≤ d.layers ∧ d.layers ≤ 255) && decide (1 ≤ d.maxPages ∧ d.maxPages ≤ 2048)
    && decide (d.pages ≤ 33554432) && decide (1 ≤ d.seqs ∧ d.seqs ≤ 4096) && decide (d.lowWater ≤ 100)

/-- R388, R403: the header of a generation program image fits the module, the job and the pool. -/
def genImageOk (m : Dev) (j : Job) (h : List Byte) (count : Nat) (pool : PoolDesc) : Bool :=
  let rows := recField h 24 2
  decide (recField h 0 4 = 0x53500001) && decide (recField h 4 1 = 1) && decide (recField h 5 1 = j.periodK)
    && decide (recBytes h 8 8 = mapDigest m) && decide (64 ≤ recField h 16 8 ∧ recField h 16 8 ≤ count * segBytes)
    && decide (64 ≤ rows ∧ rows ≤ 8192) && decide (rows % 64 = 0) && decide (pool.seqs ≤ rows)
    && decide (recField h 26 2 ≠ 0) && decide (1 ≤ recField h 28 4 ∧ recField h 28 4 ≤ 262144)

/-- The pools of an allocation, die by die. -/
def makePools (js : Nat) (d : PoolDesc) (dies : List Nat) (addrs : List Nat) (pools : Tab KvPool) : Tab KvPool :=
  (List.zip (List.range dies.length) dies).foldl (fun t x =>
    let a := addrs.drop (7 * x.1)
    tput t (x.2 * 16 + js) { desc := d, hbmBase := a.take 2, cisBase := (a.drop 2).take 4, tableBase := nth 0 a 6 }) pools

/-- The uses of memory that GEN_CONFIG replaces. -/
def genUse (js : Nat) (a : Alloc) : Bool := decide (a.job = some js) && (decide (a.use = .kvPool) || decide (a.use = .reqStore))

/-- GEN_CONFIG. -/
def specGenConfig (mb jobId imgFirst imgCount outCount outFirst eos context queueMax reqStore : Nat) (pool : PoolDesc) :
    CmdSpec where
  cmd := .genConfig mb jobId imgFirst imgCount outCount outFirst eos context queueMax reqStore pool
  opcode := 0x0401
  mb := mb
  job := some jobId
  phases := some [.idle, .generate]
  stretch := true
  buckets := bucketRange imgFirst (min imgCount 4096)
  sec := fun m => bucketsOwned m (mb / 32) (bucketRange outFirst (min outCount 4096))
  par := fun m => firstErr [
    ensure (decide (1 ≤ imgCount ∧ imgCount ≤ 4096) && decide (1 ≤ outCount ∧ outCount ≤ 4096)
      && decide (2 ≤ context ∧ context ≤ 131072) && decide (1 ≤ queueMax ∧ queueMax ≤ 65536) && poolOk pool
      && (decide (eos = 0xFFFFFFFF) || decide (eos < 262144))) 0x2003,
    bucketsIndexed (bucketRange outFirst outCount),
    (match jobById m jobId with
      | some p => ensure ((bucketRange outFirst outCount).all (fun b =>
          decide ((flagAt m b).owner = 0) || decide ((flagAt m b).jobSlot = p.1))) 0x2003
      | none => none)]
  sta := fun m => match jobById m jobId with
    | none => none
    | some p => firstErr [
        ensure (decide ((liveSeqs m p.1).length = 0) && decide (((genOf m p.1).map (·.queue.length)).getD 0 = 0)) 0x1007
          (liveSeqs m p.1).length,
        ensure (!mappedOver m (genUse p.1)) 0x1007,
        bucketsDevice m (bucketRange outFirst outCount)]
  apply := fun m => match jobById m jobId with
    | none => { m := m }
    | some (js, j) =>
      let h := bucketBytes m (bucketRange imgFirst imgCount) 64
      let frame := (if pool.format = 0 then 16384 else 8192) + 256
      if !genImageOk m j h imgCount pool then { m := m, status := 0x200A }
      else if eos ≠ 0xFFFFFFFF ∧ recField h 28 4 ≤ eos then { m := m, status := 0x2003 }
      else
        let dies := jobDies m js
        let m' := updMem m (fun x => releaseAllocs x (genUse js))
        let shares := dies.flatMap (poolShares pool frame)
        match allocate m' j.part (some js) .kvPool shares with
        | .error e => { m := m, status := e }
        | .ok (m', g) =>
          match allocate m' j.part (some js) .reqStore (evenShares reqStore) with
          | .error e => { m := m, status := e }
          | .ok (m', _) =>
            match allocate m' j.part (some js) .reqStore (evenShares (recField h 16 8)) with
            | .error e => { m := m, status := e }
            | .ok (m', _) =>
              let pools := tkeep m'.pools (fun k _ => decide (k % 16 ≠ js))
              let m' := { m' with pools := makePools js pool dies (shareAddrs shares (groupAllocs m'.mem g)) pools }
              { m := updJob m' js (fun j => { j with gen := some {
                  rows := recField h 24 2, roundStrokes := recField h 26 2, vocab := recField h 28 4, eos := eos
                  context := context, queueMax := queueMax, storeBytes := reqStore, outFirst := outFirst
                  outCount := outCount, pool := pool } }), wait := some (.imageCopy js 1), keep := true }

def execGenConfig (mb jobId imgFirst imgCount outCount outFirst eos context queueMax reqStore : Nat) (pool : PoolDesc)
    (s : State) : Host.Outcome State Fault Refusal :=
  onCmd (specGenConfig mb jobId imgFirst imgCount outCount outFirst eos context queueMax reqStore pool) s

/-! ### Requests (R366 to R369) -/

/-- A finite FP32 code. -/
def finite32 (c : Nat) : Bool := !codeNonfinite fp32 c

/-- `a ≤ b` for FP32 codes that are not NaN. -/
def le32 (a b : Nat) : Bool := !fvLt (dec32 b) (dec32 a)

/-- Four-byte words. -/
def words32 (l : List Byte) (n : Nat) : List Nat := (chunksOf 4 n l).map leNat

def upTo64 (n : Nat) : Nat := (n + 63) / 64 * 64

/-- One request at the head of a bucket's data (R367, R368): the request and the offset of its end. -/
def parseRequest (g : Gen) (ids : List Nat) (l : List Byte) : Option (Request × Nat) :=
  let f := fun (o n : Nat) => recField l o n
  let plen := f 4 4
  let nbias := f 52 1
  let masked := bitOf (f 53 1) 1
  let biasAt := 128 + 4 * plen
  let dataEnd := biasAt + 8 * nbias
  let stop := if masked then upTo64 dataEnd + (g.vocab + 7) / 8 else dataEnd
  if l.length < 128 ∨ 131072 < plen ∨ l.length < stop then none
  else
    let prompt := words32 ((l.drop 128).take (4 * plen)) plen
    let bias := (chunksOf 8 nbias ((l.drop biasAt).take (8 * nbias))).map (fun e => (recField e 0 4, recField e 4 4))
    let stops := words32 ((l.drop 56).take (4 * f 54 1)) (f 54 1)
    let r : Request := {
      reqId := f 0 4, promptLen := plen, maxNew := f 8 4, tincture := f 12 2, tversion := f 14 2, shareReq := f 16 4
      shareLen := f 20 4, temp := f 24 4, topP := f 28 4, minP := f 32 4, repPen := f 36 4, freqPen := f 40 4
      presPen := f 44 4, topK := f 48 2, penWindow := f 50 2, flags := f 53 1 % 8, stop := stops, prompt := prompt
      bias := bias, mask := if masked then (l.drop (upTo64 dataEnd)).take ((g.vocab + 7) / 8) else [], bytes := stop }
    if r.reqId ≠ 0 ∧ r.reqId ∉ ids ∧ 1 ≤ plen ∧ 1 ≤ r.maxNew ∧ plen + r.maxNew ≤ g.context
        ∧ plen + r.maxNew ≤ g.pool.maxPages * 64 ∧ r.shareLen ≤ plen
        ∧ [r.temp, r.topP, r.minP, r.repPen, r.freqPen, r.presPen].all finite32
        ∧ le32 0 r.temp ∧ !le32 r.topP 0 ∧ le32 r.topP 0x3F800000 ∧ le32 0 r.minP ∧ le32 r.minP 0x3F800000 ∧ !le32 r.repPen 0
        ∧ r.topK ≤ 1024 ∧ r.penWindow ≤ 4096 ∧ nbias ≤ 64 ∧ f 54 1 ≤ 8
        ∧ (prompt ++ stops ++ bias.map (·.1)).all (fun t => decide (t < g.vocab)) ∧ bias.all (fun b => finite32 b.2) then
      some (r, upTo64 stop)
    else none

/-- The requests of one bucket from address `a`: `.error i` names the first that fails. A request whose bytes carry a poison mark
keeps it (R380). -/
def parseRun (g : Gen) (m : Dev) : Nat → Nat → Nat → List Nat → List Byte → List Request → Except Nat (List Request)
  | 0, _, _, _, _, acc => .ok acc
  | n + 1, a, i, ids, l, acc =>
    match parseRequest g ids l with
    | none => .error i
    | some (r, e) => parseRun g m n (a + e) (i + 1) (r.reqId :: ids) (l.drop e) (acc ++ [{ r with poison := memPoisoned m.mem a r.bytes }])

/-- The requests of the named buckets in order (R369). -/
def parseBuckets (g : Gen) (m : Dev) : List Nat → List Nat → List Request → Except Nat (List Request)
  | [], _, acc => .ok acc
  | b :: bs, ids, acc =>
    let l := bucketData m b
    let n := recField l 0 4
    if 1 ≤ n ∧ n ≤ 16384 then
      match parseRun g m n ((flagAt m b).addr + 64) acc.length (acc.map (·.reqId) ++ ids) (l.drop 64) acc with
      | .error e => .error e
      | .ok acc => parseBuckets g m bs ids acc
    else .error acc.length

/-- GEN_SUBMIT. -/
def specGenSubmit (mb jobId first count : Nat) : CmdSpec where
  cmd := .genSubmit mb jobId first count
  opcode := 0x0402
  mb := mb
  job := some jobId
  phases := some [.generate]
  stretch := true
  buckets := bucketRange first (min count 64)
  par := fun _ => ensure (decide (1 ≤ count ∧ count ≤ 64)) 0x2003
  sta := fun m => match jobById m jobId with
    | none => none
    | some p => ensure p.2.gen.isSome 0x1001
  apply := fun m => match jobById m jobId with
    | none => { m := m }
    | some (js, j) => match j.gen with
      | none => { m := m }
      | some g =>
        let ids := g.queue.map (·.reqId) ++ (liveSeqs m js).map (·.2.reqId)
        match parseBuckets g m (bucketRange first count) ids [] with
        | .error i => { m := m, status := 0x2003, obj := i, body := stateBody m (some jobId) i }
        | .ok rs =>
          if g.queueMax < g.queue.length + rs.length ∨ g.storeBytes < storeUsed m js g + (rs.map (·.bytes)).sum then
            { m := m, status := 0x3001 }
          else { m := updGen m js (fun g => { g with queue := g.queue ++ rs })
                 body := leBytes 4 rs.length ++ leBytes 4 (g.queue.length + rs.length) }

def execGenSubmit (mb jobId first count : Nat) (s : State) : Host.Outcome State Fault Refusal :=
  onCmd (specGenSubmit mb jobId first count) s

/-- STATE of a slot as SEQ_CTX gives it (R399). -/
def seqCode : SeqState → Nat
  | .free => 0 | .waitShare => 1 | .prefill => 2 | .decode => 3

/-- GEN_CANCEL (R385, R386). -/
def specGenCancel (mb jobId reqId slot : Nat) : CmdSpec where
  cmd := .genCancel mb jobId reqId slot
  opcode := 0x0403
  mb := mb
  job := some jobId
  phases := some [.generate]
  par := fun m => firstErr [
    ensure (decide (slot ≤ 4095)) 0x2003,
    (match jobById m jobId with
      | some p => ensure (decide (tfind m.seqs slot ≠ none) && decide ((seqAt m slot).jobSlot = p.1)
          && decide ((seqAt m slot).reqId = reqId)) 0x2008
      | none => none)]
  sta := fun m => ensure (decide ((seqAt m slot).st ≠ .free)) 0x1001 (seqCode (seqAt m slot).st)
  apply := fun m =>
    let c := seqAt m slot
    let at' := if c.cancel then c.cancelStroke
      else strokeOf m (streamOf m ((jobById m jobId).map (·.1))) - 1
    { m := updSeq m slot (fun c => { c with cancel := true, cancelStroke := at' }), body := leBytes 8 at' }

def execGenCancel (mb jobId reqId slot : Nat) (s : State) : Host.Outcome State Fault Refusal :=
  onCmd (specGenCancel mb jobId reqId slot) s

/-- The live slot of a request. -/
def slotOfReq (m : Dev) (js reqId : Nat) : Option Nat := ((liveSeqs m js).find? (fun p => decide (p.2.reqId = reqId))).map (·.1)

/-- GEN_MASK. -/
def specGenMask (mb jobId reqId first : Nat) : CmdSpec where
  cmd := .genMask mb jobId reqId first
  opcode := 0x0404
  mb := mb
  job := some jobId
  phases := some [.generate]
  buckets := [first]
  par := fun m => match jobById m jobId with
    | some p => ensure (slotOfReq m p.1 reqId).isSome 0x2008
    | none => none
  apply := fun m => match jobById m jobId with
    | none => { m := m }
    | some (js, _) => match slotOfReq m js reqId, genOf m js with
      | some s, some g =>
        let a := (flagAt m first).addr
        let n := (g.vocab + 7) / 8
        { m := updSeq m s (fun c => { c with newMask := some (memRead m.mem a n, memPoisoned m.mem a n) }) }
      | _, _ => { m := m }

def execGenMask (mb jobId reqId first : Nat) (s : State) : Host.Outcome State Fault Refusal :=
  onCmd (specGenMask mb jobId reqId first) s

/-! ### Tinctures (R387 to R392) -/

/-- The table entry of a version that a job has loaded. -/
def tinctFind (m : Dev) (js : Nat) (p : Tincture → Bool) : Option (Nat × Tincture) :=
  m.tinctures.find? (fun e => decide (e.2.job = js) && p e.2)

/-- The current version of an identifier. -/
def tinctCurrent (m : Dev) (js id : Nat) : Option (Nat × Tincture) :=
  tinctFind m js (fun t => decide (t.id = id) && decide (t.st = .current))

def updTinct (m : Dev) (e : Nat) (f : Tincture → Tincture) : Dev := { m with tinctures := tupd m.tinctures e f }

/-- The stroke of a job that a boundary has opened. -/
def openedStroke (m : Dev) (js : Nat) : Nat := strokeOf m (streamOf m (some js))

/-- R389, R391: retires a version; without a pin it is freed at the end of the stroke. -/
def tinctRetire (m : Dev) (js e : Nat) : Dev :=
  let n := openedStroke m js
  updTinct m e (fun t => { t with st := .retired, freeAt := if t.pins = 0 then some n else t.freeAt })

/-- Frees an entry and its memory. -/
def tinctFree (m : Dev) (js e : Nat) : Dev :=
  let m := updMem m (fun x => releaseAllocs x (fun a => decide (a.job = some js) && decide (a.use = .tincture e)))
  { m with tinctures := tdel m.tinctures e }

/-- What holds the buckets of a long copy after its command's reply. -/
def copyHolder (kind n : Nat) : Nat := kind * 0x10000 + n

/-- The buckets that a mailbox's command has just taken go on to be held by a copy. -/
def handBuckets (m : Dev) (mb holder : Nat) : Dev :=
  updCtl m (fun c => { c with holds := c.holds.map (fun h => if h.mb = mb ∧ h.due = none then { h with mb := holder } else h) })

/-- The memory under the buckets that a command or a copy holds, in order. -/
def heldRuns (m : Dev) (holder : Nat) : List (Nat × Nat) :=
  (m.ctl.holds.filter (fun h => decide (h.mb = holder) && decide (h.due = none))).map (fun h => ((flagAt m h.bucket).addr, segBytes))

/-- Bytes of share i of a tincture of `len` bytes over `n` dies: the consecutive part of each die, half on each of its two stacks
(R388, R729). The manual does not state the widths by which R45 splits a matrix, so the parts are equal (DESIGN CHOICE, log
entry 16). -/
def tinctPart (len n i : Nat) : Nat :=
  let part := (len + n - 1) / max 1 n
  if i % 2 = 0 then (part + 1) / 2 else part / 2

/-- TINCTURE_LOAD: the copy into the job's HBM begins. -/
def specTinctureLoad (mb jobId tincture count first : Nat) : CmdSpec where
  cmd := .tinctureLoad mb jobId tincture count first
  opcode := 0x0405
  mb := mb
  job := some jobId
  phases := some [.idle, .generate]
  buckets := bucketRange first (min count 4096)
  par := fun _ => ensure (decide (tincture ≤ 65534) && decide (1 ≤ count ∧ count ≤ 4096)) 0x2003
  apply := fun m => match jobById m jobId with
    | none => { m := m }
    | some (js, j) =>
      let bs := bucketRange first count
      let h := bucketBytes m bs 64
      let len := recField h 16 8
      let last := tget 0 j.tinctLast tincture
      let v := if last = 65535 then 1 else last + 1
      let dies := jobDies m js
      if recField h 0 4 ≠ 0x54490001 ∨ recField h 4 2 = 0 ∨ 256 < recField h 4 2 ∨ len < 64 ∨ count * segBytes < len then { m := m, status := 0x2003 }
      else if (tinctFind m js (fun t => decide (t.id = tincture) && decide (t.version = v))).isSome then { m := m, status := 0x3001 }
      else match lowestFree (m.tinctures.map (·.1)) 512 with
        | none => { m := m, status := 0x3001 }
        | some e =>
          match allocate m j.part (some js) (.tincture e) (dies.flatMap (fun d =>
              [(2 * d, segsOf (tinctPart len dies.length 0)), (2 * d + 1, segsOf (tinctPart len dies.length 1))])) with
          | .error s => { m := m, status := s }
          | .ok (m', _) =>
            let entry : Tincture := { job := js, id := tincture, version := v, image := bucketBytes m bs len, mb := mb }
            let m' := { m' with tinctures := tput m'.tinctures e entry }
            let m' := updJob m' js (fun j => { j with tinctLast := tset 0 j.tinctLast tincture v })
            { m := handBuckets m' mb (copyHolder 1 e), body := leBytes 2 v ++ zeros 6, keep := true }

def execTinctureLoad (mb jobId tincture count first : Nat) (s : State) : Host.Outcome State Fault Refusal :=
  onCmd (specTinctureLoad mb jobId tincture count first) s

/-- TINCTURE_UNLOAD: the current version is retired. -/
def specTinctureUnload (mb jobId tincture count first : Nat) : CmdSpec where
  cmd := .tinctureUnload mb jobId tincture count first
  opcode := 0x0406
  mb := mb
  job := some jobId
  phases := some [.idle, .generate]
  par := fun m => firstErr [
    ensure (decide (tincture ≤ 65534) && decide (count = 0) && decide (first = 0)) 0x2003,
    (match jobById m jobId with
      | some p => ensure (tinctCurrent m p.1 tincture).isSome 0x2009
      | none => none)]
  apply := fun m => match (jobById m jobId).bind (fun p => (tinctCurrent m p.1 tincture).map (fun e => (p.1, e))) with
    | none => { m := m }
    | some (js, e) => { m := tinctRetire m js e.1, body := leBytes 2 e.2.version ++ zeros 6 }

def execTinctureUnload (mb jobId tincture count first : Nat) (s : State) : Host.Outcome State Fault Refusal :=
  onCmd (specTinctureUnload mb jobId tincture count first) s

/-- TINCTURE_COPY_DONE (R389): the copy is complete and its digest is checked; the change waits for the next boundary. -/
def tinctureCopyDone (slot tincture version : Nat) (m : Dev) : Dev :=
  match tinctFind m slot (fun t => decide (t.id = tincture) && decide (t.version = version) && decide (t.st = .loading)
      && decide (t.outcome = none)) with
  | none => m
  | some (e, t) =>
    let ok := decide (shake256 8 (t.image.drop 64) = recBytes t.image 24 8)
    let src := heldRuns m (copyHolder 1 e)
    let m := imageCopy m src t.image.length
      (tinctPart t.image.length (jobDies m slot).length) (m.mem.allocs.filter (fun a => decide (a.job = some slot) && decide (a.use = .tincture e)))
    let bad := (cutRuns t.image.length src).any (fun p => memPoisoned m.mem p.1 p.2)
    endBuckets (updTinct m e (fun t => { t with outcome := some (if bad then 0x4001 else if ok then 0 else 0x4002) }))
      (copyHolder 1 e)

def execTinctureCopyDone (slot tincture version : Nat) (s : State) : Host.Outcome State Fault Refusal :=
  onDev (.tinctureCopyDone slot tincture version) (tinctureCopyDone slot tincture version) s

/-- R389 at a boundary of the job: a version whose copy is complete becomes current or is discarded. -/
def tinctBoundary (slot : Nat) (m : Dev) : Dev :=
  (m.tinctures.filter (fun e => decide (e.2.job = slot) && e.2.outcome.isSome)).foldl (fun m e =>
    let st := e.2.outcome.getD 0
    let m := if st = 0 then
        let m := match tinctCurrent m slot e.2.id with
          | some old => tinctRetire m slot old.1
          | none => m
        extendJob (updTinct m e.1 (fun t => { t with st := .current, outcome := none })) slot 0x0405 (shake256 32 e.2.image)
      else tinctFree m slot e.1
    raiseJob m slot 0x0404 st (leBytes 2 e.2.id ++ leBytes 2 e.2.version ++ zeros 4
      ++ leBytes 8 (if st = 0 then openedStroke m slot else 0))) m

/-- R391 at the end of stroke `n` of the job. -/
def tinctStrokeEnd (slot n : Nat) (m : Dev) : Dev :=
  (m.tinctures.filter (fun e => decide (e.2.job = slot) && decide (e.2.pins = 0)
      && (match e.2.freeAt with | some k => decide (k ≤ n) | none => false))).foldl (fun m e =>
    raiseJob (tinctFree m slot e.1) slot 0x0402 0 (leBytes 2 e.2.id ++ leBytes 2 e.2.version)) m

/-! ### GEN_STATUS -/

/-- SEQ_CTX (R399) and SEQ_POS (R400) of a slot. -/
def seqCtxWord (c : SeqCtx) : Nat :=
  seqCode c.st + (b2n (c.cancel && decide (c.st ≠ .free)) <<< 3) + (c.retry % 4 <<< 4) + (b2n c.restoreWait <<< 6)
    + (c.jobSlot <<< 8) + (c.tslot.getD 0 <<< 16) + (b2n c.tslot.isSome <<< 25) + (c.reqId <<< 32)

def seqPosWord (c : SeqCtx) : Nat := c.length % 2 ^ 18 + (c.generated % 2 ^ 18 <<< 32)

/-- GEN_STATUS. -/
def specGenStatus (mb jobId slot : Nat) : CmdSpec where
  cmd := .genStatus mb jobId slot
  opcode := 0x0407
  mb := mb
  job := some jobId
  query := true
  par := fun _ => ensure (decide (slot ≤ 4095) || decide (slot = 0xFFFF)) 0x2003
  apply := fun m => match jobById m jobId with
    | none => { m := m }
    | some (js, j) =>
      let g := j.gen.getD {}
      let c := seqAt m slot
      { m := m
        body := leBytes 8 g.round ++ leBytes 8 g.roundStroke ++ leBytes 4 g.queue.length ++ leBytes 4 (liveSeqs m js).length
          ++ leBytes 8 g.tokens ++ leBytes 8 g.withdrawn ++ leBytes 8 g.heldStrokes ++ leBytes 8 g.restored
          ++ leBytes 2 (m.tinctures.filter (fun e => decide (e.2.job = js))).length ++ zeros 6
          ++ (if slot = 0xFFFF ∨ c.jobSlot ≠ js then zeros 16 else leBytes 8 (seqCtxWord c) ++ leBytes 8 (seqPosWord c)) }

def execGenStatus (mb jobId slot : Nat) (s : State) : Host.Outcome State Fault Refusal := onCmd (specGenStatus mb jobId slot) s

/-! ### NUMERICS_STATUS (R241, R242) -/

/-- The generator table's bytes (R242), all 2,097,152 entries. -/
def gensBytes (n : Numerics) : List Byte :=
  (List.range 2097152).flatMap (fun T => let g := tget (0, 0) n.gens T; leBytes 8 g.1 ++ leBytes 1 g.2 ++ zeros 7)

/-- NUMERICS_STATUS. -/
def specNumericsStatus (mb jobId : Nat) : CmdSpec where
  cmd := .numericsStatus mb jobId
  opcode := 0x0B20
  mb := mb
  job := some jobId
  query := true
  states := some [.active, .quiesced]
  apply := fun m => match jobById m jobId with
    | none => { m := m }
    | some (_, j) =>
      let n := j.num
      { m := m
        body := leBytes 1 n.lsExp ++ zeros 3 ++ leBytes 4 n.finiteRun ++ leBytes 8 n.adamStep ++ leBytes 8 n.skipped
          ++ leBytes 8 n.recomputes ++ leBytes 8 n.saturated ++ leBytes 8 n.masterOverflow ++ shake256 8 (gensBytes n) }

def execNumericsStatus (mb jobId : Nat) (s : State) : Host.Outcome State Fault Refusal := onCmd (specNumericsStatus mb jobId) s

/-! ### The atomiser (R376 to R381) -/

def atmAt (m : Dev) (die : Nat) : Atm := tget {} m.atms die
def updAtm (m : Dev) (die : Nat) (f : Atm → Atm) : Dev := { m with atms := tmod {} m.atms die f }

/-- ATM_BANK_HANDOVER: the header of a command bank that the atomiser has received (R331, R332). -/
def atmHandover (die bank : Nat) (m : Dev) : Dev :=
  let b := bankAt m die bank
  if b.owner = 0xC9 ∧ b.jobValid ∧ !(atmAt m die).banks.any (fun x => decide (x.bank = bank)) then
    let a := bankAddr die bank
    let magic := memNat m.mem a 2
    let count := memNat m.mem (a + 2) 2
    let m := headerRead m die bank
    if magic = 0xA7A1 ∧ 1 ≤ count ∧ count ≤ 16383 then
      updAtm m die (fun t => { t with banks := t.banks ++ [{ bank := bank, job := b.jobSlot, next := 0, count := count }] })
    else
      let m := ownWrite m (a + 8) (zeros 4)
      let m := updAtm m die (fun t => { t with badBatch := true })
      raisePart m (dieOwner m die) 0x0B50 0 (leBytes 1 die ++ leBytes 1 bank ++ leBytes 2 magic ++ leBytes 2 count)
  else m

def execAtmBankHandover (die bank : Nat) (s : State) : Host.Outcome State Fault Refusal :=
  onDev (.atmBankHandover die bank) (atmHandover die bank) s

/-- What a sample reads of its slot's context. -/
structure SampleEnv where
  r : Request
  vocab : Nat
  tokens : List Nat
  d : Nat

/-- R368: the bias of a token: its entries summed from +0 in order. -/
def biasOf (r : Request) (v : Nat) : Nat := (r.bias.filter (fun b => decide (b.1 = v))).foldl (fun a b => add32 a b.2) 0

/-- R377, pass 1: `z` of token `v`, and whether a value formed on the way is NaN or +∞. -/
def zOf (r : Request) (recent : List Nat) (x v : Nat) : Nat × Bool :=
  let open' := !bitOf r.flags 1 || bitOf (leNat [(r.mask.getD (v / 8) 0)]) (v % 8)
  let bad := fun (c : Nat) => codeNonfinite fp32 c && decide (c ≠ 0xFF800000)
  let z0 := if open' then x else 0xFF800000
  let z1 := add32 z0 (biasOf r v)
  let cnt := recent.count v
  let z2 := if 0 < cnt then (if fvLt (.fin false 0 0) (dec32 z1) then div32 z1 r.repPen else mul32 z1 r.repPen) else z1
  let z3 := if 0 < cnt then sub32 z2 (add32 (mul32 r.freqPen (nat32 cnt)) r.presPen) else z2
  let z4 := if fvLt (.fin false 0 0) (dec32 r.temp) then div32 z3 r.temp else z3
  (z4, bad x || bad z1 || bad z2 || bad z3 || bad z4)

/-- R377: the running maximum and sum over blocks of 256. -/
def maxSum (bs : List (List Nat)) : Nat × Nat :=
  bs.foldl (fun a b =>
    if b.all (fun z => decide (z = 0xFF800000)) then a
    else
      let mb := b.foldl maxCode 0xFF800000
      let up := fvLt (dec32 a.1) (dec32 mb)
      let l := if up then mul32 a.2 (exp32 (sub32 a.1 mb)) else a.2
      let mx := if up then mb else a.1
      (mx, add32 l (rne32 (exactSum (b.map (fun z => dec32 (exp32 (sub32 z mx)))))))) (0xFF800000, 0)

/-- R378: the candidates, in the order in which pass 2 takes them; a token whose z is −∞ is left out. -/
def candidates (r : Request) (z : List (Nat × Nat)) : List (Nat × Nat) :=
  let z := z.filter (fun c => decide (c.1 ≠ 0xFF800000))
  let sorted := z.mergeSort (fun a b => !fvLt (dec32 a.1) (dec32 b.1))
  if fvZero (dec32 r.temp) then sorted.take 1
  else if r.topK ≠ 0 then sorted.take r.topK
  else if fvLt (dec32 r.topP) (.fin false 1 0) || fvLt (.fin false 0 0) (dec32 r.minP) then sorted.take 1024
  else z

/-- The candidates kept while the sum before them is below top_p: (p, z, v, running sum). -/
def keepTopP (topP : Nat) : Nat → List (Nat × Nat × Nat) → List (Nat × Nat × Nat × Nat)
  | _, [] => []
  | s, (p, z, v) :: l =>
    if fvLt (dec32 s) (dec32 topP) then (p, z, v, add32 s p) :: keepTopP topP (add32 s p) l else []

/-- R377 to R380 on logits that are not poisoned. -/
def sampleFrom (e : SampleEnv) (x : List Nat) : Sampled :=
  let recent := e.tokens.drop (e.tokens.length - min e.r.penWindow e.tokens.length)
  let zs := (List.zip (List.range x.length) x).map (fun p => (zOf e.r recent p.2 p.1, p.1))
  if zs.any (fun z => z.1.2) then .ended 4
  else
    let z := zs.map (fun z => (z.1.1, z.2))
    if z.all (fun c => decide (c.1 = 0xFF800000)) then .ended 5
    else
      let ml := maxSum (chunksOf 256 (x.length / 256 + 1) (z.map (·.1)))
      let ps := (candidates e.r z).map (fun c => (div32 (exp32 (sub32 c.1 ml.1)) ml.2, c.1, c.2))
      let p0 := (ps.map (·.1)).foldl (fun a p => maxCode a p) 0
      let floor := mul32 e.r.minP p0
      let kept := keepTopP e.r.topP 0 (ps.filter (fun p => !fvLt (dec32 p.1) (dec32 floor)))
      match kept.getLast? with
      | none => .ended 5
      | some last =>
        let r := rne32 (fvMul (.fin false e.d (-32)) (dec32 last.2.2.2))
        let pick := (kept.find? (fun k => fvLt (dec32 r) (dec32 k.2.2.2))).getD last
        .token pick.2.2.1 (sub32 (sub32 pick.2.1 ml.1) (log32 ml.2))

/-- R381: the cycles of one descriptor. -/
def sampleCycles (r : Request) (vocab generated : Nat) : Nat :=
  let up := fun (n k : Nat) => (n + k - 1) / k
  let whole := up vocab 256 + 40
  let pass2 := if fvZero (dec32 r.temp) then up 1 16 + 40
    else if r.topK ≠ 0 then up r.topK 16 + 40
    else if fvLt (dec32 r.topP) (.fin false 1 0) || fvLt (.fin false 0 0) (dec32 r.minP) then up 1024 16 + 40 else whole
  300 + up (min r.penWindow generated) 16 + up r.bias.length 16 + up vocab 256 + pass2

/-- A range that begins at a multiple of `al` and lies in one bank that the atomiser owns for the job (R333, R376). -/
def inAtmBank (m : Dev) (die job al addr len : Nat) : Bool :=
  match placeOf addr with
  | .spad d b => decide (d = die) && decide (addr % al = 0) && decide (addr % 0x100000 + len ≤ 0x100000)
      && ownsBank m (die * 256 + 0xC9) job die b
  | _ => false

/-- A descriptor of the atomiser ends (R331, R376, R401). -/
def atmEnd (die : Nat) (b : CmdBank) (addr : Nat) (d : List Byte) (result : Nat) (m : Dev) : Dev :=
  let m := ownWrite m (addr + 60) (leBytes 1 result ++ leBytes 1 (b2n (decide (result = 4)) + 2 * b2n (decide (result = 6))))
  let b' := { b with next := b.next + 1, done := b.done + 1, failed := b.failed + (if result = 0 then 0 else 1) }
  let m := ownWrite m (bankAddr die b.bank + 8) (leBytes 4 b'.done ++ leBytes 4 b'.failed)
  updAtm m die (fun t => { t with
    banks := if b'.next < b'.count then b' :: t.banks.drop 1 else t.banks.drop 1
    nonfinite := t.nonfinite || decide (result = 4), noToken := t.noToken || decide (result = 5)
    poison := t.poison || decide (result = 6), lastTag := recField d 56 2, samples := (t.samples + 1) % 2 ^ 64 })

/-- SAMPLE: the next descriptor of the atomiser's first command bank. -/
def sample (die : Nat) (m : Dev) : Dev :=
  match (atmAt m die).banks with
  | [] => m
  | b :: _ =>
    let a := bankAddr die b.bank + 64 + 64 * b.next
    let d := memRead m.mem a 64
    let seq := recField d 4 2
    let c := seqAt m seq
    if anyByte d 2 2 || anyByte d 6 2 || anyByte d 24 32 || anyByte d 58 2 || anyByte d 62 2 then atmEnd die b a d 1 m
    else match genOf m b.job, c.req with
    | some g, some r =>
      let lb := if recField d 1 1 = 0 then 4 else 2
      let la := recField d 8 8
      let oa := recField d 16 8
      if recField d 0 1 ≠ 1 ∨ 1 < recField d 1 1 ∨ 4095 < seq ∨ seq % 8 ≠ die ∨ c.jobSlot ≠ b.job ∨ c.st = .free then
        atmEnd die b a d 2 m
      else if !(inAtmBank m die b.job 64 la (g.vocab * lb) && inAtmBank m die b.job 1 oa 16) then atmEnd die b a d 3 m
      else
        let poisoned := memPoisoned m.mem la (g.vocab * lb) || r.poison
        let raw := (chunksOf lb g.vocab (memRead m.mem la (g.vocab * lb))).map leNat
        let x := if lb = 4 then raw else raw.map (· <<< 16)
        let dr := draw m b.job (seqThread seq)
        let res := if poisoned then .ended 6 else sampleFrom { r := r, vocab := g.vocab, tokens := c.tokens, d := dr.1 } x
        let m := updSeq (genStore b.job (seqThread seq) 1 dr.2) seq (fun c => { c with sampled := res })
        let m := updAtm m die (fun t => { t with job := some b.job, active := (t.active + sampleCycles r g.vocab c.generated) % 2 ^ 64 })
        match res with
        | .token t lp =>
          let fl := drawFree m 8
          atmEnd die b a d 0 (ownWrite fl.2 oa (leBytes 4 t ++ leBytes 4 lp ++ leBytes 1 fl.1 ++ zeros 7))
        | .ended n => atmEnd die b a d n m
        | .none => atmEnd die b a d 0 m
    | _, _ => atmEnd die b a d 2 m

def execSample (die : Nat) (s : State) : Host.Outcome State Fault Refusal := onDev (.sample die) (sample die) s

/-! ### Commit (R364, R365 item 1, R382 to R385, R393 to R396) -/

/-- A token record (R382). -/
def tokenRecord (reqId index token logprob slot flags reason status : Nat) : List Byte :=
  leBytes 4 reqId ++ leBytes 4 index ++ leBytes 4 token ++ leBytes 4 logprob ++ leBytes 2 slot ++ leBytes 1 flags
    ++ leBytes 1 reason ++ leBytes 2 status ++ zeros 10

/-- STATUS of an end reason (R383). -/
def endStatus (reason : Nat) : Nat :=
  match reason with
  | 3 => 0x6002 | 4 => 0x4001 | 7 => 0x3004 | 8 => 0x2009 | _ => 0

/-- A sequence ends: its pages are released, its tincture's pins fall, its slot is FREE (R365 item 1). -/
def endSeq (js s : Nat) (m : Dev) : Dev :=
  let c := seqAt m s
  let m := releaseSeq js s m
  let m := match c.tslot with
    | some e => updTinct m e (fun t => { t with pins := t.pins - 1 })
    | none => m
  updSeq m s (fun c => { jobSlot := c.jobSlot, reqId := c.reqId })

/-- The end record of a sequence without a token (R382): INDEX is that of the last token produced; the manual gives
none when no token was, and then it is free. -/
def endRecord (s : Nat) (c : SeqCtx) (produced reason : Nat) (m : Dev) : List Byte × Dev :=
  let f := if produced = 0 then drawFree m 32 else (produced - 1, m)
  let reason := if c.cancel then 3 else reason
  (tokenRecord c.reqId f.1 0 0 s 1 reason (endStatus reason), f.2)

/-- R393 items 1 and 2. -/
def rewind (js s : Nat) (m : Dev) : Dev :=
  let c := seqAt m s
  let m := truncateSeq js s c.openLen m
  setGenEntry m js (seqThread s) c.openGen

/-- Clears what a round leaves in a slot's context. -/
def closeSeq (c : SeqCtx) : SeqCtx :=
  { c with rows := 0, samples := false, sampled := .none, attPoison := false, kvFull := false, nonfinite := false }

/-- The job reads the block at an address: its own memory, or memory granted to its partition (R394). -/
def readsBlock (m : Dev) (js a : Nat) : Bool :=
  match jobAt m js, allocOfSeg m.mem (a / segBytes) with
  | some j, some x => decide (x.job = some js) || (decide (x.part ≠ j.part) && segAdmits m 0 j.part (a / segBytes) false)
  | _, _ => false

/-- R395: a weight block that the job reads and whose restoration failed is still poisoned. -/
def badWeights (m : Dev) (js : Nat) : Bool :=
  m.jobs.any (fun q => match q.2.gen with
    | some g => g.badBlocks.any (fun a => memPoisoned m.mem a 64 && readsBlock m js a)
    | none => false)

/-- The prompt length of a slot's request. -/
def promptLen (c : SeqCtx) : Nat := match c.req with | some r => r.promptLen | none => 0

/-- R393 at the commit: the round is withdrawn for the sequence, or the sequence ends POISONED (R395). -/
def withdraw (js s : Nat) (x : List (List Byte) × Dev) : List (List Byte) × Dev :=
  let c := seqAt x.2 s
  let m := rewind js s x.2
  let m := updGen m js (fun g => { g with withdrawn := g.withdrawn + 1 })
  if (badWeights m js || c.endPoisoned) ∨ 2 ≤ c.retry then
    let r := endRecord s c c.generated 4 m
    (x.1 ++ [r.1], endSeq js s r.2)
  else
    let waits := (m.restores.filter (fun r => readsBlock m js r.2)).map (·.2)
    (x.1, updSeq m s (fun c => { closeSeq c with
      retry := c.retry + 1, retried := true, restoreWait := !waits.isEmpty, waitBlocks := waits }))

/-- A token committed for a slot (R382, R383, R385). -/
def commitToken (js s : Nat) (g : Gen) (t lp : Nat) (x : List (List Byte) × Dev) : List (List Byte) × Dev :=
  let c := seqAt x.2 s
  match c.req with
  | none => x
  | some r =>
    let stop := (decide (t = g.eos) && !bitOf r.flags 2) || decide (t ∈ r.stop)
    let reason := if stop then 1 else if r.maxNew ≤ c.generated + 1 then 2 else 0
    let flags := b2n (decide (reason ≠ 0)) + 2 + 4 * b2n stop + 8 * b2n c.retried + 16 * b2n c.saturated
    let m := updSeq x.2 s (fun c => { closeSeq c with
      length := if c.st = .waitShare then c.length else c.length + c.rows
      st := if c.st = .waitShare then .waitShare else .decode
      generated := c.generated + 1, tokens := c.tokens ++ [t], retry := 0, retried := false, saturated := false })
    if c.cancel then
      if reason = 0 then (x.1, m)
      else
        let e := endRecord s c (c.generated + 1) 3 m
        (x.1 ++ [e.1], endSeq js s e.2)
    else
      let rec' := tokenRecord c.reqId c.generated t (if bitOf r.flags 0 then lp else 0) s flags reason 0
      (x.1 ++ [rec'], if reason = 0 then m else endSeq js s m)

/-- The commit of one slot. -/
def commitSeq (js : Nat) (g : Gen) (x : List (List Byte) × Dev) (s : Nat) : List (List Byte) × Dev :=
  let c := seqAt x.2 s
  let finish := fun (reason : Nat) =>
    let r := endRecord s c c.generated reason x.2
    (x.1 ++ [r.1], endSeq js s r.2)
  if c.endPoisoned then finish 4
  else if c.rows = 0 ∧ !c.samples then x
  else if c.attPoison ∨ (c.samples ∧ c.sampled = .ended 6) then withdraw js s x
  else if c.kvFull then finish 7
  else if c.nonfinite ∨ (c.samples ∧ c.sampled = .ended 4) then finish 5
  else if !c.samples then
    (x.1, updSeq x.2 s (fun c => { closeSeq c with length := c.length + c.rows, retry := 0, retried := false
                                                   st := if c.generated ≠ 0 ∧ promptLen c ≤ c.length + c.rows then .decode else c.st }))
  else match c.sampled with
    | .token t lp => commitToken js s g t lp x
    | .ended _ => finish 6
    | .none => (x.1, updSeq x.2 s closeSeq)

/-- R384: writes the records of a commit into the next output bucket, when it reads DEVICE. -/
def writeOutput (js : Nat) (recs : List Byte) (m : Dev) : Option Dev :=
  match genOf m js with
  | none => some m
  | some g =>
    let b := g.outFirst + g.outNext
    let f := flagAt m b
    if f.owner = 2 ∧ b ∉ m.ctl.bucketFlips then
      let m := ownWrite m f.addr recs
      let st := bucketStream m b
      let m := updCtl m (fun c => { c with holds := c.holds ++ [{ bucket := b, mb := copyHolder 3 js, due := some (st, strokeOf m st), fill := some (recs.length, f.tag) }] })
      some (updGen m js (fun g => { g with
        held := none, outNext := (g.outNext + 1) % g.outCount
        tokens := g.tokens + ((chunksOf 32 recs.length recs).filter (fun r => bitOf (recField r 18 1) 1)).length }))
    else none

/-- R210, R213: an amax exponent goes into a tensor's history at its head. -/
def histRecord (h : Hist) (e : Nat) : Hist := { head := (h.head + 1) % 16, hist := setNth h.hist (h.head % 16) (e % 256) }

/-- R210 to R213: tensor records go into the numeric state: the histories only where they apply (R228), recomputes and saturated tensors always. -/
def recordTensors (applied : Bool) (ts : List (Nat × Nat × Nat × Bool)) (n : Numerics) : Numerics :=
  ts.foldl (fun n t =>
    let r := min 4 t.2.2.1
    { n with
      hists := if applied then tput n.hists t.1 (histRecord (tget {} n.hists t.1) ((t.2.1 + r) % 256)) else n.hists
      recomputes := (n.recomputes + r) % 2 ^ 64
      saturated := (n.saturated + b2n t.2.2.2) % 2 ^ 64 }) n

/-- R212, R384: what the programs of a round record of its scaled tensors (free values): the job's statistics, and SATURATED in the records
of the round's sequences. -/
def roundTensors (js : Nat) (m : Dev) : Dev :=
  if (liveSeqs m js).isEmpty then m
  else
    let ts := Config.tensorSteps m.free
    let sat' := ts.any (fun t => t.2.2.2)
    let m := updJob { m with free := m.free + 1 } js (fun j => { j with num := recordTensors true ts j.num })
    { m with seqs := tmap m.seqs (fun _ c => if c.jobSlot = js then { c with saturated := c.saturated || sat' } else c) }

/-- R365 item 1: the commit of the round that has ended; answers whether the next round may open. -/
def genCommit (js : Nat) (m : Dev) : Bool × Dev :=
  match genOf m js with
  | none => (false, m)
  | some g =>
    let m := roundTensors js m
    let r := ((liveSeqs m js).map (·.1)).foldl (fun x s =>
      let y := commitSeq js g x s
      let own := (g.endRecs.filter (fun e => decide (e.1 = s))).map (·.2)
      (y.1 ++ own, y.2)) ([], m)
    let live := (liveSeqs m js).map (·.1)
    let recs := r.1 ++ (g.endRecs.filter (fun e => !decide (e.1 ∈ live))).map (·.2)
    let recs := recs.mergeSort (fun a b => decide (recField a 16 2 ≤ recField b 16 2))
    let m := updGen r.2 js (fun g => { g with left := 0, endRecs := [] })
    if recs.isEmpty then (true, m)
    else match writeOutput js recs.flatten m with
      | some m => (true, m)
      | none =>
        let m := updGen m js (fun g => { g with held := some recs.flatten, heldStrokes := g.heldStrokes + 1 })
        (false, raiseJob m js 0x0401 0 (leBytes 4 (g.outFirst + g.outNext) ++ zeros 4 ++ leBytes 8 (g.round - 1)))

/-! ### Opening (R362, R363, R365 items 2 to 4, R370 to R374) -/

/-- R390, R392: the version a request takes: `none` when it does not resolve, `some none` when it names none. -/
def tinctResolve (m : Dev) (js : Nat) (r : Request) : Option (Option Nat) :=
  if r.tincture = 0xFFFF then some none
  else
    let e := if r.tversion = 0 then tinctCurrent m js r.tincture
      else tinctFind m js (fun t => decide (t.id = r.tincture) && decide (t.version = r.tversion) && decide (t.st ≠ .loading))
    e.map (fun x => some x.1)

/-- R372: admits requests in queue order. -/
def takeWaiting (js : Nat) : Nat → Dev → Dev
  | 0, m => m
  | fuel + 1, m =>
    match genOf m js with
    | none => m
    | some g =>
      match g.queue, lowestFree ((m.seqs.filter (fun p => decide (p.2.st ≠ .free))).map (·.1)) g.pool.seqs with
      | r :: l, some s =>
        let m := updGen m js (fun g => { g with queue := l })
        match tinctResolve m js r with
        | none =>
          let f := drawFree m 32
          takeWaiting js fuel (updGen f.2 js (fun g => { g with
            endRecs := g.endRecs ++ [(s, tokenRecord r.reqId f.1 0 0 s 1 8 (endStatus 8))] }))
        | some t =>
          let m := match t with
            | some e => updTinct m e (fun t => { t with pins := t.pins + 1, freeAt := none })
            | none => m
          takeWaiting js fuel { m with seqs := tset {} m.seqs s {
            st := if r.shareReq = 0 then .prefill else .waitShare, jobSlot := js, tslot := t, reqId := r.reqId
            req := some r, admitRound := g.round } }
      | _, _ => m

/-- The sequences of a job in admission order. -/
def byAdmission (m : Dev) (js : Nat) : List (Nat × SeqCtx) :=
  (liveSeqs m js).mergeSort (fun a b => decide (a.2.admitRound < b.2.admitRound) || (decide (a.2.admitRound = b.2.admitRound) && decide (a.1 ≤ b.1)))

/-- R374: the live request that another shares with, admitted before it. -/
def sharerOf (m : Dev) (js s : Nat) (c : SeqCtx) : Option (Nat × SeqCtx) :=
  match c.req with
  | none => none
  | some r => (liveSeqs m js).find? (fun p => decide (p.2.reqId = r.shareReq)
      && (decide (p.2.admitRound < c.admitRound) || (decide (p.2.admitRound = c.admitRound) && decide (p.1 < s))))

/-- R374 at an opening for one slot. -/
def shareStep (js : Nat) (m : Dev) (s : Nat) : Dev :=
  let c := seqAt m s
  match c.req with
  | none => m
  | some r =>
    if c.st ≠ .waitShare then m
    else match sharerOf m js s c with
      | none => updSeq m s (fun c => { c with st := .prefill, length := 0 })
      | some (s2, c2) =>
        if c2.length < r.shareLen then m
        else if r.shareLen < r.promptLen then
          updSeq (shareSeq js s s2 r.shareLen m) s (fun c => { c with st := .prefill, length := r.shareLen })
        else if c.generated ≠ 0 then
          updSeq (shareSeq js s s2 r.shareLen m) s (fun c => { c with st := .decode, length := r.shareLen })
        else updSeq (shareSeq js s s2 (r.promptLen - 1) m) s (fun c => { c with st := .prefill, length := r.promptLen - 1 })

/-- R363: rows of the round, DECODE first, then PREFILL in admission order. -/
def assignRows (js rows : Nat) (m : Dev) : Dev :=
  let live := (byAdmission m js).filter (fun p => !p.2.restoreWait)
  let dec := (live.filter (fun p => decide (p.2.st = .decode))).take rows
  let m := dec.foldl (fun m p => updSeq m p.1 (fun c => { c with rows := 1, samples := true })) m
  ((live.filter (fun p => decide (p.2.st = .prefill))).foldl (fun x p =>
    match p.2.req with
    | none => x
    | some r =>
      let left := r.promptLen - p.2.length
      let k := min x.1 left
      (x.1 - k, updSeq x.2 p.1 (fun c => { c with rows := k, samples := decide (k = left ∧ 0 < k) && decide (c.generated = 0) })))
    (rows - dec.length, m)).2

/-- R374 item 2: a request that waits for a sharer whose prompt completes in this round samples with it. -/
def rideAlong (js : Nat) (m : Dev) (s : Nat) : Dev :=
  let c := seqAt m s
  match c.req, sharerOf m js s c with
  | some r, some (_, c2) =>
    if c.st = .waitShare ∧ c.generated = 0 ∧ !c.restoreWait ∧ r.shareLen = r.promptLen ∧ c2.st = .prefill ∧ c2.samples
        ∧ promptLen c2 = r.promptLen then
      updSeq m s (fun c => { c with samples := true })
    else m
  | _, _ => m

/-- R365 item 2: the retired versions without a pin are freed at the end of the stroke that the boundary opens. -/
def tinctMark (js : Nat) (m : Dev) : Dev :=
  let n := openedStroke m js
  { m with tinctures := tmap m.tinctures (fun _ t =>
      if t.job = js ∧ t.st = .retired ∧ t.pins = 0 ∧ t.freeAt = none then { t with freeAt := some n } else t) }

/-- R365 items 2 to 4: a round opens. -/
def openRound (js : Nat) (m : Dev) : Dev :=
  match genOf m js with
  | none => m
  | some g =>
    let n := openedStroke m js
    let m := updGen (tinctMark js m) js (fun g => { g with round := g.round + 1, roundStroke := n, left := g.roundStrokes })
    let m := takeWaiting js (g.queue.length) m
    let m := ((byAdmission m js).map (·.1)).foldl (shareStep js) m
    let m := assignRows js g.rows m
    let m := ((byAdmission m js).map (·.1)).foldl (rideAlong js) m
    ((liveSeqs m js).map (·.1)).foldl (fun m s => updSeq m s (fun c => { c with
      openLen := c.length, openGen := genEntry m js (seqThread s)
      req := match c.newMask, c.req with
        | some k, some r => some { r with mask := k.1, flags := r.flags ||| 2, poison := r.poison || k.2 }
        | _, q => q
      newMask := none })) m

/-- R365: what the service does at a boundary of the job, between steps 4 and 5 of R77. A configuration is in force once its image has
been copied (R362, DEDUCED, log entry 16). -/
def genBoundary (js : Nat) (m : Dev) : Dev :=
  match jobAt m js with
  | none => m
  | some j =>
    if j.phase ≠ .generate then m
    else match j.gen with
      | none => m
      | some g =>
        if 1 < g.left then updGen m js (fun g => { g with left := g.left - 1 })
        else if g.left = 1 then
          let r := genCommit js m
          if r.1 then openRound js r.2 else tinctMark js r.2
        else if m.ctl.waits.any (fun w => decide (w.why = .imageCopy js 1)) then m
        else match g.held with
          | none => openRound js m
          | some _ => updGen m js (fun g => { g with heldStrokes := g.heldStrokes + 1 })

/-- OUTPUT_BUCKET_READY (R384): the held bucket reads DEVICE, and the records are written. -/
def outputReady (slot : Nat) (m : Dev) : Dev :=
  match (genOf m slot).bind (·.held) with
  | none => m
  | some recs => (writeOutput slot recs m).getD m

def execOutputBucketReady (slot : Nat) (s : State) : Host.Outcome State Fault Refusal :=
  onDev (.outputBucketReady slot) (outputReady slot) s

/-- R397: the job leaves GENERATE in the middle of a round. -/
def genLeave (js : Nat) (m : Dev) : Dev :=
  match genOf m js with
  | none => m
  | some g =>
    if g.left = 0 then m
    else
      let m := ((liveSeqs m js).map (·.1)).foldl (fun m s =>
        if (seqAt m s).rows = 0 ∧ !(seqAt m s).samples then m
        else updSeq (rewind js s m) s (fun c => { closeSeq c with retried := true })) m
      updGen m js (fun g => { g with left := 0 })

/-- R353, R391 at the end of stroke `n` of a job. -/
def genStrokeEnd (js n : Nat) (m : Dev) : Dev :=
  let m := tinctStrokeEnd js n m
  (List.range 8).foldl (fun m d => poolWater d js (updPool m d js poolStrokeEnd)) m

/-- A block that sequences waited for is settled (R393, R395). -/
def settleBlock (a : Nat) (failed : Bool) (m : Dev) : Dev :=
  { m with seqs := tmap m.seqs (fun _ c =>
      if a ∈ c.waitBlocks then
        let w := c.waitBlocks.filter (fun b => decide (b ≠ a))
        { c with waitBlocks := w, restoreWait := !w.isEmpty, endPoisoned := c.endPoisoned || failed }
      else c) }

/-- The service's tables lose everything of a job: its slots, its pools, its tinctures. -/
def genForget (js : Nat) (m : Dev) : Dev :=
  let gone := (m.restores.filter (fun r => decide (r.1 = js))).map (·.2)
  let m := gone.foldl (fun m a => settleBlock a false m) m
  { m with
    seqs := tkeep m.seqs (fun _ c => decide (c.jobSlot ≠ js) || decide (c = {}))
    pools := tkeep m.pools (fun k _ => decide (k % 16 ≠ js))
    tinctures := tkeep m.tinctures (fun _ t => decide (t.job ≠ js))
    restores := m.restores.filter (fun r => decide (r.1 ≠ js)) }

end Sys2Proof.Machine
end

