-- ==== Sys2Proof/Machine/Slices.lean ====
section
/-! DEFINITION. Sys2Proof/Machine/Slices.lean: layout images, layout regions and slice records (R425, R523 to R525), the
conversions of the sluice between slice formats (R527) and its compression (R530). -/

namespace Sys2Proof.Machine

/-! ### Layout entries (R523) -/

def slDies (e : Nat) : Nat := e % 256
def slFmt (e : Nat) : Nat := e >>> 8 % 16
def slTrans (e : Nat) : Bool := bitOf e 12
def slOff (e : Nat) : Nat := (e >>> 16) % 2 ^ 40 * 64

/-- The lowest die that holds a slice. -/
def slLowest (e : Nat) : Nat := ((bitsOf 8 (slDies e)).head?).getD 0

/-- A slice is a tile of 256 × 256 parameters (R425). -/
def sliceParams : Nat := 65536

/-- R524: bytes of the packed elements, of the scale rows, and of the record with its trailer. -/
def sliceData (fmt : Nat) : Nat := sliceParams * elemBits fmt / 8
def sliceScales (fmt : Nat) : Nat := if isMx fmt then 2048 else 0
def sliceRecord (fmt : Nat) : Nat := (if fmt = 15 then sliceParams * 4 else sliceData fmt) + sliceScales fmt + 64

/-- A format of a slice record. -/
def sliceFmtOk (fmt : Nat) : Bool := (fmtOf fmt).isSome

/-! ### Regions (R524) -/

/-- The base addresses of the two halves of die `d`'s region, by the tag of the layout that it holds. -/
def regionBase (m : Dev) (js tag d : Nat) : Option (Nat × Nat) :=
  let find := fun (u : Nat) => m.mem.allocs.find? (fun a => decide (a.job = some js) && decide (a.use = .layoutRegion tag)
    && decide (segUnit a.first = u))
  match find (2 * d), find (2 * d + 1) with
  | some a, some b => some (a.first * segBytes, b.first * segBytes)
  | _, _ => none

/-- The pieces of memory under bytes [o, o + n) of a region whose halves are `half` bytes long. -/
def regionPieces (b : Nat × Nat) (half o n : Nat) : List (Nat × Nat) :=
  if o + n ≤ half then [(b.1 + o, n)]
  else if half ≤ o then [(b.2 + (o - half), n)]
  else [(b.1 + o, half - o), (b.2, o + n - half)]

/-- The memory under bytes [o, o + n) of a list of runs, each an address and a length. -/
def spanPieces : List (Nat × Nat) → Nat → Nat → List (Nat × Nat)
  | [], _, _ => []
  | p :: ps, o, n =>
    if n = 0 then []
    else if p.2 ≤ o then spanPieces ps (o - p.2) n
    else (p.1 + o, min n (p.2 - o)) :: spanPieces ps 0 (n - min n (p.2 - o))

def piecesRead (m : Mem) (ps : List (Nat × Nat)) : List Byte := ps.flatMap (fun p => memRead m p.1 p.2)
def piecesPoisoned (m : Mem) (ps : List (Nat × Nat)) : Bool := ps.any (fun p => memPoisoned m p.1 p.2)

/-- Writes bytes over pieces, poisoned or not. -/
def piecesWrite (m : Dev) (l : List Byte) (poisoned : Bool) : List (Nat × Nat) → Dev
  | [] => m
  | p :: ps =>
    let m := ownWrite m p.1 (l.take p.2)
    piecesWrite (if poisoned then updMem m (fun x => memPoison x p.1 p.2) else m) (l.drop p.2) poisoned ps

/-- The layout of a job in force. -/
def layoutOf (j : Job) : Option Layout := j.layoutCur

/-- The entry of a slice. -/
def layoutEntry (l : Layout) (s : Nat) : Nat := nth 0 l.entries s

/-- The pieces of a slice's record in die `d`'s region. -/
def slicePieces (m : Dev) (js tag d : Nat) (l : Layout) (s : Nat) : List (Nat × Nat) :=
  match regionBase m js tag d with
  | some b => regionPieces b (l.regionBytes / 2) (slOff (layoutEntry l s)) (sliceRecord (slFmt (layoutEntry l s)))
  | none => []

/-! ### Collectives of the module's engines (R516, R536, R538) -/

/-- A collective of an engine, on channel VC0 with the default chunk (DESIGN CHOICE, log entry 17: the manual names neither).
`part` gives each die's part. -/
def engineColl (slot : Nat) (poster : Poster) (group op red typ root rootDie epoch bytes : Nat) (dies : List Nat)
    (part : Nat → EnginePart) : Coll :=
  { slot, group, seq := 0, op, red, typ, chunkLog := 18, root, rootDie, vc := 0, epoch, bytes, digest := 0, poster
    dies := dies.map (fun d => { die := d, src := 0, dst := 0, doneAddr := 0, stageFirst := 0, stageCount := 0, digest := 0
                                 engine := some (part d) }) }

/-! ### Elements of a slice record -/

/-- Element codes of a record, row by row as they are stored. -/
def sliceCodes (fmt : Nat) (rec' : List Byte) : List Nat :=
  let bits := if fmt = 15 then 32 else elemBits fmt
  if bits % 8 = 0 then (chunksOf (bits / 8) sliceParams rec').map leNat
  else
    -- four elements of 6 bits in three bytes, two of 4 bits in one (R161)
    let group := if bits = 6 then 3 else 1
    let per := if bits = 6 then 4 else 2
    (chunksOf group (sliceParams / per) rec').flatMap (fun g => (List.range per).map (fun i => bitField (leNat g) (bits * i) bits))

/-- Packs element codes (R161). -/
def packCodes (fmt : Nat) (l : List Nat) : List Byte :=
  let bits := if fmt = 15 then 32 else elemBits fmt
  if bits % 8 = 0 then l.flatMap (leBytes (bits / 8))
  else
    let group := if bits = 6 then 3 else 1
    let per := if bits = 6 then 4 else 2
    (chunksOf per (l.length / per + 1) l).flatMap (fun g => leBytes group ((List.zip (List.range per) g).foldl (fun a x => a + x.2 <<< (bits * x.1)) 0))

/-- The transpose of a tile of 256 × 256. -/
def transpose256 {α : Type} (d : α) (l : List α) : List α :=
  let rows := chunksOf 256 256 l
  (List.range 256).flatMap (fun c => rows.map (fun r => r.getD c d))

/-- The values of a record in the tile's own orientation. -/
def sliceVals (fmt : Nat) (trans : Bool) (rec' : List Byte) : List FVal :=
  let f := (fmtOf fmt).getD fp32
  let codes := sliceCodes fmt rec'
  let vals := codes.map (fdec f)
  let vals :=
    if isMx fmt then
      let sc := (rec'.drop (sliceData fmt)).take 2048
      (List.zip (List.range sliceParams) vals).map (fun x =>
        match scaleExp (recField sc (x.1 / 256 / 32 * 256 + x.1 % 256) 1) with
        | some k => fvScale x.2 k
        | none => .nan false)
    else if fmt = 0 ∨ fmt = 1 then
      let e := recField rec' (sliceData fmt) 1
      vals.map (fun v => fvScale v (if e < 128 then (e : Int) else (e : Int) - 256))
    else vals
  if trans then transpose256 (.fin false 0 0) vals else vals

/-- A record of the given format from the values of the tile (R205, R206, R527). -/
def makeSlice (fmt : Nat) (trans : Bool) (vals : List FVal) : List Byte :=
  let f := (fmtOf fmt).getD fp32
  let vals := if trans then transpose256 (.fin false 0 0) vals else vals
  if isMx fmt then
    let rows := chunksOf 256 256 vals
    -- block g of column c holds rows 32 g to 32 g + 31
    let blocks := (List.range 8).map (fun g => (List.range 256).map (fun c =>
      quantBlock f ((List.range 32).map (fun i => (rows.getD (32 * g + i) []).getD c (.fin false 0 0)))))
    let codes := (List.range 256).flatMap (fun r => (blocks.getD (r / 32) []).map (fun b => b.2.getD (r % 32) 0))
    packCodes fmt codes ++ (blocks.flatMap (fun g => g.flatMap (fun b => leBytes 1 b.1))) ++ zeros 64
  else if fmt = 0 ∨ fmt = 1 then
    let e := tileExp f vals
    packCodes fmt (vals.map (tileElem f e)) ++ leBytes 1 ((e + 256) % 256).toNat ++ zeros 63
  else packCodes fmt (vals.map (fun v => (fcvt f none v).1)) ++ zeros 64

/-- R527: the sluice supports the conversion. -/
def convertible (src dst : Nat) : Bool :=
  decide (src = dst) || (decide (src = 15) && decide (dst = 7)) || (decide (src = 7) && decide (dst = 15))
    || ((decide (src = 15) || decide (src = 7)) && decide (dst ≤ 6)) || (decide (src ≤ 6) && decide (dst = 7))

/-- R527: a record converted from one format and orientation to another. -/
def convertSlice (src : Nat) (strans : Bool) (dst : Nat) (dtrans : Bool) (rec' : List Byte) : List Byte :=
  if src = dst ∧ strans = dtrans then rec'
  else if src = dst ∧ !isMx src then
    packCodes dst (transpose256 0 (sliceCodes src rec')) ++ rec'.drop (sliceData src)
  else makeSlice dst dtrans (sliceVals src strans rec')

/-! ### SBC (R530) -/

/-- One block of 256 elements: its elements and the bytes it takes. `wide` for FP32. -/
def sbcBlock (wide : Bool) (l : List Byte) : List Nat × Nat :=
  let base := recField l 0 1
  let w := recField l 1 1
  let n := if wide then 4 else 2
  if 8 ≤ w then ((chunksOf n 256 (l.drop 2)).map leNat, 2 + 256 * n)
  else
    let mb := if wide then 23 else 7
    let sm := n - 1
    let body := (chunksOf sm 256 ((l.drop 2).take (256 * sm))).map leNat
    let packed := leNat ((l.drop (2 + 256 * sm)).take (32 * w))
    ((List.zip (List.range 256) body).map (fun x =>
      let e := (base + bitField packed (w * x.1) w) % 256
      (x.2 >>> mb % 2) <<< (mb + 8) ||| e <<< mb ||| x.2 % 2 ^ mb), 2 + 256 * sm + 32 * w)

/-- Decompresses blocks into element codes; answers what is left. -/
def sbcBlocks (wide : Bool) : Nat → List Byte → List Nat × List Byte
  | 0, l => ([], l)
  | n + 1, l =>
    let b := sbcBlock wide l
    let r := sbcBlocks wide n (l.drop b.2)
    (b.1 ++ r.1, r.2)

/-- The slice record of a model image's payload (R526). -/
def imagePayload (fmt flags : Nat) (l : List Byte) : List Byte :=
  if bitOf flags 0 then
    let r := sbcBlocks (decide (fmt = 15)) 256 l
    packCodes fmt (r.1.take sliceParams) ++ padTo 64 r.2
  else padTo (sliceRecord fmt) l

/-- The slice records of a model image (R526): format and record of each. -/
def imageSlices : Nat → List Byte → List (Nat × List Byte)
  | 0, _ => []
  | n + 1, l =>
    let len := recField l 0 4
    let fmt := recField l 4 1
    (fmt, imagePayload fmt (recField l 5 1) ((l.drop 8).take len)) :: imageSlices n (l.drop (upTo64 (8 + len)))

/-! ### Shards (R425, R525) -/

/-- The slices of a shard. -/
def shardSlices (slices group shard : Nat) : List Nat := (List.range slices).filter (fun s => decide (s % group = shard))

/-- R525, R729: shares in proportion to the slices whose optimizer state lies with each die, half on each of its
stacks. -/
def shardShares (l : Layout) (group shard bytes : Nat) : List (Nat × Nat) :=
  (List.range 8).flatMap (fun d =>
    let n := ((shardSlices l.slices group shard).filter (fun s => decide (slLowest (layoutEntry l s) = d))).length * bytes
    [(2 * d, segsOf ((n + 1) / 2)), (2 * d + 1, segsOf (n / 2))])

/-- R525: the conditions of a learning layout. The slices of a shard on a die lie in one run, contiguous and
ascending. -/
def learnLayoutOk (group : Nat) (entries : List Nat) : Bool :=
  decide (1 ≤ group ∧ group ≤ 4096) && entries.all (fun e => decide (slFmt e = 7)) &&
    (List.range 8).all (fun d => (List.range (min group entries.length)).all (fun sh =>
      let run := ((List.zip (List.range entries.length) entries).filter (fun x =>
        decide (x.1 % group = sh) && bitOf (slDies x.2) d)).map (fun x => slOff x.2)
      match run with
      | [] => true
      | o :: _ => run == (List.range run.length).map (fun i => o + i * 131136)))

/-! ### Weights under restoration (R394, R395) -/

/-- The address of the golden copy's block that answers a block of a job's layout region. -/
def goldenAddr (m : Dev) (js a : Nat) : Option Nat :=
  match jobAt m js with
  | none => none
  | some j =>
    match layoutOf j with
    | none => none
    | some l =>
      (List.range 8).findSome? (fun d =>
        match regionBase m js j.layTag d with
        | none => none
        | some b =>
          let half := l.regionBytes / 2
          let o := if b.1 ≤ a ∧ a < b.1 + half then some (a - b.1)
            else if b.2 ≤ a ∧ a < b.2 + half then some (half + (a - b.2)) else none
          o.bind (fun o =>
            let q := l.regionBytes / 4
            (m.mem.allocs.find? (fun x => decide (x.job = some js) && decide (x.use = .golden j.layTag)
              && decide (segUnit x.first = 16 + 4 * d + o / q))).map (fun x => x.first * segBytes + o % q)))

/-- The block of a layout region whose golden block is at an address. -/
def weightAddr (m : Dev) (js g : Nat) : Option Nat :=
  match jobAt m js with
  | none => none
  | some j =>
    match layoutOf j, m.mem.allocs.find? (fun x => decide (x.job = some js) && decide (x.use = .golden j.layTag)
        && decide (x.first * segBytes ≤ g) && decide (g < (x.first + x.count) * segBytes)) with
    | some l, some x =>
      let k := segUnit x.first - 16
      let o := k % 4 * (l.regionBytes / 4) + (g - x.first * segBytes)
      (regionBase m js j.layTag (k / 4)).map (fun b =>
        let half := l.regionBytes / 2
        if o < half then b.1 + o else b.2 + (o - half))
    | _, _ => none

/-- WEIGHT_POISON_REPORT: the restoration of a poisoned weight block begins (R394). A poisoned block of the golden copy
itself is rewritten from the clean weight block (R395). -/
def weightPoison (slot addr : Nat) (m : Dev) : Dev :=
  let a := addr / 64 * 64
  if !memPoisoned m.mem a 64 then m
  else match goldenAddr m slot a with
    | some _ => if m.restores.any (fun r => decide (r.2 = a)) then m else { m with restores := m.restores ++ [(slot, a)] }
    | none => match weightAddr m slot a with
      | some w => if memPoisoned m.mem w 64 then m else ownCopy m w a 64
      | none => m

def execWeightPoisonReport (slot addr : Nat) (s : State) : Host.Outcome State Fault Refusal :=
  onDev (.weightPoisonReport slot addr) (weightPoison slot addr) s

/-- WEIGHT_RESTORE_DONE (R394, R395): the golden block is copied over the weight block, or it reads poisoned and the
restoration fails. -/
def weightRestored (slot addr : Nat) (m : Dev) : Dev :=
  let a := addr / 64 * 64
  if (slot, a) ∈ m.restores then
    match goldenAddr m slot a with
    | none => { m with restores := m.restores.filter (fun r => decide (r ≠ (slot, a))) }
    | some g =>
      let m := { m with restores := m.restores.filter (fun r => decide (r ≠ (slot, a))) }
      let m := freeFinds m [(g, 64)]
      let failed := memPoisoned m.mem g 64
      let n := (m.seqs.filter (fun p => decide (p.2.jobSlot = slot) && decide (a ∈ p.2.waitBlocks))).length
      let m := if failed then updGen m slot (fun x => { x with badBlocks := x.badBlocks ++ [a] })
        else updGen (ownCopy m g a 64) slot (fun x => { x with restored := x.restored + 1 })
      let m := settleBlock a failed m
      raiseJob m slot 0x0403 0 (leBytes 8 a ++ leBytes 1 (b2n failed) ++ zeros 3 ++ leBytes 4 n)
  else m

def execWeightRestoreDone (slot addr : Nat) (s : State) : Host.Outcome State Fault Refusal :=
  onDev (.weightRestoreDone slot addr) (weightRestored slot addr) s

end Sys2Proof.Machine
end

