-- ==== Sys2Proof/Machine/Learning.lean ====
section
/-! DEFINITION. Sys2Proof/Machine/Learning.lean: learning steps (chapter 10): configuration, micro-batches, the pipeline's
items, gradient slices, the verdict, the update and the commit, with the loss scale of chapter 05. -/

namespace Sys2Proof.Machine

def updLearn (m : Dev) (slot : Nat) (f : Learn → Learn) : Dev := updJob m slot (fun j => { j with learn := f j.learn })

def updNum (m : Dev) (slot : Nat) (f : Numerics → Numerics) : Dev := updJob m slot (fun j => { j with num := f j.num })

/-! ### LEARN_CONFIG (R408, R440) -/

/-- R408: the header of a learning program image fits the module, the job and the layout in force. -/
def learnImageOk (m : Dev) (j : Job) (h : List Byte) (count : Nat) : Bool :=
  decide (recField h 0 4 = 0x53500001) && decide (recField h 4 1 = 2) && decide (recField h 5 1 = j.periodK)
    && decide (2 ≤ recField h 6 1 ∧ recField h 6 1 ≤ 8) && decide (1 ≤ recField h 7 1)
    && decide (recBytes h 8 8 = mapDigest m) && decide (64 ≤ recField h 16 8 ∧ recField h 16 8 ≤ count * segBytes)
    && decide (64 ≤ recField h 24 2 ∧ recField h 24 2 ≤ 4096) && decide (recField h 24 2 % 64 = 0)
    && decide (1 ≤ recField h 26 2) && decide (recField h 28 4 ≤ 262144)
    && decide (8 ≤ recField h 36 1) && decide (recField h 36 1 % 8 = 0)
    && (match layoutOf j with
      | some l => decide (l.slices = recField h 32 4)
      | none => true)

/-- The uses of memory that LEARN_CONFIG replaces. -/
def learnUse (js : Nat) (a : Alloc) : Bool :=
  decide (a.job = some js) && (decide (a.use = .feedStore) || decide (a.use = .queueSlots) || decide (a.use = .gradHold))

/-- Allocates one thing after another; the first failure is the answer. -/
def allocAll (m : Dev) (part js : Nat) : List (AllocUse × List (Nat × Nat)) → Except Nat Dev
  | [] => .ok m
  | (u, sh) :: l =>
    match allocate m part (some js) u sh with
    | .error e => .error e
    | .ok (m, _) => allocAll m part js l

/-- R413: an entry passed between stages: 18,432 values of BF16 a row. -/
def queueEntry (rows : Nat) : Nat := 18432 * rows * 2

/-- R418: the banks of FILL_BANKS on every die of the partition go to the FILL job's slot. -/
def assignFill (banks fill : Nat) (dies : List Nat) (m : Dev) : Dev :=
  dies.foldl (fun m d => (bitsOf 160 banks).foldl (fun m b => bankAssign d b (0xFF + fill * 256 + 4096) m) m) m

/-- A value in a range of FP32 numbers. -/
def fp32In (c : Nat) (p : FVal → Bool) : Bool := finite32 c && p (dec32 c)

/-- LEARN_CONFIG. RUN_REMAINING holds back a new configuration only where one is in force: a member without one waits for it
(R407). -/
def specLearnConfig (mb jobId imgFirst imgCount groupSize shard group b1 b2 eps wd maxNorm lsInit fmtShift fmtWindow lsGrowth
    fillJob feedStore : Nat) : CmdSpec where
  cmd := .learnConfig mb jobId imgFirst imgCount groupSize shard group b1 b2 eps wd maxNorm lsInit fmtShift fmtWindow lsGrowth
    fillJob feedStore
  opcode := 0x0501
  mb := mb
  job := some jobId
  phases := some [.idle, .learn]
  stretch := true
  buckets := bucketRange imgFirst (min imgCount 4096)
  sec := fun m => match jobById m fillJob with
    | some f => ensure (decide (fillJob = 0) || decide (f.2.part = mb / 32)) 0x7001
    | none => none
  par := fun m => firstErr [
    ensure (decide (1 ≤ imgCount ∧ imgCount ≤ 4096) && decide (1 ≤ groupSize ∧ groupSize ≤ 4096) && decide (shard < groupSize)
      && fp32In b1 (fun v => !fvLt v (.fin false 0 0) && fvLt v (.fin false 1 0))
      && fp32In b2 (fun v => !fvLt v (.fin false 0 0) && fvLt v (.fin false 1 0))
      && fp32In eps (fun v => fvLt (.fin false 0 0) v) && fp32In wd (fun v => !fvLt v (.fin false 0 0))
      && fp32In maxNorm (fun v => !fvLt v (.fin false 0 0)) && decide (lsInit ≤ 32) && decide (4 ≤ fmtShift ∧ fmtShift ≤ 24)
      && decide (1 ≤ fmtWindow ∧ fmtWindow ≤ 16) && decide (1 ≤ lsGrowth)) 0x2003,
    (if fillJob = 0 then none
     else match jobById m fillJob, jobById m jobId with
      | some f, some p => ensure (f.2.fill && decide (f.2.periodK ≤ p.2.periodK)) 0x2003
      | none, some _ => some { status := 0x2004 }
      | _, none => none)]
  sta := fun m => match jobById m jobId with
    | none => none
    | some p => ensure ((!p.2.learn.configured || (!p.2.learn.running && decide (p.2.learn.runRemaining = 0)))
        && !mappedOver m (learnUse p.1)) 0x1007
  apply := fun m => match jobById m jobId with
    | none => { m := m }
    | some (js, j) =>
      let h := bucketBytes m (bucketRange imgFirst imgCount) 64
      let old := j.learn
      if !learnImageOk m j h imgCount then { m := m, status := 0x200A }
      else if old.hasShard ∧ (old.groupSize ≠ groupSize ∨ old.shard ≠ shard) then { m := m, status := 0x200A }
      else
        let dies := jobDies m js
        let slots := recField h 6 1
        let rows := recField h 24 2
        let m' := updMem m (fun x => releaseAllocs x (learnUse js))
        let hold := match layoutOf j with
          | some l => shardShares l groupSize shard 262144
          | none => []
        let queue := dies.flatMap (fun d =>
          let n := slots * queueEntry rows
          [(2 * d, segsOf ((n + 1) / 2)), (2 * d + 1, segsOf (n / 2))])
        match allocAll m' j.part js [(.feedStore, evenShares feedStore), (.feedStore, evenShares (recField h 16 8)),
            (.queueSlots, queue), (.gradHold, hold)] with
        | .error e => { m := m, status := e }
        | .ok m' =>
          let fill := recField h 40 20
          let m' := match jobById m' fillJob with
            | some f => if fillJob = 0 then m' else assignFill fill f.1 dies m'
            | none => m'
          let l : Learn := {
            configured := true, imgSlots := slots, mbMax := recField h 7 1, mbRows := rows, commitStrokes := recField h 26 2
            vocab := recField h 28 4, slices := recField h 32 4, layers := recField h 36 1, fillBanks := fill
            groupSize := groupSize, shard := shard, group := group, b1 := b1, b2 := b2, eps := eps, wd := wd
            maxNorm := maxNorm, fmtShift := fmtShift, fmtWindow := fmtWindow, fillJob := fillJob, feedBytes := feedStore
            runRemaining := old.runRemaining, lr := old.lr, formats := old.formats, hasShard := old.hasShard, opt := old.opt, mask := old.mask, distGroup := old.distGroup }
          { m := updJob m' js (fun j => { j with
              learn := l
              num := { j.num with lsGrowth := lsGrowth
                                  lsExp := if j.num.adamStep = 0 ∧ j.num.skipped = 0 then lsInit else j.num.lsExp } })
            wait := some (.imageCopy js 2), keep := true }

def execLearnConfig (mb jobId imgFirst imgCount groupSize shard group b1 b2 eps wd maxNorm lsInit fmtShift fmtWindow lsGrowth
    fillJob feedStore : Nat) (s : State) : Host.Outcome State Fault Refusal :=
  onCmd (specLearnConfig mb jobId imgFirst imgCount groupSize shard group b1 b2 eps wd maxNorm lsInit fmtShift fmtWindow
    lsGrowth fillJob feedStore) s

/-! ### LEARN_FEED (R409 to R411) -/

/-- The learning configuration is in force. -/
def learnReady (jobId : Nat) (m : Dev) : Option Err :=
  match jobById m jobId with
  | none => none
  | some p => ensure p.2.learn.configured 0x1001

/-- R410: sequence entries from row `r` on, ending at `rows`. -/
def seqsCover (rows : Nat) : Nat → List (Nat × Nat) → Bool
  | r, [] => decide (r = rows)
  | r, (s, n) :: l => decide (s = r) && decide (1 ≤ n) && seqsCover rows (r + n) l

/-- One micro-batch at the head of a bucket's data and the offset of the next (R409, R410). -/
def parseMicroBatch (g : Learn) (l : List Byte) : Option (MicroBatch × Nat) :=
  let nseq := recField l 10 2
  let rows := recField l 12 4
  let tokAt := 64 + upTo64 (8 * nseq)
  let stop := tokAt + 16 * rows
  if l.length < 64 ∨ 4096 < rows ∨ l.length < stop then none
  else
    let seqs := (chunksOf 8 nseq ((l.drop 64).take (8 * nseq))).map (fun e => (recField e 0 4, recField e 4 4))
    let toks := (chunksOf 16 rows ((l.drop tokAt).take (16 * rows))).map (fun e =>
      (recField e 0 4, recField e 4 4, recField e 8 4, recField e 12 4))
    if recField l 8 2 < g.mbMax ∧ 1 ≤ nseq ∧ nseq ≤ 4096 ∧ 1 ≤ rows ∧ rows ≤ g.mbRows ∧ seqsCover rows 0 seqs
        ∧ toks.all (fun t => decide (t.1 < g.vocab) && finite32 t.2.1 && finite32 t.2.2.1 && finite32 t.2.2.2) then
      some ({ step := recField l 0 8, index := recField l 8 2, rows := rows, seqs := seqs, tokens := toks, raw := l.take stop },
            upTo64 stop)
    else none

/-- The micro-batches of one bucket; `.error i` names the first that fails. -/
def parseMbs (g : Learn) : Nat → Nat → List Byte → List MicroBatch → Except Nat (List MicroBatch)
  | 0, _, _, acc => .ok acc
  | n + 1, i, l, acc =>
    match parseMicroBatch g l with
    | none => .error i
    | some (b, e) => parseMbs g n (i + 1) (l.drop e) (acc ++ [b])

/-- The micro-batches of the named buckets. -/
def parseFeed (g : Learn) (m : Dev) : List Nat → List MicroBatch → Except Nat (List MicroBatch)
  | [], acc => .ok acc
  | b :: bs, acc =>
    let l := bucketData m b
    let n := recField l 0 4
    if 1 ≤ n ∧ n ≤ 16 then
      match parseMbs g n acc.length (l.drop 64) acc with
      | .error e => .error e
      | .ok acc => parseFeed g m bs acc
    else .error acc.length

/-- R411: the step has started, or a micro-batch of the same step and index is queued, or the step is full. -/
def feedClash (g : Learn) (bs : List MicroBatch) : Bool :=
  let all := g.feed ++ bs
  let open' := if g.running then g.stepNext + 1 else g.stepNext
  bs.any (fun b => decide (b.step < open')
    || decide (1 < (all.filter (fun x => decide (x.step = b.step) && decide (x.index = b.index))).length)
    || decide (g.mbMax < (all.filter (fun x => decide (x.step = b.step))).length))

/-- LEARN_FEED. -/
def specLearnFeed (mb jobId first count : Nat) : CmdSpec where
  cmd := .learnFeed mb jobId first count
  opcode := 0x0502
  mb := mb
  job := some jobId
  phases := some [.idle, .learn]
  stretch := true
  buckets := bucketRange first (min count 64)
  par := fun _ => ensure (decide (1 ≤ count ∧ count ≤ 64)) 0x2003
  sta := learnReady jobId
  apply := fun m => match jobById m jobId with
    | none => { m := m }
    | some (js, j) =>
      let g := j.learn
      match parseFeed g m (bucketRange first count) [] with
      | .error i => { m := m, status := 0x2003, body := stateBody m (some jobId) i }
      | .ok bs =>
        if feedClash g bs then { m := m, status := 0x1001 }
        else if g.feedBytes < ((g.feed ++ bs).map (fun b => b.raw.length)).sum then { m := m, status := 0x3001 }
        else { m := updLearn m js (fun g => { g with feed := g.feed ++ bs })
               body := leBytes 4 bs.length ++ leBytes 4 (g.feed.length + bs.length) }

def execLearnFeed (mb jobId first count : Nat) (s : State) : Host.Outcome State Fault Refusal :=
  onCmd (specLearnFeed mb jobId first count) s

/-- LEARN_RUN (R441), at every member. The configuration is asked for at the origin alone (R407). -/
def specLearnRun (mb jobId steps lr : Nat) : CmdSpec where
  cmd := .learnRun mb jobId steps lr
  opcode := 0x0503
  mb := mb
  job := some jobId
  jobWide := true
  stretch := true
  phases := some [.learn]
  par := fun _ => ensure (decide (steps ≤ 65535) && fp32In lr (fun v => !fvLt v (.fin false 0 0))) 0x2003
  sta := fun m => match jobById m jobId with
    | none => none
    | some p => if p.2.isOrigin then learnReady jobId m else none
  apply := fun m => match jobById m jobId with
    | none => { m := m }
    | some (js, _) => { m := updLearn m js (fun g => { g with runRemaining := steps, lr := lr }) }

def execLearnRun (mb jobId steps lr : Nat) (s : State) : Host.Outcome State Fault Refusal :=
  onCmd (specLearnRun mb jobId steps lr) s

/-- LEARN_MASK (R428, R442). -/
def specLearnMask (mb jobId first fromStep count : Nat) : CmdSpec where
  cmd := .learnMask mb jobId first fromStep count
  opcode := 0x0504
  mb := mb
  job := some jobId
  phases := some [.idle, .learn]
  buckets := bucketRange first (min count 4096)
  par := fun m => ensure (decide (1 ≤ count ∧ count ≤ 4096) && (match jobById m jobId with
      | some p => !p.2.learn.configured || (decide ((p.2.learn.slices + 7) / 8 ≤ count * segBytes)
          && decide ((if p.2.learn.running then p.2.learn.stepNext + 1 else p.2.learn.stepNext) ≤ fromStep))
      | none => true)) 0x2003
  sta := learnReady jobId
  apply := fun m => match jobById m jobId with
    | none => { m := m }
    | some (js, j) =>
      let bits := bucketBytes m (bucketRange first count) ((j.learn.slices + 7) / 8)
      { m := updLearn m js (fun g => { g with masks := tput g.masks fromStep bits }) }

def execLearnMask (mb jobId first fromStep count : Nat) (s : State) : Host.Outcome State Fault Refusal :=
  onCmd (specLearnMask mb jobId first fromStep count) s

/-- LEARN_STATUS. -/
def specLearnStatus (mb jobId : Nat) : CmdSpec where
  cmd := .learnStatus mb jobId
  opcode := 0x0505
  mb := mb
  job := some jobId
  query := true
  phases := some [.idle, .learn]
  apply := fun m => match jobById m jobId with
    | none => { m := m }
    | some (_, j) =>
      let g := j.learn
      { m := m
        body := leBytes 8 g.stepNext ++ leBytes 4 g.runRemaining ++ leBytes 1 g.stage
          ++ leBytes 1 (g.formats.filter (fun f => decide (f.1 < g.layers) && decide (f.2.2 = 1))).length ++ zeros 2
          ++ leBytes 4 g.slicesDone ++ leBytes 4 g.feed.length ++ leBytes 8 g.withdrawn
          ++ ((List.range 8).flatMap fun d => leBytes 4 (tget {} g.stages d).stallStrokes) }

def execLearnStatus (mb jobId : Nat) (s : State) : Host.Outcome State Fault Refusal := onCmd (specLearnStatus mb jobId) s

/-! ### A step's start and its items (R405, R413 to R417) -/

/-- R428: a slice is trainable. -/
def trainable (g : Learn) (s : Nat) : Bool := g.mask.isEmpty || bitOf (nth 0 g.mask (s / 8) : Byte).toNat (s % 8)

/-- R405: a step starts: its micro-batches are taken, its mask takes effect, and the generator table is copied
(R234). -/
def learnStart (js : Nat) (m : Dev) : Dev :=
  updJob m js (fun j =>
    let g := j.learn
    let mine := (g.feed.filter (fun b => decide (b.step = g.stepNext))).mergeSort (fun a b => decide (a.index ≤ b.index))
    { j with learn := { g with
        running := true, stage := 1, stepLr := g.lr, runRemaining := g.runRemaining - 1, taken := mine
        feed := g.feed.filter (fun b => decide (b.step ≠ g.stepNext))
        mask := match tfind g.masks g.stepNext with
          | some k => k
          | none => g.mask
        masks := tdel g.masks g.stepNext
        handed := [], held := [], sqnorm := 0, ends := [], tensors := [], flagNonfinite := false, flagPoison := false, flagMismatch := false
        slicesDone := 0, genCopy := j.num.gens
        stages := tmap g.stages (fun _ s => { stallStrokes := s.stallStrokes }) } })

def stageAt (g : Learn) (d : Nat) : Stage := tget {} g.stages d
def setStage (g : Learn) (d : Nat) (f : Stage → Stage) : Learn := { g with stages := tmod {} g.stages d f }

/-- R413, R415: an item that has ended frees its inbound slot and delivers its entry. -/
def endItem (g : Learn) (d : Nat) : Learn :=
  let s := stageAt g d
  match s.kind with
  | 1 =>
    let g := setStage g d (fun s => { s with kind := 0, forwarded := s.forwarded ++ [s.mb]
                                             inbox := s.inbox.filter (fun e => !(e.1 && decide (e.2.1 = s.mb))) })
    if d < 7 then setStage g (d + 1) (fun t => { t with inbox := t.inbox.map (fun e => if e.1 ∧ e.2.1 = s.mb then (true, s.mb, true) else e) })
    else g
  | 2 =>
    let g := setStage g d (fun s => { s with kind := 0, backwarded := s.backwarded ++ [s.mb]
                                             inbox := s.inbox.filter (fun e => e.1 || decide (e.2.1 ≠ s.mb)) })
    if 0 < d then setStage g (d - 1) (fun t => { t with inbox := t.inbox.map (fun e => if !e.1 ∧ e.2.1 = s.mb then (false, s.mb, true) else e) })
    else g
  | 3 => setStage g d (fun s => { s with kind := 0, wgradDone := true })
  | _ => g

/-- R414, R415 item 1: the lowest micro-batch whose backward may start. -/
def nextBackward (g : Learn) (d : Nat) : Option Nat :=
  let s := stageAt g d
  let room := decide (d = 0) || decide ((stageAt g (d - 1)).inbox.length < g.imgSlots)
  ((g.taken.map (·.index)).find? (fun b => !decide (b ∈ s.backwarded) && room &&
    (if d = 7 then decide (b ∈ s.forwarded) else decide ((false, b, true) ∈ s.inbox))))

/-- R414, R415 item 2: the lowest micro-batch whose forward may start. -/
def nextForward (g : Learn) (d : Nat) : Option Nat :=
  let s := stageAt g d
  let t := stageAt g (d + 1)
  let room := decide (d = 7) || (decide (t.inbox.length < g.imgSlots)
    && decide ((t.inbox.filter (·.1)).length < g.imgSlots - 1))
  if s.forwarded.length - s.backwarded.length < 8 - d then
    (g.taken.map (·.index)).find? (fun b => !decide (b ∈ s.forwarded) && room &&
      (decide (d = 0) || decide ((true, b, true) ∈ s.inbox)))
  else none

/-- R415: starts an item at an idle stage; answers whether one started. -/
def startItem (g : Learn) (d : Nat) : Bool × Learn :=
  let s := stageAt g d
  match nextBackward g d, nextForward g d with
  | some b, _ =>
    let g := setStage g d (fun s => { s with kind := 2, mb := b, stalled := false, lent := false })
    (true, if 0 < d then setStage g (d - 1) (fun t => { t with inbox := t.inbox ++ [(false, b, false)] }) else g)
  | none, some b =>
    let g := setStage g d (fun s => { s with kind := 1, mb := b, stalled := false, lent := false })
    (true, if d < 7 then setStage g (d + 1) (fun t => { t with inbox := t.inbox ++ [(true, b, false)] }) else g)
  | none, none =>
    if g.taken.length ≤ s.backwarded.length ∧ !s.wgradDone then
      (true, setStage g d (fun s => { s with kind := 3, mb := 0, stalled := false, lent := false }))
    else (false, g)

/-- The units of a die run a stroke program of a job. -/
def dieBusyFor (m : Dev) (d job : Nat) : Bool :=
  (trange m.ves (d * 128) 128).any (fun v => v.2.teams.any (fun t => decide (t.2.job = job)))

/-- R415, R417 for one stage at a boundary. How many strokes an item takes is the image's, so whether it has ended is a
free value. -/
def stageStep (js : Nat) (m : Dev) (d : Nat) : Dev :=
  match jobAt m js with
  | none => m
  | some j =>
    let s := stageAt j.learn d
    let f := drawFree m 1
    let m := if s.kind = 0 then m else f.2
    let g := if s.kind ≠ 0 ∧ f.1 = 1 then endItem j.learn d else j.learn
    if (stageAt g d).kind ≠ 0 then updLearn m js (fun _ => g)
    else
      let fillSlot := (jobById m g.fillJob).map (·.1)
      let lentBusy := match fillSlot with
        | some f => dieBusyFor m d f
        | none => false
      let r := startItem g d
      if r.1 ∧ !lentBusy then updLearn m js (fun _ => r.2)
      else updLearn m js (fun _ => setStage g d (fun s => { s with
        stalled := true, lent := !r.1 && fillSlot.isSome, stallStrokes := sat 32 (s.stallStrokes + 1) }))

/-- R415: the items of a step in ITEMS or REDUCE, before dispatch. -/
def learnItems (js : Nat) (m : Dev) : Dev :=
  match jobAt m js with
  | none => m
  | some j =>
    if j.phase = .learn ∧ j.learn.running ∧ (j.learn.stage = 1 ∨ j.learn.stage = 2) then
      (List.range 8).foldl (stageStep js) m
    else m

/-! ### Slices (R426, R427) -/

/-- The slices of a step that the member hands over, and those that it holds as an owner. -/
def openSlices (g : Learn) : List Nat := (List.range g.slices).filter (trainable g)
def ownSlices (g : Learn) : List Nat := (openSlices g).filter (fun s => decide (s % g.groupSize = g.shard))

/-- The stage follows what has been handed over and delivered (R404). -/
def advanceStage (g : Learn) : Learn :=
  if g.stage = 1 ∨ g.stage = 2 then
    if g.handed.length < (openSlices g).length then { g with stage := 1 }
    else if g.held.length < (ownSlices g).length then { g with stage := 2 }
    else { g with stage := 3 }
  else g

/-- A sum in the pairwise form of R236. -/
def pairSum : Nat → List Nat → Nat
  | 0, l => l.headD 0
  | n + 1, l => pairSum n ((chunksOf 2 l.length l).map (fun p => match p with
      | [a, b] => add32 a b
      | [a] => a
      | _ => 0))

/-- R427: the squared norm over the held slices, in ascending order. -/
def squaredNorm (g : Learn) : Nat :=
  g.held.foldl (fun a h => add32 a (pairSum 16 (h.2.map (fun x => mul32 x x)))) 0

/-- The bytes of the BF16 working weights of a job, as they lie in its layout regions. -/
def workingBytes (m : Dev) (js : Nat) (j : Job) : List Byte :=
  match layoutOf j with
  | some l => (List.range 8).flatMap (fun d => match regionBase m js j.layTag d with
    | some b => memRead m.mem b.1 (l.regionBytes / 2) ++ memRead m.mem b.2 (l.regionBytes / 2)
    | none => [])
  | none => []

/-- R429: once everything is handed over and held, the member posts its step record. The loss is the image's own (R410, R240), and so are
the records of scaled tensors, of which a SATURATED one makes the step non-finite (R212, R227): free values. -/
def postStepRecord (slot : Nat) (before : Learn) (m : Dev) : Dev :=
  match jobAt m slot with
  | none => m
  | some j =>
    let g := j.learn
    if g.stage = 3 ∧ before.stage ≠ 3 then
      let ts := Config.tensorSteps m.free
      let nonf := g.flagNonfinite || ts.any (fun t => t.2.2.2)
      let loss := Config.imageLoss (g.taken.map (·.raw)) (workingBytes m slot j) j.self % 2 ^ 32
      send (updLearn { m with free := m.free + 1 } slot (fun g => { g with tensors := ts, flagNonfinite := nonf }))
        (.record slot 1 [b2n nonf + 2 * b2n g.flagPoison + 4 * b2n g.flagMismatch, g.taken.length,
          ((g.taken.flatMap (·.tokens)).filter (fun t => !fvZero (dec32 t.2.2.2))).length, loss, g.sqnorm])
    else m

/-- R49, R423: both ends of the pipeline hold the embedding (DEDUCED, log entry 17): the input's gradient comes from CD0, the output
head's from CD7. -/
def twoEnds (m : Dev) (slot s : Nat) : Bool := match (jobAt m slot).bind layoutOf with
  | some l => bitOf (slDies (layoutEntry l s)) 0 && bitOf (slDies (layoutEntry l s)) 7
  | none => false

/-- R423: the gradient of a slice that is complete with what a die hands over; none while the embedding's other end is
missing. The two are summed as CD0 + CD7 with rne32. -/
def sliceGradient (m : Dev) (slot slice die : Nat) (data : List Nat) (g : Learn) : Option (List Nat) :=
  if twoEnds m slot slice then
    (tfind g.ends (slice * 8 + (7 - die))).map (fun o =>
      (List.zip (if die = 0 then data else o) (if die = 0 then o else data)).map (fun x => add32 x.1 x.2))
  else some data

/-- SLICE_HANDOFF (R426): the gradient of a slice goes to the collective engine. The first of the embedding's two gradients waits. -/
def sliceHandoff (slot slice die : Nat) (data : List Nat) (nonfinite poison : Bool) (m : Dev) : Dev :=
  match jobAt m slot with
  | none => m
  | some j =>
    let g := j.learn
    let data := data.map (· % 2 ^ 32)
    if g.running ∧ g.stage = 1 ∧ slice < g.slices ∧ trainable g slice ∧ slice ∉ g.handed then
      let flags := fun (g : Learn) => { g with flagNonfinite := g.flagNonfinite || nonfinite, flagPoison := g.flagPoison || poison }
      match sliceGradient m slot slice die data g with
      | none => updLearn m slot (fun g => { flags g with ends := tput g.ends (slice * 8 + die) data })
      | some sum =>
        postStepRecord slot g (updLearn (send m (.slice slot slice sum)) slot (fun g => advanceStage { flags g with
          handed := g.handed ++ [slice], ends := tdel (tdel g.ends (slice * 8)) (slice * 8 + 7) }))
    else m

def execSliceHandoff (slot : Nat) (slice : Handoff) (nonfinite poison : Bool) (s : State) : Host.Outcome State Fault Refusal :=
  onDev (.sliceHandoff slot slice nonfinite poison) (sliceHandoff slot slice.slice slice.die slice.data nonfinite poison) s

/-- SLICE_DELIVERED (R427). -/
def sliceDelivered (slot slice : Nat) (data : List Nat) (m : Dev) : Dev :=
  match jobAt m slot with
  | none => m
  | some j =>
    let g := j.learn
    if g.running ∧ (g.stage = 1 ∨ g.stage = 2) ∧ slice ∈ ownSlices g ∧ tfind g.held slice = none then
      postStepRecord slot g (updLearn m slot (fun g =>
        let g := { g with held := tput g.held slice (data.map (· % 2 ^ 32)) }
        let g := { g with sqnorm := if g.group = 0 ∧ g.held.length = (ownSlices g).length then squaredNorm g else g.sqnorm }
        advanceStage g))
    else m

def execSliceDelivered (slot slice : Nat) (data : List Nat) (s : State) : Host.Outcome State Fault Refusal :=
  onDev (.sliceDelivered slot slice data) (sliceDelivered slot slice data) s

/-- VERDICT_REDUCE_DONE (R406): the step record is complete at the origin. -/
def verdictDone (slot flags count tokens loss sqnorm : Nat) (m : Dev) : Dev :=
  match jobAt m slot with
  | none => m
  | some j =>
    if j.isOrigin ∧ j.learn.running ∧ j.learn.stage ≤ 3 ∧ j.learn.verdict = none then
      updLearn m slot (fun g => { g with verdict := some { flags, count, tokens, loss, sqnorm } })
    else m

def execVerdictReduceDone (slot flags count tokens loss sqnorm : Nat) (s : State) : Host.Outcome State Fault Refusal :=
  onDev (.verdictReduceDone slot flags count tokens loss sqnorm) (verdictDone slot flags count tokens loss sqnorm) s

/-! ### Verdict, update and commit (R430 to R432, R435) -/

/-- GNORM of STEP_DONE (R439) and the clip factor (R219); both divide by COUNT, and for COUNT 0 they are free values. -/
def gnormOf (r : StepRec) (lsExp : Nat) : Nat :=
  if r.count = 0 then Config.noCount 0 r.sqnorm % 2 ^ 32 else divNat32 (scale32 (sqrt32 r.sqnorm) (-(lsExp : Int))) r.count
def clipOf (g : Learn) (r : StepRec) (lsExp : Nat) : Nat :=
  if fvZero (dec32 g.maxNorm) then 0x3F800000
  else if r.count = 0 then Config.noCount 1 r.sqnorm % 2 ^ 32
  else clipFactor g.maxNorm r.sqnorm lsExp r.count

/-- The update of one parameter (R218, R220). Its two draws come from the lane stream of the thread that runs it (R203, R235), which
the program places, and the entry goes back to the table (R233). -/
def updateParam (e : AdamEnv) (js s : Nat) (x : OptSlice × List Nat × Nat × Dev) (i gsum : Nat) : OptSlice × List Nat × Nat × Dev :=
  let o := x.1
  let T := Config.updateThread s i % 2097152
  let d1 := draw x.2.2.2 js T
  let d2 := draw d1.2 js T
  let w := nth 0 o.w i
  let a := adamStep e gsum (nth 0 o.m i) (nth 0 o.v i) w d1.1 d2.1
  let u := masterUpdate w (nth 0 o.q i) a.2.2
  ({ w := setNth o.w i u.1, q := setNth o.q i u.2.1, m := setNth o.m i a.1, v := setNth o.v i a.2.1 },
   x.2.1 ++ [rne16 (dec32 u.1)], x.2.2.1 + b2n u.2.2, genStore js T 1 d2.2)

/-- A slice of optimizer state that has not been built: zeros. -/
def zeroSlice : OptSlice :=
  { w := List.replicate sliceParams 0, q := List.replicate sliceParams 0, m := List.replicate sliceParams 0, v := List.replicate sliceParams 0 }

/-- Writes the BF16 working weight of a slice into the region of every die that holds it (R222, R431). -/
def writeWorking (js s : Nat) (codes : List Nat) (m : Dev) : Dev :=
  match jobAt m js with
  | none => m
  | some j =>
    match layoutOf j with
    | none => m
    | some l =>
      let e := layoutEntry l s
      let codes := if slTrans e then transpose256 0 codes else codes
      (bitsOf 8 (slDies e)).foldl (fun m d => piecesWrite m (packCodes 7 codes ++ zeros 64) false (slicePieces m js j.layTag d l s)) m

/-- R431: the broadcasts of updated working weights within the learner group, slice by slice in ascending order and die by die: each
is rooted at the slice's owner, on the groups of R536 (DESIGN CHOICE, log entry 17: the manual names neither the group nor the
order). A learner group of one has none. -/
def gatherPosts (m : Dev) (js : Nat) (j : Job) : List Coll :=
  match layoutOf j with
  | none => []
  | some l =>
    if j.learn.groupSize ≤ 1 then []
    else (openSlices j.learn).flatMap (fun s =>
      let owner := s % j.learn.groupSize
      let root := ((tfind m.groups (js * 65536 + j.learn.distGroup)).map (fun g => (nth (0xFFFF, 0) g.roots owner).1)).getD 0xFFFF
      (bitsOf 8 (slDies (layoutEntry l s))).map (fun d =>
        let ps := slicePieces m js j.layTag d l s
        engineColl js .gather (j.learn.distGroup + d) 1 0 0 root d j.epoch (sliceRecord (slFmt (layoutEntry l s))) [d]
          (fun _ => if owner = j.learn.shard then { reads := ps } else { writes := ps })))

/-- R431: the update of one held slice. -/
def updateSlice (js : Nat) (e : AdamEnv) (m : Dev) (h : Nat × List Nat) : Dev :=
  match jobAt m js with
  | none => m
  | some j =>
    let o := (tfind j.learn.opt h.1).getD zeroSlice
    let r := (List.zip (List.range sliceParams) h.2).foldl (fun x g => updateParam e js h.1 x g.1 g.2) (o, [], 0, m)
    let m := updJob r.2.2.2 js (fun j => { j with
      learn := { j.learn with opt := tput j.learn.opt h.1 r.1, slicesDone := j.learn.slicesDone + 1 }
      num := { j.num with masterOverflow := j.num.masterOverflow + r.2.2.1 } })
    writeWorking js h.1 r.2.1 m

/-- R431 at V: the update runs over every held slice of the shard, which is then discarded, and the gather of the working weights is
handed to the collective engines. -/
def learnUpdate (js : Nat) (r : StepRec) (m : Dev) : Dev :=
  match jobAt m js with
  | none => m
  | some j =>
    let g := j.learn
    let e : AdamEnv := { b1 := g.b1, b2 := g.b2, eps := g.eps, wd := g.wd, lr := g.stepLr, lsExp := j.num.lsExp
                         count := r.count, clip := clipOf g r j.num.lsExp, t := j.num.adamStep + 1 }
    let m := g.held.foldl (updateSlice js e) m
    let m := { m with posts := m.posts ++ gatherPosts m js j }
    updLearn m js (fun g => { g with held := [], stage := 5, commitAt := some (j.stroke + g.commitStrokes) })

/-- R224, R225, R244: the loss scale after a step; only the origin reports a change. -/
def lossScale (js : Nat) (skipped : Bool) (m : Dev) : Dev :=
  match jobAt m js with
  | none => m
  | some j =>
    let n := j.num
    let grown := decide (n.lsGrowth ≤ n.finiteRun + 1)
    let new := if skipped then n.lsExp - 1 else if grown ∧ n.lsExp < 32 then n.lsExp + 1 else n.lsExp
    let m := updNum m js (fun n => { n with lsExp := new, finiteRun := if skipped ∨ grown then 0 else n.finiteRun + 1 })
    if j.isOrigin ∧ (skipped ∨ new ≠ n.lsExp) then
      let adam := match jobAt m js with
        | some k => k.num.adamStep
        | none => 0
      raiseJob m js 0x0B20 0 (leBytes 8 adam ++ leBytes 1 n.lsExp ++ leBytes 1 new
        ++ leBytes 1 (if skipped then (if n.lsExp = 0 then 2 else 0) else 1))
    else m

/-- R424, R437: the format records take the step's exceed flags. The counts NZ and UF lie where the program keeps them,
so each flag is a free value. -/
def formatStep (js : Nat) (m : Dev) (layer : Nat) : Dev :=
  match jobAt m js with
  | none => m
  | some j =>
    let g := j.learn
    let old := tget (0, 0) g.formats layer
    let f := drawFree m 1
    let ex := (old.1 * 2 + f.1) % 65536
    let fmt := if ex % 2 ^ g.fmtWindow = 0 then 0 else 1
    let m := updLearn f.2 js (fun g => { g with formats := tset (0, 0) g.formats layer (ex, fmt) })
    if fmt = old.2 then m
    else raiseJob m js 0x0503 0 (leBytes 8 (g.stepNext + 1) ++ leBytes 2 layer ++ leBytes 1 fmt)

/-- The step ends: R405, R432. -/
def endStep (js : Nat) (m : Dev) : Dev :=
  match jobAt m js with
  | none => m
  | some j =>
    let m := (List.range (j.learn.layers + 1)).foldl (formatStep js) m
    let m := updLearn m js (fun g => { g with
      running := false, stage := 0, taken := [], handed := [], held := [], ends := [], tensors := [], commitAt := none
      rerunAt := none, stepNext := g.stepNext + 1, times := 0, genCopy := []
      stages := tmap g.stages (fun _ s => { stallStrokes := s.stallStrokes }) })
    if j.learn.runRemaining = 0 then raiseJob m js 0x0504 0 (leBytes 8 (j.learn.stepNext + 1)) else m

/-- STEP_DONE (R439). -/
def stepDone (js : Nat) (r : StepRec) (status : Nat) (m : Dev) : Dev :=
  match jobAt m js with
  | none => m
  | some j => raiseJob m js 0x0501 status (leBytes 8 j.learn.stepNext ++ leBytes 4 r.count ++ leBytes 4 r.tokens ++ leBytes 4 r.loss
      ++ leBytes 4 (gnormOf r j.num.lsExp) ++ leBytes 4 (clipOf j.learn r j.num.lsExp))

/-- The status that STEP_DONE carries for a verdict (R430); `none` for a withdrawal. -/
def verdictStatus (r : StepRec) : Option Nat :=
  if bitOf r.flags 2 then some 0x6001 else if bitOf r.flags 1 then none else if bitOf r.flags 0 then some 0x6006 else some 0

/-- R435: the step is withdrawn; it runs again from the boundary after V. -/
def withdrawStep (js : Nat) (m : Dev) : Dev :=
  match jobAt m js with
  | none => m
  | some j =>
    let m := raiseJob m js 0x0502 0 (leBytes 8 j.learn.stepNext ++ leBytes 1 (j.learn.times + 1))
    updLearn m js (fun g => { g with
      withdrawn := g.withdrawn + 1, times := g.times + 1, stage := 0
      rerunAt := if g.times + 1 < 3 then some (j.stroke + 1) else none })

/-- The tensor records of the step that ends, into the numeric state. -/
def stepTensors (js : Nat) (applied : Bool) (m : Dev) : Dev :=
  match jobAt m js with
  | none => m
  | some j => updNum m js (recordTensors applied j.learn.tensors)

/-- R430: the verdict applies at the boundary that opens V. -/
def applyVerdict (js : Nat) (r : StepRec) (m : Dev) : Dev :=
  match verdictStatus r with
  | none => withdrawStep js m
  | some st =>
    let m := stepDone js r st m
    let m := if st = 0 ∧ r.count ≠ 0 then m else stepTensors js false m
    if st = 0x6001 then endStep js (updLearn m js (fun g => { g with runRemaining := 0 }))
    else if st = 0x6006 then
      endStep js (lossScale js true (updNum m js (fun n => { n with skipped := n.skipped + 1 })))
    else if r.count = 0 then endStep js m
    else learnUpdate js r m

/-- R432 at the boundary that opens C. -/
def learnCommit (js : Nat) (m : Dev) : Dev :=
  let m := stepTensors js true m
  endStep js (lossScale js false (updNum m js (fun n => { n with adamStep := n.adamStep + 1 })))

/-- A job's generator table becomes another, in the numeric state and in the die's memory (R233). -/
def setGens (js : Nat) (gens : Tab (Nat × Nat)) (m : Dev) : Dev :=
  match jobAt m js with
  | none => m
  | some j => (changedKeys j.num.gens gens).foldl (fun m T => genStore js T 1 m) (updNum m js (fun n => { n with gens := gens }))

/-- R435: a BF16 working slice that carries poison is fetched again from its owner in the learner group: this member's own is formed
from its master weights, and what another owner sends is a free value, since its state is not this module's. -/
def refetch (js : Nat) (m : Dev) (s : Nat) : Dev :=
  match jobAt m js with
  | none => m
  | some j =>
    match layoutOf j with
    | none => m
    | some l =>
      if (bitsOf 8 (slDies (layoutEntry l s))).any (fun d => piecesPoisoned m.mem (slicePieces m js j.layTag d l s)) then
        match tfind j.learn.opt s with
        | some o => writeWorking js s (o.w.map (fun w => rne16 (dec32 w))) m
        | none =>
          let f := drawFreeBytes m (sliceRecord 7)
          (bitsOf 8 (slDies (layoutEntry l s))).foldl (fun m d => piecesWrite m f.1 false (slicePieces m js j.layTag d l s)) f.2
      else m

/-- R435: the rerun of a withdrawn step. -/
def learnRerun (js : Nat) (m : Dev) : Dev :=
  let gens := ((jobAt m js).map (·.learn.genCopy)).getD []
  let m := (List.range (((jobAt m js).map (·.learn.slices)).getD 0)).foldl (refetch js) (setGens js gens m)
  updJob m js (fun j => { j with
    learn := { j.learn with
      stage := 1, rerunAt := none, handed := [], held := [], sqnorm := 0, ends := [], tensors := [], flagNonfinite := false
      flagPoison := false, flagMismatch := false, slicesDone := 0, verdict := none
      stages := tmap j.learn.stages (fun _ s => { stallStrokes := s.stallStrokes }) } })

/-- R432 at step 2 of a boundary, after a verdict has been applied. -/
def learnCommits (js : Nat) (m : Dev) : Dev :=
  match jobAt m js with
  | none => m
  | some j => match j.learn.commitAt with
    | some c => if j.phase = .learn ∧ c ≤ j.stroke then learnCommit js m else m
    | none => m

/-- R405, R435 at step 2 of a boundary, after an arm: a rerun, or the start of the next step. -/
def learnStarts (js : Nat) (m : Dev) : Dev :=
  match jobAt m js with
  | none => m
  | some j =>
    if j.phase ≠ .learn then m
    else match j.learn.rerunAt with
      | some c => if c ≤ j.stroke then learnRerun js m else m
      | none =>
        if j.learn.running ∨ j.learn.runRemaining = 0 then m
        else if j.learn.configured then learnStart js m
        else updLearn m js (fun g => { g with waits := true })

/-- R407: a member votes STRETCH that has found no configuration at the boundary that starts a step, until it has one, and at the
deadline of stroke C − 1 one whose gather is not complete. -/
def learnVotes (m : Dev) (js : Nat) (j : Job) : Bool :=
  decide (j.phase = .learn) && ((j.learn.waits && !j.learn.configured && decide (0 < j.learn.runRemaining))
    || (decide (j.learn.commitAt = some (j.stroke + 1))
      && (m.colls ++ m.posts).any (fun c => decide (c.slot = js) && decide (c.poster = .gather))))

end Sys2Proof.Machine
end

