-- ==== Sys2Proof/Machine/LinkBase.lean ====
section
/-! DEFINITION. Sys2Proof/Machine/LinkBase.lean: what a Jainzel link is (chapter 11): its registers, its states, what is sent
on it, and the tree entries. -/

namespace Sys2Proof.Machine

/-! ### Registers (R475 to R478) -/

def linkCode : LinkState → Nat
  | .off => 0 | .training => 1 | .wide => 2 | .half => 3 | .narrow => 4 | .failed => 5

def linkUp (l : Link) : Bool := decide (l.st = .wide) || decide (l.st = .half) || decide (l.st = .narrow)

def jlStatus (l : Link) : Nat :=
  linkCode l.st + (b2n l.enabled <<< 3) + (l.lanesOk <<< 4) + (l.flight % 2048 <<< 8) + (l.cause <<< 19) + (l.upSince % 2 ^ 32 <<< 32)

def jlPeer (l : Link) : Nat := l.peerPos % 65536 + (l.peerLink % 32 <<< 16) + (b2n l.peerValid <<< 21)

def jlErr (l : Link) : Nat :=
  sat 32 l.corrected + (sat 12 l.uncorr <<< 32) + (sat 8 l.fecPath <<< 44) + (sat 4 l.noTree <<< 52) + (sat 4 l.noRoute <<< 56)
    + (sat 4 l.window <<< 60)

def jlRetry (l : Link) : Nat :=
  sat 32 l.replays + (sat 8 l.laneFaults <<< 32) + (sat 8 l.downs <<< 40) + (sat 8 l.trains <<< 48) + (sat 8 l.fShifts <<< 56)

/-! ### Checks and layouts of frames and flits (R448, R452, R455) -/

/-- A CRC of width `w`, most significant bit first, from 0 (DESIGN CHOICE, log entry 20: the manual gives the polynomials alone). -/
def crcBits (w poly : Nat) (bits : List Bool) : Nat :=
  bits.foldl (fun c b => (c * 2 % 2 ^ w) ^^^ (if bitOf c (w - 1) ≠ b then poly else 0)) 0

/-- The bits of bytes, each from its most significant. -/
def byteBits (l : List Byte) : List Bool := l.flatMap (fun b => (List.range 8).map (fun i => bitOf b.toNat (7 - i)))

/-- The frame header (R448), with HCHK over bits 55:0. -/
def headerWord (seq ack : Nat) (nak exp : Bool) (vc : Option Nat) (creditVc credit : Nat) (wideReq : Bool) (keep : Option Nat) : Nat :=
  let h := seq + (ack <<< 12) + (b2n nak <<< 24) + (b2n exp <<< 25) + (vc.getD 0 <<< 26) + (b2n vc.isSome <<< 29) + (creditVc <<< 30)
    + (credit <<< 33) + (b2n wideReq <<< 41) + (b2n keep.isSome <<< 42) + (keep.getD 0 <<< 43)
  h + (crcBits 8 0x07 ((List.range 56).map (fun i => bitOf h (55 - i))) <<< 56)

/-- Bytes 0 to 11 of an express flit (R455). -/
def flitBody : Flit → List Byte
  | .boundary tree natt count stretched first =>
    leBytes 1 (1 + 16 * b2n stretched + 32 * b2n first) ++ leBytes 2 tree ++ leBytes 1 natt ++ leBytes 8 count
  | .stretch tree n count => leBytes 1 2 ++ leBytes 2 tree ++ leBytes 1 n ++ leBytes 8 count
  | .vote tree count v lowest voters =>
    leBytes 1 3 ++ leBytes 2 tree ++ leBytes 2 count ++ leBytes 1 (b2n v) ++ leBytes 2 lowest ++ leBytes 2 voters ++ zeros 2
  | .join tree n => leBytes 1 4 ++ leBytes 2 tree ++ leBytes 2 n ++ zeros 7
  | .attach tree i data => leBytes 1 5 ++ leBytes 2 tree ++ leBytes 1 i ++ padTo 8 (data.take 8)
  | .declare p reason => leBytes 1 6 ++ leBytes 2 0xFFFF ++ leBytes 2 p ++ leBytes 2 reason ++ zeros 5

/-- An express flit: its CRC-32 follows in bytes 12 to 15 (R452). -/
def flitBytes (f : Flit) : List Byte := flitBody f ++ leBytes 4 (crcBits 32 0x04C11DB7 (byteBits (flitBody f)))

/-! ### The retry buffer (R450) -/

/-- The sender may send a new frame: at most 4,095 are unacknowledged. -/
def mayFrame (k : Link) : Bool := decide (k.retry.length < 4095)

/-- A frame takes its SEQ and stands in the retry buffer. -/
def frameSent (l : Nat) (x : Sent) (m : Dev) : Dev :=
  updLink m l (fun k => { k with retry := k.retry ++ [(k.nextSeq, x)], nextSeq := (k.nextSeq + 1) % 4096 })

/-- An express flit goes out in a frame. -/
def putFlit (l : Nat) (f : Flit) (m : Dev) : Dev := send (frameSent l (.flit f) m) (.flit l f)

/-- Sends an express flit on a link that is up: in the first frame, or behind the flits that wait for an ACK (R450, R454). -/
def sendFlit (m : Dev) (l : Nat) (f : Flit) : Dev :=
  let k := linkAt m l
  if !linkUp k then m
  else if mayFrame k && k.flitq.isEmpty then putFlit l f m
  else updLink m l (fun k => { k with flitq := k.flitq ++ [f] })

/-- The retry buffer once an ACK has come: what it covers has left. -/
def ackedTo (ack : Nat) (q : List (Nat × Sent)) : List (Nat × Sent) :=
  if q.any (fun x => decide (x.1 = ack)) then (q.dropWhile (fun x => decide (x.1 ≠ ack))).drop 1 else q

/-! ### Link states (R445, R451, R479) -/

/-- Changes a link's state, with LINK_STATE, and UP_SINCE at an entry to WIDE, HALF or NARROW. -/
def setLinkState (l : Nat) (s : LinkState) (m : Dev) : Dev :=
  let old := linkAt m l
  if old.st = s then m
  else
    let m := updLink m l (fun k => { k with st := s })
    let m := updLink m l (fun k => if linkUp k then { k with upSince := m.ctl.localStroke % 2 ^ 32 } else k)
    raiseModule m 0x0B60 0 (leBytes 1 l ++ leBytes 1 (linkCode old.st) ++ leBytes 1 (linkCode s) ++ leBytes 1 old.cause
      ++ leBytes 2 old.peerPos)

/-- The entry of a tree. -/
def treeOf (m : Dev) (t : Nat) : Option TreeEntry := m.net.trees.find? (fun e => decide (e.tree = t))

def isMember (e : TreeEntry) : Bool := bitOf e.flags 0

/-- R468: the link on which a packet for a destination leaves. -/
def routeLink (m : Dev) (dest : Nat) : Option Nat :=
  let e := tget 0 m.net.routes dest
  let p := e % 32
  let a := e >>> 6 % 32
  let k := linkAt m p
  if bitOf e 5 && linkUp k && !(decide (k.st = .narrow) && !(k.peerValid && decide (k.peerPos = dest))) then some p
  else if bitOf e 11 && linkUp (linkAt m a) then some a
  else none

/-- R59: the module forwards and delivers what arrives on its links. -/
def forwarding (m : Dev) : Bool := decide (m.sys.st = .ready) || decide (m.sys.st = .active) || decide (m.sys.st = .quiesced)

/-- R59: what a packet or a flit that arrives does; in OFF, BOOT, MINIMAL and FAILED it is not delivered. -/
def arriving (f : Dev → Dev) (m : Dev) : Dev := if forwarding m then f m else m

/-! ### Channels and credit (R460 to R462) -/

/-- Frames of a data unit: 200 bytes of flit space a frame (R447). -/
def unitFrames (n : Nat) : Nat := (n + 199) / 200

/-- Bytes of a chunk: its header, its payload and its poison map (R495). -/
def chunkBytes (c : Chunk) : Nat := 64 + c.payload.length + upTo64 ((c.poison.length + 7) / 8)

/-- Bytes of a bulk packet (R463). -/
def packetBytes (p : Packet) : Nat := 40 + p.payload.length

/-- R462: the channel has data and credit. -/
def vcReady (k : Link) (v : Nat) : Bool := decide (0 < nth 0 k.credit v) && k.txq.any (fun u => decide (u.1 = v))

/-- R461: the channel of the next frame. -/
def nextVc (k : Link) : Option Nat :=
  let coll := ((List.range 6).map (fun i => (k.lastVc + 1 + i) % 6)).find? (vcReady k)
  let bulk := [13 - k.lastBulk, k.lastBulk].find? (vcReady k)
  if bulk.isSome ∧ (coll.isNone ∨ 15 ≤ k.bulkWait) then bulk else coll

/-- One frame of a channel: its oldest unit goes on, and the unit is on the link with its last frame. -/
def frameOut (v : Nat) : List (Nat × Nat × Out) → List (Nat × Nat × Out) × Option Out
  | [] => ([], none)
  | u :: l =>
    if u.1 = v then
      if u.2.1 ≤ 1 then (l, some u.2.2) else ((v, u.2.1 - 1, u.2.2) :: l, none)
    else let r := frameOut v l; (u :: r.1, r.2)

/-- The link after one frame of a channel, and the unit that it completes. -/
def serveVc (k : Link) (v : Nat) : Link × Option Out :=
  let r := frameOut v k.txq
  ({ k with
      txq := r.1, credit := setNth k.credit v (nth 0 k.credit v - 1)
      lastVc := if v < 6 then v else k.lastVc, lastBulk := if v < 6 then k.lastBulk else v
      bulkWait := if v < 6 then (if vcReady k 6 || vcReady k 7 then k.bulkWait + 1 else k.bulkWait) else 0 }, r.2)

/-- Sends frames while it may: waiting express flits first (R454), then what channels have data and credit for. -/
def serveLink (l : Nat) : Nat → Dev → Dev
  | 0, m => m
  | n + 1, m =>
    let k := linkAt m l
    if !mayFrame k then m
    else match k.flitq, nextVc k with
      | f :: q, _ => serveLink l n (putFlit l f (updLink m l (fun k => { k with flitq := q })))
      | [], none => m
      | [], some v =>
        let r := serveVc k v
        let m := frameSent l (.data v r.2) (updLink m l (fun _ => r.1))
        serveLink l n (match r.2 with | some o => send m o | none => m)

/-- The frames that may go out at most: those of the waiting flits and those for which there is credit. -/
def creditLeft (k : Link) : Nat := k.flitq.length + k.credit.sum

/-- A data unit of `bytes` bytes on a channel of a link that is up: it follows the units before it as credit allows. -/
def sendUnit (m : Dev) (l v bytes : Nat) (o : Out) : Dev :=
  if linkUp (linkAt m l) then
    let m := updLink m l (fun k => { k with txq := k.txq ++ [(v, unitFrames bytes, o)] })
    serveLink l (creditLeft (linkAt m l)) m
  else m

/-- R462: a unit that has been taken leaves the receive buffer of its channel, and its frames of credit are owed. -/
def unitTaken (l v bytes : Nat) (m : Dev) : Dev :=
  updLink m l (fun k =>
    let n := min (unitFrames bytes) (nth 0 k.rx v)
    { k with rx := setNth k.rx v (nth 0 k.rx v - n), owed := setNth k.owed v (nth 0 k.owed v + n) })

/-- R462: the credit that the next header returns, one channel per header: the lowest that is owed some. -/
def creditDue (k : Link) : Nat × Nat :=
  match (List.range 8).find? (fun v => decide (0 < nth 0 k.owed v)) with
  | some v => (v, min 255 (nth 0 k.owed v))
  | none => (0, 0)

/-- R472: the module requests WIDE in P0 to P2. -/
def ownWide (m : Dev) : Bool := decide (powerState m < 3)

/-- A header on link `l`, with the credit that is due. -/
def sendHeader (l ack : Nat) (nak : Bool) (m : Dev) : Dev :=
  let c := creditDue (linkAt m l)
  send (updLink m l (fun k => { k with owed := setNth k.owed c.1 (nth 0 k.owed c.1 - c.2) })) (.header l ack nak c.1 c.2 (ownWide m) (linkAt m l).keepPair)

/-- The packets of 64 to 4,096 bytes that carry `data` into a window, in order, from an offset (R463). -/
def packetsOf (m : Dev) (dest window vc : Nat) : Nat → Nat → List Byte → List Bool → List Packet
  | 0, _, _, _ => []
  | n + 1, o, l, marks =>
    let part := l.take 4096
    { type := 1, dest := dest, src := m.net.position.getD 0xFFFF, window := window, offset := o
      payload := padTo (upTo64 part.length) part
      poisonMap := (List.zip (List.range 64) marks).foldl (fun a b => a + (b2n b.2 <<< b.1)) 0
      crcOk := true, vc := vc } :: packetsOf m dest window vc n (o + 4096) (l.drop 4096) (marks.drop 64)

/-- R463: WRITE packets for a window. -/
def writePackets (m : Dev) (dest window vc : Nat) (data : List Byte) (marks : List Bool) : List Packet :=
  packetsOf m dest window vc ((data.length + 4095) / 4096) 0 data marks

/-- R468: a packet of the module's own engines by route; the engine is told when there is none. -/
def sendRouted (m : Dev) (p : Packet) : Dev :=
  match routeLink m p.dest with
  | some l => sendUnit m l p.vc (packetBytes p) (.packet l p)
  | none => send m (.noRoute p.dest)

/-- R548: packets striped over the named links that are up, in round robin. -/
def sendStriped (links : Nat) (ps : List Packet) (m : Dev) : Dev :=
  let up := (bitsOf 32 links).filter (fun l => linkUp (linkAt m l))
  if up.isEmpty then m
  else (List.zip (List.range ps.length) ps).foldl (fun m x =>
    let l := nth 0 up (x.1 % up.length)
    sendUnit m l x.2.vc (packetBytes x.2) (.packet l x.2)) m

/-- A CONTROL packet (R463). The manual names no channel for it; the model takes VC6 (DESIGN CHOICE, log entry 20). -/
def controlPacket (m : Dev) (dest : Nat) (payload : List Byte) : Packet :=
  { type := 2, dest := dest, src := m.net.position.getD 0xFFFF, window := 0, offset := 0, payload := payload, poisonMap := 0
    crcOk := true, vc := 6 }

/-- A CONTROL packet of the module's own engines. -/
def sendControl (m : Dev) (dest : Nat) (payload : List Byte) : Dev := sendRouted m (controlPacket m dest payload)

/-- A CONTROL packet from a source that may not send it is counted in JL_ERR of the link that leads to its source, when the
link that it came on is not given (DESIGN CHOICE, log entry 20). -/
def discardPacket (src : Nat) (m : Dev) : Dev :=
  match routeLink m src with
  | some l => updLink m l (fun k => { k with window := sat 4 (k.window + 1) })
  | none => m

/-- Sends a collective chunk on its channel of a link that is up. -/
def sendChunk (m : Dev) (l : Nat) (c : Chunk) : Dev := sendUnit m l c.vc (chunkBytes c) (.chunk l c)

end Sys2Proof.Machine
end

