-- ==== Sys2Proof/Machine/Collectives.lean ====
section
/-! DEFINITION. Sys2Proof/Machine/Collectives.lean: groups, the collective engines, the header, data and end passes, aborts
and restarts (chapter 12). Readings that the manual does not state are in log entry 17. -/

namespace Sys2Proof.Machine

/-! ### Groups and trees (R484, R485) -/

def groupAt' (m : Dev) (slot g : Nat) : Option Group := tfind m.groups (slot * 65536 + g)

def updGroup (m : Dev) (slot g : Nat) (f : Group → Group) : Dev := { m with groups := tupd m.groups (slot * 65536 + g) f }

/-- The tree of a group that is rooted at a position. -/
def groupTree (g : Group) (root : Nat) : Option Nat := (g.roots.find? (fun r => decide (r.1 = root))).map (·.2)

/-- R485: the group spans the dies of one module only. -/
def isLocal (g : Group) : Bool := g.roots.any (fun r => decide (r.2 = 0xFFFF))

/-- The module's position identifier. -/
def ownPos (m : Dev) : Nat := m.net.position.getD 0xFFFF

/-- The links of a tree at this module: the link UP, none at the root, and the links DOWN (R469). -/
structure TreeLinks where
  up : Option Nat := none
  down : List Nat := []
deriving DecidableEq, Repr

def treeLinks (m : Dev) (tree : Nat) : TreeLinks :=
  match treeOf m tree with
  | some e => { up := if e.up < 32 then some e.up else none, down := bitsOf 32 e.down }
  | none => {}

/-- One native phase of a collective at this module (R482): its tree, its root, and the range of the tensor it moves. -/
structure CollPhase where
  reduce : Bool
  tree : Nat
  root : Nat
  first : Nat
  len : Nat
  /-- a broadcast of the result of the phase before it, chunk by chunk -/
  after : Bool := false
deriving DecidableEq, Repr

/-- R482: the phases of a collective in a group of several modules. -/
def collPhases (m : Dev) (c : Coll) : List CollPhase :=
  match groupAt' m c.slot c.group with
  | none => []
  | some g =>
    let t := (groupTree g c.root).getD 0xFFFF
    let piece := c.bytes / g.roots.length
    let each := fun (reduce : Bool) => (List.zip (List.range g.roots.length) g.roots).map (fun r =>
      ({ reduce := reduce, tree := r.2.2, root := r.2.1, first := r.1 * piece, len := piece } : CollPhase))
    let one := fun (reduce : Bool) => ({ reduce := reduce, tree := t, root := c.root, first := 0, len := c.bytes } : CollPhase)
    match c.op with
    | 1 => [one false]
    | 2 => [one true]
    | 3 => [one true, { one false with after := true }]
    | 4 =>
      let t2 := ((groupAt' m c.slot c.group2).bind (fun g2 => groupTree g2 c.root)).getD 0xFFFF
      [one true, { one false with tree := t2, after := true }]
    | 5 => each false
    | 6 => [one true]
    | 7 => [one false]
    | _ => each true

def collLocal (m : Dev) (c : Coll) : Bool :=
  match groupAt' m c.slot c.group with | some g => isLocal g | none => false

/-- The tree of the header pass and of the end pass (R492). -/
def collTree (m : Dev) (c : Coll) : TreeLinks :=
  match groupAt' m c.slot c.group with
  | some g => treeLinks m ((groupTree g c.root).getD 0xFFFF)
  | none => {}

/-- Every tree link of the collective at this module. -/
def collLinks (m : Dev) (c : Coll) : List Nat :=
  if collLocal m c then []
  else (((collTree m c) :: (collPhases m c).map (fun p => treeLinks m p.tree)).flatMap (fun t => t.up.toList ++ t.down)).dedup

/-- R485: the module's anchor. -/
def anchorOf (m : Dev) (c : Coll) : Nat :=
  if ownPos m = c.root ∧ c.rootDie < 8 then c.rootDie
  else match groupAt' m c.slot c.group with
    | some g => ((bitsOf 8 g.dies).head?).getD 0
    | none => 0

def sameColl (c d : Coll) : Bool := decide (c.slot = d.slot) && decide (c.group = d.group) && decide (c.seq = d.seq)

def updColl (m : Dev) (c : Coll) (f : Coll → Coll) : Dev :=
  { m with colls := m.colls.map (fun d => if sameColl c d then f d else d) }

def findColl (m : Dev) (c : Coll) : Option Coll := m.colls.find? (sameColl c)

def collUnit (die : Nat) : Nat := die * 256 + 0xC0

/-- Chunks of a phase (R495). -/
def chunkCount (c : Coll) (p : CollPhase) : Nat := (p.len + 2 ^ c.chunkLog - 1) / 2 ^ c.chunkLog

/-- The header fields that every chunk of a collective carries. -/
def collChunk (m : Dev) (c : Coll) (kind flags tree : Nat) : Chunk :=
  { kind := kind, flags := flags, tree := tree, src := ownPos m, phase := 0, restarts := c.restarts, digest := c.digest
    chunk := 0, epoch := c.epoch, seq := c.seq, group := c.group, payload := [], poison := [], vc := c.vc }

def sendDown (m : Dev) (t : TreeLinks) (c : Chunk) : Dev := t.down.foldl (fun m l => sendChunk m l c) m

/-! ### Combining (R483, R486) -/

/-- One FP32 combine of FSUM: rne32, or sr32 with a draw. -/
def fsum32 (d : Option Nat) (a b : Nat) : Nat := match d with | some x => addSr32 a b x | none => add32 a b

/-- R429: the combine of two step records of 32 bytes, with a draw for LOSS and one for SQNORM. -/
def combineRecord (d : Option (Nat × Nat)) (a b : List Byte) : List Byte :=
  let f := fun o => (recField a o 4, recField b o 4)
  leBytes 4 ((f 0).1 ||| (f 0).2) ++ leBytes 4 ((f 4).1 + (f 4).2) ++ leBytes 4 ((f 8).1 + (f 8).2)
    ++ leBytes 4 (fsum32 (d.map (·.1)) (f 12).1 (f 12).2) ++ leBytes 4 (fsum32 (d.map (·.2)) (f 16).1 (f 16).2) ++ zeros 12

/-- R483: the combine of one element. `red` 3 combines byte by byte. -/
def combineElem (red : Nat) (d : Option (Nat × Nat)) (a b : List Byte) : List Byte :=
  match red with
  | 1 => leBytes 4 (fsum32 (d.map (·.1)) (leNat a) (leNat b))
  | 2 => leBytes 4 (leNat a + leNat b)
  | 3 => (List.zip a b).map (fun x => x.1 ||| x.2)
  | 4 => leBytes 4 (maxMin32 true (leNat a) (leNat b))
  | _ => combineRecord d a b

/-- Bytes of an element as it is combined; an OR is taken over whole blocks. -/
def elemBytes (red : Nat) : Nat := match red with | 3 => 64 | 5 => 32 | _ => 4

/-- The combine of two contributions of equal length; `draws` gives the draws of an element. -/
def combineData (red : Nat) (draws : Nat → Option (Nat × Nat)) (a b : List Byte) : List Byte :=
  let n := elemBytes red
  let xs := chunksOf n a.length a
  ((List.zip (List.range xs.length) (List.zip xs (chunksOf n b.length b))).flatMap
    (fun x => combineElem red (draws x.1) x.2.1 x.2.2))

/-- R231: the draws of the collective stream for an element of a chunk. A STEPREC element has a call of its own. -/
def collDraw (m : Dev) (c : Coll) (chunk e : Nat) : Option (Nat × Nat) :=
  match jobAt m c.slot with
  | none => none
  | some j =>
    let g := if c.red = 5 then e else e / 8
    let ws := philox (g % 2 ^ 32) (chunk % 2 ^ 32) (c.seq % 2 ^ 32) (ownPos m % 65536 + 65536) (j.seed % 2 ^ 32) (j.seed >>> 32 % 2 ^ 32)
    if c.red = 5 then some (nth 0 ws 0 % 65536, nth 0 ws 0 / 65536)
    else
      let w := nth 0 ws (e % 8 / 2)
      some (if e % 2 = 0 then w % 65536 else w / 65536, 0)

/-- A contribution with the poison marks of its blocks. -/
structure Contrib where
  data : List Byte
  poison : List Bool
deriving DecidableEq, Repr

def combine (red : Nat) (draws : Nat → Option (Nat × Nat)) (a b : Contrib) : Contrib :=
  { data := combineData red draws a.data b.data, poison := (List.zip a.poison b.poison).map (fun x => x.1 || x.2) }

/-- A combine in which an input may be absent. -/
def combineOpt (red : Nat) (a b : Option Contrib) : Option Contrib :=
  match a, b with
  | some a, some b => some (combine red (fun _ => none) a b)
  | some a, none => some a
  | none, b => b

/-- R237: the combine over the eight dies, with an absent die dropped from the expression. -/
def combineDies (red : Nat) (f : Nat → Option Contrib) : Option Contrib :=
  let p := fun a b => combineOpt red a b
  p (p (p (f 0) (f 1)) (p (f 2) (f 3))) (p (p (f 4) (f 5)) (p (f 6) (f 7)))

/-- R499: some element of combined data is NaN or infinite. -/
def nonfiniteData (red typ : Nat) (l : List Byte) : Bool :=
  match red with
  | 1 | 4 =>
    if typ = 4 then (chunksOf 2 l.length l).any (fun x => codeNonfinite bf16 (leNat x))
    else (chunksOf 4 l.length l).any (fun x => codeNonfinite fp32 (leNat x))
  | 5 => (chunksOf 32 l.length l).any (fun x => codeNonfinite fp32 (recField x 12 4) || codeNonfinite fp32 (recField x 16 4))
  | _ => false

/-! ### Collectives that engines of the module post (R516, R536, R538, R563, R610) -/

/-- The die gives to the collective. -/
def gives (d : CollDie) : Bool := match d.engine with
  | some e => e.record.isSome || !e.reads.isEmpty
  | none => decide (d.src ≠ 0)

/-- An address in what the die reads. -/
def srcAddr (d : CollDie) : Nat := match d.engine with
  | some e => match e.reads with | p :: _ => p.1 | [] => 0
  | none => d.src

def updTurn (m : Dev) (slot : Nat) (f : Turn → Turn) : Dev := updJob m slot (fun j => { j with turn := f j.turn })
def updSecure (m : Dev) (slot : Nat) (f : Secure → Secure) : Dev := updJob m slot (fun j => { j with secure := f j.secure })

/-- R538: the stage record is complete at the origin, which acts at its next boundary. -/
def stageRecordDone (js : Nat) (words : List Nat) (m : Dev) : Dev :=
  match jobAt m js with
  | none => m
  | some j =>
    if j.isOrigin ∧ j.phase = .turning ∧ j.turn.next = none then
      let low := ((List.range 6).find? (fun i => decide (nth 0 words (i + 2) ≠ 0))).map (· + 3)
      if nth 0 words 1 ≠ 0 then updTurn m js (fun t => { t with next := some (6, low.getD 0) })
      else if nth 0 words 0 = j.members then updTurn m js (fun t => { t with next := some (t.stage + 1, 0) })
      else m
    else m

/-- R563: the secure record is complete at the origin, which attaches its item at the next boundary. -/
def secureRecordDone (js : Nat) (words : List Nat) (m : Dev) : Dev :=
  match jobAt m js with
  | none => m
  | some j =>
    if j.isOrigin ∧ j.secure.opened ∧ j.secure.next = none then
      let gen := j.secure.begun
      let cause := (((List.range 5).find? (fun i => decide (nth 0 words (i + 2) ≠ 0))).map (· + 1)).getD 0
      let item := if nth 0 words 0 = j.members ∧ nth 0 words 1 = 0 then (2, 0, gen) else (3, cause, gen)
      updSecure m js (fun s => { s with next := some item })
    else m

/-- What the end of an engine's collective means to the engine: a record's sum at its root. -/
def engineEnd (c : Coll) (status : Nat) (m : Dev) : Dev :=
  let words := (chunksOf 4 16 c.result).map leNat
  if (status = 0 ∨ status = 0x8003) ∧ !c.result.isEmpty then
    match c.poster with
    | .stage => stageRecordDone c.slot words m
    | .secure => secureRecordDone c.slot words m
    | _ => m
  else m

/-! ### The end of a collective (R487, R498, R505) -/

/-- R498: the completion record of a die, DONE last. An engine's own collective has none. -/
def collRecord (m : Dev) (c : Coll) (d : CollDie) (status : Nat) : Dev :=
  if d.engine.isSome then m else
  let partly := decide (status = 0x6003 ∨ status = 0x6005) && decide (0 < d.written)
  let m := unitWrite m (collUnit d.die) c.slot d.doneAddr
    (leBytes 2 status ++ leBytes 1 (b2n d.nonfinite + 2 * b2n d.poison + 4 * b2n c.throttled + 8 * b2n partly)
      ++ leBytes 1 c.restarts ++ leBytes 4 c.seq ++ leBytes 8 d.digest
      ++ leBytes 8 (match jobAt m c.slot with | some j => j.stroke | none => 0) ++ leBytes 8 d.written) false
  unitWrite m (collUnit d.die) c.slot (d.doneAddr + 60) (leBytes 4 (c.seq + 1)) false

/-- R487: the staging banks return to their GIVER. -/
def returnStaging (m : Dev) (d : CollDie) : Dev :=
  (List.range d.stageCount).foldl (fun m i => updBank m d.die (d.stageFirst + i) (fun b =>
    if b.owner = 0xC0 ∧ b.giverValid then { b with owner := b.giver } else b)) m

/-- The scratchpad banks of a die that hold some of a range. -/
def rangeBanks (die a len : Nat) : List Nat :=
  if a = 0 ∨ len = 0 then [] else (List.range 160).filter (fun b =>
    decide (a < bankAddr die b + 0x100000) && decide (bankAddr die b < a + len))

/-- The banks that a descriptor names for its data and its record. -/
def namedBanks (c : Coll) (d : CollDie) : List Nat :=
  if d.engine.isSome then [] else rangeBanks d.die d.src c.bytes ++ rangeBanks d.die d.dst c.bytes ++ rangeBanks d.die d.doneAddr 64

/-- R487: the engine releases the other banks that an ended collective named to their GIVER (DEDUCED, log entry 17), once
no other collective names them. -/
def releaseNamed (c : Coll) (m : Dev) : Dev :=
  c.dies.foldl (fun m d => (namedBanks c d).foldl (fun m b =>
    if m.colls.any (fun x => x.dies.any (fun y => decide (y.die = d.die) && decide (b ∈ namedBanks x y))) then m
    else updBank m d.die b (fun k => if k.owner = 0xC0 ∧ k.giverValid then { k with owner := k.giver } else k)) m) m

/-- Adds to one of COLL_STATUS's counts, of the group and of the job: 0 posted, 1 completed, 2 mismatched, 3 aborted,
4 throttled, 5 restarts. -/
def collCount (m : Dev) (c : Coll) (i : Nat) : Dev :=
  let up := fun (l : List Nat) => setNth l i (nth 0 l i + 1)
  updJob (updGroup m c.slot c.group (fun g => { g with stats := up g.stats })) c.slot (fun j => { j with collStats := up j.collStats })

/-- Ends a collective at this module: records, staging, counts, sticky bits, and the flags of a learning step
(R499, R500, R428). -/
def collEnd (c : Coll) (status : Nat) (m : Dev) : Dev :=
  match findColl m c with
  | none => m
  | some c =>
    let status := if status = 0 ∧ c.throttled then 0x8003 else status
    let m := c.dies.foldl (fun m d =>
      let m := returnStaging (collRecord m c d status) d
      updFab m d.die (fun f => { f with
        mismatch := f.mismatch || decide (status = 0x6001), aborted := f.aborted || decide (status = 0x6003 ∨ status = 0x6005)
        throttled := f.throttled || decide (status = 0x8003), nonfinite := f.nonfinite || d.nonfinite
        poison := f.poison || d.poison
        mismatched := if status = 0x6001 then sat 16 (f.mismatched + 1) else f.mismatched
        abortedCount := if status = 0x6003 ∨ status = 0x6005 then sat 8 (f.abortedCount + 1) else f.abortedCount })) m
    let m := releaseNamed c { m with colls := m.colls.filter (fun d => !sameColl c d) }
    let m := if status = 0 ∨ status = 0x8003 then collCount m c 1 else m
    let m := if status = 0x6001 then collCount m c 2 else m
    let m := if status = 0x6003 ∨ status = 0x6005 then collCount m c 3 else m
    let m := if status = 0x8003 then collCount m c 4 else m
    let m := engineEnd c status m
    match jobAt m c.slot with
    | some j =>
      if j.phase = .learn then updLearn m c.slot (fun g => { g with
        flagNonfinite := g.flagNonfinite || c.dies.any (·.nonfinite), flagPoison := g.flagPoison || c.dies.any (·.poison)
        flagMismatch := g.flagMismatch || decide (status = 0x6001) })
      else m
    | none => m

/-! ### The data phase (R481, R486, R496 to R500) -/

/-- R503: an access of an engine to a stack that throttles may be delayed; nothing says which is. -/
def hotDelay (m : Dev) (a : Nat) : Bool × Dev :=
  match placeOf a with
  | .hbm k => if 0 < (tget {} m.mem.hbm k).level then (decide ((drawFree m 1).1 = 1), (drawFree m 1).2) else (false, m)
  | _ => (false, m)

/-- Cycles that a chunk takes on a link, for FAB_COLL_ACTIVE (R511): C / 100 GB/s at 700 MHz (DEDUCED, log entry 17). -/
def moveCycles (n : Nat) : Nat := n * 7 / 1000

def collActive (m : Dev) (slot die n : Nat) : Dev :=
  updFab m die (fun f => { f with job := some slot, active := (f.active + n) % 2 ^ 64 })

/-- The piece of the member of a rank (R482). -/
def pieceOf (m : Dev) (c : Coll) : Nat × Nat :=
  match groupAt' m c.slot c.group with
  | some g => (g.rank * (c.bytes / g.members), c.bytes / g.members)
  | none => (0, 0)

/-- What a die's source gives to a range of the tensor: nothing when the die has no source, and for GATHER only the
module's piece (R482). -/
def dieContrib (m : Dev) (c : Coll) (d : CollDie) (first len : Nat) : Option Contrib :=
  match d.contrib with
  | none => none
  | some x =>
    let data := (x.1.drop first).take len
    let poison := (x.2.drop (first / 64)).take ((len + 63) / 64)
    if c.op = 6 then
      let p := pieceOf m c
      if p.1 < first + len ∧ first < p.1 + p.2 then
        some { data := (List.zip (List.range len) data).map (fun b => if p.1 ≤ first + b.1 ∧ first + b.1 < p.1 + p.2 then b.2 else 0)
               poison := (List.zip (List.range poison.length) poison).map (fun b =>
                 b.2 && decide (p.1 ≤ first + 64 * b.1 ∧ first + 64 * b.1 < p.1 + p.2)) }
      else none
    else some { data := data, poison := poison }

/-- Writes a range of a result into a die's destination; SCATTER writes only the module's piece. -/
def writeDie (c : Coll) (die first : Nat) (x : Contrib) (nonfinite : Bool) (m : Dev) : Dev :=
  match (findColl m c).bind (fun c => c.dies.find? (fun d => decide (d.die = die))) with
  | none => m
  | some d =>
    let p := if c.op = 7 then pieceOf m c else (0, c.bytes)
    let lo := max first p.1
    let hi := min (first + x.data.length) (p.1 + p.2)
    if hi ≤ lo then m
    else match d.engine with
    | some e =>
      let marks := x.poison.any id
      let m := piecesWrite m x.data marks (spanPieces e.writes first x.data.length)
      let m := if c.poster = .run then updTurn m c.slot (fun t => { t with received := t.received + x.data.length * b2n (!e.writes.isEmpty) }) else m
      updColl m c (fun c => { c with
        result := if e.record.isSome then c.result.take first ++ x.data else c.result
        dies := c.dies.map (fun k => if k.die = die then { k with
          written := k.written + x.data.length * b2n (!e.writes.isEmpty), nonfinite := k.nonfinite || nonfinite, poison := k.poison || marks } else k) })
    | none =>
    if d.dst = 0 then m
    else
      let r := hotDelay m d.dst
      let m := r.2
      let data := (x.data.drop (lo - first)).take (hi - lo)
      let marks := ((List.zip (List.range x.poison.length) x.poison).filter (fun b =>
        b.2 && decide (lo ≤ first + 64 * b.1 ∧ first + 64 * b.1 < hi))).map (fun b => first + 64 * b.1)
      let m := unitWrite m (collUnit die) c.slot (d.dst + lo) data false
      let m := marks.foldl (fun m a => updMem m (fun y => memPoison y (d.dst + a) 64)) m
      updColl m c (fun c => { c with
        throttled := c.throttled || r.1
        dies := c.dies.map (fun e => if e.die = die then { e with
          written := e.written + (hi - lo), nonfinite := e.nonfinite || nonfinite, poison := e.poison || !marks.isEmpty } else e) })

/-- The dies that a phase's result is written to: every die of the group, of GROUP2 in the broadcast of
REDUCE_DELIVER. -/
def resultDies (m : Dev) (c : Coll) : List Nat :=
  match groupAt' m c.slot (if c.op = 4 then c.group2 else c.group) with
  | some g => bitsOf 8 g.dies
  | none => []

/-- A broadcast chunk at this module: sent on the links DOWN, and written by every die (R481). -/
def broadcastChunk (c : Coll) (p : CollPhase) (ph i flags : Nat) (x : Contrib) (m : Dev) : Dev :=
  let first := p.first + i * 2 ^ c.chunkLog
  let t := treeLinks m p.tree
  let fl := flags &&& 9 ||| (if x.poison.any id then 16 else 0)
  let k := { collChunk m c 3 fl p.tree with phase := ph, chunk := i, payload := x.data, poison := x.poison }
  let m := sendDown m t k
  let m := if t.down.isEmpty then m else collActive m c.slot (anchorOf m c) (moveCycles x.data.length)
  let m := (resultDies m c).foldl (fun m d => writeDie c d first x (bitOf flags 0) m) m
  updColl m c (fun c => { c with doneChunks := c.doneChunks ++ [(ph, i)] })

/-- The staged chunk of a link for a chunk of a phase. -/
def stagedFor (c : Coll) (ph i l : Nat) : Option StagedChunk :=
  c.staged.find? (fun s => decide (s.phase = ph) && decide (s.chunk = i) && decide (s.link = l))

/-- A child that will send nothing for a chunk: it has sent a later one of the phase, or ENDED (R482, GATHER). -/
def childPast (c : Coll) (ph i l : Nat) : Bool :=
  decide (l ∈ c.endeds) || c.staged.any (fun s => decide (s.phase = ph) && decide (i < s.chunk) && decide (s.link = l))

/-- A reduce chunk whose inputs are all here: the dies' combine, then the children in ascending order of position, each
with the draws of the chunk (R486). -/
def reduceChunk (c : Coll) (p : CollPhase) (ph i base : Nat) (after : Option CollPhase) (m : Dev) : Dev :=
  let first := p.first + i * 2 ^ c.chunkLog
  let len := min (2 ^ c.chunkLog) (p.len - i * 2 ^ c.chunkLog)
  let t := treeLinks m p.tree
  let own := combineDies c.red (fun d => (c.dies.find? (fun e => decide (e.die = d))).bind (fun e => dieContrib m c e first len))
  let kids := (t.down.filterMap (stagedFor c ph i)).mergeSort (fun a b => decide (a.src ≤ b.src))
  let draws := collDraw m c (base + i)
  let acc := kids.foldl (fun (a : Option Contrib) s =>
    let x : Contrib := { data := s.payload, poison := s.poison }
    match a with
    | some a => some (combine c.red draws a x)
    | none => some x) own
  let hot := c.dies.foldl (fun (r : Bool × Dev) d =>
    let h := if srcAddr d = 0 then (false, r.2) else hotDelay r.2 (srcAddr d)
    (r.1 || h.1, h.2)) (false, m)
  let m := hot.2
  let thr := hot.1 || kids.any (fun s => bitOf s.flags 3)
  let m := updColl m c (fun c => { c with throttled := c.throttled || thr
                                          staged := c.staged.filter (fun s => !(decide (s.phase = ph) && decide (s.chunk = i))) })
  match acc with
  | none => updColl m c (fun c => { c with doneChunks := c.doneChunks ++ [(ph, i)] })
  | some x =>
    let nonf := decide (c.red = 1 ∨ c.red = 4 ∨ c.red = 5) && (kids.any (fun s => bitOf s.flags 0) || nonfiniteData c.red c.typ x.data)
    let a := anchorOf m c
    let m := updColl m c (fun c => { c with dies := c.dies.map (fun d =>
      if d.die = a then { d with nonfinite := d.nonfinite || nonf } else d) })
    let m := collActive m c.slot a (if kids.isEmpty then 0 else 64)
    match t.up with
    | some l =>
      let fl := b2n nonf + 8 * b2n thr + (if x.poison.any id then 16 else 0)
      let m := collActive (sendChunk m l { collChunk m c 3 fl p.tree with phase := ph, chunk := i, payload := x.data, poison := x.poison })
        c.slot a (moveCycles len)
      updColl m c (fun c => { c with doneChunks := c.doneChunks ++ [(ph, i)] })
    | none =>
      match after with
      | some q =>
        let m := updColl m c (fun c => { c with doneChunks := c.doneChunks ++ [(ph, i)] })
        let thr := match findColl m c with | some c => c.throttled | none => thr
        broadcastChunk c q (ph + 1) i (b2n nonf + 8 * b2n thr) x m
      | none =>
        updColl (writeDie c a first x nonf m) c (fun c => { c with doneChunks := c.doneChunks ++ [(ph, i)] })

/-- Every die that gives to a reduce has read its source. -/
def sourcesRead (c : Coll) : Bool := c.dies.all (fun d => !gives d || d.ready)

/-- Chunks of the phases before a phase (R231: the chunk index within the collective, DEDUCED). -/
def chunkBase (c : Coll) (ps : List CollPhase) (ph : Nat) : Nat := ((ps.take ph).map (chunkCount c)).sum

/-- The chunk of a phase that is next in order. -/
def nextChunk (c : Coll) (ph : Nat) : Nat := (c.doneChunks.filter (fun x => decide (x.1 = ph))).length

/-- Tries to advance a phase by one chunk. -/
def phaseStep (c : Coll) (ps : List CollPhase) (ph : Nat) (p : CollPhase) (m : Dev) : Option Dev :=
  let i := nextChunk c ph
  if chunkCount c p ≤ i then none
  else
    let t := treeLinks m p.tree
    if p.reduce then
      if sourcesRead c && t.down.all (fun l => (stagedFor c ph i l).isSome || childPast c ph i l) then
        some (reduceChunk c p ph i (chunkBase c ps ph) ((ps[ph + 1]?).filter (·.after)) m)
      else none
    else match t.up with
      | some l =>
        match stagedFor c ph i l with
        | none => none
        | some s =>
          let m := updColl m c (fun c => { c with staged := c.staged.filter (fun x => !decide (x = s))
                                                  throttled := c.throttled || bitOf s.flags 3 })
          let m := updColl m c (fun c => { c with dies := c.dies.map (fun d =>
            if d.die = anchorOf m c then { d with nonfinite := d.nonfinite || bitOf s.flags 0 } else d) })
          some (broadcastChunk c p ph i s.flags { data := s.payload, poison := s.poison } m)
      | none =>
        if p.after then none
        else
          let first := p.first + i * 2 ^ c.chunkLog
          let len := min (2 ^ c.chunkLog) (p.len - i * 2 ^ c.chunkLog)
          match (c.dies.find? (fun d => decide (d.die = anchorOf m c))).bind (fun d => (d.contrib.map (fun x => (srcAddr d, x)))) with
          | none => none
          | some (src, x) =>
            let h := hotDelay m src
            let m := updColl h.2 c (fun c => { c with throttled := c.throttled || h.1 })
            some (broadcastChunk c p ph i (8 * b2n (c.throttled || h.1))
              { data := (x.1.drop first).take len, poison := (x.2.drop (first / 64)).take ((len + 63) / 64) } m)

/-- The first phase that can advance does so. -/
def collStep (c : Coll) (ps : List CollPhase) (m : Dev) : Option Dev :=
  (List.zip (List.range ps.length) ps).findSome? (fun x => phaseStep c ps x.1 x.2 m)

/-- R732: sends FINISH on the links DOWN; it waits for a link that is down. -/
def sendFinish (c : Coll) (m : Dev) : Dev :=
  let t := collTree m c
  let k := collChunk m c 6 0 (match groupAt' m c.slot c.group with | some g => (groupTree g c.root).getD 0xFFFF | none => 0xFFFF)
  t.down.foldl (fun m l =>
    if linkUp (linkAt m l) then sendChunk m l k else updNet m (fun n => { n with finWait := n.finWait ++ [(l, k)] })) m

/-- R732: the module's parts are done and every child has sent ENDED. -/
def tryEnd (c : Coll) (m : Dev) : Dev :=
  match findColl m c with
  | none => m
  | some c =>
    let ps := collPhases m c
    let t := collTree m c
    if c.st = .data ∧ (List.zip (List.range ps.length) ps).all (fun x => decide (chunkCount c x.2 ≤ nextChunk c x.1))
        ∧ t.down.all (fun l => decide (l ∈ c.endeds)) ∧ !c.endedSent then
      match t.up with
      | some l => updColl (sendChunk m l (collChunk m c 5 0 (match groupAt' m c.slot c.group with
          | some g => (groupTree g c.root).getD 0xFFFF | none => 0xFFFF))) c (fun c => { c with endedSent := true })
      | none => collEnd c 0 (sendFinish c m)
    else m

/-- Runs a collective as far as its inputs allow. -/
def collRun (c : Coll) : Nat → Dev → Dev
  | 0, m => tryEnd c m
  | fuel + 1, m =>
    match findColl m c with
    | none => m
    | some d =>
      if d.st = .data then
        match collStep d (collPhases m d) m with
        | some m' => collRun c fuel m'
        | none => tryEnd c m
      else m

def collFuel (m : Dev) (c : Coll) : Nat := ((collPhases m c).map (chunkCount c)).sum

/-- R485, R486, R482: a collective of a module-local group, once every die that gives has read its source. -/
def localRun (c : Coll) (g : Group) (m : Dev) : Dev :=
  let dies := bitsOf 8 g.dies
  let n := dies.length
  let part := c.bytes / n
  let get := fun d => c.dies.find? (fun e => decide (e.die = d))
  let whole := fun d => (get d).bind (fun e => dieContrib m c e 0 c.bytes)
  let wide := fun (x : Contrib) => if c.typ = 4 ∧ c.red = 1 then { x with data := (chunksOf 2 x.data.length x.data).flatMap (fun b => leBytes 4 (rne32 (fdec bf16 (leNat b)))) } else x
  let thin := fun (x : Contrib) => if c.typ = 4 ∧ c.red = 1 then { x with data := (chunksOf 4 x.data.length x.data).flatMap (fun b => leBytes 2 (rne16 (dec32 (leNat b)))) } else x
  let sum := (combineDies c.red (fun d => (whole d).map wide)).map thin
  let nonf := decide (c.red = 1 ∨ c.red = 4 ∨ c.red = 5) && (match sum with | some x => nonfiniteData c.red c.typ x.data | none => false)
  let cut := fun (x : Contrib) (i : Nat) => ({ data := (x.data.drop (i * part)).take part, poison := (x.poison.drop (i * part / 64)).take (part / 64) } : Contrib)
  let idx := List.zip (List.range n) dies
  let hot := c.dies.foldl (fun (r : Bool × Dev) d =>
    let h := if srcAddr d = 0 then (false, r.2) else hotDelay r.2 (srcAddr d)
    (r.1 || h.1, h.2)) (false, m)
  let m := updColl hot.2 c (fun c => { c with throttled := c.throttled || hot.1 })
  let m := match c.op with
    | 1 => match whole c.rootDie with
      | some x => dies.foldl (fun m d => writeDie c d 0 x false m) m
      | none => m
    | 7 => match whole c.rootDie with
      | some x => dies.foldl (fun m d => writeDie c d 0 x false m) m
      | none => m
    | 5 => idx.foldl (fun m s => match whole s.2 with
      | some x => dies.foldl (fun m d => writeDie c d (s.1 * part) (cut x s.1) false m) m
      | none => m) m
    | 8 => match sum with
      | some x => idx.foldl (fun m s => writeDie c s.2 (s.1 * part) (cut x s.1) nonf m) m
      | none => m
    | 3 | 4 => match sum with
      | some x => (resultDies m c).foldl (fun m d => writeDie c d 0 x nonf m) m
      | none => m
    | _ => match sum with
      | some x => writeDie c c.rootDie 0 x nonf m
      | none => m
  collEnd c 0 m

/-- Advances a collective: a module-local one is done at once when its sources have been read. -/
def collAdvance (c : Coll) (m : Dev) : Dev :=
  match findColl m c with
  | none => m
  | some c =>
    match groupAt' m c.slot c.group with
    | none => m
    | some g =>
      if isLocal g then
        let need := fun (d : CollDie) => match c.op with
          | 1 | 7 => decide (d.die = c.rootDie)
          | _ => gives d
        if c.st = .data ∧ c.dies.all (fun d => !need d || d.ready) then localRun c g m else m
      else collRun c (collFuel m c) m

/-! ### The header pass (R491 to R493) -/

/-- R491. -/
def collDigest (c : Coll) (jobId : Nat) : Nat :=
  digest8 (leBytes 8 c.bytes ++ leBytes 4 jobId ++ leBytes 4 c.epoch ++ leBytes 4 c.seq ++ leBytes 2 c.group ++ leBytes 2 c.group2
    ++ leBytes 2 c.root ++ leBytes 1 c.rootDie ++ leBytes 1 c.op ++ leBytes 1 c.red ++ leBytes 1 c.typ ++ leBytes 1 c.chunkLog ++ zeros 1)

def headerTree (m : Dev) (c : Coll) : Nat :=
  match groupAt' m c.slot c.group with | some g => (groupTree g c.root).getD 0xFFFF | none => 0xFFFF

/-- R512: COLL_DIGEST_MISMATCH. -/
def digestEvent (c : Coll) (other kind digest : Nat) (m : Dev) : Dev :=
  raiseJob m c.slot 0x0801 0x6001 (leBytes 2 c.group ++ zeros 2 ++ leBytes 4 c.seq ++ leBytes 8 c.digest ++ leBytes 8 digest
    ++ leBytes 2 other ++ leBytes 1 kind)

/-- GO without MISMATCH reaches the module: the run begins with every source unread. -/
def enterData (c : Coll) (m : Dev) : Dev :=
  collAdvance c (updColl m c (fun c => { c with
    st := .data, staged := [], doneChunks := [], endeds := [], endedSent := false
    result := []
    dies := c.dies.map (fun d =>
      let own := d.engine.bind (·.record)
      { d with
        contrib := own.map (fun r => (r, List.replicate ((r.length + 63) / 64) false)), ready := own.isSome
        nonfinite := false, poison := false, written := 0 }) }))

/-- GO at this module: on to the links DOWN, and with MISMATCH the collective ends (R492, R493). -/
def takeGo (c : Coll) (mismatch : Bool) (m : Dev) : Dev :=
  let m := sendDown m (collTree m c) (collChunk m c 2 (2 * b2n mismatch) (headerTree m c))
  if mismatch then collEnd c 0x6001 m else enterData c m

/-- R492 items 1 to 4: once the dies' digests and the children's HEADERs are here, HEADER goes up, or GO down from the
root. After a restart every tree link must be up again (R508). -/
def tryHeader (c : Coll) (m : Dev) : Dev :=
  match findColl m c with
  | none => m
  | some c =>
    let t := collTree m c
    let dies := match groupAt' m c.slot c.group with | some g => bitsOf 8 g.dies | none => []
    if c.st = .header ∧ !c.headerSent ∧ dies.all (fun d => c.dies.any (fun x => decide (x.die = d)))
        ∧ t.down.all (fun l => decide (l ∈ c.headers)) ∧ (collLinks m c).all (fun l => linkUp (linkAt m l)) then
      let m := updColl m c (fun c => { c with headerSent := true })
      match t.up with
      | some l => sendChunk m l (collChunk m c 1 (2 * b2n c.mismatch) (headerTree m c))
      | none => takeGo c c.mismatch m
    else m

/-- A HEADER of a child meets the collective: differing digests are noted where they meet. -/
def takeHeader (c : Coll) (link digest src : Nat) (mismatch : Bool) (m : Dev) : Dev :=
  let differs := decide (digest ≠ c.digest)
  let m := updColl m c (fun c => { c with headers := c.headers ++ [link], mismatch := c.mismatch || differs || mismatch })
  if differs then digestEvent c src 0 digest m else m

/-- The headers that came before the collective was posted, or before its restart. -/
def takeEarly (c : Coll) (m : Dev) : Dev :=
  match findColl m c, groupAt' m c.slot c.group with
  | some c, some g =>
    (collTree m c).down.foldl (fun m l =>
      match (findColl m c), (groupAt' m c.slot c.group) with
      | some d, some g =>
        match g.early.find? (fun e => decide (e.link = l) && decide (e.tree = headerTree m c) && decide (e.restarts = d.restarts)) with
        | some e =>
          if l ∈ d.headers then m
          else takeHeader d l e.digest e.src e.mismatch (updGroup m c.slot c.group (fun g => { g with early := g.early.erase e }))
        | none => m
      | _, _ => m) (updGroup m c.slot c.group (fun _ => g))
  | _, _ => m

/-- A collective enters its header pass. -/
def startHeader (c : Coll) (m : Dev) : Dev := tryHeader c (takeEarly c m)

/-! ### Posting (R487 to R490, R501, R502) -/

/-- R483: the combination of OP, RED and TYPE is allowed; BF16 sums only in a module-local group. -/
def collOps (op red typ : Nat) : Bool :=
  (match op with
    | 1 | 5 | 7 => decide (red = 0)
    | 6 => decide (red = 3)
    | 2 | 3 | 4 | 8 => decide (1 ≤ red ∧ red ≤ 5)
    | _ => false) &&
  (match red with
    | 0 => decide (typ ∈ [0, 1, 2, 4])
    | 1 => decide (typ ∈ [1, 4])
    | 2 => decide (typ = 2)
    | 3 => decide (typ ∈ [0, 2])
    | 4 => decide (typ = 1)
    | _ => decide (typ = 3))

/-- R489: a range lies in HBM, in the cistern, or in banks of the die that the engine owns for the job slot. -/
def collRange (m : Dev) (die slot a len : Nat) : Bool :=
  decide (a % 64 = 0) &&
  match placeOf a, placeOf (a + len - 1) with
  | .hbm _, .hbm _ => true
  | .hbm _, .cis _ => true
  | .cis _, .cis _ => true
  | .spad d b, .spad d' b' => decide (d = die) && decide (d' = die)
      && ((List.range (b' + 1 - b)).all (fun i => ownsBank m (collUnit die) slot die (b + i)))
  | _, _ => false

/-- The piece divisor of a piecewise operation (R482, R488); 1 for the others. -/
def pieceDivisor (g : Group) (op : Nat) : Nat :=
  let n := if isLocal g then (bitsOf 8 g.dies).length else g.roots.length
  match op with
  | 5 | 8 => n
  | 6 | 7 => g.members
  | 3 => if isLocal g then n else 1
  | _ => 1

/-- R496: the levels that a collective uses at this module. -/
def levelsUsed (m : Dev) (g : Group) (links : List Nat) : Nat :=
  let pod := fun l => let k := linkAt m l; k.peerValid && decide (k.peerPos >>> g.podShift = ownPos m >>> g.podShift)
  b2n (decide (1 < (bitsOf 8 g.dies).length)) + b2n (links.any pod) + b2n (links.any (fun l => !pod l))

/-- A descriptor as the collective it asks for (R488), with the next number of its group. -/
def collOf (m : Dev) (slot : Nat) (d : List Byte) : Coll :=
  let log := if recField d 3 1 = 0 then 18 else recField d 3 1
  { slot := slot, group := recField d 4 2, group2 := recField d 6 2
    seq := match groupAt' m slot (recField d 4 2) with | some g => g.seq | none => 0
    op := recField d 0 1, red := recField d 1 1, typ := recField d 2 1, chunkLog := log, root := recField d 8 2
    rootDie := recField d 10 1, vc := recField d 11 1, epoch := recField d 12 4, bytes := recField d 16 8, digest := 0, dies := [] }

/-- R489: the tests that need the group: 0, or the code of the first that fails. -/
def groupTests (m : Dev) (die : Nat) (c : Coll) (g : Group) (d : List Byte) : Nat :=
  let isL := isLocal g
  let rootOk := g.roots.any (fun r => decide (r.1 = c.root))
  let lowest := !decide (c.op = 5 ∨ c.op = 8) || decide ((g.roots.map (·.1)).head? = some c.root)
  let dieOk := if isL && decide (c.op = 3 ∨ c.op = 5 ∨ c.op = 8) then decide (c.rootDie = 0xFF)
    else decide (c.rootDie < 8) && (bitOf g.dies c.rootDie || (!isL && decide (ownPos m ≠ c.root)))
  let g2Ok := match groupAt' m c.slot c.group2 with
    | some g2 => decide (c.op ≠ 4) || (decide (g2.dies &&& g.dies = g2.dies) && decide (g2.members ≤ g.members)
        && g2.roots.any (fun r => decide (r.1 = c.root)) && decide (isLocal g2 = isL))
    | none => true
  let bf := decide (c.typ ≠ 4) || decide (c.red ≠ 1) || isL
  if !rootOk || !lowest || !dieOk || !g2Ok || !bf || !bitOf g.dies die || decide (c.bytes % (64 * pieceDivisor g c.op) ≠ 0) then 2
  else
    let anchor := decide (anchorOf m c = die)
    let n := recField d 49 1
    let need := 4 * levelsUsed m g (collLinks m c)
    let banks := (List.range n).all (fun i => decide (recField d 48 1 + i < 160) && ownsBank m (collUnit die) c.slot die (recField d 48 1 + i))
    if isL && !anchor then (if n = 0 then 0 else 2)
    else if anchor then (if 16 < n then 2 else if n < max 4 need || !banks then 3 else 0)
    else if n = 0 then 0 else 2

/-- R489, R501, R502: the result code of a descriptor. -/
def collResult (m : Dev) (die slot : Nat) (d : List Byte) : Nat :=
  let c := collOf m slot d
  let a := fun o => recField d o 8
  if anyByte d 50 6 || anyByte d 58 2 || anyByte d 62 2 then 1
  else if !collOps c.op c.red c.typ || !decide (recField d 3 1 = 0 ∨ (16 ≤ recField d 3 1 ∧ recField d 3 1 ≤ 20)) || !decide (c.vc ≤ 5)
      || !decide (1 ≤ c.bytes ∧ c.bytes % 64 = 0) || !decide (1 ≤ c.group) || !decide (c.op = 4 ↔ c.group2 ≠ 0) then 2
  else if !(decide (a 24 = 0) || collRange m die slot (a 24) c.bytes) || !(decide (a 32 = 0) || collRange m die slot (a 32) c.bytes)
      || !collRange m die slot (a 40) 64 then 3
  else match groupAt' m slot c.group with
    | none => 4
    | some g =>
      if c.op = 4 ∧ (groupAt' m slot c.group2).isNone then 4
      else
        let t := groupTests m die c g d
        if t ≠ 0 then t
        else match jobAt m slot with
          | none => 4
          | some j =>
            let full := decide (64 ≤ (m.colls.filter (fun x => x.dies.any (fun y => decide (y.die = die)))).length)
            if j.phase = .turning then
              if c.epoch = (j.epoch + 1) % 2 ^ 32 then (if full then 6 else 7) else 5
            else if c.epoch ≠ j.epoch then 5
            else if full then 6 else 0

/-- An accepted descriptor joins the oldest collective of its group that its die has not posted, or begins one
(R490). -/
def collAccept (die slot : Nat) (d : List Byte) (held : Bool) (m : Dev) : Dev :=
  let c := collOf m slot d
  let jobId := match jobAt m slot with | some j => j.id | none => 0
  let mate := m.colls.find? (fun x => decide (x.slot = slot) && decide (x.group = c.group) && decide (x.st ≠ .stopped)
    && !x.dies.any (fun y => decide (y.die = die)))
  let seq := match mate with | some x => x.seq | none => c.seq
  let c := { c with seq := seq }
  let dg := collDigest c jobId
  let c := { c with digest := dg }
  let e : CollDie := { die := die, src := recField d 24 8, dst := recField d 32 8, doneAddr := recField d 40 8
                       stageFirst := recField d 48 1, stageCount := recField d 49 1, digest := dg }
  let m := updFab m die (fun f => { f with posted := sat 32 (f.posted + 1) })
  let m := match mate with
    | none =>
      let m := updGroup m slot c.group (fun g => { g with seq := (g.seq + 1) % 2 ^ 32 })
      let c := { c with dies := [e], st := if held then .held else .header }
      collCount { m with colls := m.colls ++ [c] } c 0
    | some x =>
      let add := fun (l : List CollDie) => (l.takeWhile (fun y => decide (y.die < die))) ++ [e] ++ (l.dropWhile (fun y => decide (y.die < die)))
      let anchor := anchorOf m c
      let other := if anchor = die then dg else ((x.dies.find? (fun y => decide (y.die = anchor))).map (·.digest)).getD x.digest
      let bad := (add x.dies).filter (fun y => decide (y.digest ≠ other) && (decide (y.die = die) || decide (anchor = die)))
      let m := updColl m x (fun x =>
        let x := if anchor = die then { c with
          dies := x.dies, st := x.st, headers := x.headers, mismatch := x.mismatch, restarts := x.restarts, abortSeen := x.abortSeen }
          else x
        { x with dies := add x.dies, mismatch := x.mismatch || !bad.isEmpty })
      match findColl m x with
      | some y => bad.foldl (fun m b => digestEvent y b.die 1 b.digest m) m
      | none => m
  match findColl m c with
  | some x => if held then m else startHeader x m
  | none => m

/-- R480: an engine has room for one more collective on each of its dies, and the group is held. -/
def canPost (m : Dev) (c : Coll) : Bool :=
  (groupAt' m c.slot c.group).isSome
    && c.dies.all (fun d => decide ((m.colls.filter (fun x => x.dies.any (fun y => decide (y.die = d.die)))).length < 64))

/-- A collective that an engine of the module posts begins its header pass at once (R516): it takes the next number of its
group, and every die of it is there. -/
def postEngine (c : Coll) (m : Dev) : Dev :=
  match groupAt' m c.slot c.group with
  | none => m
  | some g =>
    let c := { c with seq := g.seq }
    let dg := collDigest c (match jobAt m c.slot with | some j => j.id | none => 0)
    let c := { c with digest := dg, dies := c.dies.map (fun d => { d with digest := dg }) }
    let m := updGroup m c.slot c.group (fun g => { g with seq := (g.seq + 1) % 2 ^ 32 })
    let m := c.dies.foldl (fun m d => updFab m d.die (fun f => { f with posted := sat 32 (f.posted + 1) })) m
    startHeader c (collCount { m with colls := m.colls ++ [c] } c 0)

/-- Posts what waits, job by job in order, while the engines have room. -/
def postWaiting : Nat → Dev → Dev
  | 0, m => m
  | n + 1, m =>
    match m.posts.find? (fun c => canPost m c && ((m.posts.find? (fun d => decide (d.slot = c.slot))) == some c)) with
    | none => m
    | some c => postWaiting n (postEngine c { m with posts := m.posts.erase c })

/-- Hands collectives of an engine to the collective engines. -/
def postAll (cs : List Coll) (m : Dev) : Dev := postWaiting (m.posts.length + cs.length) { m with posts := m.posts ++ cs }

/-- R538, R563: a record of sixteen words, summed over a group that is rooted at the origin. Every die of the group takes
part, and the anchor alone gives. -/
def postRecord (slot group : Nat) (poster : Poster) (epoch : Nat) (words : List Nat) (m : Dev) : Dev :=
  match jobAt m slot, groupAt' m slot group with
  | some j, some g =>
    let dies := bitsOf 8 g.dies
    let low := dies.head?.getD 0
    postAll [engineColl slot poster group 2 2 2 j.origin low epoch 64 dies
      (fun d => if d = low then { record := some (words.flatMap (leBytes 4)) } else {})] m
  | some j, none => { m with posts := m.posts ++ [engineColl slot poster group 2 2 2 j.origin 0 epoch 64 [0] (fun _ => { record := some (words.flatMap (leBytes 4)) })] }
  | none, _ => m

/-- Collectives of an engine of a job that are in flight or wait to be posted. -/
def engineBusy (m : Dev) (slot : Nat) (p : Poster) : Bool :=
  (m.colls ++ m.posts).any (fun c => decide (c.slot = slot) && decide (c.poster = p))

/-- One descriptor of a command bank: its RESULT and, when it is accepted, its collective. -/
def collPost (die slot addr : Nat) (x : Nat × Nat × Dev) (i : Nat) : Nat × Nat × Dev :=
  let m := x.2.2
  let a := addr + 64 + 64 * i
  let d := memRead m.mem a 64
  let r := collResult m die slot d
  let m := ownWrite m (a + 60) (leBytes 1 r)
  (x.1 + 1, x.2.1 + (if r = 0 then 0 else 1), if r = 0 ∨ r = 7 then collAccept die slot d (decide (r = 7)) m else m)

/-- COLL_BANK_HANDOVER (R487). -/
def collHandover (die bank : Nat) (m : Dev) : Dev :=
  let b := bankAt m die bank
  if b.owner = 0xC0 ∧ b.jobValid then
    let a := bankAddr die bank
    let count := memNat m.mem (a + 2) 2
    let m := headerRead m die bank
    if memNat m.mem a 2 = 0xA7C0 ∧ 1 ≤ count ∧ count ≤ 16383 then
      let r := (List.range count).foldl (collPost die b.jobSlot a) (0, 0, m)
      ownWrite r.2.2 (a + 8) (leBytes 4 r.1 ++ leBytes 4 r.2.1)
    else updFab (ownWrite m (a + 8) (zeros 4)) die (fun f => { f with badBatch := true })
  else m

def execCollBankHandover (die bank : Nat) (s : State) : Host.Outcome State Fault Refusal :=
  onDev (.collBankHandover die bank) (collHandover die bank) s

/-- R501: the held collectives of a job enter their header pass at a turn's commit, in order of acceptance. -/
def collStartHeld (slot : Nat) (m : Dev) : Dev :=
  (m.colls.filter (fun c => decide (c.slot = slot) && decide (c.st = .held))).foldl (fun m c =>
    startHeader { c with st := .header } (updColl m c (fun c => { c with st := .header }))) m

/-- R501: they end with EPOCH_STALE when the turn fails. -/
def collFailHeld (slot : Nat) (m : Dev) : Dev :=
  (m.colls.filter (fun c => decide (c.slot = slot) && decide (c.st = .held))).foldl (fun m c => collEnd c 0x1002 m) m

/-- R502: a collective of an epoch is in flight here. -/
def collInFlight (m : Dev) (slot epoch : Nat) : Bool :=
  m.colls.any (fun c => decide (c.slot = slot) && decide (c.epoch = epoch) && decide (c.st ≠ .held))

/-! ### The operations: a die's engine reads its source (R497) -/

/-- The die's source is read for this collective: every reduce with a source, and a broadcast's root. -/
def readsSource (m : Dev) (c : Coll) (d : CollDie) : Bool :=
  gives d &&
  (match c.op with
    | 1 | 7 => if collLocal m c then decide (d.die = c.rootDie) else decide (ownPos m = c.root) && decide (d.die = c.rootDie)
    | 5 => collLocal m c || ((collPhases m c).any (fun p => decide (p.root = ownPos m)) && decide (d.die = anchorOf m c))
    | _ => true)

/-- The poison marks of the blocks of a range. -/
def blockMarks (m : Dev) (a len : Nat) : List Bool :=
  (List.range ((len + 63) / 64)).map (fun i => memPoisoned m.mem (a + 64 * i) 64)

/-- R497, R500: what a die's source holds, with the poison marks of its blocks. -/
def dieSource (m : Dev) (c : Coll) (d : CollDie) : (List Byte × List Bool) × Dev :=
  match d.engine with
  | some e => e.reads.foldl (fun (x : (List Byte × List Bool) × Dev) p =>
      let m := readFinds x.2 (collUnit d.die) p.1 p.2
      ((x.1.1 ++ memRead m.mem p.1 p.2, x.1.2 ++ blockMarks m p.1 p.2), m)) (([], []), m)
  | none =>
    let r := unitRead m (collUnit d.die) c.slot d.src c.bytes
    ((r.1, if r.2.1 then blockMarks r.2.2 d.src c.bytes else List.replicate ((c.bytes + 63) / 64) false), r.2.2)

/-- A row of R481 or R482: the engine of a die reads its source, and the collective goes on. -/
def collRead (op die slot group seq : Nat) (m : Dev) : Dev :=
  match m.colls.find? (fun c => decide (c.slot = slot) && decide (c.group = group) && decide (c.seq = seq)
      && decide (c.op = op) && decide (c.st = .data)) with
  | none => m
  | some c =>
    match c.dies.find? (fun d => decide (d.die = die)) with
    | none => m
    | some d =>
      if d.ready then m
      else if readsSource m c d then
        let r := dieSource m c d
        let nonf := decide (c.red = 1 ∨ c.red = 4 ∨ c.red = 5) && nonfiniteData c.red c.typ r.1.1
        collAdvance c (updColl r.2 c (fun c => { c with dies := c.dies.map (fun e =>
          if e.die = die then { e with contrib := some r.1, ready := true, nonfinite := e.nonfinite || nonf } else e) }))
      else
        collAdvance c (updColl m c (fun c => { c with dies := c.dies.map (fun e => if e.die = die then { e with ready := true } else e) }))

def execBcast (die jobSlot group seq : Nat) (s : State) : Host.Outcome State Fault Refusal :=
  onDev (.bcast die jobSlot group seq) (collRead 1 die jobSlot group seq) s
def execReduce (die jobSlot group seq : Nat) (s : State) : Host.Outcome State Fault Refusal :=
  onDev (.reduce die jobSlot group seq) (collRead 2 die jobSlot group seq) s
def execAllreduce (die jobSlot group seq : Nat) (s : State) : Host.Outcome State Fault Refusal :=
  onDev (.allreduce die jobSlot group seq) (collRead 3 die jobSlot group seq) s
def execReduceDeliver (die jobSlot group seq : Nat) (s : State) : Host.Outcome State Fault Refusal :=
  onDev (.reduceDeliver die jobSlot group seq) (collRead 4 die jobSlot group seq) s
def execAllgather (die jobSlot group seq : Nat) (s : State) : Host.Outcome State Fault Refusal :=
  onDev (.allgather die jobSlot group seq) (collRead 5 die jobSlot group seq) s
def execGather (die jobSlot group seq : Nat) (s : State) : Host.Outcome State Fault Refusal :=
  onDev (.gather die jobSlot group seq) (collRead 6 die jobSlot group seq) s
def execScatter (die jobSlot group seq : Nat) (s : State) : Host.Outcome State Fault Refusal :=
  onDev (.scatter die jobSlot group seq) (collRead 7 die jobSlot group seq) s
def execReduceScatter (die jobSlot group seq : Nat) (s : State) : Host.Outcome State Fault Refusal :=
  onDev (.reduceScatter die jobSlot group seq) (collRead 8 die jobSlot group seq) s

/-! ### Restarts and aborts (R505 to R508) -/

/-- The run begins again from its header pass with a new restart count. What is staged is discarded. -/
def collRestart (c : Coll) (n : Nat) (m : Dev) : Dev :=
  let m := updColl m c (fun c => { c with
    st := .header, restarts := n % 256, mismatch := false, headers := [], endeds := [], headerSent := false, endedSent := false
    staged := [] })
  let m := collCount m c 5
  let m := c.dies.foldl (fun m d => updFab m d.die (fun f => { f with restarts := sat 4 (f.restarts + 1) })) m
  match findColl m c with
  | some c => startHeader c m
  | none => m

/-- R508: a link of a collective's tree has gone down before FINISH: ABORT with RESTART on the other tree links, and the
collective runs again. -/
def collLinkDown (l : Nat) (m : Dev) : Dev :=
  (m.colls.filter (fun c => (decide (c.st = .header) || decide (c.st = .data)) && decide (l ∈ collLinks m c))).foldl (fun m c =>
    match findColl m c with
    | none => m
    | some c =>
      let n := c.restarts + 1
      let k := { collChunk m c 4 4 (headerTree m c) with restarts := n % 256 }
      let m := ((collLinks m c).filter (fun x => decide (x ≠ l))).foldl (fun m x => sendChunk m x k) m
      let m := updColl m c (fun c => { c with abortSeen := c.abortSeen ++ [n] })
      let m := raiseJob m c.slot 0x0803 0 (leBytes 2 c.group ++ leBytes 1 (n % 256) ++ leBytes 1 l ++ leBytes 4 c.seq)
      collRestart c n m) m

/-- A link of a tree is up again: FINISH goes on (R732), and collectives that have restarted send their HEADER. -/
def collLinkUp (l : Nat) (m : Dev) : Dev :=
  let due := (m.net.finWait.filter (fun f => decide (f.1 = l))).map (·.2)
  let m := updNet m (fun n => { n with finWait := n.finWait.filter (fun f => decide (f.1 ≠ l)) })
  let m := due.foldl (fun m c => sendChunk m l c) m
  (m.colls.filter (fun c => decide (c.st = .header) && decide (l ∈ collLinks m c))).foldl (fun m c => tryHeader c m) m

/-- R512: COLL_ABORTED. -/
def abortEvent (c : Coll) (cause source : Nat) (m : Dev) : Dev :=
  raiseJob m c.slot 0x0802 (if cause = 0 then 0x6003 else 0x6005)
    (leBytes 2 c.group ++ leBytes 1 cause ++ zeros 1 ++ leBytes 4 c.seq ++ leBytes 2 source)

/-- R505: a partition reset here ends every collective of a job, with ABORT on every tree link. -/
def collAbortJob (slot : Nat) (m : Dev) : Dev :=
  let m := { m with posts := m.posts.filter (fun c => decide (c.slot ≠ slot)) }
  (m.colls.filter (fun c => decide (c.slot = slot))).foldl (fun m c =>
    let m := (collLinks m c).foldl (fun m l => sendChunk m l (collChunk m c 4 0 (headerTree m c))) m
    collEnd c 0x6003 m) m

/-- R506: on entry to RECOVERING every collective of the job stops. -/
def collStopJob (slot : Nat) (m : Dev) : Dev :=
  { m with colls := m.colls.map (fun c => if c.slot = slot then { c with st := .stopped } else c)
           posts := m.posts.filter (fun c => decide (c.slot ≠ slot)) }

/-- R506: at the first boundary after the entry they end with RECOVERY_ABORTED. -/
def collEndStopped (slot : Nat) (m : Dev) : Dev :=
  (m.colls.filter (fun c => decide (c.slot = slot) && decide (c.st = .stopped))).foldl (fun m c =>
    abortEvent c 1 (ownPos m) (collEnd c 0x6005 m)) m

/-! ### Chunks (R495) -/

/-- The slot of the job whose group a chunk belongs to: that of the job that the tree entry names, among the groups held
here. -/
def chunkSlot (m : Dev) (c : Chunk) : Option Nat :=
  match treeOf m c.tree with
  | none => none
  | some e =>
    match jobById m e.jobId with
    | some p => if (groupAt' m p.1 c.group).isSome then some p.1 else none
    | none => none

/-- R484: a chunk for a group that is not held is discarded and counted, at the lowest die's engine. -/
def strayChunk (m : Dev) : Dev := updFab m 0 (fun f => { f with stray := sat 4 (f.stray + 1) })

/-- The collective in flight that a chunk names. -/
def chunkColl (m : Dev) (slot : Nat) (c : Chunk) : Option Coll :=
  m.colls.find? (fun x => decide (x.slot = slot) && decide (x.group = c.group) && decide (x.seq = c.seq))

/-- A chunk on a link that is up, for a group that is held; another is dropped. -/
def onChunk (link : Nat) (c : Chunk) (f : Nat → Dev → Dev) (m : Dev) : Dev :=
  if !forwarding m ∨ !linkUp (linkAt m link) then m
  else if (treeOf m c.tree).isNone then updLink m link (fun k => { k with noTree := sat 4 (k.noTree + 1) })
  else match chunkSlot m c with
    | none => strayChunk m
    | some slot => f slot m

/-- HEADER_CHUNK: it meets the oldest collective of the group and tree that lacks it, or waits for one. -/
def headerChunk (link : Nat) (c : Chunk) : Dev → Dev :=
  onChunk link c (fun slot m =>
    match m.colls.find? (fun x => decide (x.slot = slot) && decide (x.group = c.group) && decide (x.st = .header)
        && decide (headerTree m x = c.tree) && decide (link ∉ x.headers) && decide (x.restarts = c.restarts)
        && decide (link ∈ (collTree m x).down)) with
    | some x => tryHeader x (takeHeader x link c.digest c.src (bitOf c.flags 1) m)
    | none =>
      if m.colls.any (fun x => decide (x.slot = slot) && decide (x.group = c.group) && decide (x.seq = c.seq)
          && decide (c.restarts < x.restarts)) then m
      else updGroup m slot c.group (fun g => { g with early := g.early ++ [{
        link := link, tree := c.tree, digest := c.digest, mismatch := bitOf c.flags 1, src := c.src, restarts := c.restarts }] }))

def execHeaderChunk (link : Nat) (chunk : Chunk) (s : State) : Host.Outcome State Fault Refusal :=
  onDev (.headerChunk link chunk) (headerChunk link chunk) s

/-- GO_CHUNK: from the link UP, for the present run. -/
def goChunk (link : Nat) (c : Chunk) : Dev → Dev :=
  onChunk link c (fun slot m =>
    match m.colls.find? (fun x => decide (x.slot = slot) && decide (x.group = c.group) && decide (x.st = .header) && x.headerSent
        && decide (headerTree m x = c.tree) && decide (x.restarts = c.restarts)) with
    | some x => if (collTree m x).up = some link then takeGo x (bitOf c.flags 1) m else m
    | none => m)

def execGoChunk (link : Nat) (chunk : Chunk) (s : State) : Host.Outcome State Fault Refusal :=
  onDev (.goChunk link chunk) (goChunk link chunk) s

/-- DATA_CHUNK: staged until its turn; one with a lower restart count is discarded (R507). -/
def dataChunk (link : Nat) (c : Chunk) : Dev → Dev :=
  onChunk link c (fun slot m =>
    match chunkColl m slot c with
    | some x =>
      if x.st = .data ∧ x.restarts = c.restarts ∧ x.digest = c.digest
          ∧ (stagedFor x c.phase c.chunk link).isNone ∧ nextChunk x c.phase ≤ c.chunk then
        let m := collActive m slot (anchorOf m x) (moveCycles c.payload.length)
        collAdvance x (updColl m x (fun x => { x with
          staged := x.staged ++ [{ phase := c.phase, chunk := c.chunk, link := link, src := c.src, flags := c.flags
                                   payload := c.payload, poison := c.poison }]
          throttled := x.throttled || bitOf c.flags 3 }))
      else m
    | none => m)

def execDataChunk (link : Nat) (chunk : Chunk) (s : State) : Host.Outcome State Fault Refusal :=
  onDev (.dataChunk link chunk) (dataChunk link chunk) s

/-- ABORT_CHUNK: with RESTART a new run, once per restart count (R508); otherwise the collective ends (R505). -/
def abortChunk (link : Nat) (c : Chunk) : Dev → Dev :=
  onChunk link c (fun slot m =>
    match chunkColl m slot c with
    | some x =>
      let on := fun m => ((collLinks m x).filter (fun l => decide (l ≠ link))).foldl (fun m l => sendChunk m l c) m
      if x.st = .stopped then m
      else if bitOf c.flags 2 then
        if x.restarts < c.restarts ∧ c.restarts ∉ x.abortSeen then
          collRestart x c.restarts (updColl (on m) x (fun x => { x with abortSeen := x.abortSeen ++ [c.restarts] }))
        else m
      else abortEvent x 0 c.src (collEnd x 0x6003 (on m))
    | none => m)

def execAbortChunk (link : Nat) (chunk : Chunk) (s : State) : Host.Outcome State Fault Refusal :=
  onDev (.abortChunk link chunk) (abortChunk link chunk) s

/-- ENDED_CHUNK (R732 items 2 and 3). -/
def endedChunk (link : Nat) (c : Chunk) : Dev → Dev :=
  onChunk link c (fun slot m =>
    match chunkColl m slot c with
    | some x =>
      if x.st = .data ∧ x.restarts = c.restarts ∧ link ∈ (collTree m x).down ∧ link ∉ x.endeds then
        collAdvance x (updColl m x (fun x => { x with endeds := x.endeds ++ [link] }))
      else m
    | none => m)

def execEndedChunk (link : Nat) (chunk : Chunk) (s : State) : Host.Outcome State Fault Refusal :=
  onDev (.endedChunk link chunk) (endedChunk link chunk) s

/-- FINISH_CHUNK (R732 item 4): once the root has sent FINISH nothing restarts, so a run that a link's fall began here
ends with the run that FINISH closes. -/
def finishChunk (link : Nat) (c : Chunk) : Dev → Dev :=
  onChunk link c (fun slot m =>
    match chunkColl m slot c with
    | some x =>
      if (collTree m x).up = some link ∧ ((x.st = .data ∧ x.endedSent) ∨ (x.st = .header ∧ c.restarts < x.restarts)) then
        collEnd x 0 (sendFinish x m)
      else m
    | none => m)

def execFinishChunk (link : Nat) (chunk : Chunk) (s : State) : Host.Outcome State Fault Refusal :=
  onDev (.finishChunk link chunk) (finishChunk link chunk) s

/-! ### Staging (R496) -/

/-- R496: the level of a tree link: 1 within the pod, 2 across it. -/
def linkLevel (m : Dev) (g : Group) (l : Nat) : Nat :=
  let k := linkAt m l
  if k.peerValid ∧ k.peerPos >>> g.podShift = ownPos m >>> g.podShift then 1 else 2

/-- R496: chunks in flight that a level holds: its share of the staging banks of the anchor. -/
def levelSlots (m : Dev) (c : Coll) (g : Group) : Nat :=
  let n := ((c.dies.find? (fun d => decide (d.die = anchorOf m c))).map (·.stageCount)).getD 0
  n / max 1 (levelsUsed m g (collLinks m c)) * 2 ^ 20 / 2 ^ c.chunkLog

/-- R496: the level of a link has no free staging slot for a collective. -/
def stagingFull (m : Dev) (c : Coll) (l : Nat) : Bool :=
  match groupAt' m c.slot c.group with
  | some g => decide (c.st = .data) && decide (l ∈ collLinks m c) && decide (c.poster = .program)
      && decide (levelSlots m c g ≤ (c.staged.filter (fun s => decide (linkLevel m g s.link = linkLevel m g l))).length)
  | none => false

/-! ### Waiting (R504) -/

/-- COLL_WAITING_TICK: over the last 7,000 cycles the engine moved less than 7/8 of its link rate, or not. -/
def waitingTick (die : Nat) (below : Bool) (m : Dev) : Dev :=
  let busy := m.colls.any (fun c => decide (c.st = .data) && c.dies.any (fun d => decide (d.die = die)))
  updFab m die (fun f => { f with waiting := busy && below })

def execCollWaitingTick (die : Nat) (below : Bool) (s : State) : Host.Outcome State Fault Refusal :=
  onDev (.collWaitingTick die below) (waitingTick die below) s

/-! ### Commands (R513) -/

/-- Collectives of a group in flight or held. -/
def groupBusy (m : Dev) (slot g : Nat) : Nat := (m.colls.filter (fun c => decide (c.slot = slot) && (decide (c.group = g) || decide (c.group2 = g)))).length

/-- Strictly rising roots. -/
def rootsRise : List (Nat × Nat) → Bool
  | a :: b :: l => decide (a.1 < b.1) && rootsRise (b :: l)
  | _ => true

/-- COLL_GROUP_SET. -/
def specCollGroupSet (mb jobId group flags dies rank members podShift nroots : Nat) (roots : List (Nat × Nat)) : CmdSpec where
  cmd := .collGroupSet mb jobId group flags dies rank members podShift nroots roots
  opcode := 0x0801
  mb := mb
  job := some jobId
  phases := some [.idle, .turning, .recovering, .halted]
  par := fun m => firstErr [
    ensure (decide (flags < 2)) 0x2002,
    ensure (decide (1 ≤ group)) 0x2003,
    (if bitOf flags 0 then
      match jobById m jobId with
      | some p => ensure (groupAt' m p.1 group).isSome 0x2003
      | none => none
     else
      ensure (decide (dies ≠ 0) && decide (1 ≤ members) && decide (rank < members) && decide (podShift ≤ 16)
        && decide (1 ≤ nroots ∧ nroots ≤ 64) && decide (roots.length = nroots) && rootsRise roots
        && (if roots.any (fun r => decide (r.2 = 0xFFFF)) then decide (nroots = 1) && roots.all (fun r => decide (m.net.position = some r.1))
            else roots.all (fun r => match treeOf m r.2 with | some e => isMember e | none => false))) 0x2003)]
  sta := fun m => match jobById m jobId with
    | some p => ensure (decide (groupBusy m p.1 group = 0)) 0x1007 (groupBusy m p.1 group)
    | none => none
  apply := fun m => match jobById m jobId with
    | none => { m := m }
    | some (slot, _) =>
      let k := slot * 65536 + group
      if bitOf flags 0 then { m := { m with groups := tdel m.groups k } }
      else if (tfind m.groups k).isNone ∧ 256 ≤ (trange m.groups (slot * 65536) 65536).length then { m := m, status := 0x3001 }
      else { m := { m with groups := tput m.groups k { dies, rank, members, podShift, roots } } }

def execCollGroupSet (mb jobId group flags dies rank members podShift nroots : Nat) (roots : List (Nat × Nat)) (s : State) :
    Host.Outcome State Fault Refusal :=
  onCmd (specCollGroupSet mb jobId group flags dies rank members podShift nroots roots) s

def collStateCode : CollState → Nat
  | .header => 1 | .data => 2 | .held => 3 | .stopped => 4

/-- COLL_STATUS. -/
def specCollStatus (mb jobId group seq : Nat) : CmdSpec where
  cmd := .collStatus mb jobId group seq
  opcode := 0x0802
  mb := mb
  job := some jobId
  query := true
  par := fun m => match jobById m jobId with
    | none => none
    | some p => firstErr [
        ensure (decide (group = 0) || (groupAt' m p.1 group).isSome) 0x2003,
        ensure (decide (seq = 0xFFFFFFFF) || m.colls.any (fun c => decide (c.slot = p.1) && decide (c.group = group) && decide (c.seq = seq))) 0x200B]
  apply := fun m => match jobById m jobId with
    | none => { m := m }
    | some (slot, j) =>
      let own := m.colls.filter (fun c => decide (c.slot = slot) && (decide (group = 0) || decide (c.group = group)))
      let st := match groupAt' m slot group with | some g => if group = 0 then j.collStats else g.stats | none => j.collStats
      let c := own.find? (fun c => decide (c.group = group) && decide (c.seq = seq))
      let held := (own.filter (fun c => decide (c.st = .held))).length
      { m := m
        body := leBytes 8 (nth 0 st 0) ++ leBytes 8 (nth 0 st 1) ++ leBytes 4 (nth 0 st 2) ++ leBytes 4 (nth 0 st 3)
          ++ leBytes 4 (nth 0 st 4) ++ leBytes 4 (nth 0 st 5) ++ leBytes 2 (own.length - held) ++ leBytes 2 held
          ++ leBytes 4 (match groupAt' m slot group with | some g => g.seq | none => 0)
          ++ (match c with
            | some c => leBytes 1 (collStateCode c.st) ++ zeros 3 ++ leBytes 4 c.doneChunks.length ++ leBytes 4 (collFuel m c)
            | none => zeros 12)
          ++ zeros 12 }

def execCollStatus (mb jobId group seq : Nat) (s : State) : Host.Outcome State Fault Refusal := onCmd (specCollStatus mb jobId group seq) s

end Sys2Proof.Machine
end

