-- ==== Sys2Proof/Machine/Securing.lean ====
section
/-! DEFINITION. Sys2Proof/Machine/Securing.lean: snapshots of learning state, the siphon, hold slots, deeper layers, the risk
estimate and the journal (chapter 14). The optimizer state, the generator table and the journal are fields of State and
not bytes of memory; their pages are the pages of the memory that the module allocates for them (log entry 18). -/

namespace Sys2Proof.Machine


/-! ### The protected set as bytes (R241, R437, R550, R556, R557) -/

/-- R241: the numeric state block. -/
def numericBlock (n : Numerics) : List Byte :=
  leBytes 2 1 ++ leBytes 1 n.lsExp ++ zeros 1 ++ leBytes 2 n.lsGrowth ++ zeros 2 ++ leBytes 4 n.finiteRun
    ++ leBytes 4 n.hists.length ++ leBytes 8 n.adamStep ++ leBytes 8 n.skipped ++ leBytes 8 n.recomputes
    ++ leBytes 8 n.masterOverflow ++ shake256 8 (gensBytes n) ++ zeros 8
    ++ n.hists.flatMap (fun h => leBytes 4 h.1 ++ leBytes 1 h.2.head ++ zeros 3 ++ (padTo 16 (h.2.hist.map (BitVec.ofNat 8))))
    ++ gensBytes n

/-- R437: the learning state block. -/
def learnBlock (g : Learn) : List Byte :=
  leBytes 2 1 ++ leBytes 1 (g.layers + 1) ++ leBytes 1 g.fmtWindow ++ leBytes 4 g.lr ++ leBytes 8 g.stepNext
    ++ shake256 8 g.mask ++ leBytes 4 g.runRemaining ++ zeros 4
    ++ (List.range (g.layers + 1)).flatMap (fun i =>
      let f := tget (0, 0) g.formats i
      leBytes 2 f.1 ++ leBytes 1 f.2 ++ zeros 5)

/-- Two's complement of a remainder. -/
def remBytes (q : Int) : List Byte := leBytes 2 ((q + 65536) % 65536).toNat

/-- The owned slices whose optimizer state lies with a die, ascending (R525). -/
def dieRun (j : Job) (d : Nat) : List Nat :=
  match layoutOf j with
  | none => []
  | some l => (shardSlices l.slices j.learn.groupSize j.learn.shard).filter (fun s => decide (slLowest (layoutEntry l s) = d))

/-- One section of the image: its code, its die, its first slice, bytes a slice, and its data (R557). -/
structure Section where
  code : Nat
  die : Nat
  run : List Nat
  per : Nat
  data : List Byte
deriving DecidableEq, Repr

/-- R557: the sections in their order. -/
def snapSections (j : Job) : List Section :=
  let one := fun (code : Nat) (data : List Byte) => ({ code := code, die := 0xFF, run := [], per := 1, data := data } : Section)
  let opt := fun (s : Nat) => (tfind j.learn.opt s).getD zeroSlice
  [one 1 (numericBlock j.num), one 2 (learnBlock j.learn), one 3 (padTo 262144 (j.secure.journal.flatMap id))]
    ++ (List.range 8).flatMap (fun d =>
      let run := dieRun j d
      if run.isEmpty then []
      else [
        { code := 4, die := d, run := run, per := 262144, data := run.flatMap (fun s => (opt s).w.flatMap (leBytes 4)) },
        { code := 5, die := d, run := run, per := 131072, data := run.flatMap (fun s => (opt s).q.flatMap remBytes) },
        { code := 6, die := d, run := run, per := 262144, data := run.flatMap (fun s => (opt s).m.flatMap (leBytes 4)) },
        { code := 7, die := d, run := run, per := 262144, data := run.flatMap (fun s => (opt s).v.flatMap (leBytes 4)) }])

/-- A part: its section, its first slice and its data, at most 64 MiB. -/
def sectionParts (x : Section) : List (Section × Nat × List Byte) :=
  let cs := chunksOf 0x4000000 (x.data.length / 0x4000000 + 1) x.data
  (List.zip (List.range cs.length) cs).map (fun c => (x, nth 0 x.run (c.1 * 0x4000000 / x.per), c.2))

/-- Offsets of parts, each at a 64-byte boundary. -/
def partOffsets : Nat → List (List Byte) → List Nat
  | _, [] => []
  | o, p :: l => o :: partOffsets (o + upTo64 p.length) l

/-- R556: the snapshot image of a member at an arm. -/
def snapshotImage (j : Job) (jobId gen cause pos : Nat) : List Byte :=
  let parts := (snapSections j).flatMap sectionParts
  let offs := partOffsets (256 + upTo64 (32 * parts.length)) (parts.map (·.2.2))
  let table := (List.zip offs parts).flatMap (fun p =>
    leBytes 8 p.1 ++ leBytes 4 p.2.2.2.length ++ leBytes 1 p.2.1.code ++ leBytes 1 p.2.1.die ++ zeros 2
      ++ shake256 8 p.2.2.2 ++ leBytes 4 p.2.2.1 ++ zeros 4)
  let body := zeros (upTo64 table.length - table.length) ++ parts.flatMap (fun p => padTo (upTo64 p.2.2.length) p.2.2)
  let dg := match layoutOf j with | some l => l.digest | none => 0
  let head := leBytes 4 0x534E0001 ++ leBytes 2 1 ++ zeros 2 ++ leBytes 4 jobId ++ leBytes 4 gen ++ leBytes 8 j.learn.stepNext
    ++ leBytes 8 j.stroke ++ leBytes 4 j.epoch ++ leBytes 4 j.turnNumber ++ leBytes 2 pos ++ leBytes 2 j.learn.shard
    ++ leBytes 2 j.learn.groupSize ++ leBytes 2 j.members ++ leBytes 4 parts.length ++ leBytes 1 cause ++ zeros 3
    ++ leBytes 8 (256 + table.length + body.length) ++ leBytes 8 dg ++ shake256 8 table ++ zeros 168
  head ++ shake256 8 head ++ table ++ body

/-- R559: the digests of an image are right. -/
def imageIntact (l : List Byte) : Bool :=
  let n := recField l 48 4
  let table := (l.drop 256).take (32 * n)
  decide (recBytes l 248 8 = shake256 8 (l.take 248)) && decide (recBytes l 72 8 = shake256 8 table)
    && (chunksOf 32 n table).all (fun e => decide (recBytes e 16 8 = shake256 8 ((l.drop (recField e 0 8)).take (recField e 8 4))))

/-- The bytes of one section of one die in an image. -/
def imageSection (l : List Byte) (code die : Nat) : List Byte :=
  ((chunksOf 32 (recField l 48 4) (l.drop 256)).filter (fun e => decide (recField e 12 1 = code) && decide (recField e 13 1 = die))).flatMap
    (fun e => (l.drop (recField e 0 8)).take (recField e 8 4))

/-- The numeric state that a NUMERIC section holds. -/
def readNumerics (n : Numerics) (l : List Byte) : Numerics :=
  let h := recField l 12 4
  let gens := l.drop (64 + 24 * h)
  { n with
    lsExp := recField l 2 1, lsGrowth := recField l 4 2, finiteRun := recField l 8 4, adamStep := recField l 16 8
    skipped := recField l 24 8, recomputes := recField l 32 8, masterOverflow := recField l 40 8
    hists := (chunksOf 24 h (l.drop 64)).foldl (fun t e =>
      tput t (recField e 0 4) { head := recField e 4 1, hist := readNats e 8 16 }) []
    gens := (List.range 2097152).foldl (fun t i => tset (0, 0) t i (recField gens (16 * i) 8, recField gens (16 * i + 8) 1)) [] }

/-- The learning state that a LEARNING section holds. -/
def readLearning (g : Learn) (l : List Byte) : Learn :=
  { g with
    lr := recField l 4 4, stepNext := recField l 8 8, runRemaining := recField l 24 4
    formats := (List.range (recField l 2 1)).foldl (fun t i => tset (0, 0) t i (recField l (32 + 8 * i) 2, recField l (34 + 8 * i) 1)) [] }

/-- A 16-bit code as a signed remainder. -/
def remOf (x : Nat) : Int := if x < 32768 then (x : Int) else (x : Int) - 65536

/-- The optimizer state of a die's run. -/
def readRun (l : List Byte) (d : Nat) (run : List Nat) (t : Tab OptSlice) : Tab OptSlice :=
  let part := fun (code per i : Nat) => ((imageSection l code d).drop (i * per)).take per
  (List.zip (List.range run.length) run).foldl (fun t x => tput t x.2 {
    w := (chunksOf 4 65536 (part 4 262144 x.1)).map leNat
    q := (chunksOf 2 65536 (part 5 131072 x.1)).map (fun b => remOf (leNat b))
    m := (chunksOf 4 65536 (part 6 262144 x.1)).map leNat
    v := (chunksOf 4 65536 (part 7 262144 x.1)).map leNat }) t

/-- R609: a journal keeps its own entries and takes the ones it lacks. -/
def mergeJournal (own more : List (List Byte)) : List (List Byte) :=
  let old := more.filter (fun e => decide (recField e 0 8 ≠ 0 ∨ recField e 48 8 ≠ 0)
    && !own.any (fun o => decide (recField o 0 8 = recField e 0 8)))
  let all := (own ++ old).mergeSort (fun a b => decide (recField a 0 8 ≤ recField b 0 8))
  all.drop (all.length - 4096)

/-- R609: an image is written in place. -/
def restoreImage (slot : Nat) (l : List Byte) (m : Dev) : Dev :=
  updJob m slot (fun j =>
    { j with
      num := readNumerics j.num (imageSection l 1 0xFF)
      learn := { readLearning j.learn (imageSection l 2 0xFF) with
        hasShard := true, opt := (List.range 8).foldl (fun t d => readRun l d (dieRun j d) t) j.learn.opt }
      secure := { j.secure with journal := mergeJournal j.secure.journal (chunksOf 64 4096 (imageSection l 3 0xFF)) } })

/-- R222, R533, R610: the working weights of the shard, as rne16 of its masters. -/
def writeShardWeights (slot : Nat) (m : Dev) : Dev :=
  match jobAt m slot with
  | none => m
  | some j => j.learn.opt.foldl (fun m o => writeWorking slot o.1 (o.2.w.map (fun w => rne16 (dec32 w))) m) m

/-! ### The journal (R575) -/

/-- R575: the entry of a verdict, before it is applied. A withdrawn step has no STEP_DONE; its STATUS is MEM_POISON
(DEDUCED, log entry 18). -/
def journalEntry (j : Job) (r : StepRec) (status : Nat) : List Byte :=
  let mbs := j.learn.taken.mergeSort (fun a b => decide (a.index ≤ b.index))
  leBytes 8 j.learn.stepNext ++ leBytes 2 status ++ leBytes 1 j.num.lsExp ++ leBytes 1 j.learn.times ++ leBytes 4 r.count
    ++ leBytes 4 r.tokens ++ leBytes 4 r.loss ++ leBytes 4 (gnormOf r j.num.lsExp) ++ leBytes 4 (clipOf j.learn r j.num.lsExp)
    ++ leBytes 4 j.secure.complete ++ zeros 4 ++ shake256 8 (mbs.flatMap (·.raw)) ++ leBytes 8 j.stroke ++ zeros 8

def journalWrite (slot : Nat) (r : StepRec) (status : Nat) (m : Dev) : Dev :=
  match jobAt m slot with
  | none => m
  | some j => updSecure m slot (fun s =>
      let l := s.journal ++ [journalEntry j r status]
      { s with journal := l.drop (l.length - 4096) })

/-! ### Control packets (R561) -/

/-- A securing CONTROL payload of 64 bytes; `rest` begins at byte 12. -/
def securePayload (kind jobId gen : Nat) (rest : List Byte) : List Byte :=
  padTo 64 (leBytes 1 kind ++ zeros 3 ++ leBytes 4 jobId ++ leBytes 4 gen ++ rest)

/-- The siphon and the holder use their own links and not the routing table (R548). -/
def secureSend (m : Dev) (links dest : Nat) (payload : List Byte) : Dev :=
  sendStriped links [controlPacket m dest payload] m

/-! ### SECURE_CONFIG (R547 to R549, R582) -/

/-- HOLDS. -/
def holdsFor (c : SecureReq) : Bool := bitOf c.flags 0

/-- The hold slot of a generation (R549). -/
def holdSlotOf (c : SecureReq) (gen : Nat) : Nat := if c.slots = 2 then gen % 2 else 0

/-- Bytes of the protected set with each die: optimizer state, generator table, and the journal in HS0 (R555). -/
def protectedBytes (j : Job) (d : Nat) : Nat :=
  (dieRun j d).length * 917504 + 4194304 + (if d = 0 then 262144 else 0)

/-- R555: the reserve's share of a die, in 64 KiB slots. -/
def reserveSlots (j : Job) (reserve d : Nat) : Nat :=
  reserve * protectedBytes j d / ((List.range 8).map (protectedBytes j)).sum / 65536

def reserveShares (j : Job) (reserve : Nat) : List (Nat × Nat) :=
  (List.range 8).flatMap (fun d =>
    let n := reserveSlots j reserve d * 65536
    [(2 * d, segsOf ((n + 1) / 2)), (2 * d + 1, segsOf (n / 2))])

/-- R729: a hold slot in 32 equal shares. -/
def holdShares (bytes : Nat) : List (Nat × Nat) := (List.range 32).map (fun k => (16 + k, segsOf ((bytes + 31) / 32)))

/-- The runs of memory under a hold slot, in package order. -/
def holdPieces (m : Dev) (js s : Nat) : List (Nat × Nat) :=
  (m.mem.allocs.filter (fun a => decide (a.job = some js) && decide (a.use = .holdSlot s))).map (fun a => (a.first * segBytes, a.count * segBytes))

def isHoldUse (js : Nat) (a : Alloc) : Bool :=
  decide (a.job = some js) && (match a.use with | .holdSlot _ => true | _ => false)

/-- R549: opens the receive windows of the hold slots. -/
def openHolds (js : Nat) (c : SecureReq) (m : Dev) : Dev :=
  let m := updNet m (fun n => { n with windows := tkeep n.windows (fun k w => !(decide (w.job = js) && decide (k / 65536 / 256 = 0xF0) )) })
  if holdsFor c then
    (List.range c.slots).foldl (fun m s => updNet m (fun n => { n with
      windows := tput n.windows ((0xF000 + s) * 65536 + c.heldFor) { src := c.heldFor, size := c.holdBytes, pieces := holdPieces m js s, job := js } })) m
  else m

/-- SECURE_CONFIG. -/
def specSecureConfig (mb jobId : Nat) (cfg : SecureReq) : CmdSpec where
  cmd := .secureConfig mb jobId cfg
  opcode := 0x0701
  mb := mb
  job := some jobId
  phases := some [.generate, .learn, .halted]
  stretch := true
  par := fun m =>
    let peer := fun (mask pos : Nat) => (bitsOf 32 mask).all (fun l => (linkAt m l).peerValid && decide ((linkAt m l).peerPos = pos))
    let ext := (cfg.holdBytes + segBytes - 1) / segBytes
    firstErr [
      ensure (decide (cfg.flags < 2)) 0x2002,
      ensure (decide (1 ≤ cfg.interval ∧ cfg.interval ≤ 64) && decide (1 ≤ cfg.slots ∧ cfg.slots ≤ 2)
        && decide (some cfg.partner ≠ m.net.position)
        && (if holdsFor cfg then decide (some cfg.heldFor ≠ m.net.position) else decide (cfg.heldFor = 0))
        && decide (cfg.reserve % 65536 = 0 ∧ 0x4000000 ≤ cfg.reserve) && decide (cfg.holdBytes % segBytes = 0)
        && (!holdsFor cfg || decide (0 < cfg.holdBytes))
        && decide (1 ≤ cfg.storeGbps ∧ cfg.storeGbps ≤ 200) && decide (cfg.aqEvery = 0 ∨ cfg.aqFirst + 2 * ext ≤ 30517578)
        && peer cfg.partnerLinks cfg.partner && (!holdsFor cfg || peer cfg.heldLinks cfg.heldFor)
        && (match jobById m jobId with
          | some p => decide (512 < p.2.members) || (decide (cfg.interval = 1) && decide (cfg.slots = 2))
          | none => true)) 0x2003]
  sta := fun m => match jobById m jobId with
    | some p => ensure (!p.2.secure.opened && !mappedOver m (fun a => isHoldUse p.1 a || (decide (a.job = some p.1) && decide (a.use = .reserve)))) 0x1007
    | none => none
  apply := fun m => match jobById m jobId with
    | none => { m := m }
    | some (js, j) =>
      let same : Bool := match j.secure.cfg with
        | some o => decide (o.heldFor = cfg.heldFor ∧ o.slots = cfg.slots ∧ o.holdBytes = cfg.holdBytes) && (holdsFor o == holdsFor cfg)
        | none => false
      let m' := updMem m (fun x => releaseAllocs x (fun a => decide (a.job = some js) && decide (a.use = .reserve)))
      let m' := if same then m' else updMem m' (fun x => releaseAllocs x (isHoldUse js))
      let want := (AllocUse.reserve, reserveShares j cfg.reserve) ::
        (if same || !holdsFor cfg then [] else (List.range cfg.slots).map (fun s => (AllocUse.holdSlot s, holdShares cfg.holdBytes)))
      match allocAll m' j.part js want with
      | .error e => { m := m, status := e }
      | .ok m' =>
        let caps := (List.range 8).foldl (fun t d => tset 0 t d (reserveSlots j cfg.reserve d)) []
        let m' := updSecure m' js (fun s => { s with
          cfg := some cfg, reserveCap := caps, holds := if same then s.holds else [], aqGen := if same then s.aqGen else []
          aqStep := if same then s.aqStep else [], storeGen := if same then s.storeGen else []
          deep := if same then s.deep else none, deepWait := if same then s.deepWait else [] })
        { m := openHolds js cfg m' }

def execSecureConfig (mb jobId : Nat) (cfg : SecureReq) (s : State) : Host.Outcome State Fault Refusal :=
  onCmd (specSecureConfig mb jobId cfg) s

/-! ### Deeper layers (R567, R568) -/

def holdAt (s : Secure) (i : Nat) : Hold := tget {} s.holds i
def updHold (m : Dev) (js i : Nat) (f : Hold → Hold) : Dev := updSecure m js (fun s => { s with holds := tmod {} s.holds i f })

/-- SNAPSHOT_DEEP (R581). -/
def deepEvent (js layer slot gen status : Nat) (m : Dev) : Dev :=
  let held := match (jobAt m js).bind (·.secure.cfg) with | some c => c.heldFor | none => 0
  raiseJob m js 0x0702 status (leBytes 4 gen ++ leBytes 1 layer ++ leBytes 1 slot ++ leBytes 2 held)

/-- The bytes of the image in a hold slot. -/
def holdImage (m : Dev) (js i : Nat) (n : Nat) : List Byte := piecesRead m.mem (spanPieces (holdPieces m js i) 0 n)

def aqExtents (c : SecureReq) : Nat := (c.holdBytes + segBytes - 1) / segBytes

/-- R567: the aquifer write of a generation begins, unless a quota or the aquifer refuses it. -/
def deepAquifer (js gen : Nat) (m : Dev) : Dev :=
  match jobAt m js with
  | none => m
  | some j =>
    match j.secure.cfg with
    | none => m
    | some c =>
      let first := c.aqFirst + gen % 2 * aqExtents c
      if m.mem.aq.st ≠ 0 then deepEvent js 1 (gen % 2) gen 0x5002 m
      else if !quotaAdmits m j.part (some js) 3 (emptyExtents m.mem j.part first (aqExtents c)) then deepEvent js 1 (gen % 2) gen 0x3002 m
      else updSecure m js (fun s => { s with deep := some (1, gen % 2, gen) })

/-- R568: the store write of a generation begins. -/
def deepStore (js gen : Nat) (m : Dev) : Dev := updSecure m js (fun s => { s with deep := some (2, gen % 2, gen) })

/-- The latest COMPLETE hold slot: its number and generation. -/
def latestComplete (s : Secure) : Option (Nat × Nat) :=
  (s.holds.filter (fun h => decide (h.2.st = .complete))).foldl (fun a h => match a with
    | some b => if b.2 < h.2.gen then some (h.1, h.2.gen) else a
    | none => some (h.1, h.2.gen)) none

/-- R567, R568: a generation goes to the deeper layers, with `all` to each one that does not hold it. It waits while the deep
write of another generation runs (DEDUCED, log entry 18). -/
def deepStart (js gen : Nat) (all : Bool) (m : Dev) : Dev :=
  match jobAt m js with
  | none => m
  | some j =>
    let s := j.secure
    match s.deep with
    | some (_, _, g) =>
      if g = gen then updSecure m js (fun s => { s with deepAll := s.deepAll || all })
      else updSecure m js (fun s => { s with deepWait := s.deepWait ++ [(gen, all)] })
    | none =>
      let m := updSecure m js (fun s => { s with deepAll := all })
      if !all ∨ tget 0 s.aqGen (gen % 2) ≠ gen then deepAquifer js gen m
      else if tget 0 s.storeGen (gen % 2) ≠ gen then deepStore js gen m
      else m

/-- The deep writes that waited, once none runs: the first that is admitted begins. -/
def deepNext (js : Nat) (m : Dev) : Dev :=
  match jobAt m js with
  | none => m
  | some j =>
    if j.secure.deep.isSome then m
    else j.secure.deepWait.foldl (fun m w => deepStart js w.1 w.2 m) (updSecure m js (fun s => { s with deepWait := [] }))

/-- R574, SECURE_NOW with DEEP: the latest COMPLETE slot goes to each deeper layer that does not hold it. -/
def deepNow (js : Nat) (m : Dev) : Dev :=
  match (jobAt m js).map (·.secure) with
  | none => m
  | some s => match s.cfg, latestComplete s with
    | some c, some (_, gen) => if holdsFor c then deepStart js gen true m else m
    | _, _ => m

/-- AQUIFER_SLOT_WRITE_DONE (R567, R568). -/
def aqSlotDone (js status : Nat) (m : Dev) : Dev :=
  match jobAt m js with
  | none => m
  | some j =>
    match j.secure.cfg, j.secure.deep with
    | some c, some (1, slot, gen) =>
      let hs := holdSlotOf c gen
      let m := deepEvent js 1 slot gen status (updSecure m js (fun s => { s with deep := none }))
      if status ≠ 0 then deepNext js m
      else
        let src := holdPieces m js hs
        let step := recField (holdImage m js hs 64) 16 8
        let m := (List.range (aqExtents c)).foldl (fun m i =>
          let k := extentKey j.part (c.aqFirst + slot * aqExtents c + i)
          updMem m (fun x =>
            let e : Extent := { data := runEntries 0 (piecesRead x (spanPieces src (i * segBytes) segBytes)), job := some js }
            { x with aq := { x.aq with extents := tput x.aq.extents k e } })) m
        let m := updSecure m js (fun s => { s with aqGen := tset 0 s.aqGen slot gen, aqStep := tset 0 s.aqStep slot step })
        if j.secure.deepAll ∨ (c.storeEvery ≠ 0 ∧ gen % c.storeEvery = 0) then deepStore js gen m else deepNext js m
    | _, _ => m

def execAquiferSlotWriteDone (slot status : Nat) (s : State) : Host.Outcome State Fault Refusal :=
  onDev (.aquiferSlotWriteDone slot status) (aqSlotDone slot status) s

/-- STORE_SLOT_WRITE_DONE (R568): the image, its header last. -/
def storeSlotDone (js status : Nat) (m : Dev) : Dev :=
  match jobAt m js with
  | none => m
  | some j =>
    match j.secure.cfg, j.secure.deep with
    | some c, some (2, slot, gen) =>
      let m := updSecure m js (fun s => { s with deep := none, deepAll := false })
      let m := if status ≠ 0 then m
        else
          let hs := holdSlotOf c gen
          let img := holdImage m js hs (recField (holdImage m js hs 64) 56 8)
          let a := c.storeAddr + gen % 2 * c.storeStride
          let m := send (send m (.hostWrite c.storeQp (a + 256) c.storeRkey (img.drop 256))) (.hostWrite c.storeQp a c.storeRkey (img.take 256))
          updSecure m js (fun s => { s with storeGen := tset 0 s.storeGen slot gen })
      deepNext js (deepEvent js 2 slot gen status m)
    | _, _ => m

def execStoreSlotWriteDone (slot status : Nat) (s : State) : Host.Outcome State Fault Refusal :=
  onDev (.storeSlotWriteDone slot status) (storeSlotDone slot status) s

/-! ### The siphon (R551 to R555) -/

/-- The 64 KiB pages of the protected set: those of the memory allocated for it. -/
def protectedSet (m : Dev) (js : Nat) : List Nat :=
  (m.mem.allocs.filter (fun a => decide (a.job = some js)
      && (decide (a.use = .shard) || decide (a.use = .generators) || decide (a.use = .journal)))).flatMap
    (fun a => (List.range (a.count * 32)).map (fun i => a.first * 32 + i))

def pageDie (p : Nat) : Nat := dieOfAddr (p * 65536)

/-- R88: a snapshot arms only in LEARN, or at the SIPHON stage of a turn out of LEARN; an entry to RECOVERING at the same boundary
comes first (R77), and then nothing arms. -/
def mayArm (j : Job) : Bool :=
  decide (j.phase = .learn) || (decide (j.phase = .turning) && decide (j.turn.stage = 2) && decide (j.turn.prev = .learn))

/-- R551, R560: the arm of a generation at this member. -/
def siphonArm (js cause gen : Nat) (m : Dev) : Dev :=
  match jobAt m js with
  | none => m
  | some j =>
    let img := snapshotImage j j.id gen cause (ownPos m)
    let m := updSecure m js (fun s => { s with
      begun := gen, opened := true, begunStep := j.learn.stepNext, armStroke := j.stroke, armCause := cause, failCause := 0
      dueCommanded := false, dueRisk := false, dueInterval := false })
    match j.secure.cfg with
    | none => m
    | some c =>
      let m := updSecure m js (fun s => { s with
        image := img, copy := 1, protectedPages := protectedSet m js, reserved := [], copying := [], heldWrites := [], touches := 0
        delivered := [], poisoned := [] })
      let m := (List.range 8).foldl (fun m d => updFab m d (fun f => { f with touches := 0 })) m
      secureSend m c.partnerLinks c.partner (securePayload 0x11 j.id gen (zeros 4 ++ leBytes 8 img.length))

/-- Applies the writes that waited for a page. -/
def releaseWrites (js page : Nat) (m : Dev) : Dev :=
  match jobAt m js with
  | none => m
  | some j =>
    let w := j.secure.heldWrites.filter (fun h => decide (h.1 = page))
    let m := updSecure m js (fun s => { s with heldWrites := s.heldWrites.filter (fun h => decide (h.1 ≠ page)) })
    w.foldl (fun m h => { m with mem := memWrite m.mem h.2.1 h.2.2 }) m

/-- The job that protects a page. -/
def pageJob (m : Dev) (page : Nat) : Option Nat :=
  (m.jobs.find? (fun p => decide (page ∈ p.2.secure.protectedPages) || decide (page ∈ p.2.secure.copying))).map (·.1)

/-- PROTECTED_WRITE (R554, R555): the write is held while its page is copied into a free reserve slot, or until the siphon
has sent it. -/
def protectedWrite (die addr : Nat) (data : List Byte) (m : Dev) : Dev :=
  let page := addr / 65536
  match pageJob m page with
  | none => if isExtMem addr then ownWrite m addr data else m
  | some js =>
    match jobAt m js with
    | none => m
    | some j =>
      let s := j.secure
      let m := updSecure m js (fun s => { s with heldWrites := s.heldWrites ++ [(page, addr, data)] })
      if page ∈ s.copying then m
      else
        let d := pageDie page
        let used := (s.reserved.filter (fun r => decide (pageDie r.1 = d))).length + (s.copying.filter (fun p => decide (pageDie p = d))).length
        if used < tget 0 s.reserveCap d then updSecure m js (fun s => { s with copying := s.copying ++ [page] })
        else updFab m die (fun f => { f with siphonFull := true })

def execProtectedWrite (die addr : Nat) (data : List Byte) (s : State) : Host.Outcome State Fault Refusal :=
  onDev (.protectedWrite die addr data) (protectedWrite die addr data) s

/-- RESERVE_COPY_DONE (R554): the page is in the reserve and its writes proceed. -/
def reserveCopyDone (die page : Nat) (m : Dev) : Dev :=
  match pageJob m page with
  | none => m
  | some js =>
    match jobAt m js with
    | none => m
    | some j =>
      if page ∈ j.secure.copying then
        let m := updSecure m js (fun s => { s with
          copying := s.copying.filter (fun p => decide (p ≠ page)), protectedPages := s.protectedPages.filter (fun p => decide (p ≠ page))
          reserved := tput s.reserved page (trange m.mem.bytes (page * 65536) 65536), touches := s.touches + 1
          reservePeak := max s.reservePeak (s.reserved.length + s.copying.length) })
        releaseWrites js page (updFab m die (fun f => { f with
          siphonActive := (f.siphonActive + 1400) % 2 ^ 64, touches := f.touches + 1 }))
      else m

def execReserveCopyDone (die page : Nat) (s : State) : Host.Outcome State Fault Refusal :=
  onDev (.reserveCopyDone die page) (reserveCopyDone die page) s

/-- Sets a cause for the member's secure record, and posts the record (R563). -/
def postSecure (js cause : Nat) (m : Dev) : Dev :=
  match jobAt m js with
  | none => m
  | some j =>
    let cause := if j.secure.failCause ≠ 0 then j.secure.failCause else cause
    let m := updSecure m js (fun s => { s with copy := 3, failCause := cause })
    match j.secure.cfg with
    | some c => postRecord js c.group .secure (j.epoch)
        ([1, b2n (decide (cause ≠ 0))] ++ (List.range 5).map (fun i => b2n (decide (cause = i + 1))) ++ List.replicate 9 0) m
    | none => m

/-- The offsets of a die's sections in a snapshot image: the first, and where they end; the sections of the whole member lie with CD0
(R557). -/
def dieSpan (img : List Byte) (d : Nat) : Nat × Nat :=
  let es := (chunksOf 32 (recField img 48 4) (img.drop 256)).filter (fun e =>
    decide (recField e 13 1 = d) || (decide (d = 0) && decide (recField e 13 1 = 0xFF)))
  match es with
  | [] => (0, 0)
  | e :: _ => (recField e 0 8, es.foldl (fun a e => max a (recField e 0 8 + recField e 8 4)) 0)

/-- R553, R558: the blocks of the snapshot image that a protected page holds, the pages of a die standing for its sections in order
(DESIGN CHOICE, log entry 18), and of these the ones that read poisoned. -/
def poisonedBlocks (m : Dev) (js page : Nat) (img : List Byte) : List Nat :=
  let d := pageDie page
  let span := dieSpan img d
  let rank := ((protectedSet m js).filter (fun p => decide (pageDie p = d) && decide (p < page))).length
  ((List.range 1024).filter (fun i => memPoisoned m.mem (page * 65536 + 64 * i) 64
    && decide (span.1 + rank * 65536 + 64 * i < span.2))).map (fun i => span.1 + rank * 65536 + 64 * i)

/-- R548, R562 item 4: the packets of the copy go out over the partner links that are up; each of these has been used. -/
def sendCopy (js : Nat) (c : SecureReq) (s : Secure) (m : Dev) : Dev :=
  let up := (bitsOf 32 c.partnerLinks).filter (fun l => linkUp (linkAt m l))
  let ps := writePackets m c.partner (0xF000 + holdSlotOf c s.begun) 7 s.image
    ((List.range (s.image.length / 64)).map (fun i => decide (64 * i ∈ s.poisoned)))
  sendStriped c.partnerLinks ps
    (updSecure m js (fun x => { x with delivered := (up.take ps.length).foldl (fun t l => tput t l (tget 0 t l)) x.delivered }))

/-- R561, R562 item 4: once every byte of the copy has been acknowledged, END goes out for each link that it used, on that link while it
is up; a sender that has a cause to report then posts its record. -/
def copyEnds (js : Nat) (m : Dev) : Dev :=
  match jobAt m js with
  | none => m
  | some j => match j.secure.cfg with
    | none => m
    | some c =>
      let s := j.secure
      if s.copy = 2 ∧ s.protectedPages.isEmpty ∧ s.reserved.isEmpty ∧ s.image.length ≤ (s.delivered.map (·.2)).sum then
        let m := s.delivered.foldl (fun m e =>
          secureSend m (if linkUp (linkAt m e.1) then 1 <<< e.1 else c.partnerLinks) c.partner
            (securePayload 0x13 j.id s.begun (zeros 4 ++ leBytes 8 e.2 ++ leBytes 1 e.1))) m
        if s.failCause ≠ 0 then postSecure js 0 m else m
      else m

/-- R561: what a link's peer has acknowledged of copies to a partner. -/
def secureAcked (l : Nat) (q : List (Nat × Sent)) (m : Dev) : Dev :=
  q.foldl (fun m x => match x.2 with
    | .data _ (some (.packet _ p)) =>
      if p.type = 1 ∧ 0xF000 ≤ p.window ∧ p.window < 0xF002 then
        match m.jobs.find? (fun y => match y.2.secure.cfg with
            | some c => decide (c.partner = p.dest) && decide (y.2.secure.copy = 2) && decide (0xF000 + holdSlotOf c y.2.secure.begun = p.window)
            | none => false) with
        | some y => copyEnds y.1 (updSecure m y.1 (fun s => { s with delivered := tput s.delivered l (tget 0 s.delivered l + p.payload.length) }))
        | none => m
      else m
    | _ => m) m

/-- SIPHON_PAGE_SENT (R553, R558): after the last page the image goes out, the blocks of poisoned pages poisoned (log entry 18). -/
def pageSent (js page : Nat) (m : Dev) : Dev :=
  match jobAt m js with
  | none => m
  | some j =>
    let s := j.secure
    if s.copy = 2 ∧ (page ∈ s.protectedPages ∨ (tfind s.reserved page).isSome) ∧ page ∉ s.copying then
      let m := freeFinds m [(page * 65536, 65536)]
      let bad := memPoisoned m.mem (page * 65536) 65536
      let m := send m (.siphonPage js page bad)
      let m := updSecure m js (fun s => { s with
        protectedPages := s.protectedPages.filter (fun p => decide (p ≠ page)), reserved := tdel s.reserved page
        poisoned := if bad then s.poisoned ++ poisonedBlocks m js page s.image else s.poisoned
        failCause := if bad ∧ s.failCause = 0 then 3 else s.failCause })
      let m := updFab m (pageDie page % 8) (fun f => { f with
        siphonPoison := f.siphonPoison || bad, siphonActive := (f.siphonActive + 717) % 2 ^ 64 })
      let m := releaseWrites js page m
      match jobAt m js, s.cfg with
      | some j, some c => if j.secure.protectedPages.isEmpty ∧ j.secure.reserved.isEmpty then sendCopy js c j.secure m else m
      | _, _ => m
    else m

def execSiphonPageSent (slot page : Nat) (s : State) : Host.Outcome State Fault Refusal :=
  onDev (.siphonPageSent slot page) (pageSent slot page) s

/-- R548: the packets of a copy that were in flight on the link that went down are sent again over the partner links that are
up. -/
def secureResend (q : List Out) (m : Dev) : Dev :=
  q.foldl (fun m u => match u with
    | .packet _ p =>
      if 0xF000 ≤ p.window ∧ p.window < 0xF002 ∧ p.type = 1 then
        match (m.jobs.filterMap (·.2.secure.cfg)).find? (fun c => decide (c.partner = p.dest)) with
        | some c => sendStriped c.partnerLinks [p] m
        | none => m
      else m
    | _ => m) m

/-- R548: a copy ends with cause LINK when no named link is up. -/
def secureLinkDown (m : Dev) : Dev :=
  m.jobs.foldl (fun m p => match p.2.secure.cfg with
    | some c => if (p.2.secure.copy = 1 ∨ p.2.secure.copy = 2) ∧ !(bitsOf 32 c.partnerLinks).any (fun l => linkUp (linkAt m l))
        then postSecure p.1 1 m else m
    | none => m) m

/-! ### Control packets of a generation (R562) -/

/-- R561: PARTNER or HELD_FOR of the job sends the packet; one from another source is discarded and counted. -/
def secureSource (m : Dev) (js src : Nat) : Bool := match (jobAt m js).bind (·.secure.cfg) with
  | some c => decide (src = c.partner) || decide (src = c.heldFor)
  | none => false

/-- The frame of a securing packet for a bound job. -/
def onSecure (js src : Nat) (f : Dev → Dev) (m : Dev) : Dev :=
  if !forwarding m ∨ (jobAt m js).isNone then m else if secureSource m js src then f m else discardPacket src m

/-- SECURE_READY. -/
def secureReady (js src gen holdSlot : Nat) (m : Dev) : Dev :=
  match (jobAt m js).map (·.secure) with
  | none => m
  | some s => match s.cfg with
    | none => m
    | some c => if src = c.partner ∧ s.opened ∧ s.begun = gen ∧ s.copy = 1 ∧ holdSlot = holdSlotOf c gen
        then updSecure m js (fun s => { s with copy := 2 }) else m

def execSecureReady (slot src generation holdSlot : Nat) (s : State) : Host.Outcome State Fault Refusal :=
  onDev (.secureReady slot src generation holdSlot) (onSecure slot src (secureReady slot src generation holdSlot)) s

/-- SECURE_HELD: the sender posts its record. -/
def secureHeld (js src gen holdSlot : Nat) (m : Dev) : Dev :=
  match (jobAt m js).map (·.secure) with
  | none => m
  | some s => match s.cfg with
    | none => m
    | some c => if src = c.partner ∧ s.opened ∧ s.begun = gen ∧ s.copy = 2 ∧ holdSlot = holdSlotOf c gen then postSecure js 0 m else m

def execSecureHeld (slot src generation holdSlot : Nat) (s : State) : Host.Outcome State Fault Refusal :=
  onDev (.secureHeld slot src generation holdSlot) (onSecure slot src (secureHeld slot src generation holdSlot)) s

/-- An aquifer or store write is reading the hold slot, or waits to read it. -/
def slotRead (s : Secure) (c : SecureReq) (i : Nat) : Bool :=
  (match s.deep with | some (_, _, g) => decide (holdSlotOf c g = i) | none => false)
    || s.deepWait.any (fun w => decide (holdSlotOf c w.1 = i))

def sendReady (js : Nat) (j : Job) (c : SecureReq) (i gen : Nat) (m : Dev) : Dev :=
  secureSend (updHold m js i (fun h => { h with readyOwed := false })) c.heldLinks c.heldFor (securePayload 0x12 j.id gen (leBytes 1 i))

/-- SECURE_BEGIN: the holder's slot is RECEIVING, and READY goes out unless a deep write reads the slot. -/
def secureBegin (js src gen bytes : Nat) (m : Dev) : Dev :=
  match jobAt m js with
  | none => m
  | some j => match j.secure.cfg with
    | none => m
    | some c =>
      if holdsFor c ∧ src = c.heldFor then
        let i := holdSlotOf c gen
        let m := updHold m js i (fun _ => { st := .receiving, gen := gen, bytes := bytes })
        if slotRead j.secure c i then updHold m js i (fun h => { h with readyOwed := true }) else sendReady js j c i gen m
      else m

def execSecureBegin (slot src generation bytes : Nat) (s : State) : Host.Outcome State Fault Refusal :=
  onDev (.secureBegin slot src generation bytes) (onSecure slot src (secureBegin slot src generation bytes)) s

/-- HOLD_SLOT_FREE: no deep write reads the slot any more, and READY that was owed goes out. -/
def holdFree (js i : Nat) (m : Dev) : Dev :=
  match jobAt m js with
  | none => m
  | some j => match j.secure.cfg with
    | none => m
    | some c => if (holdAt j.secure i).readyOwed ∧ !slotRead j.secure c i then sendReady js j c i (holdAt j.secure i).gen m else m

def execHoldSlotFree (slot holdSlot : Nat) (s : State) : Host.Outcome State Fault Refusal :=
  onDev (.holdSlotFree slot holdSlot) (holdFree slot holdSlot) s

/-- R562 item 5: every byte has come. The slot is HELD, and HELD goes to the sender. -/
def tryHeld (js i : Nat) (m : Dev) : Dev :=
  match jobAt m js with
  | none => m
  | some j => match j.secure.cfg with
    | none => m
    | some c =>
      let h := holdAt j.secure i
      if h.st = .receiving ∧ h.got.all (fun g => decide (tfind h.ends g.1 = some g.2)) ∧ h.ends.all (fun e => decide (tget 0 h.got e.1 = e.2))
          ∧ (h.got.map (·.2)).sum = h.bytes then
        let img := holdImage m js i 64
        let m := updHold m js i (fun h => { h with st := .held, stepNext := recField img 16 8 })
        secureSend m c.heldLinks c.heldFor (securePayload 0x14 j.id h.gen (leBytes 1 i))
      else m

/-- SECURE_END: the count of one link. -/
def secureEnd (js src gen link bytes : Nat) (m : Dev) : Dev :=
  match (jobAt m js).map (·.secure) with
  | none => m
  | some s => match s.cfg with
    | none => m
    | some c =>
      let i := holdSlotOf c gen
      if holdsFor c ∧ src = c.heldFor ∧ (holdAt s i).st = .receiving ∧ (holdAt s i).gen = gen then
        tryHeld js i (updHold m js i (fun h => { h with ends := tput h.ends link bytes }))
      else m

def execSecureEnd (slot src generation link bytes : Nat) (s : State) : Host.Outcome State Fault Refusal :=
  onDev (.secureEnd slot src generation link bytes) (onSecure slot src (secureEnd slot src generation link bytes)) s

/-- Bytes of a copy that have come over a link. -/
def holdGot (js i link n : Nat) (m : Dev) : Dev :=
  match (jobAt m js).map (·.secure) with
  | none => m
  | some s => if (holdAt s i).st = .receiving then tryHeld js i (updHold m js i (fun h => { h with got := tmod 0 h.got link (· + n) })) else m

/-- SECURE_REQUEST at the origin: a RISK snapshot is due (R569). -/
def secureRequest (js : Nat) (m : Dev) : Dev :=
  match jobAt m js with
  | none => m
  | some j => if j.isOrigin ∧ j.phase = .learn then updSecure m js (fun s => { s with dueRisk := true }) else m

def execSecureRequest (slot src estimate : Nat) (s : State) : Host.Outcome State Fault Refusal :=
  onDev (.secureRequest slot src estimate) (arriving (secureRequest slot)) s

/-! ### The origin's decisions (R560, R563, R569 to R571, R577) -/

/-- The decision at the origin for its next boundary. `commits`: the boundary commits a step; `starts`: a step starts
there; `siphon`: the SIPHON stage of a turn out of LEARN begins there. -/
def secureItem (j : Job) (commits starts siphon : Bool) (stepNext : Nat) : Option (Nat × Nat × Nat) :=
  let s := j.secure
  match s.next with
  | some x => some x
  | none =>
    match s.cfg with
    | none => none
    | some c =>
      let due := decide (s.begun = 0) || s.dueInterval || decide (c.interval ≤ stepNext - s.begunStep)
      if s.opened then none
      else if siphon then some (1, 1, (s.begun + 1) % 2 ^ 32)
      else if commits then
        if s.dueCommanded then some (1, 4, (s.begun + 1) % 2 ^ 32)
        else if s.dueRisk then some (1, 3, (s.begun + 1) % 2 ^ 32)
        else if due then some (1, 2, (s.begun + 1) % 2 ^ 32) else none
      else if starts && decide (s.begun = 0) && decide (j.members ≤ 512) then some (1, 2, 1)
      else none

/-- SECURE_RECORD_DONE (R563). -/
def execSecureRecordDone (slot : Nat) (words : List Nat) (s : State) : Host.Outcome State Fault Refusal :=
  onDev (.secureRecordDone slot words) (secureRecordDone slot words) s

/-- SECURE_TIMEOUT (R563). -/
def secureTimeout (js : Nat) (m : Dev) : Dev :=
  match jobAt m js with
  | none => m
  | some j => if j.isOrigin ∧ j.secure.opened ∧ j.secure.next = none
      then updSecure m js (fun s => { s with next := some (3, 5, s.begun) }) else m

def execSecureTimeout (slot : Nat) (s : State) : Host.Outcome State Fault Refusal := onDev (.secureTimeout slot) (secureTimeout slot) s

/-- The status of SNAPSHOT_DONE for a failure cause (R581; the pairing is DEDUCED, log entry 18). -/
def failStatus (cause : Nat) : Nat := match cause with | 3 => 0x4001 | 4 => 0x5002 | _ => 0x5003

/-- SNAPSHOT_DONE. -/
def snapshotDone (js gen fail status : Nat) (m : Dev) : Dev :=
  match jobAt m js with
  | none => m
  | some j => raiseJob m js 0x0701 status (leBytes 4 gen ++ leBytes 1 j.secure.armCause ++ leBytes 1 fail ++ zeros 2
      ++ leBytes 8 j.secure.begunStep ++ leBytes 4 (j.stroke - j.secure.armStroke) ++ leBytes 4 j.secure.touches)

/-- R567: the COMPLETE item at a holder. -/
def holdComplete (js gen : Nat) (m : Dev) : Dev :=
  match jobAt m js with
  | none => m
  | some j => match j.secure.cfg with
    | none => m
    | some c =>
      let i := holdSlotOf c gen
      let h := holdAt j.secure i
      if holdsFor c ∧ h.st = .held ∧ h.gen = gen then
        let m := updHold m js i (fun h => { h with st := .complete })
        if c.aqEvery ≠ 0 ∧ gen % c.aqEvery = 0 then deepStart js gen false m else m
      else m

/-- The generation ends at this member: protection ends with it. -/
def endGeneration (js : Nat) (m : Dev) : Dev :=
  let held := match jobAt m js with | some j => j.secure.heldWrites | none => []
  let m := updSecure m js (fun s => { s with opened := false, copy := 0, next := none, protectedPages := [], reserved := [], copying := [], heldWrites := [] })
  held.foldl (fun m h => { m with mem := memWrite m.mem h.2.1 h.2.2 }) m

/-- A COMPLETE or FAILED item at step 2 of a boundary (R560, R563, R564); `status` 0 takes the cause's own. -/
def secureClose (js action cause gen status : Nat) (m : Dev) : Dev :=
  match jobAt m js with
  | none => m
  | some j =>
    if !j.secure.opened ∨ j.secure.begun ≠ gen then m
    else if action = 2 then
      holdComplete js gen (snapshotDone js gen 0 0 (updSecure (endGeneration js m) js (fun s => { s with complete := gen })))
    else
      let m := snapshotDone js gen cause (if status = 0 then failStatus cause else status) (endGeneration js m)
      updSecure m js (fun s => { s with holds := tmap s.holds (fun _ (h : Hold) => if h.gen = gen ∧ h.st ≠ .complete then { h with st := .invalid } else h) })

/-- A securing item at step 2 of a boundary (R560). -/
def secureApply (js action cause gen : Nat) (m : Dev) : Dev :=
  if action = 1 then (if ((jobAt m js).map mayArm).getD false then siphonArm js cause gen m else m) else secureClose js action cause gen 0 m

/-! ### The risk estimate (R572 to R574) -/

/-- lg(n). -/
def lgScore (n : Nat) : Nat := min 255 (32 * Nat.log2 (1 + n))

/-- R572: the seven scores. -/
def riskScoresOf (m : Dev) : List Nat :=
  let sum := fun i => (m.sys.riskWin.map (fun b => nth 0 b i)).sum
  let temps := (List.range 16).map (fun k =>
    let s := tget ({} : Stack) m.mem.hbm k
    (16 * ((s.temp : Int) - s.thrStart + 8)))
  let t := temps.foldl max 0
  [lgScore (sum 0), if sum 1 = 0 then 0 else 255, lgScore (sum 2), lgScore (sum 3), (min 255 t).toNat, min 255 (64 * sum 5),
   min 255 (m.sys.hours / 256)]

/-- The input with the largest weighted score, the lowest among equals. -/
def riskTop (ws ss : List Nat) : Nat :=
  ((List.range 7).foldl (fun (a : Nat × Nat) i => if a.2 < nth 0 ws i * nth 0 ss i then (i, nth 0 ws i * nth 0 ss i) else a) (0, 0)).1

/-- R581: RISK_CROSSED, to partition 0 and to the job's. -/
def riskCrossed (js thr : Nat) (m : Dev) : Dev :=
  match jobAt m js with
  | none => m
  | some j =>
    let pl := leBytes 1 m.sys.estimate ++ leBytes 1 thr ++ leBytes 1 m.sys.top ++ zeros 1 ++ leBytes 4 j.id
      ++ (m.sys.riskScores.map (BitVec.ofNat 8))
    let m := raiseModule m 0x0B70 0 pl
    if j.part = 0 then m else raisePart m j.part 0x0B70 0 pl

/-- R574 for one job. -/
def riskJob (m : Dev) (js : Nat) : Dev :=
  match jobAt m js with
  | none => m
  | some j => match j.secure.cfg with
    | none => m
    | some c =>
      if c.threshold = 0 then m
      else if c.threshold ≤ m.sys.estimate ∧ j.secure.reqArmed then
        let m := riskCrossed js c.threshold (updSecure m js (fun s => { s with reqArmed := false }))
        match j.phase with
        | .learn =>
          if j.isOrigin then secureRequest js m
          else sendControl m j.origin (securePayload 0x10 j.id 0 (leBytes 1 m.sys.estimate))
        | .generate | .halted => deepNow js m
        | _ => m
      else if m.sys.estimate + 32 < c.threshold ∧ !j.secure.reqArmed then updSecure m js (fun s => { s with reqArmed := true })
      else m

/-- R572: what the links have counted of input 2. -/
def linkFaults (m : Dev) : Nat :=
  ((List.range 32).map (fun l => let k := linkAt m l; k.replays + k.uncorr + 64 * k.laneFaults)).sum

/-- R474: the estimate reads the links' counters; what they have counted since it last did so goes into the window. -/
def riskReadLinks (m : Dev) : Dev :=
  let n := linkFaults m
  let new := n - m.sys.riskLinks
  updSys (if new = 0 then m else riskHit m 2 new) (fun s => { s with riskLinks := n })

/-- RISK_ESTIMATE_TICK: one millisecond (R572, R573). -/
def riskTick (m : Dev) : Dev :=
  let m := riskReadLinks m
  let m := updSys m (fun s => { s with
    riskWin := if 1000 ≤ s.riskMs + 1 then (List.replicate 7 0) :: s.riskWin.take 63 else s.riskWin
    riskMs := if 1000 ≤ s.riskMs + 1 then 0 else s.riskMs + 1
    hours := if 3600000 ≤ s.hourMs + 1 then s.hours + 1 else s.hours
    hourMs := if 3600000 ≤ s.hourMs + 1 then 0 else s.hourMs + 1 })
  let ss := riskScoresOf m
  let ws := m.sys.riskWeights
  let e := min 255 (((List.range 7).map (fun i => nth 0 ws i * nth 0 ss i)).sum / 256)
  let m := updSys m (fun s => { s with riskScores := ss, estimate := e, peak := max s.peak e, top := riskTop ws ss })
  (m.jobs.map (·.1)).foldl riskJob m

def execRiskEstimateTick (s : State) : Host.Outcome State Fault Refusal := onDev .riskEstimateTick riskTick s

/-- RISK_REARM_TIMEOUT (R574). -/
def execRiskRearmTimeout (slot : Nat) (s : State) : Host.Outcome State Fault Refusal :=
  onDevW (wfRiskRearmTimeout slot) (fun m => updSecure m slot (fun s => { s with reqArmed := true })) s

/-! ### Commands -/

/-- SECURE_NOW (R569). -/
def specSecureNow (mb jobId flags : Nat) : CmdSpec where
  cmd := .secureNow mb jobId flags
  opcode := 0x0702
  mb := mb
  job := some jobId
  jobWide := true
  stretch := true
  phases := some (if bitOf flags 0 then [.generate, .learn, .halted] else [.learn])
  par := fun _ => ensure (decide (flags < 2)) 0x2002
  sta := fun m => match jobById m jobId with
    | some p => ensure p.2.secure.cfg.isSome 0x1001
    | none => none
  apply := fun m => match jobById m jobId with
    | none => { m := m }
    | some (js, _) =>
      { m := if bitOf flags 0 then deepNow js m else updSecure m js (fun s => { s with dueCommanded := true }) }

def execSecureNow (mb jobId flags : Nat) (s : State) : Host.Outcome State Fault Refusal := onCmd (specSecureNow mb jobId flags) s

def holdCode : HoldState → Nat
  | .empty => 0 | .receiving => 1 | .held => 2 | .complete => 3 | .invalid => 4

/-- SECURE_STATUS. -/
def specSecureStatus (mb jobId : Nat) : CmdSpec where
  cmd := .secureStatus mb jobId
  opcode := 0x0703
  mb := mb
  job := some jobId
  query := true
  phases := some [.generate, .learn, .recovering, .halted]
  apply := fun m => match jobById m jobId with
    | none => { m := m }
    | some (_, j) =>
      let s := j.secure
      let pair := fun (t : Tab Nat) => leBytes 4 (tget 0 t 0) ++ leBytes 4 (tget 0 t 1)
      { m := m
        body := leBytes 4 s.begun ++ leBytes 4 s.complete
          ++ leBytes 1 (holdCode (holdAt s 0).st) ++ zeros 3 ++ leBytes 1 (holdCode (holdAt s 1).st) ++ zeros 3
          ++ leBytes 4 (holdAt s 0).gen ++ leBytes 4 (holdAt s 1).gen ++ pair s.aqGen ++ pair s.storeGen
          ++ leBytes 1 m.sys.estimate ++ leBytes 1 (match s.cfg with | some c => c.threshold | none => 0)
          ++ leBytes 2 (sat 16 s.reservePeak) ++ zeros 4 ++ leBytes 8 (s.protectedPages.length + s.reserved.length) ++ zeros 8 }

def execSecureStatus (mb jobId : Nat) (s : State) : Host.Outcome State Fault Refusal := onCmd (specSecureStatus mb jobId) s

/-- JOURNAL_READ (R575). -/
def specJournalRead (mb jobId step : Nat) : CmdSpec where
  cmd := .journalRead mb jobId step
  opcode := 0x0704
  mb := mb
  job := some jobId
  query := true
  phases := some [.generate, .learn, .recovering, .halted]
  par := fun m => match jobById m jobId with
    | some p => ensure (match p.2.secure.journal with
        | e :: _ => decide (recField e 0 8 ≤ step)
        | [] => true) 0x200C
    | none => none
  apply := fun m => match jobById m jobId with
    | none => { m := m }
    | some (_, j) =>
      let es := (j.secure.journal.filter (fun e => decide (step ≤ recField e 0 8))).take 62
      { m := m, body := leBytes 4 es.length ++ zeros 60 ++ es.flatMap id }

def execJournalRead (mb jobId step : Nat) (s : State) : Host.Outcome State Fault Refusal := onCmd (specJournalRead mb jobId step) s

/-- RISK_CONFIG. -/
def specRiskConfig (mb : Nat) (weights : List Nat) : CmdSpec where
  cmd := .riskConfig mb weights
  opcode := 0x0B70
  mb := mb
  admin := true
  jobTimed := false
  states := some [.ready, .active, .quiesced]
  apply := fun m => { m := updSys m (fun s => { s with riskWeights := weights }) }

def execRiskConfig (mb : Nat) (weights : List Nat) (s : State) : Host.Outcome State Fault Refusal := onCmd (specRiskConfig mb weights) s

/-- RISK_STATUS. -/
def specRiskStatus (mb : Nat) : CmdSpec where
  cmd := .riskStatus mb
  opcode := 0x0B71
  mb := mb
  jobTimed := false
  query := true
  apply := fun m => { m := m, body := leBytes 1 m.sys.estimate ++ leBytes 1 m.sys.top ++ (m.sys.riskScores.map (BitVec.ofNat 8))
    ++ (m.sys.riskWeights.map (BitVec.ofNat 8)) ++ leBytes 4 m.sys.hours ++ zeros 12 }

def execRiskStatus (mb : Nat) (s : State) : Host.Outcome State Fault Refusal := onCmd (specRiskStatus mb) s

end Sys2Proof.Machine
end

