-- ==== Sys2Proof/Machine/Links.lean ====
section
/-! DEFINITION. Sys2Proof/Machine/Links.lean: Jainzel links (chapter 11): training, frames and replay, widths and lanes,
positions, routes and trees, and bulk packets. -/

namespace Sys2Proof.Machine

/-! ### Links up and down (R445, R451) -/

/-- The data units of a link that have not reached the peer for certain: in the retry buffer, or still to be sent (R451). -/
def unitsInFlight (k : Link) : List Out :=
  k.retry.filterMap (fun x => match x.2 with | .data _ u => u | .flit _ => none) ++ k.txq.map (·.2.2)

/-- R451: what a link's going down leaves of it: its buffers, counts of a replay and credits are as they were before a training, and
while it is enabled it waits for its peer's signal with NO_PEER (R445). -/
def linkDropped (k : Link) : Link := { k with
  downs := if linkUp k then sat 8 (k.downs + 1) else k.downs, attempts := 0, attempting := false, widthTo := none
  cause := if k.enabled then 1 else k.cause
  expSeq := 0, lastAck := 4095, awaitReplay := false, lastFlit := none, sameReplays := 0
  credit := List.replicate 8 64, rx := List.replicate 8 0, owed := List.replicate 8 0, txq := [], bulkWait := 0
  nextSeq := 0, retry := [], flitq := [], keepPair := none }

/-- R451: a link goes down, and it retrains while it is enabled. -/
def linkDown (l : Nat) (m : Dev) : Dev :=
  let k := linkAt m l
  let m := setLinkState l (if k.enabled then .training else .off) (updLink m l linkDropped)
  if linkUp k then secureLinkDown (secureResend (unitsInFlight k) (collLinkDown l m)) else m

/-- LINK_PEER_SIGNAL (R445): an attempt begins. -/
def peerSignal (l : Nat) (m : Dev) : Dev :=
  let k := linkAt m l
  if m.sys.st ≠ .off ∧ k.enabled ∧ (k.st = .off ∨ k.st = .training) ∧ !k.attempting then
    setLinkState l .training (updLink m l (fun k => { k with attempting := true, trains := sat 8 (k.trains + 1) }))
  else m

def execLinkPeerSignal (link : Nat) (s : State) : Host.Outcome State Fault Refusal :=
  onDev (.linkPeerSignal link) (peerSignal link) s

/-- Both lanes of a pair work. -/
def pairOk (lanes p : Nat) : Bool := bitOf lanes (2 * p) && bitOf lanes (2 * p + 1)

/-- R472, R473: the width that the lanes and the two requests give. -/
def widthFor (m : Dev) (k : Link) : LinkState :=
  if ownWide m ∧ k.peerWide then
    if k.lanesOk = 15 then .wide else if pairOk k.lanesOk 0 || pairOk k.lanesOk 1 then .half else .narrow
  else .narrow

/-- A failed attempt; after the third the link is FAILED (R445). -/
def trainFail (l cause : Nat) (m : Dev) : Dev :=
  let m := updLink m l (fun k => { k with attempting := false, cause := cause, attempts := k.attempts + 1 })
  if 3 ≤ (linkAt m l).attempts then setLinkState l .failed m else m

/-- LINK_TRAIN_DONE (R445). A flight time above 1,400 cycles fails with LONG. -/
def trainDone (l lanes flight : Nat) (assigned : Bool) (pos plink cause : Nat) (m : Dev) : Dev :=
  let k := linkAt m l
  if !k.attempting then m
  else if cause ≠ 0 then trainFail l cause m
  else if 1400 < flight then trainFail l 3 m
  else if lanes % 16 = 0 then trainFail l 2 m
  else
    let shift := decide (k.flight ≠ 0) && (decide (k.flight + 4 < flight) || decide (flight + 4 < k.flight))
    let m := updLink m l (fun k => { k with
      attempting := false, attempts := 0, lanesOk := lanes % 16, flight := flight
      fShifts := if shift then sat 8 (k.fShifts + 1) else k.fShifts
      peerPos := if assigned then pos else 0xFFFF, peerLink := plink, peerValid := assigned
      expSeq := 0, lastAck := 4095, awaitReplay := false, lastFlit := none, sameReplays := 0, peerWide := true, widthTo := none })
    let w := widthFor m (linkAt m l)
    let m := collLinkUp l (setLinkState l w m)
    if w = .half ∨ lanes % 16 ≠ 15 then
      raiseModule m 0x0B61 0 (leBytes 1 l ++ leBytes 1 (linkAt m l).lanesOk ++ leBytes 1 (linkCode w))
    else m

def execLinkTrainDone (link lanes flight : Nat) (peerAssigned : Bool) (peerPos peerLink cause : Nat) (s : State) :
    Host.Outcome State Fault Refusal :=
  onDev (.linkTrainDone link lanes flight peerAssigned peerPos peerLink cause) (trainDone link lanes flight peerAssigned peerPos peerLink cause) s

/-- LINK_TRAIN_TIMEOUT (R445): the attempt fails at the 25 ms mark. -/
def trainTimeout (l cause : Nat) (m : Dev) : Dev := if (linkAt m l).attempting then trainFail l cause m else m

def execLinkTrainTimeout (link cause : Nat) (s : State) : Host.Outcome State Fault Refusal :=
  onDev (.linkTrainTimeout link cause) (trainTimeout link cause) s

/-- LINK_PEER_LOSS (R445): the attempt fails with NO_PEER and is not counted. -/
def peerLoss (l : Nat) (m : Dev) : Dev :=
  if (linkAt m l).attempting then updLink m l (fun k => { k with attempting := false, cause := 1 }) else m

def execLinkPeerLoss (link : Nat) (s : State) : Host.Outcome State Fault Refusal := onDev (.linkPeerLoss link) (peerLoss link) s

/-! ### Frames (R448 to R453) -/

/-- R450: an ACK: the frames that it covers leave the retry buffer. -/
def frameAcks (l ack : Nat) (m : Dev) : Dev :=
  let q := (linkAt m l).retry
  let left := ackedTo ack q
  secureAcked l (q.take (q.length - left.length)) (updLink m l (fun k => { k with retry := left }))

/-- R450, R451: the peer asks for the frames after ACK. When a frame has been replayed eight times in vain, the link
goes down. -/
def nakFor (l ack : Nat) (m : Dev) : Dev :=
  let m := frameAcks l ack m
  let k := linkAt m l
  if !linkUp k then m
  else
    let seq := (ack + 1) % 4096
    let n := if k.sameReplays ≠ 0 ∧ k.replaySeq = seq then k.sameReplays + 1 else 1
    if 8 < n then linkDown l m
    else
      let m := updLink m l (fun k => { k with sameReplays := n, replaySeq := seq, replays := sat 32 (k.replays + 1) })
      send m (.replay l seq)

def execNakReceive (link ack : Nat) (s : State) : Host.Outcome State Fault Refusal := onDev (.nakReceive link ack) (nakFor link ack) s

/-- R472: a change of width begins when the requests of both ends give another one. -/
def agreeWidth (m : Dev) (l : Nat) : Dev :=
  let k := linkAt m l
  if linkUp k ∧ k.st ≠ widthFor m k then updLink m l (fun k => { k with widthTo := some (widthFor m k) })
  else updLink m l (fun k => { k with widthTo := none })

/-- R472 for every link, when the module's own request changes; the next headers carry it. -/
def agreeWidths (m : Dev) : Dev :=
  (List.range 32).foldl (fun m l =>
    agreeWidth (if linkUp (linkAt m l) then sendHeader l (linkAt m l).lastAck false m else m) l) m

/-- R473: lanes are lost in use. -/
def loseLanes (l lanes : Nat) (m : Dev) : Dev :=
  let k := linkAt m l
  let left := k.lanesOk &&& (15 ^^^ lanes)
  if !linkUp k ∨ left = k.lanesOk then m
  else
    let m := updLink m l (fun k => { k with lanesOk := left })
    if left = 0 then linkDown l m
    else
      let w := if k.st = .narrow then .narrow else if pairOk left 0 || pairOk left 1 then .half else .narrow
      let m := setLinkState l w m
      raiseModule m 0x0B61 0 (leBytes 1 l ++ leBytes 1 left ++ leBytes 1 (linkCode w))

/-- LANE_FAILURE (R473): the header names the other pair under DROP_PAIR while the link runs HALF. -/
def laneFailure (l lane : Nat) (m : Dev) : Dev :=
  let k := linkAt m l
  if linkUp k ∧ bitOf k.lanesOk lane then
    let m := loseLanes l (1 <<< lane) (updLink m l (fun k => { k with laneFaults := sat 8 (k.laneFaults + 1) }))
    let k := linkAt m l
    if k.st = .half then
      sendHeader l k.lastAck false (updLink m l (fun k => { k with keepPair := some (b2n (decide (lane < 2))) }))
    else m
  else m

def execLaneFailure (link lane : Nat) (s : State) : Host.Outcome State Fault Refusal :=
  onDevW (wfLaneFailure link lane) (laneFailure link lane) s

/-- WIDTH_CHANGE_DONE (R472). -/
def widthDone (l : Nat) (m : Dev) : Dev :=
  match (linkAt m l).widthTo with
  | none => m
  | some s => setLinkState l s (updLink m l (fun k => { k with widthTo := none }))

def execWidthChangeDone (link : Nat) (s : State) : Host.Outcome State Fault Refusal :=
  onDev (.widthChangeDone link) (widthDone link) s

/-- LINK_IDLE_TIMEOUT (R451). -/
def linkIdle (l : Nat) (m : Dev) : Dev := if linkUp (linkAt m l) then linkDown l m else m

def execLinkIdleTimeout (link : Nat) (s : State) : Host.Outcome State Fault Refusal := onDev (.linkIdleTimeout link) (linkIdle link) s

/-- R462, R496: the engines take a channel's data from the buffer: a collective channel's while each collective of the channel on
this link has a free staging slot; a bulk channel's packet by packet. -/
def vcDrains (m : Dev) (l v : Nat) : Bool := decide (v < 6) && !m.colls.any (fun c => decide (c.vc = v) && stagingFull m c l)

/-- Frames of the collective channels leave the buffers of a link (R462). -/
def drainLink (m : Dev) (l : Nat) : Dev :=
  (List.range 6).foldl (fun m v => if vcDrains m l v then unitTaken l v (200 * nth 0 (linkAt m l).rx v) m else m) m

/-- R462: the header of a frame gives credit back, and its flit space goes into its channel's buffer. -/
def frameCredit (l : Nat) (f : Frame) (m : Dev) : Dev :=
  let m := updLink m l (fun k => { k with
    credit := setNth k.credit f.creditVc (min 64 (nth 0 k.credit f.creditVc + f.credit))
    rx := if f.vcValid then setNth k.rx f.vc (min 64 (nth 0 k.rx f.vc + 1)) else k.rx })
  drainLink (serveLink l (creditLeft (linkAt m l)) m) l

/-- What a receiver does with a frame, apart from its flit (R450, R452, R453): whether the express flit is delivered,
and the module. -/
def frameIn (l : Nat) (f : Frame) (m : Dev) : Bool × Dev :=
  let k := linkAt m l
  if !linkUp k then (false, m)
  else
    let bad := decide (8 < f.symErr)
    if f.seq ≠ k.expSeq ∧ k.awaitReplay then (false, m)
    else if f.seq ≠ k.expSeq ∨ bad then
      let fast := decide (f.seq = k.expSeq) && f.exp && f.fastOk && decide (k.lastFlit ≠ some f.seq)
      let m := updLink m l (fun k => { k with uncorr := sat 12 (k.uncorr + 1), awaitReplay := true
                                              lastFlit := if fast then some f.seq else k.lastFlit })
      (fast, sendHeader l k.lastAck true m)
    else
      let new := f.exp && decide (k.lastFlit ≠ some f.seq)
      let m := updLink m l (fun k => { k with
        corrected := sat 32 (k.corrected + f.symErr), expSeq := (f.seq + 1) % 4096, lastAck := f.seq, awaitReplay := false
        lastFlit := none
        fecPath := if new && !f.fastOk then sat 8 (k.fecPath + 1) else k.fecPath
        sameReplays := if f.nak ∨ (f.ack + 1) % 4096 = k.replaySeq then k.sameReplays else 0
        peerWide := f.wideReq })
      let m := sendHeader l f.seq false (frameCredit l f (frameAcks l f.ack m))
      let m := if f.nak then nakFor l f.ack m else m
      let m := if f.dropPair then loseLanes l (if f.pair = 0 then 12 else 3) m else m
      (new, agreeWidth m l)

/-! ### Position, routes, trees, control (R466 to R471) -/

/-- LINK_IDENTITY: every link announces the identifier to its peer. -/
def specLinkIdentity (mb position : Nat) : CmdSpec where
  cmd := .linkIdentity mb position
  opcode := 0x0120
  mb := mb
  admin := true
  jobTimed := false
  states := some [.ready]
  apply := fun m =>
    { m := send (updSys (updNet m (fun n => { n with position := some position })) (fun x => { x with spare := none })) (.identity position) }

def execLinkIdentity (mb position : Nat) (s : State) : Host.Outcome State Fault Refusal := onCmd (specLinkIdentity mb position) s

/-- ROUTE_SET: every entry is checked before any changes. -/
def specRouteSet (mb firstPos count bucket : Nat) : CmdSpec where
  cmd := .routeSet mb firstPos count bucket
  opcode := 0x0121
  mb := mb
  admin := true
  jobTimed := false
  buckets := [bucket]
  par := fun _ => ensure (decide (1 ≤ count ∧ firstPos + count ≤ 65536)) 0x2003
  apply := fun m =>
    let es := (chunksOf 2 count (memRead m.mem (flagAt m bucket).addr (2 * count))).map leNat
    if es.any (fun e => decide (4096 ≤ e)) then { m := m, status := 0x2002 }
    else { m := updNet m (fun n => { n with
      routes := (List.zip (List.range count) es).foldl (fun t x => tset 0 t (firstPos + x.1) x.2) n.routes }) }

def execRouteSet (mb firstPos count bucket : Nat) (s : State) : Host.Outcome State Fault Refusal :=
  onCmd (specRouteSet mb firstPos count bucket) s

/-- A tree entry as 16 bytes (R469). -/
def treeEntry (l : List Byte) : TreeEntry :=
  { tree := recField l 0 2, up := recField l 2 1, flags := recField l 3 1, depth := recField l 4 1, down := recField l 8 4
    jobId := recField l 12 4 }

/-- The checks of one entry of TREE_SET. -/
def treeErr (l : List Byte) : Nat :=
  let e := treeEntry l
  let member := bitOf e.flags 0
  if recField l 5 3 ≠ 0 ∨ 4 ≤ e.flags then 0x2002
  else if e.tree = 0xFFFF then 0x2003
  else if bitOf e.flags 1 then 0
  else if 16 < e.depth ∨ (31 < e.up ∧ e.up ≠ 0xFF) ∨ (e.up = 0xFF ∧ e.depth ≠ 0) ∨ (e.depth = 0 ∧ e.up ≠ 0xFF)
      ∨ (e.up ≤ 31 ∧ bitOf e.down e.up) ∨ (member ∧ e.jobId = 0) ∨ (!member ∧ e.jobId ≠ 0) then 0x2003
  else 0

/-- Replaces, adds or removes a tree entry; the table stays in rising order of TREE. -/
def putTree (ts : List TreeEntry) (e : TreeEntry) : List TreeEntry :=
  let rest := ts.filter (fun t => decide (t.tree ≠ e.tree))
  if bitOf e.flags 1 then rest
  else rest.takeWhile (fun t => decide (t.tree < e.tree)) ++ [e] ++ rest.dropWhile (fun t => decide (t.tree < e.tree))

/-- TREE_SET. -/
def specTreeSet (mb count bucket : Nat) : CmdSpec where
  cmd := .treeSet mb count bucket
  opcode := 0x0122
  mb := mb
  admin := true
  jobTimed := false
  buckets := [bucket]
  par := fun _ => ensure (decide (1 ≤ count ∧ count ≤ 1024)) 0x2003
  apply := fun m =>
    let es := chunksOf 16 count (memRead m.mem (flagAt m bucket).addr (16 * count))
    match (es.map treeErr).find? (fun r => decide (r ≠ 0)) with
    | some r => { m := m, status := r }
    | none =>
      let ts := (es.map treeEntry).foldl putTree m.net.trees
      if 1024 < ts.length then { m := m, status := 0x3001 }
      else { m := updNet m (fun n => { n with trees := ts }) }

def execTreeSet (mb count bucket : Nat) (s : State) : Host.Outcome State Fault Refusal := onCmd (specTreeSet mb count bucket) s

/-- LINK_CONTROL. -/
def specLinkControl (mb link action : Nat) : CmdSpec where
  cmd := .linkControl mb link action
  opcode := 0x0123
  mb := mb
  admin := true
  jobTimed := false
  par := fun _ => ensure (decide (link < 32) && decide (action ≤ 2)) 0x2003
  apply := fun m =>
    let k := linkAt m link
    let m := match action with
      | 0 => linkDown link (updLink m link (fun k => { k with enabled := false }))
      | 1 =>
        let m := updLink m link (fun k => { k with
          enabled := true, attempts := if linkUp k then k.attempts else 0
          cause := if k.st = .off ∨ k.st = .failed then 1 else k.cause })
        if k.st = .off ∨ k.st = .failed then setLinkState link .training m else m
      | _ => if k.enabled then linkDown link m else m
    { m := m, body := leBytes 1 (linkCode (linkAt m link).st) ++ zeros 7 }

def execLinkControl (mb link action : Nat) (s : State) : Host.Outcome State Fault Refusal := onCmd (specLinkControl mb link action) s

/-- LINK_STATUS. -/
def specLinkStatus (mb link : Nat) : CmdSpec where
  cmd := .linkStatus mb link
  opcode := 0x0B60
  mb := mb
  query := true
  jobTimed := false
  par := fun _ => ensure (decide (link < 32) || decide (link = 0xFF)) 0x2003
  apply := fun m =>
    let ls := if link = 0xFF then List.range 32 else [link]
    { m := m
      body := ls.flatMap (fun l =>
        let k := linkAt m l
        leBytes 8 (jlStatus k) ++ leBytes 4 (jlPeer k) ++ zeros 4 ++ leBytes 8 (jlErr k) ++ leBytes 8 (jlRetry k)) }

def execLinkStatus (mb link : Nat) (s : State) : Host.Outcome State Fault Refusal := onCmd (specLinkStatus mb link) s

/-! ### Packets (R463 to R468, R731) -/

/-- BULK_PACKET_FORWARD (R468, R731). -/
def packetForward (link : Nat) (p : Packet) (m : Dev) : Dev :=
  if !forwarding m ∨ m.net.position = some p.dest ∨ !linkUp (linkAt m link) then m
  else match routeLink m p.dest with
    | some l => sendUnit (unitTaken link p.vc (packetBytes p) m) l p.vc (packetBytes p) (.packet l p)
    | none => updLink (unitTaken link p.vc (packetBytes p) m) link (fun k => { k with noRoute := sat 4 (k.noRoute + 1) })

def execBulkPacketForward (link : Nat) (packet : Packet) (s : State) : Host.Outcome State Fault Refusal :=
  onDev (.bulkPacketForward link packet) (packetForward link packet) s

/-- The window that a packet names, for its source (R464). -/
def windowFor (m : Dev) (window src : Nat) : Option Window := tfind m.net.windows (window * 65536 + src)

/-- R464: a WRITE packet for this module: whether it is taken, and the module. A window with no memory under it hands
the data to its engine. -/
def windowWrite (link : Nat) (p : Packet) (m : Dev) : Bool × Dev :=
  let m := unitTaken link p.vc (packetBytes p) m
  let w := windowFor m p.window p.src
  let ok := match w with
    | some w => p.crcOk && decide (p.offset + p.payload.length ≤ w.size)
    | none => false
  match w, ok with
  | some w, true =>
    let m := piecesWrite m p.payload false (spanPieces w.pieces p.offset p.payload.length)
    (true, (bitsOf (p.payload.length / 64) p.poisonMap).foldl (fun m i =>
      (spanPieces w.pieces (p.offset + 64 * i) 64).foldl (fun m a => updMem m (fun x => memPoison x a.1 a.2)) m) m)
  | _, _ =>
    let m := updLink m link (fun k => { k with window := sat 4 (k.window + 1) })
    if p.window ∈ m.net.winFaults then (false, m)
    else
      let m := updNet m (fun n => { n with winFaults := n.winFaults ++ [p.window] })
      let pl := leBytes 1 link ++ zeros 1 ++ leBytes 2 p.src ++ leBytes 2 p.window ++ zeros 2 ++ leBytes 8 p.offset
      (false, match (m.net.windows.find? (fun e => decide (e.1 / 65536 = p.window))).map (·.2) with
        | some w => raiseJob m w.job 0x0B62 0 pl
        | none => raiseModule m 0x0B62 0 pl)

end Sys2Proof.Machine
end

