-- ==== Sys2Proof/Machine/Turn.lean ====
section
/-! DEFINITION. Sys2Proof/Machine/Turn.lean: the turn (chapter 13): its stages, the sluice, layouts and model images, turn
space, the commit and the failure. -/

namespace Sys2Proof.Machine


/-! ### Layout images (R523 to R525) -/

/-- The layout that an image holds. -/
def readLayout (l : List Byte) : Layout :=
  { phase := recField l 4 1, groupSize := recField l 6 2, slices := recField l 8 4, regionBytes := recField l 16 8
    digest := recField l 32 8, entries := (chunksOf 8 (recField l 8 4) (l.drop 64)).map leNat, copying := true }

/-- R523 to R525: the image describes a layout. -/
def layoutImageOk (l : List Byte) (room : Nat) : Bool :=
  let x := readLayout l
  decide (recField l 0 4 = 0x4C590001) && decide (x.phase = 1 ∨ x.phase = 2)
    && decide (recField l 24 8 = 64 + 8 * x.slices) && decide (64 + 8 * x.slices ≤ room)
    && decide (x.regionBytes % 0x400000 = 0)
    && x.entries.all (fun e => decide (slDies e ≠ 0) && sliceFmtOk (slFmt e)
        && decide (slOff e + sliceRecord (slFmt e) ≤ x.regionBytes))
    && (if x.phase = 2 then learnLayoutOk x.groupSize x.entries else decide (x.groupSize = 0))

def layoutUse (js slot : Nat) (a : Alloc) : Bool := decide (a.job = some js) && decide (a.use = .layout slot)

/-- LAYOUT_LOAD. A slot that holds no layout cannot be deleted (DEDUCED, log entry 19). -/
def specLayoutLoad (mb jobId layout flags count first : Nat) : CmdSpec where
  cmd := .layoutLoad mb jobId layout flags count first
  opcode := 0x0604
  mb := mb
  job := some jobId
  phases := some [.idle, .generate, .learn, .turning]
  buckets := if bitOf flags 0 then [] else bucketRange first (min count 4096)
  par := fun m => firstErr [
    ensure (decide (flags < 2)) 0x2002,
    ensure (decide (1 ≤ layout ∧ layout ≤ 8) && (if bitOf flags 0 then decide (count = 0 ∧ first = 0) else decide (1 ≤ count ∧ count ≤ 4096))) 0x2003,
    (match jobById m jobId with
      | some p => ensure (!bitOf flags 0 || (tfind p.2.layouts layout).isSome) 0x2003
      | none => none)]
  sta := fun m => match jobById m jobId with
    | some p => firstErr [
        ensure (!(decide (p.2.phase = .turning) && decide (p.2.turn.layout = layout))) 0x1007,
        ensure (match tfind p.2.layouts layout with | some l => !l.copying | none => true) 0x1007,
        ensure (!mappedOver m (layoutUse p.1 layout)) 0x1007]
    | none => none
  apply := fun m => match jobById m jobId with
    | none => { m := m }
    | some (js, j) =>
      let m' := updMem m (fun x => releaseAllocs x (layoutUse js layout))
      if bitOf flags 0 then
        let old := (tfind j.layouts layout).getD { phase := 0, groupSize := 0, slices := 0, regionBytes := 0, digest := 0, entries := [] }
        { m := updJob m' js (fun j => { j with layouts := tdel j.layouts layout })
          body := leBytes 8 old.digest ++ leBytes 4 old.slices ++ zeros 4 }
      else
        let bs := bucketRange first count
        let head := bucketBytes m bs 64
        let img := bucketBytes m bs (min (count * segBytes) (64 + 8 * recField head 8 4))
        if !layoutImageOk img (count * segBytes) then { m := m, status := 0x200A }
        else match allocate m' j.part (some js) (.layout layout) (evenShares img.length) with
          | .error e => { m := m, status := e }
          | .ok (m', _) =>
            { m := updJob m' js (fun j => { j with layouts := tput j.layouts layout (readLayout img) })
              body := leBytes 8 (recField img 32 8) ++ leBytes 4 (recField img 8 4) ++ zeros 4
              wait := some (.imageCopy js (3 + 16 * layout)), keep := true }

def execLayoutLoad (mb jobId layout flags count first : Nat) (s : State) : Host.Outcome State Fault Refusal :=
  onCmd (specLayoutLoad mb jobId layout flags count first) s

/-- The digest of a layout as its image states it (R523). -/
def layoutDigestOk (l : Layout) : Bool := decide (leBytes 8 l.digest = shake256 8 (l.entries.flatMap (leBytes 8)))

/-- The image in the buckets that a mailbox's command holds; `at'` is the offset of LENGTH in its header. -/
def heldImage (m : Dev) (mb at' : Nat) : List Byte :=
  let bs := (m.ctl.holds.filter (fun h => decide (h.mb = mb) && decide (h.due = none))).map (·.bucket)
  bucketBytes m bs (recField (bucketBytes m bs 64) at' 8)

/-- Where the copy of an image goes: the last allocation of its kind (R403, R440, R729). -/
def imageShares (m : Dev) (js kind index : Nat) : List Alloc :=
  let use := match kind with | 1 => AllocUse.reqStore | 2 => .feedStore | _ => .layout index
  let l := m.mem.allocs.filter (fun a => decide (a.job = some js) && decide (a.use = use))
  let g := (l.map (·.group)).foldl max 0
  l.filter (fun a => decide (a.group = g))

/-- IMAGE_COPY_DONE (R129): the copy of a program or layout image into job memory completes. `kind` 1 is a generation
image, 2 a learning image, 3 the layout image of slot `index`, whose digest is checked. -/
def imageCopied (js kind index : Nat) (m : Dev) : Dev :=
  let why := WaitFor.imageCopy js (if kind = 3 then 3 + 16 * index else kind)
  if m.ctl.waits.any (fun w => decide (w.why = why)) then
    let good := match kind, (jobAt m js).bind (fun j => tfind j.layouts index) with
      | 3, some l => layoutDigestOk l
      | _, _ => true
    let op := match kind with | 1 => 0x0401 | 2 => 0x0501 | _ => 0x0604
    let m := (m.ctl.waits.filter (fun w => decide (w.why = why))).foldl (fun m w =>
      let img := heldImage m w.reply.mb (if kind = 3 then 24 else 16)
      let m := imageCopy m (heldRuns m w.reply.mb) img.length (fun _ => (img.length + 15) / 16) (imageShares m js kind index)
      endBuckets (if good then extendJob m js op (shake256 32 img) else m) w.reply.mb) m
    if kind ≠ 3 then finishWaits m (fun w => decide (w = why)) id
    else if good then
      finishWaits (updJob m js (fun j => { j with layouts := tupd j.layouts index (fun l => { l with copying := false }) }))
        (fun w => decide (w = why)) id
    else
      let m := updMem (updJob m js (fun j => { j with layouts := tdel j.layouts index })) (fun x => releaseAllocs x (layoutUse js index))
      finishWaits m (fun w => decide (w = why)) (fun r => { r with status := 0x4002, body := [] })
  else m

def execImageCopyDone (slot kind index : Nat) (s : State) : Host.Outcome State Fault Refusal :=
  onDev (.imageCopyDone slot kind index) (imageCopied slot kind index) s

/-! ### Sources (R521, R526, R542) -/

/-- R521: the legal pairs of phases and sources. -/
def turnPair (from' : Phase) (target source : Nat) : Bool :=
  match from', target with
  | .idle, 1 | .idle, 2 => decide (1 ≤ source ∧ source ≤ 4)
  | .generate, 1 | .learn, 1 => decide (source ≤ 4)
  | .generate, 2 | .learn, 2 => decide (source = 0)
  | _, _ => false

/-- The memory under a source that is device memory, in order: none for the aquifer and the store. -/
def sourcePieces (m : Dev) (t : Turn) : List (Nat × Nat) :=
  match t.source with
  | 1 => [(recField t.src 0 8, recField t.src 8 8)]
  | 4 => (bucketRange (recField t.src 0 4) (recField t.src 4 2)).map (fun b => ((flagAt m b).addr, segBytes))
  | _ => []

/-- The bytes of an external source. The shared store is the host's, so what it answers is a free value. -/
def sourceBytes (m : Dev) (part : Nat) (t : Turn) : List Byte × Dev :=
  match t.source with
  | 2 =>
    ((bucketRange (recField t.src 0 4) (recField t.src 4 4)).flatMap (fun e =>
      match tfind m.mem.aq.extents (extentKey part e) with
      | some x => (List.range segBytes).map (fun i => tget 0 x.data i)
      | none => zeros segBytes), m)
  | 3 =>
    let n := recField t.src 16 8
    drawFreeBytes (send m (.hostRead (recField t.src 12 4) (recField t.src 0 8) (recField t.src 8 4) n)) n
  | _ => (piecesRead m.mem (sourcePieces m t), m)

/-- A record of a model image: its format, its slice record, its offset and its length in the image, and SBC. -/
structure ImageRec where
  fmt : Nat
  data : List Byte
  off : Nat
  len : Nat
  sbc : Bool

/-- R526: the records of a model image from an offset. -/
def imageRecs : Nat → Nat → List Byte → List ImageRec
  | 0, _, _ => []
  | n + 1, o, l =>
    let len := recField l 0 4
    let fmt := recField l 4 1
    { fmt := fmt, data := imagePayload fmt (recField l 5 1) ((l.drop 8).take len), off := o, len := 8 + len
      sbc := bitOf (recField l 5 1) 0 }
      :: imageRecs n (o + upTo64 (8 + len)) (l.drop (upTo64 (8 + len)))

/-- R526: a model image's header and digest, and what is wrong with them: 5 SOURCE, 6 DIGEST, 8 LAYOUT. -/
def imageFault (l : List Byte) (slices digest : Nat) : Nat :=
  if recField l 0 4 ≠ 0x4D490001 ∨ l.length < recField l 8 8 then 5
  else if leBytes 8 digest ≠ shake256 8 ((l.take (recField l 8 8)).drop 64) then 6
  else if recField l 4 4 ≠ slices then 8
  else 0

/-- R527: the formats that the origin finds in the image are ones that the sluice converts; a source that the origin
cannot read yet is left to the pipes. -/
def pairsOk (m : Dev) (js : Nat) (j : Job) (t : Turn) : Bool :=
  match tfind j.layouts t.layout with
  | none => true
  | some nl =>
    let dst := nl.entries.map slFmt
    if t.source = 0 then
      match layoutOf j with
      | some ol => decide (j.phase = .generate ∧ t.target = 2) || (List.zip (ol.entries.map slFmt) dst).all (fun p => convertible p.1 p.2)
      | none => true
    else if t.source = 3 ∨ jobAt m js = none then true
    else
      let l := (sourceBytes m j.part t).1
      decide (imageFault l nl.slices t.imageDigest ≠ 0)
        || (List.zip ((imageRecs nl.slices 64 (l.drop 64)).map (·.fmt)) dst).all (fun p => convertible p.1 p.2)

/-- R542: what a member finds at the boundary of the command, as a mask of causes: 5 SOURCE, 8 LAYOUT. -/
def turnChecks (m : Dev) (js : Nat) (j : Job) (t : Turn) : Nat :=
  let src := match t.source with
    | 1 => decide (0x020000000000 ≤ recField t.src 0 8)
        && rangeHeld m.mem (recField t.src 0 8) (recField t.src 8 8) (fun a => decide (a.part = j.part) && (decide (a.job = none) || decide (a.job = some js)))
    | 2 => extentsOk (recField t.src 0 4) (recField t.src 4 4)
    | 3 => (match tfind m.port.qps (recField t.src 12 4) with | some q => decide (q.part = j.part) && !q.error | none => false)
    | 4 => (bucketRange (recField t.src 0 4) (recField t.src 4 2)).all (fun b =>
        decide (1 ≤ b ∧ b ≤ 32767) && decide ((flagAt m b).owner = 2) && decide ((flagAt m b).part = j.part))
    | _ => true
  let lay := match tfind j.layouts t.layout with
    | some l => !l.copying && decide (l.digest = t.layoutDigest) && decide (l.phase = t.target)
    | none => false
  (if src then 0 else 2 ^ 5) + (if lay then 0 else 2 ^ 8)

/-! ### Beginning (R515 to R519) -/

/-- TURN_STAGE (R545). -/
def turnStageEvent (js stage : Nat) (m : Dev) : Dev :=
  match jobAt m js with
  | none => m
  | some j => raiseJob m js 0x0601 0 (leBytes 1 stage ++ leBytes 1 j.turn.target ++ zeros 2 ++ leBytes 4 j.turnNumber ++ leBytes 4 j.epoch)

/-- R519: the member is busy. -/
def turnBusy (m : Dev) (js : Nat) (j : Job) : Bool :=
  match j.phase with
  | .generate => !(liveSeqs m js).isEmpty || (match j.gen with | some g => !g.queue.isEmpty | none => false)
  | .learn => j.learn.running || decide (0 < j.learn.runRemaining)
  | _ => false

/-- The dies whose pipes work in a TRANSFORM stage, and those that decompress (R528, R530, R544). The image of the shared store is not
known before it has been read. -/
def pipesAtWork (m : Dev) (js : Nat) (j : Job) (nl : Layout) : List Nat × List Nat :=
  let lowest := fun (l : Layout) => fun (d : Nat) => l.entries.any (fun e => decide (slLowest e = d))
  if j.turn.source = 0 then
    match layoutOf j with
    | some ol => ((List.range 8).filter (lowest ol), [])
    | none => ([], [])
  else
    let recs := if j.turn.source = 3 then [] else imageRecs nl.slices 64 ((sourceBytes m j.part j.turn).1.drop 64)
    ((List.range 8).filter (lowest nl),
      (List.range 8).filter (fun d => (List.zip recs nl.entries).any (fun p => p.1.sbc && decide (slLowest p.2 = d))))

/-- BUSY and SBC of the pipes (R544). -/
def setPipes (m : Dev) (p : List Nat × List Nat) : Dev :=
  (List.range 8).foldl (fun m d => updFab m d (fun f => { f with sluiceBusy := decide (d ∈ p.1), sluiceSbc := decide (d ∈ p.2) })) m

/-- The pipes of a TRANSFORM stage begin. -/
def beginTransform (js : Nat) (m : Dev) : Dev :=
  match jobAt m js with
  | none => m
  | some j => match tfind j.layouts j.turn.layout with
    | some nl => if j.turn.mine = 0 then setPipes m (pipesAtWork m js j nl) else m
    | none => m

/-- The boundary of TURN_BEGIN at every member. -/
def turnBegin (js : Nat) (t : Turn) (m : Dev) : Dev :=
  match jobAt m js with
  | none => m
  | some j =>
    let first := if j.phase = .idle then 3 else 1
    let busy := turnBusy m js j
    let mask := turnChecks m js j t + (if busy then 2 ^ 3 else 0)
    let m := if j.phase = .generate then genLeave js m else m
    let m := if t.source = 4 then takeBuckets m (copyHolder 4 js) (bucketRange (recField t.src 0 4) (recField t.src 4 2)) else m
    let m := updJob m js (fun j => { j with
      phase := .turning
      turn := { t with stage := first, prev := j.phase, cause := j.turn.cause, turnStroke := j.stroke, mine := mask } })
    let m := turnStageEvent js first m
    if first = 3 then beginTransform js m else m

/-- R67, R68: the minimum margin in force; an origin that has taken the role over has not computed it, and the margin in force, which
is at least the minimum, stands for it. -/
def leastMargin (j : Job) : Nat := if j.minMargin = 0 then j.margin else j.minMargin

/-- TURN_BEGIN. -/
def specTurnBegin (mb jobId epoch target source periodK layout stageLimit turnGroup distGroup : Nat) (src : List Byte)
    (imageDigest layoutDigest : Nat) : CmdSpec where
  cmd := .turnBegin mb jobId epoch target source periodK layout stageLimit turnGroup distGroup src imageDigest layoutDigest
  opcode := 0x0601
  mb := mb
  job := some jobId
  jobWide := true
  stretch := true
  phases := some [.idle, .generate, .learn]
  par := fun m =>
    let t : Turn := { target, source, layout, periodK, stageLimit, turnGroup, distGroup, src, imageDigest, layoutDigest }
    firstErr [
      ensure (decide (1 ≤ target ∧ target ≤ 2) && decide (periodK = 0 ∨ (4 ≤ periodK ∧ periodK ≤ 12))
        && decide (1 ≤ layout ∧ layout ≤ 8) && decide (16 ≤ stageLimit) && (decide (target = 2) || decide (distGroup = 0))
        && (decide (source ≠ 0) || (decide (src = zeros 32) && decide (imageDigest = 0)))) 0x2003,
      (match jobById m jobId with
        | some p => ensure (decide (p.2.epoch ≠ 0xFFFFFFFF) && (decide (p.2.phase ∉ [Phase.idle, .generate, .learn]) || turnPair p.2.phase target source)) 0x2003
        | none => none),
      (match jobById m jobId with
        | some p => ensure (decide (periodK = 0) || decide (max p.2.cfgMargin (leastMargin p.2) ≤ periodCycles periodK / 2)) 0x2003
        | none => none),
      (match jobById m jobId with
        | some p => ensure (!p.2.isOrigin || pairsOk m p.1 p.2 t) 0x200A
        | none => none)]
  sta := fun m => match jobById m jobId with
    | some p => ensure (decide (p.2.epoch = epoch)) 0x1002
    | none => none
  apply := fun m => match jobById m jobId with
    | none => { m := m }
    | some (js, _) =>
      { m := turnBegin js { target, source, layout, periodK, stageLimit, turnGroup, distGroup, src, imageDigest, layoutDigest } m }

def execTurnBegin (mb jobId epoch target source periodK layout stageLimit turnGroup distGroup : Nat) (src : List Byte)
    (imageDigest layoutDigest : Nat) (s : State) : Host.Outcome State Fault Refusal :=
  onCmd (specTurnBegin mb jobId epoch target source periodK layout stageLimit turnGroup distGroup src imageDigest layoutDigest) s

/-! ### Turn space (R532) -/

/-- The working memory of the phase that the turn leaves. -/
def workUse (js : Nat) (ph : Phase) (a : Alloc) : Bool :=
  match ph with
  | .generate => genUse js a
  | .learn => learnUse js a
  | _ => false

/-- R532: the working memory becomes turn space, which is held and not cleared. -/
def takeTurnSpace (js : Nat) (m : Dev) : Dev :=
  match jobAt m js with
  | none => m
  | some j =>
    let w := workUse js j.turn.prev
    let m := updTurn m js (fun t => { t with space := m.mem.allocs.filter w })
    updMem m (fun x => { x with allocs := x.allocs.map (fun a => if w a then { a with use := .turnSpace } else a) })

/-- A run of `n` segments of a unit taken out of the job's turn space. -/
def takeSpace (a' : Alloc) (u : Nat) : List Alloc → Option (List Alloc)
  | [] => none
  | a :: l =>
    if a.use = .turnSpace ∧ a.job = a'.job ∧ segUnit a.first = u ∧ a'.count ≤ a.count then
      some ({ a' with first := a.first }
        :: (if a'.count < a.count then { a with first := a.first + a'.count, count := a.count - a'.count } :: l else l))
    else (takeSpace a' u l).map (a :: ·)

/-- R532: places shares first in turn space and then in free memory, within the quotas. -/
def placeTurn (part js : Nat) (use : AllocUse) (group : Nat) : List (Nat × Nat) → Dev → Option Dev
  | [], m => some m
  | (u, n) :: l, m =>
    if n = 0 then placeTurn part js use group l m
    else
      let a : Alloc := { first := 0, count := n, part := part, job := some js, use := use, group := group }
      match takeSpace a u m.mem.allocs with
      | some as => placeTurn part js use group l (updMem m (fun x => { x with allocs := as }))
      | none =>
        if quotaAdmits m part (some js) (if u < 16 then 1 else 2) n then
          match findRun m.mem u n with
          | some f => placeTurn part js use group l (updMem m (fun x => { x with allocs := x.allocs ++ [{ a with first := f }] }))
          | none => none
        else none

/-- Places one allocation of the turn under a group number of its own. -/
def placeGroup (part js : Nat) (use : AllocUse) (shares : List (Nat × Nat)) (m : Dev) : Option Dev :=
  (placeTurn part js use m.mem.nextGroup shares m).map (fun m => updMem m (fun x => { x with nextGroup := x.nextGroup + 1 }))

/-- R524, R729: a layout's regions, and the golden copies that mirror them. -/
def regionShares (dies : List Nat) (bytes : Nat) : List (Nat × Nat) :=
  dies.flatMap (fun d => [(2 * d, segsOf (bytes / 2)), (2 * d + 1, segsOf (bytes / 2))])
def goldenShares (dies : List Nat) (bytes : Nat) : List (Nat × Nat) :=
  dies.flatMap (fun d => (List.range 4).map (fun k => (16 + 4 * d + k, segsOf (bytes / 4))))

/-! ### The transform (R527 to R535) -/

/-- The pieces of a slice's record in die `d`'s part of the golden copy. -/
def goldenPieces (m : Dev) (js tag d : Nat) (l : Layout) (s : Nat) : List (Nat × Nat) :=
  let q := l.regionBytes / 4
  let runs := (List.range 4).filterMap (fun k =>
    (m.mem.allocs.find? (fun x => decide (x.job = some js) && decide (x.use = .golden tag) && decide (segUnit x.first = 16 + 4 * d + k))).map
      (fun x => (x.first * segBytes, q)))
  spanPieces runs (slOff (layoutEntry l s)) (sliceRecord (slFmt (layoutEntry l s)))

/-- R528: writes a slice record into the regions of a layout on every die that holds it, and into the golden copy of a
generation layout. -/
def writeSlice (js tag : Nat) (l : Layout) (s : Nat) (rec' : List Byte) (poisoned : Bool) (m : Dev) : Dev :=
  (bitsOf 8 (slDies (layoutEntry l s))).foldl (fun m d =>
    let m := piecesWrite m rec' poisoned (slicePieces m js tag d l s)
    if l.phase = 1 then piecesWrite m rec' poisoned (goldenPieces m js tag d l s) else m) m

/-- R529: cycles of a pipe on one slice of that many bytes, decompressed (DEDUCED, log entry 19: the pipe's stages overlap). -/
def pipeCycles (src dst bytes : Nat) : Nat := (bytes + (if src ≠ dst ∧ dst ≤ 6 then 127 else 511)) / (if src ≠ dst ∧ dst ≤ 6 then 128 else 512)

/-- R528, R531, R544: one slice through the pipe of a die. -/
def pipeSlice (js tag die : Nat) (l : Layout) (s src : Nat) (strans : Bool) (rec' : List Byte) (poisoned : Bool) (bytes : Nat) (m : Dev) : Dev :=
  let e := layoutEntry l s
  let m := writeSlice js tag l s (convertSlice src strans (slFmt e) (slTrans e) rec') poisoned m
  let m := updFab m die (fun f => { f with
    sluiceSlices := (f.sluiceSlices + 1) % 2 ^ 32, sluiceCount := (f.sluiceCount + bytes) % 2 ^ 64
    sluiceActive := (f.sluiceActive + pipeCycles src (slFmt e) rec'.length) % 2 ^ 64, sluicePoison := f.sluicePoison || poisoned })
  updTurn m js (fun t => { t with converted := t.converted + bytes, mine := if poisoned then t.mine ||| 2 ^ 7 else t.mine })

/-- A RESIDENT source: every slice from the old regions. -/
def turnResident (js : Nat) (j : Job) (nl : Layout) (m : Dev) : Dev :=
  match layoutOf j with
  | none => updTurn m js (fun t => { t with mine := t.mine ||| 2 ^ 5 })
  | some ol =>
    if ol.slices ≠ nl.slices ∨ !(List.zip ol.entries nl.entries).all (fun p => convertible (slFmt p.1) (slFmt p.2)) then
      updTurn m js (fun t => { t with mine := t.mine ||| 2 ^ 8 })
    else (List.range nl.slices).foldl (fun m s =>
      let e := layoutEntry ol s
      let ps := slicePieces m js j.layTag (slLowest e) ol s
      let m := readsFind m 0xFC1 ps
      pipeSlice js (j.layTag + 1) (slLowest e) nl s (slFmt e) (slTrans e) (piecesRead m.mem ps) (piecesPoisoned m.mem ps) (sliceRecord (slFmt e)) m) m

/-- An external source: every slice from the model image. R534: a turn from IDLE to LEARN builds the optimizer state of the
shard from it. -/
def turnExternal (js : Nat) (j : Job) (nl : Layout) (m : Dev) : Dev :=
  let ps := sourcePieces m j.turn
  let m := readsFind m 0xFC1 ps
  let r := sourceBytes m j.part j.turn
  let m := r.2
  let bad := imageFault r.1 nl.slices j.turn.imageDigest
  let recs := imageRecs nl.slices 64 (r.1.drop 64)
  if bad = 5 then updTurn m js (fun t => { t with mine := t.mine ||| 2 ^ 5 })
  else if bad = 8 ∨ !(List.zip recs nl.entries).all (fun p => convertible p.1.fmt (slFmt p.2)) then updTurn m js (fun t => { t with mine := t.mine ||| 2 ^ 8 })
  else
    let m := (List.zip (List.range nl.slices) recs).foldl (fun m x =>
      pipeSlice js (j.layTag + 1) (slLowest (layoutEntry nl x.1)) nl x.1 x.2.fmt false x.2.data
        (piecesPoisoned m.mem (spanPieces ps x.2.off x.2.len)) x.2.len m) m
    let m := if j.turn.target = 2 then
        let own := (List.zip (List.range nl.slices) recs).filter (fun x => decide (x.1 % j.turn.groupSize = j.turn.shard))
        let opt : Tab OptSlice := own.foldl (fun o x =>
          let w := if x.2.fmt = 15 then sliceCodes 15 x.2.data else (sliceVals x.2.fmt false x.2.data).map (fun v => (fcvt fp32 none v).1)
          let sl : OptSlice := { zeroSlice with w := w }
          tput o x.1 sl) []
        updTurn m js (fun t => { t with newOpt := opt })
      else m
    if bad = 6 then
      let m := (List.range 8).foldl (fun m d => updFab m d (fun f => { f with sluiceDigest := true })) m
      updTurn m js (fun t => { t with mine := t.mine ||| 2 ^ 6 })
    else m

/-- The runs of a member's shard by die under a layout (R525). -/
def runIn (l : Layout) (group shard d : Nat) : List Nat :=
  (shardSlices l.slices group shard).filter (fun s => decide (slLowest (layoutEntry l s) = d))

/-- The optimizer state that a snapshot image holds, its runs being those of the layout that the image names (R557). -/
def imageOpt (j : Job) (nl : Layout) (l : List Byte) : Tab OptSlice :=
  let il := ((j.layouts.map (·.2)).find? (fun x => decide (leBytes 8 x.digest = recBytes l 64 8))).getD nl
  (List.range 8).foldl (fun t d => readRun l d (runIn il (recField l 44 2) (recField l 42 2) d) t) []

/-- R533: a turn from GENERATE to LEARN takes the learning state from an image. -/
def turnRestore (js : Nat) (j : Job) (nl : Layout) (img : List Byte) (m : Dev) : Dev :=
  if recField img 0 4 ≠ 0x534E0001 ∨ recField img 12 4 ≠ j.secure.complete ∧ j.secure.copy ≠ 1 ∧ j.secure.copy ≠ 2 then
    updTurn m js (fun t => { t with mine := t.mine ||| 2 ^ 5 })
  else if recField img 44 2 ≠ j.turn.groupSize ∨ recField img 42 2 ≠ j.turn.shard then
    updTurn m js (fun t => { t with mine := t.mine ||| 2 ^ 8 })
  else
    let opt := imageOpt j nl img
    let m := updTurn m js (fun t => { t with newOpt := opt, newImage := img })
    opt.foldl (fun m o =>
      let e := layoutEntry nl o.1
      let codes := o.2.w.map (fun w => rne16 (dec32 w))
      let codes := if slTrans e then transpose256 0 codes else codes
      writeSlice js (j.layTag + 1) nl o.1 (packCodes 7 codes ++ zeros 64) false m) m

/-- R535: the shard of this member in a learning layout. -/
def turnShard (m : Dev) (js distGroup : Nat) : Option (Nat × Nat) :=
  (tfind m.groups (js * 65536 + distGroup)).map (fun g => (g.members, g.rank))

/-- R532 to R535: the transform at this member. Memory first; then the conversion. -/
def turnTransform (js : Nat) (img : List Byte) (m : Dev) : Dev :=
  match jobAt m js with
  | none => m
  | some j =>
    match tfind j.layouts j.turn.layout with
    | none => updTurn m js (fun t => { t with mine := t.mine ||| 2 ^ 8 })
    | some nl =>
      let dies := jobDies m js
      let gs := turnShard m js j.turn.distGroup
      let fits := nl.entries.all (fun e => (bitsOf 8 (slDies e)).all (fun d => decide (d ∈ dies)))
        && (decide (j.turn.target = 1) || (match gs with | some g => decide (g.1 = nl.groupSize) && decide (0 < g.1) && decide (g.2 < g.1) | none => false))
      if !fits then updTurn m js (fun t => { t with mine := t.mine ||| 2 ^ 8 })
      else
        let g := gs.getD (0, 0)
        let tag := j.layTag + 1
        let placed := (placeGroup j.part js (.layoutRegion tag) (regionShares dies nl.regionBytes) m).bind (fun m =>
          if j.turn.target = 1 then placeGroup j.part js (.golden tag) (goldenShares dies nl.regionBytes) m
          else
            let sh := shardShares nl g.1 g.2 917504
            (placeGroup j.part js .shard sh m).bind (fun m' =>
              if m'.mem.allocs.any (fun a => decide (a.job = some js) && decide (a.use = .journal)) then some m'
              else placeGroup j.part js .journal [(0, 1)] m'))
        match placed with
        | none => updTurn m js (fun t => { t with mine := t.mine ||| 2 ^ 4 })
        | some m' =>
          let m' := updTurn m' js (fun t => { t with
            groupSize := g.1, shard := g.2, newShard := if t.target = 2 then some (m.mem.nextGroup + 1) else none })
          let m' := (List.range 8).foldl (fun m d => updFab m d (fun f => { f with sluiceSlices := 0 })) m'
          match jobAt m' js with
          | none => m'
          | some j =>
            if j.turn.source ≠ 0 then turnExternal js j nl m'
            else if j.turn.prev = .generate ∧ j.turn.target = 2 then turnRestore js j nl img m'
            else
              let m' := turnResident js j nl m'
              if j.turn.target = 2 then
                (shardSlices nl.slices g.1 g.2).foldl (fun m s =>
                  match tfind j.learn.opt s with
                  | some o => updTurn m js (fun t => { t with newOpt := tput t.newOpt s o })
                  | none => m) m'
              else m'

/-! ### Images on their way from a holder (R533, R609) -/

/-- R596: a recovery message of 64 bytes, or more. -/
def recoveryPayload (j : Job) (kind attempt size : Nat) (b13 : List Byte) (rest : List Byte) : List Byte :=
  padTo size (leBytes 1 kind ++ zeros 3 ++ leBytes 4 j.id ++ zeros 4 ++ leBytes 1 attempt ++ padTo 3 b13 ++ leBytes 8 j.stroke ++ rest)

/-- FETCH to a holder, into window 0xF100 that opens for it alone. -/
def sendFetch (js src layer holdSlot gen attempt : Nat) (m : Dev) : Dev :=
  match jobAt m js with
  | none => m
  | some j =>
    let m := updJob m js (fun j => { j with recov := { j.recov with
      fetchFrom := some src, fetchLayer := layer, fetched := [], fetchPoison := false } })
    let m := updNet m (fun n => { n with windows := tput n.windows (0xF100 * 65536 + src) { src := src, size := 2 ^ 40, pieces := [], job := js } })
    sendControl m src (recoveryPayload j 0x26 attempt 64 (leBytes 1 layer ++ leBytes 1 holdSlot) (leBytes 4 gen))

/-- The bytes that have come so far, and whether the whole image has. -/
def fetchedTab (r : Recov) : Tab Byte := r.fetched.foldl (fun t p => tsplice t p.1 p.2.length (runEntries p.1 p.2)) []
def fetchedBytes (r : Recov) (n : Nat) : List Byte := let t := fetchedTab r; (List.range n).map (tget 0 t)
def fetchedWhole (r : Recov) : Bool :=
  let got := (r.fetched.map (·.2.length)).sum
  decide (256 ≤ got) && decide (recField (fetchedBytes r 64) 56 8 ≤ got)
def fetchedImage (r : Recov) : List Byte := fetchedBytes r (recField (fetchedBytes r 64) 56 8)

/-- The window and the buffer of a fetch close. -/
def endFetch (js : Nat) (m : Dev) : Dev :=
  let src := (jobAt m js).bind (·.recov.fetchFrom)
  let m := updNet m (fun n => { n with windows := match src with | some p => tdel n.windows (0xF100 * 65536 + p) | none => n.windows })
  updJob m js (fun j => { j with recov := { j.recov with fetchFrom := none, fetched := [], fetchPoison := false } })

/-- R533: the member's own copy is still resident. -/
def ownCopy' (j : Job) : Bool := decide (j.secure.copy = 1 ∨ j.secure.copy = 2)

/-- R533: the transform of a turn from GENERATE to LEARN reads the partner's hold slot, unless the own copy is still
there. Without a snapshot it reports SOURCE. -/
def turnFetch (js : Nat) (m : Dev) : Dev :=
  match jobAt m js with
  | none => m
  | some j =>
    if j.turn.prev = .generate ∧ j.turn.target = 2 ∧ !ownCopy' j then
      match j.secure.cfg with
      | some c =>
        if j.secure.complete = 0 then updTurn m js (fun t => { t with mine := t.mine ||| 2 ^ 5 })
        else sendFetch js c.partner 1 (holdSlotOf c j.secure.complete) j.secure.complete 0 m
      | none => updTurn m js (fun t => { t with mine := t.mine ||| 2 ^ 5 })
    else m

/-! ### Distribute (R536) -/

/-- Bytes of a run of BF16 slice records. -/
def runBytes (n : Nat) : Nat := n * 131136

/-- R536: the broadcasts that an engine posts for a layout whose regions carry `tag`, root by root in ascending position and die by die:
the run of the root's shard on the die, at the run's offset in every member's region. The root reads it, and every other member
writes it. -/
def distributePosts (m : Dev) (js distGroup tag epoch : Nat) (l : Layout) (group : Nat) : List Coll :=
  match tfind m.groups (js * 65536 + distGroup) with
  | none => []
  | some g =>
    (List.zip (List.range g.roots.length) g.roots).flatMap (fun r => (List.range 8).flatMap (fun d =>
      let run := (shardSlices l.slices group r.1).filter (fun s => bitOf (slDies (layoutEntry l s)) d)
      match run, regionBase m js tag d with
      | s :: _, some b =>
        let n := runBytes run.length
        let ps := regionPieces b (l.regionBytes / 2) (slOff (layoutEntry l s)) n
        [engineColl js .run (distGroup + d) 1 0 0 r.2.1 d epoch n [d]
          (fun _ => if r.2.1 = ownPos m then { reads := ps } else { writes := ps })]
      | _, _ => []))

def hasDistribute (t : Turn) : Bool := decide (t.target = 2 ∧ t.source = 0)

/-- The broadcasts of the DISTRIBUTE stage of a turn. -/
def postRuns (js : Nat) (m : Dev) : Dev :=
  match jobAt m js with
  | none => m
  | some j => match tfind j.layouts j.turn.layout with
    | some nl => postAll (distributePosts m js j.turn.distGroup (j.layTag + 1) ((j.epoch + 1) % 2 ^ 32) nl j.turn.groupSize) m
    | none => m

/-- R535: the bytes of a slice's master weights, remainders and moments, in that order, as they travel to a new owner. -/
def optBytes (o : OptSlice) : List Byte :=
  o.w.flatMap (leBytes 4) ++ o.q.flatMap remBytes ++ o.m.flatMap (leBytes 4) ++ o.v.flatMap (leBytes 4)
def optOf (l : List Byte) : OptSlice :=
  let part := fun (o n : Nat) => (chunksOf n sliceParams (l.drop (o * sliceParams))).map leNat
  { w := part 0 4, q := (part 4 2).map remOf, m := part 6 4, v := part 10 4 }
def optLen : Nat := 14 * sliceParams

/-- The position of the member that owns a shard of a group. -/
def shardOwner (m : Dev) (js group shard : Nat) : Nat :=
  ((tfind m.groups (js * 65536 + group)).map (fun g => (nth (0xFFFF, 0) g.roots shard).1)).getD 0xFFFF

/-- The receive windows of a job's moving slices close. -/
def closeMoves (js : Nat) (m : Dev) : Dev :=
  updNet m (fun n => { n with windows := tkeep n.windows (fun k w => !(decide (w.job = js) && decide (k / 65536 = 0xF200))) })

/-- R535: in a turn from LEARN to LEARN the slices whose owner changes go to their new owners by bulk packets, and those that this
member takes over are awaited before the working weights are broadcast. The packets go into window 0xF200, at the slice's number times
its length, on VC6 (DESIGN CHOICE, log entry 19: the manual names no window and no channel for them). -/
def moveShards (js : Nat) (m : Dev) : Dev :=
  match jobAt m js with
  | none => m
  | some j =>
    let t := j.turn
    if t.prev ≠ .learn then postRuns js m
    else
      let mine := match tfind j.layouts t.layout with | some nl => shardSlices nl.slices t.groupSize t.shard | none => []
      let await := mine.filter (fun s => (tfind j.learn.opt s).isNone)
      let m := updTurn m js (fun t => { t with awaited := await, moving := [] })
      let m := await.foldl (fun m s =>
        let src := shardOwner m js j.learn.distGroup (s % j.learn.groupSize)
        updNet m (fun n => { n with windows := tput n.windows (0xF200 * 65536 + src) { src := src, size := 2 ^ 40, pieces := [], job := js } })) m
      let m := (j.learn.opt.filter (fun o => decide (o.1 ∉ mine))).foldl (fun m o =>
        (packetsOf m (shardOwner m js t.distGroup (o.1 % t.groupSize)) 0xF200 6 (optLen / 4096) (o.1 * optLen) (optBytes o.2) []).foldl
          sendRouted m) m
      if await.isEmpty then postRuns js m else m

/-- R535: bytes of a slice that moves to this member; with the last of them the broadcasts are posted. -/
def moveGot (js offset : Nat) (data : List Byte) (poisoned : Bool) (m : Dev) : Dev :=
  match jobAt m js with
  | none => m
  | some j =>
    let s := offset / optLen
    if s ∉ j.turn.awaited then m
    else
      let got := tget [] j.turn.moving s ++ [(offset % optLen, data)]
      let m := updTurn m js (fun t => { t with
        received := t.received + data.length, moving := tput t.moving s got, mine := if poisoned then t.mine ||| 2 ^ 7 else t.mine })
      if (got.map (·.2.length)).sum < optLen then m
      else
        let whole := got.foldl (fun t p => tsplice t p.1 p.2.length (runEntries p.1 p.2)) []
        let left := j.turn.awaited.filter (fun x => decide (x ≠ s))
        let m := updTurn m js (fun t => { t with
          newOpt := tput t.newOpt s (optOf ((List.range optLen).map (tget 0 whole))), moving := tdel t.moving s, awaited := left })
        if left.isEmpty then postRuns js (closeMoves js m) else m

/-! ### Stage records (R538) -/

/-- Posts the stage record of this member: sixteen words, word c − 1 counting cause c. -/
def postStage (js : Nat) (m : Dev) : Dev :=
  match jobAt m js with
  | none => m
  | some j =>
    let mask := j.turn.mine
    postRecord js j.turn.turnGroup .stage ((j.epoch + 1) % 2 ^ 32)
      ([1, b2n (decide (mask ≠ 0))] ++ (List.range 6).map (fun i => b2n (bitOf mask (i + 3))) ++ List.replicate 8 0)
      (updTurn m js (fun t => { t with posted := true, mine := 0 }))

/-- SLUICE_PART_DONE (R514, R538): the member's part of the stage has ended. `cause` is a cause that an external source or
the partner gave (5), or 0; the others are the member's own findings. -/
def partDone (js cause : Nat) (m : Dev) : Dev :=
  match jobAt m js with
  | none => m
  | some j =>
    let t := j.turn
    let mark := fun (m : Dev) => if cause = 5 then updTurn m js (fun t => { t with mine := t.mine ||| 2 ^ 5 }) else m
    if j.phase ≠ .turning ∨ t.posted then m
    else match t.stage with
      | 1 => if collInFlight m js j.epoch then m else postStage js m
      | 2 => if t.prev ≠ .learn ∨ t.snapshotGen ≠ 0 ∨ !t.openAt then postStage js m else m
      | 3 =>
        let done := fun (m : Dev) => postStage js (setPipes (if t.source = 4 then endBuckets m (copyHolder 4 js) else m) ([], []))
        if t.mine ≠ 0 ∨ cause = 5 then done (mark m)
        else if t.prev = .generate ∧ t.target = 2 ∧ !ownCopy' j then
          if fetchedWhole j.recov then
            let img := fetchedImage j.recov
            let m := if j.recov.fetchPoison then updTurn m js (fun t => { t with mine := t.mine ||| 2 ^ 7 }) else m
            done (endFetch js (updTurn (turnTransform js img m) js (fun t => { t with received := t.received + img.length })))
          else m
        else done (turnTransform js j.secure.image m)
      | 4 => if engineBusy m js .run ∨ t.awaited ≠ [] then m else postStage js m
      | _ => m

def execSluicePartDone (slot cause : Nat) (s : State) : Host.Outcome State Fault Refusal :=
  onDev (.sluicePartDone slot cause) (partDone slot cause) s

/-- STAGE_RECORD_DONE (R538). -/
def execStageRecordDone (slot : Nat) (words : List Nat) (s : State) : Host.Outcome State Fault Refusal :=
  onDev (.stageRecordDone slot words) (stageRecordDone slot words) s

/-- STAGE_LIMIT_TIMEOUT. -/
def stageTimeout (js : Nat) (m : Dev) : Dev :=
  match jobAt m js with
  | none => m
  | some j =>
    if j.isOrigin ∧ j.phase = .turning ∧ j.turn.next = none ∧ j.turn.stageLimit ≤ j.turn.stageStrokes
    then updTurn m js (fun t => { t with next := some (6, 2) }) else m

def execStageLimitTimeout (slot : Nat) (s : State) : Host.Outcome State Fault Refusal := onDev (.stageLimitTimeout slot) (stageTimeout slot) s

/-! ### Commit and failure (R537, R540, R541) -/

/-- TURN_DONE. -/
def turnDone (js cause status : Nat) (m : Dev) : Dev :=
  match jobAt m js with
  | none => m
  | some j => raiseJob m js 0x0602 status (leBytes 4 j.turnNumber ++ leBytes 4 j.epoch ++ leBytes 1 cause ++ leBytes 1 j.turn.target ++ zeros 2
      ++ leBytes 4 (j.stroke - j.turn.turnStroke) ++ leBytes 4 j.turn.stretched)

/-- The learning state that a turn into GENERATE leaves behind is released once its siphon copy has ended (R537). -/
def releaseShard (js : Nat) (m : Dev) : Dev :=
  match jobAt m js with
  | none => m
  | some j =>
    if j.phase = .generate ∧ j.learn.hasShard ∧ !ownCopy' j then
      let m := updMem m (fun x => releaseAllocs x (fun a => decide (a.job = some js) && decide (a.use = .shard)))
      updJob m js (fun j => { j with learn := { j.learn with hasShard := false, opt := [] } })
    else m

/-- R537: the commit. -/
def turnCommit (js : Nat) (m : Dev) : Dev :=
  match jobAt m js with
  | none => m
  | some j =>
    let t := j.turn
    match tfind j.layouts t.layout with
    | none => m
    | some nl =>
      let target := if t.target = 1 then Phase.generate else .learn
      let m := updJob m js (fun j => { j with
        epoch := (j.epoch + 1) % 2 ^ 32, turnNumber := (j.turnNumber + 1) % 2 ^ 32, phase := target
        periodK := if t.periodK = 0 then j.periodK else t.periodK
        layoutNow := some t.layout, layoutCur := some nl, layTag := j.layTag + 1 })
      let m := extendJob m js 0x0601 (leBytes 8 t.imageDigest)
      let m := collStartHeld js m
      let m := updMem m (fun x => releaseAllocs x (fun a => decide (a.job = some js)
        && (decide (a.use = .layoutRegion j.layTag) || decide (a.use = .golden j.layTag) || decide (a.use = .turnSpace)
          || (decide (t.prev = .generate) && (match a.use with | .tincture _ => true | _ => false))
          || (decide (t.target = 2) && decide (a.use = .shard) && decide (some a.group ≠ t.newShard)))))
      let m := if t.prev = .generate then updJob (genForget js m) js (fun j => { j with gen := none }) else m
      let m := if t.prev = .learn then updLearn m js (fun g =>
          { hasShard := g.hasShard, opt := g.opt, lr := g.lr, formats := g.formats, mask := g.mask, groupSize := g.groupSize, shard := g.shard })
        else m
      let m := if t.target = 2 then
          let m := updJob m js (fun j =>
            let n := if t.newImage.isEmpty then (if t.prev = .idle then { j.num with adamStep := 0, skipped := 0, finiteRun := 0 } else j.num)
              else readNumerics j.num (imageSection t.newImage 1 0xFF)
            let g := if t.newImage.isEmpty then j.learn else readLearning j.learn (imageSection t.newImage 2 0xFF)
            { j with
              num := n
              learn := { g with hasShard := true, opt := t.newOpt, groupSize := t.groupSize, shard := t.shard, distGroup := t.distGroup }
              secure := if t.newImage.isEmpty then j.secure
                else { j.secure with journal := mergeJournal j.secure.journal (chunksOf 64 4096 (imageSection t.newImage 3 0xFF)) } })
          m
        else m
      let m := turnStageEvent js 5 m
      let m := turnDone js 0 (if 0 < t.stretched then 0x8001 else 0) m
      let m := updTurn m js (fun t => { t with stage := 0, strokes := j.stroke - t.turnStroke, newOpt := [], newImage := [], space := [], newShard := none })
      releaseShard js m

/-- R540: the new layout and everything taken for it go; the turn space returns to the service that held it. -/
def discardTurn (js : Nat) (m : Dev) : Dev :=
  match jobAt m js with
  | none => m
  | some j =>
    let t := j.turn
    let isNew := fun (a : Alloc) => decide (a.job = some js) && (decide (a.use = .layoutRegion (j.layTag + 1))
      || decide (a.use = .golden (j.layTag + 1)) || decide (a.use = .turnSpace) || (t.newShard.isSome && decide (some a.group = t.newShard)))
    let inSpace := fun (a : Alloc) => t.space.any (fun b => decide (b.first ≤ a.first) && decide (a.first + a.count ≤ b.first + b.count))
    let m := updMem m (fun x => { x with allocs := x.allocs.filter (fun a => !(isNew a && inSpace a)) })
    let m := updMem m (fun x => releaseAllocs x isNew)
    let m := updMem m (fun x => { x with allocs := x.allocs ++ t.space })
    let m := if t.space.isEmpty then m
      else match t.prev with
        | .generate => updGen ((List.range 8).foldl (fun m d => updPool m d js (fun p => { p with pages := [], oldFrames := [], map := [], len := [] })) m)
            js (fun g => { g with queue := [] })
        | .learn => updLearn m js (fun g => { g with feed := [] })
        | _ => m
    setPipes (closeMoves js (updTurn m js (fun t => { t with
      newOpt := [], newImage := [], space := [], newShard := none, awaited := [], moving := [] }))) ([], [])

/-- R540, R541: the turn ends without its commit. -/
def turnFail (js cause status : Nat) (m : Dev) : Dev :=
  match jobAt m js with
  | none => m
  | some j =>
    if j.phase ≠ .turning then m
    else
      let m := collFailHeld js { m with posts := m.posts.filter (fun c => !(decide (c.slot = js) && decide (c.poster = .stage ∨ c.poster = .run))) }
      let m := (m.colls.filter (fun c => decide (c.slot = js) && decide (c.epoch = (j.epoch + 1) % 2 ^ 32))).foldl (fun m c => collEnd c 0x6003 m) m
      let m := endFetch js (endBuckets m (copyHolder 4 js))
      let m := discardTurn js m
      let m := updJob m js (fun j => { j with phase := j.turn.prev, turn := { j.turn with stage := 0, cause := cause, next := none, mine := 0 } })
      turnDone js cause status m

/-- R514, R539: a turn transition at step 2 of a boundary. -/
def turnApply (js stage cause : Nat) (m : Dev) : Dev :=
  match jobAt m js with
  | none => m
  | some j =>
    if j.phase ≠ .turning then m
    else if stage = 6 then turnFail js cause 0x6004 m
    else
      let m := updTurn m js (fun t => { t with stage := stage, stageStrokes := 0, posted := false, next := none, openAt := j.secure.opened })
      if stage = 5 then turnCommit js m
      else
        let m := turnStageEvent js stage m
        match stage with
        | 2 =>
          let m := if j.turn.prev = .learn then
              updTurn (updLearn m js (fun g => { g with feed := [] })) js (fun t => { t with discarded := j.learn.feed.length })
            else m
          takeTurnSpace js m
        | 3 => beginTransform js (turnFetch js m)
        | 4 => if hasDistribute j.turn then moveShards js m else m
        | _ => m

/-- A boundary of a job that turns: the strokes of the stage, and the stretched ones of the turn. -/
def turnTick (js : Nat) (stretched : Bool) (m : Dev) : Dev :=
  match jobAt m js with
  | none => m
  | some j => if j.phase = .turning
      then updTurn m js (fun t => { t with stageStrokes := t.stageStrokes + 1, stretched := t.stretched + b2n stretched })
      else releaseShard js m

/-- The SIPHON stage of a turn out of LEARN still waits for its arm (R570). -/
def wantsSiphon (j : Job) : Bool :=
  decide (j.phase = .turning) && decide (j.turn.stage = 2) && decide (j.turn.prev = .learn) && decide (j.turn.snapshotGen = 0)

/-- The arm of a turn's snapshot (R560, R570). -/
def turnArmed (js cause gen : Nat) (m : Dev) : Dev :=
  match jobAt m js with
  | none => m
  | some j => if cause = 1 ∧ wantsSiphon j then updTurn m js (fun t => { t with snapshotGen := gen }) else m

/-! ### TURN_ABORT and TURN_STATUS -/

/-- TURN_ABORT. -/
def specTurnAbort (mb jobId : Nat) : CmdSpec where
  cmd := .turnAbort mb jobId
  opcode := 0x0602
  mb := mb
  job := some jobId
  jobWide := true
  phases := some [.turning]
  apply := fun m => match jobById m jobId with
    | none => { m := m }
    | some (js, _) => { m := turnFail js 1 0x6004 m }

def execTurnAbort (mb jobId : Nat) (s : State) : Host.Outcome State Fault Refusal := onCmd (specTurnAbort mb jobId) s

/-- TURN_STATUS. -/
def specTurnStatus (mb jobId : Nat) : CmdSpec where
  cmd := .turnStatus mb jobId
  opcode := 0x0603
  mb := mb
  job := some jobId
  query := true
  phases := some [.idle, .generate, .learn, .turning]
  apply := fun m => match jobById m jobId with
    | none => { m := m }
    | some (_, j) =>
      let t := j.turn
      { m := m
        body := leBytes 1 t.stage ++ leBytes 1 t.target ++ leBytes 1 t.cause ++ leBytes 1 t.source ++ leBytes 4 j.epoch
          ++ leBytes 4 j.turnNumber ++ leBytes 4 t.stageStrokes ++ leBytes 8 t.turnStroke ++ leBytes 8 t.converted
          ++ leBytes 8 t.received ++ leBytes 4 t.discarded ++ leBytes 4 t.snapshotGen ++ zeros 16 }

def execTurnStatus (mb jobId : Nat) (s : State) : Host.Outcome State Fault Refusal := onCmd (specTurnStatus mb jobId) s

/-- R543: WH_TURN. -/
def whTurn (j : Job) : Nat :=
  j.turn.stage + (j.turn.target <<< 4) + (j.turn.cause <<< 8) + (sat 16 j.turn.stageStrokes <<< 16) + (j.turnNumber % 2 ^ 32 <<< 32)

end Sys2Proof.Machine
end

