-- ==== Sys2Proof/Machine/Power.lean ====
section
/-! DEFINITION. Sys2Proof/Machine/Power.lean: the power ladder, energy, duty, caps and shares, priming, the brake, droop,
frequency modes and thermal limits (chapter 16, and the coolant of chapter 19). -/

namespace Sys2Proof.Machine

/-! ### Registers (R650 to R654, R722) -/

/-- The cap C in watts (R637). -/
def capWatts (m : Dev) : Nat := 25 * m.power.capUnits

/-- D of a die: the minimum of its cap duty and its thermal duty (R636). -/
def dutyOf (d : PwrDie) : Nat := min d.capDuty d.thermDuty

def anyPriming (m : Dev) : Bool := (List.range 8).any (fun d => (pdieAt m d).priming)

def pwrState (m : Dev) : Nat :=
  powerState m + ((List.range 8).foldl (fun a d => a + ((pdieAt m d).st <<< (4 + 2 * d))) 0) + (m.power.freqMode <<< 20)
    + (b2n m.power.brake <<< 21) + (b2n m.power.capUnreach <<< 22) + (b2n (anyPriming m) <<< 23) + (m.power.freq <<< 24)

def pwrCap (m : Dev) : Nat := m.power.capUnits + (m.power.primeSlope <<< 16) + (m.power.primeEn <<< 21) + (m.power.primeLimit <<< 24)

def pwrCount (m : Dev) : Nat :=
  sat 16 m.power.brakes + (sat 16 m.power.droops <<< 16) + (sat 16 m.power.capFloor <<< 32) + (sat 16 m.power.alarms <<< 48)

def pwrDie (m : Dev) (d : Nat) : Nat :=
  let x := pdieAt m d
  dutyOf x + (b2n x.priming <<< 7) + (x.level <<< 8) + (x.temp <<< 16) + (x.thr <<< 24)

def railAt (m : Dev) (r : Nat) : Rail := tget {} m.power.rails r

def pwrRail (x : Rail) : Nat := sat 16 x.power + (x.voltage % 65536 <<< 16) + (x.alarm % 32 <<< 32)

def pwrCoolant (m : Dev) : Nat := m.power.inlet + (m.power.outlet <<< 8) + (b2n m.power.hot <<< 16) + (b2n m.power.leak <<< 17)

/-- R716: ALERT_N is low. -/
def alertLow (m : Dev) : Bool :=
  decide (m.sys.st = .failed) || decide (m.sys.st = .minimal) || m.power.rails.any (fun r => decide (r.2.alarm ≠ 0))
    || decide (m.power.input.alarm ≠ 0) || m.power.capUnreach || m.power.hot || m.power.leak

/-- Microjoules in millijoules, rounded down (R634). -/
def milli (e : Rat) : Nat := (e / 1000).floor.toNat

/-! ### Energy (R631 to R634) -/

/-- The units of a die with their activity counters and the job that each serves (R633). Unit numbers are the model's. -/
def dieUnits (m : Dev) (d : Nat) : List (Nat × Nat × Option Nat) :=
  let f := fabAt m d
  let at' : Att := tget {} m.atts d
  let am : Atm := tget {} m.atms d
  let turning := (m.jobs.find? (fun p => decide (p.2.phase = .turning))).map (·.1)
  let copying := (m.jobs.find? (fun p => decide (p.2.secure.copy = 2))).map (·.1)
  (trange m.arrays (d * 48) 48).map (fun e => (e.1 - d * 48, e.2.active, e.2.job))
    ++ (trange m.ves (d * 128) 128).map (fun e => (48 + (e.1 - d * 128), e.2.active, e.2.job))
    ++ [(176, at'.active, at'.job), (177, am.active, am.job), (178, f.active, f.job), (179, f.sluiceActive, turning), (180, f.siphonActive, copying)]

/-- The increment of a counter since the last interval. -/
def unitDelta (m : Dev) (d : Nat) (u : Nat × Nat × Option Nat) : Nat :=
  let last := tget 0 m.power.lastAct (d * 256 + u.1)
  if last ≤ u.2.1 then u.2.1 - last else u.2.1

/-- Cycles of the dither that priming runs on a die in an interval, beside the real work of its arrays (R642). -/
def primeCycles (m : Dev) (d : Nat) : Nat :=
  let x := pdieAt m d
  if x.priming then 48 * 7000 * x.level / 64 - ((dieUnits m d).filter (fun u => decide (u.1 < 48))).foldl (fun n u => n + unitDelta m d u) 0 else 0

/-- act[n][j] of R633. -/
def dieActs (m : Dev) (d : Nat) : Tab Nat :=
  let l := (dieUnits m d).foldl (fun (t : Tab Nat) u => match u.2.2 with
    | some j => if (jobAt m j).isSome then tmod 0 t j (· + unitDelta m d u) else t
    | none => t) []
  match (pdieAt m d).job with
  | some j => if (jobAt m j).isSome then tmod 0 l j (· + primeCycles m d) else l
  | none => l

/-- The sum of the values of a table. -/
def tsum (t : Tab Nat) : Nat := (t.map (·.2)).sum

def addIdle (p : Nat) (e : Rat) (m : Dev) : Dev := updPart m p (fun x => { x with idleEnergy := x.idleEnergy + e })

/-- Spreads an energy over the jobs of a table in proportion, or on a partition's idle account. -/
def spreadEnergy (p : Nat) (e : Rat) (t : Tab Nat) (m : Dev) : Dev :=
  if tsum t = 0 then addIdle p e m
  else t.foldl (fun m x => updJob m x.1 (fun j => { j with energy := j.energy + e * (x.2 : Rat) / (tsum t : Rat) })) m

/-- Power of a die's own rails, of the shared rails 24 to 30, and the conversion loss, in units of 0.125 W. -/
def dieRails (m : Dev) (d : Nat) : Nat := (railAt m d).power + (railAt m (8 + d)).power + (railAt m (16 + d)).power
def railSum (m : Dev) : Nat := (List.range 32).foldl (fun n r => n + (railAt m r).power) 0
def sharedPower (m : Dev) : Nat := ((List.range 7).foldl (fun n i => n + (railAt m (24 + i)).power) 0) + (m.power.input.power - railSum m)

/-- Microjoules of a power over 10 µs: 0.125 W × 10 µs. -/
def intervalEnergy (p : Nat) : Rat := (5 * p : Nat) / 4

def configuredParts (m : Dev) : List Nat := (List.range 8).filter (fun p => (partAt m p).configured)

/-- R633: one interval. -/
def apportion (m : Dev) : Dev :=
  let acts := (List.range 8).map (dieActs m)
  let primes := (List.range 8).map (primeCycles m)
  let units := (List.range 8).flatMap (fun d => (dieUnits m d).map (fun u => (d * 256 + u.1, u.2.1)))
  let m1 := (List.range 8).foldl (fun m d =>
    let e := intervalEnergy (dieRails m d)
    let t := nth [] acts d
    let m := spreadEnergy (dieOwner m d) e t m
    match (pdieAt m d).job with
    | some j => if tsum t = 0 then m
        else updJob m j (fun x => { x with primeEnergy := x.primeEnergy + e * (nth 0 primes d : Nat) / (tsum t : Nat) })
    | none => m) m
  let m2 := (configuredParts m).foldl (fun m p =>
    let ds := bitsOf 8 (partAt m p).dies
    let t := ds.foldl (fun (t : Tab Nat) d => (nth [] acts d).foldl (fun t x => tmod 0 t x.1 (· + x.2)) t) []
    spreadEnergy p (intervalEnergy (sharedPower m) * (ds.length : Nat) / 8) t m) m1
  let m3 := addIdle 0 (intervalEnergy (railAt m 31).power) m2
  updPower m3 (fun w => { w with lastAct := units.foldl (fun t u => tset 0 t u.1 u.2) [] })

/-! ### Duty, cap and shares (R636 to R641) -/

/-- The sum of the set shares, in watts. -/
def shareSum (m : Dev) : Nat := (List.range 8).foldl (fun n p => n + (partAt m p).share) 0

/-- The effective share of a partition as a fraction of watts (R638). -/
def effShare (m : Dev) (p : Nat) : Nat × Nat :=
  if capWatts m < shareSum m then ((partAt m p).share * capWatts m, shareSum m) else ((partAt m p).share, 1)

/-- The draw of a partition in units of 1/64 W: its dies' rails and its part of the shared rails. -/
def partDraw64 (m : Dev) (p : Nat) : Nat :=
  let ds := bitsOf 8 (partAt m p).dies
  8 * ds.foldl (fun n d => n + dieRails m d) 0 + sharedPower m * ds.length

/-- One scope of R637: `s` and `c` share a unit. Whether a duty was raised, and the module. -/
def governScope (ds : List Nat) (s c : Nat) (mayRaise : Bool) (m : Dev) : Bool × Dev :=
  if c < s then
    let k := (64 * (s - c) + s - 1) / s
    if ds.any (fun d => (pdieAt m d).priming) then
      (false, ds.foldl (fun m d => updPdie m d (fun x => if x.priming then { x with level := x.level - k, priming := decide (k < x.level) } else x)) m)
    else if m.power.freqMode = 1 ∧ 35 < m.power.freq then (false, updPower m (fun w => { w with freq := w.freq - 1 }))
    else (false, ds.foldl (fun m d => updPdie m d (fun x => { x with capDuty := max 8 (x.capDuty - k) })) m)
  else if 100 * s < 98 * c ∧ mayRaise then
    (ds.any (fun d => decide ((pdieAt m d).capDuty < 64)), ds.foldl (fun m d => updPdie m d (fun x => { x with capDuty := min 64 (x.capDuty + 1) })) m)
  else (false, m)

/-- R637 for every partition with a share, then for the module; the time of the last raise is one for all scopes (DESIGN CHOICE, log
entry 21). -/
def govern (m : Dev) : Dev :=
  let may := decide (10 ≤ m.power.sinceRaise) && !m.power.brake && !m.power.brakeHold
  let r := (configuredParts m).foldl (fun (r : Bool × Dev) p =>
    if (partAt r.2 p).share = 0 then r
    else
      let e := effShare r.2 p
      let x := governScope (bitsOf 8 (partAt r.2 p).dies) (partDraw64 r.2 p * e.2) (64 * e.1) may r.2
      (r.1 || x.1, x.2)) (false, m)
  let x := governScope (List.range 8) r.2.power.input.power (8 * capWatts r.2) (may && !r.1) r.2
  updPower x.2 (fun w => { w with sinceRaise := if r.1 || x.1 then 1 else min 10 (w.sinceRaise + 1) })

/-- DRAW_W of the latest interval. -/
def drawWatts (m : Dev) : Nat := m.power.input.power / 8

/-- POWER_CAP. -/
def capEvent (m : Dev) (status : Nat) : Dev :=
  raiseModule m 0x0902 status (leBytes 2 (capWatts m) ++ leBytes 2 (drawWatts m) ++ leBytes 1 0xFF)

/-- R640: the floor. -/
def floorCheck (m : Dev) : Dev :=
  let isOver := decide (8 * capWatts m < m.power.input.power)
  let m := updPower m (fun w => { w with above := if isOver then w.above + 1 else 0 })
  if m.power.capUnreach then
    if isOver then m else capEvent (updPower m (fun w => { w with capUnreach := false })) 0
  else if isOver ∧ 10 ≤ m.power.above ∧ (List.range 8).all (fun d => decide ((pdieAt m d).capDuty = 8) && !(pdieAt m d).priming) then
    capEvent (updPower m (fun w => { w with capUnreach := true, capFloor := sat 16 (w.capFloor + 1) })) 0x8002
  else m

/-- The reply body of POWER_CAP_SET. -/
def drawBody (m : Dev) : List Byte := leBytes 2 (drawWatts m) ++ zeros 6

/-- A cap that took effect at or before a cycle. -/
def capWait (by' : Nat) (w : WaitFor) : Bool := match w with | .capSettle n => decide (n ≤ by') | _ => false

/-- A share of a partition that took effect at or before a cycle. -/
def shareWait (p by' : Nat) (w : WaitFor) : Bool := match w with | .shareSettle q n => decide (q = p ∧ n ≤ by') | _ => false

/-- R641: the caps and shares that the interval which began at a cycle settles, and those that the floor answers. -/
def settle (start : Nat) (m : Dev) : Dev :=
  let m := if m.power.input.power ≤ 8 * capWatts m then finishWaits m (capWait start) (fun r => { r with body := drawBody m })
    else if m.power.capUnreach then finishWaits m (capWait m.cycle) (fun r => { r with status := 0x8002, body := drawBody m })
    else m
  (List.range 8).foldl (fun m p =>
    let e := effShare m p
    if partDraw64 m p * e.2 ≤ 64 * e.1 then finishWaits m (shareWait p start) id
    else if m.power.capUnreach then finishWaits m (shareWait p m.cycle) (fun r => { r with status := 0x8002 })
    else m) m

/-- The dither of priming counts as activity of the arrays that do no real work (R184, R642). -/
def primeDither (m : Dev) : Dev :=
  (List.range 8).foldl (fun m d =>
    let n := primeCycles m d
    if n = 0 then m
    else
      let idle := (List.range 48).filter (fun a => let x := arrayAt m d a; x.held.isEmpty && x.queue.isEmpty)
      idle.foldl (fun m a => updArray m d a (fun x => { x with active := (x.active + min 7000 (n / idle.length)) % 2 ^ 64 })) m) m

/-- CAP_CONTROL_TICK (R631 to R641): every 10 µs. The operands are what the regulators measure, in units of 0.125 W. -/
def capTick (rails : List Nat) (input : Nat) (m : Dev) : Dev :=
  if m.sys.st = .off then m
  else
    let start := m.power.gridAt
    let m := updPower m (fun w => { w with
      gridAt := m.cycle
      rails := (List.range 32).foldl (fun t r => tmod {} t r (fun x => { x with power := nth 0 rails r, energy := x.energy + intervalEnergy (nth 0 rails r) })) w.rails
      input := { w.input with power := input, energy := w.input.energy + intervalEnergy input } })
    settle start (floorCheck (govern (apportion (primeDither m))))

def execCapControlTick (rails : List Nat) (input : Nat) (s : State) : Host.Outcome State Fault Refusal :=
  onDev (.capControlTick rails input) (capTick rails input) s

/-- FREQ_STEP_TICK (R647): the rise of the clock; the fall is part of R637. -/
def freqTick (m : Dev) : Dev :=
  if m.power.freqMode = 1 ∧ 10 * m.power.input.power < 9 * (8 * capWatts m)
      ∧ (List.range 8).all (fun d => decide ((pdieAt m d).temp + 10 ≤ (pdieAt m d).thr)) then
    updPower m (fun w => { w with freq := min 38 (w.freq + 1) })
  else m

def execFreqStepTick (s : State) : Host.Outcome State Fault Refusal := onDev .freqStepTick freqTick s

/-! ### Priming (R642, R643) -/

/-- The cause of priming holds at a die. -/
def primeHolds (m : Dev) (d cause : Nat) : Bool :=
  match cause with
  | 1 => (fabAt m d).waiting
  | 2 => (trange m.ves (d * 128) 128).all (fun v => v.2.teams.isEmpty)
      && (trange m.arrays (d * 48) 48).all (fun a => a.2.queue.isEmpty && a.2.held.isEmpty)
  | 3 => m.jobs.any (fun j => let x : Stage := tget {} j.2.learn.stages d; x.stalled && !x.lent)
  | _ => false

/-- R638: the job whose collective or stroke program the die waits on. -/
def primeJob (m : Dev) (d cause : Nat) : Option Nat :=
  match cause with
  | 1 => (m.colls.find? (fun c => decide (c.st = .data) && c.dies.any (fun x => decide (x.die = d)))).map (·.slot)
  | 2 => ((trange m.arrays (d * 48) 48).find? (fun a => a.2.job.isSome)).bind (·.2.job)
  | _ => (m.jobs.find? (fun j => let x : Stage := tget {} j.2.learn.stages d; x.stalled && !x.lent)).map (·.1)

/-- PRIMING_START (R642). `activity` is the fraction a of the last 100 µs, in units of 1/65,536. -/
def primingStart (d cause activity : Nat) (m : Dev) : Dev :=
  let x := pdieAt m d
  if x.st = 0 ∧ m.power.deep = 0 ∧ !x.priming ∧ !m.power.brake ∧ 1 ≤ cause ∧ cause ≤ 3 ∧ bitOf m.power.primeEn (cause - 1) ∧ primeHolds m d cause
      ∧ (cause ≠ 2 ∨ 16384 ≤ activity) ∧ 0 < activity / 1024 then
    updPdie m d (fun x => { x with priming := true, level := activity / 1024, cause := cause, rampDown := false, job := primeJob m d cause })
  else m

def execPrimingStart (die cause activity : Nat) (s : State) : Host.Outcome State Fault Refusal :=
  onDev (.primingStart die cause activity) (primingStart die cause activity) s

def stopPriming (x : PwrDie) : PwrDie := { x with priming := false, level := 0, rampDown := false }

/-- PRIMING_STEP_DOWN (R643 item 3). -/
def primingStep (d : Nat) (m : Dev) : Dev :=
  let x := pdieAt m d
  if x.priming ∧ (x.rampDown ∨ !primeHolds m d x.cause) then
    updPdie m d (fun x => if x.level ≤ 1 then stopPriming x else { x with level := x.level - 1, rampDown := true })
  else m

def execPrimingStepDown (die : Nat) (s : State) : Host.Outcome State Fault Refusal :=
  onDevW (wfPrimingStepDown die) (primingStep die) s

/-- PRIME_LIMIT_TIMEOUT (R643 item 3). -/
def primeLimit (d : Nat) (m : Dev) : Dev := updPdie m d (fun x => if x.priming then { x with rampDown := true } else x)

def execPrimeLimitTimeout (die : Nat) (s : State) : Host.Outcome State Fault Refusal :=
  onDevW (wfPrimeLimitTimeout die) (primeLimit die) s

/-- R643 item 2: real work has taken every array of the die. -/
def primingTaken (d : Nat) (m : Dev) : Dev :=
  if (pdieAt m d).priming ∧ (List.range 48).all (fun a => !(arrayAt m d a).queue.isEmpty || !(arrayAt m d a).held.isEmpty) then updPdie m d stopPriming else m

/-! ### The brake (R644, R713, R714) -/

/-- POWER_BRAKE_ASSERT (R183, R644): the arrays stop, and start again with the start ramp. -/
def brakeOn (m : Dev) : Dev :=
  if m.sys.st = .off ∨ m.power.brake then m
  else
    let m := updPower m (fun w => { w with brake := true, brakeAck := true, brakeHold := false, brakeStart := m.cycle, brakes := sat 16 (w.brakes + 1),
                                            dies := tmap w.dies (fun _ => stopPriming) })
    (List.range 8).foldl (fun m d =>
      if (pdieAt m d).st < 2 then (List.range 48).foldl (fun m a => updArray m d a (fun x => { x with braked := true, ramped := false })) m
      else m) m

def execPowerBrakeAssert (s : State) : Host.Outcome State Fault Refusal := onDev .powerBrakeAssert (fun m => brakeOn (updPower m (fun w => { w with brakePin := true }))) s

/-- POWER_BRAKE_RELEASE. -/
def brakeOff (m : Dev) : Dev :=
  if m.power.brake then
    let m := updPower m (fun w => { w with brake := false, brakeAck := false, brakeHold := true })
    raiseModule m 0x0905 0 (leBytes 8 (m.cycle - m.power.brakeStart))
  else m

def execPowerBrakeRelease (s : State) : Host.Outcome State Fault Refusal := onDev .powerBrakeRelease (fun m => brakeOff (updPower m (fun w => { w with brakePin := false }))) s

/-- BRAKE_HOLD_END. -/
def brakeHoldEnd (m : Dev) : Dev := updPower m (fun w => { w with brakeHold := false })

def execBrakeHoldEnd (s : State) : Host.Outcome State Fault Refusal := onDev .brakeHoldEnd brakeHoldEnd s

/-- VCORE_DROOP (R645): half duty for 64 cycles. -/
def vcoreDroop (d : Nat) (m : Dev) : Dev :=
  updPower (updPdie m d (fun x => { x with droopUntil := m.cycle + 64 })) (fun w => { w with droops := sat 16 (w.droops + 1) })

def execVcoreDroop (die : Nat) (s : State) : Host.Outcome State Fault Refusal := onDevW (wfVcoreDroop die) (vcoreDroop die) s

/-! ### Temperature (R300 to R302, R648, R649, R721) -/

/-- DIE_THERMAL: to partition 0 and to the partition that owns the die. -/
def thermalEvent (d edge : Nat) (m : Dev) : Dev :=
  let x := pdieAt m d
  let pl := leBytes 1 d ++ leBytes 1 x.temp ++ leBytes 1 (dutyOf x) ++ leBytes 1 edge
  let m := raisePart m 0 0x0904 0 pl
  if dieOwner m d = 0 then m else raisePart m (dieOwner m d) 0x0904 0 pl

/-- THERMAL_DUTY_TICK (R649). -/
def thermalTick (d temp : Nat) (m : Dev) : Dev :=
  let m := updPdie m d (fun x => { x with temp := temp })
  let x := pdieAt m d
  if x.thr ≤ temp then
    let m := updPdie m d (fun x => { x with thermDuty := max 8 (x.thermDuty - 1), throttling := true })
    if x.throttling then m else thermalEvent d 0 m
  else if temp + 3 < x.thr ∧ x.thermDuty < 64 then
    let m := updPdie m d (fun x => { x with thermDuty := x.thermDuty + 1, throttling := decide (x.thermDuty + 1 < 64) })
    if x.thermDuty + 1 = 64 then thermalEvent d 1 m else m
  else m

def execThermalDutyTick (die temp : Nat) (s : State) : Host.Outcome State Fault Refusal :=
  onDev (.thermalDutyTick die temp) (thermalTick die temp) s

def stackAt (m : Dev) (k : Nat) : Stack := tget {} m.mem.hbm k
def updStack (m : Dev) (k : Nat) (f : Stack → Stack) : Dev := updMem m (fun x => { x with hbm := tmod {} x.hbm k f })

/-- STACK_THROTTLE. -/
def stackEvent (k old : Nat) (m : Dev) : Dev :=
  raiseModule m 0x0207 0 (leBytes 1 k ++ leBytes 1 old ++ leBytes 1 (stackAt m k).level ++ leBytes 1 (stackAt m k).temp)

/-- STACK_TEMP_READ (R300, R302). -/
def stackTemp (k temp : Nat) (m : Dev) : Dev :=
  let old := (stackAt m k).level
  let m := updStack m k (fun s => { s with
    temp := temp, refresh2x := decide (85 < temp), level := if s.thrStart ≤ temp then min 7 (s.level + 1) else s.level })
  if old = 0 ∧ (stackAt m k).level ≠ 0 then stackEvent k old m else m

def execStackTempRead (stack temp : Nat) (s : State) : Host.Outcome State Fault Refusal :=
  onDev (.stackTempRead stack temp) (stackTemp stack temp) s

/-- STACK_THROTTLE_DECAY (R300). -/
def stackDecay (k : Nat) (m : Dev) : Dev :=
  let s := stackAt m k
  if 0 < s.level ∧ s.temp + s.hyst < s.thrStart then
    let m := updStack m k (fun s => { s with level := s.level - 1 })
    if s.level = 1 then stackEvent k 1 m else m
  else m

def execStackThrottleDecay (stack : Nat) (s : State) : Host.Outcome State Fault Refusal :=
  onDevW (wfStackThrottleDecay stack) (stackDecay stack) s

/-- THERMAL_THRESHOLD_CROSSED (R648): kind 0 an IO die, 1 a cistern package, 2 the aquifer NAND. -/
def thresholdCrossed (kind unit temp : Nat) (m : Dev) : Dev :=
  match kind with
  | 0 => updPower m (fun w => { w with ioHot := tset false w.ioHot unit (decide (105 ≤ temp)) })
  | 1 =>
    let hot := fun (c : Cis) => { c with temp := temp, refresh2x := decide (85 ≤ temp), halfRate := decide (95 ≤ temp) }
    updMem m (fun x => { x with cis := tmod {} x.cis unit hot })
  | 2 => updMem m (fun x => { x with aq := { x.aq with
      throttle := if 85 ≤ temp ∨ (x.aq.throttle = 2 ∧ 80 < temp) then 2 else if 75 ≤ temp then 1 else 0 } })
  | _ => m

def execThermalThresholdCrossed (kind unit temp : Nat) (s : State) : Host.Outcome State Fault Refusal :=
  onDevW (wfThermalThresholdCrossed kind unit temp) (thresholdCrossed kind unit temp) s

/-- COOLANT_SENSOR_TICK (R721, R723). -/
def coolantTick (inlet outlet : Nat) (wet : Bool) (m : Dev) : Dev :=
  let hot := decide (60 ≤ outlet) || (m.power.hot && decide (57 ≤ outlet))
  let changed := decide (hot ≠ m.power.hot) || decide (wet ≠ m.power.leak)
  let m := updPower m (fun w => { w with inlet := inlet, outlet := outlet, hot := hot, leak := wet })
  if changed then raiseModule m 0x0907 0 (leBytes 1 inlet ++ leBytes 1 outlet ++ leBytes 1 (b2n hot) ++ leBytes 1 (b2n wet)) else m

def execCoolantSensorTick (inlet outlet : Nat) (wet : Bool) (s : State) : Host.Outcome State Fault Refusal :=
  onDevW (wfCoolantSensorTick inlet outlet wet) (coolantTick inlet outlet wet) s

/-! ### The ladder (R621 to R630) -/

/-- The separately switched power domains (R43). A group is numbered on its die, a cistern or Jainzel group on the module. -/
inductive Domain where
  | arrays (die group : Nat) | engines (die group : Nat) | banks (die group : Nat) | fixedFunction (die : Nat) | fabric (die : Nat)
  | stack (stack : Nat) | cistern (group : Nat) | jainzel (group : Nat) | wellhead | port | aquifer | alwaysOn
deriving DecidableEq, Repr

/-- The condition of a domain (R623). `keepers` is off, with the keepers carrying the links, and `oneLane` is the port at 100 Gb/s. -/
inductive Condition where
  | on | clocksStopped | retention | off | powerDown | selfRefresh | deepSelfRefresh | lost | narrow | keepers | coresOff | idle | oneLane
deriving DecidableEq, Repr

/-- The 192 domains (R43). -/
def allDomains : List Domain :=
  let dies := List.range 8
  let per := fun (n : Nat) (f : Nat → Nat → Domain) => dies.flatMap (fun d => (List.range n).map (f d))
  per 6 .arrays ++ per 8 .engines ++ per 4 .banks ++ dies.map .fixedFunction ++ dies.map .fabric
    ++ (List.range 16).map .stack ++ (List.range 8).map .cistern ++ (List.range 4).map .jainzel
    ++ [.wellhead, .port, .aquifer, .alwaysOn]

/-- The domain of a matrix array, a vector engine, a bank, a cistern package and a link (R43). -/
def arrayDomain (die a : Nat) : Domain := .arrays die (a / 8)
def engineDomain (die v : Nat) : Domain := .engines die (v / 16)
def bankDomain (die b : Nat) : Domain := .banks die (b / 40)
def packageDomain (x : Nat) : Domain := .cistern (x / 4)
def linkDomain (l : Nat) : Domain := .jainzel (l / 8)

/-- R623, for a domain of one die in the die's state. -/
def dieCondition (st : Nat) (kept : Condition) : Condition :=
  if st = 0 then .on else if st = 1 then .clocksStopped else if st = 2 then kept else .off

/-- R623: the condition of a domain. -/
def domainCondition (m : Dev) : Domain → Condition
  | .arrays d _ | .engines d _ | .fixedFunction d => dieCondition (pdieAt m d).st .off
  | .banks d _ | .fabric d => dieCondition (pdieAt m d).st .retention
  | .stack k =>
    if m.power.deep = 3 then .selfRefresh else if 4 ≤ m.power.deep then .lost
    else if (pdieAt m (k / 2)).st = 2 then .powerDown else .on
  | .cistern _ => if m.power.deep = 3 then .selfRefresh else if m.power.deep = 4 then .deepSelfRefresh
    else if m.power.deep = 5 then .lost else .on
  | .jainzel _ => if m.power.deep = 3 then .narrow else if 4 ≤ m.power.deep then .keepers else .on
  | .wellhead => if m.power.deep = 4 then .coresOff else if m.power.deep = 5 then .off else .on
  | .port => if m.power.deep = 3 then .idle else if 4 ≤ m.power.deep then .oneLane else .on
  | .aquifer => if 3 ≤ m.power.deep then .off else .on
  | .alwaysOn => .on

/-- POWER_STATE. -/
def powerEvent (old new dies cause : Nat) (m : Dev) : Dev :=
  raiseModule m 0x0901 0 (leBytes 1 old ++ leBytes 1 new ++ leBytes 1 dies ++ leBytes 1 cause)

/-- R278: what a die loses when its units go off: arrays, vector engines with their teams and registers, and the
fixed-function units' work. -/
def dieUnitsOff (d : Nat) (m : Dev) : Dev :=
  let m := updPdie m d stopPriming
  { m with
    ves := tkeep m.ves (fun k _ => decide (k / 128 ≠ d))
    arrays := tmap m.arrays (fun k a => if k / 48 = d then { a with queue := [], held := [], done := [], job := none, ramped := false } else a)
    dmas := tkeep m.dmas (fun k _ => decide (k / 4 ≠ d)) }

/-- R275, R279, R280: the scratchpad and the shared cache of a die power off: what is posted there is applied, the modified lines are
written back (their bytes stand in HBM), and no line is valid. -/
def dieMemOff (d : Nat) (m : Dev) : Dev :=
  let m := (tget [] m.posted d).foldl applyPosted m
  { m with
    banks := tkeep m.banks (fun k _ => decide (k / 160 ≠ d))
    posted := tdel m.posted d
    mem := { memZero m.mem (bankAddr d 0) 0x0A000000 with lines := m.mem.lines.filter (fun p => decide (p.1 / 0x100000000 ≠ d)) } }

/-- The named dies reach a state of P0 to P2. -/
def setDies (dies st : Nat) (m : Dev) : Dev :=
  (bitsOf 8 dies).foldl (fun m d =>
    let m := if st ≠ 0 then updPdie m d stopPriming else m
    let m := if st = 2 then dieUnitsOff d m else m
    updPdie m d (fun x => { x with st := st })) m

/-- R292, R627: every HBM segment enters CLEARING, its contents lost. -/
def clearHbm (m : Dev) : Dev :=
  let segs := (List.range 1048576).filter (fun s => decide (s ∉ m.mem.retired))
  updMem m (fun x => { memZero x 0 0x020000000000 with clearing := x.clearing.filter (fun s => decide (1048576 ≤ s)) ++ segs })

/-- The module enters P3, P4 or P5. -/
def enterDeep (p : Nat) (m : Dev) : Dev :=
  let m := (List.range 8).foldl (fun m d => updPdie (dieMemOff d (dieUnitsOff d m)) d (fun x => { x with st := 3 })) m
  portFollows (agreeWidths (updPower m (fun w => { w with deep := p })))

/-- R627, R696: the module leaves P3, P4 or P5. What a wake from P5 clears is the restart's. -/
def leaveDeep (m : Dev) : Dev :=
  let old := m.power.deep
  let m := if old = 4 then clearHbm m else m
  let m := updPower m (fun w => { w with deep := 0 })
  portFollows (agreeWidths (setDies 255 0 m))

/-- A power state is reached: TARGET and DIES of POWER_STATE_SET. -/
def reachState (target dies cause : Nat) (m : Dev) : Dev :=
  let old := powerState m
  let was := (List.range 8).map (fun d => (pdieAt m d).st)
  let m := if 3 ≤ target then enterDeep target (if old = 4 ∧ target = 3 then clearHbm m else m)
    else
      let m := if m.power.deep ≠ 0 then leaveDeep m else m
      if old < 3 ∨ target ≠ 0 then setDies dies target m else m
  let changed := maskOf ((List.range 8).filter (fun d => decide ((pdieAt m d).st ≠ nth 0 was d)))
  let from' := if 3 ≤ old ∨ 3 ≤ target then old else nth 0 was ((bitsOf 8 changed).headD 0)
  if changed = 0 ∧ from' = target then m else powerEvent from' target changed cause m

/-- The reply of the oldest wait of a kind is due, as `f` has it. -/
def finishAs (f : Reply → Reply) (m : Dev) (why : WaitFor) : Dev :=
  match m.ctl.waits.find? (fun w => decide (w.why = why)) with
  | none => m
  | some w =>
    let r := { w.reply with due := max w.reply.due (strokeOf m w.reply.slot), done := max w.reply.done (strokeOf m w.reply.slot) }
    updCtl m (fun c => { c with waits := c.waits.erase w, replies := c.replies ++ [f r] })

/-- The same, as it stands. -/
def finishFirst (m : Dev) (why : WaitFor) : Dev := finishAs id m why

/-- R624: nothing of any job is dispatched to the named dies. -/
def diesIdle (m : Dev) (dies : Nat) : Bool :=
  (decide (m.sys.st = .quiesced) || m.jobs.all (fun j => decide ((partAt m j.2.part).dies &&& dies = 0) || decide (j.2.phase = .idle ∨ j.2.phase = .halted)))
    && m.ves.all (fun v => !bitOf dies (v.1 / 128) || v.2.teams.isEmpty)

/-- The conditions on a target of POWER_STATE_SET (R84, R278, R624, R625). -/
def targetErr (m : Dev) (target dies : Nat) : Option Err :=
  firstErr [
    ensure (!decide (target = 1 ∨ target = 2) || decide (3 ≤ powerState m) || diesIdle m dies) 0x1001,
    ensure (decide (target < 3) || decide (m.sys.st = .ready) || (decide (target = 3) && decide (m.sys.st = .quiesced))) 0x1001,
    ensure (decide (target < 4) || m.sys.spare.isNone) 0x1007,
    ensure (decide (target < 4) || !m.mem.allocs.any (fun a => decide (segUnit a.first < 16))) 0x1007,
    ensure (decide (target < 5) || (m.mem.allocs.isEmpty && m.sys.session.isNone)) 0x1007]

/-- The oldest POWER_STATE_SET fails on its way with WRONG_STATE, as R78 has it of a command that is no longer legal. -/
def failTarget (m : Dev) : Dev := finishAs (fun r => { r with status := 0x1001, body := stateBody m none 0 }) m .powerState

/-- POWER_STATE_REACHED: the oldest POWER_STATE_SET on its way. A wake from P5 waits for its restart (R696). A state whose
conditions no longer hold once the entry time has passed is not entered, and the command fails (DESIGN CHOICE, log entry 21). -/
def stateReached (m : Dev) : Dev :=
  match m.power.target with
  | [] => m
  | t :: l =>
    if m.power.restarting then m
    else
      let m := updPower m (fun w => { w with target := l })
      if (targetErr m t.1 t.2).isSome then failTarget m else finishFirst (reachState t.1 t.2 0 m) .powerState

def execPowerStateReached (s : State) : Host.Outcome State Fault Refusal := onDev .powerStateReached stateReached s

/-- DIE_WAKE (R626). -/
def dieWake (d : Nat) (m : Dev) : Dev :=
  if m.power.deep = 0 ∧ ((pdieAt m d).st = 1 ∨ (pdieAt m d).st = 2) then reachState 0 (2 ^ d) 1 m else m

def execDieWake (die : Nat) (s : State) : Host.Outcome State Fault Refusal := onDevW (wfDieWake die) (dieWake die) s

/-- P3_PACKET_WAKE (R628). -/
def packetWake (m : Dev) : Dev := if m.power.deep = 3 then reachState 0 255 1 m else m

def execP3PacketWake (s : State) : Host.Outcome State Fault Refusal := onDev .p3PacketWake packetWake s

/-! ### Commands -/

/-- POWER_CAP_SET (R641). A cap that has not settled is superseded. -/
def specPowerCapSet (mb capW : Nat) : CmdSpec where
  cmd := .powerCapSet mb capW
  opcode := 0x0901
  mb := mb
  admin := true
  par := fun _ => ensure (decide (1500 ≤ capW ∧ capW ≤ 6000 ∧ capW % 25 = 0)) 0x2003
  apply := fun m =>
    let n := m.ctl.localStroke
    let m := updCtl m (fun c => { c with waits := c.waits.map (fun w =>
      if capWait m.cycle w.why then { why := .capOld, reply := { w.reply with due := n, done := n } } else w) })
    { m := updPower m (fun w => { w with capUnits := capW / 25 }), wait := some (.capSettle m.cycle) }

def execPowerCapSet (mb capW : Nat) (s : State) : Host.Outcome State Fault Refusal := onCmd (specPowerCapSet mb capW) s

/-- The local stroke that closes writes the replies of superseded caps (R641). -/
def supersededCaps (n : Nat) (m : Dev) : Dev :=
  let p := fun (w : Wait) => decide (w.why = .capOld) && decide (w.reply.due ≤ n)
  let hit := m.ctl.waits.filter p
  updCtl m (fun c => { c with waits := c.waits.filter (fun w => !p w), replies := c.replies ++ hit.map (fun w => { w.reply with body := drawBody m }) })

/-- POWER_SHARE_SET (R638). A share of the partition that has not settled is superseded. -/
def specPowerShareSet (mb partition shareW : Nat) : CmdSpec where
  cmd := .powerShareSet mb partition shareW
  opcode := 0x0902
  mb := mb
  admin := true
  par := fun _ => ensure (decide (partition < 8) && (decide (shareW = 0) || decide (25 ≤ shareW ∧ shareW ≤ 6000 ∧ shareW % 25 = 0))) 0x2003
  apply := fun m =>
    if shareW ≠ 0 ∧ capWatts m < shareSum m - (partAt m partition).share + shareW then { m := m, status := 0x3006 }
    else
      let m := finishWaits m (shareWait partition m.cycle) id
      { m := updPart m partition (fun p => { p with share := shareW }), wait := if shareW = 0 then none else some (.shareSettle partition m.cycle) }

def execPowerShareSet (mb partition shareW : Nat) (s : State) : Host.Outcome State Fault Refusal :=
  onCmd (specPowerShareSet mb partition shareW) s

/-- POWER_STATE_SET (R624, R625, R627, R630). -/
def specPowerStateSet (mb target dies : Nat) : CmdSpec where
  cmd := .powerStateSet mb target dies
  opcode := 0x0903
  mb := mb
  admin := true
  par := fun _ => ensure (decide (target ≤ 5) && (match target with | 0 => true | 1 | 2 => decide (dies ≠ 0) | _ => decide (dies = 0))) 0x2003
  sta := fun m => firstErr [
    ensure (decide (powerState m < 4) || decide (target < powerState m)) 0x1001 (0x0900 + powerState m),
    targetErr m target dies]
  apply := fun m =>
    { m := updPower m (fun w => { w with target := w.target ++ [(target, dies)], restarting := w.restarting || decide (w.deep = 5) })
      wait := some .powerState }

def execPowerStateSet (mb target dies : Nat) (s : State) : Host.Outcome State Fault Refusal := onCmd (specPowerStateSet mb target dies) s

/-- FREQ_MODE_SET (R646). -/
def specFreqModeSet (mb mode : Nat) : CmdSpec where
  cmd := .freqModeSet mb mode
  opcode := 0x0904
  mb := mb
  admin := true
  states := some [.ready]
  par := fun _ => ensure (decide (mode ≤ 1)) 0x2003
  apply := fun m => { m := updPower m (fun w => { w with freqMode := mode, freq := if mode = 0 then 35 else w.freq }) }

def execFreqModeSet (mb mode : Nat) (s : State) : Host.Outcome State Fault Refusal := onCmd (specFreqModeSet mb mode) s

/-- THERMAL_SET. -/
def specThermalSet (mb stackThr stackHyst dieThr : Nat) : CmdSpec where
  cmd := .thermalSet mb stackThr stackHyst dieThr
  opcode := 0x0905
  mb := mb
  admin := true
  par := fun _ => ensure (decide (stackThr = 0 ∨ (80 ≤ stackThr ∧ stackThr ≤ 95)) && decide (stackHyst ≤ 15)
    && decide (dieThr = 0 ∨ (85 ≤ dieThr ∧ dieThr ≤ 100))) 0x2003
  apply := fun m =>
    let m := (List.range 16).foldl (fun m k => updStack m k (fun s => { s with
      thrStart := if stackThr = 0 then s.thrStart else stackThr, hyst := if stackHyst = 0 then s.hyst else stackHyst })) m
    { m := if dieThr = 0 then m else (List.range 8).foldl (fun m d => updPdie m d (fun x => { x with thr := dieThr })) m }

def execThermalSet (mb stackThr stackHyst dieThr : Nat) (s : State) : Host.Outcome State Fault Refusal :=
  onCmd (specThermalSet mb stackThr stackHyst dieThr) s

/-- A die whose cause of priming has been disabled ramps down. -/
def rampDisabled (m : Dev) : Dev :=
  updPower m (fun w => { w with dies := tmap w.dies (fun _ x => if x.priming ∧ !bitOf w.primeEn (x.cause - 1) then { x with rampDown := true } else x) })

/-- PRIMING_SET. -/
def specPrimingSet (mb enable slope limit : Nat) : CmdSpec where
  cmd := .primingSet mb enable slope limit
  opcode := 0x0906
  mb := mb
  admin := true
  par := fun _ => firstErr [ensure (decide (enable < 8)) 0x2002, ensure (decide (1 ≤ slope ∧ slope ≤ 31 ∧ 1 ≤ limit ∧ limit ≤ 255)) 0x2003]
  apply := fun m => { m := rampDisabled (updPower m (fun w => { w with primeEn := enable, primeSlope := slope, primeLimit := limit })) }

def execPrimingSet (mb enable slope limit : Nat) (s : State) : Host.Outcome State Fault Refusal :=
  onCmd (specPrimingSet mb enable slope limit) s

/-- POWER_STATUS. -/
def specPowerStatus (mb : Nat) : CmdSpec where
  cmd := .powerStatus mb
  opcode := 0x0907
  mb := mb
  query := true
  apply := fun m =>
    { m := m
      body := leBytes 8 (pwrState m) ++ leBytes 2 (drawWatts m) ++ leBytes 2 (capWatts m) ++ zeros 4
        ++ ((List.range 8).flatMap fun d => leBytes 4 (pwrDie m d)) ++ ((List.range 32).flatMap fun r => leBytes 2 (sat 16 (railAt m r).power))
        ++ ((List.range 8).flatMap fun p => leBytes 2 ((effShare m p).1 / (effShare m p).2)) }

def execPowerStatus (mb : Nat) (s : State) : Host.Outcome State Fault Refusal := onCmd (specPowerStatus mb) s

/-- ENERGY_REPORT (R634). -/
def specEnergyReport (mb partition : Nat) : CmdSpec where
  cmd := .energyReport mb partition
  opcode := 0x0908
  mb := mb
  query := true
  sec := fun _ => ensure (decide (partition = 0xFF) || decide (partition = mb / 32) || decide (mb / 32 = 0)) 0x7002
  par := fun _ => ensure (decide (partition = 0xFF) || decide (partition < 8)) 0x2003
  apply := fun m =>
    let p := if partition = 0xFF then mb / 32 else partition
    let js := m.jobs.filter (fun j => decide (j.2.part = p))
    let total := js.foldl (fun e j => e + j.2.energy) ((partAt m p).idleEnergy + (partAt m p).pastEnergy)
    { m := m
      body := leBytes 8 (milli total) ++ leBytes 8 (milli (partAt m p).idleEnergy) ++ leBytes 1 js.length ++ zeros 15
        ++ js.flatMap (fun j => leBytes 4 j.2.id ++ zeros 4 ++ leBytes 8 (milli j.2.energy) ++ leBytes 8 (milli j.2.primeEnergy)) }

def execEnergyReport (mb partition : Nat) (s : State) : Host.Outcome State Fault Refusal := onCmd (specEnergyReport mb partition) s

end Sys2Proof.Machine
end

