-- ==== Sys2Proof/Machine/Boot.lean ====
section
/-! DEFINITION. Sys2Proof/Machine/Boot.lean: boot, firmware and identity (chapter 18), the module states OFF, BOOT, MINIMAL
and FAILED (R82, R83, R112 to R115), and the pins of chapter 19. -/

namespace Sys2Proof.Machine

/-! ### Images (R681 to R686) -/

def flashRead (nv : NonVol) (a n : Nat) : List Byte := (List.range n).map (fun i => tget 0xFF nv.flash (a + i))

/-- R685: the public key of an index. -/
def headSigned (h : List Byte) : Bool := decide (recField h 7 1 ≤ 3) && edVerify (Config.fwKey (recField h 7 1)) (h.take 128) (recBytes h 128 114)

/-- The entries of the segment table: OFFSET, SEG_LEN and DIGEST. -/
def imageSegs (h : List Byte) : List (Nat × Nat × List Byte) :=
  (List.range (recField h 24 1)).map (fun i => (recField h (256 + 64 * i) 4, recField h (260 + 64 * i) 4, recBytes h (288 + 64 * i) 32))

/-- Check 6's layout: inside LENGTH and free of overlap. -/
def segsOk (h : List Byte) : Bool :=
  let l := imageSegs h
  l.all (fun s => decide (1280 ≤ s.1 ∧ s.1 % 256 = 0 ∧ s.1 + s.2.1 ≤ recField h 16 8))
    && (List.range l.length).all (fun i => (List.range i).all (fun k =>
      !runsMeet ((nth (0, 0, []) l i).1, (nth (0, 0, []) l i).2.1) ((nth (0, 0, []) l k).1, (nth (0, 0, []) l k).2.1)))

/-- R686 checks 1 to 6 on bytes 0 to 1,279 of an image: the reason of the first that fails, or 0. -/
def headReason (nv : NonVol) (h : List Byte) : Nat :=
  let len := recField h 16 8
  if recField h 0 4 ≠ 0x494D0001 then 1
  else if recField h 4 2 ≠ 1 ∨ recField h 6 1 ≠ 0xB0 ∨ len % 256 ≠ 0 ∨ len < 1536 ∨ 260046848 < len ∨ recField h 24 1 = 0 ∨ 16 < recField h 24 1
      ∨ 2 ≤ recField h 25 1 ∨ 16 ≤ recField h 26 1 ∨ recField h 27 5 ≠ 0 ∨ recField h 64 64 ≠ 0 ∨ recField h 242 14 ≠ 0
      ∨ bitOf (recField h 26 1) (recField h 7 1) then 2
  else if bitOf nv.revoked (recField h 7 1) then 3
  else if !headSigned h then 4
  else if recField h 12 4 < nv.minSvn then 7
  else if recBytes h 32 32 ≠ shake256 32 (recBytes h 256 1024) then 5
  else if !segsOk h then 2
  else 0

/-- R686 check 7: the first segment whose digest differs. -/
def badSegment (nv : NonVol) (h : List Byte) : Option Nat :=
  (List.zip (List.range 16) (imageSegs h)).find? (fun s => decide (shake256 32 (flashRead nv s.2.1 s.2.2.1) ≠ s.2.2.2)) |>.map (·.1)

/-- Bytes 0 to 1,279 of the image that the flash holds. -/
def flashHead (nv : NonVol) : List Byte := if nv.shipped then (List.range 1280).map Config.shippedHead else flashRead nv 0 1280

/-- R686 for the image that the flash holds: checks 1 to 6. The shipped image is whole and signed (PRESUMED, log entry 22);
the fuses may still refuse it. -/
def flashReason (nv : NonVol) : Nat :=
  if nv.shipped then
    if bitOf nv.revoked (Config.shippedHead 7).toNat then 3 else if Config.shippedSvn < nv.minSvn then 7 else 0
  else headReason nv (flashRead nv 0 1280)

def flashBadSegment (nv : NonVol) : Option Nat := if nv.shipped then none else badSegment nv (flashRead nv 0 1280)

/-- R689: the fuses after an image has started. -/
def burnFuses (nv : NonVol) : NonVol :=
  let h := flashHead nv
  let svn := if nv.shipped then Config.shippedSvn else recField h 12 4
  { nv with
    minSvn := if bitOf (recField h 25 1) 0 then max nv.minSvn (min svn 64) else nv.minSvn
    revoked := (nv.revoked ||| recField h 26 1) % 16 }

/-- The image of the flash is in force. -/
def runImage (nv : NonVol) (m : Dev) : Dev :=
  updSys m (fun s => { s with
    fwVersion := if nv.shipped then Config.shippedVersion else recField (flashHead nv) 8 4
    svn := if nv.shipped then Config.shippedSvn else recField (flashHead nv) 12 4
    imageHead := if nv.shipped then none else some (flashHead nv) })

/-! ### Start log (R691, R692) -/

/-- The running start's record has been appended. -/
def startRuns (m : Dev) : Bool := decide (m.sys.st = .boot) && decide (1 ≤ m.sys.startStep) && !m.sys.startWait

def changeLast (nv : NonVol) (f : StartRec → StartRec) : NonVol :=
  { nv with records := nv.records.dropLast ++ (nv.records.getLast?.map f).toList }

def lastSeq (nv : NonVol) : Nat := (nv.records.getLast?.map (·.seq)).getD 0

/-- Appends a record; before the last free record is used, the oldest sector of 2,048 records is erased. -/
def appendRecord (nv : NonVol) (reason detail : Nat) : NonVol :=
  let old := if 32767 ≤ nv.records.length then nv.records.drop 2048 else nv.records
  { nv with records := old ++ [{ seq := (lastSeq nv + 1) % 2 ^ 32, reason := reason, detail := detail }] }

/-- R691: a record whose REASON still reads 0xFFFF is taken as POWER_LOST. -/
def recReason (r : StartRec) : Nat := if r.reason = 0xFFFF then 0x21 else r.reason

def counting (r : StartRec) : Bool := decide (recReason r ∉ [0, 0x22])

/-- The records of the starts that have ended, newest first. -/
def endedRecords (nv : NonVol) (m : Dev) : List StartRec := (if startRuns m then nv.records.dropLast else nv.records).reverse

/-- R692: consecutive failed starts. -/
def failedStarts (nv : NonVol) (m : Dev) : Nat := ((endedRecords nv m).takeWhile counting).length

/-- The latest start that failed. -/
def lastFailed (nv : NonVol) (m : Dev) : Nat × Nat :=
  match (endedRecords nv m).find? (fun r => decide (recReason r ≠ 0)) with
  | some r => (recReason r, r.detail)
  | none => (0, 0)

def recordBytes (r : StartRec) : List Byte := leBytes 4 r.seq ++ leBytes 2 r.reason ++ leBytes 2 r.detail ++ zeros 8 ++ leBytes 8 r.ticks ++ zeros 8

/-! ### Replies of mailboxes that lose their wellhead (R114, R115, R728) -/

/-- The wellhead had accepted the request of a mailbox. -/
def acceptedIn (m : Dev) (mb : Nat) : Option Accepted :=
  (m.ctl.accepted ++ m.jobs.filterMap (fun j => j.2.jobWide)).find? (fun a => decide (a.mb = mb))

def appliedIn (m : Dev) (mb : Nat) : Option Reply := (m.ctl.replies ++ m.ctl.waits.map (·.reply)).find? (fun r => decide (r.mb = mb))

/-- STROKE_KIND, ACCEPT_STROKE and job of an accepted request that waits for no boundary: a MODULE_RESET that a commit defers
(R698), and an ATTEST at the identity engine. -/
def heldIn (m : Dev) (mb : Nat) : Option (Nat × Nat × Nat) :=
  match m.sys.deferredReset.filter (fun d => decide (d.1 = mb)) with
  | some d => some (0, d.2, 0)
  | none => (m.sys.signing.find? (fun x => decide (x.2.1 = some mb))).map (fun x => (x.2.2 % 2, x.2.2 / 2, recField x.1 164 4))

/-- R728: the stroke fields and the job of such a reply. -/
def lostReply (m : Dev) (status mb : Nat) : Reply :=
  let x := match appliedIn m mb, acceptedIn m mb with
    | some r, _ => (r.kind, r.accept, r.applied, r.jobId)
    | none, some a => (b2n a.slot.isSome, a.stroke, 0, match a.slot.bind (jobAt m) with | some j => j.id | none => 0)
    | none, none => match heldIn m mb with
      | some h => (h.1, h.2.1, 0, h.2.2)
      | none => (0, 0, 0, 0)
  { mb := mb, status := status, body := [], slot := none, due := 0, kind := x.1, accept := x.2.1, done := x.2.2.1, stretch := false
    jobId := x.2.2.2 }

/-- Answers the mailboxes that satisfy a test. -/
def answerLost (status : Nat) (p : Nat → Bool) (m : Dev) : Dev :=
  (((List.range 256).filter p).map (lostReply m status)).foldl writeReply m

def takenIn (m : Dev) (mb : Nat) : Bool := (appliedIn m mb).isSome || (acceptedIn m mb).isSome || (heldIn m mb).isSome

/-! ### Entering BOOT, FAILED and OFF (R82, R83, R114, R115) -/

/-- What outlasts an entry to BOOT: with the always-on domain powered, the control window, the links' training, the port's
addresses and the brake; in any case what the flash holds of repairs, the aquifer, and the log of the model itself. -/
def bootState (aon : Bool) (m : Dev) : Dev :=
  let s := m.sys
  let a := drawFree m 32
  let b := drawFree a.2 32
  let p0 : Part := { configured := true, dies := 255, hbmClass := 2, allowLen := some 0, cwKey := a.1, bwKey := b.1 }
  let kept := if aon then m.port.parts else []
  let parts := (List.range 8).foldl (fun t p =>
    let old := tget {} kept p
    let new := if p = 0 then p0 else {}
    tset {} t p { new with ipv4 := old.ipv4, ipv6 := old.ipv6 }) []
  let links := if aon then tmap m.net.links (fun _ k => { k with
      corrected := 0, uncorr := 0, fecPath := 0, noTree := 0, noRoute := 0, window := 0
      replays := 0, laneFaults := 0, downs := 0, trains := 0, fShifts := 0 }) else []
  let stacks' := tmap m.mem.hbm (fun _ k => { ({} : Stack) with retired := k.retired, spares := k.spares, used := k.used })
  let pkgs := tmap m.mem.cis (fun _ c => { ({} : Cis) with retired := c.retired, spares := c.spares, used := c.used })
  { cycle := m.cycle, free := b.2.free, out := m.out
    sys := { inputOk := s.inputOk, aux := s.aux, resetLow := s.resetLow, colRecord := s.colRecord, hours := s.hours, hourMs := s.hourMs
             failedReason := if aon then s.failedReason else 0 }
    ctl := { cw := if aon then m.ctl.cw else [] }
    mem := { allocs := [], hbm := stacks', cis := pkgs, aq := { m.mem.aq with cmds := [], uncorr := 0 }, rowRecord := m.mem.rowRecord
             retired := m.mem.retired, retirePending := m.mem.retirePending }
    net := { links := links }
    power := { brakePin := m.power.brakePin, brake := aon && m.power.brake, brakeAck := aon && m.power.brake, brakeStart := m.power.brakeStart }
    port := { parts := parts } }

/-- Writes flash bytes. -/
def flashWrite (nv : NonVol) (a : Nat) (l : List Byte) : NonVol :=
  { nv with flash := (List.zip (List.range l.length) l).foldl (fun t x => tset 0xFF t (a + x.1) x.2) nv.flash }

/-- A commit is reading back (R698). -/
def committing (m : Dev) : Bool := match m.sys.session with | some x => x.committing | none => false

/-- R698: a reset pulse or a loss of power during a commit leaves some of the header page's 256 bytes programmed, but never all of
them; how many is a free value. -/
def interruptHeader (nv : NonVol) (m : Dev) : NonVol × Dev :=
  match m.sys.session with
  | none => (nv, m)
  | some x => if x.committing then (flashWrite nv 0 (x.head.take (drawFree m 8).1), (drawFree m 8).2) else (nv, m)

/-- R115: the module enters BOOT; `except` is the mailbox of the MODULE_RESET that caused it. A start that is cut short by a
reset is logged as RESET. -/
def enterBoot (aon : Bool) (except : Option Nat) (nv : NonVol) (m : Dev) : NonVol × Dev :=
  let nv := if aon && startRuns m then changeLast nv (fun r => { r with reason := 0x22, detail := 0 }) else nv
  let quiet := updCtl m (fun c => { c with areas := [] })
  let m := answerLost 0x6003 (fun mb => (mbOwned m mb || takenIn m mb) && decide (some mb ≠ except)) quiet
  let x := interruptHeader nv m
  (x.1, bootState aon x.2)

/-- The module is OFF. -/
def enterOff (nv : NonVol) (m : Dev) : NonVol × Dev :=
  let x := interruptHeader nv m
  (x.1, updSys (bootState false x.2) (fun s => { s with st := .off }))

/-- R83, R114: the module enters FAILED for a REASON. -/
def enterFailed (reason : Nat) (m : Dev) : Dev :=
  if m.sys.st = .off ∨ m.sys.st = .minimal ∨ m.sys.st = .failed then m
  else
    let m := answerLost 0x5001 (takenIn m) m
    let m := updCtl m (fun c => { c with accepted := [], waiting := [], replies := [], waits := [], flips := c.flips ++ c.waiting.map (·.mb) })
    let m := { m with jobs := tmap m.jobs (fun _ j => { j with jobWide := none }) }
    let m := updSys m (fun s => { s with st := .failed, failedReason := reason, session := none, deferredReset := none, startWait := false, signing := [] })
    let m := match m.net.position with
      | some p => (List.range 32).foldl (fun m l => sendFlit m l (.declare p reason)) m
      | none => m
    if (areaAt m 0).reg.isSome then emit m { etype := 0x0103, part := 0, status := 0, payload := leBytes 2 reason } else m

/-- WELLHEAD_UNRESPONSIVE. -/
def execWellheadUnresponsive (s : State) : Host.Outcome State Fault Refusal := onDev .wellheadUnresponsive (enterFailed 0x30) s

/-- UNCONTAINED_FAULT. -/
def execUncontainedFault (unit : Nat) (s : State) : Host.Outcome State Fault Refusal :=
  onDevW (wfUncontainedFault unit) (enterFailed 0x31) s

/-- R302, R648: sensors 0 to 7 are the compute dies, 8 to 10 the IO dies, 11 to 26 the stacks and 27 to 58 the cistern
packages (numbers of the model). -/
def criticalAt (sensor : Nat) : Nat := if sensor < 11 then 115 else if sensor < 27 then 110 else 105

/-- CRITICAL_TEMP. -/
def criticalTemp (sensor temp : Nat) (m : Dev) : Dev := if sensor < 59 ∧ criticalAt sensor ≤ temp then enterFailed 0x32 m else m

def execCriticalTemp (sensor temp : Nat) (s : State) : Host.Outcome State Fault Refusal :=
  onDevW (wfCriticalTemp sensor temp) (criticalTemp sensor temp) s

/-- REGULATOR_ALARM (R635, R645): rail 32 is the input. -/
def regulatorAlarm (rail alarm value : Nat) (holds : Bool) (nv : NonVol) (m : Dev) : NonVol × Dev :=
  if m.sys.st = .off then (nv, m)
  else
    let mark := fun (r : Rail) => { r with alarm := r.alarm ||| 2 ^ alarm }
    let m := updPower m (fun w => { w with alarms := sat 16 (w.alarms + 1) })
    let m := if rail = 32 then updPower m (fun w => { w with input := mark w.input })
      else updPower m (fun w => { w with rails := tmod {} w.rails rail mark })
    let m := riskHit m 5 1
    let m := raiseModule m 0x0903 0 (leBytes 1 rail ++ leBytes 1 alarm ++ zeros 2 ++ leBytes 4 value)
    let m := if alarm = 2 ∧ rail < 8 then vcoreDroop rail m else m
    if holds then (nv, m) else enterOff nv m

def execRegulatorAlarm (rail alarm value : Nat) (holds : Bool) (s : State) : Host.Outcome State Fault Refusal :=
  if wfRegulatorAlarm rail alarm value holds then
    .next { s with nv := (regulatorAlarm rail alarm value holds s.nv s.m).1, m := (regulatorAlarm rail alarm value holds s.nv s.m).2 }
  else .fault .illFormed

/-! ### Pins and input (R712, R715, R717, R718) -/

/-- R713: the always-on domain finds POWER_BRAKE high when it comes up. -/
def sampleBrake (x : NonVol × Dev) : NonVol × Dev := (x.1, if x.2.power.brakePin then brakeOn x.2 else x.2)

/-- POWER_ON: soft start has ended. -/
def powerOn (nv : NonVol) (m : Dev) : NonVol × Dev :=
  if m.sys.st = .off then
    let m := updSys m (fun s => { s with inputOk := true })
    if m.sys.resetLow then (nv, m) else sampleBrake (enterBoot false none nv m)
  else (nv, m)

def execPowerOn (s : State) : Host.Outcome State Fault Refusal := onBoot .powerOn powerOn s

/-- INPUT_SHUTDOWN. -/
def inputShutdown (nv : NonVol) (m : Dev) : NonVol × Dev := enterOff nv (updSys m (fun s => { s with inputOk := false }))

def execInputShutdown (s : State) : Host.Outcome State Fault Refusal := onBoot .inputShutdown inputShutdown s

/-- RESET_N_LOW: the 100 ms mark. -/
def resetLow (nv : NonVol) (m : Dev) : NonVol × Dev := enterOff nv (updSys m (fun s => { s with resetLow := true }))

def execResetNLow (s : State) : Host.Outcome State Fault Refusal := onBoot .resetNLow resetLow s

/-- RESET_N_HIGH: the deassertion that ends a pulse or a long hold. -/
def resetHigh (nv : NonVol) (m : Dev) : NonVol × Dev :=
  let off := decide (m.sys.st = .off)
  let m := updSys m (fun s => { s with resetLow := false })
  if !m.sys.inputOk then (nv, m) else sampleBrake (enterBoot (!off) none nv m)

def execResetNHigh (s : State) : Host.Outcome State Fault Refusal := onBoot .resetNHigh resetHigh s

/-- SMB_FRU_READ (R712): the FRU memory answers in every state while its supply is present. -/
def smbFruRead (offset len : Nat) (m : Dev) : Dev :=
  if m.sys.aux then send m (.fruData ((List.range len).map (fun i => Config.fruByte (offset + i)))) else m

def execSmbFruRead (offset len : Nat) (s : State) : Host.Outcome State Fault Refusal :=
  onDevW (wfSmbFruRead offset len) (smbFruRead offset len) s

/-! ### Starting (R687 to R693) -/

/-- A start fails: the record takes its reason, and the wait of 100 ms begins. -/
def startFails (reason detail : Nat) (nv : NonVol) (m : Dev) : NonVol × Dev :=
  (changeLast nv (fun r => { r with reason := reason, detail := detail }), updSys m (fun s => { s with startWait := true }))

/-- A row of the repair record at a reset: a soft repair is made permanent in the spare row it has; another row takes a spare row
where one remains, and otherwise the segments it touches are retired (R307 items 3 and 4). -/
def applyRepair (m : Mem) (r : RepairRow) : Mem :=
  if r.soft then m
  else if 0 < bankSpares m r then takeSpare m r
  else
    let segs := (Config.rowSegments r.kind r.unit r.bank r.row).filter (fun s => decide (s ∉ m.retired))
    let m := { m with retired := m.retired ++ segs }
    segs.foldl (fun x s =>
      let u := segUnit s
      if u < 16 then { x with hbm := tmod {} x.hbm u (fun k => { k with retired := sat 16 (k.retired + 1) }) }
      else { x with cis := tmod {} x.cis (u - 16) (fun k => { k with retired := sat 16 (k.retired + 1) }) }) m

/-- Step 4: the repair record is applied. -/
def applyRepairs (m : Dev) : Dev :=
  updMem m (fun x => { x.rowRecord.foldl applyRepair x with retirePending := [], rowRecord := [] })

/-- Step 5: the columns that the self-test found, and the widths (R185 to R187). -/
def applyColumns (fails : List Nat) (m : Dev) : Dev :=
  let cols := (fails.filter (fun c => decide (c < 384 * 256))).foldl (fun t c =>
    tmod [] t (c / 256) (fun l => if c % 256 ∈ l then l else l ++ [c % 256])) m.sys.colRecord
  let arrays := cols.foldl (fun (t : Tab MArray) c =>
    let l := c.2.mergeSort
    tput t c.1 { width := if l.length ≤ 4 then 256 - l.length else 0, bad := l.take 4 }) []
  let narrow := (arrays.filter (fun a => decide (0 < a.2.width ∧ a.2.width < 256))).length
  updSys { m with arrays := arrays } (fun s => { s with colRecord := cols, maFull := 384 - arrays.length, maNarrow := narrow })

/-- Step 6: R688. -/
def clearMemory (m : Dev) : Dev := { m with mem := { m.mem with bytes := [], poison := [], damaged := [], lines := [], clearing := [] }, banks := [], ctl := { m.ctl with flags := [] } }

/-- The keepers begin to train every enabled link (R446). -/
def keepersTrain (m : Dev) : Dev :=
  (List.range 32).foldl (fun m l => updLink m l (fun k => if k.enabled ∧ (k.st = .off ∨ k.st = .failed) then { k with st := .training, cause := 1, attempts := 0 } else k)) m

/-- START_STEP: the next step of the running start. -/
def startStep (fails : List Nat) (nv : NonVol) (m : Dev) : NonVol × Dev :=
  if m.sys.st ≠ .boot ∨ m.sys.startWait ∨ 7 ≤ m.sys.startStep then (nv, m)
  else
    let m' := updSys m (fun s => { s with startStep := s.startStep + 1 })
    match m.sys.startStep with
    | 0 => (appendRecord nv 0xFFFF 0xFFFF, keepersTrain m')
    | 1 => if flashReason nv = 0 then (nv, m') else startFails (flashReason nv) 0 nv m
    | 2 => match flashBadSegment nv with
      | none => (nv, m')
      | some i => startFails 6 i nv m
    | 3 => (nv, applyRepairs m')
    | 4 => (nv, applyColumns fails m')
    | 5 => (nv, clearMemory m')
    | _ =>
      let t := drawFree m' 64
      let nv := changeLast nv (fun r => { r with reason := 0, detail := 0, ticks := t.1 })
      (burnFuses nv, updCtl (updSys (runImage nv t.2) (fun s => { s with st := .ready })) (fun c => { c with localStroke := 0 }))

def execStartStep (failCols : List Nat) (s : State) : Host.Outcome State Fault Refusal := onBoot (.startStep failCols) (startStep failCols) s

/-- START_FAILED: the flash, the memory's training, the self-test or the clearing fails, or a check of R686 does. -/
def startFailed (reason detail : Nat) (nv : NonVol) (m : Dev) : NonVol × Dev :=
  if startRuns m ∧ reason ∈ [1, 2, 3, 4, 5, 6, 7, 8, 0x10, 0x11, 0x12] then startFails reason detail nv m else (nv, m)

def execStartFailed (reason detail : Nat) (s : State) : Host.Outcome State Fault Refusal :=
  onBoot (.startFailed reason detail) (startFailed reason detail) s

/-- START_WATCHDOG. -/
def startWatchdog (nv : NonVol) (m : Dev) : NonVol × Dev := if startRuns m then startFails 0x20 0 nv m else (nv, m)

def execStartWatchdog (s : State) : Host.Outcome State Fault Refusal := onBoot .startWatchdog startWatchdog s

/-- START_WAIT_END (R693). -/
def startWaitEnd (nv : NonVol) (m : Dev) : NonVol × Dev :=
  if m.sys.st = .boot ∧ m.sys.startWait then
    if failedStarts nv m < 3 then enterBoot true none nv m
    else (nv, updSys m (fun s => { s with st := .minimal, startWait := false, svcUp := false }))
  else (nv, m)

def execStartWaitEnd (s : State) : Host.Outcome State Fault Refusal := onBoot .startWaitEnd startWaitEnd s

/-- MINIMAL_SERVICE_UP (R694). -/
def serviceUp (m : Dev) : Dev := if m.sys.st = .minimal then updSys m (fun s => { s with svcUp := true }) else m

def execMinimalServiceUp (s : State) : Host.Outcome State Fault Refusal := onDev .minimalServiceUp serviceUp s

/-- P5_WAKE_RESTART (R696): `reason` is what fails apart from the checks of the image, or 0. -/
def p5Restart (reason : Nat) (nv : NonVol) (m : Dev) : NonVol × Dev :=
  if m.power.restarting then
    let r := if reason ≠ 0 then reason else if flashReason nv ≠ 0 then flashReason nv else if (flashBadSegment nv).isSome then 6 else 0
    let m := updPower m (fun w => { w with restarting := false })
    if r ≠ 0 then (appendRecord nv 0x33 r, enterFailed 0x33 m)
    else
      let m := clearHbm m
      let segs := (List.range 1048576).filterMap (fun i => if 1048576 + i ∈ m.mem.retired then none else some (1048576 + i))
      let m := updMem m (fun x => { memZero x 0x020000000000 0x020000000000 with clearing := x.clearing.filter (fun s => decide (s < 1048576)) ++ segs })
      (burnFuses nv, runImage nv m)
  else (nv, m)

def execP5WakeRestart (reason : Nat) (s : State) : Host.Outcome State Fault Refusal :=
  if wfP5WakeRestart reason then .next { s with nv := (p5Restart reason s.nv s.m).1, m := (p5Restart reason s.nv s.m).2 } else .fault .illFormed

/-! ### MODULE_INFO, MODULE_QUIESCE, MODULE_RESUME, MODULE_RESET -/

def idPart : Nat := 0x02B0
def idConfig (m : Dev) : Nat := m.sys.maFull + (m.sys.maNarrow <<< 16)

/-- The standpipe answers (R112, R630). -/
def standpipe (m : Dev) : Bool := decide (4 ≤ m.power.deep) || decide (m.sys.st = .boot) || decide (m.sys.st = .failed) || (decide (m.sys.st = .minimal) && !m.sys.svcUp)

/-- MODULE_INFO. -/
def specModuleInfo (mb : Nat) : CmdSpec where
  cmd := .moduleInfo mb
  opcode := 0x0101
  mb := mb
  query := true
  apply := fun m =>
    { m := m
      body := leBytes 4 idPart ++ leBytes 4 (if standpipe m then 0 else idConfig m) ++ leBytes 1 (stateCode m.sys.st) ++ leBytes 1 m.jobs.length
        ++ zeros 2 ++ leBytes 4 (match m.sys.st with | .boot | .failed | .minimal => 0 | _ => m.sys.fwVersion)
        ++ leBytes 8 (if noStrokes m then 0 else m.ctl.localStroke) ++ zeros 8 }

def execModuleInfo (mb : Nat) (s : State) : Host.Outcome State Fault Refusal := onCmd (specModuleInfo mb) s

/-- MODULE_QUIESCE: OBJECT_STATE counts the jobs that are neither in IDLE nor in HALTED. -/
def specModuleQuiesce (mb : Nat) : CmdSpec where
  cmd := .moduleQuiesce mb
  opcode := 0x0102
  mb := mb
  admin := true
  states := some [.active]
  sta := fun m =>
    let n := (m.jobs.filter (fun j => decide (j.2.phase ≠ .idle ∧ j.2.phase ≠ .halted))).length
    ensure (decide (n = 0)) 0x1001 n
  apply := fun m => { m := updSys m (fun s => { s with st := .quiesced }) }

def execModuleQuiesce (mb : Nat) (s : State) : Host.Outcome State Fault Refusal := onCmd (specModuleQuiesce mb) s

/-- MODULE_RESUME. -/
def specModuleResume (mb : Nat) : CmdSpec where
  cmd := .moduleResume mb
  opcode := 0x0103
  mb := mb
  admin := true
  states := some [.quiesced]
  apply := fun m => { m := updSys m (fun s => { s with st := .active }) }

def execModuleResume (mb : Nat) (s : State) : Host.Outcome State Fault Refusal := onCmd (specModuleResume mb) s

/-- MODULE_RESET: its acceptance. -/
def specModuleReset (mb flags : Nat) : CmdSpec where
  cmd := .moduleReset mb flags
  opcode := 0x0104
  mb := mb
  admin := true
  par := fun _ => ensure (decide (flags < 2)) 0x2002
  sta := fun m => ensure (m.jobs.isEmpty || bitOf flags 0) 0x1001 m.jobs.length
  apply := fun m => { m := m }

/-- R115: the reply of MODULE_RESET is written, and then the module enters BOOT. A commit that is reading back defers both. -/
def resetNow (mb accept done : Nat) (nv : NonVol) (m : Dev) : NonVol × Dev :=
  if committing m then (nv, updSys m (fun s => { s with deferredReset := s.deferredReset.or (some (mb, accept)) }))
  else
    enterBoot true (some mb) nv (writeReply m { mb := mb, status := 0, body := [], slot := none, due := 0, kind := 0, accept := accept
                                                done := done, stretch := false, jobId := 0 })

/-- R698: a MODULE_RESET that a commit deferred is applied at the first boundary after the commit's end. -/
def resetDeferred (nv : NonVol) (m : Dev) : NonVol × Dev :=
  match m.sys.deferredReset with
  | some d => if committing m then (nv, m) else resetNow d.1 d.2 m.ctl.localStroke nv m
  | none => (nv, m)

/-- MODULE_RESET at the boundary after its acceptance (R23), with the checks of R78. -/
def applyReset (c : CmdSpec) (accept n : Nat) (nv : NonVol) (m : Dev) : NonVol × Dev :=
  match recheckErr c m with
  | some e => (nv, stageReply c { m := m, status := 0x1001, obj := e.obj } none accept n)
  | none => resetNow c.mb accept n nv m

/-- MODULE_RESET: where no stroke runs, it is applied once its reply is written (R113). -/
def moduleReset (mb flags : Nat) (nv : NonVol) (m : Dev) : NonVol × Dev :=
  let c := specModuleReset mb flags
  if unreached m c.opcode mb ∨ (acceptErr c m).isSome ∨ !noStrokes m then (nv, runCmd c m) else resetNow mb 0 0 nv m

def execModuleReset (mb flags : Nat) (s : State) : Host.Outcome State Fault Refusal := onBoot (.moduleReset mb flags) (moduleReset mb flags) s

/-! ### Image sessions (R697, R698) -/

def sessionOpen (m : Dev) : Bool := match m.sys.session with | some x => !x.committing | none => false

/-- The operations of a session that the flash has not ended yet; an earlier session's go on when IMAGE_BEGIN discards it. -/
def sessionOps (m : Dev) : List FlashOp := match m.sys.session with | some x => x.ops | none => []

def reasonBody (r : Nat) : List Byte := leBytes 2 r ++ zeros 6

/-- IMAGE_BEGIN. -/
def specImageBegin (nv : NonVol) (mb flags : Nat) (head : List Byte) : CmdSpec where
  cmd := .imageBegin mb flags head
  opcode := 0x0A01
  mb := mb
  admin := true
  sec := fun _ => if headReason nv head = 3 ∨ headReason nv head = 4 then some { status := 0x7003, body := reasonBody (headReason nv head) } else none
  par := fun _ => firstErr [
    ensure (decide (flags < 2)) 0x2002,
    if headReason nv head = 1 ∨ headReason nv head = 2 ∨ headReason nv head = 7 then some { status := 0x200D, body := reasonBody (headReason nv head) } else none]
  sta := fun m => ensure (m.sys.session.isNone || (bitOf flags 0 && !committing m)) 0x1007
  apply := fun m =>
    if headReason nv head = 5 then { m := m, status := 0x4002, body := reasonBody 5 }
    else
      { m := updSys m (fun s => { s with session := some { head := head, length := recField head 16 8, ops := sessionOps m ++ [.erase] } })
        body := reasonBody 0, wait := some .flash }

/-- What an accepted command of the image service does to the flash: IMAGE_BEGIN erases the sectors up to LENGTH and programs
the segment table; IMAGE_WRITE programs its pages. -/
def imageEffect (c : Instr) (nv : NonVol) : NonVol :=
  match c with
  | .imageBegin _ _ head =>
    let n := (recField head 16 8 + 65535) / 65536 * 65536
    flashWrite { nv with shipped := false, flash := tkeep nv.flash (fun a _ => decide (n ≤ a)) } 256 (recBytes head 256 1024)
  | .imageWrite _ offset data => flashWrite nv offset data
  | _ => nv

/-- IMAGE_WRITE. -/
def specImageWrite (mb offset : Nat) (data : List Byte) : CmdSpec where
  cmd := .imageWrite mb offset data
  opcode := 0x0A02
  mb := mb
  admin := true
  par := fun m => ensure (decide (offset % 256 = 0 ∧ 1280 ≤ offset ∧ data.length % 256 = 0 ∧ 256 ≤ data.length ∧ data.length ≤ 3840)
    && (match m.sys.session with
      | some x => decide (offset + data.length ≤ x.length) && x.pages.all (fun p => !(decide (offset ≤ p) && decide (p < offset + data.length)))
      | none => true)) 0x2003
  sta := fun m => ensure (sessionOpen m) 0x1001
  apply := fun m =>
    { m := updSys m (fun s => { s with session := s.session.map (fun x => { x with
        pages := x.pages ++ (List.range (data.length / 256)).map (fun i => offset + 256 * i), ops := x.ops ++ [.program] }) })
      wait := some .flash }

/-- IMAGE_COMMIT. -/
def specImageCommit (mb : Nat) : CmdSpec where
  cmd := .imageCommit mb
  opcode := 0x0A03
  mb := mb
  admin := true
  sta := fun m => ensure (sessionOpen m) 0x1001
  apply := fun m =>
    { m := updSys m (fun s => { s with session := s.session.map (fun x => { x with committing := true, ops := x.ops ++ [.readBack] }) })
      body := reasonBody 0, wait := some .flash }

/-- A command of the image service with its effect on the flash: it has been applied when the session has changed. -/
def withFlash (c : Instr) (f : Dev → Dev) (nv : NonVol) (m : Dev) : NonVol × Dev :=
  (if (f m).sys.session = m.sys.session then nv else imageEffect c nv, f m)

def execImageBegin (mb flags : Nat) (head : List Byte) (s : State) : Host.Outcome State Fault Refusal :=
  onNvRead (.imageBegin mb flags head) (fun nv => runCmd (specImageBegin nv mb flags head)) s

def execImageWrite (mb offset : Nat) (data : List Byte) (s : State) : Host.Outcome State Fault Refusal :=
  onCmd (specImageWrite mb offset data) s

def execImageCommit (mb : Nat) (s : State) : Host.Outcome State Fault Refusal :=
  onCmd (specImageCommit mb) s

/-- The reply of the oldest flash operation is due, with a status. -/
def flashReply (status : Nat) (body : Option (List Byte)) (m : Dev) : Dev :=
  let m := updCtl m (fun c => match c.waits.find? (fun w => decide (w.why = .flash)) with
    | none => c
    | some w =>
      let r := { w.reply with status := if status = 0 then w.reply.status else status, body := body.getD w.reply.body }
      { c with waits := c.waits.map (fun v => if v = w then { v with reply := r } else v) })
  finishFirst m .flash

/-- FLASH_OPERATION_DONE (R697): the oldest operation of the session ends. -/
def flashDone (ok : Bool) (nv : NonVol) (m : Dev) : NonVol × Dev :=
  match m.sys.session with
  | none => (nv, m)
  | some x =>
    match x.ops with
    | [] => (nv, m)
    | op :: rest =>
      if !ok then
        let m := updSys m (fun s => { s with session := none })
        (nv, (x.ops).foldl (fun m _ => flashReply 0x5002 (some []) m) m)
      else match op with
        | .readBack =>
          let m := updSys m (fun s => { s with session := none })
          match badSegment nv x.head with
          | some _ => (nv, flashReply 0x4002 (some (reasonBody 6)) m)
          | none => (flashWrite nv 0 (x.head.take 256), flashReply 0 none m)
        | _ => (nv, flashReply 0 none (updSys m (fun s => { s with session := some { x with ops := rest } })))

def execFlashOperationDone (ok : Bool) (s : State) : Host.Outcome State Fault Refusal := onBoot (.flashOperationDone ok) (flashDone ok) s

/-! ### Identity and attestation (R699 to R704) -/

/-- R700, R701: one certificate, for a role and an issuer's key. -/
def certOk (c : List Byte) (role : Nat) (issuer : List Byte) : Bool :=
  decide (recField c 0 4 = 0x43450001) && decide (recField c 4 1 = role) && decide (recBytes c 16 8 = shake256 8 issuer)
    && edVerify issuer (c.take 142) (recBytes c 142 114)

/-- R701: a chain of 512 bytes is valid for a public key. -/
def chainOk (chain key : List Byte) : Bool :=
  let d := chain.take 256
  let i := (chain.drop 256).take 256
  decide (recBytes d 24 57 = key) && certOk d 3 (recBytes i 24 57) && certOk i 2 Config.rootKey

def ownChain : List Byte := (List.range 512).map Config.certChain

/-- R702: IMAGE_MEAS. -/
def imageMeas (nv : NonVol) (m : Dev) : List Byte :=
  if m.sys.st = .minimal then
    let h := flashHead nv
    if recField h 0 4 = 0x494D0001 then shake256 32 h else zeros 32
  else shake256 32 (match m.sys.imageHead with | some h => h | none => (List.range 1280).map Config.shippedHead)

/-- R703: the report. -/
def attestReport (nv : NonVol) (m : Dev) (part : Nat) (nonce : List Byte) (jobId : Nat) : List Byte :=
  let min' := decide (m.sys.st = .minimal)
  let j := (optJob jobId).bind (jobById m)
  leBytes 4 0x41540001 ++ leBytes 2 1 ++ leBytes 1 (stateCode m.sys.st)
    ++ leBytes 1 (b2n min' + 2 * b2n (decide (m.power.freqMode = 1)) + 4 * b2n j.isSome) ++ leBytes 4 idPart
    ++ leBytes 4 (if min' then 0 else m.sys.fwVersion) ++ leBytes 4 (if min' then 0 else m.sys.svn) ++ leBytes 1 nv.minSvn ++ leBytes 1 nv.revoked
    ++ leBytes 1 (failedStarts nv m) ++ leBytes 1 part ++ leBytes 8 m.ctl.localStroke ++ padTo 32 nonce ++ (List.range 32).map Config.romMeas
    ++ imageMeas nv m ++ padTo 32 m.sys.configMeas ++ leBytes 4 m.sys.configCount ++ leBytes 4 (match j with | some p => p.2.id | none => 0)
    ++ padTo 32 (match j with | some p => p.2.meas | none => []) ++ leBytes 4 (match j with | some p => p.2.measCount | none => 0) ++ zeros 4
    ++ (if min' then zeros 8 else mapDigest m) ++ recBytes ownChain 8 8 ++ zeros 32

/-- ATTEST: the report goes to the identity engine. The third part of a request of the engine keeps STROKE_KIND and the
stroke of the measurements. -/
def specAttest (nv : NonVol) (mb : Nat) (nonce : List Byte) (jobId : Nat) : CmdSpec where
  cmd := .attest mb nonce jobId
  opcode := 0x0A10
  mb := mb
  job := optJob jobId
  apply := fun m => { m := m, body := attestReport nv m (mb / 32) nonce jobId }

/-- ATTEST is accepted or refused; it waits for no boundary. -/
def attest (mb : Nat) (nonce : List Byte) (jobId : Nat) (nv : NonVol) (m : Dev) : Dev :=
  let c := specAttest nv mb nonce jobId
  if unreached m c.opcode mb then m
  else match acceptErr c m with
  | some e => answerNow c m e.status (errBody c m e)
  | none =>
    let st := specStream c m
    let report := attestReport nv (reported c m) (mb / 32) nonce jobId
    updSys m (fun s => { s with signing := s.signing ++ [(report, some mb, b2n st.isSome + 2 * strokeOf m st)] })

def execAttest (mb : Nat) (nonce : List Byte) (jobId : Nat) (s : State) : Host.Outcome State Fault Refusal :=
  onNvRead (.attest mb nonce jobId) (attest mb nonce jobId) s

/-- The Ed448 signature of the identity engine. -/
def identitySignature (payload : List Byte) : List Byte := (List.range 114).map (Config.identitySign payload)

/-- IDENTITY_SIGNATURE_DONE (R699): the oldest request has its signature: the ATTEST reply is written, or the TAKEOVER
goes to its spare (R602). -/
def signatureDone (m : Dev) : Dev :=
  match m.sys.signing with
  | [] => m
  | (p, who, x) :: rest =>
    let m := updSys m (fun s => { s with signing := rest })
    match who with
    | some mb => writeReply m { mb := mb, status := 0, body := p ++ identitySignature p ++ zeros 14 ++ ownChain, slot := none, due := 0, kind := x % 2
                                accept := x / 2, done := x / 2, stretch := false, jobId := recField p 164 4 }
    | none => sendControl m x (padTo 256 (p ++ identitySignature p))

def execIdentitySignatureDone (s : State) : Host.Outcome State Fault Refusal := onDev .identitySignatureDone signatureDone s

/-! ### BOOT_STATUS (R705) -/

def sessionCode (m : Dev) : Nat := match m.sys.session with | none => 0 | some x => if x.committing then 2 else 1

/-- The register BOOT_STATUS. -/
def bootStatusReg (nv : NonVol) (m : Dev) : Nat :=
  (lastFailed nv m).1 + (sat 4 (failedStarts nv m) <<< 16) + (sessionCode m <<< 20) + (b2n (decide (m.sys.st = .minimal)) <<< 22)
    + (nv.minSvn <<< 24) + (nv.revoked <<< 32)

/-- BOOT_STATUS. -/
def specBootStatus (nv : NonVol) (mb : Nat) : CmdSpec where
  cmd := .bootStatus mb
  opcode := 0x0B90
  mb := mb
  query := true
  apply := fun m =>
    { m := m
      body := leBytes 2 (lastFailed nv m).1 ++ leBytes 2 (lastFailed nv m).2 ++ leBytes 1 (failedStarts nv m) ++ leBytes 1 (sessionCode m)
        ++ leBytes 1 nv.minSvn ++ leBytes 1 nv.revoked ++ leBytes 4 (lastSeq nv) ++ leBytes 2 m.sys.failedReason ++ zeros 2
        ++ padTo 256 ((nv.records.reverse.take 8).flatMap recordBytes) }

def execBootStatus (mb : Nat) (s : State) : Host.Outcome State Fault Refusal :=
  onNvRead (.bootStatus mb) (fun nv => runCmd (specBootStatus nv mb)) s

end Sys2Proof.Machine
end

