-- ==== Sys2Proof/Machine/Jobs.lean ====
section
/-! DEFINITION. Sys2Proof/Machine/Jobs.lean: job slots (chapter 02): binding and joining, the job commands, the end of a
job, and the partition reset (R674). -/

namespace Sys2Proof.Machine

/-! ### Trees and joins (R67, R85, R458, R469) -/

/-- The trees of a job on which this module is a member. -/
def jobTrees (m : Dev) (jobId : Nat) : List TreeEntry := m.net.trees.filter (fun e => isMember e && decide (e.jobId = jobId))

/-- The tree whose root this module is for a job: the one it has taken over, or the lowest (DESIGN CHOICE, log entry 23). -/
def originTree (m : Dev) (j : Job) : Option TreeEntry :=
  match j.tree with
  | some t => treeOf m t
  | none => (jobTrees m j.id).find? (fun e => decide (e.up = 0xFF))

/-- The combined join count of a tree: the latest counts of its DOWN links, and this module's own join once its job is bound
here. -/
def joinCount (m : Dev) (e : TreeEntry) : Nat :=
  sat 16 ((bitsOf 32 e.down).foldl (fun n l => n + tget 0 m.net.joins (e.tree * 32 + l)) 0 + b2n (isMember e && (jobById m e.jobId).isSome))

/-- R67: a depth D in hops for a tree with children, from 1 to the 16 of R470: what lies below the children is not this module's to
see, a free value. -/
def treeDepth (m : Dev) (e : Option TreeEntry) : Nat × Dev :=
  match e with
  | some e => if e.down = 0 then (0, m) else (1 + (drawFree m 32).1 % 16, (drawFree m 32).2)
  | none => (0, m)

/-- R67: the longest flight F measured on a tree: at least that of each of this module's own links of it, and at most the 1,400
cycles of R470 beyond them; the links below are a free value. -/
def treeFlight (m : Dev) (e : Option TreeEntry) : Nat × Dev :=
  match e with
  | some e => ((bitsOf 32 e.down).foldl (fun n l => max n (linkAt m l).flight) ((drawFree m 32).1 % 1401), (drawFree m 32).2)
  | none => (0, m)

/-- R67, R471: all members have joined: the origin computes its minimum margin. -/
def originJoined (js : Nat) (m : Dev) : Dev :=
  match jobAt m js with
  | none => m
  | some j =>
    if j.isOrigin ∧ !j.started ∧ j.joined = j.members ∧ j.minMargin = 0 then
      let d := treeDepth m (originTree m j)
      let f := treeFlight d.2 (originTree m j)
      let depth := d.1
      let least := 2 * depth * (4 + f.1) + 256
      let m := updJob f.2 js (fun j => { j with minMargin := least, margin := max j.cfgMargin least })
      if periodCycles j.periodK / 2 < least then
        raiseJob m js 0x0B63 0 (leBytes 2 (match originTree m j with | some e => e.tree | none => 0xFFFF) ++ leBytes 1 depth ++ zeros 1
          ++ leBytes 4 least ++ leBytes 4 (periodCycles j.periodK))
      else m
    else m

/-- R471: the origin may send FIRST_STROKE. -/
def mayStart (j : Job) : Bool :=
  j.isOrigin && !j.started && decide (j.joined = j.members) && decide (j.minMargin ≠ 0) && decide (j.minMargin ≤ periodCycles j.periodK / 2)

/-- R85: the combined count of a tree goes up, or stands at the origin. -/
def sendJoin (m : Dev) (e : TreeEntry) : Dev :=
  let n := joinCount m e
  if e.up ≤ 31 then sendFlit m e.up (.join e.tree n)
  else match jobById m e.jobId with
    | some (js, j) =>
      if isMember e ∧ (originTree m j).map (·.tree) = some e.tree then originJoined js (updJob m js (fun j => { j with joined := n })) else m
    | none => m

/-- JOIN_FLIT (R85, R458). A change of the combined count goes up at once, also before JOB_CREATE has bound the job here, then without
an own join: the count that R85 has a module keep is told "whenever the combined count changes" (DESIGN CHOICE, log entry 23). -/
def joinFlit (link tree joined : Nat) (m : Dev) : Dev :=
  if !forwarding m ∨ !linkUp (linkAt m link) then m
  else match treeOf m tree with
  | none => updLink m link (fun k => { k with noTree := sat 4 (k.noTree + 1) })
  | some e =>
    if bitOf e.down link then
      let old := joinCount m e
      let m := updNet m (fun n => { n with joins := tset 0 n.joins (tree * 32 + link) joined })
      if joinCount m e = old then m else sendJoin m e
    else m

def execJoinFlit (link tree joined : Nat) (s : State) : Host.Outcome State Fault Refusal :=
  onDev (.joinFlit link tree joined) (joinFlit link tree joined) s

/-! ### Binding and unbinding (R55, R82, R85) -/

/-- The lowest free job slot. -/
def freeSlot (m : Dev) : Option Nat := (List.range 16).find? (fun s => (jobAt m s).isNone)

/-- R233, R729: the generator table takes two segments on HS(2d) of each die of the partition; when they are not there
the job is bound without them (DESIGN CHOICE, log entry 23). -/
def generatorsAlloc (js part : Nat) (m : Dev) : Dev :=
  match allocate m part (some js) .generators ((bitsOf 8 (partAt m part).dies).map (fun d => (2 * d, 2))) with
  | .ok (m', _) => m'
  | .error _ => m

/-- A job is bound to a slot; its join goes up. A job of one member is joined with that. -/
def bindJob (js : Nat) (j : Job) (m : Dev) : Dev :=
  let m := { m with jobs := tput m.jobs js j }
  let m := updSys m (fun s => { s with st := if s.st = .ready then .active else s.st, spare := none })
  let m := (jobTrees m j.id).foldl sendJoin (generatorsAlloc js j.part m)
  if j.isOrigin ∧ j.members = 1 then originJoined js (updJob m js (fun j => { j with joined := 1 })) else m

/-- Every stroke program of a job ends, and the queues of its units drop what they hold for it (R598, R674). -/
def endPrograms (js : Nat) (m : Dev) : Dev :=
  let ve := fun (v : VEngine) => { v with
    teams := tkeep v.teams (fun _ t => decide (t.job ≠ js)), atoms := v.atoms.filter (fun a => decide (a.job ≠ js)), atomUsed := tdel v.atomUsed js }
  let arr := fun (a : MArray) => if a.job = some js then { a with queue := [], held := [], done := [], job := none } else a
  let dma := fun (d : Dma) => { d with queue := d.queue.filter (fun o => decide (o.job ≠ js)) }
  { m with
    ves := tmap m.ves (fun _ v => ve v)
    arrays := tmap m.arrays (fun _ a => arr a)
    dmas := tmap m.dmas (fun _ d => if d.job = some js then { dma d with done := [], job := none } else dma d)
    posted := tmap m.posted (fun _ l => l.filter (fun p => decide (p.job ≠ js)))
    atts := tmap m.atts (fun _ a => { a with
      banks := a.banks.filter (fun b => decide (b.job ≠ js)), moves := if a.banks.head?.map (·.job) = some js then [] else a.moves })
    atms := tmap m.atms (fun _ a => { a with banks := a.banks.filter (fun b => decide (b.job ≠ js)) }) }

/-- JOB_ENERGY (R634). -/
def energyEvent (j : Job) (m : Dev) : Dev :=
  queueEvent m none { etype := 0x0906, part := j.part, jobId := j.id, stroke := m.ctl.localStroke
                      payload := leBytes 4 j.id ++ zeros 4 ++ leBytes 8 (milli j.energy) ++ leBytes 8 (milli j.primeEnergy) }

/-- What waits in a job's stream when it ends goes over to the local stroke; a copy that has not completed is void, and the buckets
it read return (R129). -/
def streamEnds (js : Nat) (m : Dev) : Dev :=
  let gone := m.ctl.waits.filter (fun w => decide (w.reply.slot = some js))
  let m := gone.foldl (fun m w => endBuckets m w.reply.mb) m
  let m := updCtl m (fun c => { c with
    evq := c.evq.map (fun e => if e.1 = some js then (none, e.2) else e)
    replies := (c.replies.map (fun r => if r.slot = some js then { r with slot := none, due := c.localStroke } else r))
      ++ gone.map (fun w => { w.reply with status := 0x1001, body := zeros 32, slot := none, due := c.localStroke })
    waits := c.waits.filter (fun w => decide (w.reply.slot ≠ some js)) })
  { m with seen := tdel m.seen js }

/-- R55: the module enters READY with its last job gone: the local stroke is numbered from 0 again, and what the end of the present
local stroke is to write is due at the end of stroke 0. -/
def enterReady (m : Dev) : Dev :=
  updCtl (updSys m (fun s => { s with st := .ready })) (fun c => { c with
    localStroke := 0
    replies := c.replies.map (fun r => if r.slot = none then { r with due := 0 } else r)
    waits := c.waits.map (fun w => if w.reply.slot = none then { w with reply := { w.reply with due := 0 } } else w)
    holds := c.holds.map (fun h => match h.due with | some (none, _) => { h with due := some (none, 0) } | _ => h) })

/-- A job slot becomes free, and everything that the module holds for its job with it. WH_STROKE_CFG of the slot shows again what it
showed before the job, and WH_STROKE_COUNT reads 0 (DESIGN CHOICE, log entry 23: the spec says nothing of either). -/
def unbindJob (js : Nat) (m : Dev) : Dev :=
  match jobAt m js with
  | none => m
  | some j =>
    let m := endPrograms js (energyEvent j m)
    let m := returnBanks (genForget js m) (fun _ b => b.jobValid && decide (b.jobSlot = js))
    let m := streamEnds js (freeFlags m (fun _ f => decide (f.jobSlot = js)))
    let m := updMem m (fun x => releaseAllocs x (fun a => decide (a.job = some js)))
    let m := updMem m (fun x => { x with aq := { x.aq with extents := tmap x.aq.extents (fun _ e => if e.job = some js then { e with job := none } else e) } })
    let m := updNet m (fun n => { n with windows := tkeep n.windows (fun _ w => decide (w.job ≠ js)) })
    let m := updPart m j.part (fun p => { p with pastEnergy := p.pastEnergy + j.energy })
    let m := { m with
      groups := tkeep m.groups (fun k _ => decide (k / 65536 ≠ js)), colls := m.colls.filter (fun c => decide (c.slot ≠ js))
      posts := m.posts.filter (fun c => decide (c.slot ≠ js)), jobs := tdel m.jobs js }
    if m.jobs.isEmpty then enterReady m else m

/-! ### Commands -/

/-- JOB_CREATE. Its boundary waits while an array self-test runs (R187). -/
def specJobCreate (mb jobId partition periodK stretchLimit priority voteMargin self origin members firstStroke jobSeed : Nat) : CmdSpec where
  cmd := .jobCreate mb jobId partition periodK stretchLimit priority voteMargin self origin members firstStroke jobSeed
  opcode := 0x0301
  mb := mb
  jobTimed := false
  sec := fun _ => ensure (decide (partition = mb / 32)) 0x7001
  par := fun m => ensure (decide (jobId ≠ 0) && decide (4 ≤ periodK ∧ periodK ≤ 12) && decide (1 ≤ stretchLimit) && decide (stretchLimit ≤ 255)
    && decide (priority ≤ 1) && decide (256 ≤ voteMargin) && decide (voteMargin ≤ periodCycles periodK / 2) && decide (1 ≤ members)
    && decide (m.net.position = some self)) 0x2003
  sta := fun m => ensure (jobById m jobId).isNone 0x1004
  apply := fun m => match freeSlot m with
    | none => { m := m, status := 0x3003 }
    | some js =>
      { m := bindJob js { id := jobId, part := partition, periodK := periodK, margin := voteMargin, cfgMargin := voteMargin, stretchLimit := stretchLimit
                          fill := decide (priority = 1), isOrigin := decide (origin = self), self := self, origin := origin, members := members
                          firstStroke := firstStroke, seed := jobSeed } m
        body := leBytes 1 js ++ zeros 7 }

def execJobCreate (mb jobId partition periodK stretchLimit priority voteMargin self origin members firstStroke jobSeed : Nat) (s : State) :
    Host.Outcome State Fault Refusal :=
  onCmd (specJobCreate mb jobId partition periodK stretchLimit priority voteMargin self origin members firstStroke jobSeed) s

def haltCode : HaltCause → Nat | .none => 0 | .commanded => 1 | .recoveryFailed => 2

/-- JOB_STATUS. -/
def specJobStatus (mb jobId : Nat) : CmdSpec where
  cmd := .jobStatus mb jobId
  opcode := 0x0302
  mb := mb
  job := some jobId
  query := true
  apply := fun m => match jobById m jobId with
    | none => { m := m }
    | some (_, j) =>
      { m := m
        body := leBytes 1 (phaseCode j.phase) ++ leBytes 1 (haltCode j.haltCause) ++ leBytes 1 j.periodK ++ zeros 1 ++ leBytes 2 j.margin
          ++ leBytes 2 j.origin ++ leBytes 4 j.epoch ++ leBytes 4 j.turnNumber ++ leBytes 8 (j.stroke - 1) ++ leBytes 8 j.stretchedCount
          ++ leBytes 8 j.stretchPeriods ++ leBytes 8 j.ownVotes ++ leBytes 8 j.lastStretch ++ leBytes 2 j.lastVoter ++ leBytes 2 j.joined ++ zeros 4 }

def execJobStatus (mb jobId : Nat) (s : State) : Host.Outcome State Fault Refusal := onCmd (specJobStatus mb jobId) s

/-- JOB_HALT. -/
def specJobHalt (mb jobId : Nat) : CmdSpec where
  cmd := .jobHalt mb jobId
  opcode := 0x0303
  mb := mb
  job := some jobId
  jobWide := true
  stretch := true
  phases := some [.idle, .generate, .learn]
  apply := fun m => match jobById m jobId with
    | none => { m := m }
    | some (js, j) =>
      { m := updJob (if j.phase = .generate then genLeave js m else m) js (fun j => { j with phase := .halted, haltCause := .commanded, beforeHalt := j.phase }) }

def execJobHalt (mb jobId : Nat) (s : State) : Host.Outcome State Fault Refusal := onCmd (specJobHalt mb jobId) s

/-- JOB_RESUME: OBJECT_STATE gives HALT_CAUSE. -/
def specJobResume (mb jobId : Nat) : CmdSpec where
  cmd := .jobResume mb jobId
  opcode := 0x0304
  mb := mb
  job := some jobId
  jobWide := true
  stretch := true
  sta := fun m => match jobById m jobId with
    | some p => ensure (decide (p.2.phase = .halted) && decide (p.2.haltCause = .commanded)) 0x1001 (haltCode p.2.haltCause)
    | none => none
  apply := fun m => match jobById m jobId with
    | none => { m := m }
    | some (js, _) => { m := updJob m js (fun j => { j with phase := j.beforeHalt, haltCause := .none }) }

def execJobResume (mb jobId : Nat) (s : State) : Host.Outcome State Fault Refusal := onCmd (specJobResume mb jobId) s

/-- JOB_DESTROY. -/
def specJobDestroy (mb jobId : Nat) : CmdSpec where
  cmd := .jobDestroy mb jobId
  opcode := 0x0305
  mb := mb
  job := some jobId
  phases := some [.idle, .halted]
  apply := fun m => match jobById m jobId with
    | none => { m := m }
    | some (js, _) => { m := unbindJob js m }

def execJobDestroy (mb jobId : Nat) (s : State) : Host.Outcome State Fault Refusal := onCmd (specJobDestroy mb jobId) s

/-! ### PARTITION_RESET (R674 to R676) -/

/-- R674 items 1 to 6. -/
def partitionReset (p mb : Nat) (m : Dev) : Dev :=
  let js := (m.jobs.filter (fun j => decide (j.2.part = p))).map (·.1)
  let boxes := (List.range 256).filter (fun k => decide (k / 32 = p) && decide (k ≠ mb) && (mbOwned m k || takenIn m k))
  let colls' := (m.colls.filter (fun c => decide (c.slot ∈ js))).length
  let kept := (m.mem.grants.filter (fun g => decide (g.part = p))).length
  let told := leBytes 1 p ++ leBytes 1 js.length ++ leBytes 2 boxes.length ++ leBytes 4 colls' ++ leBytes 2 kept
  let m := js.foldl (fun m j => endPrograms j m) m
  let m := js.foldl (fun m j => collAbortJob j m) m
  let lost := answerLost 0x6003 (fun k => decide (k / 32 = p) && decide (k ≠ mb) && (mbOwned m k || takenIn m k)) m
  let m := js.foldl (fun m j => unbindJob j m) lost
  let mine := fun (k : Nat) => decide (k / 32 = p ∧ k ≠ mb)
  let m := updCtl m (fun c => { c with
    accepted := c.accepted.filter (fun a => !mine a.mb), replies := c.replies.filter (fun r => !mine r.mb)
    waits := c.waits.filter (fun w => !mine w.reply.mb), flips := c.flips.filter (fun k => !mine k), waiting := c.waiting.filter (fun a => !mine a.mb) })
  let m := { m with jobs := tmap m.jobs (fun _ j => match j.jobWide with
    | some a => if mine a.mb then { j with jobWide := none } else j
    | none => j) }
  let m := updSys m (fun s => { s with
    deferredReset := s.deferredReset.filter (fun d => !mine d.1)
    signing := s.signing.filter (fun x => match x.2.1 with | some k => !mine k | none => true) })
  let m := freeFlags m (fun _ f => decide (f.part = p))
  let m := (bitsOf 8 (partAt m p).dies).foldl (fun m d => dieUnitsOff d m) m
  let m := returnBanks m (fun d _ => bitOf (partAt m p).dies d)
  let m := raisePart m 0 0x0105 0 told
  let m := if p = 0 then m else raisePart m p 0x0105 0 told
  updPart m p (fun x => { x with resetting := true, resets := sat 16 (x.resets + 1) })

/-- PARTITION_RESET. -/
def specPartitionReset (mb partition : Nat) : CmdSpec where
  cmd := .partitionReset mb partition
  opcode := 0x0111
  mb := mb
  sec := fun _ => ensure (decide (mb / 32 = 0) || decide (partition = mb / 32)) 0x7001
  par := fun m => ensure (decide (partition < 8) && (partAt m partition).configured) 0x2003
  sta := fun m => ensure (!(partAt m partition).resetting) 0x1007
  apply := fun m => { m := partitionReset partition mb m }

def execPartitionReset (mb partition : Nat) (s : State) : Host.Outcome State Fault Refusal := onCmd (specPartitionReset mb partition) s

/-- R676: the local stroke in which a reset took effect closes. -/
def resetsDone (m : Dev) : Dev :=
  (List.range 8).foldl (fun m p => if (partAt m p).resetting then updPart m p (fun x => { x with resetting := false }) else m) m

end Sys2Proof.Machine
end

