-- ==== Sys2Proof/Machine/Recovery.lean ====
section
/-! DEFINITION. Sys2Proof/Machine/Recovery.lean: recovery and hot spares (chapter 15): the plan, reports and declarations,
the coordinator, the recovery items, takeovers, restoration, and the commands. -/

namespace Sys2Proof.Machine

def updRecov (m : Dev) (js : Nat) (f : Recov → Recov) : Dev := updJob m js (fun j => { j with recov := f j.recov })

/-! ### The plan (R588 to R590, R593) -/

/-- A delta set, and the bytes after it. -/
def readSet (l : List Byte) : Option (DeltaSet × List Byte) :=
  let nr := recField l 4 2
  let nt := recField l 6 2
  let ng := recField l 10 2
  let tAt := 16 + (4 * nr + 15) / 16 * 16
  let gAt := tAt + 16 * nt
  let stop := gAt + 8 * ng
  if l.length < 16 ∨ l.length < stop ∨ 1 < recField l 8 1 ∨ (recField l 8 1 = 1 ∧ ng ≠ 0) then none
  else some (
    { subject := recField l 0 2, spare := recField l 2 2, kind := recField l 8 1
      routes := (chunksOf 4 nr ((l.drop 16).take (4 * nr))).map (fun e => (recField e 0 2, recField e 2 2))
      trees := (chunksOf 16 nt ((l.drop tAt).take (16 * nt))).map treeEntry
      groups := (chunksOf 8 ng ((l.drop gAt).take (8 * ng))).map (fun e => (recField e 0 2, recField e 2 2, recField e 4 1)) },
    l.drop stop)

def readSets : Nat → List Byte → Option (List DeltaSet)
  | 0, _ => some []
  | n + 1, l => (readSet l).bind (fun x => (readSets n x.2).map (x.1 :: ·))

/-- A plan whose header and sets are in range. -/
def readPlan (l : List Byte) : Option Plan :=
  let ns := recField l 4 1
  let np := recField l 5 1
  let sets := recField l 24 8
  let certs := recField l 32 8
  if recField l 0 4 = 0x52500001 ∧ 1 ≤ ns ∧ ns ≤ 16 ∧ np ≤ 64 ∧ 2 ≤ recField l 6 1 ∧ 1 ≤ recField l 7 1 ∧ recField l 7 1 ≤ 8
      ∧ 64 + 128 * ns + 8 * np ≤ sets ∧ sets ≤ l.length ∧ certs + 512 * ns ≤ l.length then
    (readSets (recField l 12 4) (l.drop sets)).map (fun ss =>
      { succ := (chunksOf 128 ns ((l.drop 64).take (128 * ns))).map (fun e => (recField e 0 2, recField e 2 2, recBytes e 8 57))
        spares := (chunksOf 8 np ((l.drop (64 + 128 * ns)).take (8 * np))).map (fun e => (recField e 0 2, recField e 2 2, recField e 4 2))
        ackLimit := recField l 6 1, attempts := recField l 7 1, distGroup := recField l 8 2, sets := ss, digest := recField l 40 8 })
  else none

/-- Loads a plan from buckets: 0x2003, 0x4002 and 0x7004 as SPARE_ARM and RECOVERY_PLAN give them. -/
def loadPlan (m : Dev) (bs : List Nat) : Except Nat Plan :=
  let n := recField (bucketBytes m bs 64) 16 8
  if bs.length * segBytes < n then .error 0x2003
  else
    let l := bucketBytes m bs n
    match readPlan l with
    | none => .error 0x2003
    | some p =>
      if leBytes 8 p.digest ≠ shake256 8 ((l.take (recField l 24 8)).drop 64) then .error 0x4002
      else if !(List.zip (chunksOf 512 p.succ.length (l.drop (recField l 32 8))) p.succ).all (fun x => chainOk x.1 x.2.2.2) then .error 0x7004
      else .ok p

def succPositions (r : Recov) : List Nat := match r.plan with | some p => p.succ.map (·.1) | none => []

/-- R593: the coordinator of a job, as this member sees it. -/
def coordOf (j : Job) : Option Nat := (succPositions j.recov).find? (fun p => decide (p ∉ j.recov.passed))

def isCoord (j : Job) : Bool := decide (coordOf j = some j.self)

/-- The succession position that follows the coordinator. -/
def nextCoord (j : Job) : Option Nat :=
  (succPositions j.recov).find? (fun p => decide (p ∉ j.recov.passed) && decide (some p ≠ coordOf j))

/-- STROKE_TREE of a succession position. -/
def strokeTree (j : Job) (pos : Nat) : Option Nat :=
  j.recov.plan.bind (fun p => (p.succ.find? (fun e => decide (e.1 = pos))).map (·.2.1))

/-- R586: the members other than this one. A position that R616 has removed is none. -/
def otherMembers (j : Job) : List Nat := match j.recov.plan with
  | some p => ((p.sets.filter (fun s => decide (s.kind = 0))).map (·.subject)).eraseDups.filter
      (fun x => decide (x ≠ j.self) && decide (x ∉ j.recov.fenced))
  | none => []

/-- Failed positions that no spare has taken. -/
def unfilled (r : Recov) : List Nat := r.failed.filter (fun p => decide (p ∉ r.replaced.map (·.1)))

/-- The members that are not failed. -/
def liveOthers (j : Job) : List Nat := (otherMembers j).filter (fun p => decide (p ∉ unfilled j.recov))

/-- R596: the source of a recovery packet is a member or an armed spare of the job. -/
def knownSource (j : Job) (src : Nat) : Bool :=
  decide (src ∈ otherMembers j) || (match j.recov.plan with | some p => decide (src ∈ p.spares.map (·.1)) | none => false)

/-- The frame of a recovery packet for a bound job. -/
def onPacket (js src : Nat) (f : Job → Dev → Dev) (m : Dev) : Dev :=
  match jobAt m js with
  | none => m
  | some j => if !forwarding m then m else if knownSource j src then f j m else discardPacket src m

/-! ### Fencing (R590, R597) -/

/-- Applies one delta set: its routes and its trees. -/
def applySet (s : DeltaSet) (m : Dev) : Dev :=
  updNet m (fun n => { n with routes := s.routes.foldl (fun t e => tset 0 t e.1 (e.2 % 4096)) n.routes, trees := s.trees.foldl putTree n.trees })

def applySets (js kind subject spare : Nat) (m : Dev) : Dev :=
  match (jobAt m js).bind (·.recov.plan) with
  | none => m
  | some p => (p.sets.filter (fun s => decide (s.kind = kind ∧ s.subject = subject ∧ s.spare = spare))).foldl (fun m s => applySet s m) m

/-- R597: the detour set of a failed position, and its links disabled. -/
def fence (js pos : Nat) (m : Dev) : Dev :=
  (List.range 32).foldl (fun m l =>
    let k := linkAt m l
    if k.enabled ∧ k.peerValid ∧ k.peerPos = pos then linkDown l (updLink m l (fun k => { k with enabled := false })) else m)
    (applySets js 0 pos 0 m)

/-! ### Notices and declarations (R586, R587, R597, R614) -/

/-- NOTICE to every live member, at most 20 positions a packet; one at least. -/
def sendNotices (js : Nat) (m : Dev) : Dev :=
  match jobAt m js with
  | none => m
  | some j =>
    let fs := unfilled j.recov
    let parts := if fs.isEmpty then [[]] else chunksOf 20 ((fs.length + 19) / 20) fs
    let m := (liveOthers j).foldl (fun m dest => parts.foldl (fun m p =>
      sendControl m dest (recoveryPayload j 0x21 j.recov.attempt 64 (leBytes 1 p.length ++ leBytes 2 j.self) (p.flatMap (leBytes 2)))) m) m
    updRecov m js (fun r => { r with
      stage := 1, acks := [], expected := liveOthers j, chosen := [], spareUps := [], configured := [], restored := [], next := none
      noticeSent := decide (j.phase ≠ .idle ∧ j.phase ≠ .halted), done := false, spreading := false, noticed := none, tookPhase := 0 })

/-- The status class of RECOVERY_DONE as the FAILED item carries it (R599, R614, R620). -/
def classStatus (k : Nat) : Nat := match k with | 3 => 0x3005 | 4 => 0x4004 | 5 => 0x5005 | _ => 0x1009

/-- R614: the next attempt, or the end of the recovery. -/
def nextAttempt (js : Nat) (m : Dev) : Dev :=
  match jobAt m js with
  | none => m
  | some j =>
    let most := match j.recov.plan with | some p => p.attempts | none => 0
    if most ≤ j.recov.attempt then
      updRecov m js (fun r => { r with noticeSent := false, next := some { action := 5, kind := r.lastCause, attempt := r.attempt, generation := r.generation } })
    else sendNotices js (endFetch js (updRecov m js (fun r => { r with attempt := r.attempt + 1 })))

/-- R586, R597: the coordinator declares a position failed. -/
def declareFailed (js pos cause : Nat) (m : Dev) : Dev :=
  match jobAt m js with
  | none => m
  | some j =>
    if pos ∈ unfilled j.recov then m
    else
      let attempt := if j.recov.attempt = 0 then 1 else j.recov.attempt
      let m := updRecov m js (fun r => { r with
        failed := r.failed.filter (fun p => decide (p ≠ pos)) ++ [pos], replaced := r.replaced.filter (fun x => decide (x.1 ≠ pos))
        passed := if pos ∈ r.passed then r.passed else r.passed ++ [pos], attempt := attempt })
      let m := raiseJob m js 0x0703 0 (leBytes 2 pos ++ leBytes 1 cause ++ leBytes 1 attempt ++ leBytes 2 j.self)
      let m := fence js pos m
      if j.phase = .recovering then nextAttempt js m else sendNotices js m

/-- A REPORT at the position that it is addressed to (R586, R594). -/
def takeReport (js cause subject : Nat) (m : Dev) : Dev :=
  match jobAt m js with
  | none => m
  | some j =>
    let m := updRecov m js (fun r => { r with recorded := if (cause, subject) ∈ r.recorded then r.recorded else r.recorded ++ [(cause, subject)] })
    if (cause = 3 ∨ cause = 4 ∨ cause = 6 ∨ cause = 7) ∧ some subject = coordOf j ∧ nextCoord j = some j.self then
      updRecov m js (fun r => { r with claim := true })
    else if isCoord j ∧ subject ∈ otherMembers j ∧ (cause = 2 ∨ (4 ≤ cause ∧ cause ≤ 7)) then declareFailed js subject cause m
    else m

/-- REPORT_RECEIVE. -/
def execReportReceive (slot src cause subject : Nat) (s : State) : Host.Outcome State Fault Refusal :=
  onDev (.reportReceive slot src cause subject) (onPacket slot src (fun _ => takeReport slot cause subject)) s

/-- R585, R594: sends a REPORT. One that says that the coordinator is lost goes to the position after it. -/
def sendReport (js cause subject : Nat) (m : Dev) : Dev :=
  match jobAt m js with
  | none => m
  | some j =>
    let dest := if (cause = 3 ∨ cause = 4 ∨ cause = 6 ∨ cause = 7) ∧ some subject = coordOf j then nextCoord j else coordOf j
    match dest with
    | none => m
    | some d =>
      let m := if cause = 3 then updRecov m js (fun r => { r with addressed := some d }) else m
      if d = j.self then takeReport js cause subject m
      else sendControl m d (recoveryPayload j 0x20 j.recov.attempt 64 (leBytes 1 cause ++ leBytes 2 subject) [])

/-- R459: one REPORT of cause 4 per job and declared position. -/
def reportDeclared (pos : Nat) (m : Dev) : Dev :=
  m.jobs.foldl (fun m p =>
    if pos ∈ p.2.recov.reported then m
    else sendReport p.1 4 pos (updRecov m p.1 (fun r => { r with reported := r.reported ++ [pos] }))) m

/-- LINK_LOST_TIMEOUT (R585, cause 5). -/
def linkLost (l : Nat) (m : Dev) : Dev :=
  let k := linkAt m l
  if linkUp k ∨ !k.peerValid then m
  else m.jobs.foldl (fun m p =>
    if k.peerPos ∈ otherMembers p.2 ∧ k.peerPos ∉ unfilled p.2.recov then sendReport p.1 5 k.peerPos m else m) m

def execLinkLostTimeout (link : Nat) (s : State) : Host.Outcome State Fault Refusal := onDevW (wfLinkLostTimeout link) (linkLost link) s

/-! ### The coordinator changes (R594, R595) -/

/-- COORDINATOR_TAKEOVER: the next position takes the role, its next boundary skipping a count. -/
def coordinatorTakeover (js : Nat) (m : Dev) : Dev :=
  match jobAt m js with
  | none => m
  | some j =>
    match coordOf j with
    | none => m
    | some old =>
      if j.recov.claim ∧ nextCoord j = some j.self then
        let m := updJob m js (fun j => { j with
          isOrigin := true, origin := j.self, tree := strokeTree j j.self, joined := j.members
          recov := { j.recov with claim := false, addressed := none, skip := true, passed := j.recov.passed ++ [old] } })
        declareFailed js old 3 m
      else m

def execCoordinatorTakeover (slot : Nat) (s : State) : Host.Outcome State Fault Refusal :=
  onDev (.coordinatorTakeover slot) (coordinatorTakeover slot) s

/-- REPORT_ORIGIN_TIMEOUT (R595). -/
def reportOriginTimeout (js : Nat) (m : Dev) : Dev :=
  match jobAt m js with
  | none => m
  | some j =>
    match j.recov.addressed, coordOf j with
    | some a, some c =>
      sendReport js 3 c (updRecov m js (fun r => { r with addressed := none, passed := if a ∈ r.passed then r.passed else r.passed ++ [a] }))
    | _, _ => m

def execReportOriginTimeout (slot : Nat) (s : State) : Host.Outcome State Fault Refusal :=
  onDev (.reportOriginTimeout slot) (reportOriginTimeout slot) s

/-- The step in progress has applied its verdict (BUSY_VERDICT). -/
def busyVerdict (j : Job) : Bool := j.learn.commitAt.isSome

/-- What a member holds for its HELD_FOR sender (R596). -/
def ownAck (j : Job) : AckInfo :=
  let s := j.secure
  let hold := fun (i : Nat) => let h := holdAt s i; if h.st = .complete then (h.gen, h.stepNext) else (0, 0)
  { src := j.self, flags := b2n (busyVerdict j), holdGen := [(hold 0).1, (hold 1).1], aqGen := [tget 0 s.aqGen 0, tget 0 s.aqGen 1]
    holdStep := [(hold 0).2, (hold 1).2], aqStep := [tget 0 s.aqStep 0, tget 0 s.aqStep 1] }

/-- ACK. -/
def sendAck (js dest : Nat) (m : Dev) : Dev :=
  match jobAt m js with
  | none => m
  | some j =>
    let a := ownAck j
    sendControl m dest (recoveryPayload j 0x22 j.recov.attempt 128 (leBytes 1 a.flags)
      (a.holdGen.flatMap (leBytes 4) ++ a.aqGen.flatMap (leBytes 4) ++ a.holdStep.flatMap (leBytes 8) ++ a.aqStep.flatMap (leBytes 8)))

/-- The place of a position in the succession. -/
def succRank (j : Job) (pos : Nat) : Nat := (succPositions j.recov).findIdx (fun p => decide (p = pos))

/-- NOTICE_RECEIVE (R595, R597, R614). -/
def takeNotice (js src attempt coordinator : Nat) (failed : List Nat) (j : Job) (m : Dev) : Dev :=
  let later := fun (c : Nat) => decide (succRank j c < succRank j coordinator)
  let older : Bool := match j.recov.noticed with | some c => later c | none => false
  if coordinator ∉ succPositions j.recov ∨ src ≠ coordinator ∨ j.self ∈ failed ∨ attempt < j.recov.attempt
      ∨ (isCoord j && later j.self) ∨ older then m
  else
    let before := (succPositions j.recov).take (succRank j coordinator)
    let moved := decide (coordOf j ≠ some coordinator ∨ j.origin ≠ coordinator)
    let m := updJob m js (fun j => { j with
      isOrigin := false, origin := coordinator, tree := if moved then strokeTree j coordinator else j.tree
      recov := { j.recov with
        failed := (j.recov.failed.filter (fun p => decide (p ∉ failed))) ++ failed
        replaced := j.recov.replaced.filter (fun x => decide (x.1 ∉ failed))
        passed := (before ++ failed ++ j.recov.passed.filter (fun p => decide (p ≠ coordinator) && decide (p ∉ succPositions j.recov))).eraseDups
        attempt := attempt, noticed := some coordinator, addressed := none, claim := false, done := false, spreading := false
        noticeSent := false, acks := [], next := none, tookPhase := if j.recov.attempt < attempt then 0 else j.recov.tookPhase
        stage := if j.phase = .recovering then 1 else j.recov.stage } })
    let m := if j.recov.attempt < attempt then endFetch js m else m
    sendAck js coordinator (failed.foldl (fun m p => fence js p m) m)

def execNoticeReceive (slot src attempt coordinator : Nat) (failed : List Nat) (s : State) : Host.Outcome State Fault Refusal :=
  onDev (.noticeReceive slot src attempt coordinator failed) (onPacket slot src (takeNotice slot src attempt coordinator failed)) s

/-- ACK_RECEIVE. -/
def takeAck (js : Nat) (a : AckInfo) (attempt : Nat) (j : Job) (m : Dev) : Dev :=
  if isCoord j ∧ j.recov.stage = 1 ∧ attempt = j.recov.attempt ∧ a.src ∈ j.recov.expected ∧ a.src ∉ j.recov.acks.map (·.src) then
    updRecov m js (fun r => { r with acks := r.acks ++ [a] })
  else m

def execAckReceive (slot src attempt flags : Nat) (holdGen aqGen holdStep aqStep : List Nat) (s : State) : Host.Outcome State Fault Refusal :=
  onDev (.ackReceive slot src attempt flags holdGen aqGen holdStep aqStep)
    (onPacket slot src (takeAck slot { src, flags, holdGen, aqGen, holdStep, aqStep } attempt)) s

/-- Every NOTICE of the attempt has been acknowledged. -/
def allAcked (j : Job) : Bool := j.recov.expected.all (fun p => decide (p ∈ j.recov.acks.map (·.src)))

/-- ACK_LIMIT_TIMEOUT (R586). -/
def ackLimit (js pos : Nat) (m : Dev) : Dev :=
  match jobAt m js with
  | none => m
  | some j =>
    if isCoord j ∧ j.recov.stage = 1 ∧ pos ∈ j.recov.expected ∧ pos ∉ j.recov.acks.map (·.src) then declareFailed js pos 2 m else m

def execAckLimitTimeout (slot position : Nat) (s : State) : Host.Outcome State Fault Refusal :=
  onDev (.ackLimitTimeout slot position) (ackLimit slot position) s

/-! ### Choosing (R591, R606, R608) -/

/-- The phase that the recovery restores. -/
def phaseToRestore (j : Job) : Phase := match j.phase with
  | .recovering => j.recov.prevPhase
  | .turning => j.turn.prev
  | .halted => j.beforeHalt
  | p => p

/-- The first spare in plan order that covers a position and has not been used. -/
def spareFor (j : Job) (taken : List Nat) (pos : Nat) : Option Nat :=
  j.recov.plan.bind (fun p => (p.spares.find? (fun s => decide (s.2.1 ≤ pos ∧ pos < s.2.1 + s.2.2) && decide (s.1 ∉ j.recov.used)
    && decide (s.1 ∉ taken))).map (·.1))

/-- R591 for each failed position, in the order of the declarations. -/
def chooseSpares (j : Job) : List (Nat × Option Nat) :=
  (unfilled j.recov).foldl (fun l p => l ++ [(p, spareFor j (l.filterMap (·.2)) p)]) []

/-- An ACK reports a generation COMPLETE in a hold slot, or in an aquifer slot. -/
def inHold (a : AckInfo) (g : Nat) : Bool := a.holdGen.any (fun x => decide (x = g))
def inAquifer (a : AckInfo) (g : Nat) : Bool := a.aqGen.any (fun x => decide (x = g))

/-- An ACK reports, COMPLETE in a hold slot, the generation whose STEP_NEXT is this one. -/
def holdsStep (a : AckInfo) (step : Nat) : Bool := (List.zip a.holdGen a.holdStep).any (fun x => decide (x.1 ≠ 0 ∧ x.2 = step))

/-- STEP_NEXT of a generation, from the reports. -/
def genStep (as : List AckInfo) (g : Nat) : Nat :=
  ((as.flatMap (fun a => List.zip a.holdGen a.holdStep ++ List.zip a.aqGen a.aqStep)).find? (fun x => decide (x.1 = g))).elim 0 (·.2)

/-- The journal's LOSS of a step. -/
def journalLoss (j : Job) (step : Nat) : Option Nat :=
  (j.secure.journal.find? (fun e => decide (recField e 0 8 = step))).map (fun e => recField e 20 4)

/-- LAYOUT_DIGEST of the image that this member holds of a generation is that of the layout in force; what it does not
hold it cannot compare. -/
def digestFits (m : Dev) (js : Nat) (j : Job) (g : Nat) : Bool :=
  match j.secure.cfg, layoutOf j with
  | some c, some l =>
    !(inHold (ownAck j) g) || decide (recBytes (holdImage m js (holdSlotOf c g) 256) 64 8 = leBytes 8 l.digest)
  | _, _ => true

/-- R608: the newest generation that every position can be restored from. The ACKs do not say whose image a holder holds, so as
many holders must report it as the job has members (DESIGN CHOICE, log entry 20). -/
def rollbackGen (m : Dev) (js : Nat) (j : Job) : Option Nat :=
  let as := ownAck j :: j.recov.acks
  let gens := ((as.flatMap (fun a => a.holdGen ++ a.aqGen)).filter (fun g => decide (g ≠ 0))).eraseDups.mergeSort (fun a b => decide (b ≤ a))
  gens.find? (fun g =>
    decide (j.members ≤ (as.filter (fun a => inHold a g || inAquifer a g)).length) && digestFits m js j g
      && (as.all (fun a => inHold a g || !inAquifer a g) || (journalLoss j (genStep as g)).isSome))

/-- R606: KEEP is possible. Which holder holds which position's image the ACKs do not say: when only some of them report the
generation, or several positions have failed, whether the right ones do is a free value (log entry 20). -/
def keepPossible (j : Job) (m : Dev) : Bool × Dev :=
  let as := ownAck j :: j.recov.acks
  let n := (as.filter (fun a => holdsStep a j.learn.stepNext)).length
  if as.any (fun a => bitOf a.flags 0) ∨ n = 0 then (false, m)
  else if n = as.length ∧ j.recov.failed.length ≤ 1 then (true, m)
  else
    let f := drawFree m 1
    (decide (f.1 = 1), f.2)

/-- The generation of KEEP. -/
def keepGen (j : Job) : Nat :=
  ((List.zip (ownAck j).holdGen (ownAck j).holdStep ++ j.recov.acks.flatMap (fun a => List.zip a.holdGen a.holdStep)).find?
    (fun x => decide (x.1 ≠ 0 ∧ x.2 = j.learn.stepNext))).elim 0 (·.1)

/-- R598, R606: the ENTER item of the attempt. -/
def enterItem (js : Nat) (m : Dev) : Dev :=
  match jobAt m js with
  | none => m
  | some j =>
    let put := fun (kind gen : Nat) (m : Dev) =>
      updRecov m js (fun r => { r with next := some { action := 1, kind := kind, attempt := r.attempt, generation := gen } })
    if j.recov.byHost then
      match j.recov.source with
      | some s => put 3 s.2.1 m
      | none => put 3 j.recov.generation m
    else if phaseToRestore j = .generate then put 1 0 m
    else
      let k := keepPossible j m
      if k.1 then put 2 (keepGen j) k.2 else put 3 ((rollbackGen m js j).getD 0) k.2

/-- The RESTORE item: VERIFY and REF_LOSS under R613. -/
def restoreItem (js : Nat) (m : Dev) : Dev :=
  match jobAt m js with
  | none => m
  | some j =>
    let r := j.recov
    let as := ownAck j :: r.acks
    let loss := journalLoss j (genStep as r.generation)
    let deep := !r.byHost && decide (r.kind = 3) && !as.all (fun a => inHold a r.generation || !inAquifer a r.generation)
    let own := match r.source with | some (l, _, ref, un) => if r.byHost ∧ 2 ≤ l ∧ !un then some ref else none | none => none
    let v := if deep then loss else own
    updRecov m js (fun r => { r with next := some {
      action := 3, kind := r.kind, attempt := r.attempt, generation := r.generation, verify := v.isSome, refLoss := v.getD 0 } })

/-- R602: bytes 0 to 127 of a TAKEOVER. -/
def takeoverBytes (j : Job) (pos spare : Nat) : List Byte :=
  padTo 128 (leBytes 1 0x23 ++ zeros 3 ++ leBytes 4 j.id ++ leBytes 1 j.recov.attempt ++ leBytes 1 j.periodK ++ leBytes 1 j.stretchLimit
    ++ leBytes 1 (b2n j.fill) ++ leBytes 2 j.cfgMargin ++ leBytes 2 pos ++ leBytes 2 j.self ++ leBytes 2 j.members ++ leBytes 4 j.epoch
    ++ leBytes 8 j.stroke ++ leBytes 8 j.seed ++ leBytes 8 ((j.recov.plan.map (·.digest)).getD 0) ++ leBytes 2 spare
    ++ leBytes 1 (j.layoutNow.getD 0) ++ leBytes 1 (phaseCode (phaseToRestore j)) ++ leBytes 4 j.turnNumber)

/-- After the entry boundary the coordinator chooses spares and has their TAKEOVERs signed, or ends the recovery, or goes on
to restoration. -/
def afterEnter (js : Nat) (m : Dev) : Dev :=
  match jobAt m js with
  | none => m
  | some j =>
    let cs := chooseSpares j
    let fail := fun (k : Nat) => updRecov m js (fun r => { r with
      lastCause := k, next := some { action := 5, kind := k, attempt := r.attempt, generation := r.generation } })
    if !isCoord j then m
    else if j.recov.kind ≠ 1 ∧ cs.any (fun c => c.2.isNone) then fail 3
    else if j.recov.kind = 3 ∧ j.recov.generation = 0 then fail 1
    else
      let chosen := cs.filterMap (fun c => c.2.map (fun s => (c.1, s)))
      if chosen.isEmpty then restoreItem js m
      else
        let m := updRecov m js (fun r => { r with stage := 2, chosen := chosen, spareUps := [], configured := [] })
        updSys m (fun s => { s with signing := s.signing ++ chosen.map (fun c => (takeoverBytes j c.1 c.2, none, c.2)) })

/-- SPARE_UP_RECEIVE (R605). -/
def takeSpareUp (js pos : Nat) (j : Job) (m : Dev) : Dev :=
  if isCoord j ∧ j.recov.stage = 2 ∧ pos ∈ j.recov.chosen.map (·.1) ∧ pos ∉ j.recov.spareUps then
    let ups := j.recov.spareUps ++ [pos]
    updRecov m js (fun r => { r with
      spareUps := ups
      next := if r.chosen.all (fun c => decide (c.1 ∈ ups)) then
          some { action := 2, kind := r.kind, attempt := r.attempt, generation := r.generation, pairs := r.chosen } else r.next })
  else m

def execSpareUpReceive (slot src position : Nat) (s : State) : Host.Outcome State Fault Refusal :=
  onDev (.spareUpReceive slot src position) (onPacket slot src (takeSpareUp slot position)) s

/-- CONFIGURED_RECEIVE (R606). -/
def takeConfigured (js src result : Nat) (j : Job) (m : Dev) : Dev :=
  if isCoord j ∧ j.recov.stage = 3 ∧ result = 0 ∧ src ∈ j.recov.chosen.map (·.1) ∧ src ∉ j.recov.configured then
    let cs := j.recov.configured ++ [src]
    let m := updRecov m js (fun r => { r with configured := cs })
    if j.recov.chosen.all (fun c => decide (c.1 ∈ cs)) then restoreItem js m else m
  else m

def execConfiguredReceive (slot src result : Nat) (s : State) : Host.Outcome State Fault Refusal :=
  onDev (.configuredReceive slot src result) (onPacket slot src (takeConfigured slot src result)) s

/-- RESTORED at the coordinator (R611, R614); the class of the failure goes with the cause, a store's with 5. -/
def takeRestored (js src result : Nat) (m : Dev) : Dev :=
  match jobAt m js with
  | none => m
  | some j =>
    if !isCoord j ∨ j.recov.stage ≠ 4 then m
    else if result ≠ 0 then
      let store : Bool := match j.recov.source with | some s => decide (s.1 = 3) && j.recov.byHost | none => false
      nextAttempt js (updRecov m js (fun r => { r with lastCause := if result = 2 ∨ result = 5 then 4 else if result = 1 ∧ store then 5 else 1 }))
    else
      let done := if src ∈ j.recov.restored then j.recov.restored else j.recov.restored ++ [src]
      updRecov m js (fun r => { r with
        restored := done
        next := if (j.self :: liveOthers j).all (fun p => decide (p ∈ done)) then
            some { action := 4, kind := r.kind, attempt := r.attempt, generation := r.generation } else r.next })

def execRestoredReceive (slot src result : Nat) (s : State) : Host.Outcome State Fault Refusal :=
  onDev (.restoredReceive slot src result) (onPacket slot src (fun _ => takeRestored slot src result)) s

/-- A member reports what became of its restoration. -/
def sendRestored (js result : Nat) (m : Dev) : Dev :=
  match jobAt m js with
  | none => m
  | some j =>
    let m := updRecov m js (fun r => { r with done := true })
    match coordOf j with
    | none => m
    | some c => if c = j.self then takeRestored js j.self result m
        else sendControl m c (recoveryPayload j 0x27 j.recov.attempt 64 (leBytes 1 result) [])

/-! ### Restoration (R606 to R610) -/

/-- This module took its position in the present recovery. -/
def isReplacement (j : Job) : Bool := decide (j.self ∈ j.recov.failed)

/-- The regions of the layout in force, die by die. -/
def regionRuns (m : Dev) (js : Nat) (j : Job) (l : Layout) : List (Nat × Nat) :=
  (jobDies m js).flatMap (fun d => match regionBase m js j.layTag d with
    | some b => [(b.1, l.regionBytes / 2), (b.2, l.regionBytes / 2)]
    | none => [])

/-- A replacement's layout comes into force with its memory: 3 LAYOUT and 4 NO_MEMORY (R607). -/
def prepareLayout (js : Nat) (m : Dev) : Except Nat Dev :=
  match jobAt m js with
  | none => .error 3
  | some j =>
    if j.layoutCur.isSome then .ok m
    else match j.layoutNow.bind (tfind j.layouts) with
    | none => .error 3
    | some l =>
      if l.copying then .error 3
      else
        let dies := jobDies m js
        let want := (AllocUse.layoutRegion j.layTag, regionShares dies l.regionBytes) ::
          (if l.phase = 1 then [(.golden j.layTag, goldenShares dies l.regionBytes)]
           else [(.shard, shardShares l j.learn.groupSize j.learn.shard 917504), (.journal, [(0, 1)])])
        match allocAll m j.part js want with
        | .error _ => .error 4
        | .ok m => .ok (updJob m js (fun j => { j with layoutCur := some l }))

/-- R610: the working weights of the shard, and the broadcasts of R536. -/
def redistribute (js : Nat) (m : Dev) : Dev :=
  let m := writeShardWeights js m
  match jobAt m js with
  | none => m
  | some j =>
    match layoutOf j, j.recov.plan with
    | some l, some p =>
      postAll (distributePosts m js p.distGroup j.layTag j.epoch l j.learn.groupSize)
        (updLearn m js (fun g => { g with distGroup := p.distGroup }))
    | _, _ => m

/-- R610: RESTORED goes out once the broadcasts have completed. -/
def spreadDone (m : Dev) (js : Nat) : Dev :=
  match jobAt m js with
  | none => m
  | some j =>
    if j.recov.spreading ∧ !engineBusy m js .run then sendRestored js 0 (updRecov m js (fun r => { r with spreading := false })) else m

/-- R610: the broadcasts begin, and RESTORED follows them. -/
def spreadWeights (js : Nat) (m : Dev) : Dev :=
  spreadDone (redistribute js (updRecov m js (fun r => { r with spreading := true }))) js

/-- What the module's engines do by themselves: frames leave the receive buffers (R462), collectives that wait are posted, and a restored
member reports (R610). -/
def engineWork (m : Dev) : Dev :=
  let m := postAll [] ((List.range 32).foldl drainLink m)
  (m.jobs.map (·.1)).foldl spreadDone m

/-- One cycle with no command: memory may age (R304), and the engines go on. -/
def restCycle (m : Dev) : Dev := engineWork (idleCycle m)

/-- The step in progress is dropped: a learning service between steps. -/
def dropStep (js : Nat) (m : Dev) : Dev :=
  updLearn m js (fun g => { g with
    running := false, stage := 0, taken := [], handed := [], held := [], commitAt := none, rerunAt := none, verdict := none
    times := 0, genCopy := [], stages := tmap g.stages (fun _ s => { stallStrokes := s.stallStrokes }) })

/-- An image is in place: checks of R559 and R607, then R609 and R610. `layer` 0: the layout's regions. -/
def restoreFrom (js layer gen : Nat) (img : List Byte) (poisoned : Bool) (m : Dev) : Dev :=
  match prepareLayout js m with
  | .error e => sendRestored js e m
  | .ok m =>
    match jobAt m js with
    | none => m
    | some j =>
      if poisoned then sendRestored js 5 m
      else if layer = 0 then
        match layoutOf j with
        | none => sendRestored js 3 m
        | some l =>
          let m := piecesWrite m img false (regionRuns m js j l)
          let m := (List.range l.slices).foldl (fun m s => (bitsOf 8 (slDies (layoutEntry l s))).foldl (fun m d =>
            piecesWrite m (piecesRead m.mem (slicePieces m js j.layTag d l s)) false (goldenPieces m js j.layTag d l s)) m) m
          sendRestored js 0 m
      else if 2 ≤ layer ∧ !imageIntact img then sendRestored js 2 m
      else if recField img 0 4 ≠ 0x534E0001 ∨ recField img 8 4 ≠ j.id ∨ recField img 12 4 ≠ gen then sendRestored js 1 m
      else spreadWeights js (restoreImage js img (dropStep js m))

/-- The whole of what a FETCH asked for has come. -/
def fetchWhole (m : Dev) (js : Nat) (j : Job) : Bool :=
  if j.recov.fetchLayer = 0 then
    decide (((j.recov.fetched.map (·.2.length)).sum) = (((regionRuns m js j (j.layoutCur.getD
      { phase := 0, groupSize := 0, slices := 0, regionBytes := 0, digest := 0, entries := [] })).map (·.2)).sum))
  else fetchedWhole j.recov

/-- Bytes into window 0xF100 (R533, R609); once a recovery's image is whole it is put in place. -/
def fetchTaken (js src offset : Nat) (data : List Byte) (poisoned : Bool) (m : Dev) : Dev :=
  match jobAt m js with
  | none => m
  | some j =>
    if j.recov.fetchFrom ≠ some src then m
    else
      let m := updRecov m js (fun r => { r with fetched := r.fetched ++ [(offset, data)], fetchPoison := r.fetchPoison || poisoned })
      match jobAt m js with
      | none => m
      | some j =>
        if j.phase = .recovering ∧ j.recov.stage = 4 ∧ fetchWhole m js j then
          let img := if j.recov.fetchLayer = 0 then fetchedBytes j.recov ((j.recov.fetched.map (·.2.length)).sum) else fetchedImage j.recov
          restoreFrom js j.recov.fetchLayer j.recov.generation img j.recov.fetchPoison (endFetch js m)
        else m

/-- FETCH from the partner. -/
def fetchPartner (js layer : Nat) (m : Dev) : Dev :=
  match jobAt m js with
  | none => m
  | some j =>
    match j.secure.cfg with
    | none => sendRestored js 1 m
    | some c =>
      match prepareLayout js m with
      | .error e => sendRestored js e m
      | .ok m =>
        let g := j.recov.generation
        sendFetch js c.partner layer (match layer with | 0 => 0 | 1 => holdSlotOf c g | _ => g % 2) g j.recov.attempt m

/-- The restoration of one member at the RESTORE item (R606, R608). -/
def beginRestore (js : Nat) (m : Dev) : Dev :=
  match jobAt m js with
  | none => m
  | some j =>
    let r := j.recov
    match r.kind with
    | 1 => if isReplacement j then fetchPartner js 0 m else sendRestored js 0 m
    | 2 =>
      if isReplacement j then fetchPartner js 1 m
      else spreadWeights js (if j.learn.running then learnRerun js m else m)
    | _ =>
      let m := updLearn m js (fun g => { g with feed := [] })
      if r.byHost ∧ !isReplacement j then
        match r.source with
        | none => sendRestored js 1 m
        | some (layer, gen, _, _) =>
          if gen ≠ r.generation then sendRestored js 1 m
          else if layer ≤ 2 then fetchPartner js layer m
          else
            let st := r.sourceStore
            match liveQp m st.2.2 with
            | none => sendRestored js 1 m
            | some _ =>
              let h := drawFreeBytes (send m (.hostRead st.2.2 st.1 st.2.1 256)) 256
              let n := recField h.1 56 8 - 256
              let d := drawFreeBytes (send h.2 (.hostRead st.2.2 (st.1 + 256) st.2.1 n)) n
              restoreFrom js 3 gen (h.1 ++ d.1) false d.2
      else fetchPartner js (if (j.learn.verifyLoss).isSome then 2 else 1) m

/-- R609: an image goes by route to the window that the restorer has opened, on VC7. -/
def sendImage (src : Nat) (data : List Byte) (marks : List Bool) (m : Dev) : Dev :=
  (writePackets m src 0xF100 7 data marks).foldl sendRouted m

/-- The poison marks of the blocks under runs of memory. -/
def pieceMarks (m : Dev) (ps : List (Nat × Nat)) : List Bool := ps.flatMap (fun p => blockMarks m p.1 p.2)

/-- FETCH_RECEIVE (R609): the holder sends what it holds for the restorer, which is its HELD_FOR sender. -/
def takeFetch (js src layer holdSlot gen : Nat) (j : Job) (m : Dev) : Dev :=
  match j.secure.cfg with
  | none => m
  | some c =>
    if !holdsFor c ∨ c.heldFor ≠ src then m
    else match layer with
      | 0 => match layoutOf j with
        | some l =>
          let m := freeFinds m (regionRuns m js j l)
          sendImage src (piecesRead m.mem (regionRuns m js j l)) (pieceMarks m (regionRuns m js j l)) m
        | none => m
      | 1 =>
        let h := holdAt j.secure holdSlot
        let ps := spanPieces (holdPieces m js holdSlot) 0 h.bytes
        if h.st = .complete ∧ h.gen = gen then
          let m := freeFinds m ps
          sendImage src (piecesRead m.mem ps) (pieceMarks m ps) m
        else m
      | 2 =>
        if gen ≠ 0 ∧ tget 0 j.secure.aqGen holdSlot = gen then
          let es := (List.range (aqExtents c)).flatMap (fun i =>
            match tfind m.mem.aq.extents (extentKey j.part (c.aqFirst + holdSlot * aqExtents c + i)) with
            | some x => (List.range segBytes).map (fun b => tget 0 x.data b)
            | none => zeros segBytes)
          sendImage src (es.take (recField es 56 8)) [] m
        else m
      | _ => m

def execFetchReceive (slot src layer holdSlot generation : Nat) (s : State) : Host.Outcome State Fault Refusal :=
  onDev (.fetchReceive slot src layer holdSlot generation) (onPacket slot src (takeFetch slot src layer holdSlot generation)) s

/-! ### The items (R598 to R600, R605, R606, R611 to R617) -/

/-- RECOVERY_STAGE. -/
def stageEvent (js : Nat) (it : RecItem) (m : Dev) : Dev :=
  raiseJob m js 0x0704 0 (leBytes 1 it.action ++ leBytes 1 it.kind ++ leBytes 1 it.attempt ++ zeros 1 ++ leBytes 4 it.generation)

/-- RECOVERY_DONE. -/
def recoveryDone (js kind gen status : Nat) (m : Dev) : Dev :=
  match jobAt m js with
  | none => m
  | some j => raiseJob m js 0x0706 status (leBytes 1 kind ++ leBytes 1 j.recov.attempt ++ zeros 2 ++ leBytes 4 gen ++ leBytes 8 j.learn.stepNext
      ++ leBytes 4 (j.stroke - j.recov.enterStroke))

/-- ENTER (R598, R600). -/
def recoveryEnter (js : Nat) (it : RecItem) (m : Dev) : Dev :=
  let m := turnFail js 9 0x6005 m
  match jobAt m js with
  | none => m
  | some j =>
    let m := if j.phase = .generate then genLeave js m else m
    let m := endPrograms js (collStopJob js m)
    let prev := phaseToRestore j
    let m := updJob m js (fun j => { j with
      phase := .recovering, haltCause := .none
      recov := { j.recov with
        stage := 1, kind := it.kind, attempt := it.attempt, generation := it.generation, enterStroke := j.stroke, prevPhase := prev
        byHost := j.recov.byHost || decide (j.phase = .halted), next := none, noticeSent := false, noticed := none, restored := [], done := false, spreading := false
        spareUps := [], configured := [], chosen := [] } })
    afterEnter js (endFetch js m)

/-- TAKEOVER (R605). -/
def recoveryTakeover (js : Nat) (it : RecItem) (m : Dev) : Dev :=
  let m := it.pairs.foldl (fun m p =>
    let m := applySets js 1 p.1 p.2 m
    let m := updRecov m js (fun r => { r with
      failed := if p.1 ∈ r.failed then r.failed else r.failed ++ [p.1]
      replaced := r.replaced.filter (fun x => decide (x.1 ≠ p.1)) ++ [p]
      used := if p.2 ∈ r.used then r.used else r.used ++ [p.2], reported := r.reported.filter (fun x => decide (x ≠ p.1)) })
    raiseJob m js 0x0705 0 (leBytes 2 p.1 ++ leBytes 2 p.2 ++ leBytes 1 (match (jobAt m js).map phaseToRestore with
      | some ph => phaseCode ph | none => 0))) m
  updRecov m js (fun r => { r with stage := 3, kind := it.kind, attempt := it.attempt, generation := it.generation, next := none })

/-- RESTORE (R606, R613). -/
def recoveryRestore (js : Nat) (it : RecItem) (m : Dev) : Dev :=
  let m := updRecov m js (fun r => { r with stage := 4, kind := it.kind, generation := it.generation, next := none, restored := [], done := false, spreading := false })
  let m := updLearn m js (fun g => { g with verifyLoss := if it.verify then some it.refLoss else none })
  beginRestore js m

/-- R616: one position leaves the job. -/
def removePosition (js pos : Nat) (m : Dev) : Dev :=
  match jobAt m js with
  | none => m
  | some j =>
    let changes : List (Nat × Nat × Nat) := match j.recov.plan with
      | some p => (p.sets.filter (fun (s : DeltaSet) => decide (s.kind = 0 ∧ s.subject = pos))).flatMap (·.groups)
      | none => []
    let m := updJob m js (fun j => { j with members := j.members - 1, recov := { j.recov with fenced := j.recov.fenced ++ [pos] } })
    changes.foldl (fun m c =>
      if bitOf c.2.2 1 then { m with groups := tdel m.groups (js * 65536 + c.1) }
      else updGroup m js c.1 (fun g => { g with
        members := g.members - 1, rank := c.2.1, seq := 0
        roots := if bitOf c.2.2 0 then g.roots.filter (fun r => decide (r.1 ≠ pos)) else g.roots })) m

/-- R612: the learning step after RESUME. -/
def resumeLearning (js kind : Nat) (m : Dev) : Dev :=
  match jobAt m js with
  | none => m
  | some j =>
    if kind = 2 then
      if isReplacement j then
        if 0 < j.learn.runRemaining ∧ j.learn.configured then updLearn (learnStart js m) js (fun g => { g with taken := [] }) else m
      else if j.learn.running then learnRerun js m else m
    else m

/-- RESUME (R611, R612, R616). -/
def recoveryResume (js : Nat) (it : RecItem) (m : Dev) : Dev :=
  match jobAt m js with
  | none => m
  | some j =>
    let prev := j.recov.prevPhase
    let m := if it.kind = 1 then m else updSecure m js (fun s => { s with
      holds := tmap s.holds (fun _ (h : Hold) => if it.generation < h.gen then { h with st := .invalid } else h) })
    let m := updSecure m js (fun s => { s with
      dueInterval := true, next := if j.isOrigin ∧ s.opened then some (3, 2, s.begun) else s.next })
    let m := resumeLearning js it.kind m
    let m := ((unfilled j.recov).mergeSort (fun a b => decide (a ≤ b))).foldl (fun m p => removePosition js p m) m
    let m := recoveryDone js it.kind it.generation 0 m
    updJob m js (fun j => { j with
      phase := prev
      recov := { j.recov with
        stage := 0, failed := [], recoveries := sat 8 (j.recov.recoveries + 1), acks := [], expected := [], chosen := [], spareUps := []
        configured := [], restored := [], next := none, tookPhase := 0, recorded := [], source := none, byHost := false, kind := 0, attempt := 0 } })

/-- FAILED (R617). -/
def recoveryFailed (js status : Nat) (it : RecItem) (m : Dev) : Dev :=
  let m := recoveryDone js (match jobAt m js with | some j => j.recov.kind | none => 0) it.generation status (endFetch js m)
  updJob m js (fun j => { j with
    phase := .halted, haltCause := .recoveryFailed, beforeHalt := j.recov.prevPhase
    recov := { j.recov with
      stage := 0, next := none, noticeSent := false, chosen := [], source := none, byHost := false, tookPhase := 0, kind := 0, attempt := 0 } })

/-- A recovery item at step 2 of a boundary. -/
def recoveryApply (js : Nat) (it : RecItem) (m : Dev) : Dev :=
  let m := stageEvent js it m
  match it.action with
  | 1 => recoveryEnter js it m
  | 2 => recoveryTakeover js it m
  | 3 => recoveryRestore js it m
  | 4 => recoveryResume js it m
  | _ => recoveryFailed js (classStatus it.kind) it m

/-- R599: an item as the bytes of its ATTACH record, and back. -/
def recItemBytes (it : RecItem) : List Byte :=
  leBytes 1 3 ++ leBytes 1 it.action ++ leBytes 1 it.kind ++ leBytes 1 it.attempt ++ leBytes 4 it.generation
    ++ (match it.action with
      | 2 => leBytes 1 it.pairs.length ++ zeros 3 ++ it.pairs.flatMap (fun p => leBytes 2 p.1 ++ leBytes 2 p.2)
      | 3 => leBytes 1 (b2n it.verify) ++ zeros 3 ++ leBytes 4 it.refLoss
      | _ => [])

def readRecItem (l : List Byte) : RecItem :=
  let base : RecItem := { action := recField l 1 1, kind := recField l 2 1, attempt := recField l 3 1, generation := recField l 4 4 }
  match base.action with
  | 2 => { base with pairs := (chunksOf 4 (recField l 8 1) (l.drop 12)).map (fun e => (recField e 0 2, recField e 2 2)) }
  | 3 => { base with verify := decide (recField l 8 1 = 1), refLoss := recField l 12 4 }
  | _ => base

/-- Every boundary of a job: collectives that ENTER stopped end at the first boundary after it (R600); a verification that has
failed takes the job to RECOVERING, and a boundary later to HALTED (R613). -/
def recoveryTick (js : Nat) (m : Dev) : Dev :=
  match jobAt m js with
  | none => m
  | some j =>
    let m := if j.phase = .recovering ∧ j.recov.enterStroke < j.stroke then collEndStopped js m else m
    match j.recov.mismatch with
    | 1 => updJob m js (fun j => { j with
        phase := .recovering, recov := { j.recov with mismatch := 2, enterStroke := j.stroke, prevPhase := j.phase } })
    | 2 =>
      let it : RecItem := { action := 5, kind := 4, attempt := j.recov.attempt, generation := j.recov.generation }
      recoveryFailed js 0x4003 it (updRecov m js (fun r => { r with mismatch := 0 }))
    | _ => m

/-! ### Taking a position (R602 to R604) -/

/-- TAKEOVER_REFUSED. -/
def takeoverRefused (l : List Byte) (cause : Nat) (m : Dev) : Dev :=
  raiseModule m 0x0707 0 (leBytes 2 (recField l 16 2) ++ leBytes 2 (recField l 14 2) ++ leBytes 1 cause)

/-- R604: the spare takes the position. The margin in force is the configured one of the message until item 4 of the first boundary that
it takes part in gives the margin in force (R67; DESIGN CHOICE, log entry 24). -/
def takePosition (a : SpareArm) (l : List Byte) (js : Nat) (m : Dev) : Dev :=
  let pos := recField l 14 2
  let coord := recField l 16 2
  let sp := recField l 48 2
  let m := send (updNet m (fun n => { n with position := some pos })) (.identity pos)
  let m := (a.plan.sets.filter (fun s => decide (s.kind = 1 ∧ s.subject = pos ∧ s.spare = sp))).foldl (fun m s => applySet s m) m
  let ph := recField l 51 1
  let entry := a.plan.succ.find? (fun e => decide (e.1 = coord))
  let j : Job := {
    id := recField l 4 4, part := a.part, periodK := recField l 9 1, margin := recField l 12 2, cfgMargin := recField l 12 2
    stretchLimit := recField l 10 1, fill := decide (recField l 11 1 = 1), self := pos, origin := coord, members := recField l 18 2
    seed := recField l 32 8, phase := .recovering, epoch := recField l 20 4, turnNumber := recField l 52 4, stroke := recField l 24 8
    tree := entry.map (·.2.1), layoutNow := if recField l 50 1 = 0 then none else some (recField l 50 1)
    recov := {
      plan := some a.plan, stage := 2, attempt := recField l 8 1, failed := [pos], replaced := [(pos, sp)], used := [sp]
      passed := (a.plan.succ.map (·.1)).takeWhile (fun p => decide (p ≠ coord)), tookPhase := ph
      prevPhase := if ph = 1 then .generate else .learn, enterStroke := recField l 24 8 } }
  let m := bindJob js j m
  sendControl m coord (recoveryPayload j 0x24 j.recov.attempt 64 (zeros 1 ++ leBytes 2 pos) [])

/-- TAKEOVER_RECEIVE (R603). -/
def takeTakeover (l : List Byte) (m : Dev) : Dev :=
  match m.sys.spare with
  | none => takeoverRefused l 0 m
  | some a =>
    let pos := recField l 14 2
    let sp := recField l 48 2
    match a.plan.succ.find? (fun e => decide (e.1 = recField l 16 2)), freeSlot m with
    | some e, some js =>
      if a.jobId ≠ recField l 4 4 ∨ m.net.position ≠ some sp then takeoverRefused l 0 m
      else if a.plan.digest ≠ recField l 40 8 then takeoverRefused l 1 m
      else if !a.plan.spares.any (fun s => decide (s.1 = sp ∧ s.2.1 ≤ pos ∧ pos < s.2.1 + s.2.2)) then takeoverRefused l 3 m
      else if !edVerify e.2.2 (l.take 128) (recBytes l 128 114) then takeoverRefused l 2 m
      else takePosition a l js m
    | none, _ => takeoverRefused l (if a.jobId ≠ recField l 4 4 ∨ m.net.position ≠ some sp then 0 else 1) m
    | _, none => m

def execTakeoverReceive (payload : List Byte) (s : State) : Host.Outcome State Fault Refusal :=
  onDev (.takeoverReceive payload) (arriving (takeTakeover payload)) s

/-! ### Commands -/

/-- SPARE_ARM. DISARM answers with the digest of the plan that it drops. -/
def specSpareArm (mb jobId partition flags count first : Nat) : CmdSpec where
  cmd := .spareArm mb jobId partition flags count first
  opcode := 0x0130
  mb := mb
  admin := true
  jobTimed := false
  states := some [.ready]
  buckets := if bitOf flags 0 then [] else bucketRange first (min count 4096)
  par := fun m => firstErr [
    ensure (decide (flags < 2)) 0x2002,
    ensure (if bitOf flags 0 then decide (count = 0 ∧ first = 0)
      else decide (1 ≤ count ∧ count ≤ 4096) && decide (partition < 8) && (partAt m partition).configured) 0x2003]
  apply := fun m =>
    if bitOf flags 0 then
      { m := updSys m (fun s => { s with spare := none }), body := leBytes 8 (match m.sys.spare with | some a => a.plan.digest | none => 0) }
    else match loadPlan m (bucketRange first count) with
      | .error e => { m := m, status := e }
      | .ok p => { m := updSys m (fun s => { s with spare := some { jobId := jobId, part := partition, plan := p } }), body := leBytes 8 p.digest }

def execSpareArm (mb jobId partition flags count first : Nat) (s : State) : Host.Outcome State Fault Refusal :=
  onCmd (specSpareArm mb jobId partition flags count first) s

/-- RECOVERY_PLAN (R593, R616): a new plan resets the succession and what has been seen of it. -/
def specRecoveryPlan (mb jobId count first : Nat) : CmdSpec where
  cmd := .recoveryPlan mb jobId count first
  opcode := 0x0705
  mb := mb
  job := some jobId
  phases := some [.generate, .learn, .halted]
  buckets := bucketRange first (min count 4096)
  par := fun _ => ensure (decide (1 ≤ count ∧ count ≤ 4096)) 0x2003
  apply := fun m => match jobById m jobId, loadPlan m (bucketRange first count) with
    | some (js, j), .ok p =>
      if (p.succ.head?).map (·.1) ≠ some j.origin then { m := m, status := 0x2003 }
      else
        { m := updRecov m js (fun r => { r with plan := some p, passed := [], reported := [], fenced := [], addressed := none, claim := false })
          body := leBytes 8 p.digest }
    | _, .error e => { m := m, status := e }
    | none, _ => { m := m }

def execRecoveryPlan (mb jobId count first : Nat) (s : State) : Host.Outcome State Fault Refusal :=
  onCmd (specRecoveryPlan mb jobId count first) s

/-- The requests that TAKEOVER_CONFIG allows (R618). -/
def configSpec : Instr → Option CmdSpec
  | .memAlloc mb j k u n => some (specMemAlloc mb j k u n)
  | .quotaSet mb p j k n => some (specQuotaSet mb p j k n)
  | .bucketMap mb f n k o a j t => some (specBucketMap mb f n k o a j t)
  | .layoutLoad mb j l fl n f => some (specLayoutLoad mb j l fl n f)
  | .learnConfig mb j a b c d e f g h i k l n o p q r => some (specLearnConfig mb j a b c d e f g h i k l n o p q r)
  | .genConfig mb j a b c d e f g h i => some (specGenConfig mb j a b c d e f g h i)
  | .tinctureLoad mb j t n f => some (specTinctureLoad mb j t n f)
  | .collGroupSet mb j a b c d e f g h => some (specCollGroupSet mb j a b c d e f g h)
  | .secureConfig mb j c => some (specSecureConfig mb j c)
  | _ => none

/-- The image copy of an applied request ends with it, because the list is applied at one boundary. -/
def configCopied (c : CmdSpec) (js : Nat) (m : Dev) : Except Nat Dev :=
  let img := fun (o : Nat) => bucketBytes m c.buckets (recField (bucketBytes m c.buckets 64) o 8)
  let copy := fun (o kind index : Nat) =>
    imageCopy m (heldRuns m c.mb) (img o).length (fun _ => ((img o).length + 15) / 16) (imageShares m js kind index)
  match c.cmd with
  | .layoutLoad _ _ l _ _ _ =>
    match (jobAt m js).bind (fun j => tfind j.layouts l) with
    | some y =>
      if !y.copying then .ok m
      else if layoutDigestOk y then
        .ok (updJob (extendJob (copy 24 3 l) js 0x0604 (shake256 32 (img 24))) js (fun j => { j with layouts := tupd j.layouts l (fun x => { x with copying := false }) }))
      else .error 0x4002
    | none => .ok m
  | .learnConfig .. => .ok (extendJob (copy 16 2 0) js 0x0501 (shake256 32 (img 16)))
  | .genConfig .. => .ok (extendJob (copy 16 1 0) js 0x0401 (shake256 32 (img 16)))
  | _ => .ok m

/-- One request of the list. -/
def configOne (js mb op expect : Nat) (body : List Byte) (m : Dev) : Except Nat Dev :=
  match decodeRequest op mb body with
  | .error e => .error e
  | .ok i =>
    match configSpec i with
    | none => .error 0x2003
    | some c =>
      match recheckErr c m with
      | some e => .error e.status
      | none =>
        let a := c.apply (takeBuckets m mb c.buckets)
        if a.status ≠ 0 then .error a.status
        else if op = 0x0203 ∧ expect ≠ 0 ∧ leNat a.body ≠ expect then .error 0x200A
        else match (if a.wait.isSome then configCopied c js a.m else .ok a.m) with
          | .error e => .error e
          | .ok m =>
            let m := endBuckets m mb
            .ok (if measuredConfig op then extendConfig m op body else m)

/-- The requests of a list: OPCODE, EXPECT, body. -/
def configList : Nat → List Byte → List (Nat × Nat × List Byte)
  | 0, _ => []
  | n + 1, l =>
    if l.length < 16 ∨ recField l 0 2 = 0 then []
    else (recField l 0 2, recField l 4 8, (l.drop 16).take (recField l 2 2)) :: configList n (l.drop (upTo64 (16 + recField l 2 2)))

/-- The list in order; the first failure stops it. -/
def configAll (js mb : Nat) : List (Nat × Nat × List Byte) → Nat → Dev → Nat × Nat × Dev
  | [], n, m => (n, 0, m)
  | r :: rs, n, m =>
    match configOne js mb r.1 r.2.1 r.2.2 m with
    | .error e => (n, e, m)
    | .ok m => configAll js mb rs (n + 1) m

/-- TAKEOVER_CONFIG (R618). -/
def specTakeoverConfig (mb jobId first count : Nat) : CmdSpec where
  cmd := .takeoverConfig mb jobId first count
  opcode := 0x0706
  mb := mb
  job := some jobId
  phases := some [.recovering]
  buckets := bucketRange first (min count 4096)
  par := fun _ => ensure (decide (1 ≤ count ∧ count ≤ 4096)) 0x2003
  sta := fun m => match jobById m jobId with
    | some p => ensure (decide (p.2.recov.tookPhase ≠ 0) && decide (p.2.recov.stage < 4)) 0x1001
    | none => none
  apply := fun m => match jobById m jobId with
    | none => { m := m }
    | some (js, j) =>
      let l := (bucketRange first count).flatMap (bucketData m)
      let m' := handBuckets m mb (copyHolder 7 js)
      let m' := updJob m' js (fun j => { j with phase := j.recov.prevPhase })
      let r := configAll js mb (configList (l.length / 64 + 1) l) 0 m'
      let m' := handBuckets (updJob r.2.2 js (fun j => { j with phase := .recovering })) (copyHolder 7 js) mb
      let m' := match coordOf j with
        | some c => sendControl m' c (recoveryPayload j 0x25 j.recov.attempt 64 (leBytes 1 (if r.2.1 = 0 then 0 else r.1 + 1)) [])
        | none => m'
      { m := m', status := if r.2.1 = 0 then 0 else if r.2.1 = 0x200A then 0x200A else 0x2003
        body := leBytes 4 r.1 ++ leBytes 2 r.2.1 ++ zeros 2 }

def execTakeoverConfig (mb jobId first count : Nat) (s : State) : Host.Outcome State Fault Refusal :=
  onCmd (specTakeoverConfig mb jobId first count) s

/-- RECOVERY_RESTORE. -/
def specRecoveryRestore (mb jobId generation layer flags refLoss storeAddr storeRkey storeQp : Nat) : CmdSpec where
  cmd := .recoveryRestore mb jobId generation layer flags refLoss storeAddr storeRkey storeQp
  opcode := 0x0707
  mb := mb
  job := some jobId
  stretch := true
  phases := some [.halted]
  par := fun _ => firstErr [ensure (decide (flags < 4)) 0x2002, ensure (decide (1 ≤ layer ∧ layer ≤ 3)) 0x2003]
  sta := fun m => match jobById m jobId with
    | some p => ensure (!bitOf flags 0 || isCoord p.2) 0x1008
    | none => none
  apply := fun m => match jobById m jobId with
    | none => { m := m }
    | some (js, _) =>
      { m := updRecov m js (fun r => { r with
          source := some (layer, generation, refLoss, bitOf flags 1), sourceStore := (storeAddr, storeRkey, storeQp)
          byHost := r.byHost || bitOf flags 0
          next := if bitOf flags 0 then some { action := 1, kind := 3, attempt := 1, generation := generation } else r.next }) }

def execRecoveryRestore (mb jobId generation layer flags refLoss storeAddr storeRkey storeQp : Nat) (s : State) :
    Host.Outcome State Fault Refusal :=
  onCmd (specRecoveryRestore mb jobId generation layer flags refLoss storeAddr storeRkey storeQp) s

/-- R619: WH_RECOVERY. -/
def whRecovery (m : Dev) (j : Job) : Nat :=
  j.recov.stage + (j.recov.kind <<< 3) + (j.recov.attempt <<< 5) + (b2n (isCoord j) <<< 9) + (b2n m.sys.spare.isSome <<< 10)
    + (b2n (coordOf j).isSome <<< 11) + ((coordOf j).getD 0 <<< 16) + (j.recov.recoveries <<< 32)

/-- RECOVERY_STATUS. -/
def specRecoveryStatus (mb jobId : Nat) : CmdSpec where
  cmd := .recoveryStatus mb jobId
  opcode := 0x0708
  mb := mb
  job := some jobId
  query := true
  apply := fun m => match jobById m jobId with
    | none => { m := m }
    | some (_, j) =>
      let r := j.recov
      { m := m
        body := leBytes 8 (whRecovery m j) ++ leBytes 2 r.failed.length ++ leBytes 2 r.replaced.length ++ leBytes 4 r.generation
          ++ leBytes 8 r.enterStroke ++ leBytes 8 ((r.plan.map (·.digest)).getD 0) ++ padTo 64 (r.failed.flatMap (leBytes 2)) }

def execRecoveryStatus (mb jobId : Nat) (s : State) : Host.Outcome State Fault Refusal := onCmd (specRecoveryStatus mb jobId) s

end Sys2Proof.Machine
end

