-- ==== Sys2Proof/Machine/Registers.lean ====
section
/-! DEFINITION. Sys2Proof/Machine/Registers.lean: writes by the wellhead and the standpipe to the control and status registers
of R37, field by field by the access codes of R12. A field that is RO, or reserved, ignores what is written. -/

namespace Sys2Proof.Machine

/-- Bits [lo, lo + n) of a value written. -/
def wbits (v lo n : Nat) : Nat := v >>> lo % 2 ^ n

/-- A W1C field. -/
def w1c (old : Bool) (v i : Nat) : Bool := old && !bitOf v i

/-- A field of which a value outside a range is ignored. -/
def inRange (old lo hi v : Nat) : Nat := if lo ≤ v ∧ v ≤ hi then v else old

/-! ### Compute dies -/

/-- MA_STATUS and MA_ERR (R192, R194). -/
def arrayReg (d a r v : Nat) (m : Dev) : Dev :=
  match r with
  | 0x08 => updArray m d a (fun x => { x with
      sticky := { ovf := w1c x.sticky.ovf v 8, nonfinite := w1c x.sticky.nonfinite v 9, poison := w1c x.sticky.poison v 10 }
      parity := w1c x.parity v 11, zeroRead := w1c x.zeroRead v 12, braked := w1c x.braked v 13, gangMismatch := w1c x.gangMismatch v 14 })
  | 0x18 => updArray m d a (fun x => { x with parityCount := wbits v 0 16, refused := wbits v 24 8 })
  | _ => m

/-- SPB_OWNER and SPB_FAULT (R281, R282). -/
def bankReg (d b r v : Nat) (m : Dev) : Dev :=
  match r with
  | 0x00 => ownerWrite d b (v % 2 ^ 32) m
  | 0x08 => updBank m d b (fun x => { x with count := wbits v 0 16 })
  | _ => m

/-- VE_STATUS (R283). -/
def engineReg (d e r v : Nat) (m : Dev) : Dev :=
  if r = 0 then updVe m d e (fun x => { x with
    sticky := { ovf := w1c x.sticky.ovf v 44, nonfinite := w1c x.sticky.nonfinite v 45, poison := w1c x.sticky.poison v 46 }
    atomFull := w1c x.atomFull v 47, atomTarget := w1c x.atomTarget v 48, illegal := w1c x.illegal v 49 })
  else m

/-- SC_HBM_THERM and SC_HBM_ECC (R317, R318). -/
def stackReg (k r v : Nat) (m : Dev) : Dev :=
  match r with
  | 0x08 => updStack m k (fun x => { x with thrStart := inRange x.thrStart 80 95 (wbits v 0 8), hyst := inRange x.hyst 1 15 (wbits v 8 8) })
  | 0x10 => updStack m k (fun x => { x with corrected := wbits v 0 32, uncorrectable := wbits v 32 16 })
  | _ => m

/-- KVP_ERR (R360); a slot without a pool keeps what is written. -/
def poolReg (d j r v addr : Nat) (m : Dev) : Dev :=
  if r = 0x08 then
    if (tfind m.pools (d * 16 + j)).isSome then
      { m with pools := tupd m.pools (d * 16 + j) (fun x => { x with countFault := wbits v 0 16, noPageReg := wbits v 16 16 }) }
    else { m with slotRegs := tset 0 m.slotRegs addr (v % 2 ^ 32) }
  else m

/-- A register of a compute die, by its offset in the die's block. -/
def dieReg (d o v addr : Nat) (m : Dev) : Dev :=
  if 0x100000 ≤ o ∧ o < 0x103000 then arrayReg d ((o - 0x100000) / 0x100) (o % 0x100) v m
  else if 0x200000 ≤ o ∧ o < 0x202800 then bankReg d ((o - 0x200000) / 0x40) (o % 0x40) v m
  else if 0x300000 ≤ o ∧ o < 0x308000 then engineReg d ((o - 0x300000) / 0x100) (o % 0x100) v m
  else if 0x400000 ≤ o ∧ o < 0x402000 then stackReg (2 * d + (o - 0x400000) / 0x1000) (o % 0x1000) v m
  else if o = 0x500000 then { m with atts := tmod {} m.atts d (fun (x : Att) => { x with
    badBatch := w1c x.badBatch v 5, nonfinite := w1c x.nonfinite v 6, poison := w1c x.poison v 7, empty := w1c x.empty v 8, cold := w1c x.cold v 9 }) }
  else if 0x501000 ≤ o ∧ o < 0x501200 then poolReg d ((o - 0x501000) / 0x20) (o % 0x20) v addr m
  else if o = 0x600000 then updAtm m d (fun x => { x with
    badBatch := w1c x.badBatch v 1, nonfinite := w1c x.nonfinite v 2, poison := w1c x.poison v 3, noToken := w1c x.noToken v 4 })
  else if o = 0x700000 then updFab m d (fun x => { x with
    mismatch := w1c x.mismatch v 16, aborted := w1c x.aborted v 17, throttled := w1c x.throttled v 18, nonfinite := w1c x.nonfinite v 19
    poison := w1c x.poison v 20, badBatch := w1c x.badBatch v 21 })
  else if o = 0x700008 then updFab m d (fun x => { x with
    posted := wbits v 0 32, mismatched := wbits v 32 16, abortedCount := wbits v 48 8, restarts := wbits v 56 4, stray := wbits v 60 4 })
  else if o = 0x710000 then updFab m d (fun x => { x with sluicePoison := w1c x.sluicePoison v 1, sluiceDigest := w1c x.sluiceDigest v 2 })
  else if o = 0x720000 then updFab m d (fun x => { x with siphonFull := w1c x.siphonFull v 1, siphonPoison := w1c x.siphonPoison v 2 })
  else m

/-! ### I/O dies -/

/-- WH_STROKE_CFG (R93); bit 31 is reserved. A value outside a field's range is stored as it is written (DESIGN CHOICE, log entry 21).
A slot without a job keeps what is written to it, and shows that again once a job that it held is gone (DESIGN CHOICE, log entry
23). -/
def strokeCfg (js v addr : Nat) (m : Dev) : Dev :=
  if (jobAt m js).isSome then
    updJob m js (fun j => { j with
      periodK := wbits v 0 4, margin := wbits v 4 16, stretchLimit := wbits v 20 8, isOrigin := bitOf v 28, enable := bitOf v 29
      fill := bitOf v 30 })
  else { m with slotRegs := tset 0x0080_8008 m.slotRegs addr (v % 2 ^ 31) }

/-- IOD-N: WH_STROKE_CFG, WH_CW_VIOL and WH_RISK (R93, R147, R579). -/
def northReg (o v addr : Nat) (m : Dev) : Dev :=
  if 0x400000 ≤ o ∧ o < 0x400400 ∧ o % 0x40 = 0 then strokeCfg ((o - 0x400000) / 0x40) v addr m
  else if 0x410000 ≤ o ∧ o < 0x410080 ∧ o % 0x10 = 0 then
    let p := (o - 0x410000) / 0x10
    updCtl m (fun c => { c with mbxDrop := tset 0 c.mbxDrop p (wbits v 0 16), bktDrop := tset 0 c.bktDrop p (wbits v 16 16) })
  else if o = 0x451000 then updSys m (fun s => { s with peak := if wbits v 8 8 = 0 then s.peak else 0 })
  else m

/-- IOD-W and IOD-E: JL_ERR, JL_RETRY and CIS_ECC (R319, R477, R478); `half` is 0 or 16. -/
def sideReg (half o v : Nat) (m : Dev) : Dev :=
  if 0x100000 ≤ o ∧ o < 0x101000 then
    let l := half + (o - 0x100000) / 0x100
    match o % 0x100 with
    | 0x10 => updLink m l (fun k => { k with
        corrected := wbits v 0 32, uncorr := wbits v 32 12, fecPath := wbits v 44 8, noTree := wbits v 52 4, noRoute := wbits v 56 4, window := wbits v 60 4 })
    | 0x18 => updLink m l (fun k => { k with
        replays := wbits v 0 32, laneFaults := wbits v 32 8, downs := wbits v 40 8, trains := wbits v 48 8, fShifts := wbits v 56 8 })
    | _ => m
  else if 0x200000 ≤ o ∧ o < 0x201000 ∧ o % 0x100 = 0x08 then
    updMem m (fun x => { x with cis := tmod {} x.cis (half + (o - 0x200000) / 0x100) (fun c => { c with
      corrected := wbits v 0 32, uncorrectable := wbits v 32 16 }) })
  else m

/-- IOD-S: PWR_CAP, PWR_COUNT, PWR_DIE, PWR_RAIL and PWR_INPUT (R651 to R654). PRIME_SLOPE and PRIME_LIMIT ignore 0, which lies
outside their ranges (DESIGN CHOICE, log entry 21). -/
def southReg (o v : Nat) (m : Dev) : Dev :=
  let alarm := fun (x : Rail) => { x with alarm := x.alarm &&& (31 ^^^ wbits v 32 5) }
  if o = 0x200008 then rampDisabled (updPower m (fun w => { w with
    capUnits := inRange w.capUnits 60 240 (wbits v 0 9), primeSlope := inRange w.primeSlope 1 31 (wbits v 16 5), primeEn := wbits v 21 3
    primeLimit := inRange w.primeLimit 1 255 (wbits v 24 8) }))
  else if o = 0x200010 then updPower m (fun w => { w with
    brakes := wbits v 0 16, droops := wbits v 16 16, capFloor := wbits v 32 16, alarms := wbits v 48 16 })
  else if 0x200100 ≤ o ∧ o < 0x200180 ∧ o % 0x10 = 0 then
    updPdie m ((o - 0x200100) / 0x10) (fun x => { x with thr := inRange x.thr 85 100 (wbits v 24 8) })
  else if 0x201000 ≤ o ∧ o < 0x201200 ∧ o % 0x10 = 0 then
    updPower m (fun w => { w with rails := tmod {} w.rails ((o - 0x201000) / 0x10) alarm })
  else if o = 0x201200 then updPower m (fun w => { w with input := alarm w.input })
  else m

/-- Offsets of a block's registers that lie `n` units of `pitch` bytes from `base`, at the offsets of a list in each unit. -/
def inRegs (o base pitch n : Nat) (regs : List Nat) : Bool :=
  decide (base ≤ o) && decide (o < base + pitch * n) && decide ((o - base) % pitch ∈ regs)

/-- R35, R37: a register is at this address. -/
def regMapped (addr : Nat) : Bool :=
  let o := addr % 0x1000000
  if 0x050000000000 ≤ addr ∧ addr < 0x050008000000 then
    inRegs o 0x100000 0x100 48 [0, 8, 0x10, 0x18] || inRegs o 0x200000 0x40 160 [0, 8] || inRegs o 0x300000 0x100 128 [0, 8]
      || inRegs o 0x400000 0x1000 2 [0, 8, 0x10] || inRegs o 0x501000 0x20 16 [0, 8]
      || decide (o ∈ [0x500000, 0x500008, 0x600000, 0x600008, 0x600010, 0x700000, 0x700008, 0x700010, 0x710000, 0x710008, 0x710010, 0x720000, 0x720008])
  else match addr / 0x1000000 with
    | 0x050010 => inRegs o 0x400000 0x40 16 [0, 8] || inRegs o 0x410000 0x10 8 [0] || inRegs o 0x410100 4 8 [0]
        || inRegs o 0x430000 0x10 128 [0] || inRegs o 0x440000 0x20 16 [0] || inRegs o 0x450000 0x20 16 [0]
        || inRegs o 0x460000 0x20 16 [0] || inRegs o 0x470000 0x20 8 [0] || inRegs o 0x800000 0x10 4096 [0, 8]
        || decide (o ∈ [0x451000, 0x900000, 0x900010, 0xA00000])
    | 0x050011 | 0x050012 => inRegs o 0x100000 0x100 16 [0, 8, 0x10, 0x18] || inRegs o 0x200000 0x100 16 [0, 8]
    | 0x050013 => inRegs o 0x200100 0x10 8 [0] || inRegs o 0x201000 0x10 32 [0, 8]
        || decide (o ∈ [0x100000, 0x200000, 0x200008, 0x200010, 0x201200, 0x201300])
    | 0x050020 => decide (o ∈ [0, 8])
    | _ => false

/-- REGISTER_WRITE (R12, R37). Where no register is, the write is dropped with an address fault (R35); the row does not say whether the
wellhead or the standpipe writes, so bit 0 of REQUESTER (R260) is a free value. -/
def registerWrite (addr v : Nat) (m : Dev) : Dev :=
  if m.sys.st = .off then m
  else if !regMapped addr then
    let r := drawFree m 1
    addressFault r.2 (0xFFE + r.1) addr
  else if 0x050000000000 ≤ addr ∧ addr < 0x050008000000 then dieReg ((addr - 0x050000000000) / 0x1000000) (addr % 0x1000000) v addr m
  else match addr / 0x1000000 with
    | 0x050010 => northReg (addr % 0x1000000) v addr m
    | 0x050011 => sideReg 0 (addr % 0x1000000) v m
    | 0x050012 => sideReg 16 (addr % 0x1000000) v m
    | 0x050013 => southReg (addr % 0x1000000) v m
    | _ => m

def execRegisterWrite (addr value : Nat) (s : State) : Host.Outcome State Fault Refusal :=
  onDev (.registerWrite addr value) (registerWrite addr value) s

end Sys2Proof.Machine
end

