-- ==== Sys2Proof/Machine/Strokes.lean ====
section
/-! DEFINITION. Sys2Proof/Machine/Strokes.lean: strokes (chapter 02) and what drives them: the watcher's report and timed
acceptance (R74, R104), boundaries and their attachments (R77, R456), votes and stretches (R66 to R73), the local stroke
(R55), and the flits, frames and bulk packets that arrive on links (R450, R455 to R459, R464). -/

namespace Sys2Proof.Machine

/-! ### Acceptance (R74, R75, R104, R108) -/

/-- What acceptance and application do for a command, for every mailbox command that needs no boot flash. -/
def specOf : Instr → Option CmdSpec
  | .moduleInfo mb => some (specModuleInfo mb)
  | .moduleQuiesce mb => some (specModuleQuiesce mb)
  | .moduleResume mb => some (specModuleResume mb)
  | .eventAreaSet mb areaAddr areaRkey slots consumerAddr consumerRkey qp => some (specEventAreaSet mb areaAddr areaRkey slots consumerAddr consumerRkey qp)
  | .partitionSet mb dies classes => some (specPartitionSet mb dies classes)
  | .partitionReset mb partition => some (specPartitionReset mb partition)
  | .partitionStatus mb partition => some (specPartitionStatus mb partition)
  | .shareGrant mb addr grantees => some (specShareGrant mb addr grantees)
  | .shareRevoke mb addr grantees => some (specShareRevoke mb addr grantees)
  | .partitionNet mb partition priority vlan ipv4 ipv6 allow allowLen qpMax => some (specPartitionNet mb partition priority vlan ipv4 ipv6 allow allowLen qpMax)
  | .linkIdentity mb position => some (specLinkIdentity mb position)
  | .routeSet mb firstPos count bucket => some (specRouteSet mb firstPos count bucket)
  | .treeSet mb count bucket => some (specTreeSet mb count bucket)
  | .linkControl mb link action => some (specLinkControl mb link action)
  | .spareArm mb jobId partition flags count first => some (specSpareArm mb jobId partition flags count first)
  | .portConfig mb speed lpi ptp domain mtu => some (specPortConfig mb speed lpi ptp domain mtu)
  | .bucketMap mb first count kind ownerInit addr jobId notify => some (specBucketMap mb first count kind ownerInit addr jobId notify)
  | .bucketUnmap mb first count => some (specBucketUnmap mb first count)
  | .memAlloc mb jobId kind unit segments => some (specMemAlloc mb jobId kind unit segments)
  | .memFree mb addr => some (specMemFree mb addr)
  | .quotaSet mb partition kind jobId limit => some (specQuotaSet mb partition kind jobId limit)
  | .memStatus mb partition => some (specMemStatus mb partition)
  | .aqWrite mb addr firstExtent count => some (specAqWrite mb addr firstExtent count)
  | .aqRead mb addr firstExtent count => some (specAqRead mb addr firstExtent count)
  | .aqTrim mb firstExtent count => some (specAqTrim mb firstExtent count)
  | .jobCreate mb jobId partition periodK stretchLimit priority voteMargin self origin members firstStroke seed => some (specJobCreate mb jobId partition periodK stretchLimit priority voteMargin self origin members firstStroke seed)
  | .jobStatus mb jobId => some (specJobStatus mb jobId)
  | .jobHalt mb jobId => some (specJobHalt mb jobId)
  | .jobResume mb jobId => some (specJobResume mb jobId)
  | .jobDestroy mb jobId => some (specJobDestroy mb jobId)
  | .genConfig mb jobId imgFirst imgCount outCount outFirst eos context queueMax reqStore pool => some (specGenConfig mb jobId imgFirst imgCount outCount outFirst eos context queueMax reqStore pool)
  | .genSubmit mb jobId first count => some (specGenSubmit mb jobId first count)
  | .genCancel mb jobId reqId slot => some (specGenCancel mb jobId reqId slot)
  | .genMask mb jobId reqId first => some (specGenMask mb jobId reqId first)
  | .tinctureLoad mb jobId tincture count first => some (specTinctureLoad mb jobId tincture count first)
  | .tinctureUnload mb jobId tincture count first => some (specTinctureUnload mb jobId tincture count first)
  | .genStatus mb jobId slot => some (specGenStatus mb jobId slot)
  | .learnConfig mb jobId imgFirst imgCount groupSize shard group b1 b2 eps wd maxNorm lsInit fmtShift fmtWindow lsGrowth fillJob feedStore => some (specLearnConfig mb jobId imgFirst imgCount groupSize shard group b1 b2 eps wd maxNorm lsInit fmtShift fmtWindow lsGrowth fillJob feedStore)
  | .learnFeed mb jobId first count => some (specLearnFeed mb jobId first count)
  | .learnRun mb jobId steps lr => some (specLearnRun mb jobId steps lr)
  | .learnMask mb jobId first fromStep count => some (specLearnMask mb jobId first fromStep count)
  | .learnStatus mb jobId => some (specLearnStatus mb jobId)
  | .turnBegin mb jobId epoch target source periodK layout stageLimit turnGroup distGroup src imageDigest layoutDigest => some (specTurnBegin mb jobId epoch target source periodK layout stageLimit turnGroup distGroup src imageDigest layoutDigest)
  | .turnAbort mb jobId => some (specTurnAbort mb jobId)
  | .turnStatus mb jobId => some (specTurnStatus mb jobId)
  | .layoutLoad mb jobId layout flags count first => some (specLayoutLoad mb jobId layout flags count first)
  | .secureConfig mb jobId cfg => some (specSecureConfig mb jobId cfg)
  | .secureNow mb jobId flags => some (specSecureNow mb jobId flags)
  | .secureStatus mb jobId => some (specSecureStatus mb jobId)
  | .journalRead mb jobId step => some (specJournalRead mb jobId step)
  | .recoveryPlan mb jobId count first => some (specRecoveryPlan mb jobId count first)
  | .takeoverConfig mb jobId first count => some (specTakeoverConfig mb jobId first count)
  | .recoveryRestore mb jobId generation layer flags refLoss storeAddr storeRkey storeQp => some (specRecoveryRestore mb jobId generation layer flags refLoss storeAddr storeRkey storeQp)
  | .recoveryStatus mb jobId => some (specRecoveryStatus mb jobId)
  | .collGroupSet mb jobId group flags dies rank members podShift nroots roots => some (specCollGroupSet mb jobId group flags dies rank members podShift nroots roots)
  | .collStatus mb jobId group seq => some (specCollStatus mb jobId group seq)
  | .powerCapSet mb capW => some (specPowerCapSet mb capW)
  | .powerShareSet mb partition shareW => some (specPowerShareSet mb partition shareW)
  | .powerStateSet mb target dies => some (specPowerStateSet mb target dies)
  | .freqModeSet mb mode => some (specFreqModeSet mb mode)
  | .thermalSet mb stackThr stackHyst dieThr => some (specThermalSet mb stackThr stackHyst dieThr)
  | .primingSet mb enable slopeUs limitMs => some (specPrimingSet mb enable slopeUs limitMs)
  | .powerStatus mb => some (specPowerStatus mb)
  | .energyReport mb partition => some (specEnergyReport mb partition)
  | .arrayMap mb die => some (specArrayMap mb die)
  | .arraySelftest mb die => some (specArraySelftest mb die)
  | .numericsStatus mb jobId => some (specNumericsStatus mb jobId)
  | .kvStatus mb jobId die => some (specKvStatus mb jobId die)
  | .linkStatus mb link => some (specLinkStatus mb link)
  | .riskConfig mb weights => some (specRiskConfig mb weights)
  | .riskStatus mb => some (specRiskStatus mb)
  | .portStatus mb jobId => some (specPortStatus mb jobId)
  | _ => none

/-- R109: the opcodes that act on the whole module. -/
def adminOpcode (op : Nat) : Bool := decide (op ∈ [0x0102, 0x0103, 0x0104, 0x0110, 0x0115, 0x0120, 0x0121, 0x0122, 0x0123, 0x0130, 0x0140,
  0x0901, 0x0902, 0x0903, 0x0904, 0x0905, 0x0906, 0x0A01, 0x0A02, 0x0A03, 0x0B11, 0x0B70])

/-- An answer at once to a request that fails a check of its header. Such a request names no job yet, so the local stroke times the
answer, with STROKE_KIND 0 (DESIGN CHOICE, log entry 5: R111 does not say which stream). -/
def answerRaw (mb status : Nat) (body : List Byte) (m : Dev) : Dev :=
  let n := if noStrokes m then 0 else m.ctl.localStroke
  writeReply m { mb := mb, status := status, body := body, slot := none, due := 0, kind := 0, accept := n, done := n, stretch := false, jobId := 0 }

/-- A command and its checks, for every mailbox command: those that act on the boot flash or on the fuses too. -/
def specAll (nv : NonVol) (i : Instr) : Option CmdSpec :=
  match i with
  | .moduleReset mb flags => some (specModuleReset mb flags)
  | .imageBegin mb flags head => some (specImageBegin nv mb flags head)
  | .imageWrite mb offset data => some (specImageWrite mb offset data)
  | .imageCommit mb => some (specImageCommit mb)
  | .attest mb nonce jobId => some (specAttest nv mb nonce jobId)
  | .bootStatus mb => some (specBootStatus nv mb)
  | i => specOf i

/-- The request of a mailbox as its fields stand, reserved fields not yet tested. -/
def mbRequest (strict : Bool) (m : Dev) (mb : Nat) : Except Nat Instr :=
  readRequest strict (mbField m mb 8 2) mb (mbRead m mb 64 (mbField m mb 12 2))

/-- The checks of a request whose opcode and length are right, in the order of R21 and R108: the command's SECURITY checks on its
fields as they stand, then the reserved fields of the body and of the header (R15). -/
def formCheck (nv : NonVol) (mb : Nat) (m : Dev) (i : Instr) : Except (Nat × List Byte) Instr :=
  match (specAll nv i).bind (fun c => secErr c m) with
  | some e => .error (e.status, e.body)
  | none => match mbRequest true m mb with
    | .error e => .error (e, [])
    | .ok i =>
      if 2 ≤ mbField m mb 11 1 ∨ (mbRead m mb 19 5 ++ mbRead m mb 40 24).any (fun b => decide (b ≠ 0)) then .error (0x2002, [])
      else .ok i

/-- R108, R113: the checks of the header, and the request as a command. -/
def headerCheck (nv : NonVol) (mb : Nat) (m : Dev) : Except (Nat × List Byte) Instr :=
  let op := mbField m mb 8 2
  if mbField m mb 10 1 ≠ mb / 32 then .error (0x7001, [])
  else if adminOpcode op ∧ mb / 32 ≠ 0 then .error (0x7002, [])
  else if !servedHere m op mb then
    let named := match mbRequest false m mb with
      | .ok i => (specAll nv i).bind (·.job)
      | .error _ => none
    .error (0x1001, stateBody m named 0)
  else match mbRequest false m mb with
    | .error e => .error (e, [])
    | .ok i => formCheck nv mb m i

/-- A request that the watcher reports meets its acceptance checks. -/
def acceptRequest (i : Instr) (nv : NonVol) (m : Dev) : NonVol × Dev :=
  match i with
  | .moduleReset mb flags => moduleReset mb flags nv m
  | .attest mb nonce jobId => (nv, attest mb nonce jobId nv m)
  | i => match specAll nv i with
    | some c => (nv, runCmd c m)
    | none => (nv, m)

/-- WATCHER_REPORT (R104). A flip that no one serves yet stays (R694). -/
def watcherReport (mb : Nat) (nv : NonVol) (m : Dev) : NonVol × Dev :=
  if mb ∉ m.ctl.flips ∨ unreached m (mbField m mb 8 2) mb then (nv, m)
  else
    let m := updCtl m (fun c => { c with flips := c.flips.filter (fun x => decide (x ≠ mb)) })
    match headerCheck nv mb m with
    | .error e => (nv, answerRaw mb e.1 e.2 m)
    | .ok i => acceptRequest i nv m

def execWatcherReport (mb : Nat) (s : State) : Host.Outcome State Fault Refusal := onBoot (.watcherReport mb) (watcherReport mb) s

/-! ### The record of a boundary (R456) -/

/-- The items of a boundary record: a turn transition, a recovery transition, a securing decision, the verdict, the margin and
the job-wide command. -/
structure Items where
  turn : Option (Nat × Nat) := none
  recov : Option RecItem := none
  secure : Option (Nat × Nat × Nat) := none
  verdict : Option StepRec := none
  margin : Option Nat := none
  jobWide : Option (Nat × List Byte) := none
deriving DecidableEq, Repr

def itemBytes (type : Nat) (l : List Byte) : List Byte := leBytes 2 type ++ leBytes 2 l.length ++ l

/-- The record without its end. -/
def itemsBytes (it : Items) : List Byte :=
  (match it.turn with | some t => itemBytes 2 (leBytes 1 1 ++ leBytes 1 t.1 ++ leBytes 1 t.2 ++ zeros 1) | none => [])
    ++ (match it.recov with | some r => itemBytes 2 (recItemBytes r) | none => [])
    ++ (match it.secure with | some s => itemBytes 2 (leBytes 1 2 ++ leBytes 1 s.1 ++ leBytes 1 s.2.1 ++ zeros 1 ++ leBytes 4 s.2.2) | none => [])
    ++ (match it.verdict with
      | some r => itemBytes 3 (leBytes 4 r.flags ++ leBytes 4 r.count ++ leBytes 4 r.tokens ++ leBytes 4 r.loss ++ leBytes 4 r.sqnorm ++ zeros 12)
      | none => [])
    ++ (match it.margin with | some n => itemBytes 4 (leBytes 2 n) | none => [])
    ++ (match it.jobWide with | some c => itemBytes 1 (leBytes 2 c.1 ++ c.2) | none => [])

/-- A zero TYPE ends the record, which fills whole attachments. -/
def boundaryRecord (it : Items) : List Byte :=
  let l := itemsBytes it
  if l.isEmpty then [] else padTo ((l.length + 9) / 8 * 8) l

/-- One item. -/
def readItem (type : Nat) (l : List Byte) (it : Items) : Items :=
  match type with
  | 1 => { it with jobWide := some (recField l 0 2, l.drop 2) }
  | 2 => match recField l 0 1 with
    | 1 => { it with turn := some (recField l 1 1, recField l 2 1) }
    | 2 => { it with secure := some (recField l 1 1, recField l 2 1, recField l 4 4) }
    | 3 => { it with recov := some (readRecItem l) }
    | _ => it
  | 3 => { it with verdict := some { flags := recField l 0 4, count := recField l 4 4, tokens := recField l 8 4, loss := recField l 12 4, sqnorm := recField l 16 4 } }
  | 4 => { it with margin := some (recField l 0 2) }
  | _ => it

/-- The items of a record, at most `fuel` of them. -/
def readItems : Nat → List Byte → Items → Items
  | 0, _, it => it
  | fuel + 1, l, it =>
    if l.length < 4 ∨ recField l 0 2 = 0 then it
    else readItems fuel (l.drop (4 + recField l 2 2)) (readItem (recField l 0 2) (recBytes l 4 (recField l 2 2)) it)

/-! ### A boundary (R77) -/

/-- R73, R130: the stroke of a job that a boundary closes. -/
def closeStroke (js : Nat) (stretched : Bool) (m : Dev) : Dev :=
  match jobAt m js with
  | none => m
  | some j =>
    if !j.started then m
    else
      let m := if stretched ∧ (j.isOrigin ∨ j.votedStretch) then
          raiseJob m js 0x0301 0 (leBytes 1 j.stretches ++ zeros 1 ++ leBytes 2 j.lastVoter ++ leBytes 2 j.lastVoters)
        else m
      endStroke (genStrokeEnd js j.stroke m) (some js) j.stroke stretched

/-- R126: the flips of the buckets that a stream times take effect for the engines. -/
def flipsTake (stream : Option Nat) (m : Dev) : Dev :=
  updCtl m (fun c => { c with bucketFlips := c.bucketFlips.filter (fun b => decide (bucketStream m b ≠ stream)) })

/-- R77 step 1, with the margin that the boundary carries (R67). -/
def openStroke (js count : Nat) (stretched : Bool) (margin : Option Nat) (m : Dev) : Dev :=
  updJob m js (fun j => { j with
    stroke := count, started := true, stretches := 0, stretchedCount := j.stretchedCount + b2n (stretched && j.started)
    voted := false, voteSent := false, ownStretch := false, votedStretch := false, combined := none, attach := []
    margin := margin.getD j.margin })

/-- The journal and the verdict at step 2 (R430, R435, R575, R585, R613). -/
def takeVerdict (js : Nat) (r : StepRec) (m : Dev) : Dev :=
  let m := updLearn m js (fun g => { g with verdict := none })
  match jobAt m js with
  | none => m
  | some j =>
    if j.phase ≠ .learn ∨ !j.learn.running then m
    else
      let differs : Bool := match j.learn.verifyLoss, verdictStatus r with
        | some l, some _ => decide (l ≠ r.loss)
        | _, _ => false
      if differs then
        updRecov (updLearn (stepDone js r 0x4003 (journalWrite js r 0x4003 m)) js (fun g => { g with verifyLoss := none, stage := 0 })) js
          (fun x => { x with mismatch := 1 })
      else
        let m := journalWrite js r ((verdictStatus r).getD 0x4001) m
        let lost := m.mem.allocs.any (fun a => decide (a.job = some js) && decide (a.use = .shard)
          && memPoisoned m.mem (a.first * segBytes) (a.count * segBytes))
        let m := applyVerdict js r m
        match verdictStatus r with
        | none => if 3 ≤ j.learn.times + 1 ∧ j.learn.flagPoison then sendReport js 7 j.self m else m
        | some _ => (if lost then sendReport js 6 j.self else id) (updLearn m js (fun g => { g with verifyLoss := none }))

/-- R77 step 2. -/
def transitions (js : Nat) (it : Items) (stretched : Bool) (m : Dev) : Dev :=
  let m := recoveryTick js (turnTick js stretched m)
  let m := match it.turn with | some t => turnApply js t.1 t.2 m | none => m
  let m := match it.recov with | some r => recoveryApply js r m | none => m
  let m := match it.verdict with | some r => takeVerdict js r m | none => m
  let m := learnCommits js m
  let m := match it.secure with
    | some s => (if s.1 = 1 ∧ ((jobAt m js).map mayArm).getD false then turnArmed js s.2.1 s.2.2 else id) (secureApply js s.1 s.2.1 s.2.2 m)
    | none => m
  tinctBoundary js (learnStarts js m)

/-- R77 step 3 at a member that is not the origin: the command takes effect when it still can (R78). -/
def jobWideAt (js : Nat) (c : Nat × List Byte) (m : Dev) : Dev :=
  match jobAt m js with
  | none => m
  | some j => match decodeRequest c.1 (j.part * 32) c.2 with
    | .error _ => m
    | .ok i => match specOf i with
      | none => m
      | some s => if s.jobWide ∧ s.job = some j.id ∧ (recheckErr { s with jobWide := false } m).isNone then (s.apply m).m else m

/-- R77 step 3 at the origin, which replies. -/
def jobWideHere (js : Nat) (m : Dev) : Dev :=
  match (jobAt m js).bind (·.jobWide) with
  | none => m
  | some a =>
    let n := strokeOf m (some js)
    let m := updJob m js (fun j => { j with jobWide := none })
    match specOf a.cmd with
    | some c => applyAccepted c m (some js) a.stroke n
    | none => m

/-- The requests of a stream that wait for its next boundary, in order of acceptance. -/
def acceptedOf (m : Dev) (stream : Option Nat) : List Accepted := m.ctl.accepted.filter (fun a => decide (a.slot = stream))

/-- R77 step 4: one request of a job's stream takes effect at the boundary that opens stroke `n`, unless an earlier one of the same
boundary has ended it. -/
def applyOne (js n : Nat) (m : Dev) (a : Accepted) : Dev :=
  if a ∉ m.ctl.accepted then m
  else match specOf a.cmd with
  | some c => applyAccepted c (updCtl m (fun t => { t with accepted := t.accepted.erase a })) (some js) a.stroke n
  | none => m

/-- R77 step 4 for a job's stream. -/
def applyWaiting (js : Nat) (m : Dev) : Dev := (acceptedOf m (some js)).foldl (applyOne js (strokeOf m (some js))) m

/-- The same for a request of the local stroke, which may be a MODULE_RESET, or a command of the image service with its effect on
the flash (R23, R697). -/
def applyLocal (n : Nat) (x : NonVol × Dev) (a : Accepted) : NonVol × Dev :=
  if a ∉ x.2.ctl.accepted then x
  else
    let m := updCtl x.2 (fun t => { t with accepted := t.accepted.erase a })
    match a.cmd with
    | .moduleReset mb flags => applyReset (specModuleReset mb flags) a.stroke n x.1 m
    | c => match specAll x.1 c with
      | some s => withFlash c (fun m => applyAccepted s m none a.stroke n) x.1 m
      | none => (x.1, m)

/-- R61, R256, R267: a die to which a stroke program is dispatched wakes (R626) and stops priming when its arrays have work. The
completion counts of its arrays and DMA engines begin anew, but for those that serve another job whose program still runs there. -/
def dispatchDie (js : Nat) (m : Dev) (d : Nat) : Dev :=
  let m := dieWake d m
  let other := fun (o : Option Nat) => match o with
    | some k => decide (k ≠ js) && (trange m.ves (d * 128) 128).any (fun v => v.2.teams.any (fun t => decide (t.2.job = k)))
    | none => false
  let m := { m with
    arrays := tmap m.arrays (fun k x => if k / 48 = d ∧ !other x.job ∧ x.queue.isEmpty ∧ x.held.isEmpty then { x with done := [], job := none } else x)
    dmas := tmap m.dmas (fun k x => if k / 4 = d ∧ !other x.job then { x with done := [], job := none } else x) }
  primingTaken d m

/-- A team starts at its entry (R245). -/
def startTeam (js : Nat) (m : Dev) (l : Launch) : Dev :=
  if (pdieAt m l.die).st = 0 ∧ (tfind (veAt m l.die l.ve).teams l.team).isNone then
    let m' := updVe m l.die l.ve (fun v => { v with teams := tput v.teams l.team { job := js, pc := l.entry, start := m.free }, job := some js })
    { m' with free := m.free + 2576 }
  else m

/-- R77 step 5: the launches name the teams that the program of each die starts with. -/
def dispatch (js : Nat) (launches : List Launch) (m : Dev) : Dev :=
  match jobAt m js with
  | none => m
  | some j =>
    if m.sys.st ≠ .active ∨ (j.phase ≠ .generate ∧ j.phase ≠ .learn) then m
    else
      let ls := launches.filter (fun l => bitOf (partAt m j.part).dies l.die && decide ((pdieAt m l.die).st ≠ 3))
      ls.foldl (startTeam js) (((ls.map (·.die)).eraseDups).foldl (dispatchDie js) m)

/-- R75: the first job-wide request that waits for the job is accepted. -/
def acceptNext (js : Nat) (m : Dev) : Dev :=
  match m.ctl.waiting.find? (fun a => decide (((specOf a.cmd).bind (fun c => specJob c m)).map (·.1) = some js)) with
  | none => m
  | some a =>
    match specOf a.cmd with
    | some c => runCmd c (updCtl m (fun t => { t with waiting := t.waiting.erase a }))
    | none => m

/-- The boundary that opens a stroke (R77), at every member. -/
def boundary (js count : Nat) (stretched : Bool) (it : Items) (launches : List Launch) (m : Dev) : Dev :=
  let isOrig := match jobAt m js with | some j => j.isOrigin | none => false
  let m := flipsTake (some js) (openStroke js count stretched it.margin (closeStroke js stretched m))
  let m := engineWork (transitions js it stretched m)
  let m := if isOrig then (if it.jobWide.isSome then jobWideHere js m else m)
    else match it.jobWide with | some c => jobWideAt js c m | none => m
  let m := applyWaiting js m
  acceptNext js (dispatch js launches (learnItems js (genBoundary js m)))

/-! ### The origin (R56, R71, R72, R85, R456, R598) -/

/-- The tree whose flits a member takes and whose votes it sends. -/
def jobTree (m : Dev) (j : Job) : Option TreeEntry := if j.isOrigin then originTree m j else j.tree.bind (treeOf m)

/-- Votes of a deadline that is over are forgotten. -/
def dropVotes (tree : Nat) (m : Dev) : Dev := updNet m (fun n => { n with votes := tkeep n.votes (fun k _ => decide (k / 32 ≠ tree)) })

/-- The verdict that the origin carries at the boundary that opens a stroke (R406, R577). -/
def verdictItem (j : Job) : Option StepRec :=
  let closes : Bool := match j.secure.next with | some s => decide (s.1 = 2 ∨ s.1 = 3) | none => false
  if j.phase = .learn ∧ (j.secure.cfg.isNone ∨ 512 < j.members ∨ !j.secure.opened ∨ closes) then j.learn.verdict else none

/-- What the origin's next boundary carries. -/
def originItems (j : Job) (count : Nat) : Items :=
  let v := verdictItem j
  let spent : Bool := match v with
    | some r => (match verdictStatus r with | some st => decide (st = 0x6006) || (decide (st = 0) && decide (r.count = 0)) | none => false)
    | none => false
  let due : Bool := match j.learn.commitAt with | some c => decide (c ≤ count) | none => false
  let commits := decide (j.phase = .learn) && (due || spent)
  let starts := decide (j.phase = .learn) && j.learn.configured && decide (0 < j.learn.runRemaining) && (!j.learn.running || commits)
  let siphon := wantsSiphon j || (match j.turn.next with | some t => decide (t.1 = 2) && decide (j.turn.prev = .learn) | none => false)
  let it : Items := {
    turn := j.turn.next, recov := j.recov.next, secure := secureItem j commits starts siphon (j.learn.stepNext + b2n commits)
    verdict := v, margin := if j.started then none else some j.margin }
  match j.jobWide with
  | none => it
  | some a =>
    let full := { it with jobWide := some ((requestOpcode a.cmd).getD 0, requestBytes a.cmd) }
    if (boundaryRecord full).length ≤ 512 then full else it

/-- The attachments and the boundary flit go down the tree. -/
def sendBoundary (e : TreeEntry) (rec' : List Byte) (count : Nat) (stretched first : Bool) (m : Dev) : Dev :=
  let fs := chunksOf 8 (rec'.length / 8) rec'
  (bitsOf 32 e.down).foldl (fun m l =>
    let m := (List.zip (List.range fs.length) fs).foldl (fun m x => sendFlit m l (.attach e.tree x.1 x.2)) m
    sendFlit m l (.boundary e.tree fs.length count stretched first)) m

/-- The origin's next boundary. -/
def originBoundary (js : Nat) (launches : List Launch) (m : Dev) : Dev :=
  match jobAt m js with
  | none => m
  | some j =>
    let count := if !j.started then j.firstStroke else if j.recov.skip then j.stroke + 2 else j.stroke + 1
    let stretched := decide (0 < j.stretches)
    let it := originItems j count
    let m := updJob m js (fun j => { j with
      turn := { j.turn with next := none }, recov := { j.recov with next := none, skip := false }, secure := { j.secure with next := none }
      learn := { j.learn with verdict := if it.verdict.isSome then none else j.learn.verdict } })
    let m := match originTree m j with
      | some e => dropVotes e.tree (sendBoundary e (boundaryRecord it) (count % 2 ^ 64) stretched (!j.started) m)
      | none => m
    boundary js (count % 2 ^ 64) stretched it launches m

/-- The members still voting STRETCH that the origin can name: a vote carries the lowest STRETCH voter of its subtree (R69), so the
origin knows one member of each child's subtree. -/
def namedVoters (m : Dev) (j : Job) : List Nat :=
  match originTree m j with
  | none => []
  | some e => (bitsOf 32 e.down).filterMap (fun l => match tfind m.net.votes (e.tree * 32 + l) with
    | some (_, true, low, _) => some low
    | _ => none)

/-- R71, R72: the stroke is stretched, or at the limit every member still voting STRETCH that the votes name is declared failed.
An origin that itself still votes STRETCH sends nothing more, and the next in the succession finds it lost under R60 (DESIGN
CHOICE, log entry 24: a vote names one voter of a subtree, so others in it are found when they vote STRETCH again). -/
def originStretch (js lowest voters : Nat) (m : Dev) : Dev :=
  match jobAt m js with
  | none => m
  | some j =>
    if j.stretchLimit ≤ j.stretches then
      if isCoord j then (namedVoters m j).foldl (fun m p => declareFailed js p 2 m) m else m
    else
      let n := j.stretches + 1
      let m := match originTree m j with
        | some e => dropVotes e.tree ((bitsOf 32 e.down).foldl (fun m l => sendFlit m l (.stretch e.tree n j.stroke)) m)
        | none => m
      updJob m js (fun j => { j with
        stretches := n, stretchPeriods := j.stretchPeriods + 1, lastStretch := j.stroke, lastVoter := lowest, lastVoters := voters
        voted := false, voteSent := false, ownStretch := false, combined := none })

/-- R587: a recovery that was agreed in IDLE or HALTED enters at the first boundary in another phase. -/
def lateEntry (js : Nat) (m : Dev) : Dev :=
  match jobAt m js with
  | none => m
  | some j =>
    if isCoord j ∧ j.recov.stage = 1 ∧ !j.recov.noticeSent ∧ j.recov.next = none ∧ allAcked j
        ∧ (j.phase = .generate ∨ j.phase = .learn ∨ j.phase = .turning) then enterItem js m else m

/-- ORIGIN_PERIOD_END (R56, R71, R85). From a NOTICE to the entry boundary no vote counts (R597). -/
def originPeriodEnd (js : Nat) (launches : List Launch) (m : Dev) : Dev :=
  match jobAt m js with
  | none => m
  | some j =>
    if !j.isOrigin ∨ !forwarding m ∨ j.recov.noticeSent then m
    else if !j.started then (if mayStart j then originBoundary js launches m else m)
    else match j.combined with
      | none => m
      | some (true, lowest, voters) => originStretch js lowest voters m
      | some (false, _, _) => originBoundary js launches (lateEntry js m)

def execOriginPeriodEnd (slot : Nat) (launches : List Launch) (s : State) : Host.Outcome State Fault Refusal :=
  onDev (.originPeriodEnd slot launches) (originPeriodEnd slot launches) s

/-- RECOVERY_ENTRY_TIMER (R598). -/
def recoveryEntry (js : Nat) (launches : List Launch) (m : Dev) : Dev :=
  match jobAt m js with
  | none => m
  | some j =>
    if isCoord j ∧ j.isOrigin ∧ j.started ∧ j.recov.stage = 1 ∧ j.recov.noticeSent ∧ allAcked j ∧ forwarding m then
      originBoundary js launches (enterItem js m)
    else m

def execRecoveryEntryTimer (slot : Nat) (launches : List Launch) (s : State) : Host.Outcome State Fault Refusal :=
  onDev (.recoveryEntryTimer slot launches) (recoveryEntry slot launches) s

/-! ### Flits at a member (R57 to R60, R455 to R458) -/

/-- A flit arrives on a link that is up. -/
def arrives (m : Dev) (link : Nat) : Bool := forwarding m && linkUp (linkAt m link)

/-- A flit whose tree is not held is counted (R458). -/
def countNoTree (link : Nat) (m : Dev) : Dev := updLink m link (fun k => { k with noTree := sat 4 (k.noTree + 1) })

/-- A flit goes on down a tree. -/
def forwardDown (e : TreeEntry) (f : Flit) (m : Dev) : Dev := (bitsOf 32 e.down).foldl (fun m l => sendFlit m l f) m

/-- The job whose flits of a tree the module takes: it is bound, another member is its origin, and it takes its boundaries from
this tree or from none yet (R594). -/
def takesFrom (m : Dev) (e : TreeEntry) : Option (Nat × Job) :=
  if isMember e then match jobById m e.jobId with
    | some (js, j) => if !j.isOrigin ∧ (j.tree = none ∨ j.tree = some e.tree) then some (js, j) else none
    | none => none
  else none

/-- ATTACH_FLIT (R456, R458). INDEX 0 begins a record. -/
def attachFlit (link tree index : Nat) (data : List Byte) (m : Dev) : Dev :=
  if !arrives m link then m
  else match treeOf m tree with
  | none => countNoTree link m
  | some e =>
    let m := forwardDown e (.attach tree index data) m
    match takesFrom m e with
    | some (js, _) => updJob m js (fun j => { j with attach := tput (if index = 0 then [] else j.attach) index data })
    | none => m

def execAttachFlit (link tree index : Nat) (data : List Byte) (s : State) : Host.Outcome State Fault Refusal :=
  onDev (.attachFlit link tree index data) (attachFlit link tree index data) s

/-- STROKE_BOUNDARY (R58, R77, R457, R458). -/
def strokeBoundary (link tree natt count : Nat) (stretched first : Bool) (launches : List Launch) (m : Dev) : Dev :=
  if !arrives m link then m
  else match treeOf m tree with
  | none => countNoTree link m
  | some e =>
    let m := forwardDown e (.boundary tree natt count stretched first) m
    match takesFrom m e with
    | none => m
    | some (js, j) =>
      let as := j.attach.take natt
      if as.map (·.1) = List.range natt then
        let m := updJob m js (fun j => { j with tree := some tree })
        boundary js count stretched (readItems 64 (as.flatMap (·.2)) {}) launches (dropVotes tree m)
      else updJob m js (fun j => { j with attach := [] })

def execStrokeBoundary (link tree natt count : Nat) (stretched first : Bool) (launches : List Launch) (s : State) : Host.Outcome State Fault Refusal :=
  onDev (.strokeBoundary link tree natt count stretched first launches) (strokeBoundary link tree natt count stretched first launches) s

/-- STRETCH_FLIT (R71). The flit carries neither the lowest voter nor the number of voters; a member records those of its own
subtree's combined vote, or keeps what it had where that vote was READY (DESIGN CHOICE, log entry 24). -/
def stretchFlit (link tree stretches count : Nat) (m : Dev) : Dev :=
  if !arrives m link then m
  else match treeOf m tree with
  | none => countNoTree link m
  | some e =>
    let m := forwardDown e (.stretch tree stretches count) m
    match takesFrom m e with
    | none => m
    | some (js, j) =>
      if j.started ∧ j.tree = some tree ∧ j.stroke = count then
        updJob (dropVotes tree m) js (fun j => { j with
          stretches := stretches, stretchPeriods := j.stretchPeriods + 1, lastStretch := j.stroke
          lastVoter := (match j.combined with | some (true, l, _) => l | _ => j.lastVoter)
          lastVoters := (match j.combined with | some (true, _, v) => v | _ => j.lastVoters)
          voted := false, voteSent := false, ownStretch := false, combined := none })
      else m

def execStretchFlit (link tree stretches count : Nat) (s : State) : Host.Outcome State Fault Refusal :=
  onDev (.stretchFlit link tree stretches count) (stretchFlit link tree stretches count) s

/-! ### Votes (R66 to R70) -/

/-- R62: every stroke program of the job is complete. -/
def programsDone (m : Dev) (js : Nat) : Bool :=
  m.ves.all (fun v => v.2.teams.all (fun t => decide (t.2.job ≠ js)) && v.2.atoms.all (fun a => decide (a.job ≠ js)))
    && m.arrays.all (fun a => decide (a.2.job ≠ some js) || (a.2.queue.isEmpty && a.2.held.isEmpty))
    && m.dmas.all (fun d => d.2.queue.all (fun o => decide (o.job ≠ js)))
    && m.posted.all (fun p => p.2.all (fun o => decide (o.job ≠ js)))
    && m.atts.all (fun a => a.2.banks.all (fun b => decide (b.job ≠ js)))
    && m.atms.all (fun a => a.2.banks.all (fun b => decide (b.job ≠ js)))

/-- R66, R87, R407: this member's vote: STRETCH or not. -/
def stretchVote (m : Dev) (js : Nat) (j : Job) : Bool :=
  match j.phase with
  | .halted | .recovering => false
  | _ => !programsDone m js || learnVotes m js j

/-- R69: two votes combined: STRETCH, lowest voter, voters. A READY vote has no voter, which 65,535 stands for. -/
def joinVotes (a b : Bool × Nat × Nat) : Bool × Nat × Nat := (a.1 || b.1, min a.2.1 b.2.1, sat 16 (a.2.2 + b.2.2))

/-- The votes of the children of a tree for a stroke, once all of them are here. -/
def childVotes (m : Dev) (e : TreeEntry) (count : Nat) : Option (Bool × Nat × Nat) :=
  (bitsOf 32 e.down).foldl (fun a l => match a, tfind m.net.votes (e.tree * 32 + l) with
    | some v, some (c, w) => if c = count then some (joinVotes v w) else none
    | _, _ => none) (some (false, 65535, 0))

/-- R69: with every vote of the subtree in, the combination goes up, or stands at the origin. -/
def tryVote (js : Nat) (m : Dev) : Dev :=
  match jobAt m js with
  | none => m
  | some j =>
    if !j.voted ∨ j.voteSent then m
    else
      let e := jobTree m j
      let kids := match e with
        | some e => childVotes m e (j.stroke % 65536)
        | none => if j.isOrigin then some (false, 65535, 0) else none
      match kids with
      | none => m
      | some k =>
        let v := joinVotes k (j.ownStretch, if j.ownStretch then j.self else 65535, b2n j.ownStretch)
        let m := updJob m js (fun j => { j with voteSent := true, combined := some v })
        match e with
        | some e => if j.isOrigin then m else sendFlit m e.up (.vote e.tree (j.stroke % 65536) v.1 v.2.1 v.2.2)
        | none => m

/-- VOTE_DEADLINE (R66). -/
def voteDeadline (js : Nat) (m : Dev) : Dev :=
  match jobAt m js with
  | none => m
  | some j =>
    if !j.started ∨ j.voted ∨ !forwarding m then m
    else
      let v := stretchVote m js j
      tryVote js (updJob m js (fun j => { j with
        voted := true, ownStretch := v, votedStretch := j.votedStretch || v, ownVotes := j.ownVotes + b2n v }))

def execVoteDeadline (slot : Nat) (s : State) : Host.Outcome State Fault Refusal := onDev (.voteDeadline slot) (voteDeadline slot) s

/-- VOTE_FLIT (R69). A module that is no member combines the votes of its links alone. A vote that comes after its deadline's
timeout has counted it as STRETCH changes nothing (R70). -/
def voteFlit (link tree count : Nat) (vote : Bool) (lowest voters : Nat) (m : Dev) : Dev :=
  if !arrives m link then m
  else match treeOf m tree with
  | none => countNoTree link m
  | some e =>
    if !bitOf e.down link then m
    else
      let c := count % 65536
      let put := updNet m (fun n => { n with votes := tput n.votes (tree * 32 + link) (c, vote, (if vote then lowest else 65535), voters) })
      if isMember e then
        match jobById m e.jobId with
        | some (js, j) =>
          if j.started ∧ (jobTree m j).map (·.tree) = some tree ∧ c = j.stroke % 65536
              ∧ (tfind m.net.votes (tree * 32 + link)).map (·.1) ≠ some c then
            tryVote js (updJob put js (fun j => { j with missed := tdel j.missed link }))
          else m
        | none => m
      else match childVotes put e c with
        | some v => dropVotes tree (sendFlit put e.up (.vote tree c v.1 v.2.1 v.2.2))
        | none => put

def execVoteFlit (link tree count : Nat) (vote : Bool) (lowest voters : Nat) (s : State) : Host.Outcome State Fault Refusal :=
  onDev (.voteFlit link tree count vote lowest voters) (voteFlit link tree count vote lowest voters) s

/-- CHILD_VOTE_TIMEOUT (R70, R585). -/
def childTimeout (js link : Nat) (m : Dev) : Dev :=
  match jobAt m js with
  | none => m
  | some j => match jobTree m j with
    | none => m
    | some e =>
      let c := j.stroke % 65536
      if j.voted ∧ !j.voteSent ∧ bitOf e.down link ∧ (tfind m.net.votes (e.tree * 32 + link)).map (·.1) ≠ some c then
        let child := (linkAt m link).peerPos
        let n := tget 0 j.missed link + 1
        let m := updNet m (fun x => { x with votes := tput x.votes (e.tree * 32 + link) (c, true, child, 1) })
        let m := updJob m js (fun j => { j with missed := tput j.missed link n })
        tryVote js (sendReport js (if 2 ≤ n then 2 else 1) child m)
      else m

def execChildVoteTimeout (slot link : Nat) (s : State) : Host.Outcome State Fault Refusal :=
  onDev (.childVoteTimeout slot link) (childTimeout slot link) s

/-- ORIGIN_LOST_TIMEOUT (R60, R594). -/
def originLost (js : Nat) (m : Dev) : Dev :=
  match jobAt m js with
  | none => m
  | some j => match coordOf j with
    | some c => if j.started ∧ !j.isOrigin then sendReport js 3 c m else m
    | none => m

def execOriginLostTimeout (slot : Nat) (s : State) : Host.Outcome State Fault Refusal := onDev (.originLostTimeout slot) (originLost slot) s

/-- DECLARE_FLIT (R459). -/
def declareFlit (link position reason : Nat) (m : Dev) : Dev :=
  if !arrives m link then m
  else
    let m := raiseModule m 0x0B64 0 (leBytes 1 link ++ zeros 1 ++ leBytes 2 position ++ leBytes 2 reason)
    let up := m.net.trees.filter (fun e => bitOf e.down link && decide (e.up ≤ 31) && decide ((e.tree, position) ∉ m.net.declared))
    let m := up.foldl (fun m e => sendFlit m e.up (.declare position reason)) m
    reportDeclared position (updNet m (fun n => { n with declared := n.declared ++ up.map (fun e => (e.tree, position)) }))

def execDeclareFlit (link position reason : Nat) (s : State) : Host.Outcome State Fault Refusal :=
  onDev (.declareFlit link position reason) (declareFlit link position reason) s

/-! ### Frames and packets (R450, R455, R464) -/

/-- R455: the flit that a frame carries is delivered; a reserved KIND is discarded. -/
def deliverFlit (link : Nat) (l : List Byte) (launches : List Launch) (m : Dev) : Dev :=
  let tree := recField l 1 2
  match recField l 0 1 % 16 with
  | 1 => strokeBoundary link tree (recField l 3 1) (recField l 4 8) (bitOf (recField l 0 1) 4) (bitOf (recField l 0 1) 5) launches m
  | 2 => stretchFlit link tree (recField l 3 1) (recField l 4 8) m
  | 3 => voteFlit link tree (recField l 3 2) (decide (recField l 5 1 = 1)) (recField l 6 2) (recField l 8 2) m
  | 4 => joinFlit link tree (recField l 3 2) m
  | 5 => attachFlit link tree (recField l 3 1) (recBytes l 4 8) m
  | 6 => declareFlit link (recField l 3 2) (recField l 5 2) m
  | _ => m

/-- FRAME_RECEIVE (R450 to R453). -/
def frameReceive (link : Nat) (f : Frame) (m : Dev) : Dev :=
  let r := frameIn link f m
  if r.1 then deliverFlit link f.flit f.launches r.2 else r.2

def execFrameReceive (link : Nat) (frame : Frame) (s : State) : Host.Outcome State Fault Refusal :=
  onDev (.frameReceive link frame) (frameReceive link frame) s

/-- A refused packet is counted on the link that it came on (R464, R561, R596). -/
def countWindow (link : Nat) (m : Dev) : Dev := updLink m link (fun k => { k with window := sat 4 (k.window + 1) })

/-- `n` values of `w` bytes from an offset. -/
def fieldsAt (l : List Byte) (o w n : Nat) : List Nat := (List.range n).map (fun i => recField l (o + w * i) w)

/-- A securing packet (R561). Any member may send SECURE_REQUEST. -/
def secureControl (js src : Nat) (l : List Byte) (m : Dev) : Dev :=
  let gen := recField l 8 4
  match recField l 0 1 with
  | 0x10 => secureRequest js m
  | 0x11 => secureBegin js src gen (recField l 16 8) m
  | 0x12 => secureReady js src gen (recField l 12 1) m
  | 0x13 => secureEnd js src gen (recField l 24 1) (recField l 16 8) m
  | _ => secureHeld js src gen (recField l 12 1) m

/-- A recovery packet for a bound job (R596). -/
def recoveryControl (js src : Nat) (j : Job) (l : List Byte) (m : Dev) : Dev :=
  let attempt := recField l 12 1
  match recField l 0 1 with
  | 0x20 => takeReport js (recField l 13 1) (recField l 14 2) m
  | 0x21 => takeNotice js src attempt (recField l 14 2) (fieldsAt l 24 2 (min 20 (recField l 13 1))) j m
  | 0x22 => takeAck js { src := src, flags := recField l 13 1, holdGen := fieldsAt l 24 4 2, aqGen := fieldsAt l 32 4 2
                         holdStep := fieldsAt l 40 8 2, aqStep := fieldsAt l 56 8 2 } attempt j m
  | 0x24 => takeSpareUp js (recField l 14 2) j m
  | 0x25 => takeConfigured js src (recField l 13 1) j m
  | 0x26 => takeFetch js src (recField l 13 1) (recField l 14 1) (recField l 24 4) j m
  | 0x27 => takeRestored js src (recField l 13 1) m
  | _ => m

/-- A CONTROL packet for this module. -/
def controlIn (link src : Nat) (l : List Byte) (m : Dev) : Dev :=
  let kind := recField l 0 1
  if kind = 0x23 then takeTakeover l m
  else match jobById m (recField l 4 4) with
    | none => countWindow link m
    | some (js, j) =>
      if 0x10 ≤ kind ∧ kind ≤ 0x14 then
        if kind = 0x10 ∨ secureSource m js src then secureControl js src l m else countWindow link m
      else if 0x20 ≤ kind ∧ kind ≤ 0x27 then
        if knownSource j src then recoveryControl js src j l m else countWindow link m
      else m

/-- A WRITE packet for this module: memory under its window, or the engine that opened the window, takes the data. -/
def writeIn (link : Nat) (p : Packet) (m : Dev) : Dev :=
  let r := windowWrite link p m
  match r.1, windowFor m p.window p.src with
  | true, some w =>
    if p.window = 0xF100 then fetchTaken w.job p.src p.offset p.payload (decide (p.poisonMap ≠ 0)) r.2
    else if p.window = 0xF200 then moveGot w.job p.offset p.payload (decide (p.poisonMap ≠ 0)) r.2
    else if 0xF000 ≤ p.window ∧ p.window < 0xF100 then holdGot w.job (p.window - 0xF000) link p.payload.length r.2
    else r.2
  | _, _ => r.2

/-- BULK_PACKET_RECEIVE (R464, R468, R628). -/
def bulkReceive (link : Nat) (p : Packet) (m : Dev) : Dev :=
  if !forwarding m ∨ !linkUp (linkAt m link) ∨ 4 ≤ m.power.deep then m
  else if m.net.position ≠ some p.dest then packetForward link p m
  else
    let m := packetWake m
    match p.type with
    | 1 => writeIn link p m
    | 2 => if p.crcOk then controlIn link p.src p.payload m else countWindow link m
    | _ => m

def execBulkPacketReceive (link : Nat) (packet : Packet) (s : State) : Host.Outcome State Fault Refusal :=
  onDev (.bulkPacketReceive link packet) (bulkReceive link packet) s

/-! ### The local stroke (R55) -/

/-- R75: a job-wide request whose job has gone is answered. -/
def answerUnbound (m : Dev) : Dev :=
  let gone := fun (a : Accepted) => match specOf a.cmd with | some c => (specJob c m).isNone | none => true
  let l := m.ctl.waiting.filter gone
  let m := updCtl m (fun c => { c with waiting := c.waiting.filter (fun a => !gone a) })
  l.foldl (fun m a => match specOf a.cmd with | some c => runCmd c m | none => m) m

/-- What counts once in a stroke counts anew (R122, R189, R261, R464), and the flips of the buckets that the local stroke times
take effect (R126). -/
def strokeLatches (m : Dev) : Dev :=
  let m := updNet (updCtl (flipsTake none m) (fun c => { c with violated := [] })) (fun n => { n with winFaults := [] })
  { m with
    arrays := m.arrays.foldl (fun t a => tset {} t a.1 { a.2 with failedCols := [] }) []
    banks := m.banks.foldl (fun t b => tset {} t b.1 { b.2 with faulted := false }) [] }

/-- The local stroke ends with what R130 writes at its end, and the next begins. -/
def localEnds (m : Dev) : Dev :=
  let n := m.ctl.localStroke
  updCtl (strokeLatches (resetsDone (endStroke (supersededCaps n m) none n false))) (fun c => { c with localStroke := (n + 1) % 2 ^ 64 })

/-- A JOB_CREATE waits while an array self-test runs (R187). -/
def mayApply (m : Dev) (a : Accepted) : Bool := match a.cmd with | .jobCreate .. => m.sys.selftest.isNone | _ => true

/-- The local stroke ends and the next begins, in the states in which the wellhead or the minimal service runs, and the requests that
were accepted in an earlier one take effect. -/
def localTick (nv : NonVol) (m : Dev) : NonVol × Dev :=
  match m.sys.st with
  | .off | .boot | .failed => (nv, m)
  | _ =>
    let m := localEnds m
    let x := ((acceptedOf m none).filter (mayApply m)).foldl (applyLocal m.ctl.localStroke) (nv, m)
    (x.1, answerUnbound x.2)

/-- LOCAL_STROKE_TICK; a reset that a commit deferred falls due at the first boundary after the commit (R698). -/
def execLocalStrokeTick (s : State) : Host.Outcome State Fault Refusal :=
  onBoot .localStrokeTick (fun nv m => resetDeferred (localTick nv m).1 (localTick nv m).2) s

end Sys2Proof.Machine
end

