-- ==== Sys2Proof/Machine/Dispatch.lean ====
section
/-! DEFINITION. Sys2Proof/Machine/Dispatch.lean: the meaning of each command, one arm for each constructor. -/

namespace Sys2Proof.Machine

def exec (i : Instr) (s : State) : Host.Outcome State Fault Refusal :=
  match i with
  | .moduleInfo mb => Sys2Proof.Machine.execModuleInfo mb s
  | .moduleQuiesce mb => Sys2Proof.Machine.execModuleQuiesce mb s
  | .moduleResume mb => Sys2Proof.Machine.execModuleResume mb s
  | .moduleReset mb flags => Sys2Proof.Machine.execModuleReset mb flags s
  | .eventAreaSet mb areaAddr areaRkey slots consumerAddr consumerRkey qp => Sys2Proof.Machine.execEventAreaSet mb areaAddr areaRkey slots consumerAddr consumerRkey qp s
  | .partitionSet mb dies classes => Sys2Proof.Machine.execPartitionSet mb dies classes s
  | .partitionReset mb partition => Sys2Proof.Machine.execPartitionReset mb partition s
  | .partitionStatus mb partition => Sys2Proof.Machine.execPartitionStatus mb partition s
  | .shareGrant mb addr grantees => Sys2Proof.Machine.execShareGrant mb addr grantees s
  | .shareRevoke mb addr grantees => Sys2Proof.Machine.execShareRevoke mb addr grantees s
  | .partitionNet mb partition priority vlan ipv4 ipv6 allow allowLen qpMax => Sys2Proof.Machine.execPartitionNet mb partition priority vlan ipv4 ipv6 allow allowLen qpMax s
  | .linkIdentity mb position => Sys2Proof.Machine.execLinkIdentity mb position s
  | .routeSet mb firstPos count bucket => Sys2Proof.Machine.execRouteSet mb firstPos count bucket s
  | .treeSet mb count bucket => Sys2Proof.Machine.execTreeSet mb count bucket s
  | .linkControl mb link action => Sys2Proof.Machine.execLinkControl mb link action s
  | .spareArm mb jobId partition flags count first => Sys2Proof.Machine.execSpareArm mb jobId partition flags count first s
  | .portConfig mb speed lpi ptp domain mtu => Sys2Proof.Machine.execPortConfig mb speed lpi ptp domain mtu s
  | .bucketMap mb first count kind ownerInit addr jobId notify => Sys2Proof.Machine.execBucketMap mb first count kind ownerInit addr jobId notify s
  | .bucketUnmap mb first count => Sys2Proof.Machine.execBucketUnmap mb first count s
  | .memAlloc mb jobId kind unit segments => Sys2Proof.Machine.execMemAlloc mb jobId kind unit segments s
  | .memFree mb addr => Sys2Proof.Machine.execMemFree mb addr s
  | .quotaSet mb partition kind jobId limit => Sys2Proof.Machine.execQuotaSet mb partition kind jobId limit s
  | .memStatus mb partition => Sys2Proof.Machine.execMemStatus mb partition s
  | .aqWrite mb addr firstExtent count => Sys2Proof.Machine.execAqWrite mb addr firstExtent count s
  | .aqRead mb addr firstExtent count => Sys2Proof.Machine.execAqRead mb addr firstExtent count s
  | .aqTrim mb firstExtent count => Sys2Proof.Machine.execAqTrim mb firstExtent count s
  | .jobCreate mb jobId partition periodK stretchLimit priority voteMargin self origin members firstStroke seed => Sys2Proof.Machine.execJobCreate mb jobId partition periodK stretchLimit priority voteMargin self origin members firstStroke seed s
  | .jobStatus mb jobId => Sys2Proof.Machine.execJobStatus mb jobId s
  | .jobHalt mb jobId => Sys2Proof.Machine.execJobHalt mb jobId s
  | .jobResume mb jobId => Sys2Proof.Machine.execJobResume mb jobId s
  | .jobDestroy mb jobId => Sys2Proof.Machine.execJobDestroy mb jobId s
  | .genConfig mb jobId imgFirst imgCount outCount outFirst eos context queueMax reqStore pool => Sys2Proof.Machine.execGenConfig mb jobId imgFirst imgCount outCount outFirst eos context queueMax reqStore pool s
  | .genSubmit mb jobId first count => Sys2Proof.Machine.execGenSubmit mb jobId first count s
  | .genCancel mb jobId reqId slot => Sys2Proof.Machine.execGenCancel mb jobId reqId slot s
  | .genMask mb jobId reqId first => Sys2Proof.Machine.execGenMask mb jobId reqId first s
  | .tinctureLoad mb jobId tincture count first => Sys2Proof.Machine.execTinctureLoad mb jobId tincture count first s
  | .tinctureUnload mb jobId tincture count first => Sys2Proof.Machine.execTinctureUnload mb jobId tincture count first s
  | .genStatus mb jobId slot => Sys2Proof.Machine.execGenStatus mb jobId slot s
  | .learnConfig mb jobId imgFirst imgCount groupSize shard group b1 b2 eps wd maxNorm lsInit fmtShift fmtWindow lsGrowth fillJob feedStore => Sys2Proof.Machine.execLearnConfig mb jobId imgFirst imgCount groupSize shard group b1 b2 eps wd maxNorm lsInit fmtShift fmtWindow lsGrowth fillJob feedStore s
  | .learnFeed mb jobId first count => Sys2Proof.Machine.execLearnFeed mb jobId first count s
  | .learnRun mb jobId steps lr => Sys2Proof.Machine.execLearnRun mb jobId steps lr s
  | .learnMask mb jobId first fromStep count => Sys2Proof.Machine.execLearnMask mb jobId first fromStep count s
  | .learnStatus mb jobId => Sys2Proof.Machine.execLearnStatus mb jobId s
  | .turnBegin mb jobId epoch target source periodK layout stageLimit turnGroup distGroup src imageDigest layoutDigest => Sys2Proof.Machine.execTurnBegin mb jobId epoch target source periodK layout stageLimit turnGroup distGroup src imageDigest layoutDigest s
  | .turnAbort mb jobId => Sys2Proof.Machine.execTurnAbort mb jobId s
  | .turnStatus mb jobId => Sys2Proof.Machine.execTurnStatus mb jobId s
  | .layoutLoad mb jobId layout flags count first => Sys2Proof.Machine.execLayoutLoad mb jobId layout flags count first s
  | .secureConfig mb jobId cfg => Sys2Proof.Machine.execSecureConfig mb jobId cfg s
  | .secureNow mb jobId flags => Sys2Proof.Machine.execSecureNow mb jobId flags s
  | .secureStatus mb jobId => Sys2Proof.Machine.execSecureStatus mb jobId s
  | .journalRead mb jobId step => Sys2Proof.Machine.execJournalRead mb jobId step s
  | .recoveryPlan mb jobId count first => Sys2Proof.Machine.execRecoveryPlan mb jobId count first s
  | .takeoverConfig mb jobId first count => Sys2Proof.Machine.execTakeoverConfig mb jobId first count s
  | .recoveryRestore mb jobId generation layer flags refLoss storeAddr storeRkey storeQp => Sys2Proof.Machine.execRecoveryRestore mb jobId generation layer flags refLoss storeAddr storeRkey storeQp s
  | .recoveryStatus mb jobId => Sys2Proof.Machine.execRecoveryStatus mb jobId s
  | .collGroupSet mb jobId group flags dies rank members podShift nroots roots => Sys2Proof.Machine.execCollGroupSet mb jobId group flags dies rank members podShift nroots roots s
  | .collStatus mb jobId group seq => Sys2Proof.Machine.execCollStatus mb jobId group seq s
  | .powerCapSet mb capW => Sys2Proof.Machine.execPowerCapSet mb capW s
  | .powerShareSet mb partition shareW => Sys2Proof.Machine.execPowerShareSet mb partition shareW s
  | .powerStateSet mb target dies => Sys2Proof.Machine.execPowerStateSet mb target dies s
  | .freqModeSet mb mode => Sys2Proof.Machine.execFreqModeSet mb mode s
  | .thermalSet mb stackThr stackHyst dieThr => Sys2Proof.Machine.execThermalSet mb stackThr stackHyst dieThr s
  | .primingSet mb enable slopeUs limitMs => Sys2Proof.Machine.execPrimingSet mb enable slopeUs limitMs s
  | .powerStatus mb => Sys2Proof.Machine.execPowerStatus mb s
  | .energyReport mb partition => Sys2Proof.Machine.execEnergyReport mb partition s
  | .imageBegin mb flags head => Sys2Proof.Machine.execImageBegin mb flags head s
  | .imageWrite mb offset data => Sys2Proof.Machine.execImageWrite mb offset data s
  | .imageCommit mb => Sys2Proof.Machine.execImageCommit mb s
  | .attest mb nonce jobId => Sys2Proof.Machine.execAttest mb nonce jobId s
  | .arrayMap mb die => Sys2Proof.Machine.execArrayMap mb die s
  | .arraySelftest mb die => Sys2Proof.Machine.execArraySelftest mb die s
  | .numericsStatus mb jobId => Sys2Proof.Machine.execNumericsStatus mb jobId s
  | .kvStatus mb jobId die => Sys2Proof.Machine.execKvStatus mb jobId die s
  | .linkStatus mb link => Sys2Proof.Machine.execLinkStatus mb link s
  | .riskConfig mb weights => Sys2Proof.Machine.execRiskConfig mb weights s
  | .riskStatus mb => Sys2Proof.Machine.execRiskStatus mb s
  | .portStatus mb jobId => Sys2Proof.Machine.execPortStatus mb jobId s
  | .bootStatus mb => Sys2Proof.Machine.execBootStatus mb s
  | .hostCwWrite qp key offset data => Sys2Proof.Machine.execHostCwWrite qp key offset data s
  | .mailboxFlip qp key mb => Sys2Proof.Machine.execMailboxFlip qp key mb s
  | .watcherReport mb => Sys2Proof.Machine.execWatcherReport mb s
  | .hostFlagWrite qp key bucket offset data => Sys2Proof.Machine.execHostFlagWrite qp key bucket offset data s
  | .hostBucketWrite qp key bucket offset data => Sys2Proof.Machine.execHostBucketWrite qp key bucket offset data s
  | .hostBucketRead qp key bucket offset len => Sys2Proof.Machine.execHostBucketRead qp key bucket offset len s
  | .consumerReread partition value => Sys2Proof.Machine.execConsumerReread partition value s
  | .cmReq service src remoteQpn => Sys2Proof.Machine.execCmReq service src remoteQpn s
  | .cmDreq qp => Sys2Proof.Machine.execCmDreq qp s
  | .rdmaAckTimeout qp => Sys2Proof.Machine.execRdmaAckTimeout qp s
  | .ecnMarkedPacket qp => Sys2Proof.Machine.execEcnMarkedPacket qp s
  | .cnpReceive qp => Sys2Proof.Machine.execCnpReceive qp s
  | .portLinkChange mode cause lpiOk => Sys2Proof.Machine.execPortLinkChange mode cause lpiOk s
  | .originPeriodEnd slot launches => Sys2Proof.Machine.execOriginPeriodEnd slot launches s
  | .strokeBoundary link tree natt count stretched first launches => Sys2Proof.Machine.execStrokeBoundary link tree natt count stretched first launches s
  | .stretchFlit link tree stretches count => Sys2Proof.Machine.execStretchFlit link tree stretches count s
  | .voteDeadline slot => Sys2Proof.Machine.execVoteDeadline slot s
  | .voteFlit link tree count vote lowest voters => Sys2Proof.Machine.execVoteFlit link tree count vote lowest voters s
  | .childVoteTimeout slot link => Sys2Proof.Machine.execChildVoteTimeout slot link s
  | .originLostTimeout slot => Sys2Proof.Machine.execOriginLostTimeout slot s
  | .joinFlit link tree joined => Sys2Proof.Machine.execJoinFlit link tree joined s
  | .attachFlit link tree index data => Sys2Proof.Machine.execAttachFlit link tree index data s
  | .declareFlit link position reason => Sys2Proof.Machine.execDeclareFlit link position reason s
  | .linkPeerSignal link => Sys2Proof.Machine.execLinkPeerSignal link s
  | .linkTrainDone link lanes flight peerAssigned peerPos peerLink cause => Sys2Proof.Machine.execLinkTrainDone link lanes flight peerAssigned peerPos peerLink cause s
  | .linkTrainTimeout link cause => Sys2Proof.Machine.execLinkTrainTimeout link cause s
  | .linkPeerLoss link => Sys2Proof.Machine.execLinkPeerLoss link s
  | .frameReceive link frame => Sys2Proof.Machine.execFrameReceive link frame s
  | .nakReceive link ack => Sys2Proof.Machine.execNakReceive link ack s
  | .linkIdleTimeout link => Sys2Proof.Machine.execLinkIdleTimeout link s
  | .widthChangeDone link => Sys2Proof.Machine.execWidthChangeDone link s
  | .bulkPacketReceive link packet => Sys2Proof.Machine.execBulkPacketReceive link packet s
  | .bulkPacketForward link packet => Sys2Proof.Machine.execBulkPacketForward link packet s
  | .matmul die array unit => Sys2Proof.Machine.execMatmul die array unit s
  | .dither die array => Sys2Proof.Machine.execDither die array s
  | .arrayFillDone die array => Sys2Proof.Machine.execArrayFillDone die array s
  | .arrayInstrDone die array unit => Sys2Proof.Machine.execArrayInstrDone die array unit s
  | .arrayShapeChange die array => Sys2Proof.Machine.execArrayShapeChange die array s
  | .arrayRampDown die array => Sys2Proof.Machine.execArrayRampDown die array s
  | .fmaF32 f => Sys2Proof.Machine.execFmaF32 f s
  | .addF32 f => Sys2Proof.Machine.execAddF32 f s
  | .mulF32 f => Sys2Proof.Machine.execMulF32 f s
  | .maxF32 f => Sys2Proof.Machine.execMaxF32 f s
  | .minF32 f => Sys2Proof.Machine.execMinF32 f s
  | .fmaBf16x2 f => Sys2Proof.Machine.execFmaBf16x2 f s
  | .cvt f => Sys2Proof.Machine.execCvt f s
  | .divF32 f => Sys2Proof.Machine.execDivF32 f s
  | .sqrtF32 f => Sys2Proof.Machine.execSqrtF32 f s
  | .expF32 f => Sys2Proof.Machine.execExpF32 f s
  | .logF32 f => Sys2Proof.Machine.execLogF32 f s
  | .iadd f => Sys2Proof.Machine.execIadd f s
  | .isub f => Sys2Proof.Machine.execIsub f s
  | .imul f => Sys2Proof.Machine.execImul f s
  | .vAnd f => Sys2Proof.Machine.execVAnd f s
  | .vOr f => Sys2Proof.Machine.execVOr f s
  | .vXor f => Sys2Proof.Machine.execVXor f s
  | .shl f => Sys2Proof.Machine.execShl f s
  | .shr f => Sys2Proof.Machine.execShr f s
  | .cmp f => Sys2Proof.Machine.execCmp f s
  | .sel f => Sys2Proof.Machine.execSel f s
  | .ld f => Sys2Proof.Machine.execLd f s
  | .st f => Sys2Proof.Machine.execSt f s
  | .atomAdd32 f => Sys2Proof.Machine.execAtomAdd32 f s
  | .atomAdd64 f => Sys2Proof.Machine.execAtomAdd64 f s
  | .atomSwap32 f => Sys2Proof.Machine.execAtomSwap32 f s
  | .atomSwap64 f => Sys2Proof.Machine.execAtomSwap64 f s
  | .atomBset f => Sys2Proof.Machine.execAtomBset f s
  | .atomBclr f => Sys2Proof.Machine.execAtomBclr f s
  | .atomUmax32 f => Sys2Proof.Machine.execAtomUmax32 f s
  | .atomUmin32 f => Sys2Proof.Machine.execAtomUmin32 f s
  | .postedAtomicApply die => Sys2Proof.Machine.execPostedAtomicApply die s
  | .dmaCopy f => Sys2Proof.Machine.execDmaCopy f s
  | .dmaCopyDone die engine => Sys2Proof.Machine.execDmaCopyDone die engine s
  | .fence f => Sys2Proof.Machine.execFence f s
  | .dmaWait f => Sys2Proof.Machine.execDmaWait f s
  | .shfl f => Sys2Proof.Machine.execShfl f s
  | .reduceFadd f => Sys2Proof.Machine.execReduceFadd f s
  | .reduceFmax f => Sys2Proof.Machine.execReduceFmax f s
  | .reduceIadd f => Sys2Proof.Machine.execReduceIadd f s
  | .br f => Sys2Proof.Machine.execBr f s
  | .barE f => Sys2Proof.Machine.execBarE f s
  | .exit f => Sys2Proof.Machine.execExit f s
  | .draw f => Sys2Proof.Machine.execDraw f s
  | .mxIssue f => Sys2Proof.Machine.execMxIssue f s
  | .mxWait f => Sys2Proof.Machine.execMxWait f s
  | .spbGive f => Sys2Proof.Machine.execSpbGive f s
  | .spbWait f => Sys2Proof.Machine.execSpbWait f s
  | .getf f => Sys2Proof.Machine.execGetf f s
  | .ubase f => Sys2Proof.Machine.execUbase f s
  | .spbHandoverEffect die bank => Sys2Proof.Machine.execSpbHandoverEffect die bank s
  | .spbOwnerWrite die bank value => Sys2Proof.Machine.execSpbOwnerWrite die bank value s
  | .registerWrite addr value => Sys2Proof.Machine.execRegisterWrite addr value s
  | .attBankHandover die bank => Sys2Proof.Machine.execAttBankHandover die bank s
  | .attFwd die => Sys2Proof.Machine.execAttFwd die s
  | .attAppend die => Sys2Proof.Machine.execAttAppend die s
  | .pageShare die => Sys2Proof.Machine.execPageShare die s
  | .pageTruncate die => Sys2Proof.Machine.execPageTruncate die s
  | .pageRelease die => Sys2Proof.Machine.execPageRelease die s
  | .pageDrop die => Sys2Proof.Machine.execPageDrop die s
  | .pagePromote die => Sys2Proof.Machine.execPagePromote die s
  | .pageDemote die => Sys2Proof.Machine.execPageDemote die s
  | .pageCopyOnWrite die slot seq layer kvh index => Sys2Proof.Machine.execPageCopyOnWrite die slot seq layer kvh index s
  | .pageMoveDone die slot page => Sys2Proof.Machine.execPageMoveDone die slot page s
  | .atmBankHandover die bank => Sys2Proof.Machine.execAtmBankHandover die bank s
  | .sample die => Sys2Proof.Machine.execSample die s
  | .outputBucketReady slot => Sys2Proof.Machine.execOutputBucketReady slot s
  | .tinctureCopyDone slot tincture version => Sys2Proof.Machine.execTinctureCopyDone slot tincture version s
  | .weightPoisonReport slot addr => Sys2Proof.Machine.execWeightPoisonReport slot addr s
  | .weightRestoreDone slot addr => Sys2Proof.Machine.execWeightRestoreDone slot addr s
  | .sliceHandoff slot slice nonfinite poison => Sys2Proof.Machine.execSliceHandoff slot slice nonfinite poison s
  | .sliceDelivered slot slice data => Sys2Proof.Machine.execSliceDelivered slot slice data s
  | .verdictReduceDone slot flags count tokens loss sqnorm => Sys2Proof.Machine.execVerdictReduceDone slot flags count tokens loss sqnorm s
  | .collBankHandover die bank => Sys2Proof.Machine.execCollBankHandover die bank s
  | .bcast die jobSlot group seq => Sys2Proof.Machine.execBcast die jobSlot group seq s
  | .reduce die jobSlot group seq => Sys2Proof.Machine.execReduce die jobSlot group seq s
  | .allreduce die jobSlot group seq => Sys2Proof.Machine.execAllreduce die jobSlot group seq s
  | .reduceDeliver die jobSlot group seq => Sys2Proof.Machine.execReduceDeliver die jobSlot group seq s
  | .allgather die jobSlot group seq => Sys2Proof.Machine.execAllgather die jobSlot group seq s
  | .gather die jobSlot group seq => Sys2Proof.Machine.execGather die jobSlot group seq s
  | .scatter die jobSlot group seq => Sys2Proof.Machine.execScatter die jobSlot group seq s
  | .reduceScatter die jobSlot group seq => Sys2Proof.Machine.execReduceScatter die jobSlot group seq s
  | .headerChunk link chunk => Sys2Proof.Machine.execHeaderChunk link chunk s
  | .goChunk link chunk => Sys2Proof.Machine.execGoChunk link chunk s
  | .dataChunk link chunk => Sys2Proof.Machine.execDataChunk link chunk s
  | .abortChunk link chunk => Sys2Proof.Machine.execAbortChunk link chunk s
  | .endedChunk link chunk => Sys2Proof.Machine.execEndedChunk link chunk s
  | .finishChunk link chunk => Sys2Proof.Machine.execFinishChunk link chunk s
  | .collWaitingTick die below => Sys2Proof.Machine.execCollWaitingTick die below s
  | .sluicePartDone slot cause => Sys2Proof.Machine.execSluicePartDone slot cause s
  | .stageRecordDone slot words => Sys2Proof.Machine.execStageRecordDone slot words s
  | .stageLimitTimeout slot => Sys2Proof.Machine.execStageLimitTimeout slot s
  | .protectedWrite die addr data => Sys2Proof.Machine.execProtectedWrite die addr data s
  | .reserveCopyDone die page => Sys2Proof.Machine.execReserveCopyDone die page s
  | .siphonPageSent slot page => Sys2Proof.Machine.execSiphonPageSent slot page s
  | .secureRequest slot src estimate => Sys2Proof.Machine.execSecureRequest slot src estimate s
  | .secureBegin slot src generation bytes => Sys2Proof.Machine.execSecureBegin slot src generation bytes s
  | .secureReady slot src generation holdSlot => Sys2Proof.Machine.execSecureReady slot src generation holdSlot s
  | .holdSlotFree slot holdSlot => Sys2Proof.Machine.execHoldSlotFree slot holdSlot s
  | .secureEnd slot src generation link bytes => Sys2Proof.Machine.execSecureEnd slot src generation link bytes s
  | .secureHeld slot src generation holdSlot => Sys2Proof.Machine.execSecureHeld slot src generation holdSlot s
  | .secureRecordDone slot words => Sys2Proof.Machine.execSecureRecordDone slot words s
  | .secureTimeout slot => Sys2Proof.Machine.execSecureTimeout slot s
  | .aquiferSlotWriteDone slot status => Sys2Proof.Machine.execAquiferSlotWriteDone slot status s
  | .storeSlotWriteDone slot status => Sys2Proof.Machine.execStoreSlotWriteDone slot status s
  | .reportReceive slot src cause subject => Sys2Proof.Machine.execReportReceive slot src cause subject s
  | .noticeReceive slot src attempt coordinator failed => Sys2Proof.Machine.execNoticeReceive slot src attempt coordinator failed s
  | .ackReceive slot src attempt flags holdGen aqGen holdStep aqStep => Sys2Proof.Machine.execAckReceive slot src attempt flags holdGen aqGen holdStep aqStep s
  | .ackLimitTimeout slot position => Sys2Proof.Machine.execAckLimitTimeout slot position s
  | .recoveryEntryTimer slot launches => Sys2Proof.Machine.execRecoveryEntryTimer slot launches s
  | .coordinatorTakeover slot => Sys2Proof.Machine.execCoordinatorTakeover slot s
  | .reportOriginTimeout slot => Sys2Proof.Machine.execReportOriginTimeout slot s
  | .takeoverReceive payload => Sys2Proof.Machine.execTakeoverReceive payload s
  | .spareUpReceive slot src position => Sys2Proof.Machine.execSpareUpReceive slot src position s
  | .configuredReceive slot src result => Sys2Proof.Machine.execConfiguredReceive slot src result s
  | .fetchReceive slot src layer holdSlot generation => Sys2Proof.Machine.execFetchReceive slot src layer holdSlot generation s
  | .restoredReceive slot src result => Sys2Proof.Machine.execRestoredReceive slot src result s
  | .capControlTick rails input => Sys2Proof.Machine.execCapControlTick rails input s
  | .primingStart die cause activity => Sys2Proof.Machine.execPrimingStart die cause activity s
  | .thermalDutyTick die temp => Sys2Proof.Machine.execThermalDutyTick die temp s
  | .stackTempRead stack temp => Sys2Proof.Machine.execStackTempRead stack temp s
  | .segmentCleared segment => Sys2Proof.Machine.execSegmentCleared segment s
  | .aqOpDone index failed wear spare => Sys2Proof.Machine.execAqOpDone index failed wear spare s
  | .startStep failCols => Sys2Proof.Machine.execStartStep failCols s
  | .startFailed reason detail => Sys2Proof.Machine.execStartFailed reason detail s
  | .imageCopyDone slot kind index => Sys2Proof.Machine.execImageCopyDone slot kind index s
  | .flashOperationDone ok => Sys2Proof.Machine.execFlashOperationDone ok s
  | .cnpRateRaise qp => Sys2Proof.Machine.execCnpRateRaise qp s
  | .ptpMessage kind time offset locked => Sys2Proof.Machine.execPtpMessage kind time offset locked s
  | .arpNdIcmp kind addr => Sys2Proof.Machine.execArpNdIcmp kind addr s
  | .laneFailure link lane => Sys2Proof.Machine.execLaneFailure link lane s
  | .columnParityFail die array unit column row => Sys2Proof.Machine.execColumnParityFail die array unit column row s
  | .riskRearmTimeout slot => Sys2Proof.Machine.execRiskRearmTimeout slot s
  | .primingStepDown die => Sys2Proof.Machine.execPrimingStepDown die s
  | .primeLimitTimeout die => Sys2Proof.Machine.execPrimeLimitTimeout die s
  | .dieWake die => Sys2Proof.Machine.execDieWake die s
  | .regulatorAlarm rail alarm value holds => Sys2Proof.Machine.execRegulatorAlarm rail alarm value holds s
  | .vcoreDroop die => Sys2Proof.Machine.execVcoreDroop die s
  | .stackThrottleDecay stack => Sys2Proof.Machine.execStackThrottleDecay stack s
  | .criticalTemp sensor temp => Sys2Proof.Machine.execCriticalTemp sensor temp s
  | .coolantSensorTick inlet outlet wet => Sys2Proof.Machine.execCoolantSensorTick inlet outlet wet s
  | .patrolScrub addr corrected uncorrectable => Sys2Proof.Machine.execPatrolScrub addr corrected uncorrectable s
  | .rowRepairCandidate kind unit bank row => Sys2Proof.Machine.execRowRepairCandidate kind unit bank row s
  | .softRepairDone unit => Sys2Proof.Machine.execSoftRepairDone unit s
  | .uncontainedFault unit => Sys2Proof.Machine.execUncontainedFault unit s
  | .p5WakeRestart reason => Sys2Proof.Machine.execP5WakeRestart reason s
  | .smbFruRead offset len => Sys2Proof.Machine.execSmbFruRead offset len s
  | .linkLostTimeout link => Sys2Proof.Machine.execLinkLostTimeout link s
  | .thermalThresholdCrossed kind unit temp => Sys2Proof.Machine.execThermalThresholdCrossed kind unit temp s
  | .rdmaNakReceive qp psn cause => Sys2Proof.Machine.execRdmaNakReceive qp psn cause s
  | .pfcPauseFrame priority quanta => Sys2Proof.Machine.execPfcPauseFrame priority quanta s
  | .selftestDone failCols => Sys2Proof.Machine.execSelftestDone failCols s
  | .localStrokeTick => Sys2Proof.Machine.execLocalStrokeTick s
  | .powerBrakeAssert => Sys2Proof.Machine.execPowerBrakeAssert s
  | .powerBrakeRelease => Sys2Proof.Machine.execPowerBrakeRelease s
  | .brakeHoldEnd => Sys2Proof.Machine.execBrakeHoldEnd s
  | .riskEstimateTick => Sys2Proof.Machine.execRiskEstimateTick s
  | .freqStepTick => Sys2Proof.Machine.execFreqStepTick s
  | .p3PacketWake => Sys2Proof.Machine.execP3PacketWake s
  | .powerOn => Sys2Proof.Machine.execPowerOn s
  | .inputShutdown => Sys2Proof.Machine.execInputShutdown s
  | .resetNLow => Sys2Proof.Machine.execResetNLow s
  | .resetNHigh => Sys2Proof.Machine.execResetNHigh s
  | .startWaitEnd => Sys2Proof.Machine.execStartWaitEnd s
  | .minimalServiceUp => Sys2Proof.Machine.execMinimalServiceUp s
  | .startWatchdog => Sys2Proof.Machine.execStartWatchdog s
  | .wellheadUnresponsive => Sys2Proof.Machine.execWellheadUnresponsive s
  | .aquiferControllerFailure => Sys2Proof.Machine.execAquiferControllerFailure s
  | .identitySignatureDone => Sys2Proof.Machine.execIdentitySignatureDone s
  | .powerStateReached => Sys2Proof.Machine.execPowerStateReached s

end Sys2Proof.Machine
end

