-- ==== Sys2Proof/Safety.lean ====
section
/-! DEFINITION. Sys2Proof/Safety.lean: what the statements call a sound module. -/

namespace Sys2Proof.Machine

/-- The boot flash and the fuses hold what they can hold: the flash table is canonical, the fuses have their widths
and MIN_SVN never passes 64 (R685). -/
def NonVol.ok (n : NonVol) : Prop :=
  twf 0xFF n.flash = true ∧ n.revoked < 16 ∧ n.minSvn ≤ 64

/-- A data unit of `bytes` bytes goes out on a channel of the link at once: the link is up, nothing else waits on it, and there is
credit (R462) and room in the retry buffer (R450) for each of its frames. -/
def Link.takes (k : Link) (v bytes : Nat) : Bool :=
  linkUp k && k.txq.isEmpty && k.flitq.isEmpty && decide (v < 6 ∨ (v < 8 ∧ (k.lastBulk = 6 ∨ k.lastBulk = 7)))
    && decide (0 < bytes) && decide (unitFrames bytes ≤ nth 0 k.credit v) && decide (k.retry.length + unitFrames bytes ≤ 4095)

/-- From `m` to `t` link `l` has sent a data unit of `bytes` bytes on a channel: its credit has fallen by the unit's frames (R462), the
channels' turns and the retry buffer have moved on, and every other link is as it was. -/
abbrev sentOn (m t : Dev) (l v bytes : Nat) : Prop :=
  (∀ j, j ≠ l → linkAt t j = linkAt m j)
  ∧ ∃ lastVc lastBulk wait retry next, linkAt t l = { linkAt m l with
      credit := setNth (linkAt m l).credit v (nth 0 (linkAt m l).credit v - unitFrames bytes)
      lastVc := lastVc, lastBulk := lastBulk, bulkWait := wait, retry := retry, nextSeq := next }

/-- A packet has gone out on a link, or stands among the units that wait for credit on its channel (R462). -/
def onItsWay (m : Dev) (l : Nat) (p : Packet) : Prop :=
  Out.packet l p ∈ m.out ∨ ∃ n, (p.vc, n, Out.packet l p) ∈ (linkAt m l).txq

/-- An express flit goes out on the link at once (R450, R454). -/
def Link.takesFlit (k : Link) : Bool := linkUp k && mayFrame k && k.flitq.isEmpty

/-- An express flit has gone out on a link, or waits there for an ACK (R450). -/
def flitOnItsWay (m : Dev) (l : Nat) (f : Flit) : Prop := Out.flit l f ∈ m.out ∨ f ∈ (linkAt m l).flitq

/-- What links that have sent express flits differ in: their retry buffers and their next SEQ (R450). -/
abbrev framedOn (m t : Dev) (ls : List Nat) : Prop :=
  (∀ j, j ∉ ls → linkAt t j = linkAt m j)
  ∧ ∀ j, ∃ retry next, linkAt t j = { linkAt m j with retry := retry, nextSeq := next }

end Sys2Proof.Machine

namespace Sys2Proof

/-- The commands that may change the boot flash, the fuses or the start log: starts and restarts (R687 to R693, R696), the pins and
supplies that begin or cut one short (R698, R715, R717), MODULE_RESET, and what applies a reset or a command of the image service:
the ends of local strokes and flash operations, and WATCHER_REPORT (R697, R698). -/
def Instr.mayChangeFlash : Instr → Bool
  | .powerOn => true
  | .inputShutdown => true
  | .resetNLow => true
  | .resetNHigh => true
  | .regulatorAlarm _ _ _ _ => true
  | .startStep _ => true
  | .startFailed _ _ => true
  | .startWatchdog => true
  | .startWaitEnd => true
  | .p5WakeRestart _ => true
  | .moduleReset _ _ => true
  | .localStrokeTick => true
  | .flashOperationDone _ => true
  | .watcherReport _ => true
  | _ => false

end Sys2Proof
end

