-- ==== Sys2Proof/Certificates/Slice0/Obligations.lean ====
section
/-! DEFINITION. Sys2Proof/Certificates/Slice0/Obligations.lean: the statements for the provers. -/

open Sys2Proof Sys2Proof.Machine

/-- Every command at the front of the queue acts with the queue's rest.
The readings that it takes are those of log entry 2. -/
def Obligations.StepRunsFrontCommand : Prop :=
  ∀ (c : Instr) (rest : List Instr) (s : State), s.pending = c :: rest → step s = exec c { s with pending := rest }

/-- A command that fits its fields answers a next state, which keeps the queue, and on the module it is the operation of its row; another
faults as ill-formed. What the operations do is the matter of the statements about them.
The readings that it takes are those of log entry 9. -/
def Obligations.WellFormedCommandsAnswerNext : Prop :=
  (∀ (c : Instr) (s : State),
    (c.wf = true → ∃ nv m, exec c s = .next { s with nv := nv, m := m }) ∧
    (c.wf = false → exec c s = .fault .illFormed))
  ∧ ∀ s : State,
  ((∀ mb, (Instr.moduleInfo mb).wf = true → exec (.moduleInfo mb) s = .next { s with m := runCmd (specModuleInfo mb) s.m })
    ∧ (∀ mb, (Instr.moduleQuiesce mb).wf = true → exec (.moduleQuiesce mb) s = .next { s with m := runCmd (specModuleQuiesce mb) s.m })
    ∧ (∀ mb, (Instr.moduleResume mb).wf = true → exec (.moduleResume mb) s = .next { s with m := runCmd (specModuleResume mb) s.m })
    ∧ (∀ mb flags, (Instr.moduleReset mb flags).wf = true →
      exec (.moduleReset mb flags) s = .next { s with nv := (moduleReset mb flags s.nv s.m).1, m := (moduleReset mb flags s.nv s.m).2 })
    ∧ (∀ mb areaAddr areaRkey slots consumerAddr consumerRkey qp, (Instr.eventAreaSet mb areaAddr areaRkey slots consumerAddr consumerRkey qp).wf = true →
      exec (.eventAreaSet mb areaAddr areaRkey slots consumerAddr consumerRkey qp) s
        = .next { s with m := runCmd (specEventAreaSet mb areaAddr areaRkey slots consumerAddr consumerRkey qp) s.m })
    ∧ (∀ mb dies classes, (Instr.partitionSet mb dies classes).wf = true →
      exec (.partitionSet mb dies classes) s = .next { s with m := runCmd (specPartitionSet mb dies classes) s.m })
    ∧ (∀ mb partition, (Instr.partitionReset mb partition).wf = true →
      exec (.partitionReset mb partition) s = .next { s with m := runCmd (specPartitionReset mb partition) s.m })
    ∧ (∀ mb partition, (Instr.partitionStatus mb partition).wf = true →
      exec (.partitionStatus mb partition) s = .next { s with m := runCmd (specPartitionStatus mb partition) s.m })
    ∧ (∀ mb addr grantees, (Instr.shareGrant mb addr grantees).wf = true →
      exec (.shareGrant mb addr grantees) s = .next { s with m := runCmd (specShareGrant mb addr grantees) s.m })
    ∧ (∀ mb addr grantees, (Instr.shareRevoke mb addr grantees).wf = true →
      exec (.shareRevoke mb addr grantees) s = .next { s with m := runCmd (specShareRevoke mb addr grantees) s.m })
    ∧ (∀ mb partition priority vlan ipv4 ipv6 allow allowLen qpMax, (Instr.partitionNet mb partition priority vlan ipv4 ipv6 allow allowLen qpMax).wf = true →
      exec (.partitionNet mb partition priority vlan ipv4 ipv6 allow allowLen qpMax) s
        = .next { s with m := runCmd (specPartitionNet mb partition priority vlan ipv4 ipv6 allow allowLen qpMax) s.m })
    ∧ (∀ mb position, (Instr.linkIdentity mb position).wf = true →
      exec (.linkIdentity mb position) s = .next { s with m := runCmd (specLinkIdentity mb position) s.m })
    ∧ (∀ mb firstPos count bucket, (Instr.routeSet mb firstPos count bucket).wf = true →
      exec (.routeSet mb firstPos count bucket) s = .next { s with m := runCmd (specRouteSet mb firstPos count bucket) s.m })
    ∧ (∀ mb count bucket, (Instr.treeSet mb count bucket).wf = true →
      exec (.treeSet mb count bucket) s = .next { s with m := runCmd (specTreeSet mb count bucket) s.m })
    ∧ (∀ mb link action, (Instr.linkControl mb link action).wf = true →
      exec (.linkControl mb link action) s = .next { s with m := runCmd (specLinkControl mb link action) s.m })
    ∧ (∀ mb jobId partition flags count first, (Instr.spareArm mb jobId partition flags count first).wf = true →
      exec (.spareArm mb jobId partition flags count first) s
        = .next { s with m := runCmd (specSpareArm mb jobId partition flags count first) s.m })
    ∧ (∀ mb speed lpi ptp domain mtu, (Instr.portConfig mb speed lpi ptp domain mtu).wf = true →
      exec (.portConfig mb speed lpi ptp domain mtu) s = .next { s with m := runCmd (specPortConfig mb speed lpi ptp domain mtu) s.m })
    ∧ (∀ mb first count kind ownerInit addr jobId notify, (Instr.bucketMap mb first count kind ownerInit addr jobId notify).wf = true →
      exec (.bucketMap mb first count kind ownerInit addr jobId notify) s
        = .next { s with m := runCmd (specBucketMap mb first count kind ownerInit addr jobId notify) s.m })
    ∧ (∀ mb first count, (Instr.bucketUnmap mb first count).wf = true →
      exec (.bucketUnmap mb first count) s = .next { s with m := runCmd (specBucketUnmap mb first count) s.m })
    ∧ (∀ mb jobId kind unit segments, (Instr.memAlloc mb jobId kind unit segments).wf = true →
      exec (.memAlloc mb jobId kind unit segments) s = .next { s with m := runCmd (specMemAlloc mb jobId kind unit segments) s.m })
    ∧ (∀ mb addr, (Instr.memFree mb addr).wf = true → exec (.memFree mb addr) s = .next { s with m := runCmd (specMemFree mb addr) s.m })
    ∧ (∀ mb partition kind jobId limit, (Instr.quotaSet mb partition kind jobId limit).wf = true →
      exec (.quotaSet mb partition kind jobId limit) s = .next { s with m := runCmd (specQuotaSet mb partition kind jobId limit) s.m })
    ∧ (∀ mb partition, (Instr.memStatus mb partition).wf = true →
      exec (.memStatus mb partition) s = .next { s with m := runCmd (specMemStatus mb partition) s.m })
    ∧ (∀ mb addr firstExtent count, (Instr.aqWrite mb addr firstExtent count).wf = true →
      exec (.aqWrite mb addr firstExtent count) s = .next { s with m := runCmd (specAqWrite mb addr firstExtent count) s.m }))
  ∧ ((∀ mb addr firstExtent count, (Instr.aqRead mb addr firstExtent count).wf = true →
      exec (.aqRead mb addr firstExtent count) s = .next { s with m := runCmd (specAqRead mb addr firstExtent count) s.m })
    ∧ (∀ mb firstExtent count, (Instr.aqTrim mb firstExtent count).wf = true →
      exec (.aqTrim mb firstExtent count) s = .next { s with m := runCmd (specAqTrim mb firstExtent count) s.m })
    ∧ (∀ mb jobId partition periodK stretchLimit priority voteMargin self origin members firstStroke seed, (Instr.jobCreate mb jobId partition periodK stretchLimit priority voteMargin self origin members firstStroke seed).wf = true →
      exec (.jobCreate mb jobId partition periodK stretchLimit priority voteMargin self origin members firstStroke seed) s
        = .next { s with m := runCmd (specJobCreate mb jobId partition periodK stretchLimit priority voteMargin self origin members firstStroke seed) s.m })
    ∧ (∀ mb jobId, (Instr.jobStatus mb jobId).wf = true →
      exec (.jobStatus mb jobId) s = .next { s with m := runCmd (specJobStatus mb jobId) s.m })
    ∧ (∀ mb jobId, (Instr.jobHalt mb jobId).wf = true →
      exec (.jobHalt mb jobId) s = .next { s with m := runCmd (specJobHalt mb jobId) s.m })
    ∧ (∀ mb jobId, (Instr.jobResume mb jobId).wf = true →
      exec (.jobResume mb jobId) s = .next { s with m := runCmd (specJobResume mb jobId) s.m })
    ∧ (∀ mb jobId, (Instr.jobDestroy mb jobId).wf = true →
      exec (.jobDestroy mb jobId) s = .next { s with m := runCmd (specJobDestroy mb jobId) s.m })
    ∧ (∀ mb jobId imgFirst imgCount outCount outFirst eos context queueMax reqStore pool, (Instr.genConfig mb jobId imgFirst imgCount outCount outFirst eos context queueMax reqStore pool).wf = true →
      exec (.genConfig mb jobId imgFirst imgCount outCount outFirst eos context queueMax reqStore pool) s
        = .next { s with m := runCmd (specGenConfig mb jobId imgFirst imgCount outCount outFirst eos context queueMax reqStore pool) s.m })
    ∧ (∀ mb jobId first count, (Instr.genSubmit mb jobId first count).wf = true →
      exec (.genSubmit mb jobId first count) s = .next { s with m := runCmd (specGenSubmit mb jobId first count) s.m })
    ∧ (∀ mb jobId reqId slot, (Instr.genCancel mb jobId reqId slot).wf = true →
      exec (.genCancel mb jobId reqId slot) s = .next { s with m := runCmd (specGenCancel mb jobId reqId slot) s.m })
    ∧ (∀ mb jobId reqId first, (Instr.genMask mb jobId reqId first).wf = true →
      exec (.genMask mb jobId reqId first) s = .next { s with m := runCmd (specGenMask mb jobId reqId first) s.m })
    ∧ (∀ mb jobId tincture count first, (Instr.tinctureLoad mb jobId tincture count first).wf = true →
      exec (.tinctureLoad mb jobId tincture count first) s
        = .next { s with m := runCmd (specTinctureLoad mb jobId tincture count first) s.m })
    ∧ (∀ mb jobId tincture count first, (Instr.tinctureUnload mb jobId tincture count first).wf = true →
      exec (.tinctureUnload mb jobId tincture count first) s
        = .next { s with m := runCmd (specTinctureUnload mb jobId tincture count first) s.m })
    ∧ (∀ mb jobId slot, (Instr.genStatus mb jobId slot).wf = true →
      exec (.genStatus mb jobId slot) s = .next { s with m := runCmd (specGenStatus mb jobId slot) s.m })
    ∧ (∀ mb jobId imgFirst imgCount groupSize shard group b1 b2 eps wd maxNorm lsInit fmtShift fmtWindow lsGrowth fillJob feedStore, (Instr.learnConfig mb jobId imgFirst imgCount groupSize shard group b1 b2 eps wd maxNorm lsInit fmtShift fmtWindow lsGrowth fillJob feedStore).wf = true →
      exec (.learnConfig mb jobId imgFirst imgCount groupSize shard group b1 b2 eps wd maxNorm lsInit fmtShift fmtWindow lsGrowth fillJob feedStore) s
        = .next { s with m := runCmd (specLearnConfig mb jobId imgFirst imgCount groupSize shard group b1 b2 eps wd maxNorm lsInit fmtShift fmtWindow lsGrowth fillJob feedStore) s.m })
    ∧ (∀ mb jobId first count, (Instr.learnFeed mb jobId first count).wf = true →
      exec (.learnFeed mb jobId first count) s = .next { s with m := runCmd (specLearnFeed mb jobId first count) s.m })
    ∧ (∀ mb jobId steps lr, (Instr.learnRun mb jobId steps lr).wf = true →
      exec (.learnRun mb jobId steps lr) s = .next { s with m := runCmd (specLearnRun mb jobId steps lr) s.m })
    ∧ (∀ mb jobId first fromStep count, (Instr.learnMask mb jobId first fromStep count).wf = true →
      exec (.learnMask mb jobId first fromStep count) s
        = .next { s with m := runCmd (specLearnMask mb jobId first fromStep count) s.m })
    ∧ (∀ mb jobId, (Instr.learnStatus mb jobId).wf = true →
      exec (.learnStatus mb jobId) s = .next { s with m := runCmd (specLearnStatus mb jobId) s.m })
    ∧ (∀ mb jobId epoch target source periodK layout stageLimit turnGroup distGroup src imageDigest layoutDigest, (Instr.turnBegin mb jobId epoch target source periodK layout stageLimit turnGroup distGroup src imageDigest layoutDigest).wf = true →
      exec (.turnBegin mb jobId epoch target source periodK layout stageLimit turnGroup distGroup src imageDigest layoutDigest) s
        = .next { s with m := runCmd (specTurnBegin mb jobId epoch target source periodK layout stageLimit turnGroup distGroup src imageDigest layoutDigest) s.m })
    ∧ (∀ mb jobId, (Instr.turnAbort mb jobId).wf = true →
      exec (.turnAbort mb jobId) s = .next { s with m := runCmd (specTurnAbort mb jobId) s.m })
    ∧ (∀ mb jobId, (Instr.turnStatus mb jobId).wf = true →
      exec (.turnStatus mb jobId) s = .next { s with m := runCmd (specTurnStatus mb jobId) s.m })
    ∧ (∀ mb jobId layout flags count first, (Instr.layoutLoad mb jobId layout flags count first).wf = true →
      exec (.layoutLoad mb jobId layout flags count first) s
        = .next { s with m := runCmd (specLayoutLoad mb jobId layout flags count first) s.m })
    ∧ (∀ mb jobId cfg, (Instr.secureConfig mb jobId cfg).wf = true →
      exec (.secureConfig mb jobId cfg) s = .next { s with m := runCmd (specSecureConfig mb jobId cfg) s.m }))
  ∧ ((∀ mb jobId flags, (Instr.secureNow mb jobId flags).wf = true →
      exec (.secureNow mb jobId flags) s = .next { s with m := runCmd (specSecureNow mb jobId flags) s.m })
    ∧ (∀ mb jobId, (Instr.secureStatus mb jobId).wf = true →
      exec (.secureStatus mb jobId) s = .next { s with m := runCmd (specSecureStatus mb jobId) s.m })
    ∧ (∀ mb jobId step, (Instr.journalRead mb jobId step).wf = true →
      exec (.journalRead mb jobId step) s = .next { s with m := runCmd (specJournalRead mb jobId step) s.m })
    ∧ (∀ mb jobId count first, (Instr.recoveryPlan mb jobId count first).wf = true →
      exec (.recoveryPlan mb jobId count first) s = .next { s with m := runCmd (specRecoveryPlan mb jobId count first) s.m })
    ∧ (∀ mb jobId first count, (Instr.takeoverConfig mb jobId first count).wf = true →
      exec (.takeoverConfig mb jobId first count) s = .next { s with m := runCmd (specTakeoverConfig mb jobId first count) s.m })
    ∧ (∀ mb jobId generation layer flags refLoss storeAddr storeRkey storeQp, (Instr.recoveryRestore mb jobId generation layer flags refLoss storeAddr storeRkey storeQp).wf = true →
      exec (.recoveryRestore mb jobId generation layer flags refLoss storeAddr storeRkey storeQp) s
        = .next { s with m := runCmd (specRecoveryRestore mb jobId generation layer flags refLoss storeAddr storeRkey storeQp) s.m })
    ∧ (∀ mb jobId, (Instr.recoveryStatus mb jobId).wf = true →
      exec (.recoveryStatus mb jobId) s = .next { s with m := runCmd (specRecoveryStatus mb jobId) s.m })
    ∧ (∀ mb jobId group flags dies rank members podShift nroots roots, (Instr.collGroupSet mb jobId group flags dies rank members podShift nroots roots).wf = true →
      exec (.collGroupSet mb jobId group flags dies rank members podShift nroots roots) s
        = .next { s with m := runCmd (specCollGroupSet mb jobId group flags dies rank members podShift nroots roots) s.m })
    ∧ (∀ mb jobId group seq, (Instr.collStatus mb jobId group seq).wf = true →
      exec (.collStatus mb jobId group seq) s = .next { s with m := runCmd (specCollStatus mb jobId group seq) s.m })
    ∧ (∀ mb capW, (Instr.powerCapSet mb capW).wf = true →
      exec (.powerCapSet mb capW) s = .next { s with m := runCmd (specPowerCapSet mb capW) s.m })
    ∧ (∀ mb partition shareW, (Instr.powerShareSet mb partition shareW).wf = true →
      exec (.powerShareSet mb partition shareW) s = .next { s with m := runCmd (specPowerShareSet mb partition shareW) s.m })
    ∧ (∀ mb target dies, (Instr.powerStateSet mb target dies).wf = true →
      exec (.powerStateSet mb target dies) s = .next { s with m := runCmd (specPowerStateSet mb target dies) s.m })
    ∧ (∀ mb mode, (Instr.freqModeSet mb mode).wf = true →
      exec (.freqModeSet mb mode) s = .next { s with m := runCmd (specFreqModeSet mb mode) s.m })
    ∧ (∀ mb stackThr stackHyst dieThr, (Instr.thermalSet mb stackThr stackHyst dieThr).wf = true →
      exec (.thermalSet mb stackThr stackHyst dieThr) s
        = .next { s with m := runCmd (specThermalSet mb stackThr stackHyst dieThr) s.m })
    ∧ (∀ mb enable slopeUs limitMs, (Instr.primingSet mb enable slopeUs limitMs).wf = true →
      exec (.primingSet mb enable slopeUs limitMs) s = .next { s with m := runCmd (specPrimingSet mb enable slopeUs limitMs) s.m })
    ∧ (∀ mb, (Instr.powerStatus mb).wf = true → exec (.powerStatus mb) s = .next { s with m := runCmd (specPowerStatus mb) s.m })
    ∧ (∀ mb partition, (Instr.energyReport mb partition).wf = true →
      exec (.energyReport mb partition) s = .next { s with m := runCmd (specEnergyReport mb partition) s.m })
    ∧ (∀ mb flags head, (Instr.imageBegin mb flags head).wf = true →
      exec (.imageBegin mb flags head) s = .next { s with m := runCmd (specImageBegin s.nv mb flags head) s.m })
    ∧ (∀ mb offset data, (Instr.imageWrite mb offset data).wf = true →
      exec (.imageWrite mb offset data) s = .next { s with m := runCmd (specImageWrite mb offset data) s.m })
    ∧ (∀ mb, (Instr.imageCommit mb).wf = true → exec (.imageCommit mb) s = .next { s with m := runCmd (specImageCommit mb) s.m })
    ∧ (∀ mb nonce jobId, (Instr.attest mb nonce jobId).wf = true →
      exec (.attest mb nonce jobId) s = .next { s with m := attest mb nonce jobId s.nv s.m })
    ∧ (∀ mb die, (Instr.arrayMap mb die).wf = true → exec (.arrayMap mb die) s = .next { s with m := runCmd (specArrayMap mb die) s.m })
    ∧ (∀ mb die, (Instr.arraySelftest mb die).wf = true →
      exec (.arraySelftest mb die) s = .next { s with m := runCmd (specArraySelftest mb die) s.m })
    ∧ (∀ mb jobId, (Instr.numericsStatus mb jobId).wf = true →
      exec (.numericsStatus mb jobId) s = .next { s with m := runCmd (specNumericsStatus mb jobId) s.m }))
  ∧ ((∀ mb jobId die, (Instr.kvStatus mb jobId die).wf = true →
      exec (.kvStatus mb jobId die) s = .next { s with m := runCmd (specKvStatus mb jobId die) s.m })
    ∧ (∀ mb link, (Instr.linkStatus mb link).wf = true →
      exec (.linkStatus mb link) s = .next { s with m := runCmd (specLinkStatus mb link) s.m })
    ∧ (∀ mb weights, (Instr.riskConfig mb weights).wf = true →
      exec (.riskConfig mb weights) s = .next { s with m := runCmd (specRiskConfig mb weights) s.m })
    ∧ (∀ mb, (Instr.riskStatus mb).wf = true → exec (.riskStatus mb) s = .next { s with m := runCmd (specRiskStatus mb) s.m })
    ∧ (∀ mb jobId, (Instr.portStatus mb jobId).wf = true →
      exec (.portStatus mb jobId) s = .next { s with m := runCmd (specPortStatus mb jobId) s.m })
    ∧ (∀ mb, (Instr.bootStatus mb).wf = true → exec (.bootStatus mb) s = .next { s with m := runCmd (specBootStatus s.nv mb) s.m })
    ∧ (∀ qp key offset data, (Instr.hostCwWrite qp key offset data).wf = true →
      exec (.hostCwWrite qp key offset data) s = .next { s with m := hostCwWrite qp key offset data s.m })
    ∧ (∀ qp key mb, (Instr.mailboxFlip qp key mb).wf = true →
      exec (.mailboxFlip qp key mb) s = .next { s with m := hostCwWrite qp key (mb * 4096) (leBytes 4 1) s.m })
    ∧ (∀ mb, (Instr.watcherReport mb).wf = true →
      exec (.watcherReport mb) s = .next { s with nv := (watcherReport mb s.nv s.m).1, m := (watcherReport mb s.nv s.m).2 })
    ∧ (∀ qp key bucket offset data, (Instr.hostFlagWrite qp key bucket offset data).wf = true →
      exec (.hostFlagWrite qp key bucket offset data) s = .next { s with m := hostFlagWrite qp key bucket offset data s.m })
    ∧ (∀ qp key bucket offset data, (Instr.hostBucketWrite qp key bucket offset data).wf = true →
      exec (.hostBucketWrite qp key bucket offset data) s = .next { s with m := hostBucketWrite qp key bucket offset data s.m })
    ∧ (∀ qp key bucket offset len, (Instr.hostBucketRead qp key bucket offset len).wf = true →
      exec (.hostBucketRead qp key bucket offset len) s = .next { s with m := hostBucketRead qp key bucket offset len s.m })
    ∧ (∀ partition value, (Instr.consumerReread partition value).wf = true →
      exec (.consumerReread partition value) s = .next { s with m := consumerReread partition value s.m })
    ∧ (∀ service src remoteQpn, (Instr.cmReq service src remoteQpn).wf = true →
      exec (.cmReq service src remoteQpn) s = .next { s with m := cmReq service src remoteQpn s.m })
    ∧ (∀ qp, (Instr.cmDreq qp).wf = true → exec (.cmDreq qp) s = .next { s with m := cmDreq qp s.m })
    ∧ (∀ qp, (Instr.rdmaAckTimeout qp).wf = true → exec (.rdmaAckTimeout qp) s = .next { s with m := ackTimeout qp s.m })
    ∧ (∀ qp, (Instr.ecnMarkedPacket qp).wf = true → exec (.ecnMarkedPacket qp) s = .next { s with m := ecnMarked qp s.m })
    ∧ (∀ qp, (Instr.cnpReceive qp).wf = true → exec (.cnpReceive qp) s = .next { s with m := cnpReceive qp s.m })
    ∧ (∀ mode cause lpiOk, (Instr.portLinkChange mode cause lpiOk).wf = true →
      exec (.portLinkChange mode cause lpiOk) s = .next { s with m := portLinkChange mode cause lpiOk s.m })
    ∧ (∀ slot launches, (Instr.originPeriodEnd slot launches).wf = true →
      exec (.originPeriodEnd slot launches) s = .next { s with m := originPeriodEnd slot launches s.m })
    ∧ (∀ link tree natt count stretched first launches, (Instr.strokeBoundary link tree natt count stretched first launches).wf = true →
      exec (.strokeBoundary link tree natt count stretched first launches) s
        = .next { s with m := strokeBoundary link tree natt count stretched first launches s.m })
    ∧ (∀ link tree stretches count, (Instr.stretchFlit link tree stretches count).wf = true →
      exec (.stretchFlit link tree stretches count) s = .next { s with m := stretchFlit link tree stretches count s.m })
    ∧ (∀ slot, (Instr.voteDeadline slot).wf = true → exec (.voteDeadline slot) s = .next { s with m := voteDeadline slot s.m })
    ∧ (∀ link tree count vote lowest voters, (Instr.voteFlit link tree count vote lowest voters).wf = true →
      exec (.voteFlit link tree count vote lowest voters) s = .next { s with m := voteFlit link tree count vote lowest voters s.m }))
  ∧ ((∀ slot link, (Instr.childVoteTimeout slot link).wf = true →
      exec (.childVoteTimeout slot link) s = .next { s with m := childTimeout slot link s.m })
    ∧ (∀ slot, (Instr.originLostTimeout slot).wf = true → exec (.originLostTimeout slot) s = .next { s with m := originLost slot s.m })
    ∧ (∀ link tree joined, (Instr.joinFlit link tree joined).wf = true →
      exec (.joinFlit link tree joined) s = .next { s with m := joinFlit link tree joined s.m })
    ∧ (∀ link tree index data, (Instr.attachFlit link tree index data).wf = true →
      exec (.attachFlit link tree index data) s = .next { s with m := attachFlit link tree index data s.m })
    ∧ (∀ link position reason, (Instr.declareFlit link position reason).wf = true →
      exec (.declareFlit link position reason) s = .next { s with m := declareFlit link position reason s.m })
    ∧ (∀ link, (Instr.linkPeerSignal link).wf = true → exec (.linkPeerSignal link) s = .next { s with m := peerSignal link s.m })
    ∧ (∀ link lanes flight peerAssigned peerPos peerLink cause, (Instr.linkTrainDone link lanes flight peerAssigned peerPos peerLink cause).wf = true →
      exec (.linkTrainDone link lanes flight peerAssigned peerPos peerLink cause) s
        = .next { s with m := trainDone link lanes flight peerAssigned peerPos peerLink cause s.m })
    ∧ (∀ link cause, (Instr.linkTrainTimeout link cause).wf = true →
      exec (.linkTrainTimeout link cause) s = .next { s with m := trainTimeout link cause s.m })
    ∧ (∀ link, (Instr.linkPeerLoss link).wf = true → exec (.linkPeerLoss link) s = .next { s with m := peerLoss link s.m })
    ∧ (∀ link frame, (Instr.frameReceive link frame).wf = true →
      exec (.frameReceive link frame) s = .next { s with m := frameReceive link frame s.m })
    ∧ (∀ link ack, (Instr.nakReceive link ack).wf = true → exec (.nakReceive link ack) s = .next { s with m := nakFor link ack s.m })
    ∧ (∀ link, (Instr.linkIdleTimeout link).wf = true → exec (.linkIdleTimeout link) s = .next { s with m := linkIdle link s.m })
    ∧ (∀ link, (Instr.widthChangeDone link).wf = true → exec (.widthChangeDone link) s = .next { s with m := widthDone link s.m })
    ∧ (∀ link packet, (Instr.bulkPacketReceive link packet).wf = true →
      exec (.bulkPacketReceive link packet) s = .next { s with m := bulkReceive link packet s.m })
    ∧ (∀ link packet, (Instr.bulkPacketForward link packet).wf = true →
      exec (.bulkPacketForward link packet) s = .next { s with m := packetForward link packet s.m })
    ∧ (∀ die array unit, (Instr.matmul die array unit).wf = true →
      exec (.matmul die array unit) s = .next { s with m := matmul die array unit s.m })
    ∧ (∀ die array, (Instr.dither die array).wf = true → exec (.dither die array) s = .next { s with m := dither die array s.m })
    ∧ (∀ die array, (Instr.arrayFillDone die array).wf = true →
      exec (.arrayFillDone die array) s = .next { s with m := fillDone die array s.m })
    ∧ (∀ die array unit, (Instr.arrayInstrDone die array unit).wf = true →
      exec (.arrayInstrDone die array unit) s = .next { s with m := instrDone die array unit s.m })
    ∧ (∀ die array, (Instr.arrayShapeChange die array).wf = true →
      exec (.arrayShapeChange die array) s = .next { s with m := shapeChange die array s.m })
    ∧ (∀ die array, (Instr.arrayRampDown die array).wf = true →
      exec (.arrayRampDown die array) s = .next { s with m := rampDown die array s.m })
    ∧ (∀ f, (Instr.fmaF32 f).wf = true → ∃ m, exec (.fmaF32 f) s = .next { s with m := m })
    ∧ (∀ f, (Instr.addF32 f).wf = true → ∃ m, exec (.addF32 f) s = .next { s with m := m })
    ∧ (∀ f, (Instr.mulF32 f).wf = true → ∃ m, exec (.mulF32 f) s = .next { s with m := m }))
  ∧ ((∀ f, (Instr.maxF32 f).wf = true →
      exec (.maxF32 f) s
        = .next { s with m := laneOp f [f.ra, f.rb] (fun t l => (maxMin32 true (vGet t l f.ra) (vGet t l f.rb), {})) s.m })
    ∧ (∀ f, (Instr.minF32 f).wf = true →
      exec (.minF32 f) s
        = .next { s with m := laneOp f [f.ra, f.rb] (fun t l => (maxMin32 false (vGet t l f.ra) (vGet t l f.rb), {})) s.m })
    ∧ (∀ f, (Instr.fmaBf16x2 f).wf = true → ∃ m, exec (.fmaBf16x2 f) s = .next { s with m := m })
    ∧ (∀ f, (Instr.cvt f).wf = true → ∃ m, exec (.cvt f) s = .next { s with m := m })
    ∧ (∀ f, (Instr.divF32 f).wf = true → ∃ m, exec (.divF32 f) s = .next { s with m := m })
    ∧ (∀ f, (Instr.sqrtF32 f).wf = true → ∃ m, exec (.sqrtF32 f) s = .next { s with m := m })
    ∧ (∀ f, (Instr.expF32 f).wf = true → ∃ m, exec (.expF32 f) s = .next { s with m := m })
    ∧ (∀ f, (Instr.logF32 f).wf = true → ∃ m, exec (.logF32 f) s = .next { s with m := m })
    ∧ (∀ f, (Instr.iadd f).wf = true → exec (.iadd f) s = .next { s with m := intOp f (· + ·) s.m })
    ∧ (∀ f, (Instr.isub f).wf = true → exec (.isub f) s = .next { s with m := intOp f (fun a b => a + (2 ^ 32 - b)) s.m })
    ∧ (∀ f, (Instr.imul f).wf = true → exec (.imul f) s = .next { s with m := intOp f (· * ·) s.m })
    ∧ (∀ f, (Instr.vAnd f).wf = true → exec (.vAnd f) s = .next { s with m := intOp f (· &&& ·) s.m })
    ∧ (∀ f, (Instr.vOr f).wf = true → exec (.vOr f) s = .next { s with m := intOp f (· ||| ·) s.m })
    ∧ (∀ f, (Instr.vXor f).wf = true → exec (.vXor f) s = .next { s with m := intOp f (· ^^^ ·) s.m })
    ∧ (∀ f, (Instr.shl f).wf = true →
      exec (.shl f) s
        = .next { s with m := freeLaneOp f [f.ra, f.rb] (fun t l free => if vGet t l f.rb < 32 then vGet t l f.ra <<< vGet t l f.rb else free) s.m })
    ∧ (∀ f, (Instr.shr f).wf = true → ∃ m, exec (.shr f) s = .next { s with m := m })
    ∧ (∀ f, (Instr.cmp f).wf = true → ∃ m, exec (.cmp f) s = .next { s with m := m })
    ∧ (∀ f, (Instr.sel f).wf = true →
      exec (.sel f) s
        = .next { s with m := freeLaneOp f [f.ra, f.rb] (fun t l free => if free % 2 = 1 then vGet t l f.ra else vGet t l f.rb) s.m })
    ∧ (∀ f, (Instr.ld f).wf = true → ∃ m, exec (.ld f) s = .next { s with m := m })
    ∧ (∀ f, (Instr.st f).wf = true → ∃ m, exec (.st f) s = .next { s with m := m })
    ∧ (∀ f, (Instr.atomAdd32 f).wf = true → exec (.atomAdd32 f) s = .next { s with m := atom f 0 s.m })
    ∧ (∀ f, (Instr.atomAdd64 f).wf = true → exec (.atomAdd64 f) s = .next { s with m := atom f 1 s.m })
    ∧ (∀ f, (Instr.atomSwap32 f).wf = true → exec (.atomSwap32 f) s = .next { s with m := atom f 2 s.m })
    ∧ (∀ f, (Instr.atomSwap64 f).wf = true → exec (.atomSwap64 f) s = .next { s with m := atom f 3 s.m }))
  ∧ ((∀ f, (Instr.atomBset f).wf = true → exec (.atomBset f) s = .next { s with m := atom f 4 s.m })
    ∧ (∀ f, (Instr.atomBclr f).wf = true → exec (.atomBclr f) s = .next { s with m := atom f 5 s.m })
    ∧ (∀ f, (Instr.atomUmax32 f).wf = true → exec (.atomUmax32 f) s = .next { s with m := atom f 6 s.m })
    ∧ (∀ f, (Instr.atomUmin32 f).wf = true → exec (.atomUmin32 f) s = .next { s with m := atom f 7 s.m })
    ∧ (∀ die, (Instr.postedAtomicApply die).wf = true → exec (.postedAtomicApply die) s = .next { s with m := postedApply die s.m })
    ∧ (∀ f, (Instr.dmaCopy f).wf = true → ∃ m, exec (.dmaCopy f) s = .next { s with m := m })
    ∧ (∀ die engine, (Instr.dmaCopyDone die engine).wf = true →
      exec (.dmaCopyDone die engine) s = .next { s with m := dmaDone die engine s.m })
    ∧ (∀ f, (Instr.fence f).wf = true →
      exec (.fence f) s
        = .next { s with m := onTeam f [] (fun t m => if m.posted.any (fun p => p.2.any (fun a => decide (a.die = f.die ∧ a.ve = f.ve ∧ a.team = f.team))) then m else retire f t m) s.m })
    ∧ (∀ f, (Instr.dmaWait f).wf = true → ∃ m, exec (.dmaWait f) s = .next { s with m := m })
    ∧ (∀ f, (Instr.shfl f).wf = true → ∃ m, exec (.shfl f) s = .next { s with m := m })
    ∧ (∀ f, (Instr.reduceFadd f).wf = true → ∃ m, exec (.reduceFadd f) s = .next { s with m := m })
    ∧ (∀ f, (Instr.reduceFmax f).wf = true →
      exec (.reduceFmax f) s = .next { s with m := reduceOp f (fun a b => (maxMin32 true a.1 b.1, {})) s.m })
    ∧ (∀ f, (Instr.reduceIadd f).wf = true →
      exec (.reduceIadd f) s = .next { s with m := reduceOp f (fun a b => ((a.1 + b.1) % 2 ^ 32, {})) s.m })
    ∧ (∀ f, (Instr.br f).wf = true →
      exec (.br f) s
        = .next { s with m := onTeam f [] (fun t m => retireAt f t (if (lanesOn t f).isEmpty then 8 else immSigned f * 8) m) s.m })
    ∧ (∀ f, (Instr.barE f).wf = true →
      exec (.barE f) s
        = .next { s with m := onTeam f [] (fun t m => if guardOn t f 0 then barrier f.die f.ve t.job (updVe m f.die f.ve (fun v => { v with teams := tput v.teams f.team { t with wait := .barrier }, active := (v.active + 1) % 2 ^ 64 })) else retire f t m) s.m })
    ∧ (∀ f, (Instr.exit f).wf = true → ∃ m, exec (.exit f) s = .next { s with m := m })
    ∧ (∀ f, (Instr.draw f).wf = true → ∃ m, exec (.draw f) s = .next { s with m := m })
    ∧ (∀ f, (Instr.mxIssue f).wf = true → ∃ m, exec (.mxIssue f) s = .next { s with m := m })
    ∧ (∀ f, (Instr.mxWait f).wf = true → ∃ m, exec (.mxWait f) s = .next { s with m := m })
    ∧ (∀ f, (Instr.spbGive f).wf = true → ∃ m, exec (.spbGive f) s = .next { s with m := m })
    ∧ (∀ f, (Instr.spbWait f).wf = true → ∃ m, exec (.spbWait f) s = .next { s with m := m })
    ∧ (∀ f, (Instr.getf f).wf = true → ∃ m, exec (.getf f) s = .next { s with m := m })
    ∧ (∀ f, (Instr.ubase f).wf = true →
      exec (.ubase f) s
        = .next { s with m := onTeam f [f.ra] (fun t m => retire f (if guardOn t f 0 then { t with u := tput t.u (immBits f 0 4) (vGet t 0 f.ra + 2 ^ 32 * vGet t 1 f.ra) } else t) m) s.m })
    ∧ (∀ die bank, (Instr.spbHandoverEffect die bank).wf = true →
      exec (.spbHandoverEffect die bank) s = .next { s with m := handoverEffect die bank s.m }))
  ∧ ((∀ die bank value, (Instr.spbOwnerWrite die bank value).wf = true →
      exec (.spbOwnerWrite die bank value) s = .next { s with m := ownerWrite die bank value s.m })
    ∧ (∀ addr value, (Instr.registerWrite addr value).wf = true →
      exec (.registerWrite addr value) s = .next { s with m := registerWrite addr value s.m })
    ∧ (∀ die bank, (Instr.attBankHandover die bank).wf = true →
      exec (.attBankHandover die bank) s = .next { s with m := attHandover die bank s.m })
    ∧ (∀ die, (Instr.attFwd die).wf = true → exec (.attFwd die) s = .next { s with m := attFwd die s.m })
    ∧ (∀ die, (Instr.attAppend die).wf = true → exec (.attAppend die) s = .next { s with m := attAppend die s.m })
    ∧ (∀ die, (Instr.pageShare die).wf = true →
      exec (.pageShare die) s
        = .next { s with m := pageRow die 1 (fun p d L => if listLen p (otherList p d L) < recField d 8 4 then 2 else if listLen p L ≠ 0 ∨ (listPages p).any (fun i => (mapPage p L i).isSome) then 8 else 0) (fun js d p L m => shareList die js L (otherList p d L) (recField d 8 4) m) s.m })
    ∧ (∀ die, (Instr.pageTruncate die).wf = true →
      exec (.pageTruncate die) s
        = .next { s with m := pageRow die 2 (fun p d L => if listLen p L < recField d 8 4 then 2 else 0) (fun js d _ L m => truncateList die js (recField d 4 2) L (recField d 8 4) m) s.m })
    ∧ (∀ die, (Instr.pageRelease die).wf = true →
      exec (.pageRelease die) s
        = .next { s with m := pageRow die 3 (fun _ _ _ => 0) (fun js d _ L m => releaseList die js (recField d 4 2) L m) s.m })
    ∧ (∀ die, (Instr.pageDrop die).wf = true →
      exec (.pageDrop die) s
        = .next { s with m := pageRow die 4 (fun _ _ _ => 0) (fun js d p L m => ((listPages p).filter (fun i => decide (recField d 8 4 ≤ i * 64) && decide (i * 64 + 64 ≤ recField d 8 4 + recField d 12 4))).foldl (releaseEntry die js (recField d 4 2) L) m) s.m })
    ∧ (∀ die, (Instr.pagePromote die).wf = true → exec (.pagePromote die) s = .next { s with m := movePages die 5 false s.m })
    ∧ (∀ die, (Instr.pageDemote die).wf = true → exec (.pageDemote die) s = .next { s with m := movePages die 6 true s.m })
    ∧ (∀ die slot seq layer kvh index, (Instr.pageCopyOnWrite die slot seq layer kvh index).wf = true →
      exec (.pageCopyOnWrite die slot seq layer kvh index) s = .next { s with m := pageCopy die slot seq layer kvh index s.m })
    ∧ (∀ die slot page, (Instr.pageMoveDone die slot page).wf = true →
      exec (.pageMoveDone die slot page) s = .next { s with m := pageMoveDone die slot page s.m })
    ∧ (∀ die bank, (Instr.atmBankHandover die bank).wf = true →
      exec (.atmBankHandover die bank) s = .next { s with m := atmHandover die bank s.m })
    ∧ (∀ die, (Instr.sample die).wf = true → exec (.sample die) s = .next { s with m := sample die s.m })
    ∧ (∀ slot, (Instr.outputBucketReady slot).wf = true → exec (.outputBucketReady slot) s = .next { s with m := outputReady slot s.m })
    ∧ (∀ slot tincture version, (Instr.tinctureCopyDone slot tincture version).wf = true →
      exec (.tinctureCopyDone slot tincture version) s = .next { s with m := tinctureCopyDone slot tincture version s.m })
    ∧ (∀ slot addr, (Instr.weightPoisonReport slot addr).wf = true →
      exec (.weightPoisonReport slot addr) s = .next { s with m := weightPoison slot addr s.m })
    ∧ (∀ slot addr, (Instr.weightRestoreDone slot addr).wf = true →
      exec (.weightRestoreDone slot addr) s = .next { s with m := weightRestored slot addr s.m })
    ∧ (∀ slot slice nonfinite poison, (Instr.sliceHandoff slot slice nonfinite poison).wf = true →
      exec (.sliceHandoff slot slice nonfinite poison) s
        = .next { s with m := sliceHandoff slot slice.slice slice.die slice.data nonfinite poison s.m })
    ∧ (∀ slot slice data, (Instr.sliceDelivered slot slice data).wf = true →
      exec (.sliceDelivered slot slice data) s = .next { s with m := sliceDelivered slot slice data s.m })
    ∧ (∀ slot flags count tokens loss sqnorm, (Instr.verdictReduceDone slot flags count tokens loss sqnorm).wf = true →
      exec (.verdictReduceDone slot flags count tokens loss sqnorm) s
        = .next { s with m := verdictDone slot flags count tokens loss sqnorm s.m })
    ∧ (∀ die bank, (Instr.collBankHandover die bank).wf = true →
      exec (.collBankHandover die bank) s = .next { s with m := collHandover die bank s.m })
    ∧ (∀ die jobSlot group seq, (Instr.bcast die jobSlot group seq).wf = true →
      exec (.bcast die jobSlot group seq) s = .next { s with m := collRead 1 die jobSlot group seq s.m }))
  ∧ ((∀ die jobSlot group seq, (Instr.reduce die jobSlot group seq).wf = true →
      exec (.reduce die jobSlot group seq) s = .next { s with m := collRead 2 die jobSlot group seq s.m })
    ∧ (∀ die jobSlot group seq, (Instr.allreduce die jobSlot group seq).wf = true →
      exec (.allreduce die jobSlot group seq) s = .next { s with m := collRead 3 die jobSlot group seq s.m })
    ∧ (∀ die jobSlot group seq, (Instr.reduceDeliver die jobSlot group seq).wf = true →
      exec (.reduceDeliver die jobSlot group seq) s = .next { s with m := collRead 4 die jobSlot group seq s.m })
    ∧ (∀ die jobSlot group seq, (Instr.allgather die jobSlot group seq).wf = true →
      exec (.allgather die jobSlot group seq) s = .next { s with m := collRead 5 die jobSlot group seq s.m })
    ∧ (∀ die jobSlot group seq, (Instr.gather die jobSlot group seq).wf = true →
      exec (.gather die jobSlot group seq) s = .next { s with m := collRead 6 die jobSlot group seq s.m })
    ∧ (∀ die jobSlot group seq, (Instr.scatter die jobSlot group seq).wf = true →
      exec (.scatter die jobSlot group seq) s = .next { s with m := collRead 7 die jobSlot group seq s.m })
    ∧ (∀ die jobSlot group seq, (Instr.reduceScatter die jobSlot group seq).wf = true →
      exec (.reduceScatter die jobSlot group seq) s = .next { s with m := collRead 8 die jobSlot group seq s.m })
    ∧ (∀ link chunk, (Instr.headerChunk link chunk).wf = true →
      exec (.headerChunk link chunk) s = .next { s with m := headerChunk link chunk s.m })
    ∧ (∀ link chunk, (Instr.goChunk link chunk).wf = true → exec (.goChunk link chunk) s = .next { s with m := goChunk link chunk s.m })
    ∧ (∀ link chunk, (Instr.dataChunk link chunk).wf = true →
      exec (.dataChunk link chunk) s = .next { s with m := dataChunk link chunk s.m })
    ∧ (∀ link chunk, (Instr.abortChunk link chunk).wf = true →
      exec (.abortChunk link chunk) s = .next { s with m := abortChunk link chunk s.m })
    ∧ (∀ link chunk, (Instr.endedChunk link chunk).wf = true →
      exec (.endedChunk link chunk) s = .next { s with m := endedChunk link chunk s.m })
    ∧ (∀ link chunk, (Instr.finishChunk link chunk).wf = true →
      exec (.finishChunk link chunk) s = .next { s with m := finishChunk link chunk s.m })
    ∧ (∀ die below, (Instr.collWaitingTick die below).wf = true →
      exec (.collWaitingTick die below) s = .next { s with m := waitingTick die below s.m })
    ∧ (∀ slot cause, (Instr.sluicePartDone slot cause).wf = true →
      exec (.sluicePartDone slot cause) s = .next { s with m := partDone slot cause s.m })
    ∧ (∀ slot words, (Instr.stageRecordDone slot words).wf = true →
      exec (.stageRecordDone slot words) s = .next { s with m := stageRecordDone slot words s.m })
    ∧ (∀ slot, (Instr.stageLimitTimeout slot).wf = true → exec (.stageLimitTimeout slot) s = .next { s with m := stageTimeout slot s.m })
    ∧ (∀ die addr data, (Instr.protectedWrite die addr data).wf = true →
      exec (.protectedWrite die addr data) s = .next { s with m := protectedWrite die addr data s.m })
    ∧ (∀ die page, (Instr.reserveCopyDone die page).wf = true →
      exec (.reserveCopyDone die page) s = .next { s with m := reserveCopyDone die page s.m })
    ∧ (∀ slot page, (Instr.siphonPageSent slot page).wf = true →
      exec (.siphonPageSent slot page) s = .next { s with m := pageSent slot page s.m })
    ∧ (∀ slot src estimate, (Instr.secureRequest slot src estimate).wf = true →
      exec (.secureRequest slot src estimate) s = .next { s with m := arriving (secureRequest slot) s.m })
    ∧ (∀ slot src generation bytes, (Instr.secureBegin slot src generation bytes).wf = true →
      exec (.secureBegin slot src generation bytes) s
        = .next { s with m := onSecure slot src (secureBegin slot src generation bytes) s.m })
    ∧ (∀ slot src generation holdSlot, (Instr.secureReady slot src generation holdSlot).wf = true →
      exec (.secureReady slot src generation holdSlot) s
        = .next { s with m := onSecure slot src (secureReady slot src generation holdSlot) s.m })
    ∧ (∀ slot holdSlot, (Instr.holdSlotFree slot holdSlot).wf = true →
      exec (.holdSlotFree slot holdSlot) s = .next { s with m := holdFree slot holdSlot s.m }))
  ∧ ((∀ slot src generation link bytes, (Instr.secureEnd slot src generation link bytes).wf = true →
      exec (.secureEnd slot src generation link bytes) s
        = .next { s with m := onSecure slot src (secureEnd slot src generation link bytes) s.m })
    ∧ (∀ slot src generation holdSlot, (Instr.secureHeld slot src generation holdSlot).wf = true →
      exec (.secureHeld slot src generation holdSlot) s
        = .next { s with m := onSecure slot src (secureHeld slot src generation holdSlot) s.m })
    ∧ (∀ slot words, (Instr.secureRecordDone slot words).wf = true →
      exec (.secureRecordDone slot words) s = .next { s with m := secureRecordDone slot words s.m })
    ∧ (∀ slot, (Instr.secureTimeout slot).wf = true → exec (.secureTimeout slot) s = .next { s with m := secureTimeout slot s.m })
    ∧ (∀ slot status, (Instr.aquiferSlotWriteDone slot status).wf = true →
      exec (.aquiferSlotWriteDone slot status) s = .next { s with m := aqSlotDone slot status s.m })
    ∧ (∀ slot status, (Instr.storeSlotWriteDone slot status).wf = true →
      exec (.storeSlotWriteDone slot status) s = .next { s with m := storeSlotDone slot status s.m })
    ∧ (∀ slot src cause subject, (Instr.reportReceive slot src cause subject).wf = true →
      exec (.reportReceive slot src cause subject) s
        = .next { s with m := onPacket slot src (fun _ => takeReport slot cause subject) s.m })
    ∧ (∀ slot src attempt coordinator failed, (Instr.noticeReceive slot src attempt coordinator failed).wf = true →
      exec (.noticeReceive slot src attempt coordinator failed) s
        = .next { s with m := onPacket slot src (takeNotice slot src attempt coordinator failed) s.m })
    ∧ (∀ slot src attempt flags holdGen aqGen holdStep aqStep, (Instr.ackReceive slot src attempt flags holdGen aqGen holdStep aqStep).wf = true →
      exec (.ackReceive slot src attempt flags holdGen aqGen holdStep aqStep) s
        = .next { s with m := onPacket slot src (takeAck slot { src, flags, holdGen, aqGen, holdStep, aqStep } attempt) s.m })
    ∧ (∀ slot position, (Instr.ackLimitTimeout slot position).wf = true →
      exec (.ackLimitTimeout slot position) s = .next { s with m := ackLimit slot position s.m })
    ∧ (∀ slot launches, (Instr.recoveryEntryTimer slot launches).wf = true →
      exec (.recoveryEntryTimer slot launches) s = .next { s with m := recoveryEntry slot launches s.m })
    ∧ (∀ slot, (Instr.coordinatorTakeover slot).wf = true →
      exec (.coordinatorTakeover slot) s = .next { s with m := coordinatorTakeover slot s.m })
    ∧ (∀ slot, (Instr.reportOriginTimeout slot).wf = true →
      exec (.reportOriginTimeout slot) s = .next { s with m := reportOriginTimeout slot s.m })
    ∧ (∀ payload, (Instr.takeoverReceive payload).wf = true →
      exec (.takeoverReceive payload) s = .next { s with m := arriving (takeTakeover payload) s.m })
    ∧ (∀ slot src position, (Instr.spareUpReceive slot src position).wf = true →
      exec (.spareUpReceive slot src position) s = .next { s with m := onPacket slot src (takeSpareUp slot position) s.m })
    ∧ (∀ slot src result, (Instr.configuredReceive slot src result).wf = true →
      exec (.configuredReceive slot src result) s = .next { s with m := onPacket slot src (takeConfigured slot src result) s.m })
    ∧ (∀ slot src layer holdSlot generation, (Instr.fetchReceive slot src layer holdSlot generation).wf = true →
      exec (.fetchReceive slot src layer holdSlot generation) s
        = .next { s with m := onPacket slot src (takeFetch slot src layer holdSlot generation) s.m })
    ∧ (∀ slot src result, (Instr.restoredReceive slot src result).wf = true →
      exec (.restoredReceive slot src result) s = .next { s with m := onPacket slot src (fun _ => takeRestored slot src result) s.m })
    ∧ (∀ rails input, (Instr.capControlTick rails input).wf = true →
      exec (.capControlTick rails input) s = .next { s with m := capTick rails input s.m })
    ∧ (∀ die cause activity, (Instr.primingStart die cause activity).wf = true →
      exec (.primingStart die cause activity) s = .next { s with m := primingStart die cause activity s.m })
    ∧ (∀ die temp, (Instr.thermalDutyTick die temp).wf = true →
      exec (.thermalDutyTick die temp) s = .next { s with m := thermalTick die temp s.m })
    ∧ (∀ stack temp, (Instr.stackTempRead stack temp).wf = true →
      exec (.stackTempRead stack temp) s = .next { s with m := stackTemp stack temp s.m })
    ∧ (∀ segment, (Instr.segmentCleared segment).wf = true →
      exec (.segmentCleared segment) s = .next { s with m := segmentCleared segment s.m })
    ∧ (∀ index failed wear spare, (Instr.aqOpDone index failed wear spare).wf = true →
      exec (.aqOpDone index failed wear spare) s = .next { s with m := aqOpDone index failed wear spare s.m }))
  ∧ ((∀ failCols, (Instr.startStep failCols).wf = true →
      exec (.startStep failCols) s = .next { s with nv := (startStep failCols s.nv s.m).1, m := (startStep failCols s.nv s.m).2 })
    ∧ (∀ reason detail, (Instr.startFailed reason detail).wf = true →
      exec (.startFailed reason detail) s
        = .next { s with nv := (startFailed reason detail s.nv s.m).1, m := (startFailed reason detail s.nv s.m).2 })
    ∧ (∀ slot kind index, (Instr.imageCopyDone slot kind index).wf = true →
      exec (.imageCopyDone slot kind index) s = .next { s with m := imageCopied slot kind index s.m })
    ∧ (∀ ok, (Instr.flashOperationDone ok).wf = true →
      exec (.flashOperationDone ok) s = .next { s with nv := (flashDone ok s.nv s.m).1, m := (flashDone ok s.nv s.m).2 })
    ∧ (∀ qp, (Instr.cnpRateRaise qp).wf = true → exec (.cnpRateRaise qp) s = .next { s with m := rateRaise qp s.m })
    ∧ (∀ kind time offset locked, (Instr.ptpMessage kind time offset locked).wf = true →
      exec (.ptpMessage kind time offset locked) s = .next { s with m := ptpMessage kind time offset locked s.m })
    ∧ (∀ kind addr, (Instr.arpNdIcmp kind addr).wf = true → exec (.arpNdIcmp kind addr) s = .next { s with m := arpNdIcmp kind addr s.m })
    ∧ (∀ link lane, (Instr.laneFailure link lane).wf = true →
      exec (.laneFailure link lane) s = .next { s with m := laneFailure link lane s.m })
    ∧ (∀ die array unit column row, (Instr.columnParityFail die array unit column row).wf = true →
      exec (.columnParityFail die array unit column row) s = .next { s with m := parityFail die array unit column row s.m })
    ∧ (∀ slot, (Instr.riskRearmTimeout slot).wf = true →
      exec (.riskRearmTimeout slot) s = .next { s with m := (fun m => updSecure m slot (fun s => { s with reqArmed := true })) s.m })
    ∧ (∀ die, (Instr.primingStepDown die).wf = true → exec (.primingStepDown die) s = .next { s with m := primingStep die s.m })
    ∧ (∀ die, (Instr.primeLimitTimeout die).wf = true → exec (.primeLimitTimeout die) s = .next { s with m := primeLimit die s.m })
    ∧ (∀ die, (Instr.dieWake die).wf = true → exec (.dieWake die) s = .next { s with m := dieWake die s.m })
    ∧ (∀ rail alarm value holds, (Instr.regulatorAlarm rail alarm value holds).wf = true →
      exec (.regulatorAlarm rail alarm value holds) s
        = .next { s with nv := (regulatorAlarm rail alarm value holds s.nv s.m).1, m := (regulatorAlarm rail alarm value holds s.nv s.m).2 })
    ∧ (∀ die, (Instr.vcoreDroop die).wf = true → exec (.vcoreDroop die) s = .next { s with m := vcoreDroop die s.m })
    ∧ (∀ stack, (Instr.stackThrottleDecay stack).wf = true →
      exec (.stackThrottleDecay stack) s = .next { s with m := stackDecay stack s.m })
    ∧ (∀ sensor temp, (Instr.criticalTemp sensor temp).wf = true →
      exec (.criticalTemp sensor temp) s = .next { s with m := criticalTemp sensor temp s.m })
    ∧ (∀ inlet outlet wet, (Instr.coolantSensorTick inlet outlet wet).wf = true →
      exec (.coolantSensorTick inlet outlet wet) s = .next { s with m := coolantTick inlet outlet wet s.m })
    ∧ (∀ addr corrected uncorrectable, (Instr.patrolScrub addr corrected uncorrectable).wf = true →
      exec (.patrolScrub addr corrected uncorrectable) s = .next { s with m := patrolScrub addr corrected uncorrectable s.m })
    ∧ (∀ kind unit bank row, (Instr.rowRepairCandidate kind unit bank row).wf = true →
      exec (.rowRepairCandidate kind unit bank row) s = .next { s with m := rowCandidate { kind, unit, bank, row } s.m })
    ∧ (∀ unit, (Instr.softRepairDone unit).wf = true → exec (.softRepairDone unit) s = .next { s with m := softRepairDone unit s.m })
    ∧ (∀ unit, (Instr.uncontainedFault unit).wf = true → exec (.uncontainedFault unit) s = .next { s with m := enterFailed 0x31 s.m })
    ∧ (∀ reason, (Instr.p5WakeRestart reason).wf = true →
      exec (.p5WakeRestart reason) s = .next { s with nv := (p5Restart reason s.nv s.m).1, m := (p5Restart reason s.nv s.m).2 })
    ∧ (∀ offset len, (Instr.smbFruRead offset len).wf = true →
      exec (.smbFruRead offset len) s = .next { s with m := smbFruRead offset len s.m }))
  ∧ ((∀ link, (Instr.linkLostTimeout link).wf = true → exec (.linkLostTimeout link) s = .next { s with m := linkLost link s.m })
    ∧ (∀ kind unit temp, (Instr.thermalThresholdCrossed kind unit temp).wf = true →
      exec (.thermalThresholdCrossed kind unit temp) s = .next { s with m := thresholdCrossed kind unit temp s.m })
    ∧ (∀ qp psn cause, (Instr.rdmaNakReceive qp psn cause).wf = true →
      exec (.rdmaNakReceive qp psn cause) s = .next { s with m := nakReceive qp psn cause s.m })
    ∧ (∀ priority quanta, (Instr.pfcPauseFrame priority quanta).wf = true →
      exec (.pfcPauseFrame priority quanta) s = .next { s with m := pfcPause priority quanta s.m })
    ∧ (∀ failCols, (Instr.selftestDone failCols).wf = true →
      exec (.selftestDone failCols) s = .next { s with m := selftestDone failCols s.m })
    ∧ (exec .localStrokeTick s
        = .next { s with nv := ((fun nv m => resetDeferred (localTick nv m).1 (localTick nv m).2) s.nv s.m).1, m := ((fun nv m => resetDeferred (localTick nv m).1 (localTick nv m).2) s.nv s.m).2 })
    ∧ (exec .powerBrakeAssert s = .next { s with m := (fun m => brakeOn (updPower m (fun w => { w with brakePin := true }))) s.m })
    ∧ (exec .powerBrakeRelease s = .next { s with m := (fun m => brakeOff (updPower m (fun w => { w with brakePin := false }))) s.m })
    ∧ (exec .brakeHoldEnd s = .next { s with m := brakeHoldEnd s.m })
    ∧ (exec .riskEstimateTick s = .next { s with m := riskTick s.m })
    ∧ (exec .freqStepTick s = .next { s with m := freqTick s.m })
    ∧ (exec .p3PacketWake s = .next { s with m := packetWake s.m })
    ∧ (exec .powerOn s = .next { s with nv := (powerOn s.nv s.m).1, m := (powerOn s.nv s.m).2 })
    ∧ (exec .inputShutdown s = .next { s with nv := (inputShutdown s.nv s.m).1, m := (inputShutdown s.nv s.m).2 })
    ∧ (exec .resetNLow s = .next { s with nv := (resetLow s.nv s.m).1, m := (resetLow s.nv s.m).2 })
    ∧ (exec .resetNHigh s = .next { s with nv := (resetHigh s.nv s.m).1, m := (resetHigh s.nv s.m).2 })
    ∧ (exec .startWaitEnd s = .next { s with nv := (startWaitEnd s.nv s.m).1, m := (startWaitEnd s.nv s.m).2 })
    ∧ (exec .minimalServiceUp s = .next { s with m := serviceUp s.m })
    ∧ (exec .startWatchdog s = .next { s with nv := (startWatchdog s.nv s.m).1, m := (startWatchdog s.nv s.m).2 })
    ∧ (exec .wellheadUnresponsive s = .next { s with m := enterFailed 0x30 s.m })
    ∧ (exec .aquiferControllerFailure s = .next { s with m := aquiferFailed s.m })
    ∧ (exec .identitySignatureDone s = .next { s with m := signatureDone s.m })
    ∧ (exec .powerStateReached s = .next { s with m := stateReached s.m }))

/-- Only the commands that `Instr.mayChangeFlash` names change the boot flash, the fuses and the start log.
The readings that it takes are those of log entry 22. -/
def Obligations.FlashAndFusesFrame : Prop :=
  ∀ (c : Instr) (s t : State), c.mayChangeFlash = false → exec c s = .next t → t.nv = s.nv

/-- The image region's table stays canonical and the fuses keep their widths, MIN_SVN never passing 64, over every step from
every such state.
The readings that it takes are those of log entry 22. -/
def Obligations.FlashAndFusesStaySound : Prop :=
  ∀ s t : State, s.nv.ok → step s = .next t → t.nv.ok

/-- The state after reset is sound in the same sense, and holds what R82 says of an entry to BOOT and the reset values of R117, R118, R281,
R476, R477, R651, R652 and R730; the values of the pins, the identity and the memory there are the model's (log entry 3). -/
def Obligations.ResetState : Prop :=
  let m := State.reset.m
  State.reset.nv.ok ∧ m.sys.st = .boot ∧ State.reset.pending = [] ∧ m.jobs = [] ∧ m.net.position = none
    ∧ (∀ d, tget 0 m.net.routes d = 0) ∧ m.net.trees = []
    ∧ capWatts m = 6000 ∧ m.power.brakes = 0 ∧ m.power.droops = 0
    ∧ (∀ b, b ≠ 0 → (flagAt m b).owner = 0) ∧ (flagAt m 0).owner = 2
    ∧ (∀ d b, (bankAt m d b).owner = 0xFF ∧ (bankAt m d b).jobValid = false ∧ (bankAt m d b).count = 0)
    ∧ (∀ l, (linkAt m l).peerPos = 0xFFFF ∧ (linkAt m l).peerValid = false ∧ (linkAt m l).corrected = 0)
    ∧ (∀ a, memByte m.mem a = 0) ∧ (∀ p, (areaAt m p).nextSeq = 1 ∧ (areaAt m p).reg = none)

/-- R23, R74, R75, R77 to R79: a mailbox command that passes its checks is accepted: its buckets are held, and it waits for the next
boundary of the stream that times it. At that boundary it has its effect: at the end of the local stroke, at the boundary of a job's
stroke, and, as the job-wide command of an origin, in the record of the origin's boundary. Its reply is staged with it: it carries the
stroke of acceptance and the stroke that the boundary opened.
The readings that it takes are those of log entry 4. -/
def Obligations.AcceptedCommandsTakeEffect : Prop :=
  (∀ (i : Instr) (c : CmdSpec) (s : State), specOf i = some c → i.wf = true → unreached s.m c.opcode c.mb = false →
     jobWideBusy c s.m = false → acceptErr c s.m = none → c.query = false →
     exec i s = .next { s with m := queueCmd c s.m })
  ∧ (∀ (c : CmdSpec) (m : Dev),
      (c.jobWide = false → queueCmd c m = { m with ctl := { m.ctl with
        holds := m.ctl.holds ++ c.buckets.map (fun b => { bucket := b, mb := c.mb })
        accepted := m.ctl.accepted ++ [{
          cmd := c.cmd, mb := c.mb, slot := specStream c m, stroke := strokeOf m (specStream c m) }] } })
      ∧ (∀ js j, c.jobWide = true → c.buckets = [] → specJob c m = some (js, j) → jobAt (queueCmd c m) js = (jobAt m js).map (fun j => { j with
          jobWide := some { cmd := c.cmd, mb := c.mb, slot := some js, stroke := strokeOf m (specStream c m) } })))
  ∧ (∀ (i : Instr) (c : CmdSpec) (s : State) (a : Accepted) (m : Dev), specOf i = some c → a.cmd = i →
      s.m.sys.st ∈ [.minimal, .ready, .active, .quiesced] → (localEnds s.m).sys.selftest = none → acceptedOf (localEnds s.m) none = [a] →
      m = updCtl (localEnds s.m) (fun t => { t with accepted := t.accepted.erase a }) → recheckErr c m = none →
      ∃ t, exec .localStrokeTick s = .next t ∧ t.pending = s.pending
        ∧ (t.nv, t.m) = resetDeferred s.nv (answerUnbound
            (stageReply c (c.apply m) none a.stroke ((s.m.ctl.localStroke + 1) % 2 ^ 64))))
  ∧ (∀ (i : Instr) (c : CmdSpec) (m : Dev) (js : Nat) (a : Accepted), specOf i = some c → a.cmd = i →
      (acceptedOf m (some js) = [a] →
        recheckErr c (updCtl m (fun t => { t with accepted := t.accepted.erase a })) = none →
        applyWaiting js m = stageReply c (c.apply (updCtl m (fun t => { t with accepted := t.accepted.erase a }))) (some js) a.stroke
          (strokeOf m (some js)))
      ∧ ((jobAt m js).bind (·.jobWide) = some a → recheckErr c (updJob m js (fun j => { j with jobWide := none })) = none →
        jobWideHere js m = stageReply c (c.apply (updJob m js (fun j => { j with jobWide := none }))) (some js) a.stroke
          (strokeOf m (some js))))
  ∧ (∀ (c : CmdSpec) (a : Applied) (accept n : Nat), a.wait = none →
      ∃ r, (stageReply c a none accept n).ctl.replies = a.m.ctl.replies ++ [r] ∧ r.mb = c.mb ∧ r.status = a.status
        ∧ r.kind = 0 ∧ r.accept = accept ∧ r.done = n ∧ r.slot = none ∧ r.due = a.m.ctl.localStroke)

/-- R21, R80: a mailbox command that fails a check is answered at once with the status of the first check that fails, and
changes nothing but its mailbox, the event areas and what is sent.
R80: a query is answered at once with the state as of the latest completed stroke end of the stream that times it.
The readings that it takes are those of log entry 5. -/
def Obligations.RefusalsAndQueriesAnswerAtOnce : Prop :=
  (∀ (i : Instr) (c : CmdSpec) (s : State) (e : Err), specOf i = some c → i.wf = true → unreached s.m c.opcode c.mb = false →
     jobWideBusy c s.m = false → acceptErr c s.m = some e →
     ∃ t, exec i s = .next t ∧ t.nv = s.nv ∧ t.pending = s.pending
       ∧ t.m = { s.m with ctl := { s.m.ctl with cw := t.m.ctl.cw, areas := t.m.ctl.areas }, out := t.m.out }
       ∧ mbField t.m c.mb 16 2 = e.status % 65536 ∧ mbOwned t.m c.mb = false)
  ∧ (∀ (i : Instr) (c : CmdSpec) (s : State), specOf i = some c → i.wf = true → unreached s.m c.opcode c.mb = false →
      acceptErr c s.m = none → c.query = true →
      ∃ t, exec i s = .next t ∧ t.nv = s.nv ∧ t.pending = s.pending
        ∧ t.m = { s.m with ctl := { s.m.ctl with cw := t.m.ctl.cw, areas := t.m.ctl.areas }, out := t.m.out, free := t.m.free }
        ∧ mbField t.m c.mb 16 2 = (c.apply (reported c s.m)).status % 65536 ∧ mbOwned t.m c.mb = false)

/-- R660: CM_REQ from an allowed source to a configured partition with room opens a queue pair; any other is rejected; CM_DREQ
ends one.
R661: a local ACK timeout retransmits from the queue pair's PSN seven times and then ends it; a sequence NAK retransmits from
its own PSN.
R663: congestion: at most one notification sent for a queue pair in 35,000 cycles; a notification received halves the
rate, at most once in 35,000 cycles and not below 1 Gb/s; 35,000 cycles without one raise it by 1/64 of the line rate.
The readings that it takes are those of log entry 14. -/
def Obligations.QueuePairs : Prop :=
  ((∀ (s : State) (p remote : Nat) (src : List Byte), (Instr.cmReq (0x5756320000000000 + p) src remote).wf = true → p < 8 →
     exec (.cmReq (0x5756320000000000 + p) src remote) s = .next { s with m := (
       if (partAt s.m p).configured = true ∧ sourceAllowed (partAt s.m p) src = true
           ∧ (s.m.port.qps.filter (fun q => decide (q.2.part = p) && !q.2.error)).length < (partAt s.m p).qpMax
           ∧ (s.m.port.qps.filter (fun q => !q.2.error)).length < 4096
       then { s.m with
         port := { s.m.port with
           qps := tput s.m.port.qps s.m.port.nextQp { part := p, remote := remote, rate := lineRate s.m }
           nextQp := s.m.port.nextQp + 1 }
         out := s.m.out ++ [.cmRep s.m.port.nextQp p] }
       else { s.m with out := s.m.out ++ [.cmReject p] }) })
   ∧ (∀ (s : State) (qp : Nat), qp < 16777216 →
     exec (.cmDreq qp) s = .next { s with m := { s.m with port := { s.m.port with qps := tdel s.m.port.qps qp } } }))
  ∧ ((∀ (s : State) (qp : Nat) (q : Qp), qp < 16777216 → tfind s.m.port.qps qp = some q → q.error = false →
       (q.retries < 7 → exec (.rdmaAckTimeout qp) s = .next { s with m := { s.m with
         port := { s.m.port with retransmits := min (s.m.port.retransmits + 1) (2 ^ 32 - 1)
                                 qps := tput s.m.port.qps qp { q with retries := q.retries + 1 } }
         out := s.m.out ++ [.retransmit qp q.psn] } })
       ∧ (7 ≤ q.retries → ∃ t, exec (.rdmaAckTimeout qp) s = .next t
           ∧ t.m.port = { s.m.port with qps := tput s.m.port.qps qp { q with error := true } }
           ∧ t.m = { s.m with port := t.m.port, ctl := { s.m.ctl with evq := t.m.ctl.evq } } ∧ t.nv = s.nv)
       ∧ (∀ psn, psn < 16777216 → exec (.rdmaNakReceive qp psn 0) s = .next { s with m := { s.m with
         port := { s.m.port with retransmits := min (s.m.port.retransmits + 1) (2 ^ 32 - 1)
                                 qps := tput s.m.port.qps qp { q with psn := psn, retries := 0 } }
         out := s.m.out ++ [.retransmit qp psn] } }))
    ∧ (∀ (s : State) (qp : Nat) (q : Qp), qp < 16777216 → tfind s.m.port.qps qp = some q → q.error = false →
        ((∀ c, q.lastCnpOut = some c → c + 35000 ≤ s.m.cycle) →
          exec (.ecnMarkedPacket qp) s = .next { s with m := { s.m with
            port := { s.m.port with qps := tput s.m.port.qps qp { q with lastCnpOut := some s.m.cycle } }
            out := s.m.out ++ [.cnp qp] } })
        ∧ (∀ c, q.lastCnpOut = some c → s.m.cycle < c + 35000 → exec (.ecnMarkedPacket qp) s = .next s)
        ∧ ((∀ c, q.lastCnp = some c → c + 35000 ≤ s.m.cycle) →
          exec (.cnpRateRaise qp) s = .next { s with m := { s.m with
            port := { s.m.port with
              qps := tput s.m.port.qps qp { q with rate := min (lineRate s.m) (q.rate + lineRate s.m / 64) } } } })
        ∧ (∀ c, q.lastCnp = some c → s.m.cycle < c + 35000 → exec (.cnpRateRaise qp) s = .next s)
        ∧ ((∀ c, q.lastCut = some c → c + 35000 ≤ s.m.cycle) →
          exec (.cnpReceive qp) s = .next { s with m := { s.m with
            port := { s.m.port with
              cnpRx := min (s.m.port.cnpRx + 1) (2 ^ 32 - 1)
              qps := tput s.m.port.qps qp { q with
                lastCnp := some s.m.cycle, rate := max 1000000000 (q.rate / 2), lastCut := some s.m.cycle } } } })
        ∧ (∀ c, q.lastCut = some c → s.m.cycle < c + 35000 →
          exec (.cnpReceive qp) s = .next { s with m := { s.m with
            port := { s.m.port with
              cnpRx := min (s.m.port.cnpRx + 1) (2 ^ 32 - 1), qps := tput s.m.port.qps qp { q with lastCnp := some s.m.cycle } } } })))

/-- R656, R657, R665: what the port does with PTP messages, with ARP, ND and ICMP messages for its addresses, with pause frames
and when its link changes.
The readings that it takes are those of log entry 14. -/
def Obligations.PortMessages : Prop :=
  (∀ (s : State) (time : Nat) (offset : Int), wfPtpMessage 0 time offset s.m.port.ptpLocked = true → s.m.port.ptpCfg ≠ 0 →
    powerState s.m < 4 →
    exec (.ptpMessage 0 time offset s.m.port.ptpLocked) s = .next { s with m := { s.m with
      port := { s.m.port with ptpTime := time, ptpAt := s.m.cycle, ptpOffset := offset }, out := s.m.out ++ [.ptpDelayReq] } })
  ∧ (∀ (s : State) (kind p : Nat) (x : Part), kind < 256 → tfind s.m.port.parts p = some x → x.configured = true → x.ipv4 ≠ 0 →
    exec (.arpNdIcmp kind (leBytes 4 x.ipv4)) s = .next { s with m := { s.m with
      out := s.m.out ++ [.netAnswer kind (leBytes 4 x.ipv4)] } })
  ∧ (∀ (s : State) (priority quanta : Nat), wfPfcPauseFrame priority quanta = true →
    ∃ t, exec (.pfcPauseFrame priority quanta) s = .next t
      ∧ t.m = { s.m with port := { s.m.port with parts := t.m.port.parts } } ∧ t.nv = s.nv
      ∧ ∀ p x, tfind s.m.port.parts p = some x → tfind t.m.port.parts p =
        some { x with paused := if x.priority = priority then decide (quanta ≠ 0) else x.paused })
  ∧ (∀ (s : State) (mode cause : Nat) (lpiOk : Bool), (Instr.portLinkChange mode cause lpiOk).wf = true → mode ≠ s.m.port.mode →
    ∃ t, exec (.portLinkChange mode cause lpiOk) s = .next t ∧ t.m.port.mode = mode
      ∧ t.m.port.lpiOk = (lpiOk && decide (mode = 1 ∨ mode = 2) && decide (s.m.port.lpiCfg = 1))
      ∧ t.m.ctl.evq = s.m.ctl.evq ++ [(none, { etype := 0x0104, part := 0, stroke := s.m.ctl.localStroke
                                               payload := leBytes 1 s.m.port.mode ++ leBytes 1 mode ++ leBytes 1 cause })]
      ∧ t.m = { s.m with port := t.m.port, ctl := { s.m.ctl with evq := t.m.ctl.evq } } ∧ t.nv = s.nv)

/-- R97, R101: a host write with the partition's key into a mailbox of its own that reads HOST, beyond OWNER, stores its bytes
and nothing else.
R101: writing 1 into OWNER while it reads 0 flips the mailbox to DEVICE and the watcher has it to report; R102: while OWNER
reads 1 the write is dropped and counted.
R659: an access with a wrong key is answered by a NAK, ends the queue pair and reaches neither window.
The readings that it takes are those of log entry 7. -/
def Obligations.HostAccessesToTheWindows : Prop :=
  ((∀ (s : State) (qp offset : Nat) (data : List Byte) (q : Qp),
      (Instr.hostCwWrite qp (partAt s.m q.part).cwKey offset data).wf = true →
      tfind s.m.port.qps qp = some q → q.error = false → data ≠ [] →
      q.part * 131072 ≤ offset → offset + data.length ≤ q.part * 131072 + 131072 →
      4 ≤ offset % 4096 → offset % 4096 + data.length ≤ 4096 → mbOwned s.m (offset / 4096) = false →
      ∃ t, exec (.hostCwWrite qp (partAt s.m q.part).cwKey offset data) s = .next t
        ∧ t = { s with m := { s.m with ctl := { s.m.ctl with cw := t.m.ctl.cw } } }
        ∧ (∀ i (h : i < data.length), cwByte t.m (offset + i) = data[i])
        ∧ (∀ j, j < offset ∨ offset + data.length ≤ j → cwByte t.m j = cwByte s.m j))
   ∧ (∀ (s : State) (qp mb : Nat) (q : Qp), (Instr.mailboxFlip qp (partAt s.m q.part).cwKey mb).wf = true →
       tfind s.m.port.qps qp = some q → q.error = false → mb / 32 = q.part →
       (mbOwned s.m mb = false → ∃ t, exec (.mailboxFlip qp (partAt s.m q.part).cwKey mb) s = .next t
         ∧ mbOwned t.m mb = true ∧ t.m.ctl.flips = s.m.ctl.flips ++ [mb]
         ∧ (∀ j, j < mb * 4096 ∨ mb * 4096 + 4 ≤ j → cwByte t.m j = cwByte s.m j)
         ∧ t = { s with m := { s.m with ctl := { s.m.ctl with cw := t.m.ctl.cw, flips := t.m.ctl.flips } } })
       ∧ (mbOwned s.m mb = true → ∃ t, exec (.mailboxFlip qp (partAt s.m q.part).cwKey mb) s = .next t
         ∧ t.m.ctl.cw = s.m.ctl.cw ∧ t.m.ctl.flips = s.m.ctl.flips
         ∧ t.m.ctl.mbxDrop = tset 0 s.m.ctl.mbxDrop q.part (min (tget 0 s.m.ctl.mbxDrop q.part + 1) 65535)
         ∧ t = { s with m := { s.m with ctl := { s.m.ctl with mbxDrop := t.m.ctl.mbxDrop, evq := t.m.ctl.evq } } })))
  ∧ (∀ (s : State) (qp key : Nat) (q : Qp), tfind s.m.port.qps qp = some q → q.error = false →
      let ends : State → Prop := fun t => t.m.out = s.m.out ++ [.rdmaNak qp]
        ∧ t.m.port = { s.m.port with qps := tput s.m.port.qps qp { q with error := true } }
        ∧ t = { s with m := { s.m with port := t.m.port, out := t.m.out, ctl := { s.m.ctl with evq := t.m.ctl.evq } } }
      (key ≠ (partAt s.m q.part).cwKey → ∀ offset data, (Instr.hostCwWrite qp key offset data).wf = true →
        ∃ t, exec (.hostCwWrite qp key offset data) s = .next t ∧ ends t)
      ∧ (key ≠ (partAt s.m q.part).bwKey → ∀ bucket offset data,
        ((Instr.hostFlagWrite qp key bucket offset data).wf = true → ∃ t, exec (.hostFlagWrite qp key bucket offset data) s = .next t ∧ ends t)
        ∧ ((Instr.hostBucketWrite qp key bucket offset data).wf = true → ∃ t, exec (.hostBucketWrite qp key bucket offset data) s = .next t ∧ ends t)
        ∧ (∀ len, (Instr.hostBucketRead qp key bucket offset len).wf = true → ∃ t, exec (.hostBucketRead qp key bucket offset len) s = .next t ∧ ends t)))

/-- R121, R126: the owning partition writes DEVICE into the OWNER of a bucket that reads HOST: the bucket changes hands in the
stroke of its stream.
R122: a write of the owning partition into a HOST bucket stores its bytes in the memory under the bucket, and a read of
unpoisoned bytes gives them as memory holds them.
The readings that it takes are those of log entry 7. -/
def Obligations.BucketsOfTheHost : Prop :=
  (∀ (s : State) (qp b : Nat) (q : Qp) (f : Flag), (Instr.hostFlagWrite qp (partAt s.m q.part).bwKey b 0 (leBytes 4 2)).wf = true →
     tfind s.m.port.qps qp = some q → q.error = false → 1 ≤ b → flagAt s.m b = f → f.owner = 1 → f.part = q.part →
     f.fill < 2 ^ 32 → f.tag < 2 ^ 32 →
     exec (.hostFlagWrite qp (partAt s.m q.part).bwKey b 0 (leBytes 4 2)) s = .next { s with m := { s.m with ctl := { s.m.ctl with
       flags := tset {} s.m.ctl.flags b { f with
         owner := 2, handoffs := f.handoffs + 1, stroke := strokeOf s.m (bucketStream s.m b)
         strokeKind := if (bucketStream s.m b).isSome then 1 else 0 }
       bucketFlips := s.m.ctl.bucketFlips ++ [b] } } })
  ∧ (∀ (s : State) (qp b offset : Nat) (q : Qp) (f : Flag),
      tfind s.m.port.qps qp = some q → q.error = false → 1 ≤ b → b ≤ 32767 → flagAt s.m b = f → f.owner = 1 → f.part = q.part →
      (∀ data, (Instr.hostBucketWrite qp (partAt s.m q.part).bwKey b offset data).wf = true → data ≠ [] →
        offset + data.length ≤ 0x200000 → bucketGranted s.m b = false → s.m.power.deep < 3 →
        (∀ x ∈ s.m.jobs, x.2.secure.protectedPages = []) →
        ∃ t, exec (.hostBucketWrite qp (partAt s.m q.part).bwKey b offset data) s = .next t
          ∧ (∀ i (h : i < data.length), memByte t.m.mem (f.addr + offset + i) = data[i])
          ∧ (∀ a, a < f.addr + offset ∨ f.addr + offset + data.length ≤ a → memByte t.m.mem a = memByte s.m.mem a)
          ∧ t = { s with m := { s.m with mem := { s.m.mem with
              bytes := t.m.mem.bytes, poison := t.m.mem.poison, damaged := t.m.mem.damaged, lines := t.m.mem.lines } } })
      ∧ (∀ len, (Instr.hostBucketRead qp (partAt s.m q.part).bwKey b offset len).wf = true → offset + len ≤ 0x200000 → 0 < len →
        s.m.power.deep < 3 → s.m.mem.damaged = [] →
        (∀ x ∈ s.m.mem.poison, ¬((f.addr + offset) / 64 ≤ x.1 ∧ x.1 * 64 < f.addr + offset + len)) →
        exec (.hostBucketRead qp (partAt s.m q.part).bwKey b offset len) s = .next { s with m := { s.m with
          out := s.m.out ++ [.readData qp (memRead s.m.mem (f.addr + offset) len)] } }))

/-- R135, R142: with no room for the next record the module reads C again, takes it up to the last EVENT_SEQ written, and
writes the records it holds as far as there is room: with one record held, that record.
The readings that it takes are those of log entry 7. -/
def Obligations.ConsumerRereadWritesHeldRecord : Prop :=
  ∀ (s : State) (p value : Nat) (r : AreaReg) (e : Event), (Instr.consumerReread p value).wf = true →
    (areaAt s.m p).reg = some r → (areaAt s.m p).held = [e] → areaRoom (areaAt s.m p) = false →
    (areaAt s.m p).nextSeq - min value ((areaAt s.m p).nextSeq - 1) ≤ r.slots →
    ∃ t, exec (.consumerReread p value) s = .next t
      ∧ t.m.out = s.m.out ++ [.hostRead r.qp r.cAddr r.cRkey 8,
          .hostWrite r.qp (r.addr + ((areaAt s.m p).nextSeq - 1) % r.slots * 64) r.rkey
            (eventBytes e (areaAt s.m p).nextSeq (areaAt s.m p).lost)]
      ∧ areaAt t.m p = { areaAt s.m p with
          consumer := min value ((areaAt s.m p).nextSeq - 1), fresh := false, held := [], lost := 0
          nextSeq := (areaAt s.m p).nextSeq + 1 }
      ∧ t = { s with m := { s.m with out := t.m.out, ctl := { s.m.ctl with areas := t.m.ctl.areas } } }

/-- R291: an allocation takes the lowest-addressed run of FREE segments of its unit that is long enough, and none only when there is
no such run.
R292: the first segment in CLEARING of its unit is written with zeros and leaves CLEARING; no byte outside it changes.
The readings that it takes are those of log entry 27. -/
def Obligations.SegmentsAreTakenAndCleared : Prop :=
  (∀ (m : Mem) (u n : Nat), 0 < n →
     (∀ f, findRun m u n = some f →
       (unitSegs u).1 ≤ f ∧ f + n ≤ (unitSegs u).1 + (unitSegs u).2
         ∧ (∀ t ∈ takenRuns m, t.1 + t.2 ≤ f ∨ f + n ≤ t.1)
         ∧ ∀ g, (unitSegs u).1 ≤ g → g < f → ∃ t ∈ takenRuns m, g < t.1 + t.2 ∧ t.1 < g + n)
     ∧ (findRun m u n = none →
       ∀ g, (unitSegs u).1 ≤ g → g + n ≤ (unitSegs u).1 + (unitSegs u).2 → ∃ t ∈ takenRuns m, g < t.1 + t.2 ∧ t.1 < g + n))
  ∧ (∀ (s : State) (seg : Nat), (Instr.segmentCleared seg).wf = true →
      s.m.mem.clearing.find? (fun x => decide (segUnit x = segUnit seg)) = some seg →
      ∃ t, exec (.segmentCleared seg) s = .next t
        ∧ t.m.mem.clearing = s.m.mem.clearing.erase seg
        ∧ (∀ i, i < 0x200000 → memByte t.m.mem (seg * 0x200000 + i) = 0)
        ∧ (∀ a, a < seg * 0x200000 ∨ seg * 0x200000 + 0x200000 ≤ a → memByte t.m.mem a = memByte s.m.mem a)
        ∧ t = { s with m := { s.m with mem := { s.m.mem with
            bytes := t.m.mem.bytes, poison := t.m.mem.poison, clearing := t.m.mem.clearing
            damaged := t.m.mem.damaged, lines := t.m.mem.lines } } })

/-- R306, R304: a scrub that corrects a block counts it; one that finds it uncorrectable poisons the block and leaves its bytes.
R307: a row of an HBM bank that has a spare row left is repaired softly, and when that is done the repair record holds it and a
spare of its bank is spent; a row of the cistern waits in the repair record.
The readings that it takes are those of log entry 27. -/
def Obligations.ScrubAndRowRepair : Prop :=
  (∀ (s : State) (addr : Nat), wfPatrolScrub addr true false = true → addr < 0x020000000000 → addr / 64 ∉ s.m.mem.damaged →
     (∃ t, exec (.patrolScrub addr true false) s = .next t
       ∧ t.m.mem = { s.m.mem with hbm := (tset {} s.m.mem.hbm (addr / 0x2000000000)
           { tget {} s.m.mem.hbm (addr / 0x2000000000) with
             corrected := min ((tget {} s.m.mem.hbm (addr / 0x2000000000)).corrected + 1) (2 ^ 32 - 1) }) }
       ∧ t = { s with m := { s.m with mem := t.m.mem, sys := { s.m.sys with riskWin := t.m.sys.riskWin } } })
     ∧ (∃ t, exec (.patrolScrub addr false true) s = .next t
         ∧ memPoisoned t.m.mem addr 1 = true ∧ t.m.mem.bytes = s.m.mem.bytes
         ∧ t = { s with m := { s.m with
             free := s.m.free + 1, ctl := { s.m.ctl with evq := t.m.ctl.evq }, sys := { s.m.sys with riskWin := t.m.sys.riskWin }
             mem := { s.m.mem with poison := t.m.mem.poison, damaged := t.m.mem.damaged, hbm := t.m.mem.hbm } } }))
  ∧ (∀ (s : State) (unit bank row : Nat),
      (wfRowRepairCandidate 1 unit bank row = true → 
        (s.m.mem.remaps.filter (fun q => decide (q.kind = 1 ∧ q.unit = unit ∧ q.bank = bank))).length
          < (tget {} s.m.mem.hbm unit).spares - tget 0 (tget {} s.m.mem.hbm unit).used bank →
        exec (.rowRepairCandidate 1 unit bank row) s = .next { s with m := { s.m with mem := { s.m.mem with
          remaps := s.m.mem.remaps ++ [{ kind := 1, unit := unit, bank := bank, row := row }]
          hbm := tset {} s.m.mem.hbm unit { tget {} s.m.mem.hbm unit with remapping := true } } } })
      ∧ (wfRowRepairCandidate 2 unit bank row = true →
        (s.m.mem.rowRecord.filter (fun q => decide (q.kind = 2 ∧ q.unit = unit ∧ q.bank = bank) && !q.soft)).length
          + (s.m.mem.remaps.filter (fun q => decide (q.kind = 2 ∧ q.unit = unit ∧ q.bank = bank))).length
          < (tget {} s.m.mem.cis unit).spares - tget 0 (tget {} s.m.mem.cis unit).used bank → ∃ t, exec (.rowRepairCandidate 2 unit bank row) s = .next t
        ∧ t.m.mem = { s.m.mem with rowRecord := s.m.mem.rowRecord ++ [{ kind := 2, unit := unit, bank := bank, row := row }] }
        ∧ t = { s with m := { s.m with mem := t.m.mem, ctl := { s.m.ctl with evq := t.m.ctl.evq } } })
      ∧ (∀ r l, wfSoftRepairDone unit = true → s.m.mem.remaps = r :: l → r.unit = unit → r.kind = 1 → ∃ t, exec (.softRepairDone unit) s = .next t
        ∧ t.m.mem = { s.m.mem with
            remaps := l, rowRecord := s.m.mem.rowRecord ++ [{ r with soft := true }]
            hbm := tset {} s.m.mem.hbm unit { tget {} s.m.mem.hbm unit with
              remapping := l.any (fun q => decide (q.unit = unit))
              softRemaps := min ((tget {} s.m.mem.hbm unit).softRemaps + 1) 65535
              used := tset 0 (tget {} s.m.mem.hbm unit).used r.bank (tget 0 (tget {} s.m.mem.hbm unit).used r.bank + 1) } }
        ∧ t = { s with m := { s.m with mem := t.m.mem, ctl := { s.m.ctl with evq := t.m.ctl.evq } } }))

/-- R313, R310, R311: the oldest aquifer command ends: a write of one extent takes the 2 MiB as memory holds them, a read of one
extent gives memory what the extent holds; R315: a controller failure makes the aquifer FAILED and ends every command. At a
command's end the controller reads its wear and its spares: AQUIFER_WEAR is raised once for each of 90 and 100, and fewer than
2 % of spares make the aquifer READ_ONLY.
The readings that it takes are those of log entry 27. -/
def Obligations.AquiferCommandsEnd : Prop :=
  ∀ (s : State) (c : AqCmd) (l : List AqCmd) (wear spare : Nat), s.m.mem.aq.cmds = c :: l → c.count = 1 →
    wear < 65536 → spare ≤ 100 → s.m.mem.damaged = [] →
    (c.write = true → ∃ t, exec (.aqOpDone 0 [] wear spare) s = .next t
      ∧ t.m.mem.aq.cmds = l ∧ t.m.mem.bytes = s.m.mem.bytes
      ∧ t.m.mem.aq.wear = min wear 255 ∧ t.m.mem.aq.st = (if s.m.mem.aq.st = 0 ∧ spare < 2 then 1 else s.m.mem.aq.st)
      ∧ (spare ≥ 2 → t.m.ctl.evq.length = s.m.ctl.evq.length + 1
            + ((if 100 ≤ wear then 2 else if 90 ≤ wear then 1 else 0) - s.m.mem.aq.warned))
      ∧ (∀ i, i < 0x200000 → ∃ e, tfind t.m.mem.aq.extents (c.part * 33554432 + c.first) = some e
            ∧ tget 0 e.data i = memByte s.m.mem (c.addr + i))
      ∧ t = { s with m := { s.m with ctl := { s.m.ctl with evq := t.m.ctl.evq }, mem := { s.m.mem with aq := t.m.mem.aq } } })
    ∧ (∀ e, c.write = false → tfind s.m.mem.aq.extents (c.part * 33554432 + c.first) = some e →
        (∀ x ∈ e.data, x.1 < 0x200000) → underHost s.m c.addr 0x200000 = false →
        (∀ x ∈ s.m.jobs, x.2.secure.protectedPages = []) → ∃ t, exec (.aqOpDone 0 [] wear spare) s = .next t
      ∧ t.m.mem.aq.cmds = l
      ∧ (∀ i, i < 0x200000 → memByte t.m.mem (c.addr + i) = tget 0 e.data i)
      ∧ (∀ a, a < c.addr ∨ c.addr + 0x200000 ≤ a → memByte t.m.mem a = memByte s.m.mem a)
      ∧ t.nv = s.nv ∧ t.m.jobs = s.m.jobs ∧ t.m.mem.allocs = s.m.mem.allocs)
    ∧ (∃ t, exec .aquiferControllerFailure s = .next t ∧ t.m.mem = { s.m.mem with aq := { s.m.mem.aq with st := 2, cmds := [] } }
      ∧ t.m.ctl.evq.length = s.m.ctl.evq.length + 1 + l.length
      ∧ t = { s with m := { s.m with mem := t.m.mem, ctl := { s.m.ctl with evq := t.m.ctl.evq } } })

/-- R445: training: an attempt begins when the peer is seen; one that succeeds brings the link up at the width of R472 with what it
found; one that fails, is too long or times out is counted, and the third makes the link FAILED; the loss of the peer is not
counted.
The readings that it takes are those of log entry 27. -/
def Obligations.LinkTraining : Prop :=
  ∀ (s : State) (l : Nat) (k : Link), linkAt s.m l = k →
    let only : State → Prop := fun t => (∀ j, j ≠ l → linkAt t.m j = linkAt s.m j)
      ∧ t = { s with m := { s.m with net := { s.m.net with links := t.m.net.links }, ctl := { s.m.ctl with evq := t.m.ctl.evq } } }
    let fails : Nat → State → Prop := fun cause t => only t
      ∧ linkAt t.m l = { k with attempting := false, cause := cause, attempts := k.attempts + 1
                                st := if 2 ≤ k.attempts then .failed else .training }
    ((Instr.linkPeerSignal l).wf = true → s.m.sys.st ≠ .off → k.enabled = true → k.attempting = false → (k.st = .off ∨ k.st = .training) →
      ∃ t, exec (.linkPeerSignal l) s = .next t ∧ only t
        ∧ linkAt t.m l = { k with st := .training, attempting := true, trains := min (k.trains + 1) 255 })
    ∧ (k.attempting = true → k.st = .training →
      ((Instr.linkPeerLoss l).wf = true → ∃ t, exec (.linkPeerLoss l) s = .next t ∧ only t
        ∧ linkAt t.m l = { k with attempting := false, cause := 1 })
      ∧ (∀ cause, (Instr.linkTrainTimeout l cause).wf = true → ∃ t, exec (.linkTrainTimeout l cause) s = .next t ∧ fails cause t)
      ∧ (∀ lanes flight seen pos plink cause, (Instr.linkTrainDone l lanes flight seen pos plink cause).wf = true →
        (cause ≠ 0 → ∃ t, exec (.linkTrainDone l lanes flight seen pos plink cause) s = .next t ∧ fails cause t)
        ∧ (cause = 0 → 1400 < flight → ∃ t, exec (.linkTrainDone l lanes flight seen pos plink cause) s = .next t ∧ fails 3 t)
        ∧ (cause = 0 → flight ≤ 1400 → lanes = 15 → (∀ x ∈ s.m.net.finWait, x.1 ≠ l) → (∀ c ∈ s.m.colls, c.st ≠ .header) →
          ∃ t, exec (.linkTrainDone l lanes flight seen pos plink cause) s = .next t ∧ only t
            ∧ linkAt t.m l = { k with
                attempting := false, attempts := 0, lanesOk := 15, flight := flight
                fShifts := if k.flight ≠ 0 ∧ (k.flight + 4 < flight ∨ flight + 4 < k.flight) then min (k.fShifts + 1) 255 else k.fShifts
                peerPos := if seen then pos else 65535, peerLink := plink, peerValid := seen
                expSeq := 0, lastAck := 4095, awaitReplay := false, lastFlit := none, sameReplays := 0, peerWide := true
                widthTo := none
                st := if powerState s.m < 3 then .wide else .narrow
                upSince := s.m.ctl.localStroke % 2 ^ 32 })))

/-- R450, R462: a frame in order is acknowledged; what its ACK covers leaves the retry buffer, the credit that it returns is counted
to at most 64 frames, and the flit space of a collective channel's frame is given back in the answer. A frame out of order or
that cannot be corrected is answered by a NAK with the ACK of the last frame in order, and until the expected frame arrives
the others are discarded.
The readings that it takes are those of log entry 27. -/
def Obligations.FramesArriveInOrder : Prop :=
  ∀ (s : State) (l : Nat) (f : Frame) (k : Link), (Instr.frameReceive l f).wf = true → linkAt s.m l = k → linkUp k = true →
    f.exp = false → f.nak = false → f.dropPair = false →
    let only : State → Prop := fun t => (∀ j, j ≠ l → linkAt t.m j = linkAt s.m j)
      ∧ t = { s with m := { s.m with out := t.m.out, net := { s.m.net with links := t.m.net.links } } }
    (f.seq = k.expSeq → f.symErr ≤ 8 → k.rx = List.replicate 8 0 → k.owed = List.replicate 8 0 → k.txq = [] → k.flitq = [] →
      s.m.colls = [] → s.m.jobs = [] → ∃ t, exec (.frameReceive l f) s = .next t ∧ only t
      ∧ t.m.out = s.m.out ++ [.header l f.seq false (if f.vcValid = true ∧ f.vc < 6 then f.vc else 0)
          (if f.vcValid = true ∧ f.vc < 6 then 1 else 0) (decide (powerState s.m < 3)) k.keepPair]
      ∧ linkAt t.m l = { k with
          corrected := min (k.corrected + f.symErr) (2 ^ 32 - 1), expSeq := (f.seq + 1) % 4096, lastAck := f.seq, awaitReplay := false
          lastFlit := none, sameReplays := if (f.ack + 1) % 4096 = k.replaySeq then k.sameReplays else 0, peerWide := f.wideReq
          retry := ackedTo f.ack k.retry
          credit := setNth k.credit f.creditVc (min 64 (nth 0 k.credit f.creditVc + f.credit))
          rx := setNth (List.replicate 8 0) f.vc (if f.vcValid = true ∧ 6 ≤ f.vc then 1 else 0)
          widthTo := if k.st = widthFor s.m { k with peerWide := f.wideReq } then none
            else some (widthFor s.m { k with peerWide := f.wideReq }) })
    ∧ ((f.seq = k.expSeq ∧ 8 < f.symErr) ∨ (f.seq ≠ k.expSeq ∧ k.awaitReplay = false) →
      ∀ v n, creditDue k = (v, n) → ∃ t, exec (.frameReceive l f) s = .next t ∧ only t
      ∧ t.m.out = s.m.out ++ [.header l k.lastAck true v n (decide (powerState s.m < 3)) k.keepPair]
      ∧ linkAt t.m l = { k with
          uncorr := min (k.uncorr + 1) 4095, awaitReplay := true, owed := setNth k.owed v (nth 0 k.owed v - n) })
    ∧ (f.seq ≠ k.expSeq → k.awaitReplay = true → exec (.frameReceive l f) s = .next s)

/-- R450, R451: a NAK makes the sender replay from the frame after ACK; when eight replays of one frame have failed, or no frame
arrives for 7,000 cycles, the link goes down with its buffers and credits as before a training, and retrains while it is enabled.
R473, R472: a lane that fails in use leaves the link HALF while a pair works, and the next header names the pair to keep, and NARROW
when each pair holds a failed lane; an agreed change of width is made when it completes.
The readings that it takes are those of log entry 27. -/
def Obligations.ReplayLinkDownAndLanes : Prop :=
  (∀ (s : State) (l : Nat) (k : Link), linkAt s.m l = k → linkUp k = true → l < 32 → s.m.colls = [] → s.m.jobs = [] →
     let only : State → Prop := fun t => (∀ j, j ≠ l → linkAt t.m j = linkAt s.m j)
       ∧ t = { s with m := { s.m with
           out := t.m.out, net := { s.m.net with links := t.m.net.links }, ctl := { s.m.ctl with evq := t.m.ctl.evq } } }
     let down : State → Prop := fun t => only t ∧ t.m.out = s.m.out ∧ linkAt t.m l = { k with
       downs := min (k.downs + 1) 255, attempts := 0, attempting := false, widthTo := none, expSeq := 0, lastAck := 4095
       cause := if k.enabled then 1 else k.cause
       awaitReplay := false, lastFlit := none, sameReplays := 0, st := if k.enabled then .training else .off
       credit := List.replicate 8 64, rx := List.replicate 8 0, owed := List.replicate 8 0, txq := [], bulkWait := 0
       nextSeq := 0, retry := [], flitq := [], keepPair := none }
     (∃ t, exec (.linkIdleTimeout l) s = .next t ∧ down t)
     ∧ (∀ ack n, ack < 4096 → (if k.sameReplays ≠ 0 ∧ k.replaySeq = (ack + 1) % 4096 then k.sameReplays + 1 else 1) = n →
       (8 < n → ∃ t, exec (.nakReceive l ack) s = .next t ∧ down t)
       ∧ (n ≤ 8 → ∃ t, exec (.nakReceive l ack) s = .next t ∧ only t ∧ t.m.out = s.m.out ++ [.replay l ((ack + 1) % 4096)]
           ∧ t.m.ctl.evq = s.m.ctl.evq
           ∧ linkAt t.m l = { k with
               retry := ackedTo ack k.retry, sameReplays := n, replaySeq := (ack + 1) % 4096
               replays := min (k.replays + 1) (2 ^ 32 - 1) })))
  ∧ (∀ (s : State) (l : Nat) (k : Link), linkAt s.m l = k →
      let only : State → Prop := fun t => (∀ j, j ≠ l → linkAt t.m j = linkAt s.m j)
        ∧ t = { s with m := { s.m with
            out := t.m.out, net := { s.m.net with links := t.m.net.links }, ctl := { s.m.ctl with evq := t.m.ctl.evq } } }
      (∀ lane left half, wfLaneFailure l lane = true → linkUp k = true → k.lanesOk < 16 → bitOf k.lanesOk lane = true →
        k.lanesOk - 2 ^ lane = left → left ≠ 0 →
        (decide (k.st ≠ .narrow) && (bitOf left 0 && bitOf left 1 || bitOf left 2 && bitOf left 3)) = half →
        ∃ t, exec (.laneFailure l lane) s = .next t ∧ only t
          ∧ (linkAt t.m l).lanesOk = left ∧ (linkAt t.m l).laneFaults = min (k.laneFaults + 1) 255
          ∧ (linkAt t.m l).st = (if half then .half else .narrow)
          ∧ (∃ e, t.m.ctl.evq.getLast? = some (none, e) ∧ e.etype = 0x0B61)
          ∧ (half = false → t.m.out = s.m.out)
          ∧ (half = true → t.m.out = s.m.out ++ [.header l k.lastAck false (creditDue k).1 (creditDue k).2
              (decide (powerState s.m < 3)) (some (if lane < 2 then 1 else 0))]))
      ∧ (∀ w, (Instr.widthChangeDone l).wf = true → k.widthTo = some w → w ≠ k.st → (w = .wide ∨ w = .half ∨ w = .narrow) →
        ∃ t, exec (.widthChangeDone l) s = .next t ∧ only t ∧ t.m.out = s.m.out
          ∧ linkAt t.m l = { k with widthTo := none, st := w, upSince := s.m.ctl.localStroke % 2 ^ 32 }))

/-- R462, R464, R468, R731: a packet for another module leaves on PRIMARY when that link can take it, otherwise on ALTERNATE, and is
otherwise discarded and counted, and its frames of credit are owed to the link that it came on; a WRITE packet for an open window
reaches the memory under it, and one that no window takes is counted and raises the event of the window once in a stroke.
The readings that it takes are those of log entry 27. -/
def Obligations.PacketsFindTheirWay : Prop :=
  ∀ (s : State) (l : Nat) (p : Packet) (k : Link), linkAt s.m l = k → forwarding s.m = true →
    linkUp k = true → s.m.power.deep = 0 →
    let n := min (unitFrames (packetBytes p)) (nth 0 k.rx p.vc)
    let taken := { k with rx := setNth k.rx p.vc (nth 0 k.rx p.vc - n), owed := setNth k.owed p.vc (nth 0 k.owed p.vc + n) }
    let leaves : Nat → State → Prop := fun a t => t.m.out = s.m.out ++ [.packet a p]
      ∧ (∀ j, j ≠ l → j ≠ a → linkAt t.m j = linkAt s.m j) ∧ (a ≠ l → linkAt t.m l = taken)
      ∧ (linkAt t.m a).credit = setNth (linkAt s.m a).credit p.vc (nth 0 (linkAt s.m a).credit p.vc - unitFrames (packetBytes p))
      ∧ t = { s with m := { s.m with out := t.m.out, net := { s.m.net with links := t.m.net.links } } }
    (∀ e a b, (Instr.bulkPacketForward l p).wf = true → tget 0 s.m.net.routes p.dest = e → e % 32 = a → e / 64 % 32 = b →
      s.m.net.position ≠ some p.dest →
      let primary : Prop := bitOf e 5 = true ∧ linkUp (linkAt s.m a) = true
        ∧ ((linkAt s.m a).st = .narrow → (linkAt s.m a).peerValid = true ∧ (linkAt s.m a).peerPos = p.dest)
      (primary → (linkAt s.m a).takes p.vc (packetBytes p) = true → ∃ t, exec (.bulkPacketForward l p) s = .next t ∧ leaves a t)
      ∧ (¬ primary →
        (bitOf e 11 = true → (linkAt s.m b).takes p.vc (packetBytes p) = true →
          ∃ t, exec (.bulkPacketForward l p) s = .next t ∧ leaves b t)
        ∧ (bitOf e 11 = false ∨ linkUp (linkAt s.m b) = false → ∃ t, exec (.bulkPacketForward l p) s = .next t
          ∧ linkAt t.m l = { taken with noRoute := min (k.noRoute + 1) 15 }
          ∧ (∀ j, j ≠ l → linkAt t.m j = linkAt s.m j)
          ∧ t = { s with m := { s.m with net := { s.m.net with links := t.m.net.links } } })))
    ∧ ((Instr.bulkPacketReceive l p).wf = true → s.m.net.position = some p.dest → p.type = 1 → p.window < 0xF000 → p.poisonMap = 0 →
      (∀ w a, tfind s.m.net.windows (p.window * 65536 + p.src) = some w → p.crcOk = true → p.offset + p.payload.length ≤ w.size →
        w.pieces = [(a, w.size)] → (∀ x ∈ s.m.jobs, x.2.secure.protectedPages = []) →
        underHost s.m (a + p.offset) p.payload.length = false →
        ∃ t, exec (.bulkPacketReceive l p) s = .next t
          ∧ (∀ i (h : i < p.payload.length), memByte t.m.mem (a + p.offset + i) = p.payload[i])
          ∧ (∀ j, j < a + p.offset ∨ a + p.offset + p.payload.length ≤ j → memByte t.m.mem j = memByte s.m.mem j)
          ∧ linkAt t.m l = taken ∧ (∀ j, j ≠ l → linkAt t.m j = linkAt s.m j)
          ∧ t = { s with m := { s.m with
              net := { s.m.net with links := t.m.net.links }
              mem := { s.m.mem with
                bytes := t.m.mem.bytes, poison := t.m.mem.poison, damaged := t.m.mem.damaged, lines := t.m.mem.lines } } })
      ∧ (tfind s.m.net.windows (p.window * 65536 + p.src) = none → ∃ t, exec (.bulkPacketReceive l p) s = .next t
          ∧ linkAt t.m l = { taken with window := min (k.window + 1) 15 }
          ∧ (∀ j, j ≠ l → linkAt t.m j = linkAt s.m j)
          ∧ p.window ∈ t.m.net.winFaults
          ∧ (p.window ∈ s.m.net.winFaults → t.m.ctl = s.m.ctl)
          ∧ t = { s with m := { s.m with
              net := { s.m.net with links := t.m.net.links, winFaults := t.m.net.winFaults }
              ctl := { s.m.ctl with evq := t.m.ctl.evq } } }))

/-- R485, R497: the engine of a die reads its source once for a reduce, an all-gather or a gather of a module-local group, which goes
on only when every source has been read; and R481, R482: at the root of a tree the source of a broadcast or a scatter goes down the
tree.
The readings that it takes are those of log entry 17. -/
def Obligations.CollectiveSourcesAreRead : Prop :=
  ∀ (s : State) (die slot group seq : Nat) (c : Coll) (d : CollDie) (g : Group), groupAt' s.m slot group = some g →
    c.dies.find? (fun e => decide (e.die = die)) = some d → d.ready = false → d.src ≠ 0 → d.engine = none → c.slot = slot → c.group = group →
    c.seq = seq → c.st = .data → bankPieces d.src c.bytes = [(d.src, c.bytes)] → s.m.mem.damaged = [] →
    admitAccess s.m (die * 256 + 0xC0) slot d.src c.bytes 0 = (true, s.m) → memPoisoned s.m.mem d.src c.bytes = false →
    (∀ x ∈ [(2, Instr.reduce), (3, Instr.allreduce), (4, Instr.reduceDeliver), (5, Instr.allgather), (6, Instr.gather), (8, Instr.reduceScatter)],
      (x.2 die slot group seq).wf = true → c.op = x.1 → c.red ∉ [1, 4, 5] → isLocal g = true → s.m.colls = [c] →
      (∃ e ∈ c.dies, e.die ≠ die ∧ e.src ≠ 0 ∧ e.engine = none ∧ e.ready = false) →
      exec (x.2 die slot group seq) s = .next { s with m := { s.m with colls := [{ c with dies := c.dies.map (fun e =>
        if e.die = die then { e with ready := true, contrib := some (memRead s.m.mem d.src c.bytes, List.replicate ((c.bytes + 63) / 64) false) }
        else e) }] } })
    ∧ (∀ x ∈ [(1, Instr.bcast), (7, Instr.scatter)], ∀ tr e l,
      (x.2 die slot group seq).wf = true → c.op = x.1 → isLocal g = false → s.m.colls = [c] → c.dies = [d] → d.dst = 0 →
      c.root = ownPos s.m → c.rootDie = die → groupTree g c.root = some tr → treeOf s.m tr = some e → e.up = 0xFF → l < 32 →
      e.down = 2 ^ l → 0 < c.bytes → c.bytes ≤ 2 ^ c.chunkLog → c.doneChunks = [] → c.staged = [] →
      c.endeds = [] → c.throttled = false → hotDelay s.m d.src = (false, s.m) →
      let k : Chunk := {
        kind := 3, flags := 0, tree := tr, src := ownPos s.m, phase := 0, restarts := c.restarts
        digest := c.digest, chunk := 0, epoch := c.epoch, seq := seq, group := group, payload := memRead s.m.mem d.src c.bytes
        poison := List.replicate ((c.bytes + 63) / 64) false, vc := c.vc }
      (linkAt s.m l).takes c.vc (chunkBytes k) = true →
      ∃ t, exec (x.2 die slot group seq) s = .next t ∧ t.m.out = s.m.out ++ [.chunk l k]
        ∧ t = { s with m := { s.m with
            out := t.m.out, colls := t.m.colls, fabs := t.m.fabs, net := { s.m.net with links := t.m.net.links } } })

/-- R484, R492, R493: a HEADER chunk that comes before its collective waits in the group's entry; GO with MISMATCH ends the collective
with COLL_MISMATCH, GO without it begins the data phase with every source unread.
R495 to R497, R507, R732: a DATA chunk of the present run is staged until its turn and one of another run is discarded; ENDED of
a child is kept until the module's own parts are done.
The readings that it takes are those of log entry 17. -/
def Obligations.CollectiveChunks : Prop :=
  (∀ (s : State) (link slot : Nat) (k : Chunk) (e : TreeEntry) (j : Job) (g : Group),
     forwarding s.m = true → linkUp (linkAt s.m link) = true → treeOf s.m k.tree = some e → jobById s.m e.jobId = some (slot, j) →
     groupAt' s.m slot k.group = some g →
     ((Instr.headerChunk link k).wf = true → (∀ x ∈ s.m.colls, x.slot = slot → x.group ≠ k.group) →
       ∃ t, exec (.headerChunk link k) s = .next t
         ∧ groupAt' t.m slot k.group = some { g with early := g.early ++ [{
             link := link, tree := k.tree, digest := k.digest, mismatch := bitOf k.flags 1, src := k.src, restarts := k.restarts }] }
         ∧ t = { s with m := { s.m with groups := t.m.groups } })
     ∧ (∀ c, (Instr.goChunk link k).wf = true → s.m.colls = [c] → c.slot = slot → c.group = k.group → c.st = .header → c.headerSent = true →
       headerTree s.m c = k.tree → c.restarts = k.restarts → (collTree s.m c).up = some link → (collTree s.m c).down = [] →
       (bitOf k.flags 1 = true → s.m.mem.damaged = [] → ∃ t, exec (.goChunk link k) s = .next t ∧ t.m.colls = []
         ∧ (∀ d ∈ c.dies, (fabAt t.m d.die).mismatch = true)
         ∧ groupAt' t.m slot k.group = some { g with stats := setNth g.stats 2 (nth 0 g.stats 2 + 1) }
         ∧ t.nv = s.nv ∧ t.m.sys = s.m.sys ∧ t.m.net = { s.m.net with links := t.m.net.links } ∧ t.m.port = s.m.port ∧ t.m.power = s.m.power)
       ∧ (bitOf k.flags 1 = false → c.op = 2 → isLocal g = false → 0 < c.bytes → (∀ d ∈ c.dies, d.engine = none) → (∃ d ∈ c.dies, d.src ≠ 0) →
         exec (.goChunk link k) s = .next { s with m := { s.m with colls := [{ c with
           st := .data, staged := [], doneChunks := [], endeds := [], endedSent := false, result := []
           dies := c.dies.map (fun d => { d with
             contrib := none, ready := false, nonfinite := false, poison := false, written := 0 }) }] } })))
  ∧ (∀ (s : State) (link slot : Nat) (k : Chunk) (e : TreeEntry) (j : Job) (g : Group) (c : Coll),
      forwarding s.m = true → linkUp (linkAt s.m link) = true → treeOf s.m k.tree = some e → jobById s.m e.jobId = some (slot, j) →
      groupAt' s.m slot k.group = some g → isLocal g = false → s.m.colls = [c] → c.slot = slot → c.group = k.group → c.seq = k.seq →
      c.st = .data → c.op = 2 → 0 < c.bytes → c.doneChunks = [] → (∃ d ∈ c.dies, d.src ≠ 0 ∧ d.engine = none ∧ d.ready = false) →
      ((Instr.dataChunk link k).wf = true →
        (k.restarts = c.restarts → k.digest = c.digest → stagedFor c k.phase k.chunk link = none →
          ∃ t, exec (.dataChunk link k) s = .next t
            ∧ t.m.colls = [{ c with
                staged := c.staged ++ [{
                  phase := k.phase, chunk := k.chunk, link := link, src := k.src, flags := k.flags, payload := k.payload, poison := k.poison }]
                throttled := c.throttled || bitOf k.flags 3 }]
            ∧ (fabAt t.m (anchorOf s.m c)).active = ((fabAt s.m (anchorOf s.m c)).active + k.payload.length * 7 / 1000) % 2 ^ 64
            ∧ t = { s with m := { s.m with colls := t.m.colls, fabs := t.m.fabs } })
        ∧ (k.restarts ≠ c.restarts → exec (.dataChunk link k) s = .next s))
      ∧ ((Instr.endedChunk link k).wf = true → k.restarts = c.restarts → link ∈ (collTree s.m c).down → link ∉ c.endeds →
        exec (.endedChunk link k) s = .next { s with m := { s.m with colls := [{ c with endeds := c.endeds ++ [link] }] } }))

/-- R505, R507, R508, R732: ABORT ends the collective at this module, with ABORTED in every engine that takes part and with
COLL_ABORTED raised; with RESTART it begins the run again, once for each restart count; FINISH from the link UP ends it.
The readings that it takes are those of log entry 17. -/
def Obligations.CollectiveAbortsAndFinishes : Prop :=
  ∀ (s : State) (link slot : Nat) (k : Chunk) (e : TreeEntry) (j : Job) (g : Group) (c : Coll),
    forwarding s.m = true → linkUp (linkAt s.m link) = true → treeOf s.m k.tree = some e → jobById s.m e.jobId = some (slot, j) →
    groupAt' s.m slot k.group = some g → s.m.colls = [c] → c.slot = slot → c.group = k.group → c.seq = k.seq →
    s.m.mem.damaged = [] →
    ((Instr.abortChunk link k).wf = true → c.st ≠ .stopped →
      (bitOf k.flags 2 = false → ∃ t, exec (.abortChunk link k) s = .next t ∧ t.m.colls = []
        ∧ (∀ d ∈ c.dies, (fabAt t.m d.die).aborted = true)
        ∧ groupAt' t.m slot k.group = some { g with stats := setNth g.stats 3 (nth 0 g.stats 3 + 1) }
        ∧ t.nv = s.nv ∧ t.m.sys = s.m.sys ∧ t.m.net = { s.m.net with links := t.m.net.links } ∧ t.m.port = s.m.port ∧ t.m.power = s.m.power)
      ∧ (bitOf k.flags 2 = true → c.restarts < k.restarts → k.restarts ∉ c.abortSeen → g.early = [] →
          (∃ d < 8, bitOf g.dies d = true ∧ ∀ x ∈ c.dies, x.die ≠ d) → ∃ t, exec (.abortChunk link k) s = .next t
        ∧ t.m.colls = [{ c with
            st := .header, restarts := k.restarts, mismatch := false, headers := [], endeds := [], headerSent := false
            endedSent := false, staged := [], abortSeen := c.abortSeen ++ [k.restarts] }]
        ∧ t.nv = s.nv ∧ t.m.mem = s.m.mem ∧ t.m.net = { s.m.net with links := t.m.net.links } ∧ t.m.ctl = s.m.ctl)
      ∧ (bitOf k.flags 2 = true → k.restarts ≤ c.restarts ∨ k.restarts ∈ c.abortSeen → exec (.abortChunk link k) s = .next s))
    ∧ ((Instr.finishChunk link k).wf = true → c.st = .data → c.endedSent = true → c.throttled = false → (collTree s.m c).up = some link →
      (collTree s.m c).down = [] → ∃ t, exec (.finishChunk link k) s = .next t ∧ t.m.colls = []
        ∧ (∀ d ∈ c.dies, d.nonfinite = true → (fabAt t.m d.die).nonfinite = true)
        ∧ groupAt' t.m slot k.group = some { g with stats := setNth g.stats 1 (nth 0 g.stats 1 + 1) }
        ∧ t.nv = s.nv ∧ t.m.sys = s.m.sys ∧ t.m.net = { s.m.net with links := t.m.net.links } ∧ t.m.port = s.m.port ∧ t.m.power = s.m.power)

/-- R487 to R490, R504: a command bank with one descriptor that passes every check: its RESULT is 0, the header counts it, and it
begins a collective with the next number of its group; R504: an engine reports WAITING while a collective of its data phase moves
less than 7/8 of its rate.
The readings that it takes are those of log entry 17. -/
def Obligations.CollectivePosting : Prop :=
  (∀ (s : State) (die bank slot a : Nat) (b : Bank) (g : Group) (d : List Byte), (Instr.collBankHandover die bank).wf = true →
    bankAt s.m die bank = b → b.owner = 0xC0 → b.jobValid = true → b.jobSlot = slot → bankAddr die bank = a →
    memNat s.m.mem a 2 = 0xA7C0 → memNat s.m.mem (a + 2) 2 = 1 → memRead s.m.mem (a + 64) 64 = d → collResult s.m die slot d = 0 →
    groupAt' s.m slot (recField d 4 2) = some g → (∃ x < 8, x ≠ die ∧ bitOf g.dies x = true) → g.early = [] →
    (∀ x ∈ s.m.colls, x.slot = slot → x.group ≠ recField d 4 2) → underHost s.m a 0x100000 = false →
    ∃ t, exec (.collBankHandover die bank) s = .next t
      ∧ memByte t.m.mem (a + 124) = 0 ∧ memNat t.m.mem (a + 8) 4 = 1 ∧ memNat t.m.mem (a + 12) 4 = 0
      ∧ (∃ c, t.m.colls = s.m.colls ++ [c] ∧ c.slot = slot ∧ c.group = recField d 4 2 ∧ c.seq = g.seq ∧ c.op = recField d 0 1
          ∧ c.bytes = recField d 16 8 ∧ c.st = .header ∧ c.dies.map (·.die) = [die])
      ∧ (∀ g', groupAt' t.m slot (recField d 4 2) = some g' → g'.seq = (g.seq + 1) % 2 ^ 32)
      ∧ (fabAt t.m die).posted = min ((fabAt s.m die).posted + 1) (2 ^ 32 - 1)
      ∧ bankAt t.m die bank = { b with fresh := false }
      ∧ (∀ e x, e * 160 + x ≠ die * 160 + bank → bankAt t.m e x = bankAt s.m e x)
      ∧ t.nv = s.nv ∧ t.m.net = s.m.net ∧ t.m.out = s.m.out)
  ∧ (∀ (s : State) (die : Nat) (below : Bool), (Instr.collWaitingTick die below).wf = true →
    ∃ t, exec (.collWaitingTick die below) s = .next t
      ∧ (fabAt t.m die).waiting = (s.m.colls.any (fun c => decide (c.st = .data) && c.dies.any (fun d => decide (d.die = die))) && below)
      ∧ (∀ d, d ≠ die → fabAt t.m d = fabAt s.m d) ∧ t = { s with m := { s.m with fabs := t.m.fabs } })

/-- R250, R251, R253, R257: the arithmetic and logic of the lanes: RD of each guarded lane is the result on that lane's registers and
carries the poison of its sources, every other register stands, the team goes on, and nothing outside its engine changes.
The readings that it takes are those of log entry 12. -/
def Obligations.VectorLaneArithmetic : Prop :=
  ∀ (s : State) (f : VeF) (t : Team), f.wf = true → teamAt s.m f.die f.ve f.team = some t → t.wait = .ready → t.atomRegs = [] →
    ∀ x ∈ ([
      (Instr.fmaF32, [f.ra, f.rb, f.rc], fun a b c => rne32 (fvAdd (fvMul (dec32 a) (dec32 b)) (dec32 c))),
      (Instr.addF32, [f.ra, f.rb], fun a b _ => rne32 (fvAdd (dec32 a) (dec32 b))),
      (Instr.mulF32, [f.ra, f.rb], fun a b _ => rne32 (fvMul (dec32 a) (dec32 b))),
      (Instr.divF32, [f.ra, f.rb], fun a b _ => rne32 (fvDiv (dec32 a) (dec32 b))),
      (Instr.sqrtF32, [f.ra], fun a _ _ => rne32 (fvSqrt (dec32 a))),
      (Instr.expF32, [f.ra], fun a _ _ => rne32 (fvExp (dec32 a))),
      (Instr.logF32, [f.ra], fun a _ _ => rne32 (fvLog (dec32 a))),
      (Instr.maxF32, [f.ra, f.rb], fun a b _ => maxMin32 true a b),
      (Instr.minF32, [f.ra, f.rb], fun a b _ => maxMin32 false a b),
      (Instr.fmaBf16x2, [f.ra, f.rb, f.rc], fun a b c =>
        rne16 (fvAdd (fvMul (fdec bf16 (a % 65536)) (fdec bf16 (b % 65536))) (fdec bf16 (c % 65536)))
          + 65536 * rne16 (fvAdd (fvMul (fdec bf16 (a / 65536)) (fdec bf16 (b / 65536))) (fdec bf16 (c / 65536)))),
      (Instr.iadd, [f.ra, f.rb], fun a b _ => a + b),
      (Instr.isub, [f.ra, f.rb], fun a b _ => a + (2 ^ 32 - b)),
      (Instr.imul, [f.ra, f.rb], fun a b _ => a * b),
      (Instr.vAnd, [f.ra, f.rb], fun a b _ => a &&& b),
      (Instr.vOr, [f.ra, f.rb], fun a b _ => a ||| b),
      (Instr.vXor, [f.ra, f.rb], fun a b _ => a ^^^ b)] : List ((VeF → Instr) × List Nat × (Nat → Nat → Nat → Nat))),
    ∃ r u, exec (x.1 f) s = .next r ∧ teamAt r.m f.die f.ve f.team = some u
      ∧ (∀ l < 64, vGet u l f.rd =
          if guardOn t f l = true then x.2.2 (vGet t l f.ra) (vGet t l f.rb) (vGet t l f.rc) % 2 ^ 32 else vGet t l f.rd)
      ∧ (∀ l < 64, vPoison u l f.rd = if guardOn t f l = true then x.2.1.any (vPoison t l) else vPoison t l f.rd)
      ∧ (∀ l < 64, ∀ k < 32, k ≠ f.rd → vGet u l k = vGet t l k ∧ vPoison u l k = vPoison t l k)
      ∧ u = { t with v := u.v, vp := u.vp, flags := u.flags, pc := (t.pc + 8) % 2 ^ 48 }
      ∧ (∀ k, k ≠ f.team → tfind (veAt r.m f.die f.ve).teams k = tfind (veAt s.m f.die f.ve).teams k)
      ∧ veAt r.m f.die f.ve = { veAt s.m f.die f.ve with
          teams := (veAt r.m f.die f.ve).teams, sticky := (veAt r.m f.die f.ve).sticky
          active := ((veAt s.m f.die f.ve).active + 1) % 2 ^ 64 }
      ∧ (∀ d v, d * 128 + v ≠ f.die * 128 + f.ve → veAt r.m d v = veAt s.m d v)
      ∧ r = { s with m := { s.m with ves := r.m.ves } }

/-- R250, R251: SHL and SHR by less than 32 give the shifted word (SHR of a word whose top bit is 0); CMP writes only the predicate that
RD names, and P0 keeps reading 1; SEL gives one of its two operands. By which rule CMP and SEL decide, and what a longer shift
gives, the manual does not say: those values are free (log entries 12 and 25).
The readings that it takes are those of log entry 12. -/
def Obligations.VectorShiftsAndSelects : Prop :=
  ∀ (s : State) (f : VeF) (t : Team), f.wf = true → teamAt s.m f.die f.ve f.team = some t → t.wait = .ready → t.atomRegs = [] →
    let issued : State → Team → Prop := fun r u => teamAt r.m f.die f.ve f.team = some u
      ∧ u = { t with v := u.v, vp := u.vp, p := u.p, flags := u.flags, pc := (t.pc + 8) % 2 ^ 48 }
      ∧ (∀ k, k ≠ f.team → tfind (veAt r.m f.die f.ve).teams k = tfind (veAt s.m f.die f.ve).teams k)
      ∧ (∀ d v, d * 128 + v ≠ f.die * 128 + f.ve → veAt r.m d v = veAt s.m d v)
      ∧ r = { s with m := { s.m with ves := r.m.ves, free := s.m.free + 64 } }
    (∃ r u, exec (.shl f) s = .next r ∧ issued r u ∧ u.p = t.p
      ∧ ∀ l < 64, (guardOn t f l = true → vGet t l f.rb < 32 → vGet u l f.rd = vGet t l f.ra * 2 ^ vGet t l f.rb % 2 ^ 32)
        ∧ (guardOn t f l = false → vGet u l f.rd = vGet t l f.rd) ∧ ∀ k < 32, k ≠ f.rd → vGet u l k = vGet t l k)
    ∧ (∃ r u, exec (.shr f) s = .next r ∧ issued r u ∧ u.p = t.p
      ∧ ∀ l < 64, (guardOn t f l = true → vGet t l f.rb < 32 → vGet t l f.ra < 2 ^ 31 →
            vGet u l f.rd = vGet t l f.ra / 2 ^ vGet t l f.rb)
        ∧ (guardOn t f l = false → vGet u l f.rd = vGet t l f.rd) ∧ ∀ k < 32, k ≠ f.rd → vGet u l k = vGet t l k)
    ∧ (∃ r u, exec (.cmp f) s = .next r ∧ issued r u ∧ u.v = t.v ∧ u.vp = t.vp
      ∧ (∀ q, (t.flags.poison || (List.range 64).any (fun l => guardOn t f l && (vPoison t l f.ra || vPoison t l f.rb))) = q →
        u.flags = { t.flags with poison := q })
      ∧ ∀ l < 64, ∀ k < 8, (k ≠ f.rd % 8 ∨ k = 0 ∨ guardOn t f l = false) → pGet u l k = pGet t l k)
    ∧ (∃ r u, exec (.sel f) s = .next r ∧ issued r u ∧ u.p = t.p
      ∧ ∀ l < 64, (guardOn t f l = true → vGet u l f.rd = vGet t l f.ra % 2 ^ 32 ∨ vGet u l f.rd = vGet t l f.rb % 2 ^ 32)
        ∧ (guardOn t f l = false → vGet u l f.rd = vGet t l f.rd) ∧ ∀ k < 32, k ≠ f.rd → vGet u l k = vGet t l k)

/-- R236, R204, R232, R250: SHFL takes RA of the lane that RB names; REDUCE gives every guarded lane the pairwise reduction of the 64
lanes, and with IMM 1:0 = 3 it executes as nothing and sets ILLEGAL; CVT converts, with one draw of a lane for sr(); DRAW gives a lane
its generator's draw; GETF gives the team's flags and clears them; UBASE sets a base register from lanes 0 and 1.
The readings that it takes are those of log entry 12. -/
def Obligations.VectorTeamOperations : Prop :=
  ∀ (s : State) (f : VeF) (t : Team), f.wf = true → teamAt s.m f.die f.ve f.team = some t → t.wait = .ready → t.atomRegs = [] →
    let issued : State → Team → Prop := fun r u => teamAt r.m f.die f.ve f.team = some u ∧ u.pc = (t.pc + 8) % 2 ^ 48
      ∧ (∀ l < 64, (guardOn t f l = false → vGet u l f.rd = vGet t l f.rd) ∧ ∀ k < 32, k ≠ f.rd → vGet u l k = vGet t l k)
      ∧ u.p = t.p ∧ u.job = t.job ∧ r = { s with m := { s.m with ves := r.m.ves, jobs := r.m.jobs, free := r.m.free } }
    let illegal : State → Prop := fun r => teamAt r.m f.die f.ve f.team = some { t with pc := (t.pc + 8) % 2 ^ 48 }
      ∧ (veAt r.m f.die f.ve).illegal = true ∧ (∃ e, r.m.ctl.evq = s.m.ctl.evq ++ [(none, e)] ∧ e.etype = 0x0B31)
      ∧ r = { s with m := { s.m with ves := r.m.ves, ctl := { s.m.ctl with evq := r.m.ctl.evq } } }
    (∃ r u, exec (.shfl f) s = .next r ∧ issued r u ∧ u.u = t.u
      ∧ ∀ l < 64, guardOn t f l = true → vGet t l f.rb < 64 → vGet u l f.rd = vGet t (vGet t l f.rb) f.ra % 2 ^ 32)
    ∧ (f.imm % 4 = 3 → ∀ x ∈ [Instr.reduceIadd, Instr.reduceFadd, Instr.reduceFmax], ∃ r, exec (x f) s = .next r ∧ illegal r)
    ∧ (f.imm % 4 ≠ 3 → ∃ r u, exec (.reduceIadd f) s = .next r ∧ issued r u ∧ u.u = t.u
      ∧ ∀ l < 64, guardOn t f l = true → vGet u l f.rd = ((List.range 64).map (fun k => vGet t k f.ra)).sum % 2 ^ 32)
    ∧ (f.imm % 4 ≠ 3 → ∃ r u, exec (.reduceFadd f) s = .next r ∧ issued r u ∧ u.u = t.u
      ∧ ∀ l < 64, guardOn t f l = true →
        vGet u l f.rd = (pairTree add32 ((List.range 64).map (fun k => vGet t k f.ra))).headD 0 % 2 ^ 32)
    ∧ (f.imm % 4 ≠ 3 → ∃ r u, exec (.reduceFmax f) s = .next r ∧ issued r u ∧ u.u = t.u
      ∧ ∀ l < 64, guardOn t f l = true →
        vGet u l f.rd = (pairTree (maxMin32 true) ((List.range 64).map (fun k => vGet t k f.ra))).headD 0 % 2 ^ 32)
    ∧ (∀ a b j, fmtOf (f.imm % 16) = some a → fmtOf (f.imm / 16 % 16) = some b → b.kind ≠ 3 → jobAt s.m t.job = some j →
      ∃ r u, exec (.cvt f) s = .next r ∧ issued r u ∧ u.u = t.u ∧ r.m.free = s.m.free
        ∧ ∀ l < 64, guardOn t f l = true → vGet u l f.rd = (fcvt b
          (if bitOf f.imm 8 = true then some ((jobDraw j (threadIndex f.die f.ve f.team l)).1 % 65536) else none)
          (fdec a (vGet t l f.ra % 2 ^ fbits a))).1 % 2 ^ 32)
    ∧ (∀ j, jobAt s.m t.job = some j → ∃ r u, exec (.draw f) s = .next r ∧ issued r u ∧ u.u = t.u ∧ r.m.free = s.m.free
      ∧ ∀ l < 64, guardOn t f l = true → vGet u l f.rd = (jobDraw j (threadIndex f.die f.ve f.team l)).1 % 2 ^ 32)
    ∧ (∃ r u, exec (.getf f) s = .next r ∧ issued r u ∧ u.u = t.u ∧ ∀ l < 64, guardOn t f l = true →
      vGet u l f.rd = (if t.flags.ovf then 1 else 0) + (if t.flags.nonfinite then 2 else 0) + (if t.flags.poison then 4 else 0)
        ∧ u.flags = {})
    ∧ (guardOn t f 0 = true → ∃ r u, exec (.ubase f) s = .next r ∧ issued r u ∧ u.v = t.v
      ∧ uGet u (f.imm % 16) = vGet t 0 f.ra + 2 ^ 32 * vGet t 1 f.ra ∧ ∀ k, k ≠ f.imm % 16 → uGet u k = uGet t k)

/-- R233, R246, R250, R251, R270: BR goes to IMM × 8 from itself when a guard is true; BAR.E waits while a team of the job slot has not
arrived; EXIT ends the team and writes its generators' entries to the table, and the last one commits the atomic buffer: the word
takes the old value and the operand; FENCE goes on when no posted atomic of the team waits.
The readings that it takes are those of log entry 12. -/
def Obligations.VectorControlFlow : Prop :=
  ∀ (s : State) (f : VeF) (t : Team), f.wf = true → teamAt s.m f.die f.ve f.team = some t → t.wait = .ready → t.atomRegs = [] →
    let stored := (genStore t.job (threadIndex f.die f.ve f.team 0) 64 s.m).mem
    (∃ r u, exec (.br f) s = .next r ∧ teamAt r.m f.die f.ve f.team = some u
      ∧ u = { t with pc := ((((t.pc : Int) + (if (∃ l < 64, guardOn t f l = true) then immSigned f * 8 else 8)) % 2 ^ 48).toNat) }
      ∧ r = { s with m := { s.m with ves := r.m.ves } })
    ∧ (guardOn t f 0 = true → (∃ x ∈ (veAt s.m f.die f.ve).teams, x.1 ≠ f.team ∧ x.2.job = t.job ∧ x.2.wait = .ready) →
      (∃ r, exec (.barE f) s = .next r ∧ teamAt r.m f.die f.ve f.team = some { t with wait := .barrier }
        ∧ r = { s with m := { s.m with ves := r.m.ves } })
      ∧ (t.flags.nonfinite = false → ∃ r, exec (.exit f) s = .next r ∧ teamAt r.m f.die f.ve f.team = none
        ∧ (∀ k, k ≠ f.team → teamAt r.m f.die f.ve k = teamAt s.m f.die f.ve k)
        ∧ (∀ j b, jobAt s.m t.job = some j → s.m.mem.allocs.find? (fun a =>
            decide (a.job = some t.job) && decide (a.use = .generators) && decide (segUnit a.first = 2 * f.die)) = some b →
          (∀ l < 64, memRead r.m.mem (b.first * 0x200000 + f.ve * 32768 + f.team * 1024 + 16 * l) 16
            = genBytes (tget (0, 0) j.num.gens (threadIndex f.die f.ve f.team l)))
          ∧ ∀ c, c < b.first * 0x200000 + f.ve * 32768 + f.team * 1024 ∨ b.first * 0x200000 + f.ve * 32768 + f.team * 1024 + 1024 ≤ c →
            memByte r.m.mem c = memByte s.m.mem c)
        ∧ r = { s with m := { s.m with ves := r.m.ves, mem := stored } }))
    ∧ (guardOn t f 0 = true → (veAt s.m f.die f.ve).teams = [(f.team, t)] → ∀ a,
      (veAt s.m f.die f.ve).atoms = [a] → a.job = t.job → a.team = f.team → a.lane < 64 → a.op = 0 → a.poison = false → a.rd < 32 →
      admitAccess s.m (f.die * 256 + f.ve) t.job a.addr 4 2 = (true, s.m) →
      (memPoisoned s.m.mem a.addr 4 = false → ∃ r u, exec (.barE f) s = .next r ∧ teamAt r.m f.die f.ve f.team = some u ∧ u.wait = .ready ∧ u.pc = (t.pc + 8) % 2 ^ 48
        ∧ vGet u a.lane a.rd = memNat s.m.mem a.addr 4
        ∧ memNat r.m.mem a.addr 4 = (memNat s.m.mem a.addr 4 + a.operand) % 2 ^ 32
        ∧ (∀ b, b < a.addr ∨ a.addr + 4 ≤ b → memByte r.m.mem b = memByte s.m.mem b)
        ∧ (veAt r.m f.die f.ve).atoms = [] ∧ r = { s with m := { s.m with ves := r.m.ves, mem := r.m.mem } })
      ∧ (t.flags.nonfinite = false → ∃ r, exec (.exit f) s = .next r ∧ teamAt r.m f.die f.ve f.team = none
        ∧ memNat r.m.mem a.addr 4 = (memNat stored a.addr 4 + a.operand) % 2 ^ 32
        ∧ (∀ b, b < a.addr ∨ a.addr + 4 ≤ b → memByte r.m.mem b = memByte stored b)
        ∧ (veAt r.m f.die f.ve).atoms = [] ∧ r = { s with m := { s.m with ves := r.m.ves, mem := r.m.mem } }))
    ∧ ((∀ p ∈ s.m.posted, ∀ a ∈ p.2, ¬(a.die = f.die ∧ a.ve = f.ve ∧ a.team = f.team)) →
      ∃ r u, exec (.fence f) s = .next r ∧ teamAt r.m f.die f.ve f.team = some u ∧ u = { t with pc := (t.pc + 8) % 2 ^ 48 }
        ∧ r = { s with m := { s.m with ves := r.m.ves } })
    ∧ ((∃ p ∈ s.m.posted, ∃ a ∈ p.2, a.die = f.die ∧ a.ve = f.ve ∧ a.team = f.team) → exec (.fence f) s = .next s)

/-- R252, R257: LD gives each guarded lane the four aligned bytes at U[IMM 3:0] + RA, with the poison of their block; ST stores RB of
each guarded lane there, and the bytes that no guarded lane addresses stand.
The readings that it takes are those of log entry 12. -/
def Obligations.VectorLoadsAndStores : Prop :=
  ∀ (s : State) (f : VeF) (t : Team), f.wf = true → teamAt s.m f.die f.ve f.team = some t → t.wait = .ready → t.atomRegs = [] →
    ∀ addr : Nat → Nat, (∀ l, (uGet t (f.imm % 16) + vGet t l f.ra) % 2 ^ 64 % 2 ^ 48 / 4 * 4 = addr l) →
    (s.m.mem.damaged = [] → (∀ l < 64, guardOn t f l = true → admitAccess s.m (f.die * 256 + f.ve) t.job (addr l) 4 0 = (true, s.m)) →
      ∃ r u, exec (.ld f) s = .next r ∧ teamAt r.m f.die f.ve f.team = some u ∧ u.pc = (t.pc + 8) % 2 ^ 48
        ∧ (∀ l < 64, guardOn t f l = true → vGet u l f.rd = memNat s.m.mem (addr l) 4
            ∧ vPoison u l f.rd = (memPoisoned s.m.mem (addr l) 4 || vPoison t l f.ra))
        ∧ (∀ l < 64, guardOn t f l = false → vGet u l f.rd = vGet t l f.rd)
        ∧ (∀ l < 64, ∀ k < 32, k ≠ f.rd → vGet u l k = vGet t l k) ∧ u.p = t.p ∧ u.u = t.u
        ∧ r = { s with m := { s.m with ves := r.m.ves } })
    ∧ ((∀ l < 64, guardOn t f l = true → admitAccess s.m (f.die * 256 + f.ve) t.job (addr l) 4 1 = (true, s.m)) →
      (∀ x ∈ s.m.jobs, x.2.secure.protectedPages = []) →
      ∃ r u, exec (.st f) s = .next r ∧ teamAt r.m f.die f.ve f.team = some u
        ∧ u = { t with pc := (t.pc + 8) % 2 ^ 48, flags := u.flags }
        ∧ (∀ l < 64, guardOn t f l = true → (∀ k < 64, guardOn t f k = true → k ≠ l → addr k ≠ addr l) →
            memNat r.m.mem (addr l) 4 = vGet t l f.rb
            ∧ (vPoison t l f.rb = true → memPoisoned r.m.mem (addr l) 4 = true))
        ∧ (∀ a, (∀ l < 64, guardOn t f l = true → a < addr l ∨ addr l + 4 ≤ a) → memByte r.m.mem a = memByte s.m.mem a)
        ∧ r = { s with m := { s.m with
            ves := r.m.ves, mem := { s.m.mem with
              bytes := r.m.mem.bytes, poison := r.m.mem.poison, damaged := r.m.mem.damaged, lines := r.m.mem.lines } } })

/-- R250, R268, R269, R271, R275: an atomic whose lanes lie on banks is buffered, 64 entries of the buffer are taken, and its registers wait
for the commit; one whose lanes lie on HBM of one die is posted at that die's cache; a code of 8 or more executes as nothing and
sets ILLEGAL. The base register that ATOM adds is the model's open value (log entry 12).
R275, R277: the cache of a die applies its oldest posted atomic to the word in memory. -/
def Obligations.AtomicsAreBufferedPostedAndApplied : Prop :=
  (∀ (s : State) (f : VeF) (t : Team), f.wf = true → teamAt s.m f.die f.ve f.team = some t → t.wait = .ready → t.atomRegs = [] →
     (8 ≤ f.imm % 16 → ∀ x ∈ [Instr.atomAdd32, Instr.atomAdd64, Instr.atomSwap32, Instr.atomSwap64, Instr.atomBset, Instr.atomBclr,
         Instr.atomUmax32, Instr.atomUmin32],
       ∃ r, exec (x f) s = .next r ∧ teamAt r.m f.die f.ve f.team = some { t with pc := (t.pc + 8) % 2 ^ 48 }
         ∧ (veAt r.m f.die f.ve).illegal = true ∧ (∃ e, r.m.ctl.evq = s.m.ctl.evq ++ [(none, e)] ∧ e.etype = 0x0B31)
         ∧ r = { s with m := { s.m with ves := r.m.ves, ctl := { s.m.ctl with evq := r.m.ctl.evq } } })
     ∧ (f.imm % 16 < 8 → ∀ x ∈ [(0, Instr.atomAdd32), (1, Instr.atomAdd64), (2, Instr.atomSwap32), (3, Instr.atomSwap64), (4, Instr.atomBset),
         (5, Instr.atomBclr)],
       (∀ l < 64, onBank (atomAddr t f x.1 l) = true) → atomEntries (veAt s.m f.die f.ve) + 64 ≤ 2048 →
       ∃ r u, exec (x.2 f) s = .next r ∧ teamAt r.m f.die f.ve f.team = some u ∧ u.v = t.v ∧ u.pc = (t.pc + 8) % 2 ^ 48
         ∧ u.atomRegs = (if x.1 = 1 ∨ x.1 = 3 then [f.rd, (f.rd + 1) % 32] else [f.rd])
         ∧ (veAt r.m f.die f.ve).atoms = (veAt s.m f.die f.ve).atoms
             ++ ((List.range 64).filter (guardOn t f)).map (fun l => {
               team := f.team, lane := l, addr := atomAddr t f x.1 l, op := x.1, operand := atomOperand t f x.1 l, rd := f.rd
               job := t.job, poison := vPoison t l f.rb, no := tget 0 (veAt s.m f.die f.ve).atomUsed t.job / 64 })
         ∧ tget 0 (veAt r.m f.die f.ve).atomUsed t.job = tget 0 (veAt s.m f.die f.ve).atomUsed t.job + 64
         ∧ r = { s with m := { s.m with ves := r.m.ves } })
     ∧ (f.imm % 16 < 8 → ∀ x ∈ [(0, Instr.atomAdd32), (1, Instr.atomAdd64), (4, Instr.atomBset), (5, Instr.atomBclr), (6, Instr.atomUmax32),
         (7, Instr.atomUmin32)], ∀ d,
       (∀ l < 64, onHbm (atomAddr t f x.1 l) = true ∧ dieOfAddr (atomAddr t f x.1 l) = d) →
       ∃ r u, exec (x.2 f) s = .next r ∧ teamAt r.m f.die f.ve f.team = some u
         ∧ u = { t with pc := (t.pc + 8) % 2 ^ 48, flags := u.flags }
         ∧ tget [] r.m.posted d = tget [] s.m.posted d
             ++ ((List.range 64).filter (guardOn t f)).map (fun l => {
               addr := atomAddr t f x.1 l, op := x.1, operand := atomOperand t f x.1 l, die := f.die, ve := f.ve, team := f.team
               job := t.job, poison := vPoison t l f.rb })
         ∧ (veAt r.m f.die f.ve).atoms = (veAt s.m f.die f.ve).atoms
         ∧ r = { s with m := { s.m with ves := r.m.ves, posted := r.m.posted } }))
  ∧ (∀ (s : State) (die n w : Nat) (a : Posted), (Instr.postedAtomicApply die).wf = true → tget [] s.m.posted die = [a] →
      a.op ∈ [0, 1, 4, 5, 6, 7] → (if a.op = 1 then 8 else 4) = n → a.operand < 2 ^ (8 * n) → a.poison = false →
      admitAccess s.m (a.die * 256 + a.ve) a.job a.addr n 2 = (true, s.m) → (∀ x ∈ s.m.jobs, x.2.secure.protectedPages = []) →
      s.m.mem.damaged = [] → memNat s.m.mem a.addr n = w →
      ∃ r, exec (.postedAtomicApply die) s = .next r
        ∧ memNat r.m.mem a.addr n = (if a.op ≤ 1 then (w + a.operand) % 2 ^ (8 * n) else if a.op = 4 then w ||| a.operand
            else if a.op = 5 then w &&& (a.operand ^^^ 0xFFFFFFFF) else if a.op = 6 then max w a.operand else min w a.operand)
        ∧ (∀ b, b < a.addr ∨ a.addr + n ≤ b → memByte r.m.mem b = memByte s.m.mem b)
        ∧ tget [] r.m.posted die = []
        ∧ r = { s with m := { s.m with
            posted := r.m.posted, mem := { s.m.mem with
              bytes := r.m.mem.bytes, poison := r.m.mem.poison, damaged := r.m.mem.damaged, lines := r.m.mem.lines } } })

/-- R254 to R256, R267, R162: MX.ISSUE puts a descriptor that passes every check into the array's queue and gives its code to every lane;
DMA.COPY queues a copy, which its engine makes in order and counts; MX.WAIT and DMA.WAIT go on once the count is reached.
The readings that it takes are those of log entry 12. -/
def Obligations.QueuedWork : Prop :=
  (∀ (s : State) (f : VeF) (t : Team) (d : Desc), f.wf = true → teamAt s.m f.die f.ve f.team = some t → t.wait = .ready →
    t.atomRegs = [] → descOf (laneWords t f.ra) = d →
    (∀ n, guardOn t f 0 = true → f.imm % 64 = n → n < 48 → (arrayAt s.m f.die n).queue.length < 16 →
      descCheck f.die n (arrayAt s.m f.die n) d = 0 →
      ∃ r u, exec (.mxIssue f) s = .next r ∧ teamAt r.m f.die f.ve f.team = some u ∧ u.pc = (t.pc + 8) % 2 ^ 48
        ∧ (∀ l < 64, vGet u l f.rd = 0 ∧ ∀ k < 32, k ≠ f.rd → vGet u l k = vGet t l k)
        ∧ arrayAt r.m f.die n = releaseAll { arrayAt s.m f.die n with
            queue := (arrayAt s.m f.die n).queue ++ [d], job := some t.job }
        ∧ r = { s with m := { s.m with ves := r.m.ves, arrays := r.m.arrays } })
    ∧ (∀ n l, f.imm % 64 = n → n < 48 → tget [] (arrayAt s.m f.die n).done (f.imm / 64 % 16) = l → vGet t 0 f.ra ≤ l.length →
      ∃ r u, exec (.mxWait f) s = .next r ∧ teamAt r.m f.die f.ve f.team = some u ∧ u.pc = (t.pc + 8) % 2 ^ 48
        ∧ (∀ k < 64, guardOn t f k = true → vGet u k f.rd = flagWord (orAll (l.take (vGet t 0 f.ra))))
        ∧ r = { s with m := { s.m with ves := r.m.ves } })
    ∧ (∀ w, laneWords t f.ra = w → guardOn t f 0 = true → dmaOk w = true →
      ∃ r u, exec (.dmaCopy f) s = .next r ∧ teamAt r.m f.die f.ve f.team = some u ∧ u = { t with pc := (t.pc + 8) % 2 ^ 48 }
        ∧ dmaAt r.m f.die (f.imm % 4) = { dmaAt s.m f.die (f.imm % 4) with
            job := some t.job
            queue := (dmaAt s.m f.die (f.imm % 4)).queue ++ [{
              src := nth 0 w 0 + 2 ^ 32 * nth 0 w 1, dst := nth 0 w 2 + 2 ^ 32 * nth 0 w 3, bytes := nth 0 w 4, ve := f.ve
              team := f.team, job := t.job }] }
        ∧ r = { s with m := { s.m with ves := r.m.ves, dmas := r.m.dmas } })
    ∧ (vGet t 0 f.ra ≤ (dmaAt s.m f.die (f.imm % 4)).done.length →
      ∃ r u, exec (.dmaWait f) s = .next r ∧ teamAt r.m f.die f.ve f.team = some u ∧ u.pc = (t.pc + 8) % 2 ^ 48
        ∧ (∀ k < 64, guardOn t f k = true →
          vGet u k f.rd = if ((dmaAt s.m f.die (f.imm % 4)).done.take (vGet t 0 f.ra)).any id = true then 4 else 0)
        ∧ r = { s with m := { s.m with ves := r.m.ves } }))
  ∧ (∀ (s : State) (die e : Nat) (c : DmaOp) (l : List DmaOp), (Instr.dmaCopyDone die e).wf = true → (dmaAt s.m die e).queue = c :: l →
    0 < c.bytes → c.bytes % 64 = 0 → c.src % 64 = 0 → c.dst % 64 = 0 → c.src % 0x100000 + c.bytes ≤ 0x100000 →
    c.dst % 0x100000 + c.bytes ≤ 0x100000 → admitAccess s.m (die * 256 + 0xC2 + e) c.job c.src c.bytes 0 = (true, s.m) →
    admitAccess s.m (die * 256 + 0xC2 + e) c.job c.dst c.bytes 1 = (true, s.m) →
    (∀ x ∈ s.m.jobs, x.2.secure.protectedPages = []) → s.m.mem.damaged = [] →
    ∃ r, exec (.dmaCopyDone die e) s = .next r
      ∧ (∀ i < c.bytes, memByte r.m.mem (c.dst + i) = memByte s.m.mem (c.src + i))
      ∧ (∀ a, a < c.dst ∨ c.dst + c.bytes ≤ a → memByte r.m.mem a = memByte s.m.mem a)
      ∧ dmaAt r.m die e = { dmaAt s.m die e with queue := l, done := (dmaAt s.m die e).done ++ [memPoisoned s.m.mem c.src c.bytes] }
      ∧ r = { s with m := { s.m with
          dmas := r.m.dmas, mem := { s.m.mem with
            bytes := r.m.mem.bytes, poison := r.m.mem.poison, damaged := r.m.mem.damaged, lines := r.m.mem.lines } } })

/-- R262, R263, R281, R266: SPB.GIVE of a bank that the engine owns makes the team wait; once the old owner has finished the new one owns
the bank and the team goes on; SPB.WAIT goes on when the engine owns the bank; the wellhead's write of SPB_OWNER hands a bank
over, and a change of job slot clears the bank.
The readings that it takes are those of log entry 12. -/
def Obligations.BanksChangeHands : Prop :=
  (∀ (s : State) (f : VeF) (t : Team) (bank u : Nat), f.wf = true → teamAt s.m f.die f.ve f.team = some t → t.wait = .ready →
    t.atomRegs = [] → guardOn t f 0 = true → f.imm % 256 = bank → f.imm / 256 % 256 = u → bank < 160 →
    ownsBank s.m (f.die * 256 + f.ve) t.job f.die bank = true →
    (givable u = true → (bankAt s.m f.die bank).pending = none → (veAt s.m f.die f.ve).atoms = [] →
      ∃ r, exec (.spbGive f) s = .next r ∧ teamAt r.m f.die f.ve f.team = some { t with wait := .handover bank }
        ∧ bankAt r.m f.die bank = { bankAt s.m f.die bank with pending := some (u, f.ve, f.team) }
        ∧ r = { s with m := { s.m with ves := r.m.ves, banks := r.m.banks } })
    ∧ (∃ r, exec (.spbWait f) s = .next r ∧ teamAt r.m f.die f.ve f.team = some { t with pc := (t.pc + 8) % 2 ^ 48 }
        ∧ r = { s with m := { s.m with ves := r.m.ves } }))
  ∧ (∀ (s : State) (die bank u ve team : Nat) (t : Team), (Instr.spbHandoverEffect die bank).wf = true →
    (bankAt s.m die bank).pending = some (u, ve, team) → (bankAt s.m die bank).written = none → ownerFinished s.m die bank = true →
    teamAt s.m die ve team = some t → t.wait = .handover bank →
    ∃ r, exec (.spbHandoverEffect die bank) s = .next r
      ∧ bankAt r.m die bank = { bankAt s.m die bank with
          owner := u, giver := ve, giverValid := true, pending := none, fresh := decide (u = 0xC0 ∨ u = 0xC8 ∨ u = 0xC9) }
      ∧ teamAt r.m die ve team = some { t with wait := .ready, pc := (t.pc + 8) % 2 ^ 48 }
      ∧ r = { s with m := { s.m with ves := r.m.ves, banks := r.m.banks } })
  ∧ (∀ (s : State) (die bank value : Nat) (b : Bank), bankAt s.m die bank = b →
    ((Instr.spbOwnerWrite die bank value).wf = true → ∃ r, exec (.spbOwnerWrite die bank value) s = .next r
      ∧ bankAt r.m die bank = { b with written := some value }
      ∧ (∀ e x, e * 160 + x ≠ die * 160 + bank → bankAt r.m e x = bankAt s.m e x)
      ∧ r = { s with m := { s.m with banks := r.m.banks } })
    ∧ ((Instr.spbHandoverEffect die bank).wf = true → ownerFinished s.m die bank = false →
      exec (.spbHandoverEffect die bank) s = .next s)
    ∧ ((Instr.spbHandoverEffect die bank).wf = true → ownerFinished s.m die bank = true → b.written = some value → b.pending = none →
      ∃ r, exec (.spbHandoverEffect die bank) s = .next r
      ∧ bankAt r.m die bank = { b with
          owner := value % 256, jobSlot := value / 256 % 16, jobValid := value.testBit 12, written := none
          fresh := decide (value % 256 = 0xC0 ∨ value % 256 = 0xC8 ∨ value % 256 = 0xC9) }
      ∧ (b.jobSlot = value / 256 % 16 → b.jobValid = value.testBit 12 → r.m.mem = s.m.mem)
      ∧ (b.jobSlot ≠ value / 256 % 16 ∨ b.jobValid ≠ value.testBit 12 → ∀ i < 0x100000, memByte r.m.mem (bankAddr die bank + i) = 0)
      ∧ (∀ a, a < bankAddr die bank ∨ bankAddr die bank + 0x100000 ≤ a → memByte r.m.mem a = memByte s.m.mem a)
      ∧ r = { s with m := { s.m with
          banks := r.m.banks, mem := { s.m.mem with
            bytes := r.m.mem.bytes, poison := r.m.mem.poison, damaged := r.m.mem.damaged, lines := r.m.mem.lines } } }))

/-- R163 to R167, R172: a matrix instruction of one row outside a gang reads its row and writes the row of results of its filled weights;
no other byte of memory changes, and the instruction waits for the acknowledgement of its writes.
R180, R183: the members of a gang whose instructions differ end without a row, each with GANG_MISMATCH; a braked array streams nothing.
R163, R164: the sum of a column: by fused multiply-adds, acc is rounded to FP32 after each product; by groups of 32, each group's exact
sum is scaled and rounded, and acc is rounded after each group.
The readings that it takes are those of log entry 13. -/
def Obligations.MatrixRowsAndColumnSums : Prop :=
  (∀ (s : State) (die n unit slot i : Nat) (a : MArray) (x : Rel) (row : List Byte) (o : List Byte × Flags3),
     (Instr.matmul die n unit).wf = true → arrayAt s.m die n = a →
     s.m.power.brake = false → headFill a unit = some (i, x) → dOp x.d = 1 → dGang x.d = false → dAcc x.d = false →
     dK x.d = 1 → mayStream a (i, x) = true → x.poison = false → a.job = some slot → s.m.mem.damaged = [] →
     bankPieces (wAddr x.d.w1) (streamRow x.d) = [(wAddr x.d.w1, streamRow x.d)] →
     admitAccess s.m (die * 256 + 0x80 + n) slot (wAddr x.d.w1) (streamRow x.d) 0 = (true, s.m) →
     memRead s.m.mem (wAddr x.d.w1) (streamRow x.d) = row → memPoisoned s.m.mem (wAddr x.d.w1) (streamRow x.d) = false →
     outRow x.d ((List.range (unitCols a (dShape x.d) x.unit).length).map
       (fun c => weightCol x.d (unitCols a (dShape x.d) x.unit).length c x.weights)) row [] = o →
     isExtMem (wAddr x.d.w3) = false → bankPieces (wAddr x.d.w3) o.1.length = [(wAddr x.d.w3, o.1.length)] →
     admitAccess s.m (die * 256 + 0x80 + n) slot (wAddr x.d.w3) o.1.length 1 = (true, s.m) →
     ∃ r, exec (.matmul die n unit) s = .next r
       ∧ (∀ i (h : i < o.1.length), memByte r.m.mem (wAddr x.d.w3 + i) = o.1[i])
       ∧ (∀ a, a < wAddr x.d.w3 ∨ wAddr x.d.w3 + o.1.length ≤ a → memByte r.m.mem a = memByte s.m.mem a)
       ∧ arrayAt r.m die n = streamed i x { o.2 with poison := false } a
       ∧ (arrayAt r.m die n).held[i]? = some { x with stage := .streamed, flags := { o.2 with poison := false } }
       ∧ (∀ d k, d * 48 + k ≠ die * 48 + n → arrayAt r.m d k = arrayAt s.m d k)
       ∧ r = { s with m := { s.m with
           arrays := r.m.arrays, mem := { s.m.mem with
             bytes := r.m.mem.bytes, poison := r.m.mem.poison, damaged := r.m.mem.damaged, lines := r.m.mem.lines } } })
  ∧ (∀ (s : State) (die n unit : Nat) (p q : Nat × Nat × Rel) (l : List (Nat × Nat × Rel)), (Instr.matmul die n unit).wf = true →
     (s.m.power.brake = true → exec (.matmul die n unit) s = .next s)
     ∧ (s.m.power.brake = false → streamers s.m die n unit = p :: l → q ∈ l → gangKey q.2.2.d ≠ gangKey p.2.2.d →
       ∃ r, exec (.matmul die n unit) s = .next r
         ∧ (∀ y ∈ p :: l, (arrayAt r.m die y.1).gangMismatch = true)
         ∧ r.m.ctl.evq.length = s.m.ctl.evq.length + (p :: l).length
         ∧ r = { s with m := { s.m with arrays := r.m.arrays, ctl := { s.m.ctl with evq := r.m.ctl.evq } } }))
  ∧ ((∀ (a w : List FVal) (x y : FVal) (k : List (Option Int)), a.length = w.length →
      (sumCols true (a ++ [x]) (w ++ [y]) k).1 = rne32 (fvAdd (dec32 (sumCols true a w k).1) (fvMul x y)))
    ∧ (∀ (a w x y : List FVal) (k : List (Option Int)) (e : Int), a.length = w.length → a.length % 32 = 0 → x.length = 32 → y.length = 32 →
      nth (some 0) k (a.length / 32) = some e →
      (sumCols false (a ++ x) (w ++ y) k).1 = rne32 (fvAdd (dec32 (sumCols false a w k).1)
        (dec32 (rne32 (fvScale ((List.zipWith fvMul x y).foldl fvAdd (.fin false 0 0)) e))))))

/-- R169, R172, R176, R178, R182, R184: the oldest queued descriptor leaves the queue when its sub-unit has a free weight buffer, one of
another shape to wait; an array idle but for that one takes its shape; a buffer fills with the rows of its weights; a DITHER
instruction streams without memory; the oldest instruction of a sub-unit completes and is counted once its rows are in; an array
with no row to admit ramps down. R227: a NaN or an infinity of a backward item sets the flag of the learning step.
The readings that it takes are those of log entry 13. -/
def Obligations.ArrayInstructionsGoOn : Prop :=
  (∀ (a : MArray) (d : Desc) (l : List Desc), a.queue = d :: l → (∀ x ∈ a.held, x.stage ≠ .shape) →
    (dShape d ≠ a.shape → releaseOne a = { a with queue := l, held := a.held ++ [{ unit := dUnit d, d := d, stage := .shape }] })
    ∧ (dShape d = a.shape → buffersUsed a (dUnit d) < 2 → releaseOne a = { a with
        queue := l, held := a.held ++ [{ unit := dUnit d, d := d, stage := if dOp d = 2 then .filled else .filling }] })
    ∧ (dShape d = a.shape → 2 ≤ buffersUsed a (dUnit d) → releaseOne a = a))
  ∧ (∀ (s : State) (die n : Nat) (a : MArray), arrayAt s.m die n = a → die < 8 → n < 48 →
    let only : State → Prop := fun r => (∀ d k, d * 48 + k ≠ die * 48 + n → arrayAt r.m d k = arrayAt s.m d k)
      ∧ r = { s with m := { s.m with arrays := r.m.arrays } }
    (∀ x, a.held = [x] → x.stage = .shape → ∃ r, exec (.arrayShapeChange die n) s = .next r ∧ only r
      ∧ arrayAt r.m die n = releaseAll { a with
          shape := dShape x.d, held := [{ x with stage := if dOp x.d = 2 then .filled else .filling }] })
    ∧ (∀ i x slot w, (List.range a.held.length).find? (mayFill a) = some i → a.held[i]? = some x → a.job = some slot →
        (unitCols a (dShape x.d) x.unit).length = w → s.m.mem.damaged = [] → ∀ len : Nat → Nat,
        (∀ j, (if j < depthOf x.d then packedBytes (dWfmt x.d) w else w) = len j) →
        (∀ j < weightRows x.d, bankPieces (wAddr x.d.w2 + j * wPitch x.d.w2) (len j) = [(wAddr x.d.w2 + j * wPitch x.d.w2, len j)]
          ∧ admitAccess s.m (die * 256 + 0x80 + n) slot (wAddr x.d.w2 + j * wPitch x.d.w2) (len j) 0 = (true, s.m)
          ∧ memPoisoned s.m.mem (wAddr x.d.w2 + j * wPitch x.d.w2) (len j) = false) →
        ∃ r, exec (.arrayFillDone die n) s = .next r ∧ only r
          ∧ arrayAt r.m die n = { a with held := a.held.set i { x with
              stage := .filled, poison := false
              weights := (List.range (weightRows x.d)).flatMap (fun j =>
                padTo (weightRow x.d w) (memRead s.m.mem (wAddr x.d.w2 + j * wPitch x.d.w2) (len j))) } })
    ∧ (∀ i x, s.m.power.brake = false → headDither a = some (i, x) →
      ∃ r, exec (.dither die n) s = .next r ∧ only r ∧ arrayAt r.m die n = streamed i x {} a
        ∧ (arrayAt r.m die n).held[i]? = some { x with stage := .streamed, flags := {} })
    ∧ (∀ unit i x, unit < 16 → a.held.findIdx? (fun x => decide (x.unit = unit)) = some i → a.held[i]? = some x →
      (x.stage ≠ .streamed → exec (.arrayInstrDone die n unit) s = .next s)
      ∧ (x.stage = .streamed → ∃ r, exec (.arrayInstrDone die n unit) s = .next r
        ∧ tget [] (arrayAt r.m die n).done unit = tget [] a.done unit ++ [x.flags]
        ∧ (∀ u, u ≠ unit → tget [] (arrayAt r.m die n).done u = tget [] a.done u)
        ∧ arrayAt r.m die n = { a with
            held := a.held.eraseIdx i, done := (arrayAt r.m die n).done, lastTag := dTag x.d
            sticky := { ovf := a.sticky.ovf || x.flags.ovf, nonfinite := a.sticky.nonfinite || x.flags.nonfinite
                        poison := a.sticky.poison || x.flags.poison } }
        ∧ (∀ d k, d * 48 + k ≠ die * 48 + n → arrayAt r.m d k = arrayAt s.m d k)
        ∧ (x.flags.nonfinite = false → r.m.jobs = s.m.jobs)
        ∧ (∀ slot j, a.job = some slot → jobAt s.m slot = some j → x.flags.nonfinite = true → 2 ≤ (tget {} j.learn.stages die).kind →
            jobAt r.m slot = some { j with learn := { j.learn with flagNonfinite := true } })
        ∧ r = { s with m := { s.m with arrays := r.m.arrays, jobs := r.m.jobs } }))
    ∧ (a.ramped = true → s.m.power.brake = false → rowsWait s.m die n = false → ∃ r, exec (.arrayRampDown die n) s = .next r ∧ only r
      ∧ arrayAt r.m die n = { a with ramped := false, active := (a.active + 32) % 2 ^ 64 }))

/-- R188, R189: a column that fails its parity poisons the blocks of the running instruction that carry it from the failing row on, in
the banks that the array writes, is counted and reported, and at the second failure in one stroke waits to be bypassed; R184: of a
DITHER only the count remains.
R187: the end of an array self-test: the failing columns of the dies tested become pending, and ARRAY_SELFTEST waits no
longer.
The readings that it takes are those of log entry 13. -/
def Obligations.ColumnParityAndSelfTest : Prop :=
  (∀ (s : State) (die n unit col row i j : Nat) (a : MArray) (x : Rel) (d : Desc),
     wfColumnParityFail die n unit col row = true → arrayAt s.m die n = a →
     a.held.findIdx? (fun x => decide (x.unit = unit) && decide (x.stage = .streamed) && !x.void) = some i → a.held[i]? = some x →
     x.d = d → (unitCols a (dShape d) unit).idxOf? col = some j →
     ∃ r, exec (.columnParityFail die n unit col row) s = .next r
       ∧ (arrayAt r.m die n).parity = true
       ∧ (arrayAt r.m die n).parityCount = min (a.parityCount + 1) 65535 ∧ (arrayAt r.m die n).lastCol = col
       ∧ (dOp d = 1 → (arrayAt r.m die n).sticky = { a.sticky with poison := true }
         ∧ (arrayAt r.m die n).held = a.held.set i { x with flags := { x.flags with poison := true } }
         ∧ ∀ k, row ≤ k → k < dK d →
           barred s.m (die * 256 + 0x80 + n) (a.job.getD 16) (wAddr d.w3 + k * wPitch d.w3 + j * outBytes d) (outBytes d) 1 = false →
           memPoisoned r.m.mem (wAddr d.w3 + k * wPitch d.w3 + j * outBytes d) (outBytes d) = true)
       ∧ (dOp d ≠ 1 → (arrayAt r.m die n).sticky = a.sticky ∧ (arrayAt r.m die n).held = a.held ∧ r.m.mem = s.m.mem)
       ∧ r.m.mem.bytes = s.m.mem.bytes
       ∧ (col ∉ a.failedCols → r.m.sys.colRecord = s.m.sys.colRecord ∧ (arrayAt r.m die n).pend = a.pend)
       ∧ (col ∈ a.failedCols → col ∉ tget [] s.m.sys.colRecord (die * 48 + n) → col ∉ a.bad →
           col ∈ tget [] r.m.sys.colRecord (die * 48 + n) ∧ (arrayAt r.m die n).pend = a.pend.or (some col))
       ∧ r = { s with m := { s.m with
           arrays := r.m.arrays, ctl := { s.m.ctl with evq := r.m.ctl.evq }, mem := { s.m.mem with poison := r.m.mem.poison }
           sys := { s.m.sys with riskWin := r.m.sys.riskWin, colRecord := r.m.sys.colRecord } } })
  ∧ (∀ (s : State) (die mb : Nat) (fails : List Nat), wfSelftestDone fails = true → s.m.sys.selftest = some (die, mb) →
      ∃ r, exec (.selftestDone fails) s = .next r ∧ r.m.sys.selftest = none
        ∧ (∀ c ∈ fails, c < 384 * 256 → (die = 0xFF ∨ c / 256 / 48 = die) → c % 256 ∉ (arrayAt s.m (c / 256 / 48) (c / 256 % 48)).bad →
            c % 256 ∈ tget [] r.m.sys.colRecord (c / 256))
        ∧ (∀ w ∈ r.m.ctl.waits, w.why ≠ .selftest)
        ∧ r.m.mem = s.m.mem ∧ r.m.jobs = s.m.jobs ∧ r.nv = s.nv)

/-- R331, R323, R338, R347: a command bank that the attention engine receives waits behind its banks; a forward descriptor of one row
whose checks pass writes the row of the attended pages and RESULT 0; an append of one position that begins a page takes a new
page in HBM, and the list grows by one. Memory changes in the result, the header, the page and the pool's tables alone.
The readings that it takes are those of log entry 15. -/
def Obligations.AttentionDescriptors : Prop :=
  (∀ (s : State) (die bank : Nat) (b : Bank), (Instr.attBankHandover die bank).wf = true → bankAt s.m die bank = b → b.owner = 0xC8 →
    b.jobValid = true → (∀ x ∈ (attAt s.m die).banks, x.bank ≠ bank) → memNat s.m.mem (bankAddr die bank) 2 = 0xA7E0 →
    1 ≤ memNat s.m.mem (bankAddr die bank + 2) 2 → memNat s.m.mem (bankAddr die bank + 2) 2 ≤ 16383 →
    ∃ r, exec (.attBankHandover die bank) s = .next r
      ∧ attAt r.m die = { attAt s.m die with banks := (attAt s.m die).banks ++ [{
          bank := bank, job := b.jobSlot, next := 0, count := memNat s.m.mem (bankAddr die bank + 2) 2 }] }
      ∧ bankAt r.m die bank = { b with fresh := false }
      ∧ (∀ e x, e * 160 + x ≠ die * 160 + bank → bankAt r.m e x = bankAt s.m e x)
      ∧ r = { s with m := { s.m with atts := r.m.atts, banks := r.m.banks } })
  ∧ (∀ (s : State) (die a L : Nat) (b : CmdBank) (d : List Byte) (p : KvPool), die < 8 → attNext s.m die = some (b, a, d) →
    (attAt s.m die).moves = [] → b.next < 16383 → underHost s.m (bankAddr die b.bank) 0x100000 = false → s.m.mem.damaged = [] →
    recField d 4 2 ∉ b.skip → descReserved d = false → poolAt s.m die b.job = some p →
    listIndex p (recField d 4 2) (recField d 6 1) (recField d 7 1) = L → (∀ x ∈ s.m.jobs, x.2.secure.protectedPages = []) →
    (∀ o, recField d 0 1 = 1 → fwdFields p d = true → fwdAddrs s.m die b.job d = true → recField d 3 1 = 1 →
      placeOf (rowPlace d 0).1 ≠ .spad die b.bank →
      rowOut d (fwdRow s.m p d ((fwdPages p d L).filter (fun x => decide (0 < x.2.2.ref))) 0) = o →
      underHost s.m (rowPlace d 0).1 o.length = false →
      ∃ r, exec (.attFwd die) s = .next r ∧ memByte r.m.mem (a + 60) = 0
        ∧ (∀ i (h : i < o.length), memByte r.m.mem ((rowPlace d 0).1 + i) = o[i])
        ∧ (∀ x, (x < (rowPlace d 0).1 ∨ (rowPlace d 0).1 + o.length ≤ x) → (x < a + 60 ∨ a + 62 ≤ x) →
            (x < bankAddr die b.bank + 8 ∨ bankAddr die b.bank + 16 ≤ x) → memByte r.m.mem x = memByte s.m.mem x)
        ∧ (attAt r.m die).banks = (if b.next + 1 < b.count then [{ b with next := b.next + 1, done := b.done + 1 }] else [])
            ++ (attAt s.m die).banks.drop 1
        ∧ r = { s with m := { s.m with atts := r.m.atts, mem := r.m.mem, pools := r.m.pools } })
    ∧ (∀ n f src, recField d 0 1 = 2 → appendFields p d = true → recField d 3 1 = 1 → recField d 32 8 = src → src < 2 ^ 48 →
      inOwnBank s.m die b.job src 512 = true → listLen p L = recField d 8 4 → recField d 8 4 % 64 = 0 → newPage p = some (n, f) →
      (∀ i < 256, codeNonfinite bf16 (memNat s.m.mem (src + 2 * i) 2) = false) → memPoisoned s.m.mem src 512 = false →
      (∀ y ∈ p.pages, y.1 < p.desc.pages) →
      ∃ r q, exec (.attAppend die) s = .next r ∧ poolAt r.m die b.job = some q ∧ memByte r.m.mem (a + 60) = 0
        ∧ mapPage q L (recField d 8 4 / 64) = some n ∧ tfind q.pages n = some { frame := f, ref := 1, fill := 1 }
        ∧ listLen q L = recField d 8 4 + 1
        ∧ (∀ x, (x < frameAddr p false f ∨ frameAddr p false f + kvFrame p ≤ x) → (x < a + 60 ∨ a + 62 ≤ x) →
            (x < bankAddr die b.bank + 8 ∨ bankAddr die b.bank + 16 ≤ x) →
            (x < p.tableBase ∨ p.tableBase + p.desc.pages * 16 + p.desc.seqs * p.desc.layers * 2 * (p.desc.maxPages * 4 + 4) ≤ x) →
            memByte r.m.mem x = memByte s.m.mem x)
        ∧ r = { s with m := { s.m with
            atts := r.m.atts, mem := r.m.mem, pools := r.m.pools, seqs := r.m.seqs, ctl := { s.m.ctl with evq := r.m.ctl.evq } } }))

/-- R340, R344, R345, R349, R354, R355: the page operations on one list: SHARE copies the entries of the other list and raises their REF;
RELEASE, TRUNCATE and DROP take entries out; each ends with RESULT 0. PROMOTE and DEMOTE start the move of a page to the lowest
free frame of the other tier, and the next descriptor waits for it (R335).
R352, R355: a shared page at the end of a list is copied into the lowest free frame for the list's own use, and its REF falls; a
move that completes rewrites FRAME, with the data and the marks in the new frame, and the last move of a descriptor ends it. The
tables of the pool in memory follow.
The readings that it takes are those of log entry 15. -/
def Obligations.PageOperationsAndCopies : Prop :=
  (∀ (s : State) (die a L : Nat) (b : CmdBank) (d : List Byte) (p : KvPool), die < 8 → attNext s.m die = some (b, a, d) →
     (attAt s.m die).moves = [] → b.next < 16383 → underHost s.m (bankAddr die b.bank) 0x100000 = false →
     recField d 0 1 = 3 → recField d 4 2 ∉ b.skip → descReserved d = false → recField d 2 1 = 0 → recField d 3 1 = 0 →
     descLists p d true = true → namedLists p d (recField d 4 2) = [L] → poolAt s.m die b.job = some p →
     (∀ y ∈ p.pages, y.1 < p.desc.pages) →
     let tables : Nat → Prop := fun x =>
       x < p.tableBase ∨ p.tableBase + p.desc.pages * 16 + p.desc.seqs * p.desc.layers * 2 * (p.desc.maxPages * 4 + 4) ≤ x
     let lists : State → KvPool → Prop := fun r q => poolAt r.m die b.job = some q ∧ q.desc = p.desc
       ∧ (∀ k i, k ≠ L → mapPage q k i = mapPage p k i) ∧ (∀ k, k ≠ L → listLen q k = listLen p k)
       ∧ r = { s with m := { s.m with
           atts := r.m.atts, mem := r.m.mem, pools := r.m.pools, ctl := { s.m.ctl with evq := r.m.ctl.evq } } }
     let ends : State → KvPool → Prop := fun r q => lists r q ∧ memByte r.m.mem (a + 60) = 0
       ∧ (∀ x, (x < a + 60 ∨ a + 62 ≤ x) → (x < bankAddr die b.bank + 8 ∨ bankAddr die b.bank + 16 ≤ x) → tables x →
           memByte r.m.mem x = memByte s.m.mem x)
     let moves : Nat → State → KvPool → Prop := fun pg r q => lists r q ∧ (∀ i, mapPage q L i = mapPage p L i)
       ∧ (∀ x, tables x → memByte r.m.mem x = memByte s.m.mem x)
       ∧ (attAt r.m die).moves = [pg] ∧ (attAt r.m die).banks = (attAt s.m die).banks
     (∀ n M, recField d 1 1 = 1 → recField d 16 2 < p.desc.seqs → otherList p d L = M → recField d 8 4 = n → n ≤ listLen p M →
       listLen p L = 0 → (∀ i, mapPage p L i = none) → (∀ i, i * 64 < n → (mapPage p M i).isSome = true) →
       ∃ r q, exec (.pageShare die) s = .next r ∧ ends r q ∧ listLen q L = n ∧ (∀ i, i * 64 < n → mapPage q L i = mapPage p M i)
         ∧ ∀ pg x, tfind p.pages pg = some x → (tfind q.pages pg).map (·.ref) =
             some (x.ref + ((List.range ((n + 63) / 64)).filter (fun i => decide (mapPage p M i = some pg))).length))
     ∧ (∀ n, recField d 1 1 = 2 → recField d 8 4 = n → n ≤ listLen p L →
       ∃ r q, exec (.pageTruncate die) s = .next r ∧ ends r q ∧ listLen q L = n
         ∧ (∀ i, n ≤ i * 64 → mapPage q L i = none) ∧ ∀ i, i * 64 < n → mapPage q L i = mapPage p L i)
     ∧ (recField d 1 1 = 3 → ∃ r q, exec (.pageRelease die) s = .next r ∧ ends r q ∧ listLen q L = 0 ∧ ∀ i, mapPage q L i = none)
     ∧ (∀ n k, recField d 1 1 = 4 → recField d 8 4 = n → recField d 12 4 = k →
       ∃ r q, exec (.pageDrop die) s = .next r ∧ ends r q ∧ listLen q L = listLen p L
         ∧ ∀ i, mapPage q L i = if n ≤ i * 64 ∧ i * 64 + 64 ≤ n + k then none else mapPage p L i)
     ∧ (∀ pg x f, recField d 1 1 = 5 → pagesIn p d true L = [pg] → tfind p.pages pg = some x → 1 ≤ freeFrames p false →
       lowestFree (usedFrames p false) p.desc.hbmFrames = some f →
       ∃ r q, exec (.pagePromote die) s = .next r ∧ moves pg r q
         ∧ tfind q.pages pg = some { x with st := .moving, moveTo := some (false, f) })
     ∧ (∀ pg x f, recField d 1 1 = 6 → pagesIn p d false L = [pg] → tfind p.pages pg = some x → 1 ≤ freeFrames p true →
       lowestFree (usedFrames p true) p.desc.cisFrames = some f →
       ∃ r q, exec (.pageDemote die) s = .next r ∧ moves pg r q
         ∧ tfind q.pages pg = some { x with st := .moving, moveTo := some (true, f) }))
  ∧ (∀ (s : State) (die slot pg : Nat) (p : KvPool) (x : Page), die < 8 → slot < 16 → poolAt s.m die slot = some p →
      tfind p.pages pg = some x → (∀ y ∈ s.m.jobs, y.2.secure.protectedPages = []) → s.m.mem.damaged = [] →
      (∀ y ∈ p.pages, y.1 < p.desc.pages) →
      ∀ last, p.tableBase + p.desc.pages * 16 + p.desc.seqs * p.desc.layers * 2 * (p.desc.maxPages * 4 + 4) = last →
      let copied : State → Nat → Prop := fun r at' =>
        (∀ i < kvFrame p, memByte r.m.mem (at' + i) = memByte s.m.mem (frameAddr p x.cistern x.frame + i))
        ∧ (∀ i, i < at' ∨ at' + kvFrame p ≤ i → i < p.tableBase ∨ last ≤ i → memByte r.m.mem i = memByte s.m.mem i)
        ∧ r = { s with m := { s.m with
            pools := r.m.pools, ctl := { s.m.ctl with evq := r.m.ctl.evq }
            mem := { s.m.mem with
              bytes := r.m.mem.bytes, poison := r.m.mem.poison, damaged := r.m.mem.damaged, lines := r.m.mem.lines } } }
      (∀ seq layer kvh L len n f, seq < 65536 → layer < 256 → kvh < 2 → listIndex p seq layer kvh = L → listLen p L = len →
        mapPage p L (len / 64) = some pg → seq < p.desc.seqs → layer < p.desc.layers → 1 < x.ref → x.st = .inUse → len % 64 ≠ 0 →
        newPage p = some (n, f) → len / 64 < 65536 → underHost s.m (frameAddr p false f) (kvFrame p) = false →
        (frameAddr p false f + kvFrame p ≤ p.tableBase ∨ last ≤ frameAddr p false f) →
        ∃ r q, exec (.pageCopyOnWrite die slot seq layer kvh (len / 64)) s = .next r ∧ poolAt r.m die slot = some q
          ∧ mapPage q L (len / 64) = some n ∧ tfind q.pages n = some { frame := f, ref := 1, fill := len % 64 }
          ∧ tfind q.pages pg = some { x with ref := x.ref - 1 } ∧ q.copies = p.copies + 1 ∧ copied r (frameAddr p false f))
      ∧ (∀ c f, (Instr.pageMoveDone die slot pg).wf = true → x.moveTo = some (c, f) → 0 < x.ref →
        (pg ∉ (attAt s.m die).moves → underHost s.m (frameAddr p c f) (kvFrame p) = false →
          (frameAddr p c f + kvFrame p ≤ p.tableBase ∨ last ≤ frameAddr p c f) →
          ∃ r q, exec (.pageMoveDone die slot pg) s = .next r ∧ poolAt r.m die slot = some q
            ∧ tfind q.pages pg = some { x with frame := f, cistern := c, st := .inUse, moveTo := none }
            ∧ q.oldFrames = p.oldFrames ++ [(x.cistern, x.frame)] ∧ copied r (frameAddr p c f))
        ∧ (∀ b a d, attNext s.m die = some (b, a, d) → b.job = slot → (attAt s.m die).moves = [pg] → b.next < 16383 →
          underHost s.m (bankAddr die b.bank) 0x100000 = false →
          ∃ r q, exec (.pageMoveDone die slot pg) s = .next r ∧ poolAt r.m die slot = some q
            ∧ tfind q.pages pg = some { x with frame := f, cistern := c, st := .inUse, moveTo := none }
            ∧ memByte r.m.mem (a + 60) = 0 ∧ (attAt r.m die).moves = []
            ∧ (attAt r.m die).banks.drop (if b.next + 1 < b.count then 1 else 0) = (attAt s.m die).banks.drop 1)))

/-- R376 to R379: a command bank that the atomiser receives waits behind its banks; a SAMPLE descriptor whose checks pass gives the
token and log-probability of the sampled distribution in its result and in the slot's context, with one draw of the slot's
thread, whose entry in the job's generator table in memory follows (R233); at temperature 0 the one candidate is a token of the greatest value.
The readings that it takes are those of log entry 16. -/
def Obligations.SamplingOneToken : Prop :=
  (∀ (s : State) (die bank : Nat) (b : Bank), (Instr.atmBankHandover die bank).wf = true → bankAt s.m die bank = b → b.owner = 0xC9 →
    b.jobValid = true → (∀ x ∈ (atmAt s.m die).banks, x.bank ≠ bank) → memNat s.m.mem (bankAddr die bank) 2 = 0xA7A1 →
    1 ≤ memNat s.m.mem (bankAddr die bank + 2) 2 → memNat s.m.mem (bankAddr die bank + 2) 2 ≤ 16383 →
    ∃ r, exec (.atmBankHandover die bank) s = .next r
      ∧ atmAt r.m die = { atmAt s.m die with banks := (atmAt s.m die).banks ++ [{
          bank := bank, job := b.jobSlot, next := 0, count := memNat s.m.mem (bankAddr die bank + 2) 2 }] }
      ∧ bankAt r.m die bank = { b with fresh := false }
      ∧ (∀ e x, e * 160 + x ≠ die * 160 + bank → bankAt r.m e x = bankAt s.m e x)
      ∧ r = { s with m := { s.m with atms := r.m.atms, banks := r.m.banks } })
  ∧ (∀ (s : State) (die a seq o tk lp : Nat) (b : CmdBank) (l : List CmdBank) (d : List Byte) (g : Gen) (q : Request) (c : SeqCtx) (j : Job),
    die < 8 → (atmAt s.m die).banks = b :: l → b.next < 16383 → bankAddr die b.bank + 64 + 64 * b.next = a → memRead s.m.mem a 64 = d →
    recField d 0 1 = 1 → recField d 1 1 = 0 → recField d 2 2 = 0 → recField d 4 2 = seq → recField d 6 2 = 0 → recField d 24 32 = 0 →
    recField d 58 2 = 0 → recField d 62 2 = 0 → seq < 4096 → seq % 8 = die → seqAt s.m seq = c → c.jobSlot = b.job → c.st ≠ .free →
    c.req = some q → genOf s.m b.job = some g → jobAt s.m b.job = some j → inAtmBank s.m die b.job 64 (recField d 8 8) (g.vocab * 4) = true →
    recField d 16 8 = o → inAtmBank s.m die b.job 1 o 16 = true → placeOf o ≠ .spad die b.bank →
    memPoisoned s.m.mem (recField d 8 8) (g.vocab * 4) = false → q.poison = false →
    underHost s.m (bankAddr die b.bank) 0x100000 = false → underHost s.m o 16 = false →
    sampleFrom { r := q, vocab := g.vocab, tokens := c.tokens, d := (jobDraw j (seqThread seq)).1 }
      ((chunksOf 4 g.vocab (memRead s.m.mem (recField d 8 8) (g.vocab * 4))).map leNat) = .token tk lp → tk < 2 ^ 32 → lp < 2 ^ 32 →
    ∃ r, exec (.sample die) s = .next r ∧ memByte r.m.mem (a + 60) = 0 ∧ memNat r.m.mem o 4 = tk ∧ memNat r.m.mem (o + 4) 4 = lp
      ∧ seqAt r.m seq = { c with sampled := .token tk lp }
      ∧ jobAt r.m b.job = some (jobDraw j (seqThread seq)).2
      ∧ (atmAt r.m die).samples = ((atmAt s.m die).samples + 1) % 2 ^ 64
      ∧ (∀ x, (x < o ∨ o + 16 ≤ x) → (x < a + 60 ∨ a + 62 ≤ x) → (x < bankAddr die b.bank + 8 ∨ bankAddr die b.bank + 16 ≤ x) →
          (∀ y ∈ s.m.mem.allocs, y.use = .generators → x < y.first * segBytes ∨ y.first * segBytes + 0x400000 ≤ x) →
          memByte r.m.mem x = memByte s.m.mem x)
      ∧ r = { s with m := { s.m with
          atms := r.m.atms, mem := r.m.mem, seqs := r.m.seqs, jobs := r.m.jobs, free := s.m.free + 1 } })
  ∧ (∀ (q : Request) (z : List (Nat × Nat)), fvZero (dec32 q.temp) = true → (∃ c ∈ z, c.1 ≠ 0xFF800000) →
    (∀ c ∈ z, ∀ n, dec32 c.1 ≠ .nan n) →
    ∃ c ∈ z, candidates q z = [c] ∧ c.1 ≠ 0xFF800000 ∧ ∀ x ∈ z, x.1 ≠ 0xFF800000 → fvLt (dec32 c.1) (dec32 x.1) = false)

/-- R384, R389, R394, R395: the records of a commit that was held go into the next output bucket once it reads DEVICE, with FILL to be
32 × records; a tincture image is copied into the shares of its memory and checked against its digest; a poisoned weight block is restored once from
the golden copy, or the restoration fails when the golden block is poisoned too.
The readings that it takes are those of log entry 16. -/
def Obligations.GenerationService : Prop :=
  (∀ (s : State) (slot b : Nat) (g : Gen) (recs : List Byte) (f : Flag), (Instr.outputBucketReady slot).wf = true →
    genOf s.m slot = some g → g.held = some recs → g.outFirst + g.outNext = b → flagAt s.m b = f → f.owner = 2 →
    b ∉ s.m.ctl.bucketFlips → underHost s.m f.addr recs.length = false → s.m.mem.damaged = [] → (∀ x ∈ s.m.jobs, x.2.secure.protectedPages = []) →
    ∃ r g', exec (.outputBucketReady slot) s = .next r ∧ genOf r.m slot = some g' ∧ g'.held = none
      ∧ g'.outNext = (g.outNext + 1) % g.outCount
      ∧ (∀ i (h : i < recs.length), memByte r.m.mem (f.addr + i) = recs[i])
      ∧ (∀ a, a < f.addr ∨ f.addr + recs.length ≤ a → memByte r.m.mem a = memByte s.m.mem a)
      ∧ r.m.ctl = { s.m.ctl with holds := s.m.ctl.holds ++ [{
          bucket := b, mb := copyHolder 3 slot, due := some (bucketStream s.m b, strokeOf s.m (bucketStream s.m b)), fill := some (recs.length, f.tag) }] }
      ∧ r = { s with m := { s.m with mem := r.m.mem, ctl := r.m.ctl, jobs := r.m.jobs } })
  ∧ (∀ (s : State) (slot id v e : Nat) (t : Tincture) (from' : List (Nat × Nat)) (shares : List Alloc), (Instr.tinctureCopyDone slot id v).wf = true →
    tinctFind s.m slot (fun t => decide (t.id = id) && decide (t.version = v) && decide (t.st = .loading) && decide (t.outcome = none))
      = some (e, t) → tfind s.m.tinctures e = some t → heldRuns s.m (copyHolder 1 e) = from' → s.m.mem.damaged = [] →
    s.m.mem.allocs.filter (fun a => decide (a.job = some slot) && decide (a.use = .tincture e)) = shares →
    (∀ x ∈ s.m.jobs, x.2.secure.protectedPages = []) →
    ∃ r, exec (.tinctureCopyDone slot id v) s = .next r
      ∧ r.m.mem = (imageCopy s.m from' t.image.length (tinctPart t.image.length (jobDies s.m slot).length) shares).mem
      ∧ (∀ x, (∀ y ∈ shares, x < y.first * segBytes ∨ y.first * segBytes + t.image.length ≤ x) →
          memByte r.m.mem x = memByte s.m.mem x)
      ∧ tfind r.m.tinctures e = some { t with outcome := some (
          if (cutRuns t.image.length from').any (fun p => memPoisoned r.m.mem p.1 p.2) then 0x4001
          else if shake256 8 (t.image.drop 64) = recBytes t.image 24 8 then 0 else 0x4002) }
      ∧ (∀ k, k ≠ e → tfind r.m.tinctures k = tfind s.m.tinctures k)
      ∧ (∀ h ∈ r.m.ctl.holds, h.mb = copyHolder 1 e → h.due ≠ none)
      ∧ r = { s with m := { s.m with
          tinctures := r.m.tinctures, ctl := { s.m.ctl with holds := r.m.ctl.holds }
          jobs := r.m.jobs
          mem := { s.m.mem with
            bytes := r.m.mem.bytes, poison := r.m.mem.poison, damaged := r.m.mem.damaged, lines := r.m.mem.lines } } })
  ∧ (∀ (s : State) (slot a k : Nat) (g : Gen), slot < 16 → a < 2 ^ 48 → a % 64 = 0 → goldenAddr s.m slot a = some k → k % 64 = 0 →
    genOf s.m slot = some g → (∀ x ∈ s.m.jobs, x.2.secure.protectedPages = []) → s.m.mem.damaged = [] →
    underHost s.m a 64 = false →
    (memPoisoned s.m.mem a 64 = true → (∀ y ∈ s.m.restores, y.2 ≠ a) →
      exec (.weightPoisonReport slot a) s = .next { s with m := { s.m with restores := s.m.restores ++ [(slot, a)] } })
    ∧ ((slot, a) ∈ s.m.restores → memPoisoned s.m.mem k 64 = false →
      ∃ r, exec (.weightRestoreDone slot a) s = .next r
        ∧ (∀ i < 64, memByte r.m.mem (a + i) = memByte s.m.mem (k + i)) ∧ memPoisoned r.m.mem a 64 = false
        ∧ (∀ x, x < a ∨ a + 64 ≤ x → memByte r.m.mem x = memByte s.m.mem x)
        ∧ (slot, a) ∉ r.m.restores ∧ (genOf r.m slot).map (·.restored) = some (g.restored + 1)
        ∧ r = { s with m := { s.m with
            mem := { s.m.mem with
              bytes := r.m.mem.bytes, poison := r.m.mem.poison, damaged := r.m.mem.damaged, lines := r.m.mem.lines }
            jobs := r.m.jobs, seqs := r.m.seqs, restores := r.m.restores, ctl := { s.m.ctl with evq := r.m.ctl.evq } } })
    ∧ ((slot, a) ∈ s.m.restores → memPoisoned s.m.mem k 64 = true →
      ∃ r, exec (.weightRestoreDone slot a) s = .next r ∧ r.m.mem = s.m.mem ∧ (slot, a) ∉ r.m.restores
        ∧ (genOf r.m slot).map (·.badBlocks) = some (g.badBlocks ++ [a])
        ∧ r = { s with m := { s.m with
            jobs := r.m.jobs, seqs := r.m.seqs, restores := r.m.restores, ctl := { s.m.ctl with evq := r.m.ctl.evq } } }))

/-- R404, R423, R426, R427, R429, R406: a slice handed over is recorded with its flags and its gradient goes out, the embedding's when
both ends of the pipeline have given theirs, as their sum; the last one, with the shard held, ends REDUCE and sends the member's step
record; a delivered slice is held by its owner, whose squared norm in group 0 is that of the held
slices; the completed verdict reduction is kept by the origin until its boundary.
R129, R523: the copy of an image into job memory ends: its bytes lie in the shares, the reply that waited for it is staged and its buckets return; a layout
whose digest does not agree is released with 0x4002. R514, R538: a member whose part of a stage has ended posts its stage record as a collective of EPOCH E + 1;
the origin advances the turn when every member's record is clean, and fails it with the lowest cause otherwise, or with cause 2 at
the stage limit.
The readings that it takes are those of log entry 17 and 19. -/
def Obligations.SlicesCopiesAndStages : Prop :=
  (∀ (s : State) (slot slice : Nat) (j : Job) (g : Learn), slot < 16 → slice < 2 ^ 32 → jobAt s.m slot = some j → j.learn = g →
     g.running = true →
     let only : State → Learn → Prop := fun t g' => jobAt t.m slot = some { j with learn := g' }
       ∧ (∀ k, k ≠ slot → jobAt t.m k = jobAt s.m k)
       ∧ t = { s with m := { s.m with jobs := t.m.jobs, out := t.m.out, free := t.m.free } }
     let ends : List Out → State → Learn → Prop := fun sent t g' => ∃ loss < 2 ^ 32,
       let ts := Config.tensorSteps s.m.free
       let nonf := g'.flagNonfinite || ts.any (fun x => x.2.2.2)
       t.m.out = s.m.out ++ sent ++ [.record slot 1 [
         (if nonf then 1 else 0) + (if g'.flagPoison then 2 else 0) + (if g'.flagMismatch then 4 else 0), g'.taken.length,
         ((g'.taken.flatMap (·.tokens)).filter (fun t => !fvZero (dec32 t.2.2.2))).length, loss, g'.sqnorm]]
       ∧ t.m.free = s.m.free + 1 ∧ only t { g' with tensors := ts, flagNonfinite := nonf }
     (∀ die data nonfinite poison n o own, (Instr.sliceHandoff slot ⟨die, slice, data⟩ nonfinite poison).wf = true →
       (∀ x ∈ data, x < 2 ^ 32) → g.stage = 1 → slice < g.slices → trainable g slice = true → slice ∉ g.handed →
       g.handed.length + 1 = n → (openSlices g).length = o → sliceGradient s.m slot slice die data g = own →
       let flags : Learn := { g with flagNonfinite := g.flagNonfinite || nonfinite, flagPoison := g.flagPoison || poison }
       let rest := tdel (tdel g.ends (slice * 8)) (slice * 8 + 7)
       (own = none → ∃ t, exec (.sliceHandoff slot ⟨die, slice, data⟩ nonfinite poison) s = .next t ∧ t.m.out = s.m.out
         ∧ t.m.free = s.m.free ∧ only t { flags with ends := tput g.ends (slice * 8 + die) data })
       ∧ (∀ sum, own = some sum → n < o → ∃ t, exec (.sliceHandoff slot ⟨die, slice, data⟩ nonfinite poison) s = .next t
         ∧ t.m.out = s.m.out ++ [.slice slot slice sum] ∧ t.m.free = s.m.free
         ∧ only t { flags with handed := g.handed ++ [slice], ends := rest })
       ∧ (∀ sum, own = some sum → o ≤ n → (ownSlices g).length ≤ g.held.length →
         ∃ t, exec (.sliceHandoff slot ⟨die, slice, data⟩ nonfinite poison) s = .next t
         ∧ ends [.slice slot slice sum] t { flags with stage := 3, handed := g.handed ++ [slice], ends := rest }))
     ∧ (∀ data o, twoEnds s.m slot slice = true → tfind g.ends (slice * 8 + 7) = some o →
         sliceGradient s.m slot slice 0 data g = some ((List.zip data o).map (fun x => add32 x.1 x.2)))
     ∧ (∀ data h q, (Instr.sliceDelivered slot slice data).wf = true → (∀ x ∈ data, x < 2 ^ 32) → slice ∈ ownSlices g →
       tfind g.held slice = none → (g.stage = 1 ∨ g.stage = 2) → tput g.held slice data = h →
       (if g.group = 0 ∧ h.length = (ownSlices g).length then squaredNorm { g with held := h } else g.sqnorm) = q →
       (g.handed.length < (openSlices g).length ∨ h.length < (ownSlices g).length →
         ∃ t, exec (.sliceDelivered slot slice data) s = .next t ∧ t.m.out = s.m.out ∧ t.m.free = s.m.free
           ∧ only t { g with held := h, sqnorm := q, stage := if g.handed.length < (openSlices g).length then 1 else 2 })
       ∧ ((openSlices g).length ≤ g.handed.length → (ownSlices g).length ≤ h.length →
         ∃ t, exec (.sliceDelivered slot slice data) s = .next t ∧ ends [] t { g with held := h, sqnorm := q, stage := 3 }))
     ∧ (∀ flags count tokens loss sqnorm, (Instr.verdictReduceDone slot flags count tokens loss sqnorm).wf = true →
       j.isOrigin = true → g.stage ≤ 3 → g.verdict = none →
       ∃ t, exec (.verdictReduceDone slot flags count tokens loss sqnorm) s = .next t ∧ t.m.out = s.m.out ∧ t.m.free = s.m.free
         ∧ only t { g with verdict := some { flags, count, tokens, loss, sqnorm } }))
  ∧ ((∀ (s : State) (slot kind index : Nat) (j : Job) (w : Wait) (good : Bool), (Instr.imageCopyDone slot kind index).wf = true →
      jobAt s.m slot = some j → (kind = 1 ∨ kind = 2 ∨ kind = 3) →
      w.why = .imageCopy slot (if kind = 3 then 3 + 16 * index else kind) → s.m.ctl.waits = [w] →
      (if kind = 3 then ∃ l, tfind j.layouts index = some l ∧ layoutDigestOk l = good else good = true) →
      (∀ x ∈ s.m.jobs, x.2.secure.protectedPages = []) → s.m.mem.damaged = [] →
      ∀ img op, (if kind = 1 then 0x0401 else if kind = 2 then 0x0501 else 0x0604) = op → heldImage s.m w.reply.mb (if kind = 3 then 24 else 16) = img →
      let copied := (imageCopy s.m (heldRuns s.m w.reply.mb) img.length (fun _ => (img.length + 15) / 16)
        (imageShares s.m slot kind index)).mem
      ∃ t r, exec (.imageCopyDone slot kind index) s = .next t ∧ t.m.ctl.waits = [] ∧ t.m.ctl.replies = s.m.ctl.replies ++ [r]
        ∧ r.mb = w.reply.mb ∧ r.status = (if good then w.reply.status else 0x4002)
        ∧ r.due = max w.reply.due (strokeOf s.m w.reply.slot)
        ∧ (∀ h ∈ t.m.ctl.holds, h.mb = w.reply.mb → h.due ≠ none)
        ∧ (good = true → t.m.mem = copied ∧ jobAt t.m slot = some { j with
            meas := shake256 32 (j.meas ++ leBytes 2 op ++ shake256 32 img)
            measCount := j.measCount + 1
            layouts := if kind = 3 then tupd j.layouts index (fun l => { l with copying := false }) else j.layouts })
        ∧ (good = false → t.m.mem = releaseAllocs copied (layoutUse slot index)
            ∧ jobAt t.m slot = some { j with layouts := tdel j.layouts index })
        ∧ (∀ k, k ≠ slot → jobAt t.m k = jobAt s.m k)
        ∧ t = { s with m := { s.m with jobs := t.m.jobs, mem := t.m.mem, ctl := { s.m.ctl with
            waits := t.m.ctl.waits, replies := t.m.ctl.replies, holds := t.m.ctl.holds } } })
    ∧ (∀ (s : State) (slot : Nat) (j : Job) (u : Turn), slot < 16 → jobAt s.m slot = some j → j.phase = .turning → j.turn = u →
      let only : State → Turn → Prop := fun t u' => jobAt t.m slot = some { j with turn := u' } ∧ (∀ k, k ≠ slot → jobAt t.m k = jobAt s.m k)
        ∧ t = { s with m := { s.m with jobs := t.m.jobs, out := t.m.out } }
      (∀ cause mask, cause < 256 → u.posted = false →
        (u.stage = 1 ∧ collInFlight s.m slot j.epoch = false ∧ mask = u.mine
          ∨ u.stage = 2 ∧ (u.prev ≠ .learn ∨ u.snapshotGen ≠ 0 ∨ u.openAt = false) ∧ mask = u.mine
          ∨ u.stage = 3 ∧ u.source ≠ 4 ∧ cause = 5 ∧ mask = u.mine ||| 32
          ∨ u.stage = 3 ∧ u.source ≠ 4 ∧ cause ≠ 5 ∧ u.mine ≠ 0 ∧ mask = u.mine
          ∨ u.stage = 4 ∧ engineBusy s.m slot .run = false ∧ u.awaited = [] ∧ mask = u.mine) →
        let idle := if u.stage = 3 then setPipes s.m ([], []) else s.m
        ∀ r, postRecord slot u.turnGroup .stage ((j.epoch + 1) % 2 ^ 32)
            ([1, if mask ≠ 0 then 1 else 0] ++ (List.range 6).map (fun i => if bitOf mask (i + 3) = true then 1 else 0) ++ List.replicate 8 0)
            { idle with jobs := tput s.m.jobs slot { j with turn := { u with posted := true, mine := 0 } } } = r →
          exec (.sluicePartDone slot cause) s = .next { s with m := r })
      ∧ (j.isOrigin = true → u.next = none →
        (∀ words, (Instr.stageRecordDone slot words).wf = true →
          (∀ c, nth 0 words 1 ≠ 0 → 3 ≤ c → c ≤ 8 → nth 0 words (c - 1) ≠ 0 → (∀ k, 3 ≤ k → k < c → nth 0 words (k - 1) = 0) →
            ∃ t, exec (.stageRecordDone slot words) s = .next t ∧ only t { u with next := some (6, c) } ∧ t.m.out = s.m.out)
          ∧ (nth 0 words 1 = 0 → nth 0 words 0 = j.members → ∃ t, exec (.stageRecordDone slot words) s = .next t
              ∧ only t { u with next := some (u.stage + 1, 0) } ∧ t.m.out = s.m.out)
          ∧ (nth 0 words 1 = 0 → nth 0 words 0 ≠ j.members → exec (.stageRecordDone slot words) s = .next s))
        ∧ (u.stageLimit ≤ u.stageStrokes → ∃ t, exec (.stageLimitTimeout slot) s = .next t
            ∧ only t { u with next := some (6, 2) } ∧ t.m.out = s.m.out))))

/-- R562, R563, R569, R574: the packets of a generation at the sender, the holder and the origin: BEGIN makes the slot RECEIVING and is
answered by READY unless a deep write reads the slot, in which case READY goes when the slot is free; READY starts the copy; ENDs
that agree with the bytes received make the slot HELD; HELD makes the sender post its secure record as a collective; the complete record, or the
timeout, makes the origin's next item; a risk request makes a snapshot due, and the request re-arms after its timeout.
The readings that it takes are those of log entry 18. -/
def Obligations.SecuringPackets : Prop :=
  ∀ (s : State) (slot i gen : Nat) (j : Job) (x : Secure) (c : SecureReq), slot < 16 → gen < 2 ^ 32 → c.partner < 65536 → c.heldFor < 65536 →
    jobAt s.m slot = some j → j.secure = x → x.cfg = some c → holdSlotOf c gen = i → forwarding s.m = true →
    let only : State → Secure → Prop := fun t y => jobAt t.m slot = some { j with secure := y } ∧ (∀ k, k ≠ slot → jobAt t.m k = jobAt s.m k)
      ∧ t = { s with m := { s.m with jobs := t.m.jobs, out := t.m.out } }
    let held : Secure → Hold → Prop := fun y h => holdAt y i = h ∧ (∀ k, k ≠ i → holdAt y k = holdAt x k) ∧ y = { x with holds := y.holds }
    let hold : State → Hold → Prop := fun t h => ∃ y, only t y ∧ held y h
    let answers : State → Nat → Nat → Hold → Prop := fun t kind l h =>
      t.m.out = s.m.out ++ [.packet l (controlPacket s.m c.heldFor (securePayload kind j.id gen (leBytes 1 i)))] ∧ sentOn s.m t.m l 6 104
      ∧ ∃ y, held y h ∧ jobAt t.m slot = some { j with secure := y } ∧ (∀ k, k ≠ slot → jobAt t.m k = jobAt s.m k)
        ∧ t = { s with m := { s.m with jobs := t.m.jobs, out := t.m.out, net := { s.m.net with links := t.m.net.links } } }
    let words : Nat → List Nat := fun cause => [1, if cause ≠ 0 then 1 else 0]
      ++ (List.range 5).map (fun n => if cause = n + 1 then 1 else 0) ++ List.replicate 9 0
    let linked : Nat → Prop := fun l =>
      ((bitsOf 32 c.heldLinks).filter (fun l => linkUp (linkAt s.m l))).head? = some l ∧ (linkAt s.m l).takes 6 104 = true
    (∀ src estimate, (Instr.secureRequest slot src estimate).wf = true → j.isOrigin = true → j.phase = .learn →
      ∃ t, exec (.secureRequest slot src estimate) s = .next t ∧ only t { x with dueRisk := true } ∧ t.m.out = s.m.out)
    ∧ (∀ bytes, (Instr.secureBegin slot c.heldFor gen bytes).wf = true → holdsFor c = true →
      (slotRead x c i = true → ∃ t, exec (.secureBegin slot c.heldFor gen bytes) s = .next t ∧ t.m.out = s.m.out
        ∧ hold t { st := .receiving, gen := gen, bytes := bytes, readyOwed := true })
      ∧ (∀ l, slotRead x c i = false → linked l → ∃ t, exec (.secureBegin slot c.heldFor gen bytes) s = .next t
        ∧ answers t 0x12 l { st := .receiving, gen := gen, bytes := bytes }))
    ∧ (∀ l, (holdAt x i).readyOwed = true → (holdAt x i).gen = gen → slotRead x c i = false → linked l →
      ∃ t, exec (.holdSlotFree slot i) s = .next t ∧ answers t 0x12 l { holdAt x i with readyOwed := false })
    ∧ (x.opened = true → x.begun = gen →
      (x.copy = 1 → ∃ t, exec (.secureReady slot c.partner gen i) s = .next t ∧ only t { x with copy := 2 } ∧ t.m.out = s.m.out)
      ∧ (x.copy = 2 → exec (.secureHeld slot c.partner gen i) s = .next { s with
          m := postRecord slot c.group .secure j.epoch (words x.failCause)
            { s.m with jobs := tput s.m.jobs slot { j with secure := { x with copy := 3 } } } }))
    ∧ (∀ link bytes e, (Instr.secureEnd slot c.heldFor gen link bytes).wf = true → holdsFor c = true → (holdAt x i).st = .receiving →
      (holdAt x i).gen = gen → tput (holdAt x i).ends link bytes = e →
      (((holdAt x i).got.map (·.2)).sum ≠ (holdAt x i).bytes → ∃ t, exec (.secureEnd slot c.heldFor gen link bytes) s = .next t
        ∧ t.m.out = s.m.out ∧ hold t { holdAt x i with ends := e })
      ∧ ((∀ p ∈ (holdAt x i).got, tfind e p.1 = some p.2) → (∀ p ∈ e, tget 0 (holdAt x i).got p.1 = p.2) →
        ((holdAt x i).got.map (·.2)).sum = (holdAt x i).bytes → ∀ l, linked l →
        ∃ t, exec (.secureEnd slot c.heldFor gen link bytes) s = .next t
          ∧ answers t 0x14 l { holdAt x i with ends := e, st := .held, stepNext := recField (holdImage s.m slot i 64) 16 8 }))
    ∧ (j.isOrigin = true → x.opened = true → x.next = none →
      (∀ words, (Instr.secureRecordDone slot words).wf = true →
        (nth 0 words 0 = j.members → nth 0 words 1 = 0 → ∃ t, exec (.secureRecordDone slot words) s = .next t
          ∧ only t { x with next := some (2, 0, x.begun) } ∧ t.m.out = s.m.out)
        ∧ (∀ k, nth 0 words 1 ≠ 0 → 1 ≤ k → k ≤ 5 → nth 0 words (k + 1) ≠ 0 → (∀ n, 1 ≤ n → n < k → nth 0 words (n + 1) = 0) →
          ∃ t, exec (.secureRecordDone slot words) s = .next t ∧ only t { x with next := some (3, k, x.begun) } ∧ t.m.out = s.m.out))
      ∧ ∃ t, exec (.secureTimeout slot) s = .next t ∧ only t { x with next := some (3, 5, x.begun) } ∧ t.m.out = s.m.out)
    ∧ (∃ t, exec (.riskRearmTimeout slot) s = .next t ∧ only t { x with reqArmed := true } ∧ t.m.out = s.m.out)

/-- R553 to R555, R562: a write to a protected page is held, with a copy of the page into the reserve when its die has a free slot and
SIPHON_FULL otherwise; once the page is copied the write takes place and the reserve keeps the page as it was; a page that has
been sent is protected no more, and after the last one the image goes out to the holder; once all of it has been acknowledged END
is sent for the link.
R567, R568, R581: a deep write that ends well leaves its generation in the slot of its layer: the aquifer's extents hold the image of
the hold slot, the store is sent the image with its header last; one that fails leaves the layer's slot as it stood; SNAPSHOT_DEEP
says which, and the generation that waited for the write follows.
The readings that it takes are those of log entry 18. -/
def Obligations.ProtectedPagesAndDeepLayers : Prop :=
  (∀ (s : State) (slot page : Nat) (j : Job) (x : Secure), slot < 16 → page < 2 ^ 32 → jobAt s.m slot = some j → j.secure = x →
     let job : State → Secure → Prop := fun t y => jobAt t.m slot = some { j with secure := y } ∧ (∀ k, k ≠ slot → jobAt t.m k = jobAt s.m k)
       ∧ t = { s with m := { s.m with
           jobs := t.m.jobs, out := t.m.out, fabs := t.m.fabs, free := t.m.free
           mem := { s.m.mem with
             bytes := t.m.mem.bytes, poison := t.m.mem.poison, damaged := t.m.mem.damaged, lines := t.m.mem.lines } } }
     (∀ die addr data used, (Instr.protectedWrite die addr data).wf = true → addr / 65536 = page → pageJob s.m page = some slot →
       (x.reserved.filter (fun r => decide (pageDie r.1 = pageDie page))).length
         + (x.copying.filter (fun p => decide (pageDie p = pageDie page))).length = used →
       ∃ t, exec (.protectedWrite die addr data) s = .next t ∧ t.m.mem = s.m.mem ∧ t.m.out = s.m.out
         ∧ job t { x with
             heldWrites := x.heldWrites ++ [(page, addr, data)]
             copying := if page ∉ x.copying ∧ used < tget 0 x.reserveCap (pageDie page) then x.copying ++ [page] else x.copying }
         ∧ (∀ d, fabAt t.m d = if d = die ∧ page ∉ x.copying ∧ tget 0 x.reserveCap (pageDie page) ≤ used
             then { fabAt s.m d with siphonFull := true } else fabAt s.m d))
     ∧ (∀ die addr data, (Instr.reserveCopyDone die page).wf = true → pageJob s.m page = some slot → page ∈ x.copying →
       x.heldWrites = [(page, addr, data)] →
       ∃ t, exec (.reserveCopyDone die page) s = .next t ∧ t.m.out = s.m.out ∧ t.m.free = s.m.free
         ∧ fabAt t.m die = { fabAt s.m die with
             siphonActive := ((fabAt s.m die).siphonActive + 1400) % 2 ^ 64, touches := (fabAt s.m die).touches + 1 }
         ∧ (∀ d, d ≠ die → fabAt t.m d = fabAt s.m d)
         ∧ (∀ n (h : n < data.length), memByte t.m.mem (addr + n) = data[n])
         ∧ (∀ a, a < addr ∨ addr + data.length ≤ a → memByte t.m.mem a = memByte s.m.mem a)
         ∧ job t { x with
             heldWrites := [], copying := x.copying.filter (fun p => decide (p ≠ page))
             protectedPages := x.protectedPages.filter (fun p => decide (p ≠ page))
             reserved := tput x.reserved page (trange s.m.mem.bytes (page * 65536) 65536), touches := x.touches + 1
             reservePeak := max x.reservePeak (x.reserved.length + x.copying.length) })
     ∧ (∀ c l rest, x.cfg = some c → x.copy = 2 → page ∉ x.copying → memPoisoned s.m.mem (page * 65536) 65536 = false →
       (∀ h ∈ x.heldWrites, h.1 ≠ page) → x.failCause = 0 → (page ∈ x.protectedPages ∨ (tfind x.reserved page).isSome = true) →
       x.protectedPages.filter (fun p => decide (p ≠ page)) = rest → s.m.mem.damaged = [] →
       let gone : State → Prop := fun t => t.m.mem = s.m.mem ∧ t.m.free = s.m.free ∧ t.m.out = s.m.out ++ [.siphonPage slot page false]
         ∧ job t { x with protectedPages := rest, reserved := tdel x.reserved page }
         ∧ (∀ d, fabAt t.m d = if d = pageDie page % 8
             then { fabAt s.m d with siphonActive := ((fabAt s.m d).siphonActive + 717) % 2 ^ 64 } else fabAt s.m d)
       (rest ≠ [] → ∃ t, exec (.siphonPageSent slot page) s = .next t ∧ gone t)
       ∧ (rest = [] → tdel x.reserved page = [] → ∃ t, gone t ∧ exec (.siphonPageSent slot page) s = .next
           { t with m := sendCopy slot c { x with protectedPages := [], reserved := [] } t.m })
       ∧ (x.protectedPages = [] → x.reserved = [] → x.delivered = [(l, x.image.length)] → linkUp (linkAt s.m l) = true → l < 32 →
         (linkAt s.m l).takes 6 104 = true → ∃ m, copyEnds slot s.m = m ∧ sentOn s.m m l 6 104
           ∧ m.out = s.m.out ++ [.packet l (controlPacket s.m c.partner
               (securePayload 0x13 j.id x.begun (zeros 4 ++ leBytes 8 x.image.length ++ leBytes 1 l)))]
           ∧ m = { s.m with out := m.out, net := { s.m.net with links := m.net.links } })))
  ∧ (∀ (s : State) (slot status n gen a : Nat) (j : Job) (x : Secure) (c : SecureReq), slot < 16 → status < 65536 →
      jobAt s.m slot = some j → j.secure = x → x.cfg = some c → holdPieces s.m slot (holdSlotOf c gen) = [(a, 0x200000)] →
      let deep : State → Nat → Nat → Prop := fun t layer st => ∃ stream e, t.m.ctl.evq = s.m.ctl.evq ++ [(stream, e)] ∧ e.etype = 0x0702
        ∧ e.status = st ∧ e.jobId = j.id ∧ e.payload = leBytes 4 gen ++ leBytes 1 layer ++ leBytes 1 n ++ leBytes 2 c.heldFor
      let job : State → Secure → Prop := fun t y => jobAt t.m slot = some { j with secure := y } ∧ (∀ k, k ≠ slot → jobAt t.m k = jobAt s.m k)
        ∧ t = { s with m := { s.m with
            jobs := t.m.jobs, out := t.m.out, ctl := { s.m.ctl with evq := t.m.ctl.evq }, mem := { s.m.mem with aq := t.m.mem.aq } } }
      (x.deep = some (1, n, gen) →
        (status ≠ 0 → x.deepWait = [] → ∃ t, exec (.aquiferSlotWriteDone slot status) s = .next t ∧ deep t 1 status
          ∧ job t { x with deep := none } ∧ t.m.mem = s.m.mem ∧ t.m.out = s.m.out)
        ∧ (∀ g, status ≠ 0 → x.deepWait = [(g, false)] → s.m.mem.aq.st = 0 →
          quotaAdmits s.m j.part (some slot) 3 (emptyExtents s.m.mem j.part (c.aqFirst + g % 2 * aqExtents c) (aqExtents c)) = true →
          ∃ t, exec (.aquiferSlotWriteDone slot status) s = .next t ∧ deep t 1 status
            ∧ job t { x with deep := some (1, g % 2, g), deepAll := false, deepWait := [] } ∧ t.m.mem = s.m.mem ∧ t.m.out = s.m.out)
        ∧ (status = 0 → aqExtents c = 1 → x.deepAll = false → c.storeEvery = 0 → x.deepWait = [] →
          ∃ t y, exec (.aquiferSlotWriteDone slot status) s = .next t ∧ deep t 1 0 ∧ job t y ∧ t.m.out = s.m.out
            ∧ y = { x with deep := none, aqGen := y.aqGen, aqStep := y.aqStep }
            ∧ tget 0 y.aqGen n = gen ∧ tget 0 y.aqStep n = recField (memRead s.m.mem a 64) 16 8
            ∧ (∀ k, k ≠ n → tget 0 y.aqGen k = tget 0 x.aqGen k ∧ tget 0 y.aqStep k = tget 0 x.aqStep k)
            ∧ (∃ e, tfind t.m.mem.aq.extents (extentKey j.part (c.aqFirst + n)) = some e ∧ e.job = some slot
                ∧ ∀ i, i < 0x200000 → tget 0 e.data i = memByte s.m.mem (a + i))
            ∧ (∀ k, k ≠ extentKey j.part (c.aqFirst + n) → tfind t.m.mem.aq.extents k = tfind s.m.mem.aq.extents k)
            ∧ t.m.mem.aq = { s.m.mem.aq with extents := t.m.mem.aq.extents }))
      ∧ (x.deep = some (2, n, gen) → x.deepWait = [] →
        (status ≠ 0 → ∃ t, exec (.storeSlotWriteDone slot status) s = .next t ∧ deep t 2 status ∧ t.m.mem = s.m.mem
          ∧ job t { x with deep := none, deepAll := false } ∧ t.m.out = s.m.out)
        ∧ (status = 0 → ∀ b img, recField (memRead s.m.mem a 64) 56 8 = b → b ≤ 0x200000 → memRead s.m.mem a b = img →
          ∃ t y, exec (.storeSlotWriteDone slot status) s = .next t ∧ deep t 2 0 ∧ job t y ∧ t.m.mem = s.m.mem
            ∧ t.m.out = s.m.out ++ [
                .hostWrite c.storeQp (c.storeAddr + gen % 2 * c.storeStride + 256) c.storeRkey (img.drop 256),
                .hostWrite c.storeQp (c.storeAddr + gen % 2 * c.storeStride) c.storeRkey (img.take 256)]
            ∧ y = { x with deep := none, deepAll := false, storeGen := y.storeGen } ∧ tget 0 y.storeGen n = gen
            ∧ ∀ k, k ≠ n → tget 0 y.storeGen k = tget 0 x.storeGen k)))

/-- R585 to R587, R593 to R597: reports of a loss: one is recorded; one that names the coordinator makes the next position claim the role;
one that a link or a silent origin gives goes to the position that is to take it. A declared position is failed and passed, its
MEMBER_FAILED is raised, the links to it are disabled and NOTICE goes to every other live member; a member answers NOTICE with ACK.
The readings that it takes are those of log entry 20. -/
def Obligations.ReportsAndDeclarations : Prop :=
  ∀ (s : State) (slot : Nat) (j : Job) (r : Recov), slot < 16 → jobAt s.m slot = some j → j.recov = r → s.m.colls = [] →
    (∀ p ∈ s.m.jobs, p.2.secure.cfg = none) → forwarding s.m = true →
    let only : State → Recov → Prop := fun t y => jobAt t.m slot = some { j with recov := y } ∧ (∀ k, k ≠ slot → jobAt t.m k = jobAt s.m k)
      ∧ t = { s with m := { s.m with jobs := t.m.jobs, out := t.m.out } }
    let fenced : State → Nat → Prop := fun t pos => ∀ l < 32,
      (linkAt s.m l).enabled = true → (linkAt s.m l).peerValid = true → (linkAt s.m l).peerPos = pos → (linkAt t.m l).enabled = false
    let declares : State → Job → Nat → Nat → Prop := fun t y pos cause => jobAt t.m slot = some y
      ∧ pos ∈ y.recov.failed ∧ pos ∈ y.recov.passed ∧ y.recov.attempt = (if r.attempt = 0 then 1 else r.attempt)
      ∧ y.recov.stage = 1 ∧ y.recov.acks = [] ∧ y.recov.expected = liveOthers y ∧ pos ∉ y.recov.expected ∧ fenced t pos
      ∧ (∃ e ∈ t.m.ctl.evq, e.2.etype = 0x0703 ∧ e.2.jobId = j.id
          ∧ e.2.payload = leBytes 2 pos ++ leBytes 1 cause ++ leBytes 1 y.recov.attempt ++ leBytes 2 j.self)
      ∧ (∀ d ∈ y.recov.expected, ∀ l, routeLink t.m d = some l → ∃ p, onItsWay t.m l p ∧ p.dest = d ∧ recField p.payload 0 1 = 0x21)
      ∧ t.nv = s.nv ∧ t.m.mem = s.m.mem ∧ t.m.port = s.m.port ∧ t.m.sys = s.m.sys
    let sends : State → Nat → Nat → List Byte → Prop := fun t l d p => t.m.out = s.m.out ++ [.packet l (controlPacket s.m d p)]
      ∧ sentOn s.m t.m l 6 104 ∧ t.nv = s.nv ∧ t.pending = s.pending
    (∀ src cause subject seen, (Instr.reportReceive slot src cause subject).wf = true → knownSource j src = true →
      (if (cause, subject) ∈ r.recorded then r.recorded else r.recorded ++ [(cause, subject)]) = seen →
      (cause ∈ [3, 4, 6, 7] → coordOf j = some subject → nextCoord j = some j.self →
        ∃ t, exec (.reportReceive slot src cause subject) s = .next t ∧ only t { r with recorded := seen, claim := true } ∧ t.m.out = s.m.out)
      ∧ (cause ∉ [2, 3, 4, 5, 6, 7] ∨ subject ∉ otherMembers j → coordOf j ≠ some subject →
        ∃ t, exec (.reportReceive slot src cause subject) s = .next t ∧ only t { r with recorded := seen } ∧ t.m.out = s.m.out)
      ∧ (cause ∈ [2, 4, 5, 6, 7] → subject ∈ otherMembers j → isCoord j = true → subject ∉ unfilled r → j.phase ≠ .recovering →
        ∃ t y, exec (.reportReceive slot src cause subject) s = .next t ∧ declares t y subject cause))
    ∧ (∀ pos, pos < 65536 → isCoord j = true → r.stage = 1 → pos ∈ r.expected → (∀ a ∈ r.acks, a.src ≠ pos) → pos ∉ unfilled r →
      j.phase ≠ .recovering → ∃ t y, exec (.ackLimitTimeout slot pos) s = .next t ∧ declares t y pos 2)
    ∧ (∀ old, r.claim = true → coordOf j = some old → nextCoord j = some j.self → old ∉ unfilled r → j.phase ≠ .recovering →
      ∃ t y, exec (.coordinatorTakeover slot) s = .next t ∧ declares t y old 3 ∧ y.isOrigin = true ∧ y.origin = j.self
        ∧ y.tree = strokeTree j j.self ∧ y.recov.skip = true ∧ y.recov.claim = false)
    ∧ (∀ a c d y, r.addressed = some a → coordOf j = some c → a ∉ r.passed → { r with passed := r.passed ++ [a], addressed := some d } = y →
      coordOf { j with recov := y } = some c → nextCoord { j with recov := y } = some d → d ≠ j.self →
      ∀ l, routeLink s.m d = some l → (linkAt s.m l).takes 6 104 = true →
      ∃ t, exec (.reportOriginTimeout slot) s = .next t
        ∧ sends t l d (recoveryPayload j 0x20 r.attempt 64 (leBytes 1 3 ++ leBytes 2 c) [])
        ∧ jobAt t.m slot = some { j with recov := y } ∧ (∀ k, k ≠ slot → jobAt t.m k = jobAt s.m k)
        ∧ t.m = { s.m with jobs := t.m.jobs, out := t.m.out, net := { s.m.net with links := t.m.net.links } })
    ∧ (∀ l k d, l < 32 → linkAt s.m l = k → linkUp k = false → k.peerValid = true → s.m.jobs = [(slot, j)] →
      k.peerPos ∈ otherMembers j → k.peerPos ∉ unfilled r → coordOf j = some d → d ≠ j.self →
      ∀ o, routeLink s.m d = some o → (linkAt s.m o).takes 6 104 = true →
      ∃ t, exec (.linkLostTimeout l) s = .next t
        ∧ sends t o d (recoveryPayload j 0x20 r.attempt 64 (leBytes 1 5 ++ leBytes 2 k.peerPos) [])
        ∧ t.m = { s.m with out := t.m.out, net := { s.m.net with links := t.m.net.links } })
    ∧ (∀ src attempt pos, (Instr.noticeReceive slot src attempt src [pos]).wf = true → knownSource j src = true → src ∈ succPositions r →
      pos ≠ j.self → r.attempt ≤ attempt → isCoord j = false → r.noticed = none →
      ∃ t y, exec (.noticeReceive slot src attempt src [pos]) s = .next t ∧ jobAt t.m slot = some y ∧ y.isOrigin = false ∧ y.origin = src
        ∧ pos ∈ y.recov.failed ∧ y.recov.attempt = attempt ∧ y.recov.noticed = some src ∧ fenced t pos
        ∧ (∀ l, routeLink t.m src = some l → ∃ p, onItsWay t.m l p ∧ p.dest = src ∧ recField p.payload 0 1 = 0x22
            ∧ recField p.payload 12 1 = attempt % 256)
        ∧ t.nv = s.nv ∧ t.m.mem = s.m.mem ∧ t.m.port = s.m.port ∧ t.m.sys = s.m.sys)

/-- R591, R597, R603 to R607, R609, R611, R614: the coordinator keeps each ACK of its attempt, counts the spares that are up and configured and
the members that are restored, and attaches TAKEOVER, RESTORE and RESUME when the last of each has come, FAILED when a restoration
fails in the last attempt; a holder answers FETCH with the image that it holds, in packets for window 0xF100; an armed spare takes the position that a TAKEOVER
with a good signature gives it, and one that is not armed refuses.
The readings that it takes are those of log entry 20. -/
def Obligations.RecoveryRunsItsCourse : Prop :=
  (∀ (s : State) (slot src : Nat) (j : Job) (r : Recov), slot < 16 → src < 65536 → jobAt s.m slot = some j → j.recov = r →
    knownSource j src = true → forwarding s.m = true →
    let only : State → Recov → Prop := fun t y => jobAt t.m slot = some { j with recov := y } ∧ (∀ k, k ≠ slot → jobAt t.m k = jobAt s.m k)
      ∧ t = { s with m := { s.m with jobs := t.m.jobs } }
    (isCoord j = true →
      (∀ flags hg ag hs as, (Instr.ackReceive slot src r.attempt flags hg ag hs as).wf = true → r.stage = 1 → src ∈ r.expected →
        (∀ a ∈ r.acks, a.src ≠ src) → ∃ t, exec (.ackReceive slot src r.attempt flags hg ag hs as) s = .next t
          ∧ only t { r with acks := r.acks ++ [{ src, flags, holdGen := hg, aqGen := ag, holdStep := hs, aqStep := as }] })
      ∧ (∀ pos, pos < 65536 → r.stage = 2 → (∃ c ∈ r.chosen, c.1 = pos) → pos ∉ r.spareUps →
        ∃ t, exec (.spareUpReceive slot src pos) s = .next t ∧ only t { r with
          spareUps := r.spareUps ++ [pos]
          next := if ∀ c ∈ r.chosen, c.1 = pos ∨ c.1 ∈ r.spareUps then
            some { action := 2, kind := r.kind, attempt := r.attempt, generation := r.generation, pairs := r.chosen } else r.next })
      ∧ (r.stage = 3 → (∃ c ∈ r.chosen, c.1 = src) → src ∉ r.configured →
        ∃ t y, exec (.configuredReceive slot src 0) s = .next t ∧ only t { r with configured := r.configured ++ [src], next := y }
          ∧ ((∃ c ∈ r.chosen, c.1 ≠ src ∧ c.1 ∉ r.configured) → y = r.next)
          ∧ ((∀ c ∈ r.chosen, c.1 = src ∨ c.1 ∈ r.configured) → ∃ i, y = some i ∧ i.action = 3 ∧ i.kind = r.kind
              ∧ i.attempt = r.attempt ∧ i.generation = r.generation))
      ∧ (r.stage = 4 → src ∉ r.restored →
        ∃ t, exec (.restoredReceive slot src 0) s = .next t ∧ only t { r with
          restored := r.restored ++ [src]
          next := if ∀ p ∈ j.self :: liveOthers j, p = src ∨ p ∈ r.restored then
            some { action := 4, kind := r.kind, attempt := r.attempt, generation := r.generation } else r.next })
      ∧ (∀ p c n, r.stage = 4 → r.plan = some p → p.attempts ≤ r.attempt →
        (if c = 2 ∨ c = 5 then 4 else if c = 1 ∧ r.byHost = true ∧ (∃ q, r.source = some q ∧ q.1 = 3) then 5 else 1) = n → c ≠ 0 → c < 65536 →
        ∃ t, exec (.restoredReceive slot src c) s = .next t ∧ only t { r with
          lastCause := n, noticeSent := false
          next := some { action := 5, kind := n, attempt := r.attempt, generation := r.generation } }))
    ∧ (∀ c layer hs gen, (Instr.fetchReceive slot src layer hs gen).wf = true → j.secure.cfg = some c → holdsFor c = true → c.heldFor = src →
      s.m.mem.damaged = [] →
      (layer = 1 → (holdAt j.secure hs).st = .complete → (holdAt j.secure hs).gen = gen →
        ∀ ps, spanPieces (holdPieces s.m slot hs) 0 (holdAt j.secure hs).bytes = ps →
        exec (.fetchReceive slot src layer hs gen) s = .next { s with
          m := sendImage src (piecesRead s.m.mem ps) (pieceMarks s.m ps) s.m })
      ∧ (∀ y, layer = 0 → layoutOf j = some y → ∀ ps, regionRuns s.m slot j y = ps →
        exec (.fetchReceive slot src layer hs gen) s = .next { s with
          m := sendImage src (piecesRead s.m.mem ps) (pieceMarks s.m ps) s.m })))
  ∧ (∀ (m : Dev) (src l : Nat) (b : Byte) (data : List Byte) (marks : List Bool), routeLink m src = some l → data.length < 4096 →
    (linkAt m l).takes 7 (40 + upTo64 (data.length + 1)) = true →
    ∃ p, (sendImage src (b :: data) marks m).out = m.out ++ [.packet l p] ∧ p.dest = src ∧ p.window = 0xF100 ∧ p.offset = 0 ∧ p.vc = 7
      ∧ p.payload.take (data.length + 1) = b :: data ∧ sentOn m (sendImage src (b :: data) marks m) l 7 (40 + upTo64 (data.length + 1)))
  ∧ (∀ (s : State) (l : List Byte), l.length ≤ 2097152 → forwarding s.m = true →
    (s.m.sys.spare = none → ∃ t e, exec (.takeoverReceive l) s = .next t ∧ t.m.ctl.evq = s.m.ctl.evq ++ [(none, e)] ∧ e.etype = 0x0707
      ∧ e.part = 0 ∧ e.payload = leBytes 2 (recField l 16 2) ++ leBytes 2 (recField l 14 2) ++ leBytes 1 0
      ∧ t = { s with m := { s.m with ctl := { s.m.ctl with evq := t.m.ctl.evq } } })
    ∧ (∀ a e slot, s.m.sys.spare = some a → a.jobId = recField l 4 4 → s.m.net.position = some (recField l 48 2) → freeSlot s.m = some slot →
      a.plan.succ.find? (fun x => decide (x.1 = recField l 16 2)) = some e → a.plan.digest = recField l 40 8 →
      (∃ x ∈ a.plan.spares, x.1 = recField l 48 2 ∧ x.2.1 ≤ recField l 14 2 ∧ recField l 14 2 < x.2.1 + x.2.2) →
      edVerify e.2.2 (l.take 128) (recBytes l 128 114) = true →
      ∃ t y, exec (.takeoverReceive l) s = .next t ∧ jobAt t.m slot = some y ∧ y.id = a.jobId ∧ y.self = recField l 14 2
        ∧ y.phase = .recovering ∧ y.origin = recField l 16 2 ∧ y.members = recField l 18 2 ∧ y.epoch = recField l 20 4
        ∧ y.stroke = recField l 24 8 ∧ y.seed = recField l 32 8 ∧ y.recov.plan = some a.plan
        ∧ t.m.net.position = some (recField l 14 2) ∧ t.m.sys.spare = none
        ∧ (∀ o, routeLink t.m (recField l 16 2) = some o → ∃ p, onItsWay t.m o p ∧ p.dest = recField l 16 2
            ∧ recField p.payload 0 1 = 0x24 ∧ recField p.payload 14 2 = recField l 14 2)
        ∧ t.nv = s.nv))

/-- R632, R633, R637: an interval of 10 µs adds power × 10 µs to the energy of every rail, puts on the accounts of the partitions what no
job has used, lowers the duties by the step of R637 while the input draws more than the cap, and raises them by one when it draws less
than 98% of it and no duty has been raised in the last 100 µs; R647: the clock rises one step in compatibility mode.
The readings that it takes are those of log entry 21. -/
def Obligations.CapIntervals : Prop :=
  (∀ (s : State) (rails : List Nat) (input : Nat), (Instr.capControlTick rails input).wf = true → s.m.sys.st ≠ .off →
    ∃ t, exec (.capControlTick rails input) s = .next t ∧ t.nv = s.nv ∧ t.pending = s.pending ∧ t.m.mem = s.m.mem
      ∧ (∀ r < 32, railAt t.m r = { railAt s.m r with
          power := nth 0 rails r, energy := (railAt s.m r).energy + (5 * nth 0 rails r : Nat) / 4 })
      ∧ t.m.power.input = { s.m.power.input with power := input, energy := s.m.power.input.energy + (5 * input : Nat) / 4 }
      ∧ (s.m.jobs = [] → ∀ p < 8, (partAt t.m p).idleEnergy = (partAt s.m p).idleEnergy
          + (((List.range 8).filter (fun d => decide (dieOwner s.m d = p))).map (fun d => intervalEnergy (dieRails t.m d))).sum
          + (if (partAt s.m p).configured = true then intervalEnergy (sharedPower t.m) * ((bitsOf 8 (partAt s.m p).dies).length : Nat) / 8 else 0)
          + (if p = 0 then intervalEnergy (railAt t.m 31).power else 0))
      ∧ ((∀ p < 8, (partAt s.m p).share = 0) → anyPriming s.m = false → s.m.power.freqMode = 0 → ∀ cap, 8 * capWatts s.m = cap →
          (cap < input → ∀ d < 8, pdieAt t.m d = { pdieAt s.m d with
              capDuty := max 8 ((pdieAt s.m d).capDuty - (64 * (input - cap) + input - 1) / input) })
          ∧ (100 * input < 98 * cap → 10 ≤ s.m.power.sinceRaise → s.m.power.brake = false → s.m.power.brakeHold = false →
              ∀ d < 8, pdieAt t.m d = { pdieAt s.m d with capDuty := min 64 ((pdieAt s.m d).capDuty + 1) })
          ∧ (input ≤ cap → (98 * cap ≤ 100 * input ∨ s.m.power.sinceRaise < 10 ∨ s.m.power.brake = true ∨ s.m.power.brakeHold = true) →
              ∀ d < 8, pdieAt t.m d = pdieAt s.m d)))
  ∧ (∀ s : State,
    (s.m.power.freqMode = 1 → 10 * s.m.power.input.power < 9 * (8 * capWatts s.m) →
      (∀ d < 8, (pdieAt s.m d).temp + 10 ≤ (pdieAt s.m d).thr) →
      exec .freqStepTick s = .next { s with m := { s.m with power := { s.m.power with freq := min 38 (s.m.power.freq + 1) } } })
    ∧ (s.m.power.freqMode = 0 → exec .freqStepTick s = .next s))

/-- R642 to R645: priming starts at the level of the last 100 µs, steps down once its cause has ended or its limit has passed, and ends
below one; the brake stops every array and every priming and counts, and its release reports its length and holds the cap loop
until the hold ends; a droop halves the duty of a die for 64 cycles and counts.
The readings that it takes are those of log entry 21. -/
def Obligations.PrimingBrakeAndDroop : Prop :=
  (∀ (s : State) (d : Nat) (x : PwrDie), d < 8 → pdieAt s.m d = x →
    let only : State → PwrDie → Prop := fun t y => (∀ k, pdieAt t.m k = if k = d then y else pdieAt s.m k)
      ∧ t = { s with m := { s.m with power := { s.m.power with dies := t.m.power.dies } } }
    (∀ cause activity, cause < 256 → activity ≤ 65536 → x.st = 0 → s.m.power.deep = 0 → x.priming = false → s.m.power.brake = false →
      1 ≤ cause → cause ≤ 3 → bitOf s.m.power.primeEn (cause - 1) = true → primeHolds s.m d cause = true →
      (cause ≠ 2 ∨ 16384 ≤ activity) → 1024 ≤ activity →
      ∃ t, exec (.primingStart d cause activity) s = .next t
        ∧ only t { x with priming := true, level := activity / 1024, cause := cause, rampDown := false, job := primeJob s.m d cause })
    ∧ (x.priming = true →
      (x.rampDown = true ∨ primeHolds s.m d x.cause = false →
        (2 ≤ x.level → ∃ t, exec (.primingStepDown d) s = .next t ∧ only t { x with level := x.level - 1, rampDown := true })
        ∧ (x.level ≤ 1 → ∃ t, exec (.primingStepDown d) s = .next t ∧ only t { x with priming := false, level := 0, rampDown := false }))
      ∧ ∃ t, exec (.primeLimitTimeout d) s = .next t ∧ only t { x with rampDown := true })
    ∧ (∃ t, exec (.vcoreDroop d) s = .next t ∧ t.m.power.droops = min (s.m.power.droops + 1) 65535
        ∧ (∀ k, pdieAt t.m k = if k = d then { x with droopUntil := s.m.cycle + 64 } else pdieAt s.m k)
        ∧ t = { s with m := { s.m with power := { s.m.power with dies := t.m.power.dies, droops := t.m.power.droops } } }))
  ∧ (∀ s : State,
    (s.m.sys.st ≠ .off → s.m.power.brake = false → ∃ t, exec .powerBrakeAssert s = .next t
      ∧ t.m.power = { s.m.power with
          brakePin := true, brake := true, brakeAck := true, brakeHold := false, brakeStart := s.m.cycle
          brakes := min (s.m.power.brakes + 1) 65535, dies := t.m.power.dies }
      ∧ (∀ d, pdieAt t.m d = { pdieAt s.m d with priming := false, level := 0, rampDown := false })
      ∧ (∀ d < 8, ∀ a < 48, arrayAt t.m d a = if (pdieAt s.m d).st < 2 then { arrayAt s.m d a with braked := true, ramped := false } else arrayAt s.m d a)
      ∧ t = { s with m := { s.m with power := t.m.power, arrays := t.m.arrays } })
    ∧ (s.m.power.brake = true → ∃ t, exec .powerBrakeRelease s = .next t
      ∧ t.m.ctl.evq = s.m.ctl.evq ++ [(none, { etype := 0x0905, part := 0, stroke := s.m.ctl.localStroke
                                               payload := leBytes 8 (s.m.cycle - s.m.power.brakeStart) })]
      ∧ t = { s with m := { s.m with
          power := { s.m.power with brakePin := false, brake := false, brakeAck := false, brakeHold := true }, ctl := { s.m.ctl with evq := t.m.ctl.evq } } })
    ∧ exec .brakeHoldEnd s = .next { s with m := { s.m with power := { s.m.power with brakeHold := false } } })

/-- R300 to R302, R572, R635, R648, R649, R721, R723: what the sensors and alarms do: a die at its threshold loses a step of duty each tick
and gains one 4 °C below it; a hot stack throttles, decays and refreshes twice as often; packages and the aquifer follow their
thresholds; the coolant's flags keep their hysteresis; a regulator's alarm is kept, counted and reported; the risk estimate is the
weighted sum of its scores.
The readings that it takes are those of log entry 21. -/
def Obligations.SensorsAndAlarms : Prop :=
  ∀ s : State,
    (∀ d temp x, d < 8 → temp < 256 → pdieAt s.m d = x →
      let only : State → PwrDie → Prop := fun t y => (∀ k, pdieAt t.m k = if k = d then y else pdieAt s.m k)
        ∧ t = { s with m := { s.m with power := { s.m.power with dies := t.m.power.dies }, ctl := { s.m.ctl with evq := t.m.ctl.evq } } }
      let event : State → Nat → Nat → Prop := fun t duty edge => (none, ({
        etype := 0x0904, part := 0, stroke := s.m.ctl.localStroke
        payload := leBytes 1 d ++ leBytes 1 temp ++ leBytes 1 duty ++ leBytes 1 edge } : Event)) ∈ t.m.ctl.evq
      (∀ duty, x.thr ≤ temp → max 8 (x.thermDuty - 1) = duty → ∃ t, exec (.thermalDutyTick d temp) s = .next t
        ∧ only t { x with temp := temp, thermDuty := duty, throttling := true }
        ∧ (x.throttling = true → t.m.ctl.evq = s.m.ctl.evq) ∧ (x.throttling = false → event t (min x.capDuty duty) 0))
      ∧ (temp + 4 ≤ x.thr → x.thermDuty < 64 → ∃ t, exec (.thermalDutyTick d temp) s = .next t
        ∧ only t { x with temp := temp, thermDuty := x.thermDuty + 1, throttling := decide (x.thermDuty + 1 < 64) }
        ∧ (x.thermDuty < 63 → t.m.ctl.evq = s.m.ctl.evq) ∧ (x.thermDuty = 63 → event t (min x.capDuty 64) 1))
      ∧ (temp < x.thr → x.thr ≤ temp + 3 ∨ 64 ≤ x.thermDuty → ∃ t, exec (.thermalDutyTick d temp) s = .next t
        ∧ only t { x with temp := temp } ∧ t.m.ctl.evq = s.m.ctl.evq))
    ∧ (∀ k x, k < 16 → stackAt s.m k = x →
      let only : State → Stack → Prop := fun t y => (∀ j, stackAt t.m j = if j = k then y else stackAt s.m j)
        ∧ t = { s with m := { s.m with mem := { s.m.mem with hbm := t.m.mem.hbm }, ctl := { s.m.ctl with evq := t.m.ctl.evq } } }
      let event : State → Nat → Nat → Nat → Prop := fun t old new temp => t.m.ctl.evq = s.m.ctl.evq ++ [(none, {
        etype := 0x0207, part := 0, stroke := s.m.ctl.localStroke
        payload := leBytes 1 k ++ leBytes 1 old ++ leBytes 1 new ++ leBytes 1 temp })]
      (∀ temp level, temp < 256 → (if x.thrStart ≤ temp then min 7 (x.level + 1) else x.level) = level →
        ∃ t, exec (.stackTempRead k temp) s = .next t ∧ only t { x with temp := temp, refresh2x := decide (85 < temp), level := level }
          ∧ (x.level = 0 → level ≠ 0 → event t 0 level temp) ∧ (x.level ≠ 0 ∨ level = 0 → t.m.ctl.evq = s.m.ctl.evq))
      ∧ (0 < x.level → x.temp + x.hyst < x.thrStart → ∃ t, exec (.stackThrottleDecay k) s = .next t
        ∧ only t { x with level := x.level - 1 } ∧ (x.level = 1 → event t 1 0 x.temp) ∧ (x.level ≠ 1 → t.m.ctl.evq = s.m.ctl.evq)))
    ∧ (∀ unit temp, unit < 65536 → temp < 256 →
      (∃ t, exec (.thermalThresholdCrossed 0 unit temp) s = .next t ∧ tget false t.m.power.ioHot unit = decide (105 ≤ temp)
        ∧ (∀ k, k ≠ unit → tget false t.m.power.ioHot k = tget false s.m.power.ioHot k)
        ∧ t = { s with m := { s.m with power := { s.m.power with ioHot := t.m.power.ioHot } } })
      ∧ (∃ t, exec (.thermalThresholdCrossed 1 unit temp) s = .next t
        ∧ (∀ k, tget {} t.m.mem.cis k = if k = unit
            then { tget {} s.m.mem.cis k with temp := temp, refresh2x := decide (85 ≤ temp), halfRate := decide (95 ≤ temp) }
            else tget {} s.m.mem.cis k)
        ∧ t = { s with m := { s.m with mem := { s.m.mem with cis := t.m.mem.cis } } })
      ∧ exec (.thermalThresholdCrossed 2 unit temp) s = .next { s with m := { s.m with mem := { s.m.mem with aq := { s.m.mem.aq with
          throttle := if 85 ≤ temp ∨ (s.m.mem.aq.throttle = 2 ∧ 80 < temp) then 2 else if 75 ≤ temp then 1 else 0 } } } })
    ∧ (∀ inlet outlet wet hot, wfCoolantSensorTick inlet outlet wet = true →
      (decide (60 ≤ outlet) || (s.m.power.hot && decide (57 ≤ outlet))) = hot →
      ∃ t, exec (.coolantSensorTick inlet outlet wet) s = .next t
        ∧ t.m.ctl.evq = (if hot = s.m.power.hot ∧ wet = s.m.power.leak then s.m.ctl.evq else s.m.ctl.evq ++ [(none, {
            etype := 0x0907, part := 0, stroke := s.m.ctl.localStroke
            payload := leBytes 1 inlet ++ leBytes 1 outlet ++ leBytes 1 (if hot then 1 else 0) ++ leBytes 1 (if wet then 1 else 0) })])
        ∧ t = { s with m := { s.m with
            power := { s.m.power with inlet := inlet, outlet := outlet, hot := hot, leak := wet }, ctl := { s.m.ctl with evq := t.m.ctl.evq } } })
    ∧ (∀ rail alarm value, wfRegulatorAlarm rail alarm value true = true → s.m.sys.st ≠ .off → rail < 32 →
      ∃ t, exec (.regulatorAlarm rail alarm value true) s = .next t
        ∧ t.m.power.alarms = min (s.m.power.alarms + 1) 65535
        ∧ (∀ r, railAt t.m r = if r = rail then { railAt s.m r with alarm := (railAt s.m r).alarm ||| 2 ^ alarm } else railAt s.m r)
        ∧ (∀ d, pdieAt t.m d = if alarm = 2 ∧ rail < 8 ∧ d = rail then { pdieAt s.m d with droopUntil := s.m.cycle + 64 } else pdieAt s.m d)
        ∧ t.m.ctl.evq = s.m.ctl.evq ++ [(none, {
            etype := 0x0903, part := 0, stroke := s.m.ctl.localStroke
            payload := leBytes 1 rail ++ leBytes 1 alarm ++ zeros 2 ++ leBytes 4 value })]
        ∧ t = { s with m := { s.m with
            ctl := { s.m.ctl with evq := t.m.ctl.evq }, sys := { s.m.sys with riskWin := t.m.sys.riskWin }
            power := { s.m.power with
              alarms := t.m.power.alarms, rails := t.m.power.rails, droops := t.m.power.droops, dies := t.m.power.dies } } })
    ∧ (∀ e n w m ss, s.m.jobs = [] → s.m.sys.riskMs < 999 → s.m.sys.hourMs < 3599999 → linkFaults s.m - s.m.sys.riskLinks = n →
      (if n = 0 then s.m.sys.riskWin else (riskHit s.m 2 n).sys.riskWin) = w →
      { s.m with sys := { s.m.sys with riskWin := w } } = m → riskScoresOf m = ss →
      min 255 (((List.range 7).map (fun i => nth 0 s.m.sys.riskWeights i * nth 0 ss i)).sum / 256) = e →
      exec .riskEstimateTick s = .next { s with m := { m with sys := { m.sys with
        riskMs := s.m.sys.riskMs + 1, hourMs := s.m.sys.hourMs + 1, riskLinks := linkFaults s.m, riskScores := ss, estimate := e
        peak := max s.m.sys.peak e, top := riskTop s.m.sys.riskWeights ss } } })

/-- R621 to R628, R280, R696: a requested power state that has been reached: the named dies are in it, a die in P2 or deeper has lost the
work of its units, one deeper than P2 also its scratchpad, and the reply that waited is staged; where the state's conditions no longer
hold the command fails (the model's choice); a die or a module that work reaches
wakes to P0 and says so; a restart from P5 that fails a check takes the module to FAILED with a record of it, and one that passes
clears the cistern.
The readings that it takes are those of log entry 21. -/
def Obligations.PowerStates : Prop :=
  ∀ s : State,
    (∀ target dies l w, s.m.power.target = (target, dies) :: l → s.m.power.restarting = false → s.m.ctl.waits = [w] → w.why = .powerState →
      let reply : State → Prop := fun t => t.m.ctl.waits = [] ∧ ∃ r, t.m.ctl.replies = s.m.ctl.replies ++ [r] ∧ r.mb = w.reply.mb
        ∧ r.status = (if (targetErr s.m target dies).isSome = true then 0x1001 else w.reply.status)
        ∧ r.due = max w.reply.due (strokeOf s.m w.reply.slot)
      ((targetErr s.m target dies).isSome = true → ∃ t, exec .powerStateReached s = .next t ∧ reply t
        ∧ t = { s with m := { s.m with
            power := { s.m.power with target := l }
            ctl := { s.m.ctl with waits := t.m.ctl.waits, replies := t.m.ctl.replies } } })
      ∧ (targetErr s.m target dies = none → target ≤ 2 → s.m.power.deep = 0 → powerState s.m < 3 → ∃ t, exec .powerStateReached s = .next t ∧ reply t ∧ t.m.power.target = l
        ∧ (∀ d < 8, (pdieAt t.m d).st = if bitOf dies d = true then target else (pdieAt s.m d).st)
        ∧ (∀ d v, d < 8 → v < 128 → veAt t.m d v = if target = 2 ∧ bitOf dies d = true then {} else veAt s.m d v)
        ∧ (∀ d b, bankAt t.m d b = bankAt s.m d b)
        ∧ t = { s with m := { s.m with
            power := { s.m.power with target := l, dies := t.m.power.dies }
            ves := t.m.ves, arrays := t.m.arrays, dmas := t.m.dmas
            ctl := { s.m.ctl with waits := t.m.ctl.waits, replies := t.m.ctl.replies, evq := t.m.ctl.evq } } })
      ∧ (targetErr s.m target dies = none → 3 ≤ target → s.m.power.deep ≠ 4 ∨ target ≠ 3 → s.m.posted = [] → ∃ t, exec .powerStateReached s = .next t ∧ reply t ∧ powerState t.m = target
        ∧ (∀ d < 8, (pdieAt t.m d).st = 3 ∧ (∀ v < 128, veAt t.m d v = {}) ∧ (∀ b < 160, bankAt t.m d b = {})
            ∧ ∀ i < 0x0A000000, memByte t.m.mem (bankAddr d 0 + i) = 0)
        ∧ (∀ a, isExtMem a = true → memByte t.m.mem a = memByte s.m.mem a)
        ∧ t.m.jobs = s.m.jobs ∧ t.nv = s.nv ∧ t.m.sys = s.m.sys))
    ∧ (∀ d st, d < 8 → s.m.power.deep = 0 → (pdieAt s.m d).st = st → (st = 1 ∨ st = 2) → powerState s.m < 3 →
      ∃ t, exec (.dieWake d) s = .next t ∧ (∀ k, pdieAt t.m k = if k = d then { pdieAt s.m d with st := 0 } else pdieAt s.m k)
        ∧ t.m.ctl.evq = s.m.ctl.evq ++ [(none, {
            etype := 0x0901, part := 0, stroke := s.m.ctl.localStroke
            payload := leBytes 1 st ++ leBytes 1 0 ++ leBytes 1 (2 ^ d) ++ leBytes 1 1 })]
        ∧ t = { s with m := { s.m with
            power := { s.m.power with dies := t.m.power.dies }, ctl := { s.m.ctl with evq := t.m.ctl.evq } } })
    ∧ (s.m.power.deep = 3 → (∀ d < 8, (pdieAt s.m d).st = 3) → ∃ t, exec .p3PacketWake s = .next t ∧ powerState t.m = 0
        ∧ (∀ d < 8, pdieAt t.m d = { pdieAt s.m d with st := 0 }) ∧ t.m.mem = s.m.mem ∧ t.m.jobs = s.m.jobs ∧ t.nv = s.nv
        ∧ (∃ e, t.m.ctl.evq.getLast? = some (none, e) ∧ e.etype = 0x0901
            ∧ e.payload = leBytes 1 3 ++ leBytes 1 0 ++ leBytes 1 255 ++ leBytes 1 1))
    ∧ (∀ reason, wfP5WakeRestart reason = true → s.m.power.restarting = true →
      (reason ≠ 0 → s.m.sys.st = .ready → ∃ t, exec (.p5WakeRestart reason) s = .next t ∧ t.nv = appendRecord s.nv 0x33 reason
        ∧ t.m.sys.st = .failed ∧ t.m.sys.failedReason = 0x33 ∧ t.m.power.restarting = false)
      ∧ (reason = 0 → flashReason s.nv = 0 → flashBadSegment s.nv = none → ∃ t, exec (.p5WakeRestart reason) s = .next t
        ∧ t.nv = burnFuses s.nv ∧ t.m.power.restarting = false ∧ t.m.sys.st = s.m.sys.st
        ∧ (∀ a, isExtMem a = true → memByte t.m.mem a = 0)
        ∧ (∀ i < 1048576, 1048576 + i ∉ s.m.mem.retired → 1048576 + i ∈ t.m.mem.clearing)))

/-- R82, R83, R114, R115, R302, R648, R712, R715, R717, R718: the module goes FAILED when its wellhead does not respond, at an
uncontained fault and at a critical temperature, and answers UNIT_FAULT to every mailbox that its wellhead had taken; it is OFF
while RESET_N is held low or the input is outside its limits, and enters BOOT, with nothing left of what it ran, when power comes
and when RESET_N rises, braked where POWER_BRAKE is asserted (R713); the FRU memory answers while its own supply is there.
The readings that it takes are those of log entry 21 and 22. -/
def Obligations.PinsAndFailure : Prop :=
  ∀ s : State,
    let failed : State → Nat → Prop := fun t reason => t.m.sys.st = .failed ∧ t.m.sys.failedReason = reason ∧ t.nv = s.nv ∧ t.m.mem = s.m.mem
      ∧ (∀ mb < 256, takenIn s.m mb = true → mbField t.m mb 16 2 = 0x5001 ∧ mbOwned t.m mb = false)
      ∧ t.m.ctl.replies = [] ∧ t.m.ctl.waits = [] ∧ t.m.ctl.accepted = []
    let cleared : State → Prop := fun t => t.m.jobs = [] ∧ t.m.ves = [] ∧ t.m.banks = [] ∧ t.m.colls = [] ∧ t.m.mem.bytes = []
      ∧ t.m.mem.aq.extents = s.m.mem.aq.extents ∧ t.m.power.dies = [] ∧ capWatts t.m = 6000 ∧ t.m.net.position = none
    let braked : State → Prop := fun t => (s.m.power.brakePin = false → t.m.arrays = []) ∧ (s.m.power.brakePin = true → t.m.power.brake = true)
    (s.m.sys.st ≠ .off → s.m.sys.st ≠ .minimal → s.m.sys.st ≠ .failed →
      (∃ t, exec .wellheadUnresponsive s = .next t ∧ failed t 0x30)
      ∧ (∀ unit, wfUncontainedFault unit = true → ∃ t, exec (.uncontainedFault unit) s = .next t ∧ failed t 0x31)
      ∧ (∀ sensor temp, wfCriticalTemp sensor temp = true → sensor < 59 →
          (criticalAt sensor ≤ temp → ∃ t, exec (.criticalTemp sensor temp) s = .next t ∧ failed t 0x32)
          ∧ (temp < criticalAt sensor → exec (.criticalTemp sensor temp) s = .next s)))
    ∧ (committing s.m = false → ∃ t, exec .inputShutdown s = .next t ∧ t.nv = s.nv ∧ cleared t ∧ t.m.arrays = [] ∧ t.m.sys.st = .off ∧ t.m.sys.inputOk = false)
    ∧ (committing s.m = false → ∃ t, exec .resetNLow s = .next t ∧ t.nv = s.nv ∧ cleared t ∧ t.m.arrays = [] ∧ t.m.sys.st = .off ∧ t.m.sys.resetLow = true)
    ∧ (committing s.m = false → s.m.sys.st = .off → s.m.sys.resetLow = false →
        ∃ t, exec .powerOn s = .next t ∧ t.nv = s.nv ∧ cleared t ∧ braked t ∧ t.m.sys.st = .boot
        ∧ t.m.sys.startStep = 0 ∧ t.m.sys.inputOk = true)
    ∧ (committing s.m = false → s.m.sys.inputOk = true → ∃ t, exec .resetNHigh s = .next t ∧ cleared t ∧ braked t ∧ t.m.sys.st = .boot ∧ t.m.sys.startStep = 0
        ∧ t.m.sys.resetLow = false
        ∧ t.nv = (if s.m.sys.st ≠ .off ∧ startRuns s.m = true then changeLast s.nv (fun r => { r with reason := 0x22, detail := 0 }) else s.nv))
    ∧ (s.m.sys.inputOk = false → ∃ t, exec .resetNHigh s = .next t
        ∧ t = { s with m := { s.m with sys := { s.m.sys with resetLow := false } } })
    ∧ (∀ offset len, wfSmbFruRead offset len = true → s.m.sys.aux = true →
      exec (.smbFruRead offset len) s = .next { s with m := { s.m with
        out := s.m.out ++ [.fruData ((List.range len).map (fun i => Config.fruByte (offset + i)))] } })

/-- R687, R691 to R694: a start runs its steps in order: its record is appended, the image is checked, the repair record is applied, the
columns are taken, memory is cleared, and the module is READY with its fuses burnt; a step that fails, a failure that is reported and
the watchdog end it with their reason; after 100 ms a new start begins, or the minimal service once three starts have failed.
The readings that it takes are those of log entry 22. -/
def Obligations.StartsAndTheirFailures : Prop :=
  ∀ s : State,
    (s.m.sys.st = .boot → s.m.sys.startWait = false → ∀ fails,
      let step : State → Prop := fun t => t.m.sys.startStep = s.m.sys.startStep + 1 ∧ t.m.sys.st = .boot
      (s.m.sys.startStep = 0 → ∃ t, exec (.startStep fails) s = .next t ∧ step t ∧ t.nv = appendRecord s.nv 0xFFFF 0xFFFF
        ∧ ∀ l < 32, (linkAt s.m l).enabled = true → (linkAt s.m l).st = .off ∨ (linkAt s.m l).st = .failed → (linkAt t.m l).st = .training)
      ∧ (s.m.sys.startStep = 1 → flashReason s.nv = 0 → ∃ t, exec (.startStep fails) s = .next t ∧ step t ∧ t.nv = s.nv)
      ∧ (s.m.sys.startStep = 1 → ∀ r, flashReason s.nv = r → r ≠ 0 → exec (.startStep fails) s = .next { s with
          nv := changeLast s.nv (fun x => { x with reason := r, detail := 0 }), m := { s.m with sys := { s.m.sys with startWait := true } } })
      ∧ (s.m.sys.startStep = 2 → flashBadSegment s.nv = none → ∃ t, exec (.startStep fails) s = .next t ∧ step t ∧ t.nv = s.nv)
      ∧ (s.m.sys.startStep = 2 → ∀ i, flashBadSegment s.nv = some i → exec (.startStep fails) s = .next { s with
          nv := changeLast s.nv (fun x => { x with reason := 6, detail := i }), m := { s.m with sys := { s.m.sys with startWait := true } } })
      ∧ (s.m.sys.startStep = 3 → ∃ t, exec (.startStep fails) s = .next t ∧ step t ∧ t.nv = s.nv ∧ t.m.mem.rowRecord = []
          ∧ t.m.mem.retirePending = []
          ∧ (∀ x, s.m.mem.rowRecord = [x] → x.soft = false → bankSpares s.m.mem x = 0 →
              ∀ g ∈ Config.rowSegments x.kind x.unit x.bank x.row, g ∈ t.m.mem.retired)
          ∧ ∀ g ∈ s.m.mem.retired, g ∈ t.m.mem.retired)
      ∧ (s.m.sys.startStep = 4 → ∃ t, exec (.startStep fails) s = .next t ∧ step t ∧ t.nv = s.nv
          ∧ ∀ c ∈ fails, c < 384 * 256 → c % 256 ∈ tget [] t.m.sys.colRecord (c / 256))
      ∧ (s.m.sys.startStep = 5 → ∃ t, exec (.startStep fails) s = .next t ∧ step t ∧ t.nv = s.nv ∧ (∀ a, memByte t.m.mem a = 0)
          ∧ t.m.mem.poison = [] ∧ t.m.mem.lines = [] ∧ t.m.banks = [])
      ∧ (s.m.sys.startStep = 6 → ∃ t n, exec (.startStep fails) s = .next t ∧ t.m.sys.st = .ready ∧ t.m.sys.startStep = 7
          ∧ t.m.ctl.localStroke = 0 ∧ t.nv = burnFuses (changeLast s.nv (fun x => { x with reason := 0, detail := 0, ticks := n }))))
    ∧ (startRuns s.m = true →
      (∀ reason detail, (Instr.startFailed reason detail).wf = true → reason ∈ [1, 2, 3, 4, 5, 6, 7, 8, 0x10, 0x11, 0x12] →
        exec (.startFailed reason detail) s = .next { s with
          nv := changeLast s.nv (fun x => { x with reason := reason, detail := detail })
          m := { s.m with sys := { s.m.sys with startWait := true } } })
      ∧ exec .startWatchdog s = .next { s with
          nv := changeLast s.nv (fun x => { x with reason := 0x20, detail := 0 }), m := { s.m with sys := { s.m.sys with startWait := true } } })
    ∧ (s.m.sys.st = .boot → s.m.sys.startWait = true →
      (failedStarts s.nv s.m < 3 → committing s.m = false → ∃ t, exec .startWaitEnd s = .next t ∧ t.m.sys.st = .boot ∧ t.m.sys.startWait = false
        ∧ t.m.sys.startStep = 0 ∧ t.nv = s.nv)
      ∧ (3 ≤ failedStarts s.nv s.m → exec .startWaitEnd s = .next { s with m := { s.m with sys := { s.m.sys with
          st := .minimal, startWait := false, svcUp := false } } }))
    ∧ (s.m.sys.st = .minimal → exec .minimalServiceUp s = .next { s with m := { s.m with sys := { s.m.sys with svcUp := true } } })

/-- R74, R697, R698: the commands of an image session wait for the boundary of the local stroke. There a session begins by erasing the
sectors up to LENGTH and programming the segment table, and takes pages in the order of acceptance; it ends when its read-back agrees,
by programming the header page last; a read-back that differs and an operation that fails end the session and leave no header.
The readings that it takes are those of log entry 22. -/
def Obligations.ImageService : Prop :=
  ∀ s : State, s.m.sys.st ≠ .off →
    let taken : Instr → CmdSpec → Prop := fun i c => i.wf = true → unreached s.m c.opcode c.mb = false → acceptErr c s.m = none →
      exec i s = .next { s with m := queueCmd c s.m }
    (∀ mb flags head, taken (.imageBegin mb flags head) (specImageBegin s.nv mb flags head))
    ∧ (∀ mb offset data, taken (.imageWrite mb offset data) (specImageWrite mb offset data))
    ∧ (∀ mb, taken (.imageCommit mb) (specImageCommit mb))
    ∧ (∀ (m : Dev) (a : Accepted) (mb : Nat), s.m.sys.st ∈ [.minimal, .ready, .active, .quiesced] → acceptedOf (localEnds s.m) none = [a] →
      m = updCtl (localEnds s.m) (fun t => { t with accepted := t.accepted.erase a }) → m.ctl.waiting = [] → m.sys.deferredReset = none →
      let staged : State → Session → Prop := fun t x => t.pending = s.pending
        ∧ t.m = { m with sys := { m.sys with session := some x }, ctl := { m.ctl with holds := t.m.ctl.holds, waits := t.m.ctl.waits } }
        ∧ ∃ w, t.m.ctl.waits = m.ctl.waits ++ [w] ∧ w.why = .flash ∧ w.reply.mb = mb ∧ w.reply.status = 0 ∧ w.reply.accept = a.stroke
      (∀ flags head n, a.cmd = .imageBegin mb flags head → recheckErr (specImageBegin s.nv mb flags head) m = none → headReason s.nv head = 0 →
        (recField head 16 8 + 65535) / 65536 * 65536 = n →
        ∃ t, exec .localStrokeTick s = .next t
          ∧ staged t { head := head, length := recField head 16 8, ops := sessionOps m ++ [.erase] }
          ∧ t.nv = { s.nv with shipped := false, flash := t.nv.flash }
          ∧ (∀ k, 256 ≤ k → k < 1280 → tget 0xFF t.nv.flash k = head.getD k 0)
          ∧ (∀ k, k < n → k < 256 ∨ 1280 ≤ k → tget 0xFF t.nv.flash k = 0xFF)
          ∧ (∀ k, n ≤ k → 1280 ≤ k → tget 0xFF t.nv.flash k = tget 0xFF s.nv.flash k))
      ∧ (∀ offset data x, a.cmd = .imageWrite mb offset data → recheckErr (specImageWrite mb offset data) m = none →
        m.sys.session = some x →
        ∃ t, exec .localStrokeTick s = .next t
          ∧ staged t { x with
              pages := x.pages ++ (List.range (data.length / 256)).map (fun i => offset + 256 * i), ops := x.ops ++ [.program] }
          ∧ t.nv = { s.nv with flash := t.nv.flash }
          ∧ (∀ i (h : i < data.length), tget 0xFF t.nv.flash (offset + i) = data[i])
          ∧ (∀ k, k < offset ∨ offset + data.length ≤ k → tget 0xFF t.nv.flash k = tget 0xFF s.nv.flash k))
      ∧ (∀ x, a.cmd = .imageCommit mb → recheckErr (specImageCommit mb) m = none → m.sys.session = some x →
        ∃ t, exec .localStrokeTick s = .next t ∧ staged t { x with committing := true, ops := x.ops ++ [.readBack] } ∧ t.nv = s.nv))
    ∧ (∀ x op l w, s.m.sys.session = some x → x.ops = op :: l → s.m.ctl.waits = [w] → w.why = .flash →
      let ends : State → Option Session → Nat → Prop := fun t y status => t.m.sys = { s.m.sys with session := y } ∧ t.m.ctl.waits = []
        ∧ (∃ r, t.m.ctl.replies = s.m.ctl.replies ++ [r] ∧ r.mb = w.reply.mb ∧ r.status = (if status = 0 then w.reply.status else status))
        ∧ t = { s with nv := t.nv, m := { s.m with sys := t.m.sys, ctl := { s.m.ctl with waits := [], replies := t.m.ctl.replies } } }
      (op ≠ .readBack → ∃ t, exec (.flashOperationDone true) s = .next t ∧ ends t (some { x with ops := l }) 0 ∧ t.nv = s.nv)
      ∧ (op = .readBack → badSegment s.nv x.head = none → x.head.length = 1280 → ∃ t, exec (.flashOperationDone true) s = .next t
          ∧ ends t none 0 ∧ t.nv = { s.nv with flash := t.nv.flash }
          ∧ (∀ a, a < 256 → tget 0xFF t.nv.flash a = x.head.getD a 0)
          ∧ ∀ a, 256 ≤ a → tget 0xFF t.nv.flash a = tget 0xFF s.nv.flash a)
      ∧ (op = .readBack → badSegment s.nv x.head ≠ none → ∃ t, exec (.flashOperationDone true) s = .next t ∧ ends t none 0x4002 ∧ t.nv = s.nv)
      ∧ (l = [] → ∃ t, exec (.flashOperationDone false) s = .next t ∧ ends t none 0x5002 ∧ t.nv = s.nv))

/-- R74, R113, R115, R699, R702 to R705: MODULE_RESET waits for the boundary of the local stroke, or is applied at once where no strokes
run; it is answered, and the module enters BOOT, with RESET_IN_PROGRESS in the other mailboxes it holds; ATTEST gives its report to the
identity engine, whose signature goes out with the certificates, or with a TAKEOVER to its spare; BOOT_STATUS answers at once.
The readings that it takes are those of log entry 22. -/
def Obligations.ResetAndAttestation : Prop :=
  ∀ s : State, s.m.sys.st ≠ .off →
    let reset : Dev → Nat → State → Prop := fun m mb t => t.m.sys.st = .boot ∧ t.m.sys.startStep = 0 ∧ t.m.jobs = [] ∧ t.m.colls = []
      ∧ t.m.ctl.accepted = [] ∧ t.nv = (if startRuns m = true then changeLast s.nv (fun r => { r with reason := 0x22, detail := 0 }) else s.nv)
      ∧ mbField t.m mb 16 2 = 0 ∧ mbOwned t.m mb = false
      ∧ ∀ k < 256, k ≠ mb → mbOwned m k = true → mbField t.m k 16 2 = 0x6003 ∧ mbOwned t.m k = false
    (∀ mb flags c, specModuleReset mb flags = c → (Instr.moduleReset mb flags).wf = true → unreached s.m c.opcode mb = false →
      acceptErr c s.m = none →
      (noStrokes s.m = false → exec (.moduleReset mb flags) s = .next { s with m := queueCmd c s.m })
      ∧ (noStrokes s.m = true → committing s.m = false → ∃ t, exec (.moduleReset mb flags) s = .next t ∧ reset s.m mb t))
    ∧ (∀ mb flags (m : Dev) (a : Accepted), mb < 256 → s.m.sys.st ∈ [.minimal, .ready, .active, .quiesced] →
      acceptedOf (localEnds s.m) none = [a] → a.cmd = .moduleReset mb flags →
      m = updCtl (localEnds s.m) (fun t => { t with accepted := t.accepted.erase a }) → recheckErr (specModuleReset mb flags) m = none →
      committing m = false → ∃ t, exec .localStrokeTick s = .next t ∧ reset m mb t)
    ∧ (∀ mb nonce jobId c, (Instr.attest mb nonce jobId).wf = true → specAttest s.nv mb nonce jobId = c → unreached s.m c.opcode mb = false →
      acceptErr c s.m = none →
      exec (.attest mb nonce jobId) s = .next { s with m := { s.m with sys := { s.m.sys with
        signing := s.m.sys.signing ++ [(attestReport s.nv (reported c s.m) (mb / 32) nonce jobId, some mb,
          b2n (specStream c s.m).isSome + 2 * strokeOf s.m (specStream c s.m))] } } })
    ∧ (∀ mb c, mb < 256 → specBootStatus s.nv mb = c → unreached s.m c.opcode mb = false → acceptErr c s.m = none →
      ∃ t, exec (.bootStatus mb) s = .next t ∧ t.nv = s.nv ∧ mbField t.m mb 16 2 = 0 ∧ mbOwned t.m mb = false
        ∧ (∀ b, (c.apply (reported c s.m)).body = b → ∀ i (h : i < b.length), cwByte t.m (mb * 4096 + 64 + i) = b[i])
        ∧ t.m = { s.m with ctl := { s.m.ctl with cw := t.m.ctl.cw, areas := t.m.ctl.areas }, out := t.m.out })
    ∧ (∀ p mb x l, s.m.sys.signing = (p, some mb, x) :: l → ∃ t, exec .identitySignatureDone s = .next t ∧ t.nv = s.nv
        ∧ t.m.sys = { s.m.sys with signing := l } ∧ mbField t.m mb 16 2 = 0 ∧ mbOwned t.m mb = false
        ∧ (∀ b, p ++ identitySignature p ++ zeros 14 ++ ownChain = b → ∀ i (h : i < b.length), cwByte t.m (mb * 4096 + 64 + i) = b[i])
        ∧ t.m = { s.m with sys := t.m.sys, ctl := { s.m.ctl with cw := t.m.ctl.cw, areas := t.m.ctl.areas }, out := t.m.out })
    ∧ (∀ p d l o, s.m.sys.signing = (p, none, d) :: l → routeLink s.m d = some o → (linkAt s.m o).takes 6 296 = true →
      ∃ t, exec .identitySignatureDone s = .next t ∧ sentOn s.m t.m o 6 296
        ∧ t = { s with m := { s.m with
            sys := { s.m.sys with signing := l }, net := { s.m.net with links := t.m.net.links }
            out := s.m.out ++ [.packet o (controlPacket s.m d (padTo 256 (p ++ identitySignature p)))] } })

/-- R66, R69, R70, R71, R72: a member votes once in a stroke; its vote, joined with those of its DOWN links, goes up when the last of them
is in; a child that does not vote in time counts as a STRETCH of its position and is reported, and a vote of it that comes later changes
nothing; a module that is no member joins the votes of its links alone; a stretch begins the votes anew and goes down the tree; at the
limit the origin declares what the votes name failed. The voters that a member other than the origin records with a stretch are the model's
choice (log entry 24). -/
def Obligations.VotesAndStretches : Prop :=
  ∀ (s : State) (slot : Nat) (j : Job) (e : TreeEntry), forwarding s.m = true → s.m.jobs = [(slot, j)] → slot < 16 → j.started = true →
    treeOf s.m e.tree = some e → (∀ l, linkUp (linkAt s.m l) = true → (linkAt s.m l).takesFlit = true) →
    let c := j.stroke % 65536
    let above : List Nat := if linkUp (linkAt s.m e.up) = true then [e.up] else []
    let below : List Nat := (bitsOf 32 e.down).filter (fun l => linkUp (linkAt s.m l))
    let mine : Bool → Bool × Nat × Nat := fun v => (v, if v then j.self else 65535, b2n v)
    let still : Instr → Job → Tab (Nat × Bool × Nat × Nat) → Prop := fun i y votes => exec i s = .next { s with m := { s.m with
      jobs := [(slot, y)], net := { s.m.net with votes := votes } } }
    let sends : Instr → Job → Tab (Nat × Bool × Nat × Nat) → List Nat → Flit → Prop := fun i y votes ls f => ∃ t, exec i s = .next t
      ∧ framedOn s.m t.m ls
      ∧ t = { s with m := { s.m with
          jobs := [(slot, y)], net := { s.m.net with votes := votes, links := t.m.net.links }
          out := s.m.out ++ ls.map (fun l => .flit l f) } }
    let dropped : Tab (Nat × Bool × Nat × Nat) → Tab (Nat × Bool × Nat × Nat) := fun v => tkeep v (fun k _ => decide (k / 32 ≠ e.tree))
    let kids : Tab (Nat × Bool × Nat × Nat) → Nat → Option (Bool × Nat × Nat) := fun votes n =>
      childVotes { s.m with net := { s.m.net with votes := votes } } e n
    let voted : Instr → Job → Bool × Nat × Nat → Tab (Nat × Bool × Nat × Nat) → Prop := fun i y v votes =>
      sends i { y with voteSent := true, combined := some v } votes above (.vote e.tree c v.1 v.2.1 v.2.2)
    (j.isOrigin = false → j.tree = some e.tree → isMember e = true → e.jobId = j.id → j.voteSent = false →
      (j.voted = false → ∀ v, stretchVote s.m slot j = v →
        let y := { j with voted := true, ownStretch := v, votedStretch := j.votedStretch || v, ownVotes := j.ownVotes + b2n v }
        (∀ k, kids s.m.net.votes c = some k → voted (.voteDeadline slot) y (joinVotes k (mine v)) s.m.net.votes)
        ∧ (kids s.m.net.votes c = none → still (.voteDeadline slot) y s.m.net.votes))
      ∧ (∀ link count vote lowest voters, (Instr.voteFlit link e.tree count vote lowest voters).wf = true →
        linkUp (linkAt s.m link) = true → bitOf e.down link = true → count % 65536 = c →
        let votes := tput s.m.net.votes (e.tree * 32 + link) (c, vote, (if vote then lowest else 65535), voters)
        let y := { j with missed := tdel j.missed link }
        let fresh : Prop := ∀ w, tfind s.m.net.votes (e.tree * 32 + link) = some w → w.1 ≠ c
        (fresh → (j.voted = false ∨ kids votes c = none) → still (.voteFlit link e.tree count vote lowest voters) y votes)
        ∧ (fresh → j.voted = true → ∀ k, kids votes c = some k →
          voted (.voteFlit link e.tree count vote lowest voters) y (joinVotes k (mine j.ownStretch)) votes)
        ∧ (¬fresh → exec (.voteFlit link e.tree count vote lowest voters) s = .next s))
      ∧ (∀ link d n o, link < 32 → j.voted = true → bitOf e.down link = true → tget 0 j.missed link = n →
        (∀ w, tfind s.m.net.votes (e.tree * 32 + link) = some w → w.1 ≠ c) → coordOf j = some d → d ≠ j.self → routeLink s.m d = some o →
        let child := (linkAt s.m link).peerPos
        let votes := tput s.m.net.votes (e.tree * 32 + link) (c, true, child, 1)
        ∃ t y, exec (.childVoteTimeout slot link) s = .next t ∧ { j with missed := tput j.missed link (n + 1) } = y
          ∧ onItsWay t.m o (controlPacket s.m d
              (recoveryPayload j 0x20 j.recov.attempt 64 (leBytes 1 (if n = 0 then 1 else 2) ++ leBytes 2 child) []))
          ∧ t = { s with m := { s.m with
              jobs := t.m.jobs, net := { s.m.net with votes := votes, links := t.m.net.links }, out := t.m.out } }
          ∧ (∀ k v, kids votes c = some k → joinVotes k (mine j.ownStretch) = v →
            t.m.jobs = [(slot, { y with voteSent := true, combined := some v })]
            ∧ (linkUp (linkAt s.m e.up) = true → flitOnItsWay t.m e.up (.vote e.tree c v.1 v.2.1 v.2.2)))
          ∧ (kids votes c = none → t.m.jobs = [(slot, y)])))
    ∧ (isMember e = false → ∀ link count vote lowest voters, (Instr.voteFlit link e.tree count vote lowest voters).wf = true →
      linkUp (linkAt s.m link) = true → bitOf e.down link = true →
      let votes := tput s.m.net.votes (e.tree * 32 + link) (count % 65536, vote, (if vote then lowest else 65535), voters)
      (∀ v, kids votes (count % 65536) = some v → sends (.voteFlit link e.tree count vote lowest voters) j (dropped votes) above
        (.vote e.tree (count % 65536) v.1 v.2.1 v.2.2))
      ∧ (kids votes (count % 65536) = none → still (.voteFlit link e.tree count vote lowest voters) j votes))
    ∧ (j.tree = some e.tree →
      let anew : Nat → Nat → Nat → Job := fun n lowest voters => { j with
        stretches := n, stretchPeriods := j.stretchPeriods + 1, lastStretch := j.stroke, lastVoter := lowest, lastVoters := voters
        voted := false, voteSent := false, ownStretch := false, combined := none }
      (∀ link n, (Instr.stretchFlit link e.tree n j.stroke).wf = true → linkUp (linkAt s.m link) = true → j.isOrigin = false →
        isMember e = true → e.jobId = j.id →
        let stretched : Nat → Nat → Prop := fun lowest voters => sends (.stretchFlit link e.tree n j.stroke) (anew n lowest voters)
          (dropped s.m.net.votes) below (.stretch e.tree n j.stroke)
        (∀ lowest voters, j.combined = some (true, lowest, voters) → stretched lowest voters)
        ∧ ((∀ lowest voters, j.combined ≠ some (true, lowest, voters)) → stretched j.lastVoter j.lastVoters))
      ∧ (∀ launches lowest voters, (Instr.originPeriodEnd slot launches).wf = true → j.isOrigin = true → j.recov.noticeSent = false →
        j.combined = some (true, lowest, voters) →
        (j.stretches < j.stretchLimit → sends (.originPeriodEnd slot launches) (anew (j.stretches + 1) lowest voters)
          (dropped s.m.net.votes) below (.stretch e.tree (j.stretches + 1) j.stroke))
        ∧ (∀ p, j.stretchLimit ≤ j.stretches → isCoord j = true → namedVoters s.m j = [p] → p ∉ unfilled j.recov →
          j.phase ≠ .recovering → ∃ t y, exec (.originPeriodEnd slot launches) s = .next t ∧ t.m.jobs = [(slot, y)]
            ∧ p ∈ y.recov.failed ∧ y.stroke = j.stroke ∧ y.stretches = j.stretches)
        ∧ (j.stretchLimit ≤ j.stretches → isCoord j = false ∨ namedVoters s.m j = [] →
          exec (.originPeriodEnd slot launches) s = .next s)))

/-- R56, R58, R61, R77, R85, R456: a boundary closes the stroke before it and opens the stroke that it counts, at the origin, which sends
its record and the boundary down the tree, and at a member, which takes it with its attachments; a member whose record is not whole drops
it; a program starts with its teams; the attachments of a record are kept until their boundary.
The readings that it takes are those of log entry 24. -/
def Obligations.BoundariesOpenStrokes : Prop :=
  ∀ (s : State) (slot : Nat) (j : Job) (e : TreeEntry), forwarding s.m = true → s.m.jobs = [(slot, j)] → slot < 16 →
    treeOf s.m e.tree = some e → (∀ l, linkUp (linkAt s.m l) = true → (linkAt s.m l).takesFlit = true) →
    let below : List Nat := (bitsOf 32 e.down).filter (fun l => linkUp (linkAt s.m l))
    let linked : Net → Dev := fun n => { s.m with net := n }
    let quiet : Prop := j.turn.next = none ∧ j.recov.next = none ∧ j.recov.mismatch = 0 ∧ j.recov.noticeSent = false ∧ j.recov.skip = false
      ∧ j.recov.spreading = false ∧ j.secure.next = none ∧ j.jobWide = none ∧ s.m.ctl.accepted = [] ∧ s.m.ctl.waiting = []
      ∧ s.m.ctl.bucketFlips = [] ∧ s.m.tinctures = [] ∧ s.m.pools = [] ∧ s.m.posts = [] ∧ ∀ l v, nth 0 (linkAt s.m l).rx v = 0
    let opened : Job → Nat → Bool → Job := fun y count stretched => { y with
      stroke := count, started := true, stretches := 0, stretchedCount := y.stretchedCount + b2n (stretched && y.started)
      voted := false, voteSent := false, ownStretch := false, votedStretch := false, combined := none, attach := [] }
    let passed : Net → Net → List Nat → Prop := fun n n' ls => framedOn s.m (linked n) ls ∧ (∀ l, linkAt (linked n') l = linkAt (linked n) l)
      ∧ n = { s.m.net with votes := tkeep s.m.net.votes (fun k _ => decide (k / 32 ≠ e.tree)), links := n.links }
      ∧ n' = { n with links := n'.links }
    let boundary : Job → Nat → Bool → List Out → Net → Net → State := fun y count stretched l n n' =>
      let m : Dev := { s.m with jobs := [(slot, y)], net := n, out := s.m.out ++ l }
      { s with m := { (if y.started then endStroke m (some slot) y.stroke stretched else m) with
        jobs := [(slot, opened y count stretched)], net := n' } }
    (quiet → j.phase = .idle → j.isOrigin = true → originTree s.m j = some e → j.stretches = 0 → ∀ launches,
      (Instr.originPeriodEnd slot launches).wf = true →
      (∀ lowest voters count, j.started = true → j.combined = some (false, lowest, voters) → (j.stroke + 1) % 2 ^ 64 = count →
        ∃ n n', passed n n' below ∧ exec (.originPeriodEnd slot launches) s = .next (boundary j count false
          (below.map (fun l => .flit l (.boundary e.tree 0 count false false))) n n'))
      ∧ (∀ count, j.started = false → mayStart j = true → j.firstStroke % 2 ^ 64 = count →
        ∃ t, exec (.originPeriodEnd slot launches) s = .next t ∧ t.m.jobs = [(slot, opened j count false)]
          ∧ t.m = { s.m with jobs := t.m.jobs, out := t.m.out, net := { s.m.net with votes := t.m.net.votes, links := t.m.net.links } }
          ∧ ∀ k, k < 32 → e.down.testBit k = true → linkUp (linkAt s.m k) = true →
              flitOnItsWay t.m k (.attach e.tree 0 (itemBytes 4 (leBytes 2 j.margin) ++ zeros 2))
              ∧ flitOnItsWay t.m k (.boundary e.tree 1 count false true))
      ∧ (j.started = false → mayStart j = false → exec (.originPeriodEnd slot launches) s = .next s))
    ∧ (∀ link, linkUp (linkAt s.m link) = true → isMember e = true → e.jobId = j.id → j.isOrigin = false →
      (j.tree = none ∨ j.tree = some e.tree) →
      (∀ natt count stretched first launches, (Instr.strokeBoundary link e.tree natt count stretched first launches).wf = true →
        let run := exec (.strokeBoundary link e.tree natt count stretched first launches) s
        let told : List Out := below.map (fun l => .flit l (.boundary e.tree natt count stretched first))
        (quiet → j.phase = .idle → natt = 0 → (stretched = true → j.votedStretch = false) →
          ∃ n n', passed n n' below ∧ run = .next (boundary { j with tree := some e.tree } count stretched told n n'))
        ∧ (quiet → j.phase = .generate → j.gen = none → j.learn.hasShard = false → natt = 0 → stretched = false → s.m.sys.st = .active →
          ∀ d v g entry, launches = [{ die := d, ve := v, team := g, entry := entry }] → bitOf (partAt s.m j.part).dies d = true →
          (pdieAt s.m d).st = 0 → (pdieAt s.m d).priming = false → tfind (veAt s.m d v).teams g = none →
          ∃ t x, run = .next t ∧ t.m.jobs = [(slot, opened { j with tree := some e.tree } count false)]
            ∧ tfind (veAt t.m d v).teams g = some x ∧ x.job = slot ∧ x.pc = entry
            ∧ (∀ d' v', (d' ≠ d ∨ v' ≠ v) → d < 8 → v < 128 → v' < 128 → veAt t.m d' v' = veAt s.m d' v') ∧ t.m.mem = s.m.mem ∧ t.nv = s.nv)
        ∧ ((j.attach.take natt).map (·.1) ≠ List.range natt → ∃ t, run = .next t ∧ framedOn s.m t.m below ∧ t = { s with m := { s.m with
            jobs := [(slot, { j with attach := [] })], net := { s.m.net with links := t.m.net.links }, out := s.m.out ++ told } }))
      ∧ (∀ index data, (Instr.attachFlit link e.tree index data).wf = true → ∃ t, exec (.attachFlit link e.tree index data) s = .next t
        ∧ framedOn s.m t.m below ∧ t = { s with m := { s.m with
            jobs := [(slot, { j with attach := tput (if index = 0 then [] else j.attach) index data })]
            net := { s.m.net with links := t.m.net.links }
            out := s.m.out ++ below.map (fun l => .flit l (.attach e.tree index data)) } }))

/-- R85, R458, R459, R585, R594, R597, R598: joins are added up and go up the tree when their count changes; the loss of the origin is
reported to the next of the succession; a declared failure goes up each tree once; when a recovery's NOTICEs are all answered the origin
carries its entry, with which the programs of the job end.
The readings that it takes are those of log entry 23 and 24. -/
def Obligations.JoinsLossesAndEntries : Prop :=
  ∀ (s : State) (slot : Nat) (j : Job), forwarding s.m = true → s.m.jobs = [(slot, j)] → slot < 16 →
    (∀ l, linkUp (linkAt s.m l) = true → (linkAt s.m l).takesFlit = true) →
    (∀ e link joined, (Instr.joinFlit link e.tree joined).wf = true → treeOf s.m e.tree = some e → linkUp (linkAt s.m link) = true →
      bitOf e.down link = true → e.up ≤ 31 →
      let m : Dev := { s.m with net := { s.m.net with joins := tset 0 s.m.net.joins (e.tree * 32 + link) joined } }
      (joinCount m e ≠ joinCount s.m e → linkUp (linkAt s.m e.up) = true → ∃ t, exec (.joinFlit link e.tree joined) s = .next t
        ∧ framedOn s.m t.m [e.up] ∧ t = { s with m := { s.m with
            net := { m.net with links := t.m.net.links }, out := s.m.out ++ [.flit e.up (.join e.tree (joinCount m e))] } })
      ∧ (joinCount m e = joinCount s.m e ∨ linkUp (linkAt s.m e.up) = false → exec (.joinFlit link e.tree joined) s = .next { s with m := m }))
    ∧ (∀ c d o, j.started = true → j.isOrigin = false → coordOf j = some c → nextCoord j = some d → d ≠ j.self → routeLink s.m d = some o →
      (linkAt s.m o).takes 6 104 = true → ∃ t, exec (.originLostTimeout slot) s = .next t ∧ sentOn s.m t.m o 6 104
        ∧ t = { s with m := { s.m with
            jobs := [(slot, { j with recov := { j.recov with addressed := some d } })], net := { s.m.net with links := t.m.net.links }
            out := s.m.out ++ [.packet o (controlPacket s.m d
              (recoveryPayload j 0x20 j.recov.attempt 64 (leBytes 1 3 ++ leBytes 2 c) []))] } })
    ∧ (∀ link position reason, (Instr.declareFlit link position reason).wf = true → linkUp (linkAt s.m link) = true →
      position ∈ j.recov.reported →
      let trees := s.m.net.trees.filter (fun e => bitOf e.down link && decide (e.up ≤ 31) && decide ((e.tree, position) ∉ s.m.net.declared))
      let ups := (trees.map (·.up)).filter (fun l => linkUp (linkAt s.m l))
      ups.Nodup → ∃ t, exec (.declareFlit link position reason) s = .next t ∧ framedOn s.m t.m ups ∧ t = { s with m := { s.m with
        ctl := { s.m.ctl with evq := s.m.ctl.evq ++ [(none, {
          etype := 0x0B64, part := 0, stroke := s.m.ctl.localStroke
          payload := leBytes 1 link ++ zeros 1 ++ leBytes 2 position ++ leBytes 2 reason })] }
        net := { s.m.net with links := t.m.net.links, declared := s.m.net.declared ++ trees.map (fun e => (e.tree, position)) }
        out := s.m.out ++ ups.map (fun l => .flit l (.declare position reason)) } })
    ∧ (∀ launches, (Instr.recoveryEntryTimer slot launches).wf = true → isCoord j = true → j.isOrigin = true → j.started = true →
      j.recov.stage = 1 → j.recov.noticeSent = true → allAcked j = true → j.phase = .generate → j.gen = none → j.learn.hasShard = false →
      j.stretches = 0 → j.turn.next = none → j.recov.next = none → j.recov.mismatch = 0 → j.recov.skip = false → j.recov.byHost = false →
      j.secure.next = none → j.jobWide = none → s.m.ctl.accepted = [] → s.m.ctl.waiting = [] → s.m.tinctures = [] → s.m.pools = [] →
      s.m.posts = [] → ∃ t y, exec (.recoveryEntryTimer slot launches) s = .next t ∧ t.m.jobs = [(slot, y)] ∧ y.phase = .recovering
        ∧ y.stroke = (j.stroke + 1) % 2 ^ 64 ∧ y.recov.kind = 1 ∧ y.recov.prevPhase = .generate ∧ y.recov.enterStroke = y.stroke
        ∧ y.recov.attempt = j.recov.attempt ∧ y.recov.noticeSent = false ∧ programsDone t.m slot = true ∧ t.m.mem = s.m.mem ∧ t.nv = s.nv)

/-- R55, R74, R104, R108, R109, R112, R130: the watcher's report of a mailbox checks its header and its request, and then does what the
command of that request does; a check that fails is answered at once; the end of the local stroke writes the replies that are due.
The readings that it takes are those of log entry 4 and 24. -/
def Obligations.RequestsAndLocalStrokes : Prop :=
  ∀ s : State,
    (∀ mb m, mb < 256 → mb ∈ s.m.ctl.flips → unreached s.m (mbField s.m mb 8 2) mb = false →
      m = { s.m with ctl := { s.m.ctl with flips := s.m.ctl.flips.filter (fun x => decide (x ≠ mb)) } } →
      let op := mbField s.m mb 8 2
      let answered : Nat → Prop := fun status => ∃ t, exec (.watcherReport mb) s = .next t
        ∧ mbField t.m mb 16 2 = status % 65536 ∧ mbOwned t.m mb = false
        ∧ t = { s with m := { m with ctl := { m.ctl with cw := t.m.ctl.cw, areas := t.m.ctl.areas }, out := t.m.out } }
      let allowed : Prop := mbField s.m mb 10 1 = mb / 32 ∧ (adminOpcode op = true → mb / 32 = 0)
      (mbField s.m mb 10 1 ≠ mb / 32 → answered 0x7001)
      ∧ (mbField s.m mb 10 1 = mb / 32 → adminOpcode op = true → mb / 32 ≠ 0 → answered 0x7002)
      ∧ (allowed → servedHere s.m op mb = false → answered 0x1001)
      ∧ (allowed → servedHere s.m op mb = true → ∀ e, mbRequest false m mb = .error e → answered e)
      ∧ (allowed → servedHere s.m op mb = true → ∀ i c e, mbRequest false m mb = .ok i → specAll s.nv i = some c → secErr c m = some e →
        answered e.status)
      ∧ (allowed → servedHere s.m op mb = true → ∀ i c, mbRequest false m mb = .ok i → specAll s.nv i = some c → secErr c m = none →
        (∀ e, mbRequest true m mb = .error e → answered e)
        ∧ (∀ k, mbRequest true m mb = .ok k → 2 ≤ mbField s.m mb 11 1 → answered 0x2002)
        ∧ (∀ k, mbRequest true m mb = .ok k → mbField s.m mb 11 1 < 2 →
          (∀ b ∈ mbRead s.m mb 19 5 ++ mbRead s.m mb 40 24, b = 0) →
          (k.wf = true → (specAll s.nv k).isSome = true → exec (.watcherReport mb) s = exec k { s with m := m })
          ∧ (∀ c, specOf k = some c → c.query = false → c.jobWide = false → unreached m c.opcode c.mb = false → acceptErr c m = none →
            exec (.watcherReport mb) s = .next { s with m := { m with ctl := { m.ctl with
              holds := m.ctl.holds ++ c.buckets.map (fun b => { bucket := b, mb := c.mb })
              accepted := m.ctl.accepted ++ [{
                cmd := c.cmd, mb := c.mb, slot := specStream c m, stroke := strokeOf m (specStream c m) }] } } }))))
    ∧ (∀ r n, s.m.ctl.localStroke = n → s.m.sys.st ≠ .off → s.m.sys.st ≠ .boot → s.m.sys.st ≠ .failed → s.m.ctl.replies = [r] →
      r.slot = none → r.due ≤ n → s.m.ctl.accepted = [] → s.m.ctl.waiting = [] → s.m.ctl.waits = [] → s.m.ctl.holds = [] → s.m.ctl.evq = [] →
      (∀ p < 8, (partAt s.m p).resetting = false) → s.m.sys.deferredReset = none →
      ∃ t b, exec .localStrokeTick s = .next t
        ∧ mbField t.m r.mb 16 2 = (if r.spanned ∧ r.stretch ∧ r.status = 0 then 0x8001 else r.status) % 65536 ∧ mbOwned t.m r.mb = false
        ∧ ((s.m.arrays.map (·.1)).Pairwise (· < ·) → ∀ d a, arrayAt t.m d a = { arrayAt s.m d a with failedCols := [] })
        ∧ ((s.m.banks.map (·.1)).Pairwise (· < ·) → ∀ d k, bankAt t.m d k = { bankAt s.m d k with faulted := false })
        ∧ b.ctl.localStroke = n ∧ b.ctl.cw = t.m.ctl.cw ∧ b.jobs = s.m.jobs ∧ b.mem = s.m.mem
        ∧ t = { s with m := { s.m with
            ctl := { s.m.ctl with
              cw := t.m.ctl.cw, areas := t.m.ctl.areas, replies := [], localStroke := (n + 1) % 2 ^ 64, violated := []
              bucketFlips := s.m.ctl.bucketFlips.filter (fun b => decide (bucketStream s.m b ≠ none)) }
            net := { s.m.net with winFaults := [] }
            arrays := t.m.arrays, banks := t.m.banks, out := t.m.out, seen := tput s.m.seen 16 b } })

/-- R12, R35, R147, R192, R194, R282, R283, R317, R318, R477, R478, R651, R652: a write to a control register of the module sets its counters to what is
written, clears the W1C fields that are written 1, leaves a field whose value is outside its range, and changes no other register; a
write where no register is changes none and raises ADDRESS_FAULT.
The readings that it takes are those of log entry 21. -/
def Obligations.RegisterWritesByField : Prop :=
  ∀ (s : State) (v : Nat), s.m.sys.st ≠ .off → v < 2 ^ 64 →
    let field : Nat → Nat → Nat := fun lo n => v / 2 ^ lo % 2 ^ n
    let kept : Bool → Nat → Bool := fun old i => old && !v.testBit i
    (∀ d a, d < 8 → a < 48 →
      let x := arrayAt s.m d a
      let only : Nat → MArray → Prop := fun o y => ∃ t, exec (.registerWrite (0x050000000000 + d * 0x1000000 + 0x100000 + a * 0x100 + o) v) s = .next t
        ∧ arrayAt t.m d a = y ∧ (∀ d' a', d' * 48 + a' ≠ d * 48 + a → arrayAt t.m d' a' = arrayAt s.m d' a')
        ∧ t = { s with m := { s.m with arrays := t.m.arrays } }
      only 0x08 { x with
          sticky := { ovf := kept x.sticky.ovf 8, nonfinite := kept x.sticky.nonfinite 9, poison := kept x.sticky.poison 10 }
          parity := kept x.parity 11, zeroRead := kept x.zeroRead 12, braked := kept x.braked 13, gangMismatch := kept x.gangMismatch 14 }
      ∧ only 0x18 { x with parityCount := field 0 16, refused := field 24 8 })
    ∧ (∀ d b, d < 8 → b < 160 → ∃ t, exec (.registerWrite (0x050000000000 + d * 0x1000000 + 0x200000 + b * 0x40 + 8) v) s = .next t
      ∧ bankAt t.m d b = { bankAt s.m d b with count := field 0 16 }
      ∧ (∀ d' b', d' * 160 + b' ≠ d * 160 + b → bankAt t.m d' b' = bankAt s.m d' b')
      ∧ t = { s with m := { s.m with banks := t.m.banks } })
    ∧ (∀ d e, d < 8 → e < 128 → ∃ t, exec (.registerWrite (0x050000000000 + d * 0x1000000 + 0x300000 + e * 0x100) v) s = .next t
      ∧ veAt t.m d e = { veAt s.m d e with
          sticky := { ovf := kept (veAt s.m d e).sticky.ovf 44, nonfinite := kept (veAt s.m d e).sticky.nonfinite 45, poison := kept (veAt s.m d e).sticky.poison 46 }
          atomFull := kept (veAt s.m d e).atomFull 47, atomTarget := kept (veAt s.m d e).atomTarget 48, illegal := kept (veAt s.m d e).illegal 49 }
      ∧ (∀ d' e', d' * 128 + e' ≠ d * 128 + e → veAt t.m d' e' = veAt s.m d' e') ∧ t = { s with m := { s.m with ves := t.m.ves } })
    ∧ (∀ k, k < 16 →
      let only : Nat → Stack → Prop := fun o y => ∃ t,
        exec (.registerWrite (0x050000000000 + k / 2 * 0x1000000 + 0x400000 + k % 2 * 0x1000 + o) v) s = .next t
        ∧ stackAt t.m k = y ∧ (∀ k', k' ≠ k → stackAt t.m k' = stackAt s.m k')
        ∧ t = { s with m := { s.m with mem := { s.m.mem with hbm := t.m.mem.hbm } } }
      only 0x08 { stackAt s.m k with
          thrStart := if 80 ≤ field 0 8 ∧ field 0 8 ≤ 95 then field 0 8 else (stackAt s.m k).thrStart
          hyst := if 1 ≤ field 8 8 ∧ field 8 8 ≤ 15 then field 8 8 else (stackAt s.m k).hyst }
      ∧ only 0x10 { stackAt s.m k with corrected := field 0 32, uncorrectable := field 32 16 })
    ∧ (∀ l, l < 32 →
      let only : Nat → Link → Prop := fun o y => ∃ t,
        exec (.registerWrite ((if l < 16 then 0x050011000000 else 0x050012000000) + 0x100000 + l % 16 * 0x100 + o) v) s = .next t
        ∧ linkAt t.m l = y ∧ (∀ l', l' ≠ l → linkAt t.m l' = linkAt s.m l')
        ∧ t = { s with m := { s.m with net := { s.m.net with links := t.m.net.links } } }
      only 0x10 { linkAt s.m l with
          corrected := field 0 32, uncorr := field 32 12, fecPath := field 44 8, noTree := field 52 4, noRoute := field 56 4, window := field 60 4 }
      ∧ only 0x18 { linkAt s.m l with
          replays := field 0 32, laneFaults := field 32 8, downs := field 40 8, trains := field 48 8, fShifts := field 56 8 })
    ∧ exec (.registerWrite 0x050013200010 v) s = .next { s with m := { s.m with power := { s.m.power with
        brakes := field 0 16, droops := field 16 16, capFloor := field 32 16, alarms := field 48 16 } } }
    ∧ (60 ≤ field 0 9 → field 0 9 ≤ 240 → 1 ≤ field 16 5 → 1 ≤ field 24 8 →
      exec (.registerWrite 0x050013200008 v) s = .next { s with m := { s.m with power := { s.m.power with
        capUnits := field 0 9, primeSlope := field 16 5, primeEn := field 21 3, primeLimit := field 24 8
        dies := tmap s.m.power.dies (fun _ x => if x.priming ∧ !bitOf (field 21 3) (x.cause - 1) then { x with rampDown := true } else x) } } })
    ∧ (∀ p, p < 8 → exec (.registerWrite (0x050010410000 + p * 0x10) v) s = .next { s with m := { s.m with ctl := { s.m.ctl with
        mbxDrop := tset 0 s.m.ctl.mbxDrop p (field 0 16), bktDrop := tset 0 s.m.ctl.bktDrop p (field 16 16) } } })
    ∧ (∀ addr, regMapped addr = false → addr < 2 ^ 48 → ∃ t unit, exec (.registerWrite addr v) s = .next t ∧ (unit = 0xFFE ∨ unit = 0xFFF)
      ∧ t = { s with m := { s.m with free := s.m.free + 1, ctl := { s.m.ctl with evq := s.m.ctl.evq ++ [(none, {
          etype := 0x0204, part := 0, stroke := s.m.ctl.localStroke, payload := leBytes 2 unit ++ zeros 6 ++ leBytes 8 addr })] } } })

/-- R15 to R17, R108: the body of a request that is read as a command is the body which that command writes, with its opcode and its
mailbox, and the command is well formed.
R456: the record that an origin sends with a boundary is read back with every item that it carries.
The readings that it takes are those of log entry 4 and 24. -/
def Obligations.RequestsAndRecordsAreReadBack : Prop :=
  (∀ (op mb : Nat) (b : List Byte) (i : Instr), mb < 256 → b.length ≤ 4032 → decodeRequest op mb b = .ok i →
     requestOpcode i = some op ∧ requestMailbox i = some mb ∧ i.wf = true
     ∧ ((op = 0x0801 → bitOf (recField b 6 1) 0 = false) → requestBytes i = b))
  ∧ (∀ it : Items, (∀ t, it.turn = some t → t.1 < 256 ∧ t.2 < 256) → (∀ x, it.secure = some x → x.1 < 256 ∧ x.2.1 < 256 ∧ x.2.2 < 2 ^ 32) →
      (∀ n, it.margin = some n → n < 65536) →
      (∀ r, it.verdict = some r → r.flags < 2 ^ 32 ∧ r.count < 2 ^ 32 ∧ r.tokens < 2 ^ 32 ∧ r.loss < 2 ^ 32 ∧ r.sqnorm < 2 ^ 32) →
      (∀ r, it.recov = some r → r.action < 256 ∧ r.kind < 256 ∧ r.attempt < 256 ∧ r.generation < 2 ^ 32
        ∧ (if r.action = 2 then r.pairs.length < 256 ∧ ∀ p ∈ r.pairs, p.1 < 65536 ∧ p.2 < 65536 else r.pairs = [])
        ∧ (if r.action = 3 then r.refLoss < 2 ^ 32 else r.verify = false ∧ r.refLoss = 0)) →
      (∀ c, it.jobWide = some c → c.1 < 65536 ∧ c.2.length < 65534) →
      readItems 64 (boundaryRecord it) {} = it)

/-- R76: a module that is not the origin refuses a job-wide command with NOT_ORIGIN, and OBJECT_STATE gives the origin's position, when no
check that R21 puts before it fails. -/
def Obligations.JobWideCommandsNeedTheOrigin : Prop :=
  ∀ (i : Instr) (c : CmdSpec) (s : State) (slot : Nat) (j : Job), specOf i = some c → i.wf = true → c.jobWide = true →
    specJob c s.m = some (slot, j) → j.isOrigin = false → j.origin < 65536 → s.m.sys.st = .active → powerAllows s.m c.opcode c.mb = true →
    secErr c s.m = none → parErr c s.m = none → unreached s.m c.opcode c.mb = false →
    ∃ t, exec i s = .next t ∧ mbField t.m c.mb 16 2 = 0x1003 ∧ mbField t.m c.mb 66 2 = j.origin ∧ mbOwned t.m c.mb = false
      ∧ t = { s with m := { s.m with ctl := { s.m.ctl with cw := t.m.ctl.cw, areas := t.m.ctl.areas }, out := t.m.out } }

/-- R101: only bit 0 of OWNER is stored: a host write that forms the value 1 while OWNER reads 0 flips the mailbox to DEVICE, and any other
write to OWNER changes nothing. -/
def Obligations.OwnerTakesOnlyAFlip : Prop :=
  ∀ (s : State) (qp mb off : Nat) (data : List Byte) (q : Qp),
    (Instr.hostCwWrite qp (partAt s.m q.part).cwKey (mb * 4096 + off) data).wf = true → tfind s.m.port.qps qp = some q → q.error = false →
    mb / 32 = q.part → off + data.length ≤ 4 → data ≠ [] → mbOwned s.m mb = false →
    let value := leNat ((List.range 4).map (fun i => if off ≤ i ∧ i < off + data.length then data.getD (i - off) 0 else 0))
    (value = 1 → ∃ t, exec (.hostCwWrite qp (partAt s.m q.part).cwKey (mb * 4096 + off) data) s = .next t
      ∧ mbOwned t.m mb = true ∧ mbField t.m mb 0 4 = 1 ∧ t.m.ctl.flips = s.m.ctl.flips ++ [mb]
      ∧ (∀ i, i < mb * 4096 ∨ mb * 4096 + 4 ≤ i → cwByte t.m i = cwByte s.m i)
      ∧ t = { s with m := { s.m with ctl := { s.m.ctl with cw := t.m.ctl.cw, flips := t.m.ctl.flips } } })
    ∧ (value ≠ 1 → ∃ t, exec (.hostCwWrite qp (partAt s.m q.part).cwKey (mb * 4096 + off) data) s = .next t
      ∧ (∀ i, cwByte t.m i = cwByte s.m i)
      ∧ t = { s with m := { s.m with ctl := { s.m.ctl with cw := t.m.ctl.cw } } })

/-- R305: a poison mark stays until a write covers its whole block, whoever writes: as memory takes a write, and as the host's own write
into a bucket does. -/
def Obligations.PoisonMarksStay : Prop :=
  let marked : Mem → Nat → Bool := fun m k => tget false m.poison k
  let covers : Nat → Nat → Nat → Bool := fun a n k => decide (a ≤ k * 64) && decide (k * 64 + 64 ≤ a + n)
  (∀ (m : Mem) (a k : Nat) (l : List Byte), marked (memWrite m a l) k = (marked m k && !covers a l.length k))
  ∧ (∀ (m : Mem) (a n k : Nat), marked (memZero m a n) k = (marked m k && !covers a n k))
  ∧ (∀ (s : State) (qp b offset k : Nat) (q : Qp) (f : Flag) (data : List Byte),
      (Instr.hostBucketWrite qp (partAt s.m q.part).bwKey b offset data).wf = true → tfind s.m.port.qps qp = some q → q.error = false →
      1 ≤ b → b ≤ 32767 → s.m.power.deep < 3 → flagAt s.m b = f → f.owner = 1 → f.part = q.part → data ≠ [] → offset + data.length ≤ 0x200000 →
      bucketGranted s.m b = false → (∀ x ∈ s.m.jobs, x.2.secure.protectedPages = []) →
      ∃ t, exec (.hostBucketWrite qp (partAt s.m q.part).bwKey b offset data) s = .next t
        ∧ marked t.m.mem k = (marked s.m.mem k && !covers (f.addr + offset) data.length k))
end

