-- ==== Sys2Proof/Laws/State.lean ====
section
/-! SUPPORT. Sys2Proof/Laws/State.lean: one lemma for each field and each update of the module's state, so that no proof
unfolds a record update. -/

namespace Sys2Proof.Machine

variable {m : Dev}

/-! ### updJob -/

@[simp] theorem updJob_cycle (slot : Nat) (f : Job → Job) : (updJob m slot f).cycle = m.cycle := rfl

@[simp] theorem updJob_free (slot : Nat) (f : Job → Job) : (updJob m slot f).free = m.free := rfl

@[simp] theorem updJob_out (slot : Nat) (f : Job → Job) : (updJob m slot f).out = m.out := rfl

@[simp] theorem updJob_sys (slot : Nat) (f : Job → Job) : (updJob m slot f).sys = m.sys := rfl

@[simp] theorem updJob_ctl (slot : Nat) (f : Job → Job) : (updJob m slot f).ctl = m.ctl := rfl

@[simp] theorem updJob_jobs (slot : Nat) (f : Job → Job) : (updJob m slot f).jobs = tupd m.jobs slot f := rfl

@[simp] theorem updJob_mem (slot : Nat) (f : Job → Job) : (updJob m slot f).mem = m.mem := rfl

@[simp] theorem updJob_arrays (slot : Nat) (f : Job → Job) : (updJob m slot f).arrays = m.arrays := rfl

@[simp] theorem updJob_ves (slot : Nat) (f : Job → Job) : (updJob m slot f).ves = m.ves := rfl

@[simp] theorem updJob_banks (slot : Nat) (f : Job → Job) : (updJob m slot f).banks = m.banks := rfl

@[simp] theorem updJob_dmas (slot : Nat) (f : Job → Job) : (updJob m slot f).dmas = m.dmas := rfl

@[simp] theorem updJob_posted (slot : Nat) (f : Job → Job) : (updJob m slot f).posted = m.posted := rfl

@[simp] theorem updJob_atts (slot : Nat) (f : Job → Job) : (updJob m slot f).atts = m.atts := rfl

@[simp] theorem updJob_atms (slot : Nat) (f : Job → Job) : (updJob m slot f).atms = m.atms := rfl

@[simp] theorem updJob_pools (slot : Nat) (f : Job → Job) : (updJob m slot f).pools = m.pools := rfl

@[simp] theorem updJob_seqs (slot : Nat) (f : Job → Job) : (updJob m slot f).seqs = m.seqs := rfl

@[simp] theorem updJob_tinctures (slot : Nat) (f : Job → Job) : (updJob m slot f).tinctures = m.tinctures := rfl

@[simp] theorem updJob_restores (slot : Nat) (f : Job → Job) : (updJob m slot f).restores = m.restores := rfl

@[simp] theorem updJob_net (slot : Nat) (f : Job → Job) : (updJob m slot f).net = m.net := rfl

@[simp] theorem updJob_groups (slot : Nat) (f : Job → Job) : (updJob m slot f).groups = m.groups := rfl

@[simp] theorem updJob_colls (slot : Nat) (f : Job → Job) : (updJob m slot f).colls = m.colls := rfl

@[simp] theorem updJob_posts (slot : Nat) (f : Job → Job) : (updJob m slot f).posts = m.posts := rfl

@[simp] theorem updJob_fabs (slot : Nat) (f : Job → Job) : (updJob m slot f).fabs = m.fabs := rfl

@[simp] theorem updJob_slotRegs (slot : Nat) (f : Job → Job) : (updJob m slot f).slotRegs = m.slotRegs := rfl

@[simp] theorem updJob_power (slot : Nat) (f : Job → Job) : (updJob m slot f).power = m.power := rfl

@[simp] theorem updJob_port (slot : Nat) (f : Job → Job) : (updJob m slot f).port = m.port := rfl

@[simp] theorem updJob_seen (slot : Nat) (f : Job → Job) : (updJob m slot f).seen = m.seen := rfl

/-! ### updArray -/

@[simp] theorem updArray_cycle (die a : Nat) (f : MArray → MArray) : (updArray m die a f).cycle = m.cycle := rfl

@[simp] theorem updArray_free (die a : Nat) (f : MArray → MArray) : (updArray m die a f).free = m.free := rfl

@[simp] theorem updArray_out (die a : Nat) (f : MArray → MArray) : (updArray m die a f).out = m.out := rfl

@[simp] theorem updArray_sys (die a : Nat) (f : MArray → MArray) : (updArray m die a f).sys = m.sys := rfl

@[simp] theorem updArray_ctl (die a : Nat) (f : MArray → MArray) : (updArray m die a f).ctl = m.ctl := rfl

@[simp] theorem updArray_jobs (die a : Nat) (f : MArray → MArray) : (updArray m die a f).jobs = m.jobs := rfl

@[simp] theorem updArray_mem (die a : Nat) (f : MArray → MArray) : (updArray m die a f).mem = m.mem := rfl

@[simp] theorem updArray_arrays (die a : Nat) (f : MArray → MArray) : (updArray m die a f).arrays = tmod {} m.arrays (die * 48 + a) f := rfl

@[simp] theorem updArray_ves (die a : Nat) (f : MArray → MArray) : (updArray m die a f).ves = m.ves := rfl

@[simp] theorem updArray_banks (die a : Nat) (f : MArray → MArray) : (updArray m die a f).banks = m.banks := rfl

@[simp] theorem updArray_dmas (die a : Nat) (f : MArray → MArray) : (updArray m die a f).dmas = m.dmas := rfl

@[simp] theorem updArray_posted (die a : Nat) (f : MArray → MArray) : (updArray m die a f).posted = m.posted := rfl

@[simp] theorem updArray_atts (die a : Nat) (f : MArray → MArray) : (updArray m die a f).atts = m.atts := rfl

@[simp] theorem updArray_atms (die a : Nat) (f : MArray → MArray) : (updArray m die a f).atms = m.atms := rfl

@[simp] theorem updArray_pools (die a : Nat) (f : MArray → MArray) : (updArray m die a f).pools = m.pools := rfl

@[simp] theorem updArray_seqs (die a : Nat) (f : MArray → MArray) : (updArray m die a f).seqs = m.seqs := rfl

@[simp] theorem updArray_tinctures (die a : Nat) (f : MArray → MArray) : (updArray m die a f).tinctures = m.tinctures := rfl

@[simp] theorem updArray_restores (die a : Nat) (f : MArray → MArray) : (updArray m die a f).restores = m.restores := rfl

@[simp] theorem updArray_net (die a : Nat) (f : MArray → MArray) : (updArray m die a f).net = m.net := rfl

@[simp] theorem updArray_groups (die a : Nat) (f : MArray → MArray) : (updArray m die a f).groups = m.groups := rfl

@[simp] theorem updArray_colls (die a : Nat) (f : MArray → MArray) : (updArray m die a f).colls = m.colls := rfl

@[simp] theorem updArray_posts (die a : Nat) (f : MArray → MArray) : (updArray m die a f).posts = m.posts := rfl

@[simp] theorem updArray_fabs (die a : Nat) (f : MArray → MArray) : (updArray m die a f).fabs = m.fabs := rfl

@[simp] theorem updArray_slotRegs (die a : Nat) (f : MArray → MArray) : (updArray m die a f).slotRegs = m.slotRegs := rfl

@[simp] theorem updArray_power (die a : Nat) (f : MArray → MArray) : (updArray m die a f).power = m.power := rfl

@[simp] theorem updArray_port (die a : Nat) (f : MArray → MArray) : (updArray m die a f).port = m.port := rfl

@[simp] theorem updArray_seen (die a : Nat) (f : MArray → MArray) : (updArray m die a f).seen = m.seen := rfl

/-! ### updVe -/

@[simp] theorem updVe_cycle (die v : Nat) (f : VEngine → VEngine) : (updVe m die v f).cycle = m.cycle := rfl

@[simp] theorem updVe_free (die v : Nat) (f : VEngine → VEngine) : (updVe m die v f).free = m.free := rfl

@[simp] theorem updVe_out (die v : Nat) (f : VEngine → VEngine) : (updVe m die v f).out = m.out := rfl

@[simp] theorem updVe_sys (die v : Nat) (f : VEngine → VEngine) : (updVe m die v f).sys = m.sys := rfl

@[simp] theorem updVe_ctl (die v : Nat) (f : VEngine → VEngine) : (updVe m die v f).ctl = m.ctl := rfl

@[simp] theorem updVe_jobs (die v : Nat) (f : VEngine → VEngine) : (updVe m die v f).jobs = m.jobs := rfl

@[simp] theorem updVe_mem (die v : Nat) (f : VEngine → VEngine) : (updVe m die v f).mem = m.mem := rfl

@[simp] theorem updVe_arrays (die v : Nat) (f : VEngine → VEngine) : (updVe m die v f).arrays = m.arrays := rfl

@[simp] theorem updVe_ves (die v : Nat) (f : VEngine → VEngine) : (updVe m die v f).ves = tmod {} m.ves (die * 128 + v) f := rfl

@[simp] theorem updVe_banks (die v : Nat) (f : VEngine → VEngine) : (updVe m die v f).banks = m.banks := rfl

@[simp] theorem updVe_dmas (die v : Nat) (f : VEngine → VEngine) : (updVe m die v f).dmas = m.dmas := rfl

@[simp] theorem updVe_posted (die v : Nat) (f : VEngine → VEngine) : (updVe m die v f).posted = m.posted := rfl

@[simp] theorem updVe_atts (die v : Nat) (f : VEngine → VEngine) : (updVe m die v f).atts = m.atts := rfl

@[simp] theorem updVe_atms (die v : Nat) (f : VEngine → VEngine) : (updVe m die v f).atms = m.atms := rfl

@[simp] theorem updVe_pools (die v : Nat) (f : VEngine → VEngine) : (updVe m die v f).pools = m.pools := rfl

@[simp] theorem updVe_seqs (die v : Nat) (f : VEngine → VEngine) : (updVe m die v f).seqs = m.seqs := rfl

@[simp] theorem updVe_tinctures (die v : Nat) (f : VEngine → VEngine) : (updVe m die v f).tinctures = m.tinctures := rfl

@[simp] theorem updVe_restores (die v : Nat) (f : VEngine → VEngine) : (updVe m die v f).restores = m.restores := rfl

@[simp] theorem updVe_net (die v : Nat) (f : VEngine → VEngine) : (updVe m die v f).net = m.net := rfl

@[simp] theorem updVe_groups (die v : Nat) (f : VEngine → VEngine) : (updVe m die v f).groups = m.groups := rfl

@[simp] theorem updVe_colls (die v : Nat) (f : VEngine → VEngine) : (updVe m die v f).colls = m.colls := rfl

@[simp] theorem updVe_posts (die v : Nat) (f : VEngine → VEngine) : (updVe m die v f).posts = m.posts := rfl

@[simp] theorem updVe_fabs (die v : Nat) (f : VEngine → VEngine) : (updVe m die v f).fabs = m.fabs := rfl

@[simp] theorem updVe_slotRegs (die v : Nat) (f : VEngine → VEngine) : (updVe m die v f).slotRegs = m.slotRegs := rfl

@[simp] theorem updVe_power (die v : Nat) (f : VEngine → VEngine) : (updVe m die v f).power = m.power := rfl

@[simp] theorem updVe_port (die v : Nat) (f : VEngine → VEngine) : (updVe m die v f).port = m.port := rfl

@[simp] theorem updVe_seen (die v : Nat) (f : VEngine → VEngine) : (updVe m die v f).seen = m.seen := rfl

/-! ### updBank -/

@[simp] theorem updBank_cycle (die b : Nat) (f : Bank → Bank) : (updBank m die b f).cycle = m.cycle := rfl

@[simp] theorem updBank_free (die b : Nat) (f : Bank → Bank) : (updBank m die b f).free = m.free := rfl

@[simp] theorem updBank_out (die b : Nat) (f : Bank → Bank) : (updBank m die b f).out = m.out := rfl

@[simp] theorem updBank_sys (die b : Nat) (f : Bank → Bank) : (updBank m die b f).sys = m.sys := rfl

@[simp] theorem updBank_ctl (die b : Nat) (f : Bank → Bank) : (updBank m die b f).ctl = m.ctl := rfl

@[simp] theorem updBank_jobs (die b : Nat) (f : Bank → Bank) : (updBank m die b f).jobs = m.jobs := rfl

@[simp] theorem updBank_mem (die b : Nat) (f : Bank → Bank) : (updBank m die b f).mem = m.mem := rfl

@[simp] theorem updBank_arrays (die b : Nat) (f : Bank → Bank) : (updBank m die b f).arrays = m.arrays := rfl

@[simp] theorem updBank_ves (die b : Nat) (f : Bank → Bank) : (updBank m die b f).ves = m.ves := rfl

@[simp] theorem updBank_banks (die b : Nat) (f : Bank → Bank) : (updBank m die b f).banks = tmod {} m.banks (die * 160 + b) f := rfl

@[simp] theorem updBank_dmas (die b : Nat) (f : Bank → Bank) : (updBank m die b f).dmas = m.dmas := rfl

@[simp] theorem updBank_posted (die b : Nat) (f : Bank → Bank) : (updBank m die b f).posted = m.posted := rfl

@[simp] theorem updBank_atts (die b : Nat) (f : Bank → Bank) : (updBank m die b f).atts = m.atts := rfl

@[simp] theorem updBank_atms (die b : Nat) (f : Bank → Bank) : (updBank m die b f).atms = m.atms := rfl

@[simp] theorem updBank_pools (die b : Nat) (f : Bank → Bank) : (updBank m die b f).pools = m.pools := rfl

@[simp] theorem updBank_seqs (die b : Nat) (f : Bank → Bank) : (updBank m die b f).seqs = m.seqs := rfl

@[simp] theorem updBank_tinctures (die b : Nat) (f : Bank → Bank) : (updBank m die b f).tinctures = m.tinctures := rfl

@[simp] theorem updBank_restores (die b : Nat) (f : Bank → Bank) : (updBank m die b f).restores = m.restores := rfl

@[simp] theorem updBank_net (die b : Nat) (f : Bank → Bank) : (updBank m die b f).net = m.net := rfl

@[simp] theorem updBank_groups (die b : Nat) (f : Bank → Bank) : (updBank m die b f).groups = m.groups := rfl

@[simp] theorem updBank_colls (die b : Nat) (f : Bank → Bank) : (updBank m die b f).colls = m.colls := rfl

@[simp] theorem updBank_posts (die b : Nat) (f : Bank → Bank) : (updBank m die b f).posts = m.posts := rfl

@[simp] theorem updBank_fabs (die b : Nat) (f : Bank → Bank) : (updBank m die b f).fabs = m.fabs := rfl

@[simp] theorem updBank_slotRegs (die b : Nat) (f : Bank → Bank) : (updBank m die b f).slotRegs = m.slotRegs := rfl

@[simp] theorem updBank_power (die b : Nat) (f : Bank → Bank) : (updBank m die b f).power = m.power := rfl

@[simp] theorem updBank_port (die b : Nat) (f : Bank → Bank) : (updBank m die b f).port = m.port := rfl

@[simp] theorem updBank_seen (die b : Nat) (f : Bank → Bank) : (updBank m die b f).seen = m.seen := rfl

/-! ### updLink -/

@[simp] theorem updLink_cycle (l : Nat) (f : Link → Link) : (updLink m l f).cycle = m.cycle := rfl

@[simp] theorem updLink_free (l : Nat) (f : Link → Link) : (updLink m l f).free = m.free := rfl

@[simp] theorem updLink_out (l : Nat) (f : Link → Link) : (updLink m l f).out = m.out := rfl

@[simp] theorem updLink_sys (l : Nat) (f : Link → Link) : (updLink m l f).sys = m.sys := rfl

@[simp] theorem updLink_ctl (l : Nat) (f : Link → Link) : (updLink m l f).ctl = m.ctl := rfl

@[simp] theorem updLink_jobs (l : Nat) (f : Link → Link) : (updLink m l f).jobs = m.jobs := rfl

@[simp] theorem updLink_mem (l : Nat) (f : Link → Link) : (updLink m l f).mem = m.mem := rfl

@[simp] theorem updLink_arrays (l : Nat) (f : Link → Link) : (updLink m l f).arrays = m.arrays := rfl

@[simp] theorem updLink_ves (l : Nat) (f : Link → Link) : (updLink m l f).ves = m.ves := rfl

@[simp] theorem updLink_banks (l : Nat) (f : Link → Link) : (updLink m l f).banks = m.banks := rfl

@[simp] theorem updLink_dmas (l : Nat) (f : Link → Link) : (updLink m l f).dmas = m.dmas := rfl

@[simp] theorem updLink_posted (l : Nat) (f : Link → Link) : (updLink m l f).posted = m.posted := rfl

@[simp] theorem updLink_atts (l : Nat) (f : Link → Link) : (updLink m l f).atts = m.atts := rfl

@[simp] theorem updLink_atms (l : Nat) (f : Link → Link) : (updLink m l f).atms = m.atms := rfl

@[simp] theorem updLink_pools (l : Nat) (f : Link → Link) : (updLink m l f).pools = m.pools := rfl

@[simp] theorem updLink_seqs (l : Nat) (f : Link → Link) : (updLink m l f).seqs = m.seqs := rfl

@[simp] theorem updLink_tinctures (l : Nat) (f : Link → Link) : (updLink m l f).tinctures = m.tinctures := rfl

@[simp] theorem updLink_restores (l : Nat) (f : Link → Link) : (updLink m l f).restores = m.restores := rfl

@[simp] theorem updLink_net (l : Nat) (f : Link → Link) : (updLink m l f).net = { m.net with links := tmod {} m.net.links l f } := rfl

@[simp] theorem updLink_groups (l : Nat) (f : Link → Link) : (updLink m l f).groups = m.groups := rfl

@[simp] theorem updLink_colls (l : Nat) (f : Link → Link) : (updLink m l f).colls = m.colls := rfl

@[simp] theorem updLink_posts (l : Nat) (f : Link → Link) : (updLink m l f).posts = m.posts := rfl

@[simp] theorem updLink_fabs (l : Nat) (f : Link → Link) : (updLink m l f).fabs = m.fabs := rfl

@[simp] theorem updLink_slotRegs (l : Nat) (f : Link → Link) : (updLink m l f).slotRegs = m.slotRegs := rfl

@[simp] theorem updLink_power (l : Nat) (f : Link → Link) : (updLink m l f).power = m.power := rfl

@[simp] theorem updLink_port (l : Nat) (f : Link → Link) : (updLink m l f).port = m.port := rfl

@[simp] theorem updLink_seen (l : Nat) (f : Link → Link) : (updLink m l f).seen = m.seen := rfl

/-! ### updPdie -/

@[simp] theorem updPdie_cycle (d : Nat) (f : PwrDie → PwrDie) : (updPdie m d f).cycle = m.cycle := rfl

@[simp] theorem updPdie_free (d : Nat) (f : PwrDie → PwrDie) : (updPdie m d f).free = m.free := rfl

@[simp] theorem updPdie_out (d : Nat) (f : PwrDie → PwrDie) : (updPdie m d f).out = m.out := rfl

@[simp] theorem updPdie_sys (d : Nat) (f : PwrDie → PwrDie) : (updPdie m d f).sys = m.sys := rfl

@[simp] theorem updPdie_ctl (d : Nat) (f : PwrDie → PwrDie) : (updPdie m d f).ctl = m.ctl := rfl

@[simp] theorem updPdie_jobs (d : Nat) (f : PwrDie → PwrDie) : (updPdie m d f).jobs = m.jobs := rfl

@[simp] theorem updPdie_mem (d : Nat) (f : PwrDie → PwrDie) : (updPdie m d f).mem = m.mem := rfl

@[simp] theorem updPdie_arrays (d : Nat) (f : PwrDie → PwrDie) : (updPdie m d f).arrays = m.arrays := rfl

@[simp] theorem updPdie_ves (d : Nat) (f : PwrDie → PwrDie) : (updPdie m d f).ves = m.ves := rfl

@[simp] theorem updPdie_banks (d : Nat) (f : PwrDie → PwrDie) : (updPdie m d f).banks = m.banks := rfl

@[simp] theorem updPdie_dmas (d : Nat) (f : PwrDie → PwrDie) : (updPdie m d f).dmas = m.dmas := rfl

@[simp] theorem updPdie_posted (d : Nat) (f : PwrDie → PwrDie) : (updPdie m d f).posted = m.posted := rfl

@[simp] theorem updPdie_atts (d : Nat) (f : PwrDie → PwrDie) : (updPdie m d f).atts = m.atts := rfl

@[simp] theorem updPdie_atms (d : Nat) (f : PwrDie → PwrDie) : (updPdie m d f).atms = m.atms := rfl

@[simp] theorem updPdie_pools (d : Nat) (f : PwrDie → PwrDie) : (updPdie m d f).pools = m.pools := rfl

@[simp] theorem updPdie_seqs (d : Nat) (f : PwrDie → PwrDie) : (updPdie m d f).seqs = m.seqs := rfl

@[simp] theorem updPdie_tinctures (d : Nat) (f : PwrDie → PwrDie) : (updPdie m d f).tinctures = m.tinctures := rfl

@[simp] theorem updPdie_restores (d : Nat) (f : PwrDie → PwrDie) : (updPdie m d f).restores = m.restores := rfl

@[simp] theorem updPdie_net (d : Nat) (f : PwrDie → PwrDie) : (updPdie m d f).net = m.net := rfl

@[simp] theorem updPdie_groups (d : Nat) (f : PwrDie → PwrDie) : (updPdie m d f).groups = m.groups := rfl

@[simp] theorem updPdie_colls (d : Nat) (f : PwrDie → PwrDie) : (updPdie m d f).colls = m.colls := rfl

@[simp] theorem updPdie_posts (d : Nat) (f : PwrDie → PwrDie) : (updPdie m d f).posts = m.posts := rfl

@[simp] theorem updPdie_fabs (d : Nat) (f : PwrDie → PwrDie) : (updPdie m d f).fabs = m.fabs := rfl

@[simp] theorem updPdie_slotRegs (d : Nat) (f : PwrDie → PwrDie) : (updPdie m d f).slotRegs = m.slotRegs := rfl

@[simp] theorem updPdie_power (d : Nat) (f : PwrDie → PwrDie) : (updPdie m d f).power = { m.power with dies := tmod {} m.power.dies d f } := rfl

@[simp] theorem updPdie_port (d : Nat) (f : PwrDie → PwrDie) : (updPdie m d f).port = m.port := rfl

@[simp] theorem updPdie_seen (d : Nat) (f : PwrDie → PwrDie) : (updPdie m d f).seen = m.seen := rfl

/-! ### updPart -/

@[simp] theorem updPart_cycle (p : Nat) (f : Part → Part) : (updPart m p f).cycle = m.cycle := rfl

@[simp] theorem updPart_free (p : Nat) (f : Part → Part) : (updPart m p f).free = m.free := rfl

@[simp] theorem updPart_out (p : Nat) (f : Part → Part) : (updPart m p f).out = m.out := rfl

@[simp] theorem updPart_sys (p : Nat) (f : Part → Part) : (updPart m p f).sys = m.sys := rfl

@[simp] theorem updPart_ctl (p : Nat) (f : Part → Part) : (updPart m p f).ctl = m.ctl := rfl

@[simp] theorem updPart_jobs (p : Nat) (f : Part → Part) : (updPart m p f).jobs = m.jobs := rfl

@[simp] theorem updPart_mem (p : Nat) (f : Part → Part) : (updPart m p f).mem = m.mem := rfl

@[simp] theorem updPart_arrays (p : Nat) (f : Part → Part) : (updPart m p f).arrays = m.arrays := rfl

@[simp] theorem updPart_ves (p : Nat) (f : Part → Part) : (updPart m p f).ves = m.ves := rfl

@[simp] theorem updPart_banks (p : Nat) (f : Part → Part) : (updPart m p f).banks = m.banks := rfl

@[simp] theorem updPart_dmas (p : Nat) (f : Part → Part) : (updPart m p f).dmas = m.dmas := rfl

@[simp] theorem updPart_posted (p : Nat) (f : Part → Part) : (updPart m p f).posted = m.posted := rfl

@[simp] theorem updPart_atts (p : Nat) (f : Part → Part) : (updPart m p f).atts = m.atts := rfl

@[simp] theorem updPart_atms (p : Nat) (f : Part → Part) : (updPart m p f).atms = m.atms := rfl

@[simp] theorem updPart_pools (p : Nat) (f : Part → Part) : (updPart m p f).pools = m.pools := rfl

@[simp] theorem updPart_seqs (p : Nat) (f : Part → Part) : (updPart m p f).seqs = m.seqs := rfl

@[simp] theorem updPart_tinctures (p : Nat) (f : Part → Part) : (updPart m p f).tinctures = m.tinctures := rfl

@[simp] theorem updPart_restores (p : Nat) (f : Part → Part) : (updPart m p f).restores = m.restores := rfl

@[simp] theorem updPart_net (p : Nat) (f : Part → Part) : (updPart m p f).net = m.net := rfl

@[simp] theorem updPart_groups (p : Nat) (f : Part → Part) : (updPart m p f).groups = m.groups := rfl

@[simp] theorem updPart_colls (p : Nat) (f : Part → Part) : (updPart m p f).colls = m.colls := rfl

@[simp] theorem updPart_posts (p : Nat) (f : Part → Part) : (updPart m p f).posts = m.posts := rfl

@[simp] theorem updPart_fabs (p : Nat) (f : Part → Part) : (updPart m p f).fabs = m.fabs := rfl

@[simp] theorem updPart_slotRegs (p : Nat) (f : Part → Part) : (updPart m p f).slotRegs = m.slotRegs := rfl

@[simp] theorem updPart_power (p : Nat) (f : Part → Part) : (updPart m p f).power = m.power := rfl

@[simp] theorem updPart_port (p : Nat) (f : Part → Part) : (updPart m p f).port = { m.port with parts := tmod {} m.port.parts p f } := rfl

@[simp] theorem updPart_seen (p : Nat) (f : Part → Part) : (updPart m p f).seen = m.seen := rfl

/-! ### updFab -/

@[simp] theorem updFab_cycle (d : Nat) (f : Fab → Fab) : (updFab m d f).cycle = m.cycle := rfl

@[simp] theorem updFab_free (d : Nat) (f : Fab → Fab) : (updFab m d f).free = m.free := rfl

@[simp] theorem updFab_out (d : Nat) (f : Fab → Fab) : (updFab m d f).out = m.out := rfl

@[simp] theorem updFab_sys (d : Nat) (f : Fab → Fab) : (updFab m d f).sys = m.sys := rfl

@[simp] theorem updFab_ctl (d : Nat) (f : Fab → Fab) : (updFab m d f).ctl = m.ctl := rfl

@[simp] theorem updFab_jobs (d : Nat) (f : Fab → Fab) : (updFab m d f).jobs = m.jobs := rfl

@[simp] theorem updFab_mem (d : Nat) (f : Fab → Fab) : (updFab m d f).mem = m.mem := rfl

@[simp] theorem updFab_arrays (d : Nat) (f : Fab → Fab) : (updFab m d f).arrays = m.arrays := rfl

@[simp] theorem updFab_ves (d : Nat) (f : Fab → Fab) : (updFab m d f).ves = m.ves := rfl

@[simp] theorem updFab_banks (d : Nat) (f : Fab → Fab) : (updFab m d f).banks = m.banks := rfl

@[simp] theorem updFab_dmas (d : Nat) (f : Fab → Fab) : (updFab m d f).dmas = m.dmas := rfl

@[simp] theorem updFab_posted (d : Nat) (f : Fab → Fab) : (updFab m d f).posted = m.posted := rfl

@[simp] theorem updFab_atts (d : Nat) (f : Fab → Fab) : (updFab m d f).atts = m.atts := rfl

@[simp] theorem updFab_atms (d : Nat) (f : Fab → Fab) : (updFab m d f).atms = m.atms := rfl

@[simp] theorem updFab_pools (d : Nat) (f : Fab → Fab) : (updFab m d f).pools = m.pools := rfl

@[simp] theorem updFab_seqs (d : Nat) (f : Fab → Fab) : (updFab m d f).seqs = m.seqs := rfl

@[simp] theorem updFab_tinctures (d : Nat) (f : Fab → Fab) : (updFab m d f).tinctures = m.tinctures := rfl

@[simp] theorem updFab_restores (d : Nat) (f : Fab → Fab) : (updFab m d f).restores = m.restores := rfl

@[simp] theorem updFab_net (d : Nat) (f : Fab → Fab) : (updFab m d f).net = m.net := rfl

@[simp] theorem updFab_groups (d : Nat) (f : Fab → Fab) : (updFab m d f).groups = m.groups := rfl

@[simp] theorem updFab_colls (d : Nat) (f : Fab → Fab) : (updFab m d f).colls = m.colls := rfl

@[simp] theorem updFab_posts (d : Nat) (f : Fab → Fab) : (updFab m d f).posts = m.posts := rfl

@[simp] theorem updFab_fabs (d : Nat) (f : Fab → Fab) : (updFab m d f).fabs = tmod {} m.fabs d f := rfl

@[simp] theorem updFab_slotRegs (d : Nat) (f : Fab → Fab) : (updFab m d f).slotRegs = m.slotRegs := rfl

@[simp] theorem updFab_power (d : Nat) (f : Fab → Fab) : (updFab m d f).power = m.power := rfl

@[simp] theorem updFab_port (d : Nat) (f : Fab → Fab) : (updFab m d f).port = m.port := rfl

@[simp] theorem updFab_seen (d : Nat) (f : Fab → Fab) : (updFab m d f).seen = m.seen := rfl

/-! ### updCtl -/

@[simp] theorem updCtl_cycle (f : Ctl → Ctl) : (updCtl m f).cycle = m.cycle := rfl

@[simp] theorem updCtl_free (f : Ctl → Ctl) : (updCtl m f).free = m.free := rfl

@[simp] theorem updCtl_out (f : Ctl → Ctl) : (updCtl m f).out = m.out := rfl

@[simp] theorem updCtl_sys (f : Ctl → Ctl) : (updCtl m f).sys = m.sys := rfl

@[simp] theorem updCtl_ctl (f : Ctl → Ctl) : (updCtl m f).ctl = f m.ctl := rfl

@[simp] theorem updCtl_jobs (f : Ctl → Ctl) : (updCtl m f).jobs = m.jobs := rfl

@[simp] theorem updCtl_mem (f : Ctl → Ctl) : (updCtl m f).mem = m.mem := rfl

@[simp] theorem updCtl_arrays (f : Ctl → Ctl) : (updCtl m f).arrays = m.arrays := rfl

@[simp] theorem updCtl_ves (f : Ctl → Ctl) : (updCtl m f).ves = m.ves := rfl

@[simp] theorem updCtl_banks (f : Ctl → Ctl) : (updCtl m f).banks = m.banks := rfl

@[simp] theorem updCtl_dmas (f : Ctl → Ctl) : (updCtl m f).dmas = m.dmas := rfl

@[simp] theorem updCtl_posted (f : Ctl → Ctl) : (updCtl m f).posted = m.posted := rfl

@[simp] theorem updCtl_atts (f : Ctl → Ctl) : (updCtl m f).atts = m.atts := rfl

@[simp] theorem updCtl_atms (f : Ctl → Ctl) : (updCtl m f).atms = m.atms := rfl

@[simp] theorem updCtl_pools (f : Ctl → Ctl) : (updCtl m f).pools = m.pools := rfl

@[simp] theorem updCtl_seqs (f : Ctl → Ctl) : (updCtl m f).seqs = m.seqs := rfl

@[simp] theorem updCtl_tinctures (f : Ctl → Ctl) : (updCtl m f).tinctures = m.tinctures := rfl

@[simp] theorem updCtl_restores (f : Ctl → Ctl) : (updCtl m f).restores = m.restores := rfl

@[simp] theorem updCtl_net (f : Ctl → Ctl) : (updCtl m f).net = m.net := rfl

@[simp] theorem updCtl_groups (f : Ctl → Ctl) : (updCtl m f).groups = m.groups := rfl

@[simp] theorem updCtl_colls (f : Ctl → Ctl) : (updCtl m f).colls = m.colls := rfl

@[simp] theorem updCtl_posts (f : Ctl → Ctl) : (updCtl m f).posts = m.posts := rfl

@[simp] theorem updCtl_fabs (f : Ctl → Ctl) : (updCtl m f).fabs = m.fabs := rfl

@[simp] theorem updCtl_slotRegs (f : Ctl → Ctl) : (updCtl m f).slotRegs = m.slotRegs := rfl

@[simp] theorem updCtl_power (f : Ctl → Ctl) : (updCtl m f).power = m.power := rfl

@[simp] theorem updCtl_port (f : Ctl → Ctl) : (updCtl m f).port = m.port := rfl

@[simp] theorem updCtl_seen (f : Ctl → Ctl) : (updCtl m f).seen = m.seen := rfl

/-! ### updMem -/

@[simp] theorem updMem_cycle (f : Mem → Mem) : (updMem m f).cycle = m.cycle := rfl

@[simp] theorem updMem_free (f : Mem → Mem) : (updMem m f).free = m.free := rfl

@[simp] theorem updMem_out (f : Mem → Mem) : (updMem m f).out = m.out := rfl

@[simp] theorem updMem_sys (f : Mem → Mem) : (updMem m f).sys = m.sys := rfl

@[simp] theorem updMem_ctl (f : Mem → Mem) : (updMem m f).ctl = m.ctl := rfl

@[simp] theorem updMem_jobs (f : Mem → Mem) : (updMem m f).jobs = m.jobs := rfl

@[simp] theorem updMem_mem (f : Mem → Mem) : (updMem m f).mem = f m.mem := rfl

@[simp] theorem updMem_arrays (f : Mem → Mem) : (updMem m f).arrays = m.arrays := rfl

@[simp] theorem updMem_ves (f : Mem → Mem) : (updMem m f).ves = m.ves := rfl

@[simp] theorem updMem_banks (f : Mem → Mem) : (updMem m f).banks = m.banks := rfl

@[simp] theorem updMem_dmas (f : Mem → Mem) : (updMem m f).dmas = m.dmas := rfl

@[simp] theorem updMem_posted (f : Mem → Mem) : (updMem m f).posted = m.posted := rfl

@[simp] theorem updMem_atts (f : Mem → Mem) : (updMem m f).atts = m.atts := rfl

@[simp] theorem updMem_atms (f : Mem → Mem) : (updMem m f).atms = m.atms := rfl

@[simp] theorem updMem_pools (f : Mem → Mem) : (updMem m f).pools = m.pools := rfl

@[simp] theorem updMem_seqs (f : Mem → Mem) : (updMem m f).seqs = m.seqs := rfl

@[simp] theorem updMem_tinctures (f : Mem → Mem) : (updMem m f).tinctures = m.tinctures := rfl

@[simp] theorem updMem_restores (f : Mem → Mem) : (updMem m f).restores = m.restores := rfl

@[simp] theorem updMem_net (f : Mem → Mem) : (updMem m f).net = m.net := rfl

@[simp] theorem updMem_groups (f : Mem → Mem) : (updMem m f).groups = m.groups := rfl

@[simp] theorem updMem_colls (f : Mem → Mem) : (updMem m f).colls = m.colls := rfl

@[simp] theorem updMem_posts (f : Mem → Mem) : (updMem m f).posts = m.posts := rfl

@[simp] theorem updMem_fabs (f : Mem → Mem) : (updMem m f).fabs = m.fabs := rfl

@[simp] theorem updMem_slotRegs (f : Mem → Mem) : (updMem m f).slotRegs = m.slotRegs := rfl

@[simp] theorem updMem_power (f : Mem → Mem) : (updMem m f).power = m.power := rfl

@[simp] theorem updMem_port (f : Mem → Mem) : (updMem m f).port = m.port := rfl

@[simp] theorem updMem_seen (f : Mem → Mem) : (updMem m f).seen = m.seen := rfl

/-! ### updSys -/

@[simp] theorem updSys_cycle (f : Sys → Sys) : (updSys m f).cycle = m.cycle := rfl

@[simp] theorem updSys_free (f : Sys → Sys) : (updSys m f).free = m.free := rfl

@[simp] theorem updSys_out (f : Sys → Sys) : (updSys m f).out = m.out := rfl

@[simp] theorem updSys_sys (f : Sys → Sys) : (updSys m f).sys = f m.sys := rfl

@[simp] theorem updSys_ctl (f : Sys → Sys) : (updSys m f).ctl = m.ctl := rfl

@[simp] theorem updSys_jobs (f : Sys → Sys) : (updSys m f).jobs = m.jobs := rfl

@[simp] theorem updSys_mem (f : Sys → Sys) : (updSys m f).mem = m.mem := rfl

@[simp] theorem updSys_arrays (f : Sys → Sys) : (updSys m f).arrays = m.arrays := rfl

@[simp] theorem updSys_ves (f : Sys → Sys) : (updSys m f).ves = m.ves := rfl

@[simp] theorem updSys_banks (f : Sys → Sys) : (updSys m f).banks = m.banks := rfl

@[simp] theorem updSys_dmas (f : Sys → Sys) : (updSys m f).dmas = m.dmas := rfl

@[simp] theorem updSys_posted (f : Sys → Sys) : (updSys m f).posted = m.posted := rfl

@[simp] theorem updSys_atts (f : Sys → Sys) : (updSys m f).atts = m.atts := rfl

@[simp] theorem updSys_atms (f : Sys → Sys) : (updSys m f).atms = m.atms := rfl

@[simp] theorem updSys_pools (f : Sys → Sys) : (updSys m f).pools = m.pools := rfl

@[simp] theorem updSys_seqs (f : Sys → Sys) : (updSys m f).seqs = m.seqs := rfl

@[simp] theorem updSys_tinctures (f : Sys → Sys) : (updSys m f).tinctures = m.tinctures := rfl

@[simp] theorem updSys_restores (f : Sys → Sys) : (updSys m f).restores = m.restores := rfl

@[simp] theorem updSys_net (f : Sys → Sys) : (updSys m f).net = m.net := rfl

@[simp] theorem updSys_groups (f : Sys → Sys) : (updSys m f).groups = m.groups := rfl

@[simp] theorem updSys_colls (f : Sys → Sys) : (updSys m f).colls = m.colls := rfl

@[simp] theorem updSys_posts (f : Sys → Sys) : (updSys m f).posts = m.posts := rfl

@[simp] theorem updSys_fabs (f : Sys → Sys) : (updSys m f).fabs = m.fabs := rfl

@[simp] theorem updSys_slotRegs (f : Sys → Sys) : (updSys m f).slotRegs = m.slotRegs := rfl

@[simp] theorem updSys_power (f : Sys → Sys) : (updSys m f).power = m.power := rfl

@[simp] theorem updSys_port (f : Sys → Sys) : (updSys m f).port = m.port := rfl

@[simp] theorem updSys_seen (f : Sys → Sys) : (updSys m f).seen = m.seen := rfl

/-! ### updPower -/

@[simp] theorem updPower_cycle (f : Power → Power) : (updPower m f).cycle = m.cycle := rfl

@[simp] theorem updPower_free (f : Power → Power) : (updPower m f).free = m.free := rfl

@[simp] theorem updPower_out (f : Power → Power) : (updPower m f).out = m.out := rfl

@[simp] theorem updPower_sys (f : Power → Power) : (updPower m f).sys = m.sys := rfl

@[simp] theorem updPower_ctl (f : Power → Power) : (updPower m f).ctl = m.ctl := rfl

@[simp] theorem updPower_jobs (f : Power → Power) : (updPower m f).jobs = m.jobs := rfl

@[simp] theorem updPower_mem (f : Power → Power) : (updPower m f).mem = m.mem := rfl

@[simp] theorem updPower_arrays (f : Power → Power) : (updPower m f).arrays = m.arrays := rfl

@[simp] theorem updPower_ves (f : Power → Power) : (updPower m f).ves = m.ves := rfl

@[simp] theorem updPower_banks (f : Power → Power) : (updPower m f).banks = m.banks := rfl

@[simp] theorem updPower_dmas (f : Power → Power) : (updPower m f).dmas = m.dmas := rfl

@[simp] theorem updPower_posted (f : Power → Power) : (updPower m f).posted = m.posted := rfl

@[simp] theorem updPower_atts (f : Power → Power) : (updPower m f).atts = m.atts := rfl

@[simp] theorem updPower_atms (f : Power → Power) : (updPower m f).atms = m.atms := rfl

@[simp] theorem updPower_pools (f : Power → Power) : (updPower m f).pools = m.pools := rfl

@[simp] theorem updPower_seqs (f : Power → Power) : (updPower m f).seqs = m.seqs := rfl

@[simp] theorem updPower_tinctures (f : Power → Power) : (updPower m f).tinctures = m.tinctures := rfl

@[simp] theorem updPower_restores (f : Power → Power) : (updPower m f).restores = m.restores := rfl

@[simp] theorem updPower_net (f : Power → Power) : (updPower m f).net = m.net := rfl

@[simp] theorem updPower_groups (f : Power → Power) : (updPower m f).groups = m.groups := rfl

@[simp] theorem updPower_colls (f : Power → Power) : (updPower m f).colls = m.colls := rfl

@[simp] theorem updPower_posts (f : Power → Power) : (updPower m f).posts = m.posts := rfl

@[simp] theorem updPower_fabs (f : Power → Power) : (updPower m f).fabs = m.fabs := rfl

@[simp] theorem updPower_slotRegs (f : Power → Power) : (updPower m f).slotRegs = m.slotRegs := rfl

@[simp] theorem updPower_power (f : Power → Power) : (updPower m f).power = f m.power := rfl

@[simp] theorem updPower_port (f : Power → Power) : (updPower m f).port = m.port := rfl

@[simp] theorem updPower_seen (f : Power → Power) : (updPower m f).seen = m.seen := rfl

/-! ### updPort -/

@[simp] theorem updPort_cycle (f : Port → Port) : (updPort m f).cycle = m.cycle := rfl

@[simp] theorem updPort_free (f : Port → Port) : (updPort m f).free = m.free := rfl

@[simp] theorem updPort_out (f : Port → Port) : (updPort m f).out = m.out := rfl

@[simp] theorem updPort_sys (f : Port → Port) : (updPort m f).sys = m.sys := rfl

@[simp] theorem updPort_ctl (f : Port → Port) : (updPort m f).ctl = m.ctl := rfl

@[simp] theorem updPort_jobs (f : Port → Port) : (updPort m f).jobs = m.jobs := rfl

@[simp] theorem updPort_mem (f : Port → Port) : (updPort m f).mem = m.mem := rfl

@[simp] theorem updPort_arrays (f : Port → Port) : (updPort m f).arrays = m.arrays := rfl

@[simp] theorem updPort_ves (f : Port → Port) : (updPort m f).ves = m.ves := rfl

@[simp] theorem updPort_banks (f : Port → Port) : (updPort m f).banks = m.banks := rfl

@[simp] theorem updPort_dmas (f : Port → Port) : (updPort m f).dmas = m.dmas := rfl

@[simp] theorem updPort_posted (f : Port → Port) : (updPort m f).posted = m.posted := rfl

@[simp] theorem updPort_atts (f : Port → Port) : (updPort m f).atts = m.atts := rfl

@[simp] theorem updPort_atms (f : Port → Port) : (updPort m f).atms = m.atms := rfl

@[simp] theorem updPort_pools (f : Port → Port) : (updPort m f).pools = m.pools := rfl

@[simp] theorem updPort_seqs (f : Port → Port) : (updPort m f).seqs = m.seqs := rfl

@[simp] theorem updPort_tinctures (f : Port → Port) : (updPort m f).tinctures = m.tinctures := rfl

@[simp] theorem updPort_restores (f : Port → Port) : (updPort m f).restores = m.restores := rfl

@[simp] theorem updPort_net (f : Port → Port) : (updPort m f).net = m.net := rfl

@[simp] theorem updPort_groups (f : Port → Port) : (updPort m f).groups = m.groups := rfl

@[simp] theorem updPort_colls (f : Port → Port) : (updPort m f).colls = m.colls := rfl

@[simp] theorem updPort_posts (f : Port → Port) : (updPort m f).posts = m.posts := rfl

@[simp] theorem updPort_fabs (f : Port → Port) : (updPort m f).fabs = m.fabs := rfl

@[simp] theorem updPort_slotRegs (f : Port → Port) : (updPort m f).slotRegs = m.slotRegs := rfl

@[simp] theorem updPort_power (f : Port → Port) : (updPort m f).power = m.power := rfl

@[simp] theorem updPort_port (f : Port → Port) : (updPort m f).port = f m.port := rfl

@[simp] theorem updPort_seen (f : Port → Port) : (updPort m f).seen = m.seen := rfl

/-! ### updNet -/

@[simp] theorem updNet_cycle (f : Net → Net) : (updNet m f).cycle = m.cycle := rfl

@[simp] theorem updNet_free (f : Net → Net) : (updNet m f).free = m.free := rfl

@[simp] theorem updNet_out (f : Net → Net) : (updNet m f).out = m.out := rfl

@[simp] theorem updNet_sys (f : Net → Net) : (updNet m f).sys = m.sys := rfl

@[simp] theorem updNet_ctl (f : Net → Net) : (updNet m f).ctl = m.ctl := rfl

@[simp] theorem updNet_jobs (f : Net → Net) : (updNet m f).jobs = m.jobs := rfl

@[simp] theorem updNet_mem (f : Net → Net) : (updNet m f).mem = m.mem := rfl

@[simp] theorem updNet_arrays (f : Net → Net) : (updNet m f).arrays = m.arrays := rfl

@[simp] theorem updNet_ves (f : Net → Net) : (updNet m f).ves = m.ves := rfl

@[simp] theorem updNet_banks (f : Net → Net) : (updNet m f).banks = m.banks := rfl

@[simp] theorem updNet_dmas (f : Net → Net) : (updNet m f).dmas = m.dmas := rfl

@[simp] theorem updNet_posted (f : Net → Net) : (updNet m f).posted = m.posted := rfl

@[simp] theorem updNet_atts (f : Net → Net) : (updNet m f).atts = m.atts := rfl

@[simp] theorem updNet_atms (f : Net → Net) : (updNet m f).atms = m.atms := rfl

@[simp] theorem updNet_pools (f : Net → Net) : (updNet m f).pools = m.pools := rfl

@[simp] theorem updNet_seqs (f : Net → Net) : (updNet m f).seqs = m.seqs := rfl

@[simp] theorem updNet_tinctures (f : Net → Net) : (updNet m f).tinctures = m.tinctures := rfl

@[simp] theorem updNet_restores (f : Net → Net) : (updNet m f).restores = m.restores := rfl

@[simp] theorem updNet_net (f : Net → Net) : (updNet m f).net = f m.net := rfl

@[simp] theorem updNet_groups (f : Net → Net) : (updNet m f).groups = m.groups := rfl

@[simp] theorem updNet_colls (f : Net → Net) : (updNet m f).colls = m.colls := rfl

@[simp] theorem updNet_posts (f : Net → Net) : (updNet m f).posts = m.posts := rfl

@[simp] theorem updNet_fabs (f : Net → Net) : (updNet m f).fabs = m.fabs := rfl

@[simp] theorem updNet_slotRegs (f : Net → Net) : (updNet m f).slotRegs = m.slotRegs := rfl

@[simp] theorem updNet_power (f : Net → Net) : (updNet m f).power = m.power := rfl

@[simp] theorem updNet_port (f : Net → Net) : (updNet m f).port = m.port := rfl

@[simp] theorem updNet_seen (f : Net → Net) : (updNet m f).seen = m.seen := rfl

/-! ### send -/

@[simp] theorem send_cycle (o : Out) : (send m o).cycle = m.cycle := rfl

@[simp] theorem send_free (o : Out) : (send m o).free = m.free := rfl

@[simp] theorem send_out (o : Out) : (send m o).out = m.out ++ [o] := rfl

@[simp] theorem send_sys (o : Out) : (send m o).sys = m.sys := rfl

@[simp] theorem send_ctl (o : Out) : (send m o).ctl = m.ctl := rfl

@[simp] theorem send_jobs (o : Out) : (send m o).jobs = m.jobs := rfl

@[simp] theorem send_mem (o : Out) : (send m o).mem = m.mem := rfl

@[simp] theorem send_arrays (o : Out) : (send m o).arrays = m.arrays := rfl

@[simp] theorem send_ves (o : Out) : (send m o).ves = m.ves := rfl

@[simp] theorem send_banks (o : Out) : (send m o).banks = m.banks := rfl

@[simp] theorem send_dmas (o : Out) : (send m o).dmas = m.dmas := rfl

@[simp] theorem send_posted (o : Out) : (send m o).posted = m.posted := rfl

@[simp] theorem send_atts (o : Out) : (send m o).atts = m.atts := rfl

@[simp] theorem send_atms (o : Out) : (send m o).atms = m.atms := rfl

@[simp] theorem send_pools (o : Out) : (send m o).pools = m.pools := rfl

@[simp] theorem send_seqs (o : Out) : (send m o).seqs = m.seqs := rfl

@[simp] theorem send_tinctures (o : Out) : (send m o).tinctures = m.tinctures := rfl

@[simp] theorem send_restores (o : Out) : (send m o).restores = m.restores := rfl

@[simp] theorem send_net (o : Out) : (send m o).net = m.net := rfl

@[simp] theorem send_groups (o : Out) : (send m o).groups = m.groups := rfl

@[simp] theorem send_colls (o : Out) : (send m o).colls = m.colls := rfl

@[simp] theorem send_posts (o : Out) : (send m o).posts = m.posts := rfl

@[simp] theorem send_fabs (o : Out) : (send m o).fabs = m.fabs := rfl

@[simp] theorem send_slotRegs (o : Out) : (send m o).slotRegs = m.slotRegs := rfl

@[simp] theorem send_power (o : Out) : (send m o).power = m.power := rfl

@[simp] theorem send_port (o : Out) : (send m o).port = m.port := rfl

@[simp] theorem send_seen (o : Out) : (send m o).seen = m.seen := rfl

/-! ### queueEvent -/

@[simp] theorem queueEvent_cycle (st : Option Nat) (e : Event) : (queueEvent m st e).cycle = m.cycle := rfl

@[simp] theorem queueEvent_free (st : Option Nat) (e : Event) : (queueEvent m st e).free = m.free := rfl

@[simp] theorem queueEvent_out (st : Option Nat) (e : Event) : (queueEvent m st e).out = m.out := rfl

@[simp] theorem queueEvent_sys (st : Option Nat) (e : Event) : (queueEvent m st e).sys = m.sys := rfl

@[simp] theorem queueEvent_ctl (st : Option Nat) (e : Event) : (queueEvent m st e).ctl = { m.ctl with evq := m.ctl.evq ++ [(st, e)] } := rfl

@[simp] theorem queueEvent_jobs (st : Option Nat) (e : Event) : (queueEvent m st e).jobs = m.jobs := rfl

@[simp] theorem queueEvent_mem (st : Option Nat) (e : Event) : (queueEvent m st e).mem = m.mem := rfl

@[simp] theorem queueEvent_arrays (st : Option Nat) (e : Event) : (queueEvent m st e).arrays = m.arrays := rfl

@[simp] theorem queueEvent_ves (st : Option Nat) (e : Event) : (queueEvent m st e).ves = m.ves := rfl

@[simp] theorem queueEvent_banks (st : Option Nat) (e : Event) : (queueEvent m st e).banks = m.banks := rfl

@[simp] theorem queueEvent_dmas (st : Option Nat) (e : Event) : (queueEvent m st e).dmas = m.dmas := rfl

@[simp] theorem queueEvent_posted (st : Option Nat) (e : Event) : (queueEvent m st e).posted = m.posted := rfl

@[simp] theorem queueEvent_atts (st : Option Nat) (e : Event) : (queueEvent m st e).atts = m.atts := rfl

@[simp] theorem queueEvent_atms (st : Option Nat) (e : Event) : (queueEvent m st e).atms = m.atms := rfl

@[simp] theorem queueEvent_pools (st : Option Nat) (e : Event) : (queueEvent m st e).pools = m.pools := rfl

@[simp] theorem queueEvent_seqs (st : Option Nat) (e : Event) : (queueEvent m st e).seqs = m.seqs := rfl

@[simp] theorem queueEvent_tinctures (st : Option Nat) (e : Event) : (queueEvent m st e).tinctures = m.tinctures := rfl

@[simp] theorem queueEvent_restores (st : Option Nat) (e : Event) : (queueEvent m st e).restores = m.restores := rfl

@[simp] theorem queueEvent_net (st : Option Nat) (e : Event) : (queueEvent m st e).net = m.net := rfl

@[simp] theorem queueEvent_groups (st : Option Nat) (e : Event) : (queueEvent m st e).groups = m.groups := rfl

@[simp] theorem queueEvent_colls (st : Option Nat) (e : Event) : (queueEvent m st e).colls = m.colls := rfl

@[simp] theorem queueEvent_posts (st : Option Nat) (e : Event) : (queueEvent m st e).posts = m.posts := rfl

@[simp] theorem queueEvent_fabs (st : Option Nat) (e : Event) : (queueEvent m st e).fabs = m.fabs := rfl

@[simp] theorem queueEvent_slotRegs (st : Option Nat) (e : Event) : (queueEvent m st e).slotRegs = m.slotRegs := rfl

@[simp] theorem queueEvent_power (st : Option Nat) (e : Event) : (queueEvent m st e).power = m.power := rfl

@[simp] theorem queueEvent_port (st : Option Nat) (e : Event) : (queueEvent m st e).port = m.port := rfl

@[simp] theorem queueEvent_seen (st : Option Nat) (e : Event) : (queueEvent m st e).seen = m.seen := rfl

/-! ### cwWrite -/

@[simp] theorem cwWrite_cycle (o : Nat) (l : List Byte) : (cwWrite m o l).cycle = m.cycle := rfl

@[simp] theorem cwWrite_free (o : Nat) (l : List Byte) : (cwWrite m o l).free = m.free := rfl

@[simp] theorem cwWrite_out (o : Nat) (l : List Byte) : (cwWrite m o l).out = m.out := rfl

@[simp] theorem cwWrite_sys (o : Nat) (l : List Byte) : (cwWrite m o l).sys = m.sys := rfl

@[simp] theorem cwWrite_ctl (o : Nat) (l : List Byte) : (cwWrite m o l).ctl = { m.ctl with cw := tsplice m.ctl.cw o l.length (runEntries o l) } := rfl

@[simp] theorem cwWrite_jobs (o : Nat) (l : List Byte) : (cwWrite m o l).jobs = m.jobs := rfl

@[simp] theorem cwWrite_mem (o : Nat) (l : List Byte) : (cwWrite m o l).mem = m.mem := rfl

@[simp] theorem cwWrite_arrays (o : Nat) (l : List Byte) : (cwWrite m o l).arrays = m.arrays := rfl

@[simp] theorem cwWrite_ves (o : Nat) (l : List Byte) : (cwWrite m o l).ves = m.ves := rfl

@[simp] theorem cwWrite_banks (o : Nat) (l : List Byte) : (cwWrite m o l).banks = m.banks := rfl

@[simp] theorem cwWrite_dmas (o : Nat) (l : List Byte) : (cwWrite m o l).dmas = m.dmas := rfl

@[simp] theorem cwWrite_posted (o : Nat) (l : List Byte) : (cwWrite m o l).posted = m.posted := rfl

@[simp] theorem cwWrite_atts (o : Nat) (l : List Byte) : (cwWrite m o l).atts = m.atts := rfl

@[simp] theorem cwWrite_atms (o : Nat) (l : List Byte) : (cwWrite m o l).atms = m.atms := rfl

@[simp] theorem cwWrite_pools (o : Nat) (l : List Byte) : (cwWrite m o l).pools = m.pools := rfl

@[simp] theorem cwWrite_seqs (o : Nat) (l : List Byte) : (cwWrite m o l).seqs = m.seqs := rfl

@[simp] theorem cwWrite_tinctures (o : Nat) (l : List Byte) : (cwWrite m o l).tinctures = m.tinctures := rfl

@[simp] theorem cwWrite_restores (o : Nat) (l : List Byte) : (cwWrite m o l).restores = m.restores := rfl

@[simp] theorem cwWrite_net (o : Nat) (l : List Byte) : (cwWrite m o l).net = m.net := rfl

@[simp] theorem cwWrite_groups (o : Nat) (l : List Byte) : (cwWrite m o l).groups = m.groups := rfl

@[simp] theorem cwWrite_colls (o : Nat) (l : List Byte) : (cwWrite m o l).colls = m.colls := rfl

@[simp] theorem cwWrite_posts (o : Nat) (l : List Byte) : (cwWrite m o l).posts = m.posts := rfl

@[simp] theorem cwWrite_fabs (o : Nat) (l : List Byte) : (cwWrite m o l).fabs = m.fabs := rfl

@[simp] theorem cwWrite_slotRegs (o : Nat) (l : List Byte) : (cwWrite m o l).slotRegs = m.slotRegs := rfl

@[simp] theorem cwWrite_power (o : Nat) (l : List Byte) : (cwWrite m o l).power = m.power := rfl

@[simp] theorem cwWrite_port (o : Nat) (l : List Byte) : (cwWrite m o l).port = m.port := rfl

@[simp] theorem cwWrite_seen (o : Nat) (l : List Byte) : (cwWrite m o l).seen = m.seen := rfl

/-! ### takeBuckets -/

@[simp] theorem takeBuckets_cycle (mb : Nat) (bs : List Nat) : (takeBuckets m mb bs).cycle = m.cycle := rfl

@[simp] theorem takeBuckets_free (mb : Nat) (bs : List Nat) : (takeBuckets m mb bs).free = m.free := rfl

@[simp] theorem takeBuckets_out (mb : Nat) (bs : List Nat) : (takeBuckets m mb bs).out = m.out := rfl

@[simp] theorem takeBuckets_sys (mb : Nat) (bs : List Nat) : (takeBuckets m mb bs).sys = m.sys := rfl

@[simp] theorem takeBuckets_ctl (mb : Nat) (bs : List Nat) : (takeBuckets m mb bs).ctl = { m.ctl with holds := m.ctl.holds ++ bs.map (fun b => { bucket := b, mb := mb }) } := rfl

@[simp] theorem takeBuckets_jobs (mb : Nat) (bs : List Nat) : (takeBuckets m mb bs).jobs = m.jobs := rfl

@[simp] theorem takeBuckets_mem (mb : Nat) (bs : List Nat) : (takeBuckets m mb bs).mem = m.mem := rfl

@[simp] theorem takeBuckets_arrays (mb : Nat) (bs : List Nat) : (takeBuckets m mb bs).arrays = m.arrays := rfl

@[simp] theorem takeBuckets_ves (mb : Nat) (bs : List Nat) : (takeBuckets m mb bs).ves = m.ves := rfl

@[simp] theorem takeBuckets_banks (mb : Nat) (bs : List Nat) : (takeBuckets m mb bs).banks = m.banks := rfl

@[simp] theorem takeBuckets_dmas (mb : Nat) (bs : List Nat) : (takeBuckets m mb bs).dmas = m.dmas := rfl

@[simp] theorem takeBuckets_posted (mb : Nat) (bs : List Nat) : (takeBuckets m mb bs).posted = m.posted := rfl

@[simp] theorem takeBuckets_atts (mb : Nat) (bs : List Nat) : (takeBuckets m mb bs).atts = m.atts := rfl

@[simp] theorem takeBuckets_atms (mb : Nat) (bs : List Nat) : (takeBuckets m mb bs).atms = m.atms := rfl

@[simp] theorem takeBuckets_pools (mb : Nat) (bs : List Nat) : (takeBuckets m mb bs).pools = m.pools := rfl

@[simp] theorem takeBuckets_seqs (mb : Nat) (bs : List Nat) : (takeBuckets m mb bs).seqs = m.seqs := rfl

@[simp] theorem takeBuckets_tinctures (mb : Nat) (bs : List Nat) : (takeBuckets m mb bs).tinctures = m.tinctures := rfl

@[simp] theorem takeBuckets_restores (mb : Nat) (bs : List Nat) : (takeBuckets m mb bs).restores = m.restores := rfl

@[simp] theorem takeBuckets_net (mb : Nat) (bs : List Nat) : (takeBuckets m mb bs).net = m.net := rfl

@[simp] theorem takeBuckets_groups (mb : Nat) (bs : List Nat) : (takeBuckets m mb bs).groups = m.groups := rfl

@[simp] theorem takeBuckets_colls (mb : Nat) (bs : List Nat) : (takeBuckets m mb bs).colls = m.colls := rfl

@[simp] theorem takeBuckets_posts (mb : Nat) (bs : List Nat) : (takeBuckets m mb bs).posts = m.posts := rfl

@[simp] theorem takeBuckets_fabs (mb : Nat) (bs : List Nat) : (takeBuckets m mb bs).fabs = m.fabs := rfl

@[simp] theorem takeBuckets_slotRegs (mb : Nat) (bs : List Nat) : (takeBuckets m mb bs).slotRegs = m.slotRegs := rfl

@[simp] theorem takeBuckets_power (mb : Nat) (bs : List Nat) : (takeBuckets m mb bs).power = m.power := rfl

@[simp] theorem takeBuckets_port (mb : Nat) (bs : List Nat) : (takeBuckets m mb bs).port = m.port := rfl

@[simp] theorem takeBuckets_seen (mb : Nat) (bs : List Nat) : (takeBuckets m mb bs).seen = m.seen := rfl

/-! ### raisePart -/

@[simp] theorem raisePart_cycle (p e st : Nat) (l : List Byte) : (raisePart m p e st l).cycle = m.cycle := rfl

@[simp] theorem raisePart_free (p e st : Nat) (l : List Byte) : (raisePart m p e st l).free = m.free := rfl

@[simp] theorem raisePart_out (p e st : Nat) (l : List Byte) : (raisePart m p e st l).out = m.out := rfl

@[simp] theorem raisePart_sys (p e st : Nat) (l : List Byte) : (raisePart m p e st l).sys = m.sys := rfl

@[simp] theorem raisePart_ctl (p e st : Nat) (l : List Byte) : (raisePart m p e st l).ctl = { m.ctl with evq := m.ctl.evq ++ [(none, { etype := e, part := p, stroke := m.ctl.localStroke, status := st, payload := l })] } := rfl

@[simp] theorem raisePart_jobs (p e st : Nat) (l : List Byte) : (raisePart m p e st l).jobs = m.jobs := rfl

@[simp] theorem raisePart_mem (p e st : Nat) (l : List Byte) : (raisePart m p e st l).mem = m.mem := rfl

@[simp] theorem raisePart_arrays (p e st : Nat) (l : List Byte) : (raisePart m p e st l).arrays = m.arrays := rfl

@[simp] theorem raisePart_ves (p e st : Nat) (l : List Byte) : (raisePart m p e st l).ves = m.ves := rfl

@[simp] theorem raisePart_banks (p e st : Nat) (l : List Byte) : (raisePart m p e st l).banks = m.banks := rfl

@[simp] theorem raisePart_dmas (p e st : Nat) (l : List Byte) : (raisePart m p e st l).dmas = m.dmas := rfl

@[simp] theorem raisePart_posted (p e st : Nat) (l : List Byte) : (raisePart m p e st l).posted = m.posted := rfl

@[simp] theorem raisePart_atts (p e st : Nat) (l : List Byte) : (raisePart m p e st l).atts = m.atts := rfl

@[simp] theorem raisePart_atms (p e st : Nat) (l : List Byte) : (raisePart m p e st l).atms = m.atms := rfl

@[simp] theorem raisePart_pools (p e st : Nat) (l : List Byte) : (raisePart m p e st l).pools = m.pools := rfl

@[simp] theorem raisePart_seqs (p e st : Nat) (l : List Byte) : (raisePart m p e st l).seqs = m.seqs := rfl

@[simp] theorem raisePart_tinctures (p e st : Nat) (l : List Byte) : (raisePart m p e st l).tinctures = m.tinctures := rfl

@[simp] theorem raisePart_restores (p e st : Nat) (l : List Byte) : (raisePart m p e st l).restores = m.restores := rfl

@[simp] theorem raisePart_net (p e st : Nat) (l : List Byte) : (raisePart m p e st l).net = m.net := rfl

@[simp] theorem raisePart_groups (p e st : Nat) (l : List Byte) : (raisePart m p e st l).groups = m.groups := rfl

@[simp] theorem raisePart_colls (p e st : Nat) (l : List Byte) : (raisePart m p e st l).colls = m.colls := rfl

@[simp] theorem raisePart_posts (p e st : Nat) (l : List Byte) : (raisePart m p e st l).posts = m.posts := rfl

@[simp] theorem raisePart_fabs (p e st : Nat) (l : List Byte) : (raisePart m p e st l).fabs = m.fabs := rfl

@[simp] theorem raisePart_slotRegs (p e st : Nat) (l : List Byte) : (raisePart m p e st l).slotRegs = m.slotRegs := rfl

@[simp] theorem raisePart_power (p e st : Nat) (l : List Byte) : (raisePart m p e st l).power = m.power := rfl

@[simp] theorem raisePart_port (p e st : Nat) (l : List Byte) : (raisePart m p e st l).port = m.port := rfl

@[simp] theorem raisePart_seen (p e st : Nat) (l : List Byte) : (raisePart m p e st l).seen = m.seen := rfl

/-! ### Draws of free values -/

@[simp] theorem drawFree_snd_cycle (w : Nat) : (drawFree m w).2.cycle = m.cycle := rfl

@[simp] theorem drawFree_snd_free (w : Nat) : (drawFree m w).2.free = m.free + 1 := rfl

@[simp] theorem drawFree_snd_out (w : Nat) : (drawFree m w).2.out = m.out := rfl

@[simp] theorem drawFree_snd_sys (w : Nat) : (drawFree m w).2.sys = m.sys := rfl

@[simp] theorem drawFree_snd_ctl (w : Nat) : (drawFree m w).2.ctl = m.ctl := rfl

@[simp] theorem drawFree_snd_jobs (w : Nat) : (drawFree m w).2.jobs = m.jobs := rfl

@[simp] theorem drawFree_snd_mem (w : Nat) : (drawFree m w).2.mem = m.mem := rfl

@[simp] theorem drawFree_snd_arrays (w : Nat) : (drawFree m w).2.arrays = m.arrays := rfl

@[simp] theorem drawFree_snd_ves (w : Nat) : (drawFree m w).2.ves = m.ves := rfl

@[simp] theorem drawFree_snd_banks (w : Nat) : (drawFree m w).2.banks = m.banks := rfl

@[simp] theorem drawFree_snd_dmas (w : Nat) : (drawFree m w).2.dmas = m.dmas := rfl

@[simp] theorem drawFree_snd_posted (w : Nat) : (drawFree m w).2.posted = m.posted := rfl

@[simp] theorem drawFree_snd_atts (w : Nat) : (drawFree m w).2.atts = m.atts := rfl

@[simp] theorem drawFree_snd_atms (w : Nat) : (drawFree m w).2.atms = m.atms := rfl

@[simp] theorem drawFree_snd_pools (w : Nat) : (drawFree m w).2.pools = m.pools := rfl

@[simp] theorem drawFree_snd_seqs (w : Nat) : (drawFree m w).2.seqs = m.seqs := rfl

@[simp] theorem drawFree_snd_tinctures (w : Nat) : (drawFree m w).2.tinctures = m.tinctures := rfl

@[simp] theorem drawFree_snd_restores (w : Nat) : (drawFree m w).2.restores = m.restores := rfl

@[simp] theorem drawFree_snd_net (w : Nat) : (drawFree m w).2.net = m.net := rfl

@[simp] theorem drawFree_snd_groups (w : Nat) : (drawFree m w).2.groups = m.groups := rfl

@[simp] theorem drawFree_snd_colls (w : Nat) : (drawFree m w).2.colls = m.colls := rfl

@[simp] theorem drawFree_snd_posts (w : Nat) : (drawFree m w).2.posts = m.posts := rfl

@[simp] theorem drawFree_snd_fabs (w : Nat) : (drawFree m w).2.fabs = m.fabs := rfl

@[simp] theorem drawFree_snd_slotRegs (w : Nat) : (drawFree m w).2.slotRegs = m.slotRegs := rfl

@[simp] theorem drawFree_snd_power (w : Nat) : (drawFree m w).2.power = m.power := rfl

@[simp] theorem drawFree_snd_port (w : Nat) : (drawFree m w).2.port = m.port := rfl

@[simp] theorem drawFree_snd_seen (w : Nat) : (drawFree m w).2.seen = m.seen := rfl

@[simp] theorem drawFreeBytes_snd_cycle (n : Nat) : (drawFreeBytes m n).2.cycle = m.cycle := rfl

@[simp] theorem drawFreeBytes_snd_free (n : Nat) : (drawFreeBytes m n).2.free = m.free + n := rfl

@[simp] theorem drawFreeBytes_snd_out (n : Nat) : (drawFreeBytes m n).2.out = m.out := rfl

@[simp] theorem drawFreeBytes_snd_sys (n : Nat) : (drawFreeBytes m n).2.sys = m.sys := rfl

@[simp] theorem drawFreeBytes_snd_ctl (n : Nat) : (drawFreeBytes m n).2.ctl = m.ctl := rfl

@[simp] theorem drawFreeBytes_snd_jobs (n : Nat) : (drawFreeBytes m n).2.jobs = m.jobs := rfl

@[simp] theorem drawFreeBytes_snd_mem (n : Nat) : (drawFreeBytes m n).2.mem = m.mem := rfl

@[simp] theorem drawFreeBytes_snd_arrays (n : Nat) : (drawFreeBytes m n).2.arrays = m.arrays := rfl

@[simp] theorem drawFreeBytes_snd_ves (n : Nat) : (drawFreeBytes m n).2.ves = m.ves := rfl

@[simp] theorem drawFreeBytes_snd_banks (n : Nat) : (drawFreeBytes m n).2.banks = m.banks := rfl

@[simp] theorem drawFreeBytes_snd_dmas (n : Nat) : (drawFreeBytes m n).2.dmas = m.dmas := rfl

@[simp] theorem drawFreeBytes_snd_posted (n : Nat) : (drawFreeBytes m n).2.posted = m.posted := rfl

@[simp] theorem drawFreeBytes_snd_atts (n : Nat) : (drawFreeBytes m n).2.atts = m.atts := rfl

@[simp] theorem drawFreeBytes_snd_atms (n : Nat) : (drawFreeBytes m n).2.atms = m.atms := rfl

@[simp] theorem drawFreeBytes_snd_pools (n : Nat) : (drawFreeBytes m n).2.pools = m.pools := rfl

@[simp] theorem drawFreeBytes_snd_seqs (n : Nat) : (drawFreeBytes m n).2.seqs = m.seqs := rfl

@[simp] theorem drawFreeBytes_snd_tinctures (n : Nat) : (drawFreeBytes m n).2.tinctures = m.tinctures := rfl

@[simp] theorem drawFreeBytes_snd_restores (n : Nat) : (drawFreeBytes m n).2.restores = m.restores := rfl

@[simp] theorem drawFreeBytes_snd_net (n : Nat) : (drawFreeBytes m n).2.net = m.net := rfl

@[simp] theorem drawFreeBytes_snd_groups (n : Nat) : (drawFreeBytes m n).2.groups = m.groups := rfl

@[simp] theorem drawFreeBytes_snd_colls (n : Nat) : (drawFreeBytes m n).2.colls = m.colls := rfl

@[simp] theorem drawFreeBytes_snd_posts (n : Nat) : (drawFreeBytes m n).2.posts = m.posts := rfl

@[simp] theorem drawFreeBytes_snd_fabs (n : Nat) : (drawFreeBytes m n).2.fabs = m.fabs := rfl

@[simp] theorem drawFreeBytes_snd_slotRegs (n : Nat) : (drawFreeBytes m n).2.slotRegs = m.slotRegs := rfl

@[simp] theorem drawFreeBytes_snd_power (n : Nat) : (drawFreeBytes m n).2.power = m.power := rfl

@[simp] theorem drawFreeBytes_snd_port (n : Nat) : (drawFreeBytes m n).2.port = m.port := rfl

@[simp] theorem drawFreeBytes_snd_seen (n : Nat) : (drawFreeBytes m n).2.seen = m.seen := rfl


/-! ### Operations that may leave the module as it is -/

@[simp] theorem raiseJob_cycle (slot e st : Nat) (l : List Byte) : (raiseJob m slot e st l).cycle = m.cycle := by
  unfold raiseJob; split <;> rfl

@[simp] theorem raiseJob_free (slot e st : Nat) (l : List Byte) : (raiseJob m slot e st l).free = m.free := by
  unfold raiseJob; split <;> rfl

@[simp] theorem raiseJob_out (slot e st : Nat) (l : List Byte) : (raiseJob m slot e st l).out = m.out := by
  unfold raiseJob; split <;> rfl

@[simp] theorem raiseJob_sys (slot e st : Nat) (l : List Byte) : (raiseJob m slot e st l).sys = m.sys := by
  unfold raiseJob; split <;> rfl

@[simp] theorem raiseJob_jobs (slot e st : Nat) (l : List Byte) : (raiseJob m slot e st l).jobs = m.jobs := by
  unfold raiseJob; split <;> rfl

@[simp] theorem raiseJob_mem (slot e st : Nat) (l : List Byte) : (raiseJob m slot e st l).mem = m.mem := by
  unfold raiseJob; split <;> rfl

@[simp] theorem raiseJob_arrays (slot e st : Nat) (l : List Byte) : (raiseJob m slot e st l).arrays = m.arrays := by
  unfold raiseJob; split <;> rfl

@[simp] theorem raiseJob_ves (slot e st : Nat) (l : List Byte) : (raiseJob m slot e st l).ves = m.ves := by
  unfold raiseJob; split <;> rfl

@[simp] theorem raiseJob_banks (slot e st : Nat) (l : List Byte) : (raiseJob m slot e st l).banks = m.banks := by
  unfold raiseJob; split <;> rfl

@[simp] theorem raiseJob_dmas (slot e st : Nat) (l : List Byte) : (raiseJob m slot e st l).dmas = m.dmas := by
  unfold raiseJob; split <;> rfl

@[simp] theorem raiseJob_posted (slot e st : Nat) (l : List Byte) : (raiseJob m slot e st l).posted = m.posted := by
  unfold raiseJob; split <;> rfl

@[simp] theorem raiseJob_atts (slot e st : Nat) (l : List Byte) : (raiseJob m slot e st l).atts = m.atts := by
  unfold raiseJob; split <;> rfl

@[simp] theorem raiseJob_atms (slot e st : Nat) (l : List Byte) : (raiseJob m slot e st l).atms = m.atms := by
  unfold raiseJob; split <;> rfl

@[simp] theorem raiseJob_pools (slot e st : Nat) (l : List Byte) : (raiseJob m slot e st l).pools = m.pools := by
  unfold raiseJob; split <;> rfl

@[simp] theorem raiseJob_seqs (slot e st : Nat) (l : List Byte) : (raiseJob m slot e st l).seqs = m.seqs := by
  unfold raiseJob; split <;> rfl

@[simp] theorem raiseJob_tinctures (slot e st : Nat) (l : List Byte) : (raiseJob m slot e st l).tinctures = m.tinctures := by
  unfold raiseJob; split <;> rfl

@[simp] theorem raiseJob_restores (slot e st : Nat) (l : List Byte) : (raiseJob m slot e st l).restores = m.restores := by
  unfold raiseJob; split <;> rfl

@[simp] theorem raiseJob_net (slot e st : Nat) (l : List Byte) : (raiseJob m slot e st l).net = m.net := by
  unfold raiseJob; split <;> rfl

@[simp] theorem raiseJob_groups (slot e st : Nat) (l : List Byte) : (raiseJob m slot e st l).groups = m.groups := by
  unfold raiseJob; split <;> rfl

@[simp] theorem raiseJob_colls (slot e st : Nat) (l : List Byte) : (raiseJob m slot e st l).colls = m.colls := by
  unfold raiseJob; split <;> rfl

@[simp] theorem raiseJob_posts (slot e st : Nat) (l : List Byte) : (raiseJob m slot e st l).posts = m.posts := by
  unfold raiseJob; split <;> rfl

@[simp] theorem raiseJob_fabs (slot e st : Nat) (l : List Byte) : (raiseJob m slot e st l).fabs = m.fabs := by
  unfold raiseJob; split <;> rfl

@[simp] theorem raiseJob_slotRegs (slot e st : Nat) (l : List Byte) : (raiseJob m slot e st l).slotRegs = m.slotRegs := by
  unfold raiseJob; split <;> rfl

@[simp] theorem raiseJob_power (slot e st : Nat) (l : List Byte) : (raiseJob m slot e st l).power = m.power := by
  unfold raiseJob; split <;> rfl

@[simp] theorem raiseJob_port (slot e st : Nat) (l : List Byte) : (raiseJob m slot e st l).port = m.port := by
  unfold raiseJob; split <;> rfl

@[simp] theorem raiseJob_seen (slot e st : Nat) (l : List Byte) : (raiseJob m slot e st l).seen = m.seen := by
  unfold raiseJob; split <;> rfl

@[simp] theorem setFlag_cycle (b : Nat) (x : Flag) : (setFlag m b x).cycle = m.cycle := by
  unfold setFlag; split <;> rfl

@[simp] theorem setFlag_free (b : Nat) (x : Flag) : (setFlag m b x).free = m.free := by
  unfold setFlag; split <;> rfl

@[simp] theorem setFlag_out (b : Nat) (x : Flag) : (setFlag m b x).out = m.out := by
  unfold setFlag; split <;> rfl

@[simp] theorem setFlag_sys (b : Nat) (x : Flag) : (setFlag m b x).sys = m.sys := by
  unfold setFlag; split <;> rfl

@[simp] theorem setFlag_jobs (b : Nat) (x : Flag) : (setFlag m b x).jobs = m.jobs := by
  unfold setFlag; split <;> rfl

@[simp] theorem setFlag_mem (b : Nat) (x : Flag) : (setFlag m b x).mem = m.mem := by
  unfold setFlag; split <;> rfl

@[simp] theorem setFlag_arrays (b : Nat) (x : Flag) : (setFlag m b x).arrays = m.arrays := by
  unfold setFlag; split <;> rfl

@[simp] theorem setFlag_ves (b : Nat) (x : Flag) : (setFlag m b x).ves = m.ves := by
  unfold setFlag; split <;> rfl

@[simp] theorem setFlag_banks (b : Nat) (x : Flag) : (setFlag m b x).banks = m.banks := by
  unfold setFlag; split <;> rfl

@[simp] theorem setFlag_dmas (b : Nat) (x : Flag) : (setFlag m b x).dmas = m.dmas := by
  unfold setFlag; split <;> rfl

@[simp] theorem setFlag_posted (b : Nat) (x : Flag) : (setFlag m b x).posted = m.posted := by
  unfold setFlag; split <;> rfl

@[simp] theorem setFlag_atts (b : Nat) (x : Flag) : (setFlag m b x).atts = m.atts := by
  unfold setFlag; split <;> rfl

@[simp] theorem setFlag_atms (b : Nat) (x : Flag) : (setFlag m b x).atms = m.atms := by
  unfold setFlag; split <;> rfl

@[simp] theorem setFlag_pools (b : Nat) (x : Flag) : (setFlag m b x).pools = m.pools := by
  unfold setFlag; split <;> rfl

@[simp] theorem setFlag_seqs (b : Nat) (x : Flag) : (setFlag m b x).seqs = m.seqs := by
  unfold setFlag; split <;> rfl

@[simp] theorem setFlag_tinctures (b : Nat) (x : Flag) : (setFlag m b x).tinctures = m.tinctures := by
  unfold setFlag; split <;> rfl

@[simp] theorem setFlag_restores (b : Nat) (x : Flag) : (setFlag m b x).restores = m.restores := by
  unfold setFlag; split <;> rfl

@[simp] theorem setFlag_net (b : Nat) (x : Flag) : (setFlag m b x).net = m.net := by
  unfold setFlag; split <;> rfl

@[simp] theorem setFlag_groups (b : Nat) (x : Flag) : (setFlag m b x).groups = m.groups := by
  unfold setFlag; split <;> rfl

@[simp] theorem setFlag_colls (b : Nat) (x : Flag) : (setFlag m b x).colls = m.colls := by
  unfold setFlag; split <;> rfl

@[simp] theorem setFlag_posts (b : Nat) (x : Flag) : (setFlag m b x).posts = m.posts := by
  unfold setFlag; split <;> rfl

@[simp] theorem setFlag_fabs (b : Nat) (x : Flag) : (setFlag m b x).fabs = m.fabs := by
  unfold setFlag; split <;> rfl

@[simp] theorem setFlag_slotRegs (b : Nat) (x : Flag) : (setFlag m b x).slotRegs = m.slotRegs := by
  unfold setFlag; split <;> rfl

@[simp] theorem setFlag_power (b : Nat) (x : Flag) : (setFlag m b x).power = m.power := by
  unfold setFlag; split <;> rfl

@[simp] theorem setFlag_port (b : Nat) (x : Flag) : (setFlag m b x).port = m.port := by
  unfold setFlag; split <;> rfl

@[simp] theorem setFlag_seen (b : Nat) (x : Flag) : (setFlag m b x).seen = m.seen := by
  unfold setFlag; split <;> rfl

@[simp] theorem writeRecord_cycle (p : Nat) (e : Event) : (writeRecord m p e).cycle = m.cycle := by
  simp only [writeRecord]; split <;> rfl

@[simp] theorem writeRecord_free (p : Nat) (e : Event) : (writeRecord m p e).free = m.free := by
  simp only [writeRecord]; split <;> rfl

@[simp] theorem writeRecord_sys (p : Nat) (e : Event) : (writeRecord m p e).sys = m.sys := by
  simp only [writeRecord]; split <;> rfl

@[simp] theorem writeRecord_jobs (p : Nat) (e : Event) : (writeRecord m p e).jobs = m.jobs := by
  simp only [writeRecord]; split <;> rfl

@[simp] theorem writeRecord_mem (p : Nat) (e : Event) : (writeRecord m p e).mem = m.mem := by
  simp only [writeRecord]; split <;> rfl

@[simp] theorem writeRecord_arrays (p : Nat) (e : Event) : (writeRecord m p e).arrays = m.arrays := by
  simp only [writeRecord]; split <;> rfl

@[simp] theorem writeRecord_ves (p : Nat) (e : Event) : (writeRecord m p e).ves = m.ves := by
  simp only [writeRecord]; split <;> rfl

@[simp] theorem writeRecord_banks (p : Nat) (e : Event) : (writeRecord m p e).banks = m.banks := by
  simp only [writeRecord]; split <;> rfl

@[simp] theorem writeRecord_dmas (p : Nat) (e : Event) : (writeRecord m p e).dmas = m.dmas := by
  simp only [writeRecord]; split <;> rfl

@[simp] theorem writeRecord_posted (p : Nat) (e : Event) : (writeRecord m p e).posted = m.posted := by
  simp only [writeRecord]; split <;> rfl

@[simp] theorem writeRecord_atts (p : Nat) (e : Event) : (writeRecord m p e).atts = m.atts := by
  simp only [writeRecord]; split <;> rfl

@[simp] theorem writeRecord_atms (p : Nat) (e : Event) : (writeRecord m p e).atms = m.atms := by
  simp only [writeRecord]; split <;> rfl

@[simp] theorem writeRecord_pools (p : Nat) (e : Event) : (writeRecord m p e).pools = m.pools := by
  simp only [writeRecord]; split <;> rfl

@[simp] theorem writeRecord_seqs (p : Nat) (e : Event) : (writeRecord m p e).seqs = m.seqs := by
  simp only [writeRecord]; split <;> rfl

@[simp] theorem writeRecord_tinctures (p : Nat) (e : Event) : (writeRecord m p e).tinctures = m.tinctures := by
  simp only [writeRecord]; split <;> rfl

@[simp] theorem writeRecord_restores (p : Nat) (e : Event) : (writeRecord m p e).restores = m.restores := by
  simp only [writeRecord]; split <;> rfl

@[simp] theorem writeRecord_net (p : Nat) (e : Event) : (writeRecord m p e).net = m.net := by
  simp only [writeRecord]; split <;> rfl

@[simp] theorem writeRecord_groups (p : Nat) (e : Event) : (writeRecord m p e).groups = m.groups := by
  simp only [writeRecord]; split <;> rfl

@[simp] theorem writeRecord_colls (p : Nat) (e : Event) : (writeRecord m p e).colls = m.colls := by
  simp only [writeRecord]; split <;> rfl

@[simp] theorem writeRecord_posts (p : Nat) (e : Event) : (writeRecord m p e).posts = m.posts := by
  simp only [writeRecord]; split <;> rfl

@[simp] theorem writeRecord_fabs (p : Nat) (e : Event) : (writeRecord m p e).fabs = m.fabs := by
  simp only [writeRecord]; split <;> rfl

@[simp] theorem writeRecord_slotRegs (p : Nat) (e : Event) : (writeRecord m p e).slotRegs = m.slotRegs := by
  simp only [writeRecord]; split <;> rfl

@[simp] theorem writeRecord_power (p : Nat) (e : Event) : (writeRecord m p e).power = m.power := by
  simp only [writeRecord]; split <;> rfl

@[simp] theorem writeRecord_port (p : Nat) (e : Event) : (writeRecord m p e).port = m.port := by
  simp only [writeRecord]; split <;> rfl

@[simp] theorem writeRecord_seen (p : Nat) (e : Event) : (writeRecord m p e).seen = m.seen := by
  simp only [writeRecord]; split <;> rfl

@[simp] theorem emit_cycle (e : Event) : (emit m e).cycle = m.cycle := by
  simp only [emit]; split
  · simp
  · split <;> rfl

@[simp] theorem emit_free (e : Event) : (emit m e).free = m.free := by
  simp only [emit]; split
  · simp
  · split <;> rfl

@[simp] theorem emit_sys (e : Event) : (emit m e).sys = m.sys := by
  simp only [emit]; split
  · simp
  · split <;> rfl

@[simp] theorem emit_jobs (e : Event) : (emit m e).jobs = m.jobs := by
  simp only [emit]; split
  · simp
  · split <;> rfl

@[simp] theorem emit_mem (e : Event) : (emit m e).mem = m.mem := by
  simp only [emit]; split
  · simp
  · split <;> rfl

@[simp] theorem emit_arrays (e : Event) : (emit m e).arrays = m.arrays := by
  simp only [emit]; split
  · simp
  · split <;> rfl

@[simp] theorem emit_ves (e : Event) : (emit m e).ves = m.ves := by
  simp only [emit]; split
  · simp
  · split <;> rfl

@[simp] theorem emit_banks (e : Event) : (emit m e).banks = m.banks := by
  simp only [emit]; split
  · simp
  · split <;> rfl

@[simp] theorem emit_dmas (e : Event) : (emit m e).dmas = m.dmas := by
  simp only [emit]; split
  · simp
  · split <;> rfl

@[simp] theorem emit_posted (e : Event) : (emit m e).posted = m.posted := by
  simp only [emit]; split
  · simp
  · split <;> rfl

@[simp] theorem emit_atts (e : Event) : (emit m e).atts = m.atts := by
  simp only [emit]; split
  · simp
  · split <;> rfl

@[simp] theorem emit_atms (e : Event) : (emit m e).atms = m.atms := by
  simp only [emit]; split
  · simp
  · split <;> rfl

@[simp] theorem emit_pools (e : Event) : (emit m e).pools = m.pools := by
  simp only [emit]; split
  · simp
  · split <;> rfl

@[simp] theorem emit_seqs (e : Event) : (emit m e).seqs = m.seqs := by
  simp only [emit]; split
  · simp
  · split <;> rfl

@[simp] theorem emit_tinctures (e : Event) : (emit m e).tinctures = m.tinctures := by
  simp only [emit]; split
  · simp
  · split <;> rfl

@[simp] theorem emit_restores (e : Event) : (emit m e).restores = m.restores := by
  simp only [emit]; split
  · simp
  · split <;> rfl

@[simp] theorem emit_net (e : Event) : (emit m e).net = m.net := by
  simp only [emit]; split
  · simp
  · split <;> rfl

@[simp] theorem emit_groups (e : Event) : (emit m e).groups = m.groups := by
  simp only [emit]; split
  · simp
  · split <;> rfl

@[simp] theorem emit_colls (e : Event) : (emit m e).colls = m.colls := by
  simp only [emit]; split
  · simp
  · split <;> rfl

@[simp] theorem emit_posts (e : Event) : (emit m e).posts = m.posts := by
  simp only [emit]; split
  · simp
  · split <;> rfl

@[simp] theorem emit_fabs (e : Event) : (emit m e).fabs = m.fabs := by
  simp only [emit]; split
  · simp
  · split <;> rfl

@[simp] theorem emit_slotRegs (e : Event) : (emit m e).slotRegs = m.slotRegs := by
  simp only [emit]; split
  · simp
  · split <;> rfl

@[simp] theorem emit_power (e : Event) : (emit m e).power = m.power := by
  simp only [emit]; split
  · simp
  · split <;> rfl

@[simp] theorem emit_port (e : Event) : (emit m e).port = m.port := by
  simp only [emit]; split
  · simp
  · split <;> rfl

@[simp] theorem emit_seen (e : Event) : (emit m e).seen = m.seen := by
  simp only [emit]; split
  · simp
  · split <;> rfl

@[simp] theorem writeReply_cycle (r : Reply) : (writeReply m r).cycle = m.cycle := by
  simp only [writeReply]; split <;> simp

@[simp] theorem writeReply_free (r : Reply) : (writeReply m r).free = m.free := by
  simp only [writeReply]; split <;> simp

@[simp] theorem writeReply_sys (r : Reply) : (writeReply m r).sys = m.sys := by
  simp only [writeReply]; split <;> simp

@[simp] theorem writeReply_jobs (r : Reply) : (writeReply m r).jobs = m.jobs := by
  simp only [writeReply]; split <;> simp

@[simp] theorem writeReply_mem (r : Reply) : (writeReply m r).mem = m.mem := by
  simp only [writeReply]; split <;> simp

@[simp] theorem writeReply_arrays (r : Reply) : (writeReply m r).arrays = m.arrays := by
  simp only [writeReply]; split <;> simp

@[simp] theorem writeReply_ves (r : Reply) : (writeReply m r).ves = m.ves := by
  simp only [writeReply]; split <;> simp

@[simp] theorem writeReply_banks (r : Reply) : (writeReply m r).banks = m.banks := by
  simp only [writeReply]; split <;> simp

@[simp] theorem writeReply_dmas (r : Reply) : (writeReply m r).dmas = m.dmas := by
  simp only [writeReply]; split <;> simp

@[simp] theorem writeReply_posted (r : Reply) : (writeReply m r).posted = m.posted := by
  simp only [writeReply]; split <;> simp

@[simp] theorem writeReply_atts (r : Reply) : (writeReply m r).atts = m.atts := by
  simp only [writeReply]; split <;> simp

@[simp] theorem writeReply_atms (r : Reply) : (writeReply m r).atms = m.atms := by
  simp only [writeReply]; split <;> simp

@[simp] theorem writeReply_pools (r : Reply) : (writeReply m r).pools = m.pools := by
  simp only [writeReply]; split <;> simp

@[simp] theorem writeReply_seqs (r : Reply) : (writeReply m r).seqs = m.seqs := by
  simp only [writeReply]; split <;> simp

@[simp] theorem writeReply_tinctures (r : Reply) : (writeReply m r).tinctures = m.tinctures := by
  simp only [writeReply]; split <;> simp

@[simp] theorem writeReply_restores (r : Reply) : (writeReply m r).restores = m.restores := by
  simp only [writeReply]; split <;> simp

@[simp] theorem writeReply_net (r : Reply) : (writeReply m r).net = m.net := by
  simp only [writeReply]; split <;> simp

@[simp] theorem writeReply_groups (r : Reply) : (writeReply m r).groups = m.groups := by
  simp only [writeReply]; split <;> simp

@[simp] theorem writeReply_colls (r : Reply) : (writeReply m r).colls = m.colls := by
  simp only [writeReply]; split <;> simp

@[simp] theorem writeReply_posts (r : Reply) : (writeReply m r).posts = m.posts := by
  simp only [writeReply]; split <;> simp

@[simp] theorem writeReply_fabs (r : Reply) : (writeReply m r).fabs = m.fabs := by
  simp only [writeReply]; split <;> simp

@[simp] theorem writeReply_slotRegs (r : Reply) : (writeReply m r).slotRegs = m.slotRegs := by
  simp only [writeReply]; split <;> simp

@[simp] theorem writeReply_power (r : Reply) : (writeReply m r).power = m.power := by
  simp only [writeReply]; split <;> simp

@[simp] theorem writeReply_port (r : Reply) : (writeReply m r).port = m.port := by
  simp only [writeReply]; split <;> simp

@[simp] theorem writeReply_seen (r : Reply) : (writeReply m r).seen = m.seen := by
  simp only [writeReply]; split <;> simp


end Sys2Proof.Machine
end

