-- ==== Sys2Proof/Laws/Tables.lean ====
section
/-! SUPPORT. Sys2Proof/Laws/Tables.lean: reading after writing in a sparse table, the canonical form under every table
operation, and the same for the bytes and poison marks of memory. -/

namespace Sys2Proof.Machine

variable {α : Type}

/-! ### Sorted tables -/

/-- Neighbours rising is the same as every earlier key lying below every later one. -/
theorem tsorted_iff (t : Tab α) : tsorted t = true ↔ t.Pairwise (fun a b => a.1 < b.1) := by
  induction t with
  | nil => simp [tsorted]
  | cons x t ih =>
    cases t with
    | nil => simp [tsorted]
    | cons y t =>
      obtain ⟨k, v⟩ := x
      obtain ⟨k', v'⟩ := y
      rw [tsorted, Bool.and_eq_true, decide_eq_true_eq, ih, List.pairwise_cons (a := (k, v))]
      constructor
      · rintro ⟨h, p⟩
        refine ⟨fun b hb => ?_, p⟩
        rcases List.mem_cons.mp hb with rfl | hb
        · exact h
        · exact Nat.lt_trans h ((List.pairwise_cons.mp p).1 b hb)
      · rintro ⟨h, p⟩
        exact ⟨h _ (List.mem_cons_self ..), p⟩

/-- The canonical form in terms of its entries. -/
theorem twf_iff [DecidableEq α] (d : α) (t : Tab α) :
    twf d t = true ↔ t.Pairwise (fun a b => a.1 < b.1) ∧ ∀ p ∈ t, p.2 ≠ d := by
  simp [twf, tsorted_iff]

theorem twf_nil [DecidableEq α] (d : α) : twf d ([] : Tab α) = true := rfl

theorem mem_tput {t : Tab α} {k : Nat} {v : α} {p : Nat × α} (h : p ∈ tput t k v) : p = (k, v) ∨ p ∈ t := by
  induction t with
  | nil => simpa [tput] using h
  | cons x t ih =>
    rw [tput] at h
    split at h
    · simpa using h
    · split at h
      · rcases List.mem_cons.mp h with h | h
        · exact .inl h
        · exact .inr (List.mem_cons_of_mem _ h)
      · rcases List.mem_cons.mp h with h | h
        · exact .inr (h ▸ List.mem_cons_self ..)
        · exact (ih h).imp_right (List.mem_cons_of_mem _)

theorem tput_sorted {t : Tab α} (k : Nat) (v : α) (h : t.Pairwise (fun a b => a.1 < b.1)) :
    (tput t k v).Pairwise (fun a b => a.1 < b.1) := by
  induction t with
  | nil => simp [tput]
  | cons x t ih =>
    obtain ⟨hx, ht⟩ := List.pairwise_cons.mp h
    rw [tput]
    split
    · rename_i hk
      refine List.pairwise_cons.mpr ⟨fun b hb => ?_, h⟩
      rcases List.mem_cons.mp hb with rfl | hb
      · exact hk
      · exact Nat.lt_trans hk (hx b hb)
    · split
      · rename_i hk
        exact List.pairwise_cons.mpr ⟨fun b hb => hk ▸ hx b hb, ht⟩
      · rename_i h1 h2
        refine List.pairwise_cons.mpr ⟨fun b hb => ?_, ih ht⟩
        rcases mem_tput hb with rfl | hb
        · show x.1 < k
          omega
        · exact hx b hb

theorem tput_twf [DecidableEq α] {d : α} {t : Tab α} {k : Nat} {v : α} (h : twf d t = true) (hv : v ≠ d) :
    twf d (tput t k v) = true := by
  rw [twf_iff] at h ⊢
  exact ⟨tput_sorted k v h.1, fun p hp => (mem_tput hp).elim (fun e => e ▸ hv) (h.2 p)⟩

theorem twf_filter [DecidableEq α] {d : α} {t : Tab α} (f : Nat × α → Bool) (h : twf d t = true) :
    twf d (t.filter f) = true := by
  rw [twf_iff] at h ⊢
  exact ⟨h.1.filter f, fun p hp => h.2 p (List.mem_filter.mp hp).1⟩

theorem tdel_twf [DecidableEq α] {d : α} {t : Tab α} (k : Nat) (h : twf d t = true) : twf d (tdel t k) = true :=
  twf_filter _ h

/-- Setting a key keeps the canonical form. -/
theorem tset_twf [DecidableEq α] {d : α} {t : Tab α} (k : Nat) (v : α) (h : twf d t = true) :
    twf d (tset d t k v) = true := by
  unfold tset
  split
  · exact tdel_twf k h
  · exact tput_twf h ‹_›

theorem tmod_twf [DecidableEq α] {d : α} {t : Tab α} (k : Nat) (f : α → α) (h : twf d t = true) :
    twf d (tmod d t k f) = true := tset_twf k _ h

/-- Splicing entries of the spliced range keeps the canonical form. -/
theorem tsplice_twf [DecidableEq α] {d : α} {t es : Tab α} {lo n : Nat} (h : twf d t = true) (he : twf d es = true)
    (hr : ∀ p ∈ es, lo ≤ p.1 ∧ p.1 < lo + n) : twf d (tsplice t lo n es) = true := by
  rw [twf_iff] at h he ⊢
  unfold tsplice
  refine ⟨List.pairwise_append.mpr ⟨List.pairwise_append.mpr ⟨h.1.filter _, he.1, ?_⟩, h.1.filter _, ?_⟩, ?_⟩
  · intro a ha b hb
    have h1 := (List.mem_filter.mp ha).2
    simp only [decide_eq_true_eq] at h1
    have := (hr b hb).1
    omega
  · intro a ha b hb
    have h2 := (List.mem_filter.mp hb).2
    simp only [decide_eq_true_eq] at h2
    rcases List.mem_append.mp ha with ha | ha
    · have h1 := (List.mem_filter.mp ha).2
      simp only [decide_eq_true_eq] at h1
      omega
    · have := (hr a ha).2
      omega
  · intro p hp
    rcases List.mem_append.mp hp with hp | hp
    · rcases List.mem_append.mp hp with hp | hp
      · exact h.2 p (List.mem_filter.mp hp).1
      · exact he.2 p hp
    · exact h.2 p (List.mem_filter.mp hp).1

/-! ### Reading after writing -/

theorem tfind_tput (t : Tab α) (k j : Nat) (v : α) :
    tfind (tput t k v) j = if j = k then some v else tfind t j := by
  induction t with
  | nil =>
    by_cases hj : j = k
    · simp [tput, tfind, hj]
    · simp [tput, tfind, hj, Ne.symm hj]
  | cons x t ih =>
    rw [tput]
    split
    · by_cases hj : j = k
      · subst hj; simp [tfind]
      · simp [tfind, hj, Ne.symm hj]
    · split
      · rename_i hk
        by_cases hj : j = k
        · subst hj; simp [tfind]
        · have : x.1 ≠ j := fun e => hj (e ▸ hk)
          simp [tfind, hj, Ne.symm hj, this]
      · rename_i h1 h2
        by_cases hj : x.1 = j
        · have : j ≠ k := fun e => h2 (hj.trans e)
          simp [tfind, hj, this]
        · simp [tfind, hj, ih]

theorem tfind_filter (t : Tab α) (f : Nat → Bool) (j : Nat) :
    tfind (t.filter (fun p => f p.1)) j = if f j = true then tfind t j else none := by
  induction t with
  | nil => simp [tfind]
  | cons x t ih =>
    by_cases hj : x.1 = j
    · by_cases hf : f j = true
      · have : f x.1 = true := hj ▸ hf
        simp [List.filter_cons, tfind, this, hj, hf]
      · have : ¬ f x.1 = true := fun h => hf (hj ▸ h)
        simp [List.filter_cons, tfind, this, ih, hf]
    · by_cases hf : f x.1 = true
      · simp [List.filter_cons, tfind, hf, hj, ih]
      · simp [List.filter_cons, tfind, hf, hj, ih]

theorem tfind_append (s t : Tab α) (j : Nat) : tfind (s ++ t) j = (tfind s j).or (tfind t j) := by
  induction s with
  | nil => simp [tfind]
  | cons x s ih => by_cases hj : x.1 = j <;> simp [tfind, hj, ih]

theorem tfind_none_of {t : Tab α} {j : Nat} (h : ∀ p ∈ t, p.1 ≠ j) : tfind t j = none := by
  induction t with
  | nil => rfl
  | cons x t ih =>
    have := h x (List.mem_cons_self ..)
    simp [tfind, this, ih (fun p hp => h p (List.mem_cons_of_mem _ hp))]

/-- A table reads what was set. -/
theorem tget_tset [DecidableEq α] (d : α) (t : Tab α) (k j : Nat) (v : α) :
    tget d (tset d t k v) j = if j = k then v else tget d t j := by
  unfold tget tset
  split
  · rename_i hv
    unfold tdel
    rw [tfind_filter t (fun n => decide (n ≠ k)) j]
    by_cases hj : j = k <;> simp [hj, hv]
  · rw [tfind_tput t k j v]
    by_cases hj : j = k <;> simp [hj]

/-- Reading after a change of one key. -/
theorem tget_tmod [DecidableEq α] (d : α) (t : Tab α) (k j : Nat) (f : α → α) :
    tget d (tmod d t k f) j = if j = k then f (tget d t k) else tget d t j := tget_tset d t k j _

theorem tfind_tdel (t : Tab α) (k j : Nat) : tfind (tdel t k) j = if j = k then none else tfind t j := by
  unfold tdel
  rw [tfind_filter t (fun n => decide (n ≠ k)) j]
  by_cases hj : j = k <;> simp [hj]

theorem tfind_tupd (t : Tab α) (k j : Nat) (f : α → α) :
    tfind (tupd t k f) j = if j = k then (tfind t k).map f else tfind t j := by
  unfold tupd
  split
  · rename_i v h
    rw [tfind_tput]
    by_cases hj : j = k <;> simp [hj, h]
  · rename_i h
    by_cases hj : j = k <;> simp [hj, h]

/-- A splice reads its own entries inside its range and the old ones outside. -/
theorem tget_tsplice (d : α) (t es : Tab α) (lo n j : Nat) (hr : ∀ p ∈ es, lo ≤ p.1 ∧ p.1 < lo + n) :
    tget d (tsplice t lo n es) j = if lo ≤ j ∧ j < lo + n then tget d es j else tget d t j := by
  unfold tget tsplice
  rw [tfind_append, tfind_append, tfind_filter t (fun k => decide (k < lo)) j,
    tfind_filter t (fun k => decide (lo + n ≤ k)) j]
  by_cases h : lo ≤ j ∧ j < lo + n
  · have h1 : ¬ j < lo := by omega
    have h2 : ¬ lo + n ≤ j := by omega
    simp [h1, h2, h]
  · have he : tfind es j = none := tfind_none_of (fun p hp e => h (e ▸ hr p hp))
    by_cases h1 : j < lo
    · have h2 : ¬ lo + n ≤ j := by omega
      simp [h1, h2, he, show ¬ lo ≤ j by omega]
    · have h2 : lo + n ≤ j := by omega
      simp [h1, h2, he, show ¬ j < lo + n by omega]

/-! ### The bytes of a run -/

theorem mem_runEntries {a : Nat} {l : List Byte} {p : Nat × Byte} (h : p ∈ runEntries a l) :
    a ≤ p.1 ∧ p.1 < a + l.length ∧ p.2 ≠ 0 := by
  induction l generalizing a with
  | nil => simp [runEntries] at h
  | cons b l ih =>
    rw [runEntries] at h
    split at h
    · obtain ⟨h1, h2, h3⟩ := ih h
      simp only [List.length_cons]
      exact ⟨by omega, by omega, h3⟩
    · rename_i hb
      rcases List.mem_cons.mp h with rfl | h
      · exact ⟨Nat.le_refl _, by simp, hb⟩
      · obtain ⟨h1, h2, h3⟩ := ih h
        simp only [List.length_cons]
        exact ⟨by omega, by omega, h3⟩

theorem runEntries_twf (a : Nat) (l : List Byte) : twf 0 (runEntries a l) = true := by
  rw [twf_iff]
  refine ⟨?_, fun p hp => (mem_runEntries hp).2.2⟩
  induction l generalizing a with
  | nil => exact List.Pairwise.nil
  | cons b l ih =>
    rw [runEntries]
    split
    · exact ih _
    · exact List.pairwise_cons.mpr ⟨fun q hq => (mem_runEntries hq).1, ih _⟩

/-- The entries of a run read as the run's bytes. -/
theorem tget_runEntries (a : Nat) (l : List Byte) (i : Nat) (h : i < l.length) :
    tget 0 (runEntries a l) (a + i) = l[i] := by
  induction l generalizing a i with
  | nil => simp at h
  | cons b l ih =>
    rw [runEntries]
    cases i with
    | zero =>
      split
      · rename_i hb
        unfold tget
        rw [tfind_none_of (fun p hp e => by have := (mem_runEntries hp).1; omega)]
        simp [hb]
      · simp [tget, tfind]
    | succ i =>
      have h' : i < l.length := by simpa using h
      have e : a + (i + 1) = a + 1 + i := by omega
      split
      · rw [e, ih (a + 1) i h']; rfl
      · unfold tget
        rw [tfind, if_neg (by omega), e]
        exact ih (a + 1) i h'

/-! ### Memory -/

/-- R7: the bytes that a write covers read as written. -/
theorem memByte_memWrite_in (m : Mem) (a : Nat) (l : List Byte) (i : Nat) (h : i < l.length) :
    memByte (memWrite m a l) (a + i) = l[i] := by
  unfold memByte memWrite
  rw [tget_tsplice 0 m.bytes _ a l.length (a + i) (fun p hp => ⟨(mem_runEntries hp).1, (mem_runEntries hp).2.1⟩),
    if_pos ⟨by omega, by omega⟩]
  exact tget_runEntries a l i h

/-- Every byte outside a write reads as before. -/
theorem memByte_memWrite_out (m : Mem) (a : Nat) (l : List Byte) (j : Nat) (h : j < a ∨ a + l.length ≤ j) :
    memByte (memWrite m a l) j = memByte m j := by
  unfold memByte memWrite
  rw [tget_tsplice 0 m.bytes _ a l.length j (fun p hp => ⟨(mem_runEntries hp).1, (mem_runEntries hp).2.1⟩),
    if_neg (by omega)]

/-- The marks of a run of blocks are in canonical form, within the run. -/
theorem marks_twf (b k : Nat) :
    twf false ((List.range k).map (fun i => (b + i, true))) = true ∧
      ∀ p ∈ (List.range k).map (fun i => (b + i, true)), b ≤ p.1 ∧ p.1 < b + k := by
  refine ⟨?_, ?_⟩
  · rw [twf_iff]
    refine ⟨List.pairwise_map.mpr (List.pairwise_lt_range.imp (fun h => by simpa using h)), fun p hp => ?_⟩
    obtain ⟨i, _, rfl⟩ := List.mem_map.mp hp
    simp
  · intro p hp
    obtain ⟨i, hi, rfl⟩ := List.mem_map.mp hp
    have := List.mem_range.mp hi
    simp only
    omega

/-- Modified lines of a cache keep the canonical form. -/
theorem cacheLines_wf (t : Tab Bool) (a n : Nat) (h : twf false t = true) : twf false (cacheLines t a n) = true := by
  unfold cacheLines
  split
  · exact h
  · have hs := tsplice_twf h (marks_twf (a / 64) ((a + n - 1) / 64 + 1 - a / 64)).1 (marks_twf (a / 64) ((a + n - 1) / 64 + 1 - a / 64)).2
    simp only
    split
    · exact hs
    · exact twf_filter _ hs

/-- A write keeps the canonical form. -/
theorem memWrite_wf (m : Mem) (a : Nat) (l : List Byte) (h : m.wf = true) : (memWrite m a l).wf = true := by
  simp only [Mem.wf, Bool.and_eq_true] at h ⊢
  exact ⟨⟨tsplice_twf h.1.1 (runEntries_twf a l) (fun p hp => ⟨(mem_runEntries hp).1, (mem_runEntries hp).2.1⟩),
    twf_filter _ h.1.2⟩, cacheLines_wf _ _ _ h.2⟩

/-- Marking a block keeps the canonical form. -/
theorem memMark_wf (m : Mem) (a : Nat) (p : Bool) (h : m.wf = true) : (memMark m a p).wf = true := by
  simp only [Mem.wf, Bool.and_eq_true] at h ⊢
  exact ⟨⟨h.1.1, tset_twf _ _ h.1.2⟩, h.2⟩

/-- Poisoning keeps the canonical form. -/
theorem memPoison_wf (m : Mem) (a n : Nat) (h : m.wf = true) : (memPoison m a n).wf = true := by
  unfold memPoison
  split
  · exact h
  · simp only [Mem.wf, Bool.and_eq_true] at h ⊢
    exact ⟨⟨h.1.1, tsplice_twf h.1.2 (marks_twf _ _).1 (marks_twf _ _).2⟩, h.2⟩

/-- Clearing keeps the canonical form. -/
theorem memZero_wf (m : Mem) (a n : Nat) (h : m.wf = true) : (memZero m a n).wf = true := by
  simp only [Mem.wf, Bool.and_eq_true] at h ⊢
  exact ⟨⟨tsplice_twf h.1.1 (twf_nil _) (by simp), twf_filter _ h.1.2⟩, twf_filter _ h.2⟩

theorem tshift_trange_twf [DecidableEq α] {d : α} {t : Tab α} (src dst n : Nat) (h : twf d t = true) :
    twf d (tshift (trange t src n) src dst) = true ∧
      ∀ p ∈ tshift (trange t src n) src dst, dst ≤ p.1 ∧ p.1 < dst + n := by
  rw [twf_iff] at h ⊢
  unfold tshift trange
  refine ⟨⟨List.pairwise_map.mpr ?_, ?_⟩, ?_⟩
  · refine (h.1.filter _).imp_of_mem ?_
    intro a b ha hb hab
    have h1 := (List.mem_filter.mp ha).2
    have h2 := (List.mem_filter.mp hb).2
    simp only [Bool.and_eq_true, decide_eq_true_eq] at h1 h2
    simp only
    omega
  · intro p hp
    obtain ⟨q, hq, rfl⟩ := List.mem_map.mp hp
    exact h.2 q (List.mem_filter.mp hq).1
  · intro p hp
    obtain ⟨q, hq, rfl⟩ := List.mem_map.mp hp
    have h1 := (List.mem_filter.mp hq).2
    simp only [Bool.and_eq_true, decide_eq_true_eq] at h1
    simp only
    omega

/-- A copy keeps the canonical form. -/
theorem memCopy_wf (m : Mem) (src dst n : Nat) (h : m.wf = true) : (memCopy m src dst n).wf = true := by
  simp only [Mem.wf, Bool.and_eq_true] at h ⊢
  have hb := tshift_trange_twf src dst n h.1.1
  have hp := tshift_trange_twf (src / 64) (dst / 64) (n / 64) h.1.2
  exact ⟨⟨tsplice_twf h.1.1 hb.1 hb.2, tsplice_twf h.1.2 hp.1 hp.2⟩, cacheLines_wf _ _ _ h.2⟩

/-- After reset memory has the canonical form. -/
theorem reset_mem_wf : State.reset.m.mem.wf = true := rfl

end Sys2Proof.Machine
end

