-- ==== Sys2Proof/Laws/Frames.lean ====
section
/-! SUPPORT. Sys2Proof/Laws/Frames.lean: what the frames of the meanings and the shared operations of the control path
can do, each said once. -/

namespace Sys2Proof.Machine

/-! ### Frames of meanings -/

theorem onDev_next {c : Instr} (f : Dev → Dev) (s : State) (h : c.wf = true) : onDev c f s = .next { s with m := f s.m } :=
  if_pos h

theorem onDev_fault {c : Instr} (f : Dev → Dev) (s : State) (h : c.wf = false) : onDev c f s = .fault .illFormed :=
  if_neg (by simp [h])

theorem onDevW_next {w : Bool} (f : Dev → Dev) (s : State) (h : w = true) : onDevW w f s = .next { s with m := f s.m } :=
  if_pos h

theorem onDevW_fault {w : Bool} (f : Dev → Dev) (s : State) (h : w = false) : onDevW w f s = .fault .illFormed :=
  if_neg (by simp [h])

theorem onBoot_next {c : Instr} (f : NonVol → Dev → NonVol × Dev) (s : State) (h : c.wf = true) :
    onBoot c f s = .next { s with nv := (f s.nv s.m).1, m := (f s.nv s.m).2 } := if_pos h

theorem onNvRead_next {c : Instr} (f : NonVol → Dev → Dev) (s : State) (h : c.wf = true) :
    onNvRead c f s = .next { s with m := f s.nv s.m } := if_pos h

theorem onCmd_next {c : CmdSpec} (s : State) (h : c.cmd.wf = true) : onCmd c s = .next { s with m := runCmd c s.m } :=
  if_pos h

/-! ### Mailbox commands -/

/-- A module in OFF, a mailbox of a partition that is not configured, and one that waits for the minimal service. -/
theorem runCmd_unserved (c : CmdSpec) (m : Dev) (h : unreached m c.opcode c.mb = true) : runCmd c m = m := if_pos h

/-- R75: a job-wide command waits while the origin has one already. -/
theorem runCmd_waits (c : CmdSpec) (m : Dev) (h : unreached m c.opcode c.mb = false) (hj : jobWideBusy c m = true) :
    runCmd c m = updCtl m (fun t => { t with
      waiting := t.waiting ++ [{ cmd := c.cmd, mb := c.mb, slot := specStream c m, stroke := 0 }] }) := by
  simp [runCmd, h, hj]

/-- R21: a command that fails a check is answered at once. -/
theorem runCmd_refused (c : CmdSpec) (m : Dev) (e : Err) (h : unreached m c.opcode c.mb = false)
    (hj : jobWideBusy c m = false) (ha : acceptErr c m = some e) :
    runCmd c m = answerNow c m e.status (errBody c m e) := by
  simp [runCmd, h, hj, ha]

/-- R80: a query is answered at once, by the module as it stood at the latest completed stroke end. -/
theorem runCmd_query (c : CmdSpec) (m : Dev) (h : unreached m c.opcode c.mb = false)
    (hj : jobWideBusy c m = false) (ha : acceptErr c m = none) (hq : c.query = true) :
    runCmd c m = answerNow c { m with free := (c.apply (reported c m)).m.free } (c.apply (reported c m)).status
      (if (c.apply (reported c m)).status / 4096 = 1 then stateBody m c.job (c.apply (reported c m)).obj
       else (c.apply (reported c m)).body) := by
  simp [runCmd, h, hj, ha, hq]

/-- R74: a command that changes state waits for the boundary at which it takes effect. -/
theorem runCmd_accepted (c : CmdSpec) (m : Dev) (h : unreached m c.opcode c.mb = false)
    (hj : jobWideBusy c m = false) (ha : acceptErr c m = none) (hq : c.query = false) :
    runCmd c m = queueCmd c m := by
  simp [runCmd, h, hj, ha, hq]

/-- R78: at its boundary a command that fails a check ends WRONG_STATE without an effect. -/
theorem applyAccepted_refused (c : CmdSpec) (m : Dev) (e : Err) (st : Option Nat) (a n : Nat) (h : recheckErr c m = some e) :
    applyAccepted c m st a n = stageReply c { m := m, status := 0x1001, obj := e.obj } st a n := by
  simp [applyAccepted, h]

/-- R77, R78: at its boundary a command that passes has its effect. -/
theorem applyAccepted_applies (c : CmdSpec) (m : Dev) (st : Option Nat) (a n : Nat) (h : recheckErr c m = none) :
    applyAccepted c m st a n = stageReply c (c.apply m) st a n := by
  simp [applyAccepted, h]

@[simp] theorem endBuckets_replies (m : Dev) (mb : Nat) : (endBuckets m mb).ctl.replies = m.ctl.replies := rfl

@[simp] theorem endBuckets_waits (m : Dev) (mb : Nat) : (endBuckets m mb).ctl.waits = m.ctl.waits := rfl

@[simp] theorem extendConfig_ctl (m : Dev) (op : Nat) (l : List Byte) : (extendConfig m op l).ctl = m.ctl := rfl

/-- The reply that an applied command leaves when nothing else is to be waited for. -/
theorem stageReply_replies (c : CmdSpec) (a : Applied) (acc n : Nat) (h : a.wait = none) :
    (stageReply c a none acc n).ctl.replies = a.m.ctl.replies ++ [{
      mb := c.mb, status := a.status
      body := if a.status / 4096 = 1 then stateBody a.m c.job a.obj else a.body
      slot := none, due := a.m.ctl.localStroke, kind := 0, accept := acc, done := n, stretch := c.stretch
      jobId := c.job.getD 0, applied := n }] := by
  unfold stageReply
  simp only [h]
  split <;> split <;> rfl

/-! ### Replies and answers -/

theorem cwByte_cwWrite_in (m : Dev) (o : Nat) (l : List Byte) (i : Nat) (h : i < l.length) :
    cwByte (cwWrite m o l) (o + i) = l[i] := by
  unfold cwByte cwWrite
  rw [tget_tsplice 0 m.ctl.cw _ o l.length (o + i) (fun p hp => ⟨(mem_runEntries hp).1, (mem_runEntries hp).2.1⟩),
    if_pos ⟨by omega, by omega⟩]
  exact tget_runEntries o l i h

theorem cwByte_cwWrite_out (m : Dev) (o : Nat) (l : List Byte) (j : Nat) (h : j < o ∨ o + l.length ≤ j) :
    cwByte (cwWrite m o l) j = cwByte m j := by
  unfold cwByte cwWrite
  rw [tget_tsplice 0 m.ctl.cw _ o l.length j (fun p hp => ⟨(mem_runEntries hp).1, (mem_runEntries hp).2.1⟩),
    if_neg (by omega)]

@[simp] theorem length_leBytes (n v : Nat) : (leBytes n v).length = n := by simp [leBytes]

@[simp] theorem length_zeros (n : Nat) : (zeros n).length = n := by simp [zeros]

/-- Writing an event record changes only the event areas and what is sent. -/
theorem emit_frame (m : Dev) (e : Event) :
    ∃ areas out, emit m e = { m with ctl := { m.ctl with areas := areas }, out := out } := by
  simp only [emit, writeRecord]
  split
  · split
    · exact ⟨m.ctl.areas, m.out, rfl⟩
    · exact ⟨_, _, rfl⟩
  · split
    · exact ⟨_, m.out, rfl⟩
    · exact ⟨_, m.out, rfl⟩

theorem cwWrite_frame (m : Dev) (o : Nat) (l : List Byte) :
    ∃ cw, cwWrite m o l = { m with ctl := { m.ctl with cw := cw } } := ⟨_, rfl⟩

/-- Writing a reply changes only the control window, the event areas and what is sent. -/
theorem writeReply_frame (m : Dev) (r : Reply) :
    ∃ cw areas out, writeReply m r = { m with ctl := { m.ctl with cw := cw, areas := areas }, out := out } := by
  obtain ⟨cw1, h1⟩ := cwWrite_frame m (r.mb * 4096 + 64) r.body
  obtain ⟨cw2, h2⟩ := cwWrite_frame { m with ctl := { m.ctl with cw := cw1 } } (r.mb * 4096 + 14)
    (leBytes 2 r.body.length ++ leBytes 2 r.status ++ leBytes 1 r.kind)
  obtain ⟨cw3, h3⟩ := cwWrite_frame { m with ctl := { m.ctl with cw := cw2 } } (r.mb * 4096 + 24)
    (leBytes 8 r.accept ++ leBytes 8 r.done)
  obtain ⟨cw4, h4⟩ := cwWrite_frame { m with ctl := { m.ctl with cw := cw3 } } (r.mb * 4096) (zeros 4)
  simp only [writeReply, h1, h2, h3, h4]
  split
  · obtain ⟨areas, out, h⟩ := emit_frame { m with ctl := { m.ctl with cw := cw4 } } _
    rw [h]
    exact ⟨cw4, areas, out, rfl⟩
  · exact ⟨cw4, m.ctl.areas, m.out, rfl⟩

theorem leBytes_succ (n v : Nat) : leBytes (n + 1) v = BitVec.ofNat 8 v :: leBytes n (v / 256) := by
  simp only [leBytes, List.range_succ_eq_map, List.map_cons, List.map_map]
  congr 1
  apply List.map_congr_left
  intro i _
  simp only [Function.comp_apply, Nat.shiftRight_eq_div_pow]
  rw [Nat.succ_eq_add_one, Nat.mul_add, Nat.mul_one, Nat.add_comm, Nat.pow_add, ← Nat.div_div_eq_div_mul]

/-- R7: the bytes of a value give the value back, to their width. -/
theorem leNat_leBytes (n v : Nat) : leNat (leBytes n v) = v % 256 ^ n := by
  induction n generalizing v with
  | zero => simp [leBytes, leNat, Nat.mod_one]
  | succ n ih =>
    rw [leBytes_succ, leNat, ih, BitVec.toNat_ofNat, show 256 ^ (n + 1) = 256 * 256 ^ n by ring, Nat.mod_mul]

theorem leNat_append (a b : List Byte) : leNat (a ++ b) = leNat a + 256 ^ a.length * leNat b := by
  induction a with
  | nil => simp [leNat]
  | cons x a ih => simp only [List.cons_append, leNat, ih, List.length_cons, Nat.pow_succ]; ring

theorem cwByte_emit (m : Dev) (e : Event) (j : Nat) : cwByte (emit m e) j = cwByte m j := by
  obtain ⟨areas, out, h⟩ := emit_frame m e
  rw [h]; rfl

/-- The bytes of a mailbox after a reply: the reply's own last writes decide. -/
theorem cwByte_writeReply (m : Dev) (r : Reply) (j : Nat) :
    cwByte (writeReply m r) j =
      cwByte (cwWrite (cwWrite (cwWrite (cwWrite m (r.mb * 4096 + 64) r.body) (r.mb * 4096 + 14)
        (leBytes 2 r.body.length ++ leBytes 2 r.status ++ leBytes 1 r.kind)) (r.mb * 4096 + 24)
        (leBytes 8 r.accept ++ leBytes 8 r.done)) (r.mb * 4096) (zeros 4)) j := by
  simp only [writeReply]
  split
  · rw [cwByte_emit]
  · rfl

/-- R105: OWNER reads 0 after a reply. -/
theorem mbOwned_writeReply (m : Dev) (r : Reply) : mbOwned (writeReply m r) r.mb = false := by
  unfold mbOwned
  rw [cwByte_writeReply]
  have := cwByte_cwWrite_in (cwWrite (cwWrite (cwWrite m (r.mb * 4096 + 64) r.body) (r.mb * 4096 + 14)
        (leBytes 2 r.body.length ++ leBytes 2 r.status ++ leBytes 1 r.kind)) (r.mb * 4096 + 24)
        (leBytes 8 r.accept ++ leBytes 8 r.done)) (r.mb * 4096) (zeros 4) 0 (by simp)
  simp only [Nat.add_zero] at this
  rw [this]
  simp [zeros]

/-- R99, R105: STATUS of the mailbox after a reply. -/
theorem mbField_writeReply_status (m : Dev) (r : Reply) : mbField (writeReply m r) r.mb 16 2 = r.status % 65536 := by
  have key : ∀ i, i < 2 → cwByte (writeReply m r) (r.mb * 4096 + 16 + i) = nth 0 (leBytes 2 r.status) i := by
    intro i hi
    rw [cwByte_writeReply, cwByte_cwWrite_out _ _ _ _ (by simp; omega), cwByte_cwWrite_out _ _ _ _ (by simp; omega),
      show r.mb * 4096 + 16 + i = r.mb * 4096 + 14 + (2 + i) by omega, cwByte_cwWrite_in _ _ _ _ (by simp; omega)]
    rw [List.getElem_append_left (by simp; omega), List.getElem_append_right (by simp)]
    simp [nth, List.getD_eq_getElem?_getD, List.getElem?_eq_getElem, hi]
  unfold mbField mbRead
  have h : (List.range 2).map (fun i => cwByte (writeReply m r) (r.mb * 4096 + 16 + i)) = leBytes 2 r.status := by
    show [_, _] = _
    simp only []
    rw [key 0 (by omega), key 1 (by omega)]
    simp [nth, leBytes, List.range_succ]
  rw [h, leNat_leBytes]
  rfl

end Sys2Proof.Machine
end

