-- ==== Sys2Proof/Laws/Units.lean ====
section
/-! SUPPORT. Sys2Proof/Laws/Units.lean: what a unit, a job or a table entry reads after one of its kind has changed. -/

namespace Sys2Proof.Machine

variable (m : Dev)

theorem linkAt_updLink (l j : Nat) (f : Link → Link) : linkAt (updLink m l f) j = if j = l then f (linkAt m l) else linkAt m j :=
  tget_tmod ..

@[simp] theorem linkAt_updLink_same (l : Nat) (f : Link → Link) : linkAt (updLink m l f) l = f (linkAt m l) := by
  simp [linkAt_updLink]

theorem arrayAt_updArray (d a d' a' : Nat) (f : MArray → MArray) :
    arrayAt (updArray m d a f) d' a' = if d' * 48 + a' = d * 48 + a then f (arrayAt m d a) else arrayAt m d' a' := tget_tmod ..

@[simp] theorem arrayAt_updArray_same (d a : Nat) (f : MArray → MArray) : arrayAt (updArray m d a f) d a = f (arrayAt m d a) := by
  simp [arrayAt_updArray]

theorem veAt_updVe (d v d' v' : Nat) (f : VEngine → VEngine) :
    veAt (updVe m d v f) d' v' = if d' * 128 + v' = d * 128 + v then f (veAt m d v) else veAt m d' v' := tget_tmod ..

@[simp] theorem veAt_updVe_same (d v : Nat) (f : VEngine → VEngine) : veAt (updVe m d v f) d v = f (veAt m d v) := by
  simp [veAt_updVe]

theorem bankAt_updBank (d b d' b' : Nat) (f : Bank → Bank) :
    bankAt (updBank m d b f) d' b' = if d' * 160 + b' = d * 160 + b then f (bankAt m d b) else bankAt m d' b' := tget_tmod ..

@[simp] theorem bankAt_updBank_same (d b : Nat) (f : Bank → Bank) : bankAt (updBank m d b f) d b = f (bankAt m d b) := by
  simp [bankAt_updBank]

theorem pdieAt_updPdie (d j : Nat) (f : PwrDie → PwrDie) : pdieAt (updPdie m d f) j = if j = d then f (pdieAt m d) else pdieAt m j :=
  tget_tmod ..

@[simp] theorem pdieAt_updPdie_same (d : Nat) (f : PwrDie → PwrDie) : pdieAt (updPdie m d f) d = f (pdieAt m d) := by
  simp [pdieAt_updPdie]

theorem partAt_updPart (p j : Nat) (f : Part → Part) : partAt (updPart m p f) j = if j = p then f (partAt m p) else partAt m j :=
  tget_tset ..

@[simp] theorem partAt_updPart_same (p : Nat) (f : Part → Part) : partAt (updPart m p f) p = f (partAt m p) := by
  simp [partAt_updPart]

theorem fabAt_updFab (d j : Nat) (f : Fab → Fab) : fabAt (updFab m d f) j = if j = d then f (fabAt m d) else fabAt m j :=
  tget_tmod ..

@[simp] theorem fabAt_updFab_same (d : Nat) (f : Fab → Fab) : fabAt (updFab m d f) d = f (fabAt m d) := by
  simp [fabAt_updFab]

theorem jobAt_updJob (s j : Nat) (f : Job → Job) : jobAt (updJob m s f) j = if j = s then (jobAt m s).map f else jobAt m j :=
  tfind_tupd ..

@[simp] theorem jobAt_updJob_same (s : Nat) (f : Job → Job) : jobAt (updJob m s f) s = (jobAt m s).map f := by
  simp [jobAt_updJob]

/-- An access that is admitted leaves the module as it is. -/
theorem admitAccess_eq (unit slot addr n cause : Nat) (h : (admitAccess m unit slot addr n cause).1 = true) :
    admitAccess m unit slot addr n cause = (true, m) := by
  unfold admitAccess at h ⊢
  split at h <;> simp_all <;> split at h <;> simp_all

end Sys2Proof.Machine
end

