-- ==== Sys2Proof/Laws/Links.lean ====
section
/-! SUPPORT. Sys2Proof/Laws/Links.lean: what a change of a link's state does, and what a link that can take a unit
or a flit at once does with it. -/

namespace Sys2Proof.Machine

theorem setLinkState_link (m : Dev) (l : Nat) (st : LinkState) (h : (linkAt m l).st ≠ st) :
    linkAt (setLinkState l st m) l = { linkAt m l with
      st := st
      upSince := if linkUp { linkAt m l with st := st } = true then m.ctl.localStroke % 2 ^ 32 else (linkAt m l).upSince } := by
  simp only [setLinkState, h, if_false]
  simp only [raiseModule, raisePart, queueEvent]
  show linkAt (updLink _ _ _) l = _
  simp
  split <;> simp

theorem setLinkState_other (m : Dev) (l j : Nat) (st : LinkState) (h : j ≠ l) :
    linkAt (setLinkState l st m) j = linkAt m j := by
  simp only [setLinkState]
  split
  · rfl
  · show linkAt (updLink _ _ _) j = _
    simp [linkAt_updLink, h]

theorem setLinkState_colls (m : Dev) (l : Nat) (st : LinkState) : (setLinkState l st m).colls = m.colls := by
  simp only [setLinkState, raiseModule]
  split <;> simp

theorem setLinkState_jobs (m : Dev) (l : Nat) (st : LinkState) : (setLinkState l st m).jobs = m.jobs := by
  simp only [setLinkState, raiseModule]
  split <;> simp

theorem collLinkDown_none (m : Dev) (l : Nat) (h : m.colls = []) : collLinkDown l m = m := by simp [collLinkDown, h]

theorem secureLinkDown_none (m : Dev) (h : m.jobs = []) : secureLinkDown m = m := by simp [secureLinkDown, h]

theorem secureResend_none (q : List Out) (m : Dev) (h : m.jobs = []) : secureResend q m = m := by
  unfold secureResend
  induction q with
  | nil => rfl
  | cons u q ih =>
    rw [List.foldl_cons]
    cases u <;> simp only [h, List.filterMap_nil, List.find?_nil, ite_self] <;> exact ih

/-- With no collective and no job, a link that goes down changes only itself. -/
theorem linkDown_alone (m : Dev) (l : Nat) (hc : m.colls = []) (hj : m.jobs = []) :
    linkDown l m = setLinkState l (if (linkAt m l).enabled then .training else .off) (updLink m l linkDropped) := by
  simp only [linkDown]
  split
  · have hj' : (setLinkState l (if (linkAt m l).enabled then .training else .off) (updLink m l linkDropped)).jobs = [] := by
      rw [setLinkState_jobs]; exact hj
    rw [collLinkDown_none _ _ (by rw [setLinkState_colls]; exact hc), secureResend_none _ _ hj', secureLinkDown_none _ hj']
  · rfl

/-! ### What a link sends at once -/

theorem nth_setNth_same (l : List Nat) (i v : Nat) (h : i < l.length) : nth 0 (setNth l i v) i = v := by
  simp [nth, setNth, h]

/-- A channel's turn comes when it alone has data and credit. -/
theorem nextVc_only (k : Link) (v : Nat) (h : ∀ w, vcReady k w = decide (w = v))
    (hv : v < 6 ∨ (v < 8 ∧ (k.lastBulk = 6 ∨ k.lastBulk = 7))) : nextVc k = some v := by
  have hb : ∀ w, [13 - k.lastBulk, k.lastBulk].find? (vcReady k) = some w → w = v := fun w hw => by
    simpa [h] using List.find?_some hw
  have hc : ∀ w, ((List.range 6).map (fun i => (k.lastVc + 1 + i) % 6)).find? (vcReady k) = some w → w = v := fun w hw => by
    simpa [h] using List.find?_some hw
  have hn : ([13 - k.lastBulk, k.lastBulk].find? (vcReady k)).isSome = true ∧ 6 ≤ v
      ∨ (((List.range 6).map (fun i => (k.lastVc + 1 + i) % 6)).find? (vcReady k)).isSome = true ∧ v < 6 := by
    rcases hv with hv | ⟨hv, hl⟩
    · right
      refine ⟨?_, hv⟩
      rw [List.find?_isSome]
      exact ⟨v, List.mem_map.mpr ⟨(v + 6 - (k.lastVc + 1) % 6) % 6, by simp; omega, by omega⟩, by simp [h]⟩
    · by_cases h6 : v < 6
      · right
        refine ⟨?_, h6⟩
        rw [List.find?_isSome]
        exact ⟨v, List.mem_map.mpr ⟨(v + 6 - (k.lastVc + 1) % 6) % 6, by simp; omega, by omega⟩, by simp [h]⟩
      · left
        refine ⟨?_, by omega⟩
        rw [List.find?_isSome]
        refine ⟨v, ?_, by simp [h]⟩
        rcases hl with hl | hl <;> simp [hl] <;> omega
  unfold nextVc
  revert hb hc hn
  cases e1 : [13 - k.lastBulk, k.lastBulk].find? (vcReady k) <;>
    cases e2 : ((List.range 6).map (fun i => (k.lastVc + 1 + i) % 6)).find? (vcReady k) <;>
    intro hb hc hn <;> simp_all

/-- A frame that is sent changes the links alone. -/
theorem frameSent_links (m : Dev) (l : Nat) (f : Sent) (g : Link → Link) :
    ∃ links, frameSent l f (updLink m l g) = { m with net := { m.net with links := links } } := ⟨_, rfl⟩

/-- R460, R462: a unit that alone waits goes out frame by frame. -/
theorem serveLink_one (l v : Nat) (o : Out) (n : Nat) : ∀ (fuel : Nat) (m : Dev) (k : Link), linkAt m l = k →
    k.txq = [(v, n + 1, o)] → k.flitq = [] → (v < 6 ∨ (v < 8 ∧ (k.lastBulk = 6 ∨ k.lastBulk = 7))) →
    n + 1 ≤ nth 0 k.credit v → k.retry.length + n + 1 ≤ 4095 → n + 1 ≤ fuel →
    ∃ links, serveLink l fuel m = { m with out := m.out ++ [o], net := { m.net with links := links } }
      ∧ (∀ j, j ≠ l → linkAt (serveLink l fuel m) j = linkAt m j)
      ∧ ∃ a b c r q, linkAt (serveLink l fuel m) l = { k with
          txq := [], credit := setNth k.credit v (nth 0 k.credit v - (n + 1)), lastVc := a, lastBulk := b, bulkWait := c
          retry := r, nextSeq := q } := by
  induction n with
  | zero =>
    intro fuel m k hk hq hf hv hc hr hfu
    obtain ⟨fuel, rfl⟩ : ∃ x, fuel = x + 1 := ⟨fuel - 1, by omega⟩
    have hready : ∀ w, vcReady k w = decide (w = v) := fun w => by
      by_cases hw : w = v
      · subst hw; simp [vcReady, hq]; omega
      · simp [vcReady, hq, hw, Ne.symm hw]
    have hnx := nextVc_only k v hready hv
    have hmf : mayFrame k = true := by simp [mayFrame]; omega
    have hdone : ∀ (fuel : Nat) (m : Dev), (linkAt m l).txq = [] → (linkAt m l).flitq = [] → serveLink l fuel m = m := by
      intro fuel m h1 h2
      cases fuel with
      | zero => rfl
      | succ f =>
        have : nextVc (linkAt m l) = none := by
          have hr : ∀ w, vcReady (linkAt m l) w = false := fun w => by simp [vcReady, h1]
          have hz : vcReady (linkAt m l) = fun _ => false := funext hr
          simp [nextVc, hz]
        unfold serveLink
        simp only [h2, this]
        split <;> rfl
    have e : serveLink l (fuel + 1) m = send (frameSent l (.data v (some o)) (updLink m l (fun _ => (serveVc k v).1))) o := by
      conv => lhs; unfold serveLink
      simp only [hk, hmf, hf, hnx, Bool.not_true]
      have : (serveVc k v).2 = some o := by simp [serveVc, hq, frameOut]
      simp only [this]
      have h1 : (linkAt (send (frameSent l (.data v (some o)) (updLink m l (fun _ => (serveVc k v).1))) o) l).txq = [] := by
        show (linkAt (frameSent _ _ _) l).txq = []
        simp [frameSent, serveVc, hq, frameOut]
      have h2 : (linkAt (send (frameSent l (.data v (some o)) (updLink m l (fun _ => (serveVc k v).1))) o) l).flitq = [] := by
        show (linkAt (frameSent _ _ _) l).flitq = []
        simp [frameSent, serveVc, hf]
      rw [if_neg (by simp), hdone fuel _ h1 h2]
    obtain ⟨ls, hls⟩ := frameSent_links m l (.data v (some o)) (fun _ => (serveVc k v).1)
    rw [e]
    refine ⟨ls, by rw [hls]; rfl, fun j hj => ?_, ?_⟩
    · show linkAt (frameSent _ _ _) j = _
      simp [frameSent, linkAt_updLink, hj]
    · refine ⟨(serveVc k v).1.lastVc, (serveVc k v).1.lastBulk, (serveVc k v).1.bulkWait, k.retry ++ [(k.nextSeq, .data v (some o))],
        (k.nextSeq + 1) % 4096, ?_⟩
      show linkAt (frameSent _ _ _) l = _
      simp [frameSent, serveVc, hq, frameOut]
  | succ n ih =>
    intro fuel m k hk hq hf hv hc hr hfu
    obtain ⟨fuel, rfl⟩ : ∃ x, fuel = x + 1 := ⟨fuel - 1, by omega⟩
    have hready : ∀ w, vcReady k w = decide (w = v) := fun w => by
      by_cases hw : w = v
      · subst hw; simp [vcReady, hq]; omega
      · simp [vcReady, hq, hw, Ne.symm hw]
    have hnx := nextVc_only k v hready hv
    have hmf : mayFrame k = true := by simp [mayFrame]; omega
    have hv8 : v < k.credit.length := by
      by_contra h
      have : nth 0 k.credit v = 0 := List.getD_eq_default _ _ (Nat.not_lt.mp h)
      omega
    have e : serveLink l (fuel + 1) m = serveLink l fuel (frameSent l (.data v none) (updLink m l (fun _ => (serveVc k v).1))) := by
      conv => lhs; unfold serveLink
      have : (serveVc k v).2 = none := by simp [serveVc, hq, frameOut]
      simp only [hk, hmf, hf, hnx, Bool.not_true, this]
      rfl
    have ek : linkAt (frameSent l (.data v none) (updLink m l (fun _ => (serveVc k v).1))) l = { (serveVc k v).1 with
        retry := k.retry ++ [(k.nextSeq, .data v none)], nextSeq := (k.nextSeq + 1) % 4096 } := by
      simp [frameSent, serveVc]
    have hcr : nth 0 (serveVc k v).1.credit v = nth 0 k.credit v - 1 := by
      simp only [serveVc]; exact nth_setNth_same _ _ _ hv8
    obtain ⟨links, h1, h2, a, b, c, r, q, h3⟩ := ih fuel _ _ ek (by simp [serveVc, hq, frameOut]) (by simp [serveVc, hf])
      (by simp only [serveVc]; split <;> omega) (by simp only [hcr]; omega) (by simp; omega) (by omega)
    obtain ⟨ls, hls⟩ := frameSent_links m l (.data v none) (fun _ => (serveVc k v).1)
    rw [e]
    refine ⟨links, by rw [h1, hls], fun j hj => ?_, a, b, c, r, q, ?_⟩
    · rw [h2 j hj]; simp [frameSent, linkAt_updLink, hj]
    · rw [h3]
      simp only [hcr]
      simp [serveVc, setNth, Nat.sub_sub, Nat.add_comm 1]

/-- R462: a unit on a link that can take it goes out at once; on the link only the channels' turns, credit and retry buffer
change. -/
theorem sendUnit_takes (m : Dev) (l v bytes : Nat) (o : Out) (h : (linkAt m l).takes v bytes = true) :
    ∃ links, sendUnit m l v bytes o = { m with out := m.out ++ [o], net := { m.net with links := links } }
      ∧ sentOn m (sendUnit m l v bytes o) l v bytes := by
  simp only [Link.takes, Bool.and_eq_true, decide_eq_true_eq, List.isEmpty_iff] at h
  obtain ⟨⟨⟨⟨⟨⟨hu, hq⟩, hf⟩, hv⟩, hb⟩, hc⟩, hr⟩ := h
  have hn : ∃ n, unitFrames bytes = n + 1 := ⟨unitFrames bytes - 1, by simp only [unitFrames]; omega⟩
  obtain ⟨n, hn⟩ := hn
  simp only [sendUnit, hu, if_true]
  have hsum : n + 1 ≤ (linkAt m l).credit.sum := by
    refine le_trans (hn ▸ hc) ?_
    rw [nth, List.getD_eq_getElem?_getD]
    cases e : (linkAt m l).credit[v]? with
    | none => simp
    | some x => exact List.le_sum_of_mem (List.mem_of_getElem? e)
  obtain ⟨links, h1, h2, a, b, c, r, q, h3⟩ := serveLink_one l v o n
    (creditLeft (linkAt (updLink m l (fun k => { k with txq := k.txq ++ [(v, unitFrames bytes, o)] })) l))
    (updLink m l (fun k => { k with txq := k.txq ++ [(v, unitFrames bytes, o)] })) _ (linkAt_updLink_same ..)
    (by simp [hq, hn]) (by simp [hf]) (by simpa using hv) (by simpa [hn] using hc) (by simp; omega) (by simp [creditLeft]; omega)
  refine ⟨links, by rw [h1]; rfl, fun j hj => ?_, a, b, c, r, q, ?_⟩
  · rw [h2 j hj, linkAt_updLink, if_neg hj]
  · rw [h3, hn]; simp [hq]

/-- R454: an express flit on a link that can take it goes out in a frame at once. -/
theorem sendFlit_takes (m : Dev) (l : Nat) (f : Flit) (h : (linkAt m l).takesFlit = true) : sendFlit m l f = putFlit l f m := by
  simp only [Link.takesFlit, Bool.and_eq_true] at h
  obtain ⟨⟨hu, hm⟩, hq⟩ := h
  simp [sendFlit, hu, hm, hq]

end Sys2Proof.Machine
end

