-- ==== Sys2Proof/Machine/Readout.lean ====
section
/-! DEFINITION. Sys2Proof/Machine/Readout.lean: what the wellhead and the standpipe read of the control and status registers of R37,
each with the bits that its rule gives. The table has no row for such a read: the hosts see these values through the status commands. -/

namespace Sys2Proof.Machine

/-- MA_STATUS (R192). -/
def maStatus (a : MArray) : Nat :=
  a.shape + (b2n (!a.queue.isEmpty || !a.held.isEmpty) <<< 2) + (a.queue.length <<< 3) + (b2n a.sticky.ovf <<< 8) + (b2n a.sticky.nonfinite <<< 9)
    + (b2n a.sticky.poison <<< 10) + (b2n a.parity <<< 11) + (b2n a.zeroRead <<< 12) + (b2n a.braked <<< 13) + (b2n a.gangMismatch <<< 14)
    + (a.lastTag <<< 16)

/-- MA_ERR (R194). -/
def maErr (a : MArray) : Nat := sat 16 a.parityCount + (a.lastCol <<< 16) + (sat 8 a.refused <<< 24)

/-- SPB_FAULT (R282). -/
def spbFault (b : Bank) : Nat := sat 16 b.count + (b.lastReq % 256 <<< 16) + (b.lastCause <<< 24)

/-- VE_STATUS (R283). -/
def veStatus (x : VEngine) : Nat :=
  (x.teams.map (fun t => 2 ^ t.1)).sum + ((x.atomUsed.map (·.2)).sum <<< 32) + (b2n x.sticky.ovf <<< 44) + (b2n x.sticky.nonfinite <<< 45)
    + (b2n x.sticky.poison <<< 46) + (b2n x.atomFull <<< 47) + (b2n x.atomTarget <<< 48) + (b2n x.illegal <<< 49)

/-- SC_HBM_STATUS, SC_HBM_THERM and SC_HBM_ECC of a stack (R316 to R318). -/
def stackRead (m : Dev) (k r : Nat) : Nat :=
  let x := stackAt m k
  match r with
  | 0x00 => x.temp + (x.level <<< 8) + (b2n x.refresh2x <<< 11) + (b2n x.remapping <<< 12) + (sat 16 x.softRemaps <<< 16)
      + (sat 16 x.retired <<< 32) + (sparesLeft m.mem 1 k <<< 48)
  | 0x08 => x.thrStart + (x.hyst <<< 8)
  | _ => sat 32 x.corrected + (sat 16 x.uncorrectable <<< 32)

/-- CIS_STATUS and CIS_ECC of a package (R319). -/
def cisRead (m : Dev) (k r : Nat) : Nat :=
  let x := tget {} m.mem.cis k
  if r = 0 then x.temp + (b2n x.refresh2x <<< 8) + (sat 16 x.retired <<< 16) else sat 32 x.corrected + (sat 16 x.uncorrectable <<< 32)

/-- AQ_STATUS (R320). -/
def aqStatus (m : Dev) : Nat :=
  m.mem.aq.st + (sat 8 m.mem.aq.wear <<< 8) + (m.mem.aq.spare <<< 16) + (m.mem.aq.cmds.length <<< 24) + (sat 32 m.mem.aq.uncorr <<< 32)

/-- Descriptors of an engine's command banks that have not ended. -/
def descsLeft (l : List CmdBank) : Nat := (l.map (fun c => c.count - c.done)).sum

/-- ATT_STATUS (R357); up to eight of the descriptors left are in flight (R335). -/
def attStatus (x : Att) : Nat :=
  let n := min 8 (descsLeft x.banks)
  b2n (decide (n ≠ 0)) + (n <<< 1) + (b2n x.badBatch <<< 5) + (b2n x.nonfinite <<< 6) + (b2n x.poison <<< 7) + (b2n x.empty <<< 8) + (b2n x.cold <<< 9)
    + (x.lastTag <<< 16)

/-- KVP_FREE (R359); 0 in a slot without a pool. -/
def kvpFree (m : Dev) (d j : Nat) : Nat := match poolAt m d j with | some p => freeFrames p false + (freeFrames p true <<< 32) | none => 0

/-- KVP_ERR (R360). -/
def kvpErr (m : Dev) (d j addr : Nat) : Nat :=
  match poolAt m d j with | some p => sat 16 p.countFault + (sat 16 p.noPageReg <<< 16) | none => tget 0 m.slotRegs addr

/-- ATM_STATUS (R401). -/
def atmStatus (x : Atm) : Nat :=
  b2n (decide (descsLeft x.banks ≠ 0)) + (b2n x.badBatch <<< 1) + (b2n x.nonfinite <<< 2) + (b2n x.poison <<< 3) + (b2n x.noToken <<< 4) + (x.lastTag <<< 16)

/-- FAB_COLL_STATUS (R509). -/
def collStatusReg (m : Dev) (d : Nat) : Nat :=
  let x := fabAt m d
  let own := m.colls.filter (fun c => c.dies.any (fun e => decide (e.die = d)))
  own.length + ((own.filter (fun c => decide (c.st = .held))).length <<< 8) + (b2n x.waiting <<< 15) + (b2n x.mismatch <<< 16) + (b2n x.aborted <<< 17)
    + (b2n x.throttled <<< 18) + (b2n x.nonfinite <<< 19) + (b2n x.poison <<< 20) + (b2n x.badBatch <<< 21)

/-- FAB_COLL_COUNT (R510). -/
def collCountReg (x : Fab) : Nat :=
  sat 32 x.posted + (sat 16 x.mismatched <<< 32) + (sat 8 x.abortedCount <<< 48) + (sat 4 x.restarts <<< 56) + (sat 4 x.stray <<< 60)

/-- FAB_SLUICE (R544). -/
def fabSluice (x : Fab) : Nat :=
  b2n x.sluiceBusy + (b2n x.sluicePoison <<< 1) + (b2n x.sluiceDigest <<< 2) + (b2n x.sluiceSbc <<< 3) + (x.sluiceSlices % 2 ^ 32 <<< 16)

/-- Pages of a die that a snapshot protects and has not sent (R580). -/
def pagesLeft (m : Dev) (d : Nat) : Nat :=
  (m.jobs.map (fun j => (j.2.secure.protectedPages.filter (fun p => decide (pageDie p = d))).length)).sum

/-- FAB_SIPHON (R580). -/
def fabSiphon (m : Dev) (d : Nat) : Nat :=
  let x := fabAt m d
  b2n (decide (pagesLeft m d ≠ 0)) + (b2n x.siphonFull <<< 1) + (b2n x.siphonPoison <<< 2) + (pagesLeft m d <<< 16) + (sat 16 x.touches <<< 48)

/-- A register of a compute die, by its offset in the die's block. -/
def dieRead (m : Dev) (d o addr : Nat) : Nat :=
  if 0x100000 ≤ o ∧ o < 0x103000 then
    let a := arrayAt m d ((o - 0x100000) / 0x100)
    match o % 0x100 with | 0x00 => maDesc a | 0x08 => maStatus a | 0x10 => a.active | _ => maErr a
  else if 0x200000 ≤ o ∧ o < 0x202800 then
    let b := bankAt m d ((o - 0x200000) / 0x40)
    if o % 0x40 = 0 then spbOwner b else spbFault b
  else if 0x300000 ≤ o ∧ o < 0x308000 then
    let x := veAt m d ((o - 0x300000) / 0x100)
    if o % 0x100 = 0 then veStatus x else x.active
  else if 0x400000 ≤ o ∧ o < 0x402000 then stackRead m (2 * d + (o - 0x400000) / 0x1000) (o % 0x1000)
  else if 0x501000 ≤ o ∧ o < 0x501200 then
    if o % 0x20 = 0 then kvpFree m d ((o - 0x501000) / 0x20) else kvpErr m d ((o - 0x501000) / 0x20) addr
  else match o with
    | 0x500000 => attStatus (attAt m d)
    | 0x500008 => (attAt m d).active
    | 0x600000 => atmStatus (atmAt m d)
    | 0x600008 => (atmAt m d).active
    | 0x600010 => (atmAt m d).samples
    | 0x700000 => collStatusReg m d
    | 0x700008 => collCountReg (fabAt m d)
    | 0x700010 => (fabAt m d).active
    | 0x710000 => fabSluice (fabAt m d)
    | 0x710008 => (fabAt m d).sluiceCount
    | 0x710010 => (fabAt m d).sluiceActive
    | 0x720000 => fabSiphon m d
    | _ => (fabAt m d).siphonActive

/-- WH_STROKE_CFG (R93). -/
def strokeCfgRead (m : Dev) (js addr : Nat) : Nat :=
  match jobAt m js with
  | some j => j.periodK % 16 + (j.margin % 65536 <<< 4) + (j.stretchLimit % 256 <<< 20) + (b2n j.isOrigin <<< 28) + (b2n j.enable <<< 29) + (b2n j.fill <<< 30)
  | none => tget 0x0080_8008 m.slotRegs addr

/-- WH_STAGE (R438). -/
def whStage (x : Stage) : Nat :=
  x.kind + (b2n x.stalled <<< 2) + (b2n x.lent <<< 3) + (x.inbox.length <<< 4) + (x.mb % 256 <<< 8) + (sat 32 x.stallStrokes <<< 32)

/-- WH_SECURE (R578). -/
def whSecure (s : Secure) : Nat :=
  s.copy + (holdCode (holdAt s 0).st <<< 3) + (holdCode (holdAt s 1).st <<< 6) + (b2n s.reqArmed <<< 9) + (sat 16 s.reservePeak <<< 16)
    + (s.begun % 2 ^ 32 <<< 32)

/-- IOD-N: the wellhead's registers, the port's and the standpipe's. The bits of a slot without a job read as at reset. -/
def northRead (nv : NonVol) (m : Dev) (o addr : Nat) : Nat :=
  let job := fun (base pitch : Nat) => jobAt m ((o - base) / pitch)
  if 0x400000 ≤ o ∧ o < 0x400400 then
    if o % 0x40 = 0 then strokeCfgRead m ((o - 0x400000) / 0x40) addr else match job 0x400000 0x40 with | some j => j.stroke | none => 0
  else if 0x410000 ≤ o ∧ o < 0x410080 then
    let p := (o - 0x410000) / 0x10
    tget 0 m.ctl.mbxDrop p + (tget 0 m.ctl.bktDrop p <<< 16)
  else if 0x410100 ≤ o ∧ o < 0x410120 then
    ((List.range 32).map (fun i => b2n (mbOwned m (32 * ((o - 0x410100) / 4) + i)) <<< i)).sum
  else if 0x430000 ≤ o ∧ o < 0x430800 then
    match job 0x430000 0x80 with | some j => whStage (stageAt j.learn ((o - 0x430000) / 0x10 % 8)) | none => 0
  else if 0x440000 ≤ o ∧ o < 0x440200 then match job 0x440000 0x20 with | some j => whTurn j | none => 0
  else if 0x450000 ≤ o ∧ o < 0x450200 then whSecure (match job 0x450000 0x20 with | some j => j.secure | none => {})
  else if 0x460000 ≤ o ∧ o < 0x460200 then
    match job 0x460000 0x20 with | some j => whRecovery m j | none => b2n m.sys.spare.isSome <<< 10
  else if 0x470000 ≤ o ∧ o < 0x470100 then whPart m ((o - 0x470000) / 0x20)
  else if 0x800000 ≤ o ∧ o < 0x810000 then
    let c := seqAt m ((o - 0x800000) / 0x10)
    if o % 0x10 = 0 then seqCtxWord c else seqPosWord c
  else match o with
    | 0x451000 => m.sys.estimate + (m.sys.peak <<< 8) + (m.sys.top <<< 16)
    | 0x900000 => ethStatus m
    | 0x900010 => ptpNow m
    | _ => bootStatusReg nv m

/-- IOD-W and IOD-E: a link's registers and a package's (R319, R475 to R478); `half` is 0 or 16. -/
def sideRead (m : Dev) (half o : Nat) : Nat :=
  if o < 0x200000 then
    let l := linkAt m (half + (o - 0x100000) / 0x100)
    match o % 0x100 with | 0x00 => jlStatus l | 0x08 => jlPeer l | 0x10 => jlErr l | _ => jlRetry l
  else cisRead m (half + (o - 0x200000) / 0x100) (o % 0x100)

/-- IOD-S: the aquifer's register and the hub's (R320, R650 to R654, R722). -/
def southRead (m : Dev) (o : Nat) : Nat :=
  if 0x200100 ≤ o ∧ o < 0x200180 then pwrDie m ((o - 0x200100) / 0x10)
  else if 0x201000 ≤ o ∧ o < 0x201200 then
    let x := railAt m ((o - 0x201000) / 0x10)
    if o % 0x10 = 0 then pwrRail x else x.energy.floor.toNat
  else match o with
    | 0x100000 => aqStatus m
    | 0x200000 => pwrState m
    | 0x200008 => pwrCap m
    | 0x200010 => pwrCount m
    | 0x201200 => pwrRail m.power.input
    | _ => pwrCoolant m

/-- R12, R35, R37: what a register reads; 0 where no register is. -/
def registerRead (nv : NonVol) (m : Dev) (addr : Nat) : Nat :=
  let o := addr % 0x1000000
  if !regMapped addr then 0
  else if addr < 0x050008000000 then dieRead m ((addr - 0x050000000000) / 0x1000000) o addr
  else match addr / 0x1000000 with
    | 0x050010 => northRead nv m o addr
    | 0x050011 => sideRead m 0 o
    | 0x050012 => sideRead m 16 o
    | 0x050013 => southRead m o
    | _ => if o = 0 then idPart else idConfig m

end Sys2Proof.Machine
end

