-- ==== Sys2Proof/Machine/Words.lean ====
section
/-! DEFINITION. Sys2Proof/Machine/Words.lean: a 64-bit instruction word as a vector engine executes it (R249, R250). -/

namespace Sys2Proof.Machine

/-- R250: a team executes an instruction word: what the word spells, or, for a reserved code or a combination that is not allowed,
nothing but ILLEGAL. The block fetches no instruction: the sender of commands names the word. -/
def execWord (die ve team w : Nat) (s : State) : Host.Outcome State Fault Refusal :=
  match Sys2Proof.decodeVe die ve team w with
  | some c => exec c s
  | none =>
    let f := Sys2Proof.veFields die ve team w
    if f.wf then .next { s with m := onTeam f [] (illegal f) s.m } else .fault .illFormed

end Sys2Proof.Machine
end

