-- ==== Sys2Proof/Tests/Slice0.lean ====
section
/-! SUPPORT. Sys2Proof/Tests/Slice0.lean: what the field checks refuse, the manual's worked examples, and for the hypotheses of every
obligation a state and operands that meet them together. -/

namespace Sys2Proof.Tests
open Sys2Proof Sys2Proof.Machine

set_option Elab.async false

/-! ### Small states -/

/-- A partition with known keys, and one open queue pair of it. -/
def tPart : Part := { configured := true, dies := 255, hbmClass := 2, allowLen := some 0, cwKey := 5, bwKey := 6, ipv4 := 7 }
def tPort : Port := { parts := [(0, tPart)], qps := [(2, { part := 0, remote := 9, rate := 2000000000 })], ptpCfg := 1 }

/-- A module in ACTIVE that holds nothing else. -/
def tDev : Dev := { sys := { st := .active }, port := tPort }

/-- A state whose queue is empty. -/
def tS (m : Dev) : State := { m := m }

/-! ### Witnesses: steps, acceptance, the control path and the port -/

theorem wit_StepRunsFrontCommand : ({ tS tDev with pending := [.dieWake 3] } : State).pending = .dieWake 3 :: [] := rfl

theorem wit_WellFormedCommandsAnswerNext : (Instr.dieWake 7).wf = true ∧ (Instr.dieWake 8).wf = false := by decide

theorem wit_FlashAndFusesFrame : (Instr.dieWake 7).mayChangeFlash = false ∧ exec (.dieWake 7) (tS tDev) = .next (tS tDev) := ⟨rfl, rfl⟩

theorem wit_FlashAndFusesStaySound : (tS tDev).nv.ok ∧ ∃ t, step (tS tDev) = .next t := ⟨⟨rfl, by decide, by decide⟩, _, rfl⟩

/-- A job whose origin this module is, in slot 15, started and in HALTED. -/
def tHalted : Job := {
  id := 7, part := 0, self := 1, origin := 1, members := 2, firstStroke := 0, periodK := 4, stretchLimit := 1, margin := 0, cfgMargin := 0
  fill := false, isOrigin := true, phase := .halted, haltCause := .commanded, started := true }

theorem wit_AcceptedCommandsTakeEffect_row :
    let i := Instr.linkControl 31 31 2
    let c := specLinkControl 31 31 2
    let a : Accepted := { cmd := i, mb := 31, slot := none, stroke := 0 }
    let m := { tDev with ctl := { accepted := [a] } }
    specOf i = some c ∧ i.wf = true ∧ unreached tDev c.opcode c.mb = false ∧ jobWideBusy c tDev = false ∧ acceptErr c tDev = none
      ∧ c.query = false ∧ c.jobWide = false ∧ m.sys.st = .active ∧ (localEnds m).sys.selftest = none ∧ acceptedOf (localEnds m) none = [a]
      ∧ recheckErr c (localEnds m) = none ∧ (c.apply tDev).wait = none := by
  refine ⟨rfl, ?_, ?_, ?_, ?_, rfl, rfl, rfl, ?_, ?_, ?_, rfl⟩ <;> decide +kernel

theorem wit_AcceptedCommandsTakeEffect_job :
    let i := Instr.jobResume 31 7
    let c := specJobResume 31 7
    let a : Accepted := { cmd := i, mb := 31, slot := some 15, stroke := 0 }
    let m : Dev := { tDev with jobs := [(15, { tHalted with jobWide := some a })] }
    let b : Accepted := { cmd := .jobDestroy 31 7, mb := 31, slot := some 15, stroke := 0 }
    let n : Dev := { tDev with jobs := [(15, tHalted)], ctl := { accepted := [b] } }
    specOf i = some c ∧ c.jobWide = true ∧ c.buckets = [] ∧ (specJob c m).map (·.1) = some 15
      ∧ (jobAt m 15).bind (·.jobWide) = some a ∧ recheckErr c (updJob m 15 (fun j => { j with jobWide := none })) = none
      ∧ acceptedOf n (some 15) = [b] ∧ recheckErr (specJobDestroy 31 7) (updCtl n (fun t => { t with accepted := t.accepted.erase b })) = none := by
  refine ⟨rfl, rfl, rfl, ?_, rfl, ?_, ?_, ?_⟩ <;> decide +kernel

theorem wit_RefusalsAndQueriesAnswerAtOnce :
    (let c := specModuleQuiesce 31
     specOf (.moduleQuiesce 31) = some c ∧ (Instr.moduleQuiesce 31).wf = true ∧ unreached tDev c.opcode c.mb = false
       ∧ jobWideBusy c tDev = false ∧ (acceptErr c { tDev with jobs := [(15, { tHalted with phase := .turning })] }).map (·.status) = some 0x1001)
    ∧ (let c := specPowerStatus 31
       specOf (.powerStatus 31) = some c ∧ (Instr.powerStatus 31).wf = true ∧ unreached tDev c.opcode c.mb = false ∧ acceptErr c tDev = none
         ∧ c.query = true) := by
  refine ⟨⟨rfl, ?_, ?_, ?_, ?_⟩, rfl, ?_, ?_, ?_, rfl⟩ <;> decide +kernel

theorem wit_QueuePairs_open : (Instr.cmReq 0x5756320000000000 [1] 9).wf = true ∧ (0 : Nat) < 8 ∧ (partAt tDev 0).configured = true
    ∧ sourceAllowed (partAt tDev 0) [1] = true ∧ (Instr.cmReq 0x5756320000000007 [1] 9).wf = true ∧ (partAt tDev 7).configured = false := by
  decide

/-- The queue pair of `tPort`, with other counts. -/
def tQp (f : Qp → Qp) : State := tS { tDev with cycle := 100000, port := { tPort with qps := [(2, f { part := 0, remote := 9, rate := 2000000000 })] } }

theorem wit_QueuePairs_retries :
    (∃ q, tfind (tQp fun q => { q with retries := 6 }).m.port.qps 2 = some q ∧ q.error = false ∧ q.retries < 7)
    ∧ (∃ q, tfind (tQp fun q => { q with retries := 7 }).m.port.qps 2 = some q ∧ q.error = false ∧ 7 ≤ q.retries) :=
  ⟨⟨_, rfl, rfl, by decide⟩, _, rfl, rfl, by decide⟩

theorem wit_QueuePairs_rates :
    (∃ q, tfind (tQp fun q => { q with lastCnpOut := some 65000, lastCut := some 65000 }).m.port.qps 2 = some q ∧ q.error = false
      ∧ q.lastCnpOut = some 65000 ∧ 65000 + 35000 ≤ (tQp id).m.cycle)
    ∧ (∃ q, tfind (tQp fun q => { q with lastCnpOut := some 65001, lastCut := some 65001 }).m.port.qps 2 = some q ∧ q.error = false
      ∧ q.lastCnpOut = some 65001 ∧ q.lastCut = some 65001 ∧ (tQp id).m.cycle < 65001 + 35000) :=
  ⟨⟨_, rfl, rfl, rfl, by decide⟩, _, rfl, rfl, rfl, rfl, by decide⟩

theorem wit_PortMessages :
    (wfPtpMessage 0 5 (-3) tDev.port.ptpLocked = true ∧ tDev.port.ptpCfg ≠ 0 ∧ powerState tDev < 4)
    ∧ (tfind tDev.port.parts 0 = some tPart ∧ tPart.configured = true ∧ tPart.ipv4 ≠ 0)
    ∧ wfPfcPauseFrame 7 65535 = true ∧ (Instr.portLinkChange 1 0 true).wf = true ∧ 1 ≠ tDev.port.mode := by
  decide +kernel

theorem wit_HostAccessesToTheWindows_write : (Instr.hostCwWrite 2 5 4092 [1, 2, 3, 4]).wf = true ∧ (tQp id).m.port.qps ≠ []
    ∧ 4 ≤ 4092 % 4096 ∧ 4092 % 4096 + 4 ≤ 4096 ∧ mbOwned (tQp id).m 0 = false
    ∧ tfind (tQp id).m.port.qps 2 = some { part := 0, remote := 9, rate := 2000000000 } := by decide +kernel

theorem wit_HostAccessesToTheWindows_flip : (Instr.mailboxFlip 2 5 31).wf = true ∧ 31 / 32 = 0 ∧ mbOwned tDev 31 = false
    ∧ mbOwned { tDev with ctl := { cw := [(31 * 4096, 1)] } } 31 = true := by decide +kernel

theorem wit_HostAccessesToTheWindows_key : (4 : Nat) ≠ (partAt tDev 0).cwKey ∧ (4 : Nat) ≠ (partAt tDev 0).bwKey
    ∧ (Instr.hostCwWrite 2 4 0 []).wf = true ∧ (Instr.hostFlagWrite 2 4 1 0 []).wf = true ∧ (Instr.hostBucketWrite 2 4 1 0 []).wf = true
    ∧ (Instr.hostBucketRead 2 4 1 0 64).wf = true := by decide +kernel

/-- Bucket 32,767 reads HOST for partition 0 and lies at an address of HBM. -/
def tBucket : Dev := { tDev with ctl := { flags := [(32767, { owner := 1, addr := 0x200000 })] } }

theorem wit_BucketsOfTheHost : (Instr.hostFlagWrite 2 6 32767 0 (leBytes 4 2)).wf = true ∧ flagAt tBucket 32767 = { owner := 1, addr := 0x200000 }
    ∧ (Instr.hostBucketWrite 2 6 32767 0x1FFFFF [1]).wf = true ∧ 0x1FFFFF + 1 ≤ 0x200000 ∧ bucketGranted tBucket 32767 = false
    ∧ tBucket.power.deep < 3 ∧ tBucket.mem.damaged = []
    ∧ (∀ x ∈ tBucket.jobs, x.2.secure.protectedPages = []) ∧ (Instr.hostBucketRead 2 6 32767 0 0x200000).wf = true
    ∧ (∀ x ∈ tBucket.mem.poison, ¬(0x200000 / 64 ≤ x.1 ∧ x.1 * 64 < 0x400000)) := by decide +kernel

/-- An event area that is full and holds one record. -/
def tArea : Dev := { tDev with ctl := { areas := [(7, {
  reg := some { addr := 0x1000, rkey := 3, slots := 64, cAddr := 0x2000, cRkey := 4, qp := 2 }, nextSeq := 65, held := [{ etype := 0x0101, part := 7 }] })] } }

theorem wit_ConsumerRereadWritesHeldRecord : (Instr.consumerReread 7 1).wf = true
    ∧ (areaAt tArea 7).reg = some { addr := 0x1000, rkey := 3, slots := 64, cAddr := 0x2000, cRkey := 4, qp := 2 }
    ∧ (areaAt tArea 7).held = [{ etype := 0x0101, part := 7 }] ∧ areaRoom (areaAt tArea 7) = false
    ∧ (areaAt tArea 7).nextSeq - min 1 ((areaAt tArea 7).nextSeq - 1) ≤ 64 := by decide +kernel

/-! ### Witnesses: memory and links -/

/-- One segment of stack 0 is taken; segments 5 and 6 are in CLEARING. -/
def tMem : Mem := { allocs := [{ first := 0, count := 1, part := 0, job := none }], clearing := [5, 6] }

theorem wit_SegmentsAreTakenAndCleared : findRun tMem 0 2 = some 1 ∧ (0 : Nat) < 2
    ∧ findRun { tMem with allocs := [{ first := 0, count := 65536, part := 0, job := none }] } 0 1 = none
    ∧ (Instr.segmentCleared 5).wf = true ∧ tMem.clearing.find? (fun x => decide (segUnit x = segUnit 5)) = some 5 := by decide +kernel

theorem wit_ScrubAndRowRepair : wfPatrolScrub 0x01FFFFFFFFFF true false = true ∧ 0x01FFFFFFFFFF < 0x020000000000
    ∧ wfRowRepairCandidate 1 15 0 0 = true ∧ tDev.mem.remaps = [] ∧ tDev.mem.rowRecord = [] ∧ tDev.mem.damaged = []
    ∧ 0 < (tget {} tDev.mem.hbm 15).spares - tget 0 (tget {} tDev.mem.hbm 15).used 0 ∧ wfRowRepairCandidate 2 31 0 0 = true
    ∧ 0 < (tget {} tDev.mem.cis 31).spares - tget 0 (tget {} tDev.mem.cis 31).used 0
    ∧ wfSoftRepairDone 15 = true ∧ ({ kind := 1, unit := 15, bank := 0, row := 0 } : RepairRow).unit = 15 := by decide +kernel

/-- An aquifer with one command for one extent that holds a byte. -/
def tAq (w : Bool) : Mem := { aq := {
  cmds := [{ write := w, part := 0, addr := 0x400000, first := 3, count := 1, mb := 0, opcode := 0x0207, seq := 0 }]
  extents := [(3, { data := [(0x1FFFFF, 9)] })] } }

theorem wit_AquiferCommandsEnd :
    (tAq true).damaged = [] ∧ underHost { tDev with mem := tAq false } 0x400000 0x200000 = false
    ∧ (∃ c l wear spare, (tAq true).aq.cmds = c :: l ∧ c.count = 1 ∧ wear < 65536 ∧ spare ≤ 100 ∧ c.write = true
      ∧ 2 ≤ spare ∧ 90 ≤ wear)
    ∧ ∃ c l e, (tAq false).aq.cmds = c :: l ∧ c.count = 1 ∧ c.write = false
      ∧ tfind (tAq false).aq.extents (c.part * 33554432 + c.first) = some e ∧ ∀ x ∈ e.data, x.1 < 0x200000 :=
  ⟨rfl, by decide +kernel, ⟨_, _, 95, 2, rfl, rfl, by decide, by decide, rfl, by decide, by decide⟩, _, _, _, rfl, rfl, rfl, rfl, by decide⟩

/-- A module whose link 31 is in a given condition. -/
def tLink (f : Link → Link) : Dev := { tDev with net := { links := [(31, f {})], position := some 4 } }

theorem wit_LinkTraining :
    ((Instr.linkPeerSignal 31).wf = true ∧ (linkAt (tLink id) 31).enabled = true ∧ (linkAt (tLink id) 31).st = .off)
    ∧ (let k := linkAt (tLink fun k => { k with st := .training, attempting := true }) 31
       k.attempting = true ∧ k.st = .training ∧ (Instr.linkPeerLoss 31).wf = true ∧ (Instr.linkTrainTimeout 31 1).wf = true
       ∧ (Instr.linkTrainDone 31 15 1400 true 7 3 0).wf = true ∧ (Instr.linkTrainDone 31 15 1401 true 7 3 0).wf = true
       ∧ (Instr.linkTrainDone 31 15 1400 true 7 3 2).wf = true) := by decide +kernel

/-- A frame in order on a link that is up. -/
def tFrame : Frame := {
  seq := 5, ack := 0, nak := false, exp := false, vc := 0, vcValid := false, creditVc := 0, credit := 0, wideReq := false, dropPair := false
  pair := 0, symErr := 8, fastOk := true, flit := [], launches := [] }

theorem wit_FramesArriveInOrder : (Instr.frameReceive 31 tFrame).wf = true ∧ (Instr.frameReceive 31 { tFrame with symErr := 9 }).wf = true
    ∧ (let k := linkAt (tLink fun k => { k with st := .half, expSeq := 5 }) 31
       linkUp k = true ∧ k.rx = List.replicate 8 0 ∧ k.owed = List.replicate 8 0 ∧ k.txq = [] ∧ k.flitq = [] ∧ tFrame.exp = false
         ∧ tFrame.nak = false ∧ tFrame.dropPair = false ∧ creditDue { k with owed := [0, 0, 0, 0, 0, 0, 0, 300] } = (7, 255))
    ∧ (linkAt (tLink fun k => { k with st := .half, expSeq := 4, awaitReplay := true }) 31).awaitReplay = true ∧ tFrame.seq ≠ 4 := by
  decide +kernel

theorem wit_ReplayLinkDownAndLanes :
    (let m := tLink fun k => { k with st := .wide, sameReplays := 8, replaySeq := 1 }
     linkUp (linkAt m 31) = true ∧ m.colls = [] ∧ m.jobs = [] ∧ (if (8 : Nat) ≠ 0 ∧ 1 = (0 + 1) % 4096 then 8 + 1 else 1) = 9)
    ∧ (wfLaneFailure 31 3 = true ∧ linkUp (linkAt (tLink fun k => { k with st := .wide }) 31) = true ∧ bitOf 15 3 = true ∧ 15 - 2 ^ 3 = 7)
    ∧ (Instr.widthChangeDone 31).wf = true
    ∧ (linkAt (tLink fun k => { k with st := .wide, widthTo := some .narrow }) 31).widthTo = some .narrow := by decide +kernel

def tPacket : Packet := { type := 1, dest := 9, src := 2, window := 0xEFFF, offset := 64, payload := zeros 64, poisonMap := 0, crcOk := true, vc := 7 }

/-- Links 30 and 31 are up; position 9 is reached over link 30, and over link 31 when it is down. -/
def tNet (st : LinkState) : Dev := { tDev with net := {
  links := [(30, { st := st }), (31, { st := .narrow })], position := some 4, routes := [(9, 30 + 32 + 31 * 64 + 2048)]
  windows := [(0xEFFF * 65536 + 2, { src := 2, size := 128, pieces := [(0x1000, 128)], job := 0 })] } }

theorem wit_PacketsFindTheirWay_forward : (Instr.bulkPacketForward 31 tPacket).wf = true ∧ forwarding (tNet .wide) = true
    ∧ linkUp (linkAt (tNet .wide) 31) = true ∧ (tNet .wide).power.deep = 0 ∧ (tNet .wide).net.position ≠ some tPacket.dest
    ∧ bitOf (tget 0 (tNet .wide).net.routes 9) 5 = true ∧ (linkAt (tNet .wide) (tget 0 (tNet .wide).net.routes 9 % 32)).st = .wide
    ∧ (linkAt (tNet .wide) 30).takes tPacket.vc (packetBytes tPacket) = true ∧ (linkAt (tNet .off) 31).takes tPacket.vc (packetBytes tPacket) = true
    ∧ linkUp (linkAt (tNet .off) 30) = false ∧ bitOf (tget 0 (tNet .off).net.routes 9) 11 = true
    ∧ tget 0 (tNet .off).net.routes 9 / 64 % 32 = 31 ∧ bitOf (tget 0 (tNet .off).net.routes 8) 11 = false := by decide +kernel

theorem wit_PacketsFindTheirWay_write :
    (let p := { tPacket with dest := 4 }
     (Instr.bulkPacketReceive 31 p).wf = true ∧ underHost (tNet .wide) (0x1000 + 64) 64 = false ∧ (tNet .wide).net.position = some p.dest ∧ p.type = 1 ∧ p.window < 0xF000 ∧ p.poisonMap = 0
       ∧ tfind (tNet .wide).net.windows (p.window * 65536 + p.src) = some { src := 2, size := 128, pieces := [(0x1000, 128)], job := 0 }
       ∧ p.offset + p.payload.length ≤ 128 ∧ tfind (tNet .wide).net.windows (p.window * 65536 + 3) = none) := by decide +kernel

/-! ### Witnesses: collectives -/

/-- Job 7 in slot 15 with a module-local group 5 and a group 6 over tree 50, which meets link 31. -/
def tFab (down up : Nat) (cs : List Coll) : Dev := { tDev with
  jobs := [(15, { id := 7, part := 0 })], mem := { allocs := [{ first := 0, count := 16, part := 0, job := none }] }
  net := { links := [(31, { st := .wide })], position := some 4, trees := [{ tree := 50, up := up, flags := 1, depth := 1, down := down, jobId := 7 }] }
  groups := [(15 * 65536 + 5, { dies := 3, rank := 0, members := 1, podShift := 0, roots := [(4, 0xFFFF)] }),
    (15 * 65536 + 6, { dies := 3, rank := 0, members := 2, podShift := 0, roots := [(4, 50)] })]
  colls := cs }

def tCollDie (d : Nat) : CollDie := { die := d, src := 64, dst := 0, doneAddr := 0, stageFirst := 0, stageCount := 4, digest := 0 }

def tColl (op group : Nat) (st : CollState) (ds : List Nat) : Coll := {
  slot := 15, group := group, seq := 1, op := op, red := 0, typ := 2, chunkLog := 18, root := 4, rootDie := 0, vc := 0, epoch := 0, bytes := 64
  digest := 0, dies := ds.map tCollDie, st := st, headerSent := true }

theorem wit_CollectiveSourcesAreRead_local :
    let m := tFab 0 255 [tColl 2 5 .data [0, 1]]
    (∃ g, groupAt' m 15 5 = some g ∧ isLocal g = true) ∧ (tColl 2 5 .data [0, 1]).dies.find? (fun e => decide (e.die = 0)) = some (tCollDie 0)
      ∧ (tCollDie 0).ready = false ∧ (tCollDie 0).src ≠ 0 ∧ (tCollDie 0).engine = none ∧ bankPieces 64 64 = [(64, 64)]
      ∧ m.mem.damaged = [] ∧ admitAccess m 0xC0 15 64 64 0 = (true, m) ∧ memPoisoned m.mem 64 64 = false
      ∧ (∀ x ∈ [(2, Instr.reduce), (3, Instr.allreduce), (4, Instr.reduceDeliver), (5, Instr.allgather), (6, Instr.gather), (8, Instr.reduceScatter)],
        (x.2 0 15 5 1).wf = true ∧ (tColl x.1 5 .data [0, 1]).op = x.1 ∧ (tColl x.1 5 .data [0, 1]).red ∉ [1, 4, 5])
      ∧ ∃ e ∈ (tColl 2 5 .data [0, 1]).dies, e.die ≠ 0 ∧ e.src ≠ 0 ∧ e.engine = none ∧ e.ready = false :=
  ⟨⟨_, rfl, rfl⟩, by decide, rfl, by decide, rfl, by decide +kernel, rfl, rfl, by decide +kernel, by decide, by decide⟩

theorem wit_CollectiveSourcesAreRead_tree :
    let c := tColl 1 6 .data [0]
    let m := tFab (2 ^ 31) 255 [c]
    (∃ g, groupAt' m 15 6 = some g ∧ isLocal g = false ∧ groupTree g c.root = some 50)
      ∧ (∃ e, treeOf m 50 = some e ∧ e.up = 0xFF ∧ e.down = 2 ^ 31) ∧ linkUp (linkAt m 31) = true ∧ c.root = ownPos m
      ∧ (linkAt m 31).takes c.vc 192 = true ∧ (Instr.bcast 0 15 6 1).wf = true ∧ (Instr.scatter 0 15 6 1).wf = true ∧ c.bytes ≤ 2 ^ c.chunkLog ∧ c.doneChunks = []
      ∧ admitAccess m 0xC0 15 64 64 0 = (true, m) ∧ hotDelay m 64 = (false, m) :=
  ⟨⟨_, rfl, rfl, rfl⟩, ⟨_, rfl, rfl, rfl⟩, by decide, rfl, by decide +kernel, by decide, by decide, by decide, rfl, rfl, rfl⟩

/-- A chunk of group 6 on tree 50. -/
def tChunk (kind flags restarts : Nat) : Chunk := {
  kind := kind, flags := flags, tree := 50, src := 9, phase := 0, restarts := restarts, digest := 0, chunk := 0, epoch := 0, seq := 1, group := 6
  payload := [], poison := [], vc := 0 }

theorem wit_CollectiveChunks_header :
    let m := tFab 0 31 [tColl 2 6 .header [0]]
    forwarding m = true ∧ linkUp (linkAt m 31) = true ∧ (treeOf m 50).map (·.jobId) = some 7 ∧ (jobById m 7).map (·.1) = some 15
      ∧ (groupAt' m 15 6).isSome = true ∧ (Instr.headerChunk 31 (tChunk 0 0 0)).wf = true
      ∧ (∀ x ∈ (tFab 0 31 []).colls, x.slot = 15 → x.group ≠ 6) ∧ (Instr.goChunk 31 (tChunk 1 2 0)).wf = true ∧ bitOf (tChunk 1 2 0).flags 1 = true
      ∧ (Instr.goChunk 31 (tChunk 1 0 0)).wf = true ∧ headerTree m (tColl 2 6 .header [0]) = 50
      ∧ (collTree m (tColl 2 6 .header [0])).up = some 31 ∧ (collTree m (tColl 2 6 .header [0])).down = []
      ∧ m.mem.damaged = [] ∧ (tColl 2 6 .header [0]).headerSent = true ∧ ∃ d ∈ (tColl 2 6 .header [0]).dies, d.src ≠ 0 ∧ d.engine = none := by decide +kernel

theorem wit_CollectiveChunks_data :
    let m := tFab (2 ^ 31) 30 [tColl 2 6 .data [0]]
    (Instr.dataChunk 31 (tChunk 3 8 0)).wf = true ∧ stagedFor (tColl 2 6 .data [0]) 0 0 31 = none ∧ (tChunk 3 8 1).restarts ≠ 0
      ∧ (∃ d ∈ (tColl 2 6 .data [0]).dies, d.src ≠ 0 ∧ d.engine = none ∧ d.ready = false) ∧ (Instr.endedChunk 31 (tChunk 4 0 0)).wf = true
      ∧ 31 ∈ (collTree m (tColl 2 6 .data [0])).down ∧ 31 ∉ (tColl 2 6 .data [0]).endeds := by decide +kernel

theorem wit_CollectiveAbortsAndFinishes :
    let m := tFab 0 31 [tColl 2 6 .data [0]]
    (Instr.abortChunk 31 (tChunk 5 0 0)).wf = true ∧ bitOf (tChunk 5 0 0).flags 2 = false
      ∧ (Instr.abortChunk 31 (tChunk 5 4 1)).wf = true ∧ bitOf (tChunk 5 4 1).flags 2 = true ∧ (tColl 2 6 .data [0]).restarts < 1
      ∧ (∃ g, groupAt' m 15 6 = some g ∧ g.early = [] ∧ ∃ d < 8, bitOf g.dies d = true ∧ ∀ x ∈ (tColl 2 6 .data [0]).dies, x.die ≠ d)
      ∧ (tChunk 5 4 0).restarts ≤ (tColl 2 6 .data [0]).restarts
      ∧ (Instr.finishChunk 31 (tChunk 6 0 0)).wf = true ∧ ({ tColl 2 6 .data [0] with endedSent := true } : Coll).throttled = false
      ∧ (collTree m (tColl 2 6 .data [0])).up = some 31 ∧ (collTree m (tColl 2 6 .data [0])).down = [] :=
  ⟨by decide, by decide, by decide, by decide, by decide, ⟨_, rfl, rfl, 1, by decide⟩, by decide, by decide, rfl, rfl, rfl⟩

/-- A command bank of die 0 with one reduce of group 5. -/
def tPost : List Byte := [2, 2, 2, 0] ++ leBytes 2 5 ++ zeros 2 ++ leBytes 2 4 ++ zeros 6 ++ leBytes 8 64 ++ zeros 24 ++ [0, 4] ++ zeros 14

def tPosting : Dev :=
  let m := tFab 0 255 []
  { m with
    mem := memWrite (memWrite m.mem (bankAddr 0 8) (leBytes 2 0xA7C0 ++ leBytes 2 1)) (bankAddr 0 8 + 64) tPost
    banks := [0, 1, 2, 3, 8].map (fun b => (b, { owner := 0xC0, jobSlot := 15, jobValid := true })) }

theorem wit_CollectivePosting : (Instr.collBankHandover 0 8).wf = true ∧ (bankAt tPosting 0 8).owner = 0xC0 ∧ (bankAt tPosting 0 8).jobSlot = 15
    ∧ memNat tPosting.mem (bankAddr 0 8) 2 = 0xA7C0 ∧ memNat tPosting.mem (bankAddr 0 8 + 2) 2 = 1
    ∧ memRead tPosting.mem (bankAddr 0 8 + 64) 64 = tPost ∧ collResult tPosting 0 15 tPost = 0 ∧ recField tPost 4 2 = 5
    ∧ (groupAt' tPosting 15 5).map (fun g => bitOf g.dies 1) = some true ∧ (groupAt' tPosting 15 5).map (·.early) = some [] ∧ underHost tPosting (bankAddr 0 8) 0x100000 = false
    ∧ (∀ x ∈ tPosting.colls, x.slot = 15 → x.group ≠ 5) ∧ (Instr.collWaitingTick 7 true).wf = true := by decide +kernel

/-! ### Witnesses: vector engines, queues and banks -/

/-- Every lane adds in registers 1 to 3; the team is 31 of engine 127 of die 7. -/
def tF : VeF := { die := 7, ve := 127, team := 31, rd := 31, ra := 1, rb := 2, rc := 3, pred := 0, pneg := false, imm := 0 }

/-- Register 1 of lane l holds 4 l, register 2 holds l and register 3 holds 1; every base register holds the same address. -/
def tTeam (base : Nat) : Team := {
  job := 15
  v := (List.range 64).flatMap (fun l => [(l * 32 + 1, BitVec.ofNat 32 (4 * l)), (l * 32 + 2, BitVec.ofNat 32 l), (l * 32 + 3, 1)])
  u := (List.range 16).map (fun r => (r, base)) }

/-- That team runs for job 7, alone on its engine or beside team 30. -/
def tVec (base : Nat) (more : Tab Team) (atoms : List AtomOp) : Dev := { tFab 0 255 [] with
  ves := [(7 * 128 + 127, { teams := more ++ [(31, tTeam base)], atoms := atoms })]
  banks := [(7 * 160 + 159, { owner := 127, jobSlot := 15, jobValid := true })] }

theorem wit_VectorLaneArithmetic : tF.wf = true ∧ teamAt (tVec 0 [] []) 7 127 31 = some (tTeam 0) ∧ (tTeam 0).wait = .ready
    ∧ (tTeam 0).atomRegs = [] ∧ guardOn (tTeam 0) tF 63 = true ∧ guardOn (tTeam 0) { tF with pneg := true } 63 = false := by decide +kernel

theorem wit_VectorShiftsAndSelects : vGet (tTeam 0) 31 2 = 31 ∧ vGet (tTeam 0) 31 1 < 2 ^ 31 ∧ vGet (tTeam 0) 32 2 = 32 := by decide +kernel

theorem wit_VectorTeamOperations : vGet (tTeam 0) 63 2 < 64 ∧ (∃ a, fmtOf (15 + 16 * 7) = a) ∧ (fmtOf (15 % 16)).isSome = true
    ∧ (fmtOf (7 % 16)).map (·.kind) ≠ some 3 ∧ (fmtOf 7).isSome = true ∧ (jobAt (tVec 0 [] []) (tTeam 0).job).isSome = true
    ∧ ({ tF with imm := 7 } : VeF).imm % 4 = 3 ∧ tF.imm % 4 ≠ 3 := by
  refine ⟨?_, ⟨_, rfl⟩, ?_⟩ <;> decide +kernel

def tAtom (a : Nat) : AtomOp := { team := 31, lane := 63, addr := a, op := 0, operand := 5, rd := 31, job := 15, poison := false }

theorem wit_VectorControlFlow :
    (∃ x ∈ (veAt (tVec 0 [(30, tTeam 0)] []) 7 127).teams, x.1 ≠ 31 ∧ x.2.job = (tTeam 0).job ∧ x.2.wait = .ready)
    ∧ (tTeam 0).flags.nonfinite = false
    ∧ (let b : Alloc := { first := 14 * 65536, count := 2, part := 0, job := some 15, use := .generators }
       ([b].find? (fun a => decide (a.job = some 15) && decide (a.use = .generators) && decide (segUnit a.first = 2 * 7))) = some b)
    ∧ (let a := bankAddr 7 159
       (veAt (tVec 0 [] [tAtom a]) 7 127).teams = [(31, tTeam 0)] ∧ (veAt (tVec 0 [] [tAtom a]) 7 127).atoms = [tAtom a]
       ∧ (tAtom a).job = (tTeam 0).job ∧ admitAccess (tVec 0 [] [tAtom a]) (7 * 256 + 127) 15 a 4 2 = (true, tVec 0 [] [tAtom a])
       ∧ memPoisoned (tVec 0 [] [tAtom a]).mem a 4 = false)
    ∧ (∀ p ∈ (tVec 0 [] []).posted, ∀ a ∈ p.2, ¬(a.die = 7 ∧ a.ve = 127 ∧ a.team = 31))
    ∧ (let m : Dev := { tVec 0 [] [] with posted := [(0, [{ addr := 0, op := 0, operand := 1, die := 7, ve := 127, team := 31, job := 15, poison := false }])] }
       ∃ p ∈ m.posted, ∃ a ∈ p.2, a.die = 7 ∧ a.ve = 127 ∧ a.team = 31) := by
  refine ⟨by decide +kernel, rfl, by decide +kernel, ⟨rfl, rfl, rfl, rfl, rfl⟩, by decide, by decide⟩

theorem wit_VectorLoadsAndStores :
    let addr : Nat → Nat := fun l => (uGet (tTeam 0x1000) 0 + vGet (tTeam 0x1000) l 1) % 2 ^ 64 % 2 ^ 48 / 4 * 4
    (∀ l < 64, admitAccess (tVec 0x1000 [] []) (7 * 256 + 127) 15 (addr l) 4 0 = (true, tVec 0x1000 [] []))
    ∧ (∀ l < 64, admitAccess (tVec 0x1000 [] []) (7 * 256 + 127) 15 (addr l) 4 1 = (true, tVec 0x1000 [] []))
    ∧ (tVec 0x1000 [] []).mem.damaged = [] ∧ (∀ x ∈ (tVec 0x1000 [] []).jobs, x.2.secure.protectedPages = []) ∧ (∀ k < 64, k ≠ 63 → addr k ≠ addr 63) := by
  refine ⟨fun l h => admitAccess_eq _ _ _ _ _ _ ?_, fun l h => admitAccess_eq _ _ _ _ _ _ ?_, rfl, by decide +kernel, by decide +kernel⟩
  · revert l; decide +kernel
  · revert l; decide +kernel

/-- Whichever base register ATOM adds, it holds the same. -/
theorem uGet_tTeam (base r : Nat) (h : r < 16) : uGet (tTeam base) r = base := by
  have : r ∈ List.range 16 := List.mem_range.mpr h
  simp only [List.range, List.range.loop, List.mem_cons, List.not_mem_nil, or_false] at this
  rcases this with h | h | h | h | h | h | h | h | h | h | h | h | h | h | h | h <;> subst h <;> rfl

theorem atomAddr_tTeam (base op l : Nat) : atomAddr (tTeam base) tF op l = alignTo (atomBytes op) ((base + vGet (tTeam base) l 1) % 2 ^ 64 % 2 ^ 48) := by
  unfold atomAddr laneAddr
  rw [uGet_tTeam _ _ (Nat.mod_lt _ (by decide))]
  rfl

theorem wit_AtomicsAreBufferedPostedAndApplied_buffered : ({ tF with imm := 15 } : VeF).imm % 16 = 15 ∧ (∀ op < 8, ∀ l < 64, onBank (atomAddr (tTeam (bankAddr 7 159)) tF op l) = true)
    ∧ atomEntries (veAt (tVec (bankAddr 7 159) [] []) 7 127) + 64 ≤ 2048 := by
  simp only [atomAddr_tTeam]; decide +kernel

theorem wit_AtomicsAreBufferedPostedAndApplied_posted :
    (tVec 0 [] []).mem.damaged = [] ∧ (∀ op < 8, ∀ l < 64, onHbm (atomAddr (tTeam 0x1000) tF op l) = true ∧ dieOfAddr (atomAddr (tTeam 0x1000) tF op l) = 0)
    ∧ (Instr.postedAtomicApply 7).wf = true ∧ admitAccess (tVec 0 [] []) (7 * 256 + 127) 15 0x1000 8 2 = (true, tVec 0 [] []) := by
  refine ⟨rfl, ?_, by decide, rfl⟩
  simp only [atomAddr_tTeam]; decide +kernel

/-- Lanes 0 to 7 of register 1 hold these words. -/
def tWords (l : List Nat) : Team := { tTeam 0 with v := (List.zip (List.range 8) l).map (fun x => (x.1 * 32 + 1, BitVec.ofNat 32 x.2)) }

theorem wit_QueuedWork_issue :
    let t := tWords [2 + 7 * 1024 + 7 * 16384, 0, 0, 0, 0, 0, 0, 0]
    guardOn t { tF with imm := 47 } 0 = true ∧ (47 % 64 : Nat) < 48 ∧ (arrayAt tDev 7 47).queue.length < 16
    ∧ descCheck 7 47 (arrayAt tDev 7 47) (descOf (laneWords t 1)) = 0 := by decide +kernel

theorem wit_QueuedWork_wait :
    (47 + 64 * 15) % 64 = 47 ∧ (47 + 64 * 15) / 64 % 16 = 15 ∧ vGet (tWords [1]) 0 1 = 1
    ∧ (tget [] ({ done := [(15, [{}])] } : MArray).done 15).length = 1 ∧ ({ done := [true] } : Dma).done.length = 1 := by decide +kernel

theorem wit_QueuedWork_copy : dmaOk (laneWords (tWords [0x1000, 0, 0x2000, 0, 64, 0, 0, 0]) 1) = true
    ∧ (let c : DmaOp := { src := 0xFFFC0, dst := 0x1FFFC0, bytes := 64, ve := 0, team := 0, job := 15 }
       let m : Dev := { tVec 0 [] [] with dmas := [(31, { queue := [c] })] }
       (Instr.dmaCopyDone 7 3).wf = true ∧ (dmaAt m 7 3).queue = [c] ∧ c.src % 0x100000 + c.bytes ≤ 0x100000
       ∧ admitAccess m (7 * 256 + 0xC2 + 3) 15 c.src 64 0 = (true, m) ∧ admitAccess m (7 * 256 + 0xC2 + 3) 15 c.dst 64 1 = (true, m)) :=
  ⟨by decide +kernel, by decide, rfl, by decide, rfl, rfl⟩

theorem wit_BanksChangeHands_give : guardOn (tTeam 0) { tF with imm := 159 + 256 * 0xCA } 0 = true ∧ (159 + 256 * 0xCA) % 256 = 159
    ∧ (159 + 256 * 0xCA) / 256 % 256 = 0xCA ∧ givable 0xCA = true ∧ ownsBank (tVec 0 [] []) (7 * 256 + 127) 15 7 159 = true
    ∧ (bankAt (tVec 0 [] []) 7 159).pending = none ∧ (veAt (tVec 0 [] []) 7 127).atoms = [] := by decide +kernel

theorem wit_BanksChangeHands_effect :
    let m : Dev := { tVec 0 [(30, { tTeam 0 with wait := .handover 159 })] [] with
      banks := [(7 * 160 + 159, { owner := 127, jobSlot := 15, jobValid := true, pending := some (0xC0, 127, 30) })] }
    (Instr.spbHandoverEffect 7 159).wf = true ∧ (bankAt m 7 159).pending = some (0xC0, 127, 30) ∧ (bankAt m 7 159).written = none ∧ ownerFinished m 7 159 = true
    ∧ teamAt m 7 127 30 = some { tTeam 0 with wait := .handover 159 } := ⟨by decide, rfl, rfl, rfl, rfl⟩

theorem wit_BanksChangeHands_write :
    let v := 0xC0 + 256 * 15 + 4096
    let m : Dev := { tVec 0 [] [] with banks := [(7 * 160 + 159, { owner := 127, jobSlot := 15, jobValid := true, written := some v })] }
    let n : Dev := { m with
      banks := [(7 * 160 + 159, { owner := 0xC2, written := some v })]
      dmas := [(28, { queue := [{ src := bankAddr 7 159, dst := 0, bytes := 64, ve := 0, team := 0, job := 15 }] })] }
    (Instr.spbOwnerWrite 7 159 v).wf = true ∧ (Instr.spbHandoverEffect 7 159).wf = true ∧ ownerFinished m 7 159 = true
      ∧ (bankAt m 7 159).written = some v ∧ (bankAt m 7 159).pending = none ∧ (bankAt m 7 159).jobSlot = v / 256 % 16
      ∧ (bankAt m 7 159).jobValid = v.testBit 12 ∧ (bankAt m 7 159).jobSlot ≠ (v - 256) / 256 % 16 ∧ ownerFinished n 7 159 = false := by
  decide +kernel

/-! ### Witnesses: matrix arrays -/

/-- A BF16 instruction of one row for sub-unit 15, and a DITHER instruction. -/
def tDesc : Desc := {
  w0 := 1 + 2 * 16 + 15 * 64 + 7 * 1024 + 7 * 16384, w1 := 0x1000 + 64 * 2 ^ 48, w2 := 0x10000 + 64 * 2 ^ 48, w3 := bankAddr 7 158 + 64 * 2 ^ 48 }
def tDither : Desc := { w0 := 2 + 2 * 16 + 15 * 64 + 7 * 1024 + 7 * 16384 }

/-- Array 47 of die 7 works for job 7. -/
def tArr (f : MArray → MArray) : Dev := { tVec 0 [] [] with
  arrays := [(7 * 48 + 47, f { shape := 2, job := some 15 })]
  banks := [(7 * 160 + 158, { owner := 0x80 + 47, jobSlot := 15, jobValid := true })] }

/-- The same for the gang of arrays 40 and 41. -/
def tGang : Desc := { tDesc with w0 := 1 + 7 * 1024 + 7 * 16384 + 2 ^ 21 + 3 * 2 ^ 56 }

theorem wit_MatrixRowsAndColumnSums_row :
    let m := tArr fun a => { a with held := [{ unit := 15, d := tDesc, stage := .filled }] }
    let a := arrayAt m 7 47
    let x : Rel := { unit := 15, d := tDesc, stage := .filled }
    let o := outRow tDesc ((List.range (unitCols a 2 15).length).map (fun c => weightCol tDesc (unitCols a 2 15).length c [])) (memRead m.mem 0x1000 (streamRow tDesc)) []
    (Instr.matmul 7 47 15).wf = true ∧ m.power.brake = false ∧ headFill a 15 = some (0, x) ∧ dOp tDesc = 1
      ∧ dGang tDesc = false ∧ dAcc tDesc = false ∧ dK tDesc = 1 ∧ mayStream a (0, x) = true ∧ a.job = some 15 ∧ m.mem.damaged = []
      ∧ bankPieces 0x1000 (streamRow tDesc) = [(0x1000, streamRow tDesc)] ∧ wAddr tDesc.w1 = 0x1000
      ∧ admitAccess m (7 * 256 + 0x80 + 47) 15 (wAddr tDesc.w1) (streamRow tDesc) 0 = (true, m)
      ∧ memPoisoned m.mem (wAddr tDesc.w1) (streamRow tDesc) = false ∧ isExtMem (wAddr tDesc.w3) = false
      ∧ bankPieces (wAddr tDesc.w3) o.1.length = [(wAddr tDesc.w3, o.1.length)]
      ∧ admitAccess m (7 * 256 + 0x80 + 47) 15 (wAddr tDesc.w3) o.1.length 1 = (true, m) := by
  refine ⟨by decide, rfl, rfl, by decide, by decide, by decide, by decide, by decide, rfl, rfl, by decide +kernel, by decide,
    admitAccess_eq _ _ _ _ _ _ ?_, rfl, by decide, by decide +kernel, admitAccess_eq _ _ _ _ _ _ ?_⟩ <;> decide +kernel

theorem wit_MatrixRowsAndColumnSums_gang :
    let x : Rel := { unit := 0, d := tGang, stage := .filled }
    let y : Rel := { x with d := { tGang with w1 := 0x2000 + 64 * 2 ^ 48 } }
    let m : Dev := { tVec 0 [] [] with
      arrays := [(7 * 48 + 40, { job := some 15, held := [x] }), (7 * 48 + 41, { job := some 15, held := [y] })] }
    (Instr.matmul 7 40 0).wf = true ∧ m.power.brake = false ∧ streamers m 7 40 0 = (40, 0, x) :: [(41, 0, y)] ∧ gangKey y.d ≠ gangKey x.d
      ∧ { m with power := { brake := true } }.power.brake = true := by
  refine ⟨by decide, rfl, ?_, ?_, rfl⟩ <;> decide +kernel

theorem wit_MatrixRowsAndColumnSums_sums : ([FVal.fin false 1 0] : List FVal).length = [FVal.fin true 1 0].length
    ∧ (List.replicate 32 (FVal.fin false 1 0)).length % 32 = 0 ∧ nth (some 0) [some (-3), some 4] (32 / 32) = some 4 := by decide

theorem wit_ArrayInstructionsGoOn_release :
    let a : MArray := { shape := 2, queue := [tDesc, tDither] }
    let x : Rel := { unit := 15, d := tDither, stage := .filled }
    a.queue = tDesc :: [tDither] ∧ (∀ x ∈ a.held, x.stage ≠ .shape) ∧ dShape tDesc = a.shape ∧ buffersUsed a (dUnit tDesc) < 2
      ∧ dShape tDesc ≠ ({ a with shape := 1 } : MArray).shape ∧ 2 ≤ buffersUsed { a with held := [x, x] } (dUnit tDesc) := by decide +kernel

theorem wit_ArrayInstructionsGoOn_shape :
    let x : Rel := { unit := 15, d := tDesc, stage := .shape }
    (arrayAt (tArr fun a => { a with shape := 0, held := [x] }) 7 47).held = [x] ∧ x.stage = .shape := ⟨rfl, rfl⟩

theorem wit_ArrayInstructionsGoOn_fill :
    let x : Rel := { unit := 15, d := tDesc }
    let m := tArr fun a => { a with held := [{ unit := 15, d := tDither, stage := .filled }, x] }
    let a := arrayAt m 7 47
    (List.range a.held.length).find? (mayFill a) = some 1 ∧ a.held[1]? = some x ∧ a.job = some 15 ∧ m.mem.damaged = []
      ∧ (unitCols a (dShape tDesc) 15).length = 64 ∧ weightRows tDesc ≤ 512 ∧ packedBytes (dWfmt tDesc) 64 = 128
      ∧ (∀ j < weightRows tDesc, (if j < depthOf tDesc then 128 else 64) = 128
        ∧ bankPieces (wAddr tDesc.w2 + j * wPitch tDesc.w2) 128 = [(wAddr tDesc.w2 + j * wPitch tDesc.w2, 128)]
        ∧ admitAccess m (7 * 256 + 0x80 + 47) 15 (wAddr tDesc.w2 + j * wPitch tDesc.w2) 128 0 = (true, m)
        ∧ memPoisoned m.mem (wAddr tDesc.w2 + j * wPitch tDesc.w2) 128 = false) := by
  refine ⟨by decide, rfl, rfl, rfl, by decide +kernel, by decide +kernel, by decide +kernel,
    fun j h => ⟨?_, ?_, admitAccess_eq _ _ _ _ _ _ ?_, rfl⟩⟩ <;> (revert j; decide +kernel)

theorem wit_ArrayInstructionsGoOn_end :
    let x : Rel := { unit := 15, d := tDither, stage := .filled }
    let y : Rel := { unit := 15, d := tDesc, stage := .streamed, flags := { nonfinite := true } }
    let m := tArr fun a => { a with held := [y, x] }
    let a := arrayAt m 7 47
    m.power.brake = false ∧ headDither a = some (1, x) ∧ a.held.findIdx? (fun x => decide (x.unit = 15)) = some 0 ∧ a.held[0]? = some y
      ∧ y.stage = .streamed ∧ x.stage ≠ .streamed ∧ (jobAt m 15).isSome = true
      ∧ 2 ≤ (tget {} ({ stages := [(7, { kind := 2 })] } : Learn).stages 7).kind
      ∧ (arrayAt (tArr fun a => { a with ramped := true }) 7 47).ramped = true
      ∧ rowsWait (tArr fun a => { a with ramped := true }) 7 47 = false := by decide +kernel

theorem wit_ColumnParityAndSelfTest :
    let x : Rel := { unit := 15, d := tDesc, stage := .streamed }
    let m := tArr fun a => { a with held := [x], failedCols := [255] }
    let a := arrayAt m 7 47
    wfColumnParityFail 7 47 15 255 0 = true
      ∧ a.held.findIdx? (fun x => decide (x.unit = 15) && decide (x.stage = .streamed) && !x.void) = some 0 ∧ a.held[0]? = some x
      ∧ (unitCols a (dShape tDesc) 15).idxOf? 255 = some 63 ∧ 255 ∈ a.failedCols ∧ 254 ∉ a.failedCols ∧ 0 < dK tDesc ∧ dOp tDither ≠ 1
      ∧ barred m (7 * 256 + 0x80 + 47) (a.job.getD 16) (wAddr tDesc.w3 + 63 * outBytes tDesc) (outBytes tDesc) 1 = false
      ∧ 255 ∉ tget [] m.sys.colRecord (7 * 48 + 47) ∧ 255 ∉ a.bad
      ∧ (∃ r, exec (.columnParityFail 7 47 15 255 0) (tS m) = .next r)
      ∧ ({ tDev with sys := { st := .ready, selftest := some (7, 0) } } : Dev).sys.selftest = some (7, 0) ∧ wfSelftestDone [] = true
      ∧ (∃ r, exec (.selftestDone []) (tS { tDev with sys := { st := .ready, selftest := some (7, 0) } }) = .next r)
      ∧ (7 * 48 + 47) * 256 + 255 < 384 * 256 ∧ ((7 * 48 + 47) * 256 + 255) / 256 / 48 = 7 := by
  refine ⟨?_, ?_, ?_, ?_, ?_, ?_, ?_, ?_, ?_, ?_, ?_, ⟨_, rfl⟩, rfl, ?_, ⟨_, rfl⟩, ?_, ?_⟩ <;> decide +kernel

/-! ### Witnesses: attention and pages -/

/-- A pool of job 7 on die 7 with these pages, these entries of the map and these lengths. -/
def tPool (pages : Tab Page) (map len : Tab Nat) : KvPool := {
  desc := { layers := 1, maxPages := 2, hbmFrames := 4, cisFrames := 4, pages := 4, seqs := 2 }
  hbmBase := [0x100000, 0x200000], cisBase := [], pages := pages, map := map, len := len }

/-- The attention engine of die 7 holds command bank 158 with descriptor `d`, and bank 159 for its data. -/
def tAtt (d : List Byte) (p : KvPool) : Dev := { tFab 0 255 [] with
  mem := memWrite { allocs := [{ first := 0, count := 16, part := 0, job := none }] } (bankAddr 7 158 + 64) d
  atts := [(7, { banks := [{ bank := 158, job := 15, next := 0, count := 1 }] })]
  banks := [158, 159].map (fun b => (7 * 160 + b, { owner := 0xC8, jobSlot := 15, jobValid := true })), pools := [(7 * 16 + 15, p)] }

def tFwd : List Byte := [1, 0, 1, 1, 1, 0, 0, 1] ++ zeros 8 ++ leBytes 4 1 ++ zeros 8 ++ leBytes 4 0x3F800000 ++ leBytes 8 (bankAddr 7 159)
  ++ leBytes 8 (bankAddr 7 159 + 1024) ++ zeros 16
def tAppend : List Byte := [2, 0, 0, 1, 1, 0, 0, 1] ++ leBytes 4 64 ++ zeros 20 ++ leBytes 8 (bankAddr 7 159) ++ zeros 24
/-- A page operation on positions `pos` to `pos + n` of layer 0, head 1 of sequence 1. -/
def tPageOp (code pos n : Nat) : List Byte := [3, BitVec.ofNat 8 code, 0, 0, 1, 0, 0, 1] ++ leBytes 4 pos ++ leBytes 4 n ++ zeros 48

def tFull : KvPool := tPool [(0, { frame := 0, ref := 1, fill := 64 })] [(3 * 2, 1)] [(3, 64)]

theorem wit_AttentionDescriptors_handover :
    let m : Dev := { tAtt [] tFull with mem := memWrite {} (bankAddr 7 159) (leBytes 2 0xA7E0 ++ leBytes 2 16383) }
    (Instr.attBankHandover 7 159).wf = true ∧ (bankAt m 7 159).owner = 0xC8 ∧ (bankAt m 7 159).jobValid = true
      ∧ (∀ x ∈ (attAt m 7).banks, x.bank ≠ 159) ∧ memNat m.mem (bankAddr 7 159) 2 = 0xA7E0
      ∧ memNat m.mem (bankAddr 7 159 + 2) 2 = 16383 := by decide +kernel

theorem wit_AttentionDescriptors_forward :
    let m := tAtt tFwd tFull
    attNext m 7 = some ({ bank := 158, job := 15, next := 0, count := 1 }, bankAddr 7 158 + 64, tFwd) ∧ descReserved tFwd = false
      ∧ poolAt m 7 15 = some tFull ∧ listIndex tFull (recField tFwd 4 2) (recField tFwd 6 1) (recField tFwd 7 1) = 3
      ∧ (∀ x ∈ m.jobs, x.2.secure.protectedPages = []) ∧ recField tFwd 0 1 = 1 ∧ fwdFields tFull tFwd = true
      ∧ fwdAddrs m 7 15 tFwd = true ∧ recField tFwd 3 1 = 1 ∧ placeOf (rowPlace tFwd 0).1 ≠ .spad 7 158
      ∧ (attAt m 7).moves = [] ∧ underHost m (bankAddr 7 158) 0x100000 = false ∧ m.mem.damaged = []
      ∧ underHost m (rowPlace tFwd 0).1
          (rowOut tFwd (fwdRow m tFull tFwd ((fwdPages tFull tFwd 3).filter (fun x => decide (0 < x.2.2.ref))) 0)).length = false := by
  decide +kernel

theorem wit_AttentionDescriptors_append :
    let m := tAtt tAppend tFull
    attNext m 7 = some ({ bank := 158, job := 15, next := 0, count := 1 }, bankAddr 7 158 + 64, tAppend) ∧ descReserved tAppend = false
      ∧ poolAt m 7 15 = some tFull ∧ listIndex tFull (recField tAppend 4 2) (recField tAppend 6 1) (recField tAppend 7 1) = 3
      ∧ recField tAppend 0 1 = 2 ∧ appendFields tFull tAppend = true ∧ recField tAppend 3 1 = 1 ∧ recField tAppend 32 8 = bankAddr 7 159
      ∧ bankAddr 7 159 < 2 ^ 48 ∧ inOwnBank m 7 15 (bankAddr 7 159) 512 = true ∧ listLen tFull 3 = 64 ∧ recField tAppend 8 4 = 64
      ∧ newPage tFull = some (1, 1) ∧ (∀ i < 256, codeNonfinite bf16 (memNat m.mem (bankAddr 7 159 + 2 * i) 2) = false)
      ∧ memPoisoned m.mem (bankAddr 7 159) 512 = false ∧ (attAt m 7).moves = [] ∧ underHost m (bankAddr 7 158) 0x100000 = false
      ∧ m.mem.damaged = [] ∧ (∀ x ∈ m.jobs, x.2.secure.protectedPages = []) ∧ ∀ y ∈ tFull.pages, y.1 < tFull.desc.pages := by decide +kernel

theorem wit_PageOperationsAndCopies_checks :
    ([1, 2, 3, 4, 5, 6].flatMap (fun c => [tPageOp c 0 0, tPageOp c 0 64, tPageOp c 64 0])).all (fun d =>
      attNext (tAtt d tFull) 7 = some ({ bank := 158, job := 15, next := 0, count := 1 }, bankAddr 7 158 + 64, d) && recField d 0 1 = 3
        && !descReserved d && recField d 2 1 = 0 && recField d 3 1 = 0 && descLists tFull d true && namedLists tFull d (recField d 4 2) = [3]
        && poolAt (tAtt d tFull) 7 15 = some tFull && recField d 16 2 < tFull.desc.seqs && (attAt (tAtt d tFull) 7).moves = []
        && !underHost (tAtt d tFull) (bankAddr 7 158) 0x100000) = true
    ∧ (∀ y ∈ tFull.pages, y.1 < tFull.desc.pages)
    ∧ (∀ c < 7, recField (tPageOp c 64 64) 1 1 = c) ∧ recField (tPageOp 6 64 128) 8 4 = 64 ∧ recField (tPageOp 6 64 128) 12 4 = 128 := by
  decide +kernel

/-- The list of sequence 0 is full, that of sequence 1 is empty. -/
def tOther : KvPool := tPool [(0, { frame := 0, ref := 1, fill := 64 })] [(1 * 2, 1)] [(1, 64)]

theorem wit_PageOperationsAndCopies_share : otherList tOther (tPageOp 1 64 0) 3 = 1 ∧ listLen tOther 1 = 64 ∧ listLen tOther 3 = 0
    ∧ (∀ i, mapPage tOther 3 i = none) ∧ (∀ i, i * 64 < 64 → (mapPage tOther 1 i).isSome = true) := by
  refine ⟨by decide, by decide, by decide, fun i => ?_, fun i h => ?_⟩
  · match i with
    | 0 => rfl
    | 1 => rfl
    | n + 2 => simp [mapPage, tOther, tPool]
  · have : i = 0 := by omega
    subst this; rfl

theorem wit_PageOperationsAndCopies_moves :
    (let p := tPool [(3, { frame := 3, cistern := true, ref := 1, fill := 64 })] [(3 * 2, 4)] [(3, 64)]
     pagesIn p (tPageOp 5 0 64) true 3 = [3] ∧ (tfind p.pages 3).isSome = true ∧ 1 ≤ freeFrames p false
       ∧ lowestFree (usedFrames p false) p.desc.hbmFrames = some 0)
    ∧ pagesIn tFull (tPageOp 6 0 64) false 3 = [0] ∧ (tfind tFull.pages 0).isSome = true ∧ 1 ≤ freeFrames tFull true
    ∧ lowestFree (usedFrames tFull true) tFull.desc.cisFrames = some 0 := by decide +kernel

theorem wit_PageOperationsAndCopies_copy :
    let x : Page := { frame := 1, ref := 2, fill := 1 }
    let p := tPool [(0, { frame := 0, ref := 1, fill := 64 }), (1, x)] [(3 * 2, 1), (3 * 2 + 1, 2)] [(3, 65)]
    tfind p.pages 1 = some x ∧ listIndex p 1 0 1 = 3 ∧ listLen p 3 = 65 ∧ mapPage p 3 (65 / 64) = some 1 ∧ 1 < p.desc.seqs ∧ 0 < p.desc.layers
      ∧ 1 < x.ref ∧ x.st = .inUse ∧ 65 % 64 ≠ 0 ∧ newPage p = some (2, 2) ∧ (∀ y ∈ p.pages, y.1 < p.desc.pages)
      ∧ underHost (tAtt [] p) (frameAddr p false 2) (kvFrame p) = false ∧ (tAtt [] p).mem.damaged = []
      ∧ (∀ y ∈ (tAtt [] p).jobs, y.2.secure.protectedPages = [])
      ∧ p.tableBase + p.desc.pages * 16 + p.desc.seqs * p.desc.layers * 2 * (p.desc.maxPages * 4 + 4) ≤ frameAddr p false 2 := by decide +kernel

/-- Page 3 moves to frame 0 of the cistern. -/
def tMove : Page := { frame := 3, ref := 1, st := .moving, moveTo := some (true, 0) }
def tMoving : KvPool := { tPool [(3, tMove)] [] [] with cisBase := [0x20000000000] }

theorem wit_PageOperationsAndCopies_moved :
    (Instr.pageMoveDone 7 15 3).wf = true ∧ tfind tMoving.pages 3 = some tMove ∧ tMove.moveTo = some (true, 0)
      ∧ (∀ y ∈ tMoving.pages, y.1 < tMoving.desc.pages)
      ∧ (let m := tAtt (tPageOp 5 0 64) tMoving
         poolAt m 7 15 = some tMoving ∧ 3 ∉ (attAt m 7).moves ∧ underHost m (frameAddr tMoving true 0) (kvFrame tMoving) = false
           ∧ tMoving.tableBase + tMoving.desc.pages * 16
               + tMoving.desc.seqs * tMoving.desc.layers * 2 * (tMoving.desc.maxPages * 4 + 4) ≤ frameAddr tMoving true 0)
      ∧ (let m := tAtt (tPageOp 5 0 64) tMoving
         let n : Dev := { m with atts := m.atts.map (fun x => (x.1, { x.2 with moves := [3] })) }
         attNext n 7 = some ({ bank := 158, job := 15, next := 0, count := 1 }, bankAddr 7 158 + 64, tPageOp 5 0 64)
           ∧ (attAt n 7).moves = [3] ∧ underHost n (bankAddr 7 158) 0x100000 = false ∧ poolAt n 7 15 = some tMoving) := by decide +kernel

/-! ### Witnesses: generation, learning and the turn -/

/-- Job 7 with what `f` gives it. -/
def tJob (f : Job → Job) : Dev := { tFab 0 255 [] with jobs := [(15, f { id := 7, part := 0 })] }

def tReq : Request := {
  reqId := 1, promptLen := 1, maxNew := 1, tincture := 0, tversion := 0, shareReq := 0, shareLen := 0, temp := 0x3F800000, topP := 0x3F800000
  minP := 0, repPen := 0x3F800000, freqPen := 0, presPen := 0, topK := 0, penWindow := 0, flags := 0, stop := [], prompt := [0], bias := []
  mask := [], bytes := 0 }

/-- Slot 4095 of the service samples from a vocabulary of one token, whose logit lies in bank 159. -/
def tSample : List Byte := [1, 0, 0, 0] ++ leBytes 2 4095 ++ zeros 2 ++ leBytes 8 (bankAddr 7 159) ++ leBytes 8 (bankAddr 7 159 + 64) ++ zeros 40

def tAtm : Dev := { tJob (fun j => { j with gen := some { vocab := 1 } }) with
  mem := memWrite { allocs := [{ first := 0, count := 16, part := 0, job := none }] } (bankAddr 7 158 + 64) tSample
  atms := [(7, { banks := [{ bank := 158, job := 15, next := 0, count := 1 }] })]
  banks := [157, 158, 159].map (fun b => (7 * 160 + b, { owner := 0xC9, jobSlot := 15, jobValid := true }))
  seqs := [(4095, { st := .decode, jobSlot := 15, req := some tReq })] }

theorem wit_SamplingOneToken_handover :
    let m : Dev := { tAtm with mem := memWrite {} (bankAddr 7 157) (leBytes 2 0xA7A1 ++ leBytes 2 16383) }
    (Instr.atmBankHandover 7 157).wf = true ∧ (bankAt m 7 157).owner = 0xC9 ∧ (bankAt m 7 157).jobValid = true
      ∧ (∀ x ∈ (atmAt m 7).banks, x.bank ≠ 157) ∧ memNat m.mem (bankAddr 7 157) 2 = 0xA7A1
      ∧ memNat m.mem (bankAddr 7 157 + 2) 2 = 16383 := by decide +kernel

theorem wit_SamplingOneToken_sample :
    (atmAt tAtm 7).banks = [{ bank := 158, job := 15, next := 0, count := 1 }] ∧ memRead tAtm.mem (bankAddr 7 158 + 64 + 64 * 0) 64 = tSample
      ∧ recField tSample 0 1 = 1 ∧ recField tSample 1 1 = 0 ∧ recField tSample 2 2 = 0 ∧ recField tSample 4 2 = 4095 ∧ recField tSample 6 2 = 0
      ∧ recField tSample 24 32 = 0 ∧ recField tSample 58 2 = 0 ∧ recField tSample 62 2 = 0 ∧ 4095 % 8 = 7 ∧ (seqAt tAtm 4095).jobSlot = 15
      ∧ (seqAt tAtm 4095).st ≠ .free ∧ (seqAt tAtm 4095).req = some tReq ∧ genOf tAtm 15 = some { vocab := 1 } ∧ (jobAt tAtm 15).isSome = true
      ∧ inAtmBank tAtm 7 15 64 (recField tSample 8 8) 4 = true ∧ inAtmBank tAtm 7 15 1 (recField tSample 16 8) 16 = true
      ∧ placeOf (recField tSample 16 8) ≠ .spad 7 158 ∧ memPoisoned tAtm.mem (recField tSample 8 8) 4 = false ∧ tReq.poison = false
      ∧ underHost tAtm (bankAddr 7 158) 0x100000 = false ∧ underHost tAtm (recField tSample 16 8) 16 = false := by decide +kernel

theorem wit_SamplingOneToken_token :
    sampleFrom { r := tReq, vocab := 1, tokens := (seqAt tAtm 4095).tokens, d := ((jobAt tAtm 15).map (fun j => (jobDraw j (seqThread 4095)).1)).getD 0 }
      ((chunksOf 4 1 (memRead tAtm.mem (recField tSample 8 8) 4)).map leNat) = .token 0 0 := by decide +kernel

theorem wit_SamplingOneToken_greatest : fvZero (dec32 { tReq with temp := 0x80000000 }.temp) = true
    ∧ (∃ c ∈ [(0x3F800000, 0), (0xFF800000, 1)], c.1 ≠ 0xFF800000) ∧ ∀ c ∈ [(0x3F800000, 0), (0xFF800000, 1)], ∀ n, dec32 c.1 ≠ .nan n := by
  refine ⟨by decide +kernel, by decide, fun c hc n h => ?_⟩
  rcases List.mem_cons.mp hc with rfl | hc
  · exact nomatch h
  · rcases List.mem_singleton.mp hc with rfl; exact nomatch h

theorem wit_GenerationService_held :
    let m := { tJob fun j => { j with gen := some { outFirst := 32766, outNext := 1, outCount := 2, held := some (zeros 32) } } with
      ctl := { flags := [(32767, { owner := 2, addr := 0x200000 })] } }
    (Instr.outputBucketReady 15).wf = true ∧ (genOf m 15).bind (·.held) = some (zeros 32) ∧ (flagAt m 32767).owner = 2
      ∧ 32767 ∉ m.ctl.bucketFlips ∧ underHost m 0x200000 32 = false ∧ m.mem.damaged = []
      ∧ ∀ x ∈ m.jobs, x.2.secure.protectedPages = [] := by decide +kernel

theorem wit_GenerationService_tincture :
    let t : Tincture := { job := 15, id := 65535, version := 65535, image := zeros 64 }
    let m : Dev := { tFab 0 255 [] with tinctures := [(3, t)] }
    (Instr.tinctureCopyDone 15 65535 65535).wf = true
      ∧ tinctFind m 15 (fun t => decide (t.id = 65535) && decide (t.version = 65535) && decide (t.st = .loading) && decide (t.outcome = none)) = some (3, t)
      ∧ tfind m.tinctures 3 = some t ∧ m.mem.damaged = [] ∧ ∀ x ∈ m.jobs, x.2.secure.protectedPages = [] :=
  ⟨by decide, rfl, rfl, rfl, by decide⟩

/-- A layout of die 7 whose golden copy is in package 28; `p` lists blocks that are poisoned. -/
def tGolden (p : Tab Bool) (l : List (Nat × Nat)) : Dev := { tJob fun j => { j with
    gen := some {}, layTag := 1, layoutCur := some { phase := 0, groupSize := 1, slices := 0, regionBytes := 0x800000, digest := 0, entries := [] } } with
  restores := l
  mem := { poison := p, allocs := [{ first := 14 * 65536, count := 2, part := 0, job := some 15, use := .layoutRegion 1 },
    { first := 15 * 65536, count := 2, part := 0, job := some 15, use := .layoutRegion 1 },
    { first := 1048576 + 28 * 32768, count := 1, part := 0, job := some 15, use := .golden 1 }] } }

theorem wit_GenerationService_restore :
    let a := 14 * 65536 * segBytes
    let k := (1048576 + 28 * 32768) * segBytes
    a < 2 ^ 48 ∧ a % 64 = 0 ∧ goldenAddr (tGolden [] []) 15 a = some k ∧ k % 64 = 0 ∧ (genOf (tGolden [] []) 15).isSome = true
      ∧ memPoisoned (tGolden [(a / 64, true)] []).mem a 64 = true ∧ (15, a) ∉ (tGolden [(a / 64, true)] []).restores
      ∧ (15, a) ∈ (tGolden [(a / 64, true)] [(15, a)]).restores ∧ memPoisoned (tGolden [(a / 64, true)] [(15, a)]).mem k 64 = false
      ∧ memPoisoned (tGolden [(k / 64, true)] [(15, a)]).mem k 64 = true ∧ (tGolden [(a / 64, true)] [(15, a)]).jobs ≠ []
      ∧ (∀ x ∈ (tGolden [] []).jobs, x.2.secure.protectedPages = []) ∧ (tGolden [] []).mem.damaged = []
      ∧ underHost (tGolden [] []) a 64 = false := by decide +kernel

/-- Job 7 learns two slices, of which die 1 holds slice 0 and the dies 0 and 7 hold slice 1. -/
def tLearn (g : Learn) : Dev := tJob fun j => { j with
  learn := g, layoutCur := some { phase := 0, groupSize := 1, slices := 2, regionBytes := 0x200000, digest := 0, entries := [0x1102, 0x1181] } }

theorem wit_SlicesCopiesAndStages_handoff :
    let g : Learn := { running := true, stage := 1, slices := 2, groupSize := 1, handed := [1] }
    let n : Learn := { g with handed := [0], ends := [(15, [0x3F800000])] }
    (Instr.sliceHandoff 15 ⟨7, 0, [2 ^ 32 - 1]⟩ true true).wf = true ∧ trainable g 0 = true ∧ 0 ∉ g.handed ∧ (openSlices g).length = 2
      ∧ sliceGradient (tLearn g) 15 0 1 [2 ^ 32 - 1] g = some [2 ^ 32 - 1] ∧ ({ g with handed := [] } : Learn).handed.length + 1 < 2
      ∧ (ownSlices g).length ≤ ({ g with held := [(0, []), (1, [])] } : Learn).held.length
      ∧ sliceGradient (tLearn g) 15 1 0 [0x3F800000] g = none ∧ twoEnds (tLearn n) 15 1 = true ∧ tfind n.ends (1 * 8 + 7) = some [0x3F800000]
      ∧ sliceGradient (tLearn n) 15 1 0 [0x3F800000] n = some [0x40000000] := by decide +kernel

theorem wit_SlicesCopiesAndStages_delivery :
    let g : Learn := { running := true, stage := 2, slices := 2, groupSize := 1, handed := [0, 1], held := [(0, [])] }
    (Instr.sliceDelivered 15 1 [2 ^ 32 - 1]).wf = true ∧ 1 ∈ ownSlices g ∧ tfind g.held 1 = none ∧ (openSlices g).length ≤ g.handed.length
      ∧ (ownSlices g).length ≤ (tput g.held 1 [2 ^ 32 - 1]).length
      ∧ ({ g with handed := [0] } : Learn).handed.length < (openSlices g).length
      ∧ (Instr.verdictReduceDone 15 7 1 0 0 0).wf = true ∧ g.verdict = none := by decide +kernel

theorem wit_SlicesCopiesAndStages_copies :
    let l : Layout := { phase := 0, groupSize := 1, slices := 0, regionBytes := 0, digest := leNat (shake256 8 []), entries := [], copying := true }
    let m := tJob fun j => { j with layouts := [(3, l)] }
    let w : Wait := { why := .imageCopy 15 (3 + 16 * 3), reply := {
      mb := 31, status := 0, body := [], slot := some 15, due := 1, kind := 1, accept := 0, done := 1, stretch := false, jobId := 7 } }
    (Instr.imageCopyDone 15 3 3).wf = true ∧ ({ waits := [w] } : Ctl).waits = [w] ∧ m.mem.damaged = []
      ∧ (∀ x ∈ m.jobs, x.2.secure.protectedPages = []) ∧ (jobAt m 15).bind (fun j => tfind j.layouts 3) = some l ∧ layoutDigestOk l = true
      ∧ layoutDigestOk { l with digest := 0 } = false := by decide +kernel

theorem wit_SlicesCopiesAndStages_stages :
    let u : Turn := { stage := 3, source := 1, stageLimit := 4, stageStrokes := 4 }
    let m := tJob fun j => { j with phase := .turning, turn := u, isOrigin := true }
    (jobAt m 15).map (·.phase) = some .turning ∧ u.posted = false ∧ collInFlight m 15 0 = false ∧ ({ u with mine := 8 } : Turn).mine ≠ 0
      ∧ engineBusy m 15 .run = false ∧ ({ u with stage := 4 } : Turn).awaited = [] ∧ ({ u with stage := 2 } : Turn).openAt = false
      ∧ u.next = none ∧ u.stageLimit ≤ u.stageStrokes ∧ (jobAt m 15).map (·.members) = some 1
      ∧ (Instr.stageRecordDone 15 [1, 1, 0, 0, 0, 0, 0, 1]).wf = true ∧ nth 0 [1, 1, 0, 0, 0, 0, 0, 1] (8 - 1) ≠ 0
      ∧ (∀ k < 8, 3 ≤ k → nth 0 [1, 1, 0, 0, 0, 0, 0, 1] (k - 1) = 0) ∧ (Instr.stageRecordDone 15 [1, 0]).wf = true := by decide +kernel

/-! ### Witnesses: securing -/

/-- Job 7 secures to position 5 and holds for position 6, both over link 31. -/
def tSec : SecureReq := {
  interval := 1, slots := 2, aqEvery := 1, threshold := 0, partner := 5, heldFor := 6, group := 0, storeEvery := 0, partnerLinks := 2 ^ 31
  heldLinks := 2 ^ 31, reserve := 0x100000, holdBytes := 0x200000, aqFirst := 0, storeGbps := 0, flags := 1, storeAddr := 0, storeRkey := 0
  storeQp := 0, storeStride := 0 }

def tSecure (f : Secure → Secure) : Dev := tJob fun j => { j with isOrigin := true, phase := .learn, secure := f { cfg := some tSec } }

theorem wit_SecuringPackets_begin :
    let m := tSecure id
    holdSlotOf tSec 3 = 1 ∧ forwarding m = true ∧ ((bitsOf 32 tSec.heldLinks).filter (fun l => linkUp (linkAt m l))).head? = some 31
      ∧ (linkAt m 31).takes 6 104 = true ∧ (jobAt m 15).bind (·.secure.cfg) = some tSec ∧ (∃ l < 32, bitOf tSec.heldLinks l = true ∧ linkUp (linkAt m l) = true)
      ∧ (Instr.secureRequest 15 65535 255).wf = true ∧ (jobAt m 15).map (·.isOrigin) = some true ∧ (jobAt m 15).map (·.phase) = some .learn
      ∧ (Instr.secureBegin 15 6 3 64).wf = true ∧ holdsFor tSec = true ∧ slotRead { deep := some (1, 0, 5) } tSec 1 = true
      ∧ slotRead {} tSec 1 = false := by decide +kernel

theorem wit_SecuringPackets_ready :
    let x : Secure := { cfg := some tSec, holds := [(1, { st := .receiving, gen := 3, readyOwed := true })] }
    (holdAt x 1).readyOwed = true ∧ (holdAt x 1).gen = 3 ∧ slotRead x tSec 1 = false
      ∧ ({ x with opened := true, begun := 3, copy := 2 } : Secure).copy = 2 := by decide +kernel

theorem wit_SecuringPackets_end :
    let x : Secure := { cfg := some tSec, holds := [(1, { st := .receiving, gen := 3, bytes := 64, got := [(31, 64)] })] }
    (Instr.secureEnd 15 6 3 31 64).wf = true ∧ (holdAt x 1).st = .receiving ∧ (holdAt x 1).gen = 3 ∧ tput (holdAt x 1).ends 31 64 = [(31, 64)]
      ∧ (∀ p ∈ (holdAt x 1).got, tfind [(31, 64)] p.1 = some p.2) ∧ (∀ p ∈ [(31, 64)], tget 0 (holdAt x 1).got p.1 = p.2)
      ∧ ((holdAt x 1).got.map (·.2)).sum = (holdAt x 1).bytes ∧ ((holdAt { holds := [(1, { bytes := 64 })] } 1).got.map (·.2)).sum ≠ 64 := by
  decide +kernel

theorem wit_SecuringPackets_records :
    (Instr.secureRecordDone 15 [1, 0]).wf = true ∧ (Instr.secureRecordDone 15 [1, 1, 0, 0, 0, 0, 1]).wf = true
      ∧ nth 0 [1, 1, 0, 0, 0, 0, 1] (5 + 1) ≠ 0 ∧ (∀ n < 5, 1 ≤ n → nth 0 [1, 1, 0, 0, 0, 0, 1] (n + 1) = 0)
      ∧ ({ cfg := some tSec, opened := true } : Secure).next = none := by decide

theorem wit_ProtectedPagesAndDeepLayers_write :
    let m := tSecure fun x => { x with protectedPages := [3], reserveCap := [(0, 1)] }
    (Instr.protectedWrite 0 (3 * 65536 + 65535) [1]).wf = true ∧ (3 * 65536 + 65535) / 65536 = 3 ∧ pageJob m 3 = some 15 ∧ pageDie 3 = 0
      ∧ 0 < tget 0 ((jobAt m 15).map (·.secure.reserveCap)).toList.flatten 0 := by decide +kernel

theorem wit_ProtectedPagesAndDeepLayers_copied :
    let m := tSecure fun x => { x with protectedPages := [3], copying := [3], heldWrites := [(3, 3 * 65536 + 65535, [1])] }
    (Instr.reserveCopyDone 0 3).wf = true ∧ pageJob m 3 = some 15 ∧ (jobAt m 15).map (·.secure.copying) = some [3] ∧ m.mem.damaged = [] := by decide +kernel

theorem wit_ProtectedPagesAndDeepLayers_sent :
    let x : Secure := { cfg := some tSec, copy := 2, protectedPages := [3], reserved := [(4, [])] }
    let m := tSecure fun _ => x
    3 ∉ x.copying ∧ memPoisoned m.mem (3 * 65536) 65536 = false ∧ x.failCause = 0
      ∧ x.protectedPages.filter (fun p => decide (p ≠ 3)) = [] ∧ tdel ({ x with reserved := [(3, [])] } : Secure).reserved 3 = []
      ∧ tSec.partnerLinks = 2 ^ 31 ∧ linkUp (linkAt m 31) = true ∧ (linkAt m 31).takes 6 104 = true ∧ m.mem.damaged = []
      ∧ ({ x with delivered := [(31, 0)] } : Secure).delivered = [(31, x.image.length)]
      ∧ ({ x with protectedPages := [], reserved := [] } : Secure).protectedPages = []
      ∧ ({ x with protectedPages := [2, 3] } : Secure).protectedPages.filter (fun p => decide (p ≠ 3)) ≠ []
      ∧ (tfind x.reserved 4).isSome = true := by decide +kernel

theorem wit_ProtectedPagesAndDeepLayers_deep :
    let m := { tSecure (fun x => { x with deep := some (1, 1, 3), holds := [(1, { st := .complete, gen := 3, bytes := 0x200000 })] }) with
      mem := { allocs := [{ first := 1048576, count := 1, part := 0, job := some 15, use := .holdSlot 1 }] } }
    holdPieces m 15 (holdSlotOf tSec 3) = [(1048576 * 0x200000, 0x200000)] ∧ aqExtents tSec = 1 ∧ tSec.storeEvery = 0 ∧ m.mem.aq.st = 0
      ∧ quotaAdmits { m with mem := { m.mem with quota := [(2, 1)] } } 0 (some 15) 3
          (emptyExtents m.mem 0 (tSec.aqFirst + 5 % 2 * aqExtents tSec) (aqExtents tSec)) = true
      ∧ (jobAt m 15).bind (·.secure.deep) = some (1, 1, 3) ∧ (jobAt m 15).map (fun j => (holdAt j.secure 1).bytes) = some 0x200000 := by
  decide +kernel

/-! ### Witnesses: recovery -/

/-- A public key under which every message has a signature: the neutral point, whose signature is the neutral point and zero. -/
def tKey : List Byte := 1 :: zeros 56
def tSig : List Byte := 1 :: zeros 113

/-- Succession 4, 3, 2; members 1 to 4; spare 9 covers positions 0 to 7. -/
def tPlan : Plan := {
  succ := [(4, 50, tKey), (3, 51, tKey), (2, 52, tKey)], spares := [(9, 0, 8)], ackLimit := 8, attempts := 1, distGroup := 5
  sets := [4, 3, 2, 1].map (fun p => { subject := p, spare := 0, kind := 0, routes := [], trees := [], groups := [] }), digest := 77 }

/-- Job 7 at position `self` with that plan; every route leads to link 31. -/
def tRec (self : Nat) (f : Recov → Recov) : Dev := { tFab 0 255 [] with
  jobs := [(15, { id := 7, part := 0, self := self, recov := f { plan := some tPlan } })]
  net := { links := [(30, { st := .off, peerValid := true, peerPos := 3 }), (31, { st := .wide })], position := some self
           routes := [(1, 63), (2, 63), (3, 63), (4, 63)] } }

def tRecJob (self : Nat) (f : Recov → Recov) : Job := { id := 7, part := 0, self := self, recov := f { plan := some tPlan } }

theorem wit_ReportsAndDeclarations_reports :
    let j := tRecJob 3 id
    let k := tRecJob 4 id
    jobAt (tRec 3 id) 15 = some j ∧ (tRec 3 id).colls = [] ∧ (∀ p ∈ (tRec 3 id).jobs, p.2.secure.cfg = none)
      ∧ forwarding (tRec 3 id) = true ∧ (Instr.reportReceive 15 2 7 4).wf = true ∧ knownSource j 2 = true ∧ coordOf j = some 4 ∧ nextCoord j = some j.self
      ∧ (1 : Nat) ∉ [2, 3, 4, 5, 6, 7] ∧ 5 ∉ otherMembers k ∧ coordOf k ≠ some 3 ∧ 3 ∈ otherMembers k ∧ isCoord k = true
      ∧ 3 ∉ unfilled k.recov ∧ k.phase ≠ .recovering ∧ knownSource k 9 = true := by decide +kernel

theorem wit_ReportsAndDeclarations_limits :
    let k := tRecJob 4 fun r => { r with stage := 1, expected := [3, 2, 1] }
    let j := tRecJob 1 fun r => { r with addressed := some 3 }
    isCoord k = true ∧ k.recov.stage = 1 ∧ 3 ∈ k.recov.expected ∧ (∀ a ∈ k.recov.acks, a.src ≠ 3) ∧ 3 ∉ unfilled k.recov
      ∧ (tRecJob 3 fun r => { r with claim := true }).recov.claim = true ∧ 4 ∉ unfilled (tRecJob 3 id).recov
      ∧ coordOf j = some 4 ∧ 3 ∉ j.recov.passed ∧ (let y := { j with recov := { j.recov with passed := [3], addressed := some 2 } }
        coordOf y = some 4 ∧ nextCoord y = some 2) ∧ 2 ≠ j.self ∧ routeLink (tRec 1 id) 2 = some 31
      ∧ (linkAt (tRec 1 id) 31).takes 6 104 = true ∧ forwarding (tRec 1 id) = true := by decide +kernel

theorem wit_ReportsAndDeclarations_links :
    let j := tRecJob 2 id
    (tRec 2 id).jobs = [(15, j)] ∧ linkUp (linkAt (tRec 2 id) 30) = false ∧ (linkAt (tRec 2 id) 30).peerValid = true
      ∧ (linkAt (tRec 2 id) 30).peerPos ∈ otherMembers j ∧ (linkAt (tRec 2 id) 30).peerPos ∉ unfilled j.recov ∧ coordOf j = some 4
      ∧ 4 ≠ j.self ∧ routeLink (tRec 2 id) 4 = some 31 ∧ (linkAt (tRec 2 id) 31).takes 6 104 = true ∧ forwarding (tRec 2 id) = true
      ∧ (Instr.noticeReceive 15 4 1 4 [3]).wf = true ∧ knownSource j 4 = true ∧ 4 ∈ succPositions j.recov ∧ 3 ≠ j.self ∧ isCoord j = false
      ∧ j.recov.noticed = none ∧ j.recov.attempt ≤ 1 := by decide +kernel

theorem wit_RecoveryRunsItsCourse_stages :
    let r : Recov := { plan := some tPlan, attempt := 1, expected := [3], chosen := [(3, 9)] }
    let j := tRecJob 4 fun _ => r
    isCoord j = true ∧ knownSource j 3 = true ∧ (Instr.ackReceive 15 3 r.attempt 65535 [1, 2] [3] [4, 5] [6]).wf = true ∧ 3 ∈ r.expected
      ∧ (∃ c ∈ r.chosen, c.1 = 3) ∧ 3 ∉ r.spareUps ∧ 3 ∉ r.configured ∧ 3 ∉ r.restored ∧ (∀ c ∈ r.chosen, c.1 = 3 ∨ c.1 ∈ r.spareUps)
      ∧ (∃ c ∈ ({ r with chosen := [(3, 9), (2, 10)] } : Recov).chosen, c.1 ≠ 3 ∧ c.1 ∉ r.configured) ∧ tPlan.attempts ≤ r.attempt
      ∧ ({ tRec 4 id with jobs := [(15, { j with recov := { r with stage := 4 } })] } : Dev).sys.st = .active
      ∧ (3 : Nat) ∉ ({ r with stage := 4 } : Recov).restored := by decide

theorem wit_RecoveryRunsItsCourse_fetch :
    let c := { tSec with heldFor := 2 }
    let j := { tRecJob 4 id with secure := { cfg := some c, holds := [(1, { st := .complete, gen := 3 })] } }
    (Instr.fetchReceive 15 2 1 1 3).wf = true ∧ (Instr.fetchReceive 15 2 0 0 3).wf = true ∧ holdsFor c = true ∧ c.heldFor = 2
      ∧ knownSource j 2 = true ∧ (holdAt j.secure 1).st = .complete ∧ (holdAt j.secure 1).gen = 3
      ∧ (layoutOf { j with layoutCur := some { phase := 0, groupSize := 1, slices := 0, regionBytes := 0, digest := 0, entries := [] } }).isSome = true := by
  decide +kernel

theorem wit_RecoveryRunsItsCourse_image :
    let m := tRec 4 id
    routeLink m 2 = some 31 ∧ (zeros 4095).length < 4096 ∧ (linkAt m 31).takes 7 (40 + upTo64 ((zeros 4095).length + 1)) = true
      ∧ m.mem.damaged = [] ∧ forwarding m = true := by decide +kernel

/-- Coordinator 4 gives position 7 of job 7 to spare 9. -/
def tTakeover : List Byte := zeros 4 ++ leBytes 4 7 ++ zeros 6 ++ leBytes 2 7 ++ leBytes 2 4 ++ zeros 22 ++ leBytes 8 77 ++ leBytes 2 9
  ++ zeros 78 ++ tSig

theorem wit_RecoveryRunsItsCourse_takeover :
    let a : SpareArm := { jobId := 7, part := 0, plan := tPlan }
    let m : Dev := { tDev with sys := { st := .active, spare := some a }, net := { position := some 9 } }
    m.sys.spare = some a ∧ a.jobId = recField tTakeover 4 4 ∧ m.net.position = some (recField tTakeover 48 2) ∧ freeSlot m = some 0
      ∧ a.plan.succ.find? (fun x => decide (x.1 = recField tTakeover 16 2)) = some (4, 50, tKey) ∧ a.plan.digest = recField tTakeover 40 8
      ∧ (∃ x ∈ a.plan.spares, x.1 = recField tTakeover 48 2 ∧ x.2.1 ≤ recField tTakeover 14 2 ∧ recField tTakeover 14 2 < x.2.1 + x.2.2)
      ∧ edVerify tKey (tTakeover.take 128) (recBytes tTakeover 128 114) = true ∧ tDev.sys.spare = none ∧ forwarding m = true ∧ tTakeover.length ≤ 2097152 := by
  decide +kernel

/-! ### Witnesses: power and sensors -/

def tPower (f : Power → Power) : Dev := { tDev with power := f {} }

theorem wit_CapIntervals :
    (Instr.capControlTick (List.replicate 32 65535) 65535).wf = true ∧ tDev.sys.st ≠ .off ∧ tDev.jobs = [] ∧ (∀ p < 8, (partAt tDev p).share = 0)
      ∧ anyPriming tDev = false ∧ tDev.power.freqMode = 0 ∧ 8 * capWatts tDev = 48000 ∧ 48000 < 65535 ∧ 100 * 47039 < 98 * 48000
      ∧ 10 ≤ tDev.power.sinceRaise ∧ tDev.power.brake = false ∧ tDev.power.brakeHold = false ∧ 98 * 48000 ≤ 100 * 47040
      ∧ (let m := tPower fun w => { w with freqMode := 1 }
         m.power.freqMode = 1 ∧ 10 * m.power.input.power < 9 * (8 * capWatts m) ∧ ∀ d < 8, (pdieAt m d).temp + 10 ≤ (pdieAt m d).thr) := by
  decide +kernel

theorem wit_PrimingBrakeAndDroop :
    let m := tPower fun w => { w with dies := [(7, { priming := true, level := 1, cause := 1 })] }
    (∀ c ∈ [2], (pdieAt tDev 7).st = 0 ∧ tDev.power.deep = 0 ∧ (pdieAt tDev 7).priming = false ∧ bitOf tDev.power.primeEn (c - 1) = true
        ∧ primeHolds tDev 7 c = true)
      ∧ (pdieAt m 7).priming = true ∧ primeHolds m 7 (pdieAt m 7).cause = false ∧ (pdieAt m 7).level ≤ 1 ∧ tDev.power.brake = false
      ∧ (tPower fun w => { w with brake := true }).power.brake = true := by decide +kernel

theorem wit_SensorsAndAlarms :
    let m := tPower fun w => { w with dies := [(7, { thermDuty := 63, throttling := true })] }
    let h : Dev := { tDev with mem := { hbm := [(15, { level := 1, temp := 86 })] } }
    (pdieAt m 7).thr ≤ 100 ∧ 96 + 4 ≤ (pdieAt m 7).thr ∧ (pdieAt m 7).thermDuty < 64 ∧ 97 < (pdieAt m 7).thr ∧ (pdieAt m 7).thr ≤ 97 + 3
      ∧ 0 < (stackAt h 15).level ∧ (stackAt h 15).temp + (stackAt h 15).hyst < (stackAt h 15).thrStart
      ∧ wfCoolantSensorTick 65535 60 true = true ∧ wfRegulatorAlarm 31 4 (2 ^ 64 - 1) true = true ∧ tDev.jobs = []
      ∧ tDev.sys.riskMs < 999 ∧ tDev.sys.hourMs < 3599999 := by decide +kernel

/-! ### Witnesses: power states, pins, starts and images -/

def tReply (mb : Nat) : Reply := {
  mb := mb, status := 0, body := [], slot := none, due := 1, kind := 1, accept := 0, done := 1, stretch := false, jobId := 0 }

theorem wit_PowerStates_reached :
    let m : Dev := { tPower (fun w => { w with target := [(2, 255)] }) with ctl := { waits := [{ why := .powerState, reply := tReply 31 }] } }
    m.power.target = [(2, 255)] ∧ m.power.restarting = false ∧ m.ctl.waits = [{ why := .powerState, reply := tReply 31 }] ∧ m.power.deep = 0
      ∧ powerState m < 3 ∧ targetErr m 2 255 = none
      ∧ (targetErr { m with ves := [(7 * 128 + 127, { teams := [(31, { job := 15, pc := 0 })] })] } 2 255).isSome = true
      ∧ (let n : Dev := { m with sys := { m.sys with st := .ready } }
         targetErr n 5 255 = none ∧ targetErr n 3 255 = none ∧ n.power.deep ≠ 4 ∧ n.posted = []) := by decide +kernel

theorem wit_PowerStates_wakes :
    let m := tPower fun w => { w with dies := [(7, { st := 2 })] }
    let p := tPower fun w => { w with deep := 3, dies := [0, 1, 2, 3, 4, 5, 6, 7].map (fun d => (d, { st := 3 })) }
    m.power.deep = 0 ∧ (pdieAt m 7).st = 2 ∧ powerState m < 3 ∧ p.power.deep = 3 ∧ ∀ d < 8, (pdieAt p d).st = 3 := by decide +kernel

theorem wit_PowerStates_restart :
    (tPower fun w => { w with restarting := true }).power.restarting = true ∧ wfP5WakeRestart 7 = true ∧ wfP5WakeRestart 0 = true
      ∧ flashReason {} = 0 ∧ flashBadSegment {} = none := by
  refine ⟨rfl, by decide, by decide, ?_, rfl⟩
  simp [flashReason, bitOf]

theorem wit_PinsAndFailure :
    let m : Dev := { tDev with ctl := { replies := [tReply 255] } }
    m.sys.st ≠ .off ∧ m.sys.st ≠ .minimal ∧ m.sys.st ≠ .failed ∧ takenIn m 255 = true ∧ takenIn m 254 = false ∧ wfUncontainedFault 0 = true
      ∧ wfCriticalTemp 58 105 = true ∧ criticalAt 58 ≤ 105 ∧ 104 < criticalAt 58 ∧ ({ sys := { st := .off } } : Dev).sys.resetLow = false
      ∧ ({ sys := { st := .off, inputOk := false } } : Dev).sys.inputOk = false ∧ startRuns { sys := { startStep := 1 } } = true ∧ committing tDev = false
      ∧ committing { sys := { st := .off } } = false ∧ ({ power := { brakePin := true } } : Dev).power.brakePin = true
      ∧ wfSmbFruRead 0 1 = true ∧ m.sys.aux = true := by decide +kernel

/-- A flash whose header names one segment of no bytes; everything else reads erased. -/
def tFlash : NonVol := { shipped := false, flash := (24, 1) :: (List.range 8).map (fun i => (256 + i, 0)) }

theorem wit_StartsAndTheirFailures_steps :
    let m : Nat → Dev := fun n => { sys := { startStep := n }, mem := { retirePending := [3] } }
    (∀ n < 7, (m n).sys.st = .boot ∧ (m n).sys.startWait = false ∧ (m n).sys.startStep = n) ∧ flashBadSegment {} = none
      ∧ flashReason { shipped := false } = 1 ∧ flashBadSegment tFlash = some 0 ∧ 384 * 256 - 1 < 384 * 256
      ∧ (linkAt (m 0) 31).enabled = true ∧ (linkAt (m 0) 31).st = .off ∧ (∃ x ∈ (m 3).mem.retirePending, x ∉ (m 3).mem.retired)
      ∧ (let x : RepairRow := { kind := 1, unit := 15, bank := 0, row := 0 }
         let n : Dev := { sys := { startStep := 3 }, mem := { rowRecord := [x], hbm := [(15, { spares := 0 })] } }
         n.mem.rowRecord = [x] ∧ x.soft = false ∧ bankSpares n.mem x = 0) := by decide +kernel

theorem wit_StartsAndTheirFailures_ends :
    let m : Dev := { sys := { startStep := 7, startWait := true } }
    startRuns { sys := { startStep := 6 } } = true ∧ (Instr.startFailed 0x12 65535).wf = true ∧ m.sys.st = .boot ∧ m.sys.startWait = true ∧ committing m = false
      ∧ failedStarts { records := [{ seq := 1, reason := 1, detail := 0 }] } m < 3
      ∧ 3 ≤ failedStarts { records := (List.range 3).map (fun n => { seq := n, reason := 0x20, detail := 0 }) } m
      ∧ ({ sys := { st := .minimal } } : Dev).sys.st = .minimal := by decide +kernel

/-- The table of an image whose one segment has no bytes, and the image's first 1,280 bytes, signed under `tKey`; their digests are
SHAKE256 of no bytes and of that table. -/
def tTable : List Byte := leBytes 4 1280 ++ zeros 28 ++ leBytes 32 21468664885170662639985957090336418708702569955620632736621138429888230701382 ++ zeros 960
def tHead : List Byte := leBytes 4 0x494D0001 ++ leBytes 2 1 ++ [0xB0, 0] ++ zeros 8 ++ leBytes 8 1536 ++ [1, 0, 0] ++ zeros 5
  ++ leBytes 32 65476046457534000674848811644995239550755281834914648769541346489489511598171 ++ zeros 64 ++ tSig ++ zeros 14 ++ tTable

theorem tHead_reason (nv : NonVol) (h : Config.fwKey 0 = tKey) (hr : nv.revoked = 0) (hm : nv.minSvn = 0) : headReason nv tHead = 0 := by
  have hs : headSigned tHead = true := by
    unfold headSigned
    rw [show recField tHead 7 1 = 0 by decide +kernel, h]
    decide +kernel
  unfold headReason
  rw [hs, hr, hm]
  decide +kernel

/-- IMAGE_BEGIN with a header that passes its checks is accepted by a module in ACTIVE. -/
theorem imageBegin_accepted (nv : NonVol) (head : List Byte) (hr : headReason nv head = 0) :
    acceptErr (specImageBegin nv 31 1 head) tDev = none := by
  unfold acceptErr
  simp only [secErr, parErr, staErr, specImageBegin, hr]
  rfl

/-- A module in ACTIVE whose session has `x` and that has accepted `i` in local stroke 0. -/
def tWaits (i : Instr) (x : Option Session) : Dev :=
  { tDev with sys := { st := .active, session := x }, ctl := { accepted := [{ cmd := i, mb := 31, slot := none, stroke := 0 }] } }

/-- It, as the stroke has ended and the command is taken from the queue. -/
def tTaken (i : Instr) (x : Option Session) : Dev :=
  updCtl (localEnds (tWaits i x)) (fun t => { t with accepted := t.accepted.erase { cmd := i, mb := 31, slot := none, stroke := 0 } })

/-- IMAGE_BEGIN with a header that passes its checks passes them again at the boundary. -/
theorem imageBegin_rechecked (nv : NonVol) (head : List Byte) (m : Dev) (hr : headReason nv head = 0) (hs : m.sys.st = .active)
    (hn : m.sys.session = none) (hp : powerAllows m 0x0A01 31 = true) : recheckErr (specImageBegin nv 31 1 head) m = none := by
  unfold recheckErr
  simp only [secErr, parErr, staErr, specImageBegin, hr, hs, hn, hp]
  rfl

/-- The public keys have no value in the model; under this one the image is good. -/
theorem wit_ImageService_begin (h : Config.fwKey 0 = tKey) :
    (Instr.imageBegin 31 1 tHead).wf = true ∧ unreached tDev 0x0A01 31 = false ∧ headReason {} tHead = 0
      ∧ acceptErr (specImageBegin {} 31 1 tHead) tDev = none
      ∧ recheckErr (specImageBegin {} 31 1 tHead) (tTaken (.imageBegin 31 1 tHead) none) = none
      ∧ (recField tHead 16 8 + 65535) / 65536 * 65536 = 65536 := by
  have hr := tHead_reason {} h rfl rfl
  exact ⟨by decide +kernel, by decide +kernel, hr, imageBegin_accepted _ _ hr, imageBegin_rechecked _ _ _ hr (by decide +kernel) (by decide +kernel) (by decide +kernel),
    by decide +kernel⟩

theorem wit_ImageService_session :
    let x : Session := { head := tHead, length := 1536 }
    let i := Instr.imageWrite 31 1280 (List.replicate 256 0xFF)
    let m : Dev := { tDev with sys := { st := .active, session := some x } }
    i.wf = true ∧ acceptErr (specImageWrite 31 1280 (List.replicate 256 0xFF)) m = none ∧ acceptErr (specImageCommit 31) m = none
      ∧ unreached m 0x0A02 31 = false ∧ unreached m 0x0A03 31 = false := by decide +kernel

theorem wit_ImageService_boundary :
    let x : Session := { head := tHead, length := 1536 }
    (∀ i ∈ [Instr.imageBegin 31 1 tHead, .imageWrite 31 1280 (List.replicate 256 0xFF), .imageCommit 31],
      acceptedOf (localEnds (tWaits i (some x))) none = [{ cmd := i, mb := 31, slot := none, stroke := 0 }]
        ∧ (tWaits i (some x)).sys.st ∈ [ModuleState.minimal, .ready, .active, .quiesced]
        ∧ (tTaken i (some x)).ctl.waiting = [] ∧ (tTaken i (some x)).sys.deferredReset = none ∧ (tTaken i (some x)).sys.session = some x)
      ∧ recheckErr (specImageWrite 31 1280 (List.replicate 256 0xFF)) (tTaken (.imageWrite 31 1280 (List.replicate 256 0xFF)) (some x)) = none
      ∧ recheckErr (specImageCommit 31) (tTaken (.imageCommit 31) (some x)) = none := by decide +kernel

theorem wit_ImageService_operations :
    let x : Session := { head := tHead, length := 1536, ops := [.readBack] }
    badSegment { shipped := false } x.head = none ∧ x.head.length = 1280 ∧ badSegment { shipped := false } (x.head.take 288 ++ zeros 992) ≠ none
      ∧ ({ x with ops := [.program] } : Session).ops = [.program]
      ∧ ({ tDev with ctl := { waits := [{ why := .flash, reply := tReply 31 }] } } : Dev).ctl.waits = [{ why := .flash, reply := tReply 31 }] := by
  decide +kernel

theorem wit_ResetAndAttestation :
    let m : Dev := { tDev with
      sys := { st := .active, signing := [([], some 31, 0), ([], none, 9)] }
      net := { links := [(31, { st := .wide })], routes := [(9, 63)] } }
    (Instr.moduleReset 31 0).wf = true ∧ acceptErr (specModuleReset 31 0) tDev = none ∧ committing tDev = false ∧ noStrokes tDev = false
      ∧ unreached tDev 0x0104 31 = false
      ∧ (let b : Dev := { tDev with sys := { st := .failed } }
         unreached b 0x0104 7 = false ∧ acceptErr (specModuleReset 7 0) b = none ∧ noStrokes b = true ∧ committing b = false)
      ∧ acceptedOf (localEnds (tWaits (.moduleReset 31 0) none)) none = [{ cmd := .moduleReset 31 0, mb := 31, slot := none, stroke := 0 }]
      ∧ recheckErr (specModuleReset 31 0) (tTaken (.moduleReset 31 0) none) = none ∧ committing (tTaken (.moduleReset 31 0) none) = false
      ∧ (Instr.attest 31 (zeros 32) 0).wf = true ∧ unreached tDev 0x0A10 31 = false ∧ acceptErr (specAttest {} 31 (zeros 32) 0) tDev = none
      ∧ unreached tDev 0x0B90 31 = false ∧ acceptErr (specBootStatus {} 31) tDev = none
      ∧ m.sys.signing = ([], some 31, 0) :: [([], none, 9)] ∧ routeLink m 9 = some 31 ∧ (linkAt m 31).takes 6 296 = true := by decide +kernel

/-! ### Witnesses: strokes, requests, registers and records -/

/-- Member 4 of job 7, whose tree has its parent on link `up` and one child on link 30. -/
def tTree (up flags : Nat) : TreeEntry := { tree := 50, up := up, flags := flags, depth := 1, down := 2 ^ 30, jobId := 7 }

def tStroke (up flags : Nat) (votes : Tab (Nat × Bool × Nat × Nat)) (f : Job → Job) : Dev := { tDev with
  jobs := [(15, f { id := 7, part := 0, self := 4, tree := some 50, started := true, stroke := 65536 + 9 })]
  net := { links := [(30, { st := .wide }), (31, { st := .wide })], trees := [tTree up flags], votes := votes } }

/-- What the default and every listed link have, every link has. -/
theorem tLinks (m : Dev) (p : Link → Prop) (d : p {}) (h : ∀ x ∈ m.net.links, p x.2) (l : Nat) : p (linkAt m l) := by
  unfold linkAt tget
  revert h
  induction m.net.links with
  | nil => exact fun _ => d
  | cons x t ih =>
    intro h
    unfold tfind
    split
    · exact h x (List.mem_cons_self ..)
    · exact ih fun y hy => h y (List.mem_cons_of_mem _ hy)

/-- Every link of these states that is up takes a flit at once, and nothing waits in its buffers. -/
theorem wit_takesFlit (up flags : Nat) (votes : Tab (Nat × Bool × Nat × Nat)) (f : Job → Job) (l v : Nat) :
    (linkUp (linkAt (tStroke up flags votes f) l) = true → (linkAt (tStroke up flags votes f) l).takesFlit = true)
      ∧ nth 0 (linkAt (tStroke up flags votes f) l).rx v = 0 := by
  have z : ∀ n : Nat, nth 0 (List.replicate n 0) v = 0 := fun n => by
    unfold nth; simp [List.getD_eq_getElem?_getD, List.getElem?_replicate]; split <;> rfl
  refine tLinks _ (fun k => (linkUp k = true → k.takesFlit = true) ∧ nth 0 k.rx v = 0) ⟨by decide, z 8⟩ (fun x hx => ?_) l
  rcases List.mem_cons.mp hx with rfl | hx
  · exact ⟨fun _ => by decide, z 8⟩
  · rcases List.mem_singleton.mp hx with rfl; exact ⟨fun _ => by decide, z 8⟩

theorem wit_VotesAndStretches_member :
    let m := tStroke 31 1 [(50 * 32 + 30, (9, true, 6, 1))] id
    let e := tTree 31 1
    forwarding m = true ∧ m.jobs.map (·.1) = [15] ∧ treeOf m e.tree = some e ∧ isMember e = true ∧ m.jobs.map (·.2.tree) = [some e.tree]
      ∧ m.jobs.map (fun p => (p.2.started, p.2.isOrigin, p.2.voted, p.2.voteSent)) = [(true, false, false, false)]
      ∧ childVotes m e 9 = some (true, 6, 1) ∧ childVotes (tStroke 31 1 [] id) e 9 = none
      ∧ (∀ w, tfind ([] : Tab (Nat × Bool × Nat × Nat)) (50 * 32 + 30) = some w → w.1 ≠ 9)
      ∧ ¬(∀ w, tfind m.net.votes (50 * 32 + 30) = some w → w.1 ≠ 9)
      ∧ (Instr.voteFlit 30 50 9 true 6 1).wf = true ∧ linkUp (linkAt m 30) = true ∧ bitOf e.down 30 = true := by decide +kernel

/-- Position 4 coordinates job 7, whose members vote on link 30; a child has voted for stroke `n`. -/
def tCoord (n : Nat) (f : Job → Job) : Dev := { tStroke 255 1 [(50 * 32 + 30, (n, true, 3, 1))] (fun j => f { j with recov := { plan := some tPlan } }) with
  net := { links := [(30, { st := .wide, peerPos := 3 }), (31, { st := .wide })], trees := [tTree 255 1], routes := [(4, 63)], position := some 4
           votes := [(50 * 32 + 30, (n, true, 3, 1))] } }

theorem wit_VotesAndStretches_late :
    let m := tCoord 8 fun j => { j with self := 2, voted := true }
    (∀ w, tfind m.net.votes (50 * 32 + 30) = some w → w.1 ≠ 9)
      ∧ m.jobs.map (fun p => (coordOf p.2, p.2.voted, tget 0 p.2.missed 30)) = [(some 4, true, 0)]
      ∧ routeLink m 4 = some 31 ∧ childVotes m (tTree 255 1) 9 = none
      ∧ childVotes { m with net := { m.net with votes := [(50 * 32 + 30, (9, true, 3, 1))] } } (tTree 255 1) 9 = some (true, 3, 1) := by
  refine ⟨fun w h => ?_, by decide +kernel, by decide +kernel, by decide +kernel, by decide +kernel⟩
  injection h with h; subst h; decide

theorem wit_VotesAndStretches_stretch :
    isMember (tTree 31 0) = false ∧ (Instr.stretchFlit 31 50 255 (65536 + 9)).wf = true
      ∧ (let m := tStroke 255 1 [] fun j => { j with isOrigin := true, combined := some (true, 6, 1), stretches := 7 }
         m.jobs.map (fun p => (p.2.isOrigin, p.2.recov.noticeSent, p.2.combined)) = [(true, false, some (true, 6, 1))]
           ∧ (∀ p ∈ m.jobs, p.2.stretches < p.2.stretchLimit ∧ isCoord p.2 = false) ∧ (Instr.originPeriodEnd 15 []).wf = true)
      ∧ (let m := tCoord 9 fun j => { j with isOrigin := true, combined := some (true, 3, 1), stretches := 7, stretchLimit := 7 }
         ∀ p ∈ m.jobs, p.2.stretchLimit ≤ p.2.stretches ∧ isCoord p.2 = true ∧ namedVoters m p.2 = [3] ∧ 3 ∉ unfilled p.2.recov
           ∧ p.2.phase ≠ .recovering ∧ p.2.tree = some 50) := by decide +kernel

/-- Nothing but the boundary itself is due. -/
abbrev tQuiet (m : Dev) (j : Job) : Prop :=
  j.turn.next = none ∧ j.recov.next = none ∧ j.recov.mismatch = 0 ∧ j.recov.noticeSent = false ∧ j.recov.skip = false
    ∧ j.recov.spreading = false ∧ j.secure.next = none ∧ j.jobWide = none ∧ m.ctl.accepted = [] ∧ m.ctl.waiting = []
    ∧ m.ctl.bucketFlips = [] ∧ m.tinctures = [] ∧ m.pools = [] ∧ m.posts = [] ∧ ∀ l v, nth 0 (linkAt m l).rx v = 0

theorem wit_BoundariesOpenStrokes_origin :
    let f : Job → Job := fun j => { j with isOrigin := true, combined := some (false, 65535, 0), joined := 1, minMargin := 5 }
    let j : Job := f { id := 7, part := 0, self := 4, tree := some 50, started := true, stroke := 65536 + 9 }
    let m := tStroke 255 1 [] f
    forwarding m = true ∧ m.jobs = [(15, j)] ∧ treeOf m 50 = some (tTree 255 1) ∧ tQuiet m j ∧ j.phase = .idle ∧ originTree m j = some (tTree 255 1)
      ∧ j.stretches = 0 ∧ (Instr.originPeriodEnd 15 []).wf = true ∧ j.combined = some (false, 65535, 0)
      ∧ mayStart { j with started := false } = true ∧ mayStart { j with started := false, joined := 0 } = false := by
  refine ⟨rfl, rfl, rfl, ?_, rfl, rfl, rfl, by decide, rfl, by decide +kernel, by decide +kernel⟩
  exact ⟨rfl, rfl, rfl, rfl, rfl, rfl, rfl, rfl, rfl, rfl, rfl, rfl, rfl, rfl, fun l v => (wit_takesFlit ..).2⟩

theorem wit_BoundariesOpenStrokes_member :
    let m := tStroke 31 1 [] id
    let x : Launch := { die := 7, ve := 127, team := 31, entry := 2 ^ 32 - 1 }
    linkUp (linkAt m 31) = true ∧ isMember (tTree 31 1) = true ∧ (tTree 31 1).jobId = 7
      ∧ (Instr.strokeBoundary 31 50 0 (2 ^ 64 - 1) true false []).wf = true ∧ (Instr.strokeBoundary 31 50 0 10 false false [x]).wf = true
      ∧ m.sys.st = .active ∧ bitOf (partAt m 0).dies 7 = true ∧ (pdieAt m 7).st = 0 ∧ (pdieAt m 7).priming = false
      ∧ tfind (veAt m 7 127).teams 31 = none ∧ (Instr.strokeBoundary 31 50 64 10 false false []).wf = true
      ∧ ((([] : Tab (List Byte)).take 64).map (·.1) ≠ List.range 64) ∧ (Instr.attachFlit 31 50 63 (zeros 8)).wf = true := by decide +kernel

theorem wit_JoinsLossesAndEntries_joins :
    let m := tStroke 31 1 [] id
    (Instr.joinFlit 30 50 65535).wf = true ∧ treeOf m 50 = some (tTree 31 1) ∧ bitOf (tTree 31 1).down 30 = true ∧ (tTree 31 1).up ≤ 31
      ∧ (let j := { tRecJob 1 id with started := true }
         coordOf j = some 4 ∧ nextCoord j = some 3 ∧ 3 ≠ j.self ∧ routeLink (tRec 1 id) 3 = some 31 ∧ (linkAt (tRec 1 id) 31).takes 6 104 = true)
      ∧ ((m.net.trees.filter (fun e => bitOf e.down 30 && decide (e.up ≤ 31) && decide ((e.tree, 65535) ∉ m.net.declared))).map (·.up)) = [31]
      ∧ (Instr.declareFlit 30 65535 65535).wf = true ∧ 65535 ∈ ({ reported := [65535] } : Recov).reported := by decide +kernel

theorem wit_JoinsLossesAndEntries_entry :
    let j : Job := { tRecJob 4 (fun r => { r with stage := 1, noticeSent := true, expected := [3], acks := [{ src := 3, flags := 0, holdGen := [], aqGen := [], holdStep := [], aqStep := [] }] }) with
      isOrigin := true, started := true, phase := .generate }
    (Instr.recoveryEntryTimer 15 []).wf = true ∧ isCoord j = true ∧ allAcked j = true ∧ j.gen = none ∧ j.learn.hasShard = false ∧ j.stretches = 0
      ∧ j.turn.next = none ∧ j.recov.next = none ∧ j.recov.mismatch = 0 ∧ j.recov.skip = false ∧ j.recov.byHost = false ∧ j.secure.next = none
      ∧ j.jobWide = none ∧ tDev.ctl.accepted = [] ∧ tDev.ctl.waiting = [] ∧ tDev.tinctures = [] ∧ tDev.pools = [] ∧ tDev.posts = [] := by
  refine ⟨by decide, by decide, by decide, rfl, rfl, rfl, rfl, rfl, rfl, rfl, rfl, rfl, rfl, rfl, rfl, rfl, rfl, rfl⟩

/-- A mailbox of partition `p` asks for `op`. -/
def tAsk (mb op p notify : Nat) (body : List Byte) : Dev :=
  cwWrite (cwWrite { tDev with ctl := { flips := [mb] } } (mb * 4096 + 8) (leBytes 2 op ++ leBytes 1 p ++ leBytes 1 notify ++ leBytes 2 body.length))
    (mb * 4096 + 64) body

/-- The module of that mailbox, whose flip has been taken up. -/
def tAsked (m : Dev) : Dev := { m with ctl := { m.ctl with flips := [] } }

/-- A reading of a request, which names a command or a status. -/
def tReads (strict : Bool) (m : Dev) (mb : Nat) : Nat ⊕ Instr := match mbRequest strict m mb with | .error e => .inl e | .ok i => .inr i

theorem wit_RequestsAndLocalStrokes_requests :
    let m := tAsk 31 0x0123 0 1 [31, 2, 0, 0]
    31 ∈ m.ctl.flips ∧ unreached m (mbField m 31 8 2) 31 = false ∧ mbField m 31 10 1 = 31 / 32 ∧ adminOpcode (mbField m 31 8 2) = true ∧ 31 / 32 = 0
      ∧ servedHere m (mbField m 31 8 2) 31 = true ∧ tReads false (tAsked m) 31 = .inr (.linkControl 31 31 2)
      ∧ tReads true (tAsked m) 31 = .inr (.linkControl 31 31 2) ∧ mbField m 31 11 1 = 1
      ∧ (∀ b ∈ mbRead m 31 19 5 ++ mbRead m 31 40 24, b = 0) ∧ (Instr.linkControl 31 31 2).wf = true
      ∧ specAll {} (.linkControl 31 31 2) = specOf (.linkControl 31 31 2) ∧ specOf (.linkControl 31 31 2) = some (specLinkControl 31 31 2)
      ∧ (specLinkControl 31 31 2).query = false ∧ (specLinkControl 31 31 2).jobWide = false
      ∧ secErr (specLinkControl 31 31 2) (tAsked m) = none ∧ acceptErr (specLinkControl 31 31 2) (tAsked m) = none := by
  refine ⟨?_, ?_, ?_, ?_, ?_, ?_, ?_, ?_, ?_, ?_, ?_, rfl, rfl, rfl, rfl, ?_, ?_⟩ <;> decide +kernel

theorem wit_RequestsAndLocalStrokes_refused :
    mbField (tAsk 31 0x0123 1 0 []) 31 10 1 ≠ 31 / 32
      ∧ (let n : Dev := { tAsk 32 0x0104 1 0 [] with port := { tPort with parts := [(1, tPart)] } }
         unreached n (mbField n 32 8 2) 32 = false ∧ mbField n 32 10 1 = 32 / 32 ∧ adminOpcode (mbField n 32 8 2) = true ∧ 32 / 32 ≠ 0)
      ∧ (let n : Dev := { tAsk 31 0x0123 0 0 [] with sys := { st := .failed } }
         unreached n (mbField n 31 8 2) 31 = false ∧ mbField n 31 10 1 = 31 / 32 ∧ servedHere n (mbField n 31 8 2) 31 = false)
      ∧ tReads false (tAsked (tAsk 31 0x0123 0 0 [31, 2, 0])) 31 = .inl 0x2005
      ∧ tReads true (tAsked (tAsk 31 0x0123 0 0 [31, 2, 0, 1])) 31 = .inl 0x2002 ∧ 2 ≤ mbField (tAsk 31 0x0123 0 2 [31, 2, 0, 0]) 31 11 1
      ∧ (let n := { tAsk 31 0x0302 0 0 (leBytes 4 7) with jobs := [(15, { tHalted with part := 7 })] }
         tReads false (tAsked n) 31 = .inr (.jobStatus 31 7) ∧ (secErr (specJobStatus 31 7) (tAsked n)).isSome = true) := by
  decide +kernel

theorem wit_RequestsAndLocalStrokes_tick :
    let m : Dev := { tDev with ctl := { replies := [{ tReply 255 with due := 0 }] } }
    m.sys.st = .active ∧ (tReply 255).slot = none ∧ ({ tReply 255 with due := 0 } : Reply).due ≤ m.ctl.localStroke ∧ m.ctl.accepted = []
      ∧ m.ctl.waiting = [] ∧ m.ctl.waits = [] ∧ m.ctl.holds = [] ∧ m.ctl.evq = [] ∧ (∀ p < 8, (partAt m p).resetting = false)
      ∧ ([(3, ({} : MArray)), (5, {})].map (·.1)).Pairwise (· < ·) := by decide +kernel

theorem wit_RegisterWritesByField : let v := 240 + 1 * 2 ^ 16 + 1 * 2 ^ 24
    v < 2 ^ 64 ∧ 60 ≤ v / 2 ^ 0 % 2 ^ 9 ∧ v / 2 ^ 0 % 2 ^ 9 ≤ 240 ∧ 1 ≤ v / 2 ^ 16 % 2 ^ 5 ∧ 1 ≤ v / 2 ^ 24 % 2 ^ 8 ∧ tDev.sys.st ≠ .off
      ∧ regMapped 0x050013200018 = false ∧ 0x050013200018 < 2 ^ 48 := by decide

theorem wit_RequestsAndRecordsAreReadBack_requests :
    decodeRequest 0x0123 255 [31, 2, 0, 0] = .ok (.linkControl 255 31 2) ∧ [31, 2, 0, (0 : Byte)].length ≤ 4032
      ∧ bitOf (recField [0, 0, 0, 0, 0, 0, 2] 6 1) 0 = false := by decide

theorem wit_RequestsAndRecordsAreReadBack_records :
    let r : RecItem := { action := 2, kind := 1, attempt := 255, generation := 2 ^ 32 - 1, pairs := [(65535, 65535)] }
    let it : Items := { turn := some (255, 1), recov := some r, secure := some (3, 5, 2 ^ 32 - 1), margin := some 65535, jobWide := some (0x0303, leBytes 4 7)
                        verdict := some { flags := 7, count := 1, tokens := 2 ^ 32 - 1, loss := 0, sqnorm := 0 } }
    (∀ t, it.turn = some t → t.1 < 256 ∧ t.2 < 256) ∧ (∀ x, it.secure = some x → x.1 < 256 ∧ x.2.1 < 256 ∧ x.2.2 < 2 ^ 32)
      ∧ (∀ n, it.margin = some n → n < 65536) ∧ r.pairs.length < 256 ∧ (∀ p ∈ r.pairs, p.1 < 65536 ∧ p.2 < 65536)
      ∧ (∀ c, it.jobWide = some c → c.1 < 65536 ∧ c.2.length < 65534) := by
  refine ⟨fun t h => ?_, fun t h => ?_, fun t h => ?_, by decide, by decide, fun t h => ?_⟩ <;> injection h with h <;> subst h <;> decide

theorem wit_JobWideCommandsNeedTheOrigin :
    let m : Dev := { tDev with jobs := [(15, { id := 7, part := 0, origin := 65535 })] }
    let c := specJobHalt 31 7
    specOf (.jobHalt 31 7) = some c ∧ (Instr.jobHalt 31 7).wf = true ∧ c.jobWide = true ∧ (specJob c m).map (·.2.isOrigin) = some false
      ∧ (specJob c m).map (·.2.origin) = some 65535 ∧ m.sys.st = .active ∧ powerAllows m c.opcode c.mb = true ∧ secErr c m = none
      ∧ parErr c m = none ∧ unreached m c.opcode c.mb = false := by
  refine ⟨rfl, by decide, rfl, rfl, rfl, rfl, by decide +kernel, rfl, rfl, by decide +kernel⟩

theorem wit_OwnerTakesOnlyAFlip :
    (Instr.hostCwWrite 2 (partAt (tQp id).m 0).cwKey (31 * 4096 + 0) [1, 0, 0, 0]).wf = true
      ∧ tfind (tQp id).m.port.qps 2 = some { part := 0, remote := 9, rate := 2000000000 } ∧ 31 / 32 = 0 ∧ 0 + [1, 0, 0, (0 : Byte)].length ≤ 4
      ∧ mbOwned (tQp id).m 31 = false
      ∧ (let value : Nat → List Byte → Nat := fun off data =>
           leNat ((List.range 4).map (fun i => if off ≤ i ∧ i < off + data.length then data.getD (i - off) 0 else 0))
         value 0 [1, 0, 0, 0] = 1 ∧ value 0 [1] = 1 ∧ value 0 [3, 0, 0, 0] ≠ 1 ∧ value 3 [1] ≠ 1) := by decide +kernel

theorem wit_PoisonMarksStay :
    let m : Dev := { (tQp id).m with ctl := tBucket.ctl }
    (Instr.hostBucketWrite 2 (partAt m 0).bwKey 32767 0x1FFFFF [1]).wf = true ∧ (flagAt m 32767).owner = 1 ∧ (flagAt m 32767).part = 0
      ∧ 0x1FFFFF + 1 ≤ 0x200000 ∧ m.power.deep < 3 ∧ bucketGranted m 32767 = false ∧ (∀ x ∈ m.jobs, x.2.secure.protectedPages = []) := by decide +kernel

/-! ### The field checks -/

/-- A command with operands from a list of bounds: with zeros it is well formed; with one operand at its bound it is refused, and with
that operand just below it is not. -/
def tFits (r : List Nat × ((Nat → Nat) → Instr)) : Bool :=
  (r.2 fun _ => 0).wf && (List.range r.1.length).all (fun i =>
    !(r.2 fun k => if k = i then r.1.getD i 0 else 0).wf && (r.2 fun k => if k = i then r.1.getD i 0 - 1 else 0).wf)

def tGoodFrame : Frame := {
  seq := 0, ack := 0, nak := false, exp := true, vc := 0, vcValid := false, creditVc := 0, credit := 0, wideReq := false, dropPair := false
  pair := 0, symErr := 0, fastOk := true, flit := zeros 12, launches := [] }
def tGoodPacket : Packet := {
  type := 0, dest := 0, src := 0, window := 0, offset := 0, payload := zeros 64, poisonMap := 0, vc := 6, crcOk := true }

theorem test_bounds_1 : ([
    ([256], fun x => .moduleInfo (x 0)),
    ([256], fun x => .moduleQuiesce (x 0)),
    ([256], fun x => .moduleResume (x 0)),
    ([256, 2 ^ 32], fun x => .moduleReset (x 0) (x 1)),
    ([256, 2 ^ 64, 2 ^ 32, 2 ^ 32, 2 ^ 64, 2 ^ 32, 2 ^ 32], fun x => .eventAreaSet (x 0) (x 1) (x 2) (x 3) (x 4) (x 5) (x 6)),
    ([256], fun x => .partitionSet (x 0) (List.replicate 8 0) (List.replicate 8 0)),
    ([256, 256], fun x => .partitionReset (x 0) (x 1)),
    ([256, 256], fun x => .partitionStatus (x 0) (x 1)),
    ([256, 2 ^ 64, 256], fun x => .shareGrant (x 0) (x 1) (x 2)),
    ([256, 2 ^ 64, 256], fun x => .shareRevoke (x 0) (x 1) (x 2)),
    ([256, 256, 256, 2 ^ 16, 2 ^ 32, 2 ^ 128, 2 ^ 128, 256, 2 ^ 16], fun x => .partitionNet (x 0) (x 1) (x 2) (x 3) (x 4) (x 5) (x 6) (x 7) (x 8)),
    ([256, 2 ^ 16], fun x => .linkIdentity (x 0) (x 1)),
    ([256, 2 ^ 16, 2 ^ 32, 2 ^ 32], fun x => .routeSet (x 0) (x 1) (x 2) (x 3)),
    ([256, 2 ^ 16, 2 ^ 32], fun x => .treeSet (x 0) (x 1) (x 2)),
    ([256, 256, 256], fun x => .linkControl (x 0) (x 1) (x 2)),
    ([256, 2 ^ 32, 256, 256, 2 ^ 16, 2 ^ 32], fun x => .spareArm (x 0) (x 1) (x 2) (x 3) (x 4) (x 5)),
    ([256, 256, 256, 256, 256, 2 ^ 16], fun x => .portConfig (x 0) (x 1) (x 2) (x 3) (x 4) (x 5)),
    ([256, 2 ^ 32, 2 ^ 16, 256, 256, 2 ^ 64, 2 ^ 32, 256], fun x => .bucketMap (x 0) (x 1) (x 2) (x 3) (x 4) (x 5) (x 6) (x 7)),
    ([256, 2 ^ 32, 2 ^ 16], fun x => .bucketUnmap (x 0) (x 1) (x 2)),
    ([256, 2 ^ 32, 256, 256, 2 ^ 32], fun x => .memAlloc (x 0) (x 1) (x 2) (x 3) (x 4)),
    ([256, 2 ^ 64], fun x => .memFree (x 0) (x 1)),
    ([256, 256, 256, 2 ^ 32, 2 ^ 64], fun x => .quotaSet (x 0) (x 1) (x 2) (x 3) (x 4)),
    ([256, 256], fun x => .memStatus (x 0) (x 1)),
    ([256, 2 ^ 64, 2 ^ 32, 2 ^ 32], fun x => .aqWrite (x 0) (x 1) (x 2) (x 3)),
    ([256, 2 ^ 64, 2 ^ 32, 2 ^ 32], fun x => .aqRead (x 0) (x 1) (x 2) (x 3)),
    ([256, 2 ^ 32, 2 ^ 32], fun x => .aqTrim (x 0) (x 1) (x 2)),
    ([256, 2 ^ 32, 256, 256, 256, 256, 2 ^ 16, 2 ^ 16, 2 ^ 16, 2 ^ 16, 2 ^ 64, 2 ^ 64], fun x => .jobCreate (x 0) (x 1) (x 2) (x 3) (x 4) (x 5) (x 6) (x 7) (x 8) (x 9) (x 10) (x 11)),
    ([256, 2 ^ 32], fun x => .jobStatus (x 0) (x 1)),
    ([256, 2 ^ 32], fun x => .jobHalt (x 0) (x 1)),
    ([256, 2 ^ 32], fun x => .jobResume (x 0) (x 1)),
    ([256, 2 ^ 32], fun x => .jobDestroy (x 0) (x 1)),
    ([256, 2 ^ 32, 2 ^ 32, 2 ^ 16, 2 ^ 16, 2 ^ 32, 2 ^ 32, 2 ^ 32, 2 ^ 32, 2 ^ 64], fun x => .genConfig (x 0) (x 1) (x 2) (x 3) (x 4) (x 5) (x 6) (x 7) (x 8) (x 9) {}),
    ([256, 2 ^ 32, 2 ^ 32, 2 ^ 16], fun x => .genSubmit (x 0) (x 1) (x 2) (x 3)),
    ([256, 2 ^ 32, 2 ^ 32, 2 ^ 16], fun x => .genCancel (x 0) (x 1) (x 2) (x 3)),
    ([256, 2 ^ 32, 2 ^ 32, 2 ^ 32], fun x => .genMask (x 0) (x 1) (x 2) (x 3)),
    ([256, 2 ^ 32, 2 ^ 16, 2 ^ 16, 2 ^ 32], fun x => .tinctureLoad (x 0) (x 1) (x 2) (x 3) (x 4))] : List (List Nat × ((Nat → Nat) → Instr))).all tFits = true := by decide +kernel

theorem test_bounds_2 : ([
    ([256, 2 ^ 32, 2 ^ 16, 2 ^ 16, 2 ^ 32], fun x => .tinctureUnload (x 0) (x 1) (x 2) (x 3) (x 4)),
    ([256, 2 ^ 32, 2 ^ 16], fun x => .genStatus (x 0) (x 1) (x 2)),
    ([256, 2 ^ 32, 2 ^ 32, 2 ^ 16, 2 ^ 16, 2 ^ 16, 2 ^ 16, 2 ^ 32, 2 ^ 32, 2 ^ 32, 2 ^ 32, 2 ^ 32, 256, 256, 256, 2 ^ 16, 2 ^ 32, 2 ^ 64], fun x => .learnConfig (x 0) (x 1) (x 2) (x 3) (x 4) (x 5) (x 6) (x 7) (x 8) (x 9) (x 10) (x 11) (x 12) (x 13) (x 14) (x 15) (x 16) (x 17)),
    ([256, 2 ^ 32, 2 ^ 32, 2 ^ 16], fun x => .learnFeed (x 0) (x 1) (x 2) (x 3)),
    ([256, 2 ^ 32, 2 ^ 32, 2 ^ 32], fun x => .learnRun (x 0) (x 1) (x 2) (x 3)),
    ([256, 2 ^ 32, 2 ^ 32, 2 ^ 64, 2 ^ 16], fun x => .learnMask (x 0) (x 1) (x 2) (x 3) (x 4)),
    ([256, 2 ^ 32], fun x => .learnStatus (x 0) (x 1)),
    ([256, 2 ^ 32, 2 ^ 32, 256, 256, 256, 256, 2 ^ 16, 2 ^ 16, 2 ^ 16, 2 ^ 64, 2 ^ 64], fun x => .turnBegin (x 0) (x 1) (x 2) (x 3) (x 4) (x 5) (x 6) (x 7) (x 8) (x 9) (zeros 32) (x 10) (x 11)),
    ([256, 2 ^ 32], fun x => .turnAbort (x 0) (x 1)),
    ([256, 2 ^ 32], fun x => .turnStatus (x 0) (x 1)),
    ([256, 2 ^ 32, 256, 256, 2 ^ 16, 2 ^ 32], fun x => .layoutLoad (x 0) (x 1) (x 2) (x 3) (x 4) (x 5)),
    ([256, 2 ^ 32], fun x => .secureConfig (x 0) (x 1) tSec),
    ([256, 2 ^ 32, 256], fun x => .secureNow (x 0) (x 1) (x 2)),
    ([256, 2 ^ 32], fun x => .secureStatus (x 0) (x 1)),
    ([256, 2 ^ 32, 2 ^ 64], fun x => .journalRead (x 0) (x 1) (x 2)),
    ([256, 2 ^ 32, 2 ^ 16, 2 ^ 32], fun x => .recoveryPlan (x 0) (x 1) (x 2) (x 3)),
    ([256, 2 ^ 32, 2 ^ 32, 2 ^ 16], fun x => .takeoverConfig (x 0) (x 1) (x 2) (x 3)),
    ([256, 2 ^ 32, 2 ^ 32, 256, 256, 2 ^ 32, 2 ^ 64, 2 ^ 32, 2 ^ 32], fun x => .recoveryRestore (x 0) (x 1) (x 2) (x 3) (x 4) (x 5) (x 6) (x 7) (x 8)),
    ([256, 2 ^ 32], fun x => .recoveryStatus (x 0) (x 1)),
    ([256, 2 ^ 32, 2 ^ 16, 256, 256, 2 ^ 16, 2 ^ 16, 256, 256], fun x => .collGroupSet (x 0) (x 1) (x 2) (x 3) (x 4) (x 5) (x 6) (x 7) (x 8) (List.replicate (min (x 8) 64) (0, 0))),
    ([256, 2 ^ 32, 2 ^ 16, 2 ^ 32], fun x => .collStatus (x 0) (x 1) (x 2) (x 3)),
    ([256, 2 ^ 16], fun x => .powerCapSet (x 0) (x 1)),
    ([256, 256, 2 ^ 16], fun x => .powerShareSet (x 0) (x 1) (x 2)),
    ([256, 256, 256], fun x => .powerStateSet (x 0) (x 1) (x 2)),
    ([256, 256], fun x => .freqModeSet (x 0) (x 1)),
    ([256, 256, 256, 256], fun x => .thermalSet (x 0) (x 1) (x 2) (x 3)),
    ([256, 256, 256, 256], fun x => .primingSet (x 0) (x 1) (x 2) (x 3)),
    ([256], fun x => .powerStatus (x 0)),
    ([256, 256], fun x => .energyReport (x 0) (x 1)),
    ([256, 256], fun x => .imageBegin (x 0) (x 1) (zeros 1280)),
    ([256, 2 ^ 32], fun x => .imageWrite (x 0) (x 1) []),
    ([256], fun x => .imageCommit (x 0)),
    ([256, 2 ^ 32], fun x => .attest (x 0) (zeros 32) (x 1)),
    ([256, 256], fun x => .arrayMap (x 0) (x 1)),
    ([256, 256], fun x => .arraySelftest (x 0) (x 1)),
    ([256, 2 ^ 32], fun x => .numericsStatus (x 0) (x 1))] : List (List Nat × ((Nat → Nat) → Instr))).all tFits = true := by decide +kernel

theorem test_bounds_3 : ([
    ([256, 2 ^ 32, 256], fun x => .kvStatus (x 0) (x 1) (x 2)),
    ([256, 256], fun x => .linkStatus (x 0) (x 1)),
    ([256], fun x => .riskConfig (x 0) (List.replicate 7 0)),
    ([256], fun x => .riskStatus (x 0)),
    ([256, 2 ^ 32], fun x => .portStatus (x 0) (x 1)),
    ([256], fun x => .bootStatus (x 0)),
    ([2 ^ 24, 2 ^ 32, 1048576], fun x => .hostCwWrite (x 0) (x 1) (x 2) []),
    ([2 ^ 24, 2 ^ 32, 256], fun x => .mailboxFlip (x 0) (x 1) (x 2)),
    ([256], fun x => .watcherReport (x 0)),
    ([2 ^ 24, 2 ^ 32, 32768, 64], fun x => .hostFlagWrite (x 0) (x 1) (x 2) (x 3) []),
    ([2 ^ 24, 2 ^ 32, 32768, 2097152], fun x => .hostBucketWrite (x 0) (x 1) (x 2) (x 3) []),
    ([2 ^ 24, 2 ^ 32, 32768, 2097152, 2097153], fun x => .hostBucketRead (x 0) (x 1) (x 2) (x 3) (x 4)),
    ([8, 2 ^ 64], fun x => .consumerReread (x 0) (x 1)),
    ([2 ^ 64, 2 ^ 24], fun x => .cmReq (x 0) [] (x 1)),
    ([2 ^ 24], fun x => .cmDreq (x 0)),
    ([2 ^ 24], fun x => .rdmaAckTimeout (x 0)),
    ([2 ^ 24], fun x => .ecnMarkedPacket (x 0)),
    ([2 ^ 24], fun x => .cnpReceive (x 0)),
    ([5, 256], fun x => .portLinkChange (x 0) (x 1) true),
    ([16], fun x => .originPeriodEnd (x 0) []),
    ([32, 2 ^ 16, 65, 2 ^ 64], fun x => .strokeBoundary (x 0) (x 1) (x 2) (x 3) true true []),
    ([32, 2 ^ 16, 256, 2 ^ 64], fun x => .stretchFlit (x 0) (x 1) (x 2) (x 3)),
    ([16], fun x => .voteDeadline (x 0)),
    ([32, 2 ^ 16, 2 ^ 64, 2 ^ 16, 2 ^ 16], fun x => .voteFlit (x 0) (x 1) (x 2) true (x 3) (x 4)),
    ([16, 32], fun x => .childVoteTimeout (x 0) (x 1)),
    ([16], fun x => .originLostTimeout (x 0)),
    ([32, 2 ^ 16, 2 ^ 16], fun x => .joinFlit (x 0) (x 1) (x 2)),
    ([32, 2 ^ 16, 64], fun x => .attachFlit (x 0) (x 1) (x 2) (zeros 8)),
    ([32, 2 ^ 16, 2 ^ 16], fun x => .declareFlit (x 0) (x 1) (x 2)),
    ([32], fun x => .linkPeerSignal (x 0)),
    ([32, 16, 2048, 2 ^ 16, 32, 256], fun x => .linkTrainDone (x 0) (x 1) (x 2) true (x 3) (x 4) (x 5)),
    ([32, 256], fun x => .linkTrainTimeout (x 0) (x 1)),
    ([32], fun x => .linkPeerLoss (x 0)),
    ([32], fun x => .frameReceive (x 0) tGoodFrame),
    ([32, 4096], fun x => .nakReceive (x 0) (x 1)),
    ([32], fun x => .linkIdleTimeout (x 0))] : List (List Nat × ((Nat → Nat) → Instr))).all tFits = true := by decide +kernel

theorem test_bounds_4 : ([
    ([32], fun x => .widthChangeDone (x 0)),
    ([32], fun x => .bulkPacketReceive (x 0) tGoodPacket),
    ([32], fun x => .bulkPacketForward (x 0) tGoodPacket),
    ([8, 48, 16], fun x => .matmul (x 0) (x 1) (x 2)),
    ([8, 48], fun x => .dither (x 0) (x 1)),
    ([8, 48], fun x => .arrayFillDone (x 0) (x 1)),
    ([8, 48, 16], fun x => .arrayInstrDone (x 0) (x 1) (x 2)),
    ([8, 48], fun x => .arrayShapeChange (x 0) (x 1)),
    ([8, 48], fun x => .arrayRampDown (x 0) (x 1)),
    ([8], fun x => .postedAtomicApply (x 0)),
    ([8, 4], fun x => .dmaCopyDone (x 0) (x 1)),
    ([8, 160], fun x => .spbHandoverEffect (x 0) (x 1)),
    ([8, 160, 2 ^ 64], fun x => .spbOwnerWrite (x 0) (x 1) (x 2)),
    ([2 ^ 48, 2 ^ 64], fun x => .registerWrite (x 0) (x 1)),
    ([8, 160], fun x => .attBankHandover (x 0) (x 1)),
    ([8], fun x => .attFwd (x 0)),
    ([8], fun x => .attAppend (x 0)),
    ([8], fun x => .pageShare (x 0)),
    ([8], fun x => .pageTruncate (x 0)),
    ([8], fun x => .pageRelease (x 0)),
    ([8], fun x => .pageDrop (x 0)),
    ([8], fun x => .pagePromote (x 0)),
    ([8], fun x => .pageDemote (x 0)),
    ([8, 16, 2 ^ 32, 2 ^ 16, 2, 2 ^ 16], fun x => .pageCopyOnWrite (x 0) (x 1) (x 2) (x 3) (x 4) (x 5)),
    ([8, 16, 2 ^ 32], fun x => .pageMoveDone (x 0) (x 1) (x 2)),
    ([8, 160], fun x => .atmBankHandover (x 0) (x 1)),
    ([8], fun x => .sample (x 0)),
    ([16], fun x => .outputBucketReady (x 0)),
    ([16, 2 ^ 16, 2 ^ 16], fun x => .tinctureCopyDone (x 0) (x 1) (x 2)),
    ([16, 2 ^ 48], fun x => .weightPoisonReport (x 0) (x 1)),
    ([16, 2 ^ 48], fun x => .weightRestoreDone (x 0) (x 1)),
    ([16, 2 ^ 32, 8], fun x => .sliceHandoff (x 0) ⟨x 2, x 1, []⟩ true true),
    ([16, 2 ^ 32], fun x => .sliceDelivered (x 0) (x 1) []),
    ([16, 2 ^ 16, 2 ^ 64, 2 ^ 32, 2 ^ 32, 2 ^ 32], fun x => .verdictReduceDone (x 0) (x 1) (x 2) (x 3) (x 4) (x 5)),
    ([8, 160], fun x => .collBankHandover (x 0) (x 1)),
    ([8, 16, 2 ^ 16, 2 ^ 32], fun x => .bcast (x 0) (x 1) (x 2) (x 3))] : List (List Nat × ((Nat → Nat) → Instr))).all tFits = true := by decide +kernel

theorem test_bounds_5 : ([
    ([8, 16, 2 ^ 16, 2 ^ 32], fun x => .reduce (x 0) (x 1) (x 2) (x 3)),
    ([8, 16, 2 ^ 16, 2 ^ 32], fun x => .allreduce (x 0) (x 1) (x 2) (x 3)),
    ([8, 16, 2 ^ 16, 2 ^ 32], fun x => .reduceDeliver (x 0) (x 1) (x 2) (x 3)),
    ([8, 16, 2 ^ 16, 2 ^ 32], fun x => .allgather (x 0) (x 1) (x 2) (x 3)),
    ([8, 16, 2 ^ 16, 2 ^ 32], fun x => .gather (x 0) (x 1) (x 2) (x 3)),
    ([8, 16, 2 ^ 16, 2 ^ 32], fun x => .scatter (x 0) (x 1) (x 2) (x 3)),
    ([8, 16, 2 ^ 16, 2 ^ 32], fun x => .reduceScatter (x 0) (x 1) (x 2) (x 3)),
    ([32], fun x => .headerChunk (x 0) (tChunk 0 0 0)),
    ([32], fun x => .goChunk (x 0) (tChunk 0 0 0)),
    ([32], fun x => .dataChunk (x 0) (tChunk 0 0 0)),
    ([32], fun x => .abortChunk (x 0) (tChunk 0 0 0)),
    ([32], fun x => .endedChunk (x 0) (tChunk 0 0 0)),
    ([32], fun x => .finishChunk (x 0) (tChunk 0 0 0)),
    ([8], fun x => .collWaitingTick (x 0) true),
    ([16, 256], fun x => .sluicePartDone (x 0) (x 1)),
    ([16], fun x => .stageRecordDone (x 0) []),
    ([16], fun x => .stageLimitTimeout (x 0)),
    ([8, 2 ^ 48], fun x => .protectedWrite (x 0) (x 1) []),
    ([8, 2 ^ 32], fun x => .reserveCopyDone (x 0) (x 1)),
    ([16, 2 ^ 32], fun x => .siphonPageSent (x 0) (x 1)),
    ([16, 2 ^ 16, 256], fun x => .secureRequest (x 0) (x 1) (x 2)),
    ([16, 2 ^ 16, 2 ^ 32, 2 ^ 64], fun x => .secureBegin (x 0) (x 1) (x 2) (x 3)),
    ([16, 2 ^ 16, 2 ^ 32, 2], fun x => .secureReady (x 0) (x 1) (x 2) (x 3)),
    ([16, 2], fun x => .holdSlotFree (x 0) (x 1)),
    ([16, 2 ^ 16, 2 ^ 32, 32, 2 ^ 64], fun x => .secureEnd (x 0) (x 1) (x 2) (x 3) (x 4)),
    ([16, 2 ^ 16, 2 ^ 32, 2], fun x => .secureHeld (x 0) (x 1) (x 2) (x 3)),
    ([16], fun x => .secureRecordDone (x 0) []),
    ([16], fun x => .secureTimeout (x 0)),
    ([16, 2 ^ 16], fun x => .aquiferSlotWriteDone (x 0) (x 1)),
    ([16, 2 ^ 16], fun x => .storeSlotWriteDone (x 0) (x 1)),
    ([16, 2 ^ 16, 256, 2 ^ 16], fun x => .reportReceive (x 0) (x 1) (x 2) (x 3)),
    ([16, 2 ^ 16, 2 ^ 16, 2 ^ 16], fun x => .noticeReceive (x 0) (x 1) (x 2) (x 3) []),
    ([16, 2 ^ 16, 2 ^ 16, 2 ^ 16], fun x => .ackReceive (x 0) (x 1) (x 2) (x 3) [] [] [] []),
    ([16, 2 ^ 16], fun x => .ackLimitTimeout (x 0) (x 1)),
    ([16], fun x => .recoveryEntryTimer (x 0) []),
    ([16], fun x => .coordinatorTakeover (x 0))] : List (List Nat × ((Nat → Nat) → Instr))).all tFits = true := by decide +kernel

theorem test_bounds_6 : ([
    ([16], fun x => .reportOriginTimeout (x 0)),
    ([16, 2 ^ 16, 2 ^ 16], fun x => .spareUpReceive (x 0) (x 1) (x 2)),
    ([16, 2 ^ 16, 2 ^ 16], fun x => .configuredReceive (x 0) (x 1) (x 2)),
    ([16, 2 ^ 16, 2 ^ 16, 2, 2 ^ 32], fun x => .fetchReceive (x 0) (x 1) (x 2) (x 3) (x 4)),
    ([16, 2 ^ 16, 2 ^ 16], fun x => .restoredReceive (x 0) (x 1) (x 2)),
    ([2 ^ 16], fun x => .capControlTick [] (x 0)),
    ([8, 256, 65537], fun x => .primingStart (x 0) (x 1) (x 2)),
    ([8, 256], fun x => .thermalDutyTick (x 0) (x 1)),
    ([16, 256], fun x => .stackTempRead (x 0) (x 1)),
    ([2097152], fun x => .segmentCleared (x 0)),
    ([2 ^ 16, 2 ^ 16], fun x => .startFailed (x 0) (x 1)),
    ([16, 256, 2 ^ 16], fun x => .imageCopyDone (x 0) (x 1) (x 2)),
    ([2 ^ 24], fun x => .cnpRateRaise (x 0)),
    ([256, 2 ^ 64], fun x => .ptpMessage (x 0) (x 1) 0 true),
    ([256], fun x => .arpNdIcmp (x 0) []),
    ([32, 4], fun x => .laneFailure (x 0) (x 1)),
    ([8, 48, 16, 256, 2 ^ 24], fun x => .columnParityFail (x 0) (x 1) (x 2) (x 3) (x 4)),
    ([16], fun x => .riskRearmTimeout (x 0)),
    ([8], fun x => .primingStepDown (x 0)),
    ([8], fun x => .primeLimitTimeout (x 0)),
    ([8], fun x => .dieWake (x 0)),
    ([33, 5, 2 ^ 64], fun x => .regulatorAlarm (x 0) (x 1) (x 2) true),
    ([8], fun x => .vcoreDroop (x 0)),
    ([16], fun x => .stackThrottleDecay (x 0)),
    ([2 ^ 16, 256], fun x => .criticalTemp (x 0) (x 1)),
    ([2 ^ 16, 2 ^ 16], fun x => .coolantSensorTick (x 0) (x 1) true),
    ([2 ^ 48], fun x => .patrolScrub (x 0) true true),
    ([2, 16, 2 ^ 16, 2 ^ 24], fun x => .rowRepairCandidate (x 0 + 1) (x 1) (x 2) (x 3)),
    ([8, 2 ^ 16, 101], fun x => .aqOpDone (x 0) [] (x 1) (x 2)),
    ([16], fun x => .softRepairDone (x 0)),
    ([2 ^ 16], fun x => .uncontainedFault (x 0)),
    ([2 ^ 16], fun x => .p5WakeRestart (x 0)),
    ([2 ^ 16, 2 ^ 16], fun x => .smbFruRead (x 0) (x 1)),
    ([32], fun x => .linkLostTimeout (x 0)),
    ([256, 2 ^ 16, 256], fun x => .thermalThresholdCrossed (x 0) (x 1) (x 2)),
    ([2 ^ 24, 2 ^ 24, 256], fun x => .rdmaNakReceive (x 0) (x 1) (x 2)),
    ([8, 2 ^ 16], fun x => .pfcPauseFrame (x 0) (x 1))] : List (List Nat × ((Nat → Nat) → Instr))).all tFits = true := by decide +kernel

theorem test_fields_of_vector_instructions : ([
    .fmaF32, .addF32, .mulF32, .maxF32, .minF32, .fmaBf16x2, .cvt, .divF32, .sqrtF32, .expF32, .logF32, .iadd, .isub, .imul, .vAnd, .vOr, .vXor, .shl, .shr, .cmp, .sel, .ld, .st, .atomAdd32, .atomAdd64, .atomSwap32, .atomSwap64, .atomBset, .atomBclr, .atomUmax32, .atomUmin32, .dmaCopy, .fence, .dmaWait, .shfl, .reduceFadd, .reduceFmax, .reduceIadd, .br, .barE, .exit, .draw, .mxIssue, .mxWait, .spbGive, .spbWait, .getf, .ubase] : List (VeF → Instr)).all (fun c => (c tF).wf && ([
    { tF with die := 8 }, { tF with ve := 128 }, { tF with team := 32 }, { tF with rd := 32 }, { tF with ra := 32 }, { tF with rb := 32 }, { tF with rc := 32 }, { tF with pred := 8 }, { tF with imm := 2 ^ 32 }] : List VeF).all (fun f => !(c f).wf)) = true := by
  decide +kernel

theorem test_fields_of_Frame : ([
    fun y => .frameReceive 0 y] : List (Frame → Instr)).all (fun c => (c (tGoodFrame)).wf && ([
    { tGoodFrame with seq := 4096 }, { tGoodFrame with ack := 4096 }, { tGoodFrame with vc := 8 }, { tGoodFrame with creditVc := 8 }, { tGoodFrame with credit := 256 }, { tGoodFrame with pair := 2 }, { tGoodFrame with symErr := 225 }, { tGoodFrame with flit := zeros 11 }, { tGoodFrame with exp := false }, { tGoodFrame with launches := [⟨8, 0, 0, 0⟩] }, { tGoodFrame with launches := [⟨0, 128, 0, 0⟩] }, { tGoodFrame with launches := [⟨0, 0, 32, 0⟩] }, { tGoodFrame with launches := [⟨0, 0, 0, 2 ^ 48⟩] }] : List Frame).all (fun y => !(c y).wf)) = true := by decide +kernel

theorem test_fields_of_Packet : ([
    fun y => .bulkPacketReceive 0 y, fun y => .bulkPacketForward 0 y] : List (Packet → Instr)).all (fun c => (c (tGoodPacket)).wf && ([
    { tGoodPacket with type := 256 }, { tGoodPacket with dest := 65536 }, { tGoodPacket with src := 65536 }, { tGoodPacket with window := 65536 }, { tGoodPacket with offset := 2 ^ 64 }, { tGoodPacket with offset := 63 }, { tGoodPacket with payload := [] }, { tGoodPacket with payload := zeros 4160 }, { tGoodPacket with payload := zeros 65 }, { tGoodPacket with poisonMap := 2 ^ 64 }, { tGoodPacket with vc := 5 }, { tGoodPacket with vc := 8 }] : List Packet).all (fun y => !(c y).wf)) = true := by decide +kernel

theorem test_fields_of_Chunk : ([
    fun y => .headerChunk 0 y, fun y => .goChunk 0 y, fun y => .dataChunk 0 y, fun y => .abortChunk 0 y, fun y => .endedChunk 0 y, fun y => .finishChunk 0 y] : List (Chunk → Instr)).all (fun c => (c (tChunk 0 0 0)).wf && ([
    { tChunk 0 0 0 with kind := 7 }, { tChunk 0 0 0 with flags := 32 }, { tChunk 0 0 0 with tree := 65536 }, { tChunk 0 0 0 with src := 65536 }, { tChunk 0 0 0 with phase := 256 }, { tChunk 0 0 0 with restarts := 256 }, { tChunk 0 0 0 with digest := 2 ^ 64 }, { tChunk 0 0 0 with chunk := 2 ^ 32 }, { tChunk 0 0 0 with epoch := 2 ^ 32 }, { tChunk 0 0 0 with seq := 2 ^ 32 }, { tChunk 0 0 0 with group := 65536 }, { tChunk 0 0 0 with payload := zeros 63 }, { tChunk 0 0 0 with poison := [true] }, { tChunk 0 0 0 with vc := 6 }] : List Chunk).all (fun y => !(c y).wf)) = true := by decide +kernel

theorem test_fields_of_PoolDesc : ([
    fun y => .genConfig 0 0 0 0 0 0 0 0 0 0 y] : List (PoolDesc → Instr)).all (fun c => (c (({} : PoolDesc))).wf && ([
    { ({} : PoolDesc) with format := 256 }, { ({} : PoolDesc) with layers := 256 }, { ({} : PoolDesc) with maxPages := 65536 }, { ({} : PoolDesc) with hbmFrames := 2 ^ 32 }, { ({} : PoolDesc) with cisFrames := 2 ^ 32 }, { ({} : PoolDesc) with pages := 2 ^ 32 }, { ({} : PoolDesc) with seqs := 65536 }, { ({} : PoolDesc) with lowWater := 256 }] : List PoolDesc).all (fun y => !(c y).wf)) = true := by decide +kernel

theorem test_fields_of_SecureReq : ([
    fun y => .secureConfig 0 0 y] : List (SecureReq → Instr)).all (fun c => (c (tSec)).wf && ([
    { tSec with interval := 256 }, { tSec with slots := 256 }, { tSec with aqEvery := 256 }, { tSec with threshold := 256 }, { tSec with partner := 65536 }, { tSec with heldFor := 65536 }, { tSec with group := 65536 }, { tSec with storeEvery := 65536 }, { tSec with partnerLinks := 2 ^ 32 }, { tSec with heldLinks := 2 ^ 32 }, { tSec with reserve := 2 ^ 64 }, { tSec with holdBytes := 2 ^ 64 }, { tSec with aqFirst := 2 ^ 32 }, { tSec with storeGbps := 256 }, { tSec with flags := 256 }, { tSec with storeAddr := 2 ^ 64 }, { tSec with storeRkey := 2 ^ 32 }, { tSec with storeQp := 2 ^ 32 }, { tSec with storeStride := 2 ^ 64 }] : List SecureReq).all (fun y => !(c y).wf)) = true := by decide +kernel

theorem test_lists_that_do_not_fit : ([
    .partitionSet 0 (List.replicate 7 0) (List.replicate 8 0),
    .partitionSet 0 (256 :: List.replicate 7 0) (List.replicate 8 0),
    .partitionSet 0 (List.replicate 8 0) (List.replicate 7 0),
    .partitionSet 0 (List.replicate 8 0) (256 :: List.replicate 7 0),
    .turnBegin 0 0 0 0 0 0 0 0 0 0 (zeros 31) 0 0,
    .collGroupSet 0 0 0 0 0 0 0 0 0 [(0, 0)],
    .collGroupSet 0 0 0 0 0 0 0 0 1 [(65536, 0)],
    .collGroupSet 0 0 0 0 0 0 0 0 1 [(0, 65536)],
    .imageBegin 0 0 (zeros 1279),
    .attest 0 (zeros 31) 0,
    .riskConfig 0 (List.replicate 6 0),
    .riskConfig 0 (256 :: List.replicate 6 0),
    .originPeriodEnd 0 [⟨0, 0, 32, 0⟩],
    .strokeBoundary 0 0 0 0 true true [⟨0, 0, 32, 0⟩],
    .attachFlit 0 0 0 (zeros 7),
    .sliceHandoff 0 ⟨0, 0, [2 ^ 64]⟩ false false,
    .sliceDelivered 0 0 [2 ^ 64],
    .stageRecordDone 0 [2 ^ 64],
    .secureRecordDone 0 [2 ^ 64],
    .noticeReceive 0 0 0 0 [2 ^ 64],
    .ackReceive 0 0 0 0 [2 ^ 64] [] [] [],
    .ackReceive 0 0 0 0 [] [2 ^ 64] [] [],
    .ackReceive 0 0 0 0 [] [] [2 ^ 64] [],
    .ackReceive 0 0 0 0 [] [] [] [2 ^ 64],
    .recoveryEntryTimer 0 [⟨0, 0, 32, 0⟩],
    .capControlTick [2 ^ 64] 0,
    .ptpMessage 0 0 (2 ^ 63) true,
    .ptpMessage 0 0 (-2 ^ 63) true] : List Instr).all (fun i => !i.wf) = true := by decide +kernel

theorem test_lists_up_to_4032 (l : List Byte) :
    (Instr.imageWrite 0 0 l).wf = decide (l.length ≤ 4032) :=
  rfl

theorem test_lists_up_to_65536 (l : List Nat) :
    (Instr.sliceHandoff 0 ⟨0, 0, l⟩ false false).wf = (natsWf l 65536 (2 ^ 64))
    ∧ (Instr.sliceDelivered 0 0 l).wf = (natsWf l 65536 (2 ^ 64))
    ∧ (Instr.stageRecordDone 0 l).wf = (natsWf l 65536 (2 ^ 64))
    ∧ (Instr.secureRecordDone 0 l).wf = (natsWf l 65536 (2 ^ 64))
    ∧ (Instr.noticeReceive 0 0 0 0 l).wf = (natsWf l 65536 (2 ^ 64))
    ∧ (Instr.ackReceive 0 0 0 0 l [] [] []).wf = (natsWf l 65536 (2 ^ 64) && true && true && true)
    ∧ (Instr.ackReceive 0 0 0 0 [] l [] []).wf = (natsWf l 65536 (2 ^ 64) && true && true)
    ∧ (Instr.ackReceive 0 0 0 0 [] [] l []).wf = (natsWf l 65536 (2 ^ 64) && true)
    ∧ (Instr.ackReceive 0 0 0 0 [] [] [] l).wf = (natsWf l 65536 (2 ^ 64))
    ∧ (Instr.capControlTick l 0).wf = (natsWf l 65536 (2 ^ 64)) :=
  ⟨rfl, rfl, rfl, rfl, rfl, rfl, rfl, rfl, rfl, rfl⟩

theorem test_lists_up_to_2097152 (l : List Byte) :
    (Instr.hostCwWrite 0 0 0 l).wf = decide (l.length ≤ 2097152)
    ∧ (Instr.hostFlagWrite 0 0 0 0 l).wf = decide (l.length ≤ 2097152)
    ∧ (Instr.hostBucketWrite 0 0 0 0 l).wf = decide (l.length ≤ 2097152)
    ∧ (Instr.cmReq 0 l 0).wf = decide (l.length ≤ 2097152)
    ∧ (Instr.protectedWrite 0 0 l).wf = decide (l.length ≤ 2097152)
    ∧ (Instr.takeoverReceive l).wf = decide (l.length ≤ 2097152)
    ∧ (Instr.arpNdIcmp 0 l).wf = decide (l.length ≤ 2097152) :=
  ⟨rfl, rfl, rfl, rfl, rfl, rfl, rfl⟩

theorem test_long_list_of_numbers (l : List Nat) (n b : Nat) (h : n < l.length) : natsWf l n b = false := by
  simp [natsWf, Nat.not_le.mpr h]

theorem test_long_chunk_payload (l : List Byte) (b : List Bool) (h : 1048576 < l.length) :
    ({ tChunk 0 0 0 with payload := l, poison := b } : Chunk).wf = false := by
  have := Nat.not_le.mpr h
  simp [Chunk.wf, this]

/-- No row of the table has bits. -/
theorem test_no_word_spells_a_command : ∀ n w, decodeTableWord n w = none := fun _ _ => rfl

/-! ### The manual's worked examples -/

/-- What holds of the next state. -/
def tThen (o : Host.Outcome State Fault Refusal) (p : Dev → Bool) : Bool := match o with
  | .next t => p t.m
  | _ => false

/-- Module Anatomy: bank SPB37 of CD5 begins at 0x0405_0250_0000, and HS9 at 0x0120_0000_0000. -/
theorem test_addresses : bankAddr 5 37 = 0x040502500000 ∧ segUnit (0x012000000000 / segBytes) = 9
    ∧ segUnit (0x012000000000 / segBytes - 1) = 8 := by decide

/-- Numerics, one MXFP8 block: the scale byte 0x7C and the elements 0x79 and 0x1A, which decode to 36.0 and 0.009765625. -/
theorem test_mxfp8_block : (quantBlock e4m3 [dec32 0x42160000, dec32 0x3C23D70A]) = (0x7C, [0x79, 0x1A])
    ∧ rne32 (fvScale (fdec e4m3 0x79) (-3)) = 0x42100000 ∧ rne32 (fvScale (fdec e4m3 0x1A) (-3)) = 0x3C200000 := by decide +kernel

/-- Numerics, an update below half a unit: the five steps of the table, with w = 1.5 × 2⁻⁶ and dl = 5 × 2⁻³⁴. -/
theorem test_remainder_table : (List.range 5).foldl (fun (x : List (Nat × Int)) _ =>
      let l := x.getLastD (0x3CC00000, 0)
      let n := masterUpdate l.1 l.2 0x2FA00000
      x ++ [(n.1, n.2.1)]) []
    = [(0x3CC00000, 10240), (0x3CC00000, 20480), (0x3CC00000, 30720), (0x3CC00001, -24576), (0x3CC00001, -14336)] := by decide +kernel

/-- Numerics, R205 and R220: an update that leaves the format is held with its remainder. -/
theorem test_master_overflow : masterUpdate 0x7F7FFFFF 5 0x7F7FFFFF = (0x7F7FFFFF, 5, true) := by decide +kernel

/-- The Turn: a block of 256 BF16 elements with W = 4 takes 386 bytes. -/
theorem test_sbc_block : (sbcBlock false ([118, 4] ++ zeros 400)).2 = 386 := by decide +kernel

/-- Power, a cap cut: with a cap of 4,000 W the duty falls from 64 to 44 at 5,800 W, and from 27 to 26 at 4,007.8 W; it stays at 26 at 3,959.4 W. -/
theorem test_cap_cut : ([(64, 46400, 44), (44, 38650, 32), (32, 34000, 28), (28, 32450, 27), (27, 32062, 26), (26, 31675, 26)]
    : List (Nat × Nat × Nat)).all (fun r =>
      let m : Dev := { tDev with power := { capUnits := 160, dies := (List.range 8).map (fun d => (d, { capDuty := r.1 })) } }
      tThen (exec (.capControlTick [] r.2.1) (tS m)) (fun t => (List.range 8).all (fun d => decide ((pdieAt t d).capDuty = r.2.2)))) = true := by
  decide +kernel

/-- Power, the same example: priming yields first, from level 58 to 45, to 39, to 37, to 36. -/
theorem test_cap_cut_priming : ([(58, 39500, 45), (45, 34950, 39), (39, 32850, 37), (37, 32150, 36)] : List (Nat × Nat × Nat)).all (fun r =>
      let t := govern { tDev with power := {
        capUnits := 160, input := { power := r.2.1 }, dies := (List.range 8).map (fun d => (d, { priming := true, cause := 2, level := r.1 })) } }
      (List.range 8).all (fun d => decide ((pdieAt t d).level = r.2.2) && decide ((pdieAt t d).capDuty = 64))) = true := by
  decide +kernel

/-- The Control Path, a bucket handoff: LAYOUT_LOAD of buckets 40 to 43 while bucket 40 reads HOST is refused with 0x1005 and 40. -/
theorem test_refused_layout :
    let m : Dev := { tDev with
      port := { tPort with parts := [(1, tPart)] }
      jobs := [(15, { id := 0x21, part := 1 })]
      ctl := { flags := (List.range 4).map (fun i => (40 + i, { owner := 1, part := 1, kind := 1, jobSlot := 15 })) } }
    tThen (exec (.layoutLoad 34 0x21 2 0 4 40) (tS m)) (fun t => decide (mbField t 34 16 2 = 0x1005) && decide (mbField t 34 66 2 = 40)
      && !mbOwned t 34) = true := by
  decide +kernel

/-- The Attention Engine, the maximum rises: the maxima 1, 3 and 5, and an output of 3.3816955 to seven figures. -/
theorem test_attention_rows :
    let step := fun (x : Nat × Nat × Nat) (y : Nat × Nat) =>
      let mx := maxCode x.1 y.1
      let a := if x.1 = 0xFF800000 then 0 else exp32 (sub32 x.1 mx)
      (mx, add32 (mul32 x.2.1 a) (exp32 (sub32 y.1 mx)), add32 (mul32 x.2.2 a) (mul32 (exp32 (sub32 y.1 mx)) y.2))
    let r := [(0x3F800000, 0x40000000), (0x40400000, 0xBF800000), (0x40A00000, 0x40800000)].foldl step (0xFF800000, 0, 0)
    r.1 = 0x40A00000 ∧ (match dec32 (div32 r.2.2 r.2.1) with
      | .fin false m e => decide (33816950 * 2 ^ (-e).toNat ≤ m * 10 ^ 7) && decide (m * 10 ^ 7 ≤ 33816960 * 2 ^ (-e).toNat)
      | _ => false) = true := by
  decide +kernel

/-- Power and Identity: what the pins, the timers and the failures of the table's rows without operands do to a module in ACTIVE. -/
theorem test_pins_and_timers : ([
    (.powerBrakeAssert, fun t => t.power.brake && t.power.brakes == 1), (.powerBrakeRelease, fun t => !t.power.brake),
    (.brakeHoldEnd, fun t => !t.power.brakeHold), (.inputShutdown, fun t => decide (t.sys.st = .off)),
    (.resetNLow, fun t => decide (t.sys.st = .off) && t.sys.resetLow), (.resetNHigh, fun t => decide (t.sys.st = .boot)),
    (.wellheadUnresponsive, fun t => decide (t.sys.st = .failed ∧ t.sys.failedReason = 0x30)),
    (.localStrokeTick, fun t => t.ctl.localStroke == 1), (.riskEstimateTick, fun t => t.sys.riskMs == 1),
    (.freqStepTick, fun t => t.power.freq == tDev.power.freq), (.powerStateReached, fun t => powerState t == 0),
    (.p3PacketWake, fun t => powerState t == 0), (.flashOperationDone true, fun t => t.sys.session.isNone)]
    : List (Instr × (Dev → Bool))).all (fun x => tThen (exec x.1 (tS tDev)) x.2) = true := by decide +kernel

/-- Boot and Identity: a start whose watchdog runs out waits 100 ms and begins again. -/
theorem test_start_again :
    (match exec .startWatchdog (tS { sys := { st := .boot, startStep := 4 } }) with
      | .next t => t.m.sys.startWait && tThen (exec .startWaitEnd t) (fun u => decide (u.sys.startStep = 0) && !u.sys.startWait)
      | _ => false) = true := by decide +kernel

end Sys2Proof.Tests
end

section
/-! PROOFS of the family 00_scope: how the bytes of requests and boundary records are read back (R7, R15 to R17, R456), and how every
command answers, is accepted, takes effect or is refused (R21, R23, R74 to R80). -/

namespace Sys2Proof.Machine

/-! ### Fields of a body (R7) -/

/-- R7: the value of some bytes gives the bytes back. -/
theorem leBytes_leNat (l : List Byte) : leBytes l.length (leNat l) = l := by
  induction l with
  | nil => rfl
  | cons x l ih =>
    have hx : BitVec.ofNat 8 (x.toNat + 256 * leNat l) = x := by
      apply BitVec.eq_of_toNat_eq
      rw [BitVec.toNat_ofNat]
      have := x.isLt
      omega
    have hl : (x.toNat + 256 * leNat l) / 256 = leNat l := by
      have := x.isLt
      omega
    rw [List.length_cons, leBytes_succ, leNat, hx, hl, ih]

theorem leNat_lt (l : List Byte) : leNat l < 256 ^ l.length := by
  induction l with
  | nil => simp [leNat]
  | cons x l ih =>
    have := x.isLt
    rw [leNat, List.length_cons, Nat.pow_succ]
    omega

theorem recField_lt (b : List Byte) (o n : Nat) : recField b o n < 256 ^ n :=
  (leNat_lt _).trans_le (Nat.pow_le_pow_right (by decide) (List.length_take_le ..))

@[simp] theorem recField_one_lt (b : List Byte) (o : Nat) : recField b o 1 < 256 := recField_lt b o 1

@[simp] theorem recField_two_lt (b : List Byte) (o : Nat) : recField b o 2 < 65536 := recField_lt b o 2

@[simp] theorem recField_four_lt (b : List Byte) (o : Nat) : recField b o 4 < 4294967296 := recField_lt b o 4

@[simp] theorem recField_eight_lt (b : List Byte) (o : Nat) : recField b o 8 < 18446744073709551616 := recField_lt b o 8

@[simp] theorem recField_sixteen_lt (b : List Byte) (o : Nat) :
    recField b o 16 < 340282366920938463463374607431768211456 := recField_lt b o 16

@[simp] theorem recField_drop (b : List Byte) (k o n : Nat) : recField (b.drop k) o n = recField b (k + o) n := by
  simp [recField, List.drop_drop]

theorem recField_byte (b : List Byte) (k : Nat) (h : k < b.length) : BitVec.ofNat 8 (recField b k 1) = b[k] := by
  rw [recField, List.drop_eq_getElem_cons h, List.take_succ_cons, List.take_zero, leNat, leNat]
  simp

@[simp] theorem length_padTo (n : Nat) (l : List Byte) : (padTo n l).length = n := by
  simp only [padTo, List.length_append, List.length_take, length_zeros]
  omega

theorem padTo_eq_append {n : Nat} {l : List Byte} (h : l.length ≤ n) : padTo n l = l ++ zeros (n - l.length) := by
  rw [padTo, List.take_of_length_le h]

theorem padTo_of_length {n : Nat} {l : List Byte} (h : l.length = n) : padTo n l = l := by
  simp [padTo, ← h, zeros]

@[simp] theorem length_recBytes (b : List Byte) (o n : Nat) : (recBytes b o n).length = n := by
  simp only [recBytes, List.length_append, List.length_take, List.length_drop, length_zeros]
  omega

theorem recBytes_of_le {b : List Byte} {o n : Nat} (h : o + n ≤ b.length) : recBytes b o n = (b.drop o).take n := by
  have hn : ((b.drop o).take n).length = n := by
    rw [List.length_take, List.length_drop]
    omega
  simp [recBytes, hn, zeros]

@[simp] theorem length_readNats (b : List Byte) (o n : Nat) : (readNats b o n).length = n := by simp [readNats]

@[simp] theorem length_natsBytes (n : Nat) (l : List Nat) : (natsBytes n l).length = n := length_padTo ..

/-! ### Bytes that stand in a body -/

/-- The bytes `l` stand in `b` from offset `o`. -/
def LaidAt (b : List Byte) (o : Nat) (l : List Byte) : Prop := l <+: b.drop o

/-- Bytes that stand at the front of a body of their length are the body. -/
theorem eq_of_laidAt {b l : List Byte} (h : LaidAt b 0 l) (hn : l.length = b.length) : l = b :=
  List.IsPrefix.eq_of_length h hn

@[simp] theorem laidAt_nil (b : List Byte) (o : Nat) : LaidAt b o [] := List.nil_prefix

@[simp] theorem laidAt_append (b x y : List Byte) (o : Nat) :
    LaidAt b o (x ++ y) ↔ LaidAt b o x ∧ LaidAt b (o + x.length) y := by
  unfold LaidAt
  constructor
  · rintro ⟨t, ht⟩
    refine ⟨⟨y ++ t, by rw [← ht, List.append_assoc]⟩, t, ?_⟩
    rw [← List.drop_drop, ← ht, List.append_assoc, List.drop_left]
  · rintro ⟨⟨t, ht⟩, ⟨u, hu⟩⟩
    rw [← List.drop_drop, ← ht, List.drop_left] at hu
    exact ⟨u, by rw [List.append_assoc, hu, ht]⟩

theorem laidAt_slice (b : List Byte) (o n : Nat) : LaidAt b o ((b.drop o).take n) := List.take_prefix ..

/-- The bytes of a field stand where the field was read. -/
@[simp] theorem laidAt_field (b : List Byte) (o n : Nat) (h : o + n ≤ b.length) : LaidAt b o (leBytes n (recField b o n)) := by
  have hn : ((b.drop o).take n).length = n := by
    rw [List.length_take, List.length_drop]
    omega
  have := laidAt_slice b o n
  rwa [← leBytes_leNat ((b.drop o).take n), hn] at this

/-- A reserved run that holds no other byte is a run of zeros (R15). -/
@[simp] theorem laidAt_zeros (b : List Byte) (o n : Nat) (hz : runNonzero b (o, n) = false) (h : o + n ≤ b.length) :
    LaidAt b o (zeros n) := by
  have hs : (b.drop o).take n = zeros n := by
    refine List.eq_replicate_iff.mpr ⟨by rw [List.length_take, List.length_drop]; omega, fun x hx => ?_⟩
    simp only [runNonzero, List.any_eq_false, decide_eq_true_eq, not_not] at hz
    exact hz x hx
  exact hs ▸ laidAt_slice b o n

@[simp] theorem laidAt_padTo_recBytes (b : List Byte) (o n : Nat) (h : o + n ≤ b.length) : LaidAt b o (padTo n (recBytes b o n)) := by
  rw [padTo_of_length (length_recBytes b o n), recBytes_of_le h]
  exact laidAt_slice b o n

@[simp] theorem laidAt_natsBytes (b : List Byte) (o n : Nat) (h : o + n ≤ b.length) : LaidAt b o (natsBytes n (readNats b o n)) := by
  have hs : natsBytes n (readNats b o n) = (b.drop o).take n := by
    rw [natsBytes, padTo_of_length (by simp)]
    refine List.ext_getElem (by simp; omega) fun k hk _ => ?_
    simp only [List.length_map, length_readNats] at hk
    simp [readNats, recField_byte b (o + k) (by omega)]
  exact hs ▸ laidAt_slice b o n

/-! ### The parts of bodies that have readers of their own -/

@[simp] theorem natsExact_readNats (b : List Byte) (o n : Nat) : natsExact (readNats b o n) n 256 = true := by
  simp [natsExact, readNats]

@[simp] theorem readPool_wf (b : List Byte) : (readPool b).wf = true := by simp [PoolDesc.wf, readPool]

@[simp] theorem readSecure_wf (b : List Byte) : (readSecure b).wf = true := by simp [SecureReq.wf, readSecure]

@[simp] theorem length_poolBytes (p : PoolDesc) : (poolBytes p).length = 24 := by simp [poolBytes]

/-- R343: the pool description of a GEN_CONFIG body. -/
@[simp] theorem laidAt_poolBytes (b : List Byte) (hl : b.length = 64) (hz : runNonzero b (59, 5) = false) :
    LaidAt b 40 (poolBytes (readPool (b.drop 40))) := by
  simp [poolBytes, readPool, hl, hz]

@[simp] theorem length_secureBytes (r : SecureReq) : (secureBytes r).length = 68 := by
  unfold secureBytes
  simp only [List.length_append, length_leBytes, length_zeros]

/-- The fields of a SECURE_CONFIG body. -/
@[simp] theorem laidAt_secureBytes (b : List Byte) (hl : b.length = 72) (hz : runNonzero b (46, 2) = false) :
    LaidAt b 4 (secureBytes (readSecure b)) := by
  unfold secureBytes
  simp [readSecure, hl, hz]

theorem rootsWf_readRoots (b : List Byte) (n : Nat) : rootsWf n (readRoots b n) = true := by
  simp [rootsWf, readRoots]

/-- The four bytes of a pair: a root entry of COLL_GROUP_SET, or a position and its replacement (R599). -/
def pairBytes (p : Nat × Nat) : List Byte := leBytes 2 p.1 ++ leBytes 2 p.2

@[simp] theorem length_pairBytes (p : Nat × Nat) : (pairBytes p).length = 4 := by simp [pairBytes]

theorem length_pairs (l : List (Nat × Nat)) : (l.flatMap pairBytes).length = 4 * l.length := by
  simp [List.length_flatMap, Nat.mul_comm]

/-- The root entries of a COLL_GROUP_SET body stand where they were read. -/
theorem laidAt_roots (b : List Byte) (k : Nat) (h : 16 + 4 * k ≤ b.length) :
    LaidAt b 16 (((List.range k).map (fun i => (recField b (16 + 4 * i) 2, recField b (18 + 4 * i) 2))).flatMap pairBytes) := by
  induction k with
  | zero => simp
  | succ k ih =>
    rw [List.range_succ, List.map_append, List.flatMap_append, laidAt_append]
    refine ⟨ih (by omega), ?_⟩
    rw [length_pairs, List.length_map, List.length_range]
    simp only [List.map_cons, List.map_nil, List.flatMap_cons, List.flatMap_nil, List.append_nil, pairBytes, laidAt_append,
      length_leBytes]
    refine ⟨laidAt_field b _ 2 (by omega), ?_⟩
    rw [show 16 + 4 * k + 2 = 18 + 4 * k by omega]
    exact laidAt_field b _ 2 (by omega)

/-- The 256 bytes of the root entries, of which those beyond NROOTS are reserved (R513). -/
theorem laidAt_padTo_roots (b : List Byte) (n : Nat) (hl : b.length = 272)
    (hz : runNonzero b (16 + 4 * min n 64, 256 - 4 * min n 64) = false) :
    LaidAt b 16 (padTo 256 ((readRoots b n).flatMap pairBytes)) := by
  have hn : ((readRoots b n).flatMap pairBytes).length = 4 * min n 64 := by
    rw [length_pairs]
    simp [readRoots]
  rw [padTo_eq_append (by omega), laidAt_append, hn]
  exact ⟨laidAt_roots b _ (by omega), laidAt_zeros b _ _ hz (by omega)⟩

/-! ### A request's body is read back (R15 to R17, R108) -/

/-- What a body that gives a command has passed. -/
theorem fixedReq_ok {b : List Byte} {len : Nat} {runs : List (Nat × Nat)} {bits : List (Nat × Nat × Nat)} {i j : Instr}
    (h : fixedReq true b len runs bits i = .ok j) : j = i ∧ b.length = len ∧ ∀ r ∈ runs, runNonzero b r = false := by
  unfold fixedReq at h
  split at h
  · cases h
  · rename_i hl
    split at h
    · cases h
    · rename_i hr
      cases h
      simp only [Bool.true_and, Bool.or_eq_true, List.any_eq_true, not_or, not_exists, not_and, Bool.not_eq_true] at hr
      exact ⟨rfl, not_not.mp hl, hr.1⟩

/-- A command is what the body `b` of a request with opcode `op` in mailbox `mb` says. -/
structure ReadBack (op mb : Nat) (b : List Byte) (i : Instr) : Prop where
  opcode : requestOpcode i = some op
  mailbox : requestMailbox i = some mb
  wf : i.wf = true
  bytes : (op = 0x0801 → bitOf (recField b 6 1) 0 = false) → requestBytes i = b

/-- The command of a fixed row is read back when its operands fit and its bytes stand in the body. -/
theorem fixedReq_readBack {b : List Byte} {op mb len : Nat} {runs : List (Nat × Nat)} {bits : List (Nat × Nat × Nat)} {i j : Instr}
    (h : fixedReq true b len runs bits i = .ok j) (hop : requestOpcode i = some op) (hmb : requestMailbox i = some mb)
    (hwf : i.wf = true)
    (hb : b.length = len → (∀ r ∈ runs, runNonzero b r = false) →
      LaidAt b 0 (requestBytes i) ∧ (requestBytes i).length = b.length) :
    ReadBack op mb b j := by
  obtain ⟨rfl, hl, hr⟩ := fixedReq_ok h
  obtain ⟨hlaid, hlen⟩ := hb hl hr
  exact ⟨hop, hmb, hwf, fun _ => eq_of_laidAt hlaid hlen⟩

theorem readGroupSet_readBack {b : List Byte} {mb : Nat} {i : Instr} (hmb : mb < 256) (h : readGroupSet true b mb = .ok i) :
    ReadBack 0x0801 mb b i := by
  obtain ⟨rfl, hl, hr⟩ := fixedReq_ok h
  refine ⟨rfl, rfl, ?_, fun hdel => ?_⟩
  · unfold Instr.wf
    simp [boundsWf, hmb, rootsWf_readRoots]
  · simp only [hdel rfl] at hr
    have hroots := laidAt_padTo_roots b (recField b 13 1) hl (hr _ (by simp))
    unfold pairBytes at hroots
    have hres := hr (14, 2) (by simp)
    refine eq_of_laidAt ?_ ?_ <;> unfold requestBytes
    · simpa [hl, hres] using hroots
    · simp [hl]

theorem readImageWrite_readBack {b : List Byte} {mb : Nat} {i : Instr} (hmb : mb < 256) (hb : b.length ≤ 4032)
    (h : readImageWrite true b mb = .ok i) : ReadBack 0x0A02 mb b i := by
  unfold readImageWrite at h
  split at h
  · cases h
  · rename_i hl
    have hdata : (b.drop 16).length = recField b 4 2 := by
      rw [List.length_drop]
      omega
    refine fixedReq_readBack h rfl rfl ?_ fun _ hz => ?_
    · have hfit : b.length ≤ 4032 + 16 := by omega
      unfold Instr.wf
      simp [boundsWf, bytesWf, hmb, hfit]
    · have hz := hz (6, 10) (by simp)
      have hbytes : requestBytes (.imageWrite mb (recField b 0 4) (b.drop 16))
          = leBytes 4 (recField b 0 4) ++ leBytes 2 (recField b 4 2) ++ zeros 10 ++ b.drop 16 := by
        rw [← hdata]
        rfl
      rw [hbytes]
      simp only [laidAt_append, List.length_append, length_leBytes, length_zeros]
      exact ⟨⟨⟨⟨laidAt_field b 0 4 (by omega), laidAt_field b 4 2 (by omega)⟩, laidAt_zeros b 6 10 hz (by omega)⟩,
        List.prefix_rfl⟩, by omega⟩

/-- The two rows whose layout depends on their fields have lemmas of their own; every other row is a fixed one, and the last case is
the opcode without a command (R17). -/
theorem decodeRequest_readBack {op mb : Nat} {b : List Byte} {i : Instr} (hmb : mb < 256) (hb : b.length ≤ 4032)
    (h : decodeRequest op mb b = .ok i) : ReadBack op mb b i := by
  unfold decodeRequest readRequest at h
  split at h
  case h_56 => exact readGroupSet_readBack hmb h
  case h_67 => exact readImageWrite_readBack hmb hb h
  case h_79 => cases h
  all_goals
    refine fixedReq_readBack h rfl rfl ?_ fun hl hz => ?_
    · unfold Instr.wf
      simp [boundsWf, hmb]
    · unfold requestBytes
      simp [hl, hz]

/-! ### Fields of bytes that a record is put together from -/

theorem recField_append_left (x y : List Byte) (o n : Nat) (h : o + n ≤ x.length) : recField (x ++ y) o n = recField x o n := by
  rw [recField, recField, List.drop_append_of_le_length (by omega), List.take_append_of_le_length (by rw [List.length_drop]; omega)]

theorem recField_append_right (x y : List Byte) (o n : Nat) (h : x.length ≤ o) :
    recField (x ++ y) o n = recField y (o - x.length) n := by
  rw [recField, recField, List.drop_append, List.drop_eq_nil_of_le h, List.nil_append]

theorem recField_leBytes {n v : Nat} (h : v < 256 ^ n) : recField (leBytes n v) 0 n = v := by
  rw [recField, List.drop_zero, List.take_of_length_le (by simp), leNat_leBytes, Nat.mod_eq_of_lt h]

theorem leNat_zeros (n : Nat) : leNat (zeros n) = 0 := by
  induction n with
  | zero => rfl
  | succ n ih => rw [zeros, List.replicate_succ, leNat, ← zeros, ih]; rfl

theorem recField_zeros (k o n : Nat) : recField (zeros k) o n = 0 := by
  rw [recField, zeros, List.drop_replicate, List.take_replicate]
  exact leNat_zeros _

/-! ### A boundary's record is read back (R456) -/

theorem readItems_zeros (fuel k : Nat) (it : Items) : readItems fuel (zeros k) it = it := by
  cases fuel with
  | zero => rfl
  | succ fuel => rw [readItems, if_pos (.inr (recField_zeros k 0 2))]

theorem recBytes_middle (x y z : List Byte) : recBytes (x ++ y ++ z) x.length y.length = y := by
  rw [recBytes_of_le (by simp), List.append_assoc, List.drop_left, List.take_left]

/-- An item at the front of a record is read, and what follows it is left. -/
theorem readItems_itemBytes (fuel type : Nat) (body rest : List Byte) (it : Items) (ht : type < 65536) (h0 : type ≠ 0)
    (hb : body.length < 65536) :
    readItems (fuel + 1) (itemBytes type body ++ rest) it = readItems fuel rest (readItem type body it) := by
  have htype : recField (itemBytes type body ++ rest) 0 2 = type := by
    rw [itemBytes, recField_append_left _ _ _ _ (by simp), recField_append_left _ _ _ _ (by simp),
      recField_append_left _ _ _ _ (by simp), recField_leBytes (by omega)]
  have hlen : recField (itemBytes type body ++ rest) 2 2 = body.length := by
    rw [itemBytes, recField_append_left _ _ _ _ (by simp; omega), recField_append_left _ _ _ _ (by simp),
      recField_append_right _ _ _ _ (by simp), length_leBytes, recField_leBytes (by omega)]
  have hbody : recBytes (itemBytes type body ++ rest) 4 body.length = body :=
    recBytes_middle (leBytes 2 type ++ leBytes 2 body.length) body rest
  have hrest : (itemBytes type body ++ rest).drop (4 + body.length) = rest :=
    List.drop_left' (by simp [itemBytes]; omega)
  have hl : 4 ≤ (itemBytes type body ++ rest).length := by
    simp only [itemBytes, List.length_append, length_leBytes]
    omega
  rw [readItems, htype, hlen, hbody, hrest, if_neg (by omega)]

/-- The bytes of an item that a record may leave out. -/
def optItem {α : Type} (type : Nat) (body : α → List Byte) (o : Option α) : List Byte :=
  (o.map fun x => itemBytes type (body x)).getD []

/-- An item that a record may leave out is read into the field that `put` sets, and costs at most one unit of fuel. -/
theorem readItems_optItem {α : Type} {type : Nat} {body : α → List Byte} (put : Option α → Items) (o : Option α) {k fuel : Nat}
    (hk : k < fuel) (rest : List Byte) (ht : type < 65536 ∧ type ≠ 0)
    (hsome : ∀ x, o = some x → (body x).length < 65536 ∧ readItem type (body x) (put none) = put (some x)) :
    ∃ f, k ≤ f ∧ readItems fuel (optItem type body o ++ rest) (put none) = readItems f rest (put o) := by
  cases o with
  | none => exact ⟨fuel, by omega, rfl⟩
  | some x =>
    obtain ⟨hlen, hread⟩ := hsome x rfl
    obtain ⟨f, rfl⟩ : ∃ f, fuel = f + 1 := ⟨fuel - 1, by omega⟩
    exact ⟨f, by omega, by rw [← hread]; exact readItems_itemBytes f type (body x) rest (put none) ht.1 ht.2 hlen⟩

/-! ### The items of a record -/

/-- The bytes of a turn transition. -/
def turnBody (t : Nat × Nat) : List Byte := leBytes 1 1 ++ leBytes 1 t.1 ++ leBytes 1 t.2 ++ zeros 1

/-- The bytes of a securing decision. -/
def secureBody (s : Nat × Nat × Nat) : List Byte := leBytes 1 2 ++ leBytes 1 s.1 ++ leBytes 1 s.2.1 ++ zeros 1 ++ leBytes 4 s.2.2

/-- The bytes of a verdict. -/
def verdictBody (r : StepRec) : List Byte :=
  leBytes 4 r.flags ++ leBytes 4 r.count ++ leBytes 4 r.tokens ++ leBytes 4 r.loss ++ leBytes 4 r.sqnorm ++ zeros 12

/-- The bytes of a job-wide command: its opcode and its request body. -/
def jobWideBody (c : Nat × List Byte) : List Byte := leBytes 2 c.1 ++ c.2

/-- A record's items stand one after the other, each of them there or not. -/
theorem itemsBytes_eq (it : Items) : itemsBytes it =
    optItem 2 turnBody it.turn ++ optItem 2 recItemBytes it.recov ++ optItem 2 secureBody it.secure
      ++ optItem 3 verdictBody it.verdict ++ optItem 4 (leBytes 2) it.margin ++ optItem 1 jobWideBody it.jobWide := by
  obtain ⟨turn, recov, secure, verdict, margin, jobWide⟩ := it
  unfold itemsBytes
  congr 1
  · congr 1
    · congr 1
      · congr 1
        · congr 1
          · cases turn <;> rfl
          · cases recov <;> rfl
        · cases secure <;> rfl
      · cases verdict <;> rfl
    · cases margin <;> rfl
  · cases jobWide <;> rfl

/-! ### Each item of a record is read into its field -/

theorem readItem_turnBody (t : Nat × Nat) (h1 : t.1 < 256) (h2 : t.2 < 256) (it : Items) :
    readItem 2 (turnBody t) it = { it with turn := some t } := by
  simp [readItem, turnBody, recField_append_left, recField_append_right, recField_leBytes, h1, h2]

theorem readItem_secureBody (s : Nat × Nat × Nat) (h1 : s.1 < 256) (h2 : s.2.1 < 256) (h3 : s.2.2 < 4294967296) (it : Items) :
    readItem 2 (secureBody s) it = { it with secure := some s } := by
  simp [readItem, secureBody, recField_append_left, recField_append_right, recField_leBytes, h1, h2, h3]

theorem readItem_verdictBody (r : StepRec)
    (h : r.flags < 4294967296 ∧ r.count < 4294967296 ∧ r.tokens < 4294967296 ∧ r.loss < 4294967296 ∧ r.sqnorm < 4294967296)
    (it : Items) :
    readItem 3 (verdictBody r) it = { it with verdict := some r } := by
  obtain ⟨hf, hc, ht, hl, hs⟩ := h
  simp [readItem, verdictBody, recField_append_left, recField_append_right, recField_leBytes, hf, hc, ht, hl, hs]

theorem readItem_marginBytes (n : Nat) (h : n < 65536) (it : Items) : readItem 4 (leBytes 2 n) it = { it with margin := some n } := by
  simp [readItem, recField_leBytes, h]

theorem length_jobWideBody_lt {c : Nat × List Byte} (h : c.2.length < 65534) : (jobWideBody c).length < 65536 := by
  simp only [jobWideBody, List.length_append, length_leBytes]
  omega

theorem readItem_jobWideBody (c : Nat × List Byte) (h : c.1 < 65536) (it : Items) :
    readItem 1 (jobWideBody c) it = { it with jobWide := some c } := by
  have hdrop : (jobWideBody c).drop 2 = c.2 := List.drop_left' (by simp)
  have hop : recField (jobWideBody c) 0 2 = c.1 := by
    simp [jobWideBody, recField_append_left, recField_leBytes, h]
  simp only [readItem, hdrop, hop]

/-! ### A recovery item (R599) -/

/-- The eight bytes with which every recovery item begins. -/
def recItemHead (r : RecItem) : List Byte :=
  leBytes 1 3 ++ leBytes 1 r.action ++ leBytes 1 r.kind ++ leBytes 1 r.attempt ++ leBytes 4 r.generation

theorem length_recItemHead (r : RecItem) : (recItemHead r).length = 8 := by simp [recItemHead]

/-- The fields of the first eight bytes fit them. -/
structure RecItemFits (r : RecItem) : Prop where
  action : r.action < 256
  kind : r.kind < 256
  attempt : r.attempt < 256
  generation : r.generation < 4294967296

/-- The head of a recovery item reads back, whatever follows. -/
theorem recItemHead_fields {r : RecItem} (h : RecItemFits r) (rest : List Byte) :
    recField (recItemHead r ++ rest) 0 1 = 3 ∧ recField (recItemHead r ++ rest) 1 1 = r.action
      ∧ recField (recItemHead r ++ rest) 2 1 = r.kind ∧ recField (recItemHead r ++ rest) 3 1 = r.attempt
      ∧ recField (recItemHead r ++ rest) 4 4 = r.generation := by
  obtain ⟨ha, hk, ht, hg⟩ := h
  simp [recItemHead, recField_append_left, recField_append_right, recField_leBytes, ha, hk, ht, hg]

/-- Pairs read back from four bytes each. -/
theorem chunks_pairBytes (l : List (Nat × Nat)) (h : ∀ p ∈ l, p.1 < 65536 ∧ p.2 < 65536) :
    (chunksOf 4 l.length (l.flatMap pairBytes)).map (fun e => (recField e 0 2, recField e 2 2)) = l := by
  induction l with
  | nil => rfl
  | cons p l ih =>
    obtain ⟨h1, h2⟩ := h p (List.mem_cons_self ..)
    have hne : pairBytes p ++ l.flatMap pairBytes ≠ [] := List.append_ne_nil_of_left_ne_nil
      (List.ne_nil_of_length_pos (by simp)) _
    have hp : (recField (pairBytes p) 0 2, recField (pairBytes p) 2 2) = p := by
      simp [pairBytes, recField_append_left, recField_append_right, recField_leBytes, h1, h2]
    rw [List.flatMap_cons, List.length_cons, chunksOf, List.take_left' (length_pairBytes p),
      List.drop_left' (length_pairBytes p), List.map_cons, hp, ih (fun q hq => h q (List.mem_cons_of_mem _ hq))]
    exact hne

/-- What it is for a recovery item to come back from its bytes: as an item of a boundary record it is read whole. -/
structure RecItemReadBack (r : RecItem) : Prop where
  item : readRecItem (recItemBytes r) = r
  kind : recField (recItemBytes r) 0 1 = 3
  short : (recItemBytes r).length < 65536

/-- A TAKEOVER item carries pairs of positions. -/
theorem takeover_readBack {r : RecItem} (h : RecItemFits r) (ha : r.action = 2) (hn : r.pairs.length < 256)
    (hp : ∀ p ∈ r.pairs, p.1 < 65536 ∧ p.2 < 65536) (hv : r.verify = false) (hl : r.refLoss = 0) : RecItemReadBack r := by
  have hbytes : recItemBytes r = recItemHead r ++ (leBytes 1 r.pairs.length ++ zeros 3 ++ r.pairs.flatMap pairBytes) := by
    simp only [recItemBytes, ha, recItemHead]
    rfl
  have hcount : recField (recItemBytes r) 8 1 = r.pairs.length := by
    rw [hbytes]
    simp [recField_append_left, recField_append_right, length_recItemHead, recField_leBytes, hn]
  have hdrop : (recItemBytes r).drop 12 = r.pairs.flatMap pairBytes := by
    rw [hbytes, ← List.append_assoc]
    exact List.drop_left' (by simp [length_recItemHead])
  obtain ⟨f0, f1, f2, f3, f4⟩ := hbytes ▸ recItemHead_fields h _
  refine ⟨?_, f0, ?_⟩
  · simp only [readRecItem, f1, f2, f3, f4, hcount, hdrop, chunks_pairBytes _ hp, ha]
    cases r
    simp_all
  · rw [hbytes]
    simp only [List.length_append, length_recItemHead, length_leBytes, length_zeros, length_pairs]
    omega

/-- A RESTORE item carries a loss to verify. -/
theorem restore_readBack {r : RecItem} (h : RecItemFits r) (ha : r.action = 3) (hp : r.pairs = []) (hl : r.refLoss < 4294967296) :
    RecItemReadBack r := by
  have hbytes : recItemBytes r = recItemHead r ++ (leBytes 1 (b2n r.verify) ++ zeros 3 ++ leBytes 4 r.refLoss) := by
    simp only [recItemBytes, ha, recItemHead]
  have hb : b2n r.verify < 256 := by cases r.verify <;> decide
  have hverify : recField (recItemBytes r) 8 1 = b2n r.verify := by
    rw [hbytes]
    simp [recField_append_left, recField_append_right, length_recItemHead, recField_leBytes, hb]
  have hloss : recField (recItemBytes r) 12 4 = r.refLoss := by
    rw [hbytes]
    simp [recField_append_right, length_recItemHead, recField_leBytes, hl]
  obtain ⟨f0, f1, f2, f3, f4⟩ := hbytes ▸ recItemHead_fields h _
  refine ⟨?_, f0, ?_⟩
  · have hdec : decide (b2n r.verify = 1) = r.verify := by cases r.verify <;> rfl
    simp only [readRecItem, f1, f2, f3, f4, hverify, hloss, hdec, ha]
    cases r
    simp_all
  · rw [hbytes]
    simp [length_recItemHead]

/-- Every other item is its head. -/
theorem otherItem_readBack {r : RecItem} (h : RecItemFits r) (h2 : r.action ≠ 2) (h3 : r.action ≠ 3) (hp : r.pairs = [])
    (hv : r.verify = false) (hl : r.refLoss = 0) : RecItemReadBack r := by
  have hbytes : recItemBytes r = recItemHead r ++ [] := by
    unfold recItemBytes
    split
    · contradiction
    · contradiction
    · rfl
  obtain ⟨f0, f1, f2, f3, f4⟩ := hbytes ▸ recItemHead_fields h []
  refine ⟨?_, f0, ?_⟩
  · unfold readRecItem
    simp only [f1, f2, f3, f4]
    cases r
    simp_all
  · rw [hbytes]
    simp [length_recItemHead]

/-- R599: a recovery item with room for its values is read back. -/
theorem recItem_readBack {r : RecItem} (h : RecItemFits r)
    (hpairs : if r.action = 2 then r.pairs.length < 256 ∧ ∀ p ∈ r.pairs, p.1 < 65536 ∧ p.2 < 65536 else r.pairs = [])
    (hverify : if r.action = 3 then r.refLoss < 2 ^ 32 else r.verify = false ∧ r.refLoss = 0) : RecItemReadBack r := by
  by_cases h2 : r.action = 2
  · rw [if_pos h2] at hpairs
    rw [if_neg (by omega)] at hverify
    exact takeover_readBack h h2 hpairs.1 hpairs.2 hverify.1 hverify.2
  · rw [if_neg h2] at hpairs
    by_cases h3 : r.action = 3
    · rw [if_pos h3] at hverify
      exact restore_readBack h h3 hpairs hverify
    · rw [if_neg h3] at hverify
      exact otherItem_readBack h h2 h3 hpairs hverify.1 hverify.2

theorem readItem_recItemBytes {r : RecItem} (h : RecItemReadBack r) (it : Items) :
    readItem 2 (recItemBytes r) it = { it with recov := some r } := by
  simp only [readItem, h.kind, h.item]

/-! ### The whole record -/

/-- R456: each item of a boundary record has room for its values. -/
structure ItemsFit (it : Items) : Prop where
  turn : ∀ t, it.turn = some t → t.1 < 256 ∧ t.2 < 256
  recov : ∀ r, it.recov = some r → RecItemReadBack r
  secure : ∀ x, it.secure = some x → x.1 < 256 ∧ x.2.1 < 256 ∧ x.2.2 < 2 ^ 32
  verdict : ∀ r, it.verdict = some r →
    r.flags < 2 ^ 32 ∧ r.count < 2 ^ 32 ∧ r.tokens < 2 ^ 32 ∧ r.loss < 2 ^ 32 ∧ r.sqnorm < 2 ^ 32
  margin : ∀ n, it.margin = some n → n < 65536
  jobWide : ∀ c, it.jobWide = some c → c.1 < 65536 ∧ c.2.length < 65534

/-- The items of a record are read one after the other, up to the zeros that end it. -/
theorem readItems_itemsBytes {it : Items} (h : ItemsFit it) (k : Nat) : readItems 64 (itemsBytes it ++ zeros k) {} = it := by
  rw [itemsBytes_eq]
  simp only [List.append_assoc]
  obtain ⟨turn, recov, secure, verdict, margin, jobWide⟩ := it
  obtain ⟨f1, h1, e1⟩ := readItems_optItem (type := 2) (fun o => { turn := o }) turn (by decide : 5 < 64) _ (by decide)
    fun t e => ⟨by simp [turnBody], readItem_turnBody t (h.turn t e).1 (h.turn t e).2 _⟩
  obtain ⟨f2, h2, e2⟩ := readItems_optItem (type := 2) (fun o => { turn := turn, recov := o }) recov (by omega : 4 < f1) _ (by decide)
    fun r e => ⟨(h.recov r e).short, readItem_recItemBytes (h.recov r e) _⟩
  obtain ⟨f3, h3, e3⟩ := readItems_optItem (type := 2) (fun o => { turn := turn, recov := recov, secure := o }) secure
    (by omega : 3 < f2) _ (by decide)
    fun x e => ⟨by simp [secureBody], readItem_secureBody x (h.secure x e).1 (h.secure x e).2.1 (h.secure x e).2.2 _⟩
  obtain ⟨f4, h4, e4⟩ := readItems_optItem (type := 3)
    (fun o => { turn := turn, recov := recov, secure := secure, verdict := o }) verdict (by omega : 2 < f3) _ (by decide)
    fun r e => ⟨by simp [verdictBody], readItem_verdictBody r (h.verdict r e) _⟩
  obtain ⟨f5, h5, e5⟩ := readItems_optItem (type := 4)
    (fun o => { turn := turn, recov := recov, secure := secure, verdict := verdict, margin := o }) margin (by omega : 1 < f4) _ (by decide)
    fun n e => ⟨by simp, readItem_marginBytes n (h.margin n e) _⟩
  obtain ⟨f6, h6, e6⟩ := readItems_optItem (type := 1)
    (fun o => { turn := turn, recov := recov, secure := secure, verdict := verdict, margin := margin, jobWide := o }) jobWide
    (by omega : 0 < f5) (zeros k) (by decide)
    fun c e => ⟨length_jobWideBody_lt (h.jobWide c e).2, readItem_jobWideBody c (h.jobWide c e).1 _⟩
  exact e1.trans (e2.trans (e3.trans (e4.trans (e5.trans (e6.trans (readItems_zeros ..))))))

/-- R456: a record is its items and the zeros that end it. -/
theorem boundaryRecord_eq (it : Items) : ∃ k, boundaryRecord it = itemsBytes it ++ zeros k := by
  unfold boundaryRecord
  simp only
  split
  · rename_i h
    exact ⟨0, by rw [List.isEmpty_iff.mp h]; rfl⟩
  · exact ⟨_, padTo_eq_append (by omega)⟩

theorem readItems_boundaryRecord {it : Items} (h : ItemsFit it) : readItems 64 (boundaryRecord it) {} = it := by
  obtain ⟨k, hk⟩ := boundaryRecord_eq it
  rw [hk]
  exact readItems_itemsBytes h k

/-- Settles O57: a row's fields and reserved runs lie side by side in its body, so its command writes the same bytes again; and each
item of a record is read into its own field, whatever follows it. -/
theorem requestsAndRecordsAreReadBack : Obligations.RequestsAndRecordsAreReadBack := by
  refine ⟨fun op mb b i hmb hb h => ?_, fun it ht hs hm hv hr hj => ?_⟩
  · obtain ⟨hop, hmail, hwf, hbytes⟩ := decodeRequest_readBack hmb hb h
    exact ⟨hop, hmail, hwf, hbytes⟩
  · refine readItems_boundaryRecord ⟨ht, fun r e => ?_, hs, hv, hm, hj⟩
    obtain ⟨ha, hk, hat, hg, hpairs, hverify⟩ := hr r e
    exact recItem_readBack ⟨ha, hk, hat, hg⟩ hpairs hverify

/-! ### The one frame of every row -/

/-- Every row of the table has one frame: operands that fit give a next state with the same queue, others the one fault. -/
theorem exec_answers (c : Instr) (s : State) :
    ∃ nv m, exec c s = if c.wf = true then .next { s with nv := nv, m := m } else .fault .illFormed := by
  cases c <;> exact ⟨_, _, rfl⟩

/-- A row that is framed and whose operands fit answers its next state. -/
theorem exec_next {c : Instr} {s t : State} (h : exec c s = if c.wf = true then .next t else .fault .illFormed) (hw : c.wf = true) :
    exec c s = .next t := h.trans (if_pos hw)

/-- A row of the module whose next state is not named. -/
theorem exec_onDev {c : Instr} {f : Dev → Dev} {s : State} (h : exec c s = onDev c f s) (hw : c.wf = true) :
    ∃ m, exec c s = .next { s with m := m } := ⟨_, h.trans (onDev_next f s hw)⟩

/-- Settles O2: each row is its operation in the one frame of `exec_answers`. -/
theorem wellFormedCommandsAnswerNext : Obligations.WellFormedCommandsAnswerNext := by
  refine ⟨fun c s => ?_, fun s => ?_⟩
  · obtain ⟨nv, m, h⟩ := exec_answers c s
    exact ⟨fun hw => ⟨nv, m, exec_next h hw⟩, fun hw => h.trans (if_neg (by simp [hw]))⟩
  · and_intros
    all_goals intros
    -- rows of the vector engines that name no next state
    any_goals refine exec_onDev (by rfl) ?_
    -- rows that name theirs
    any_goals refine exec_next (by rfl) ?_
    -- the operands fit by hypothesis, or there are none
    any_goals assumption
    all_goals rfl

/-! ### The rows of mailbox commands -/

/-- A mailbox command that `specOf` knows meets its acceptance checks on the module. -/
theorem exec_specOf {i : Instr} {c : CmdSpec} (h : specOf i = some c) (s : State) : exec i s = onDev i (runCmd c) s := by
  unfold specOf at h
  split at h
  case h_73 => cases h
  all_goals cases h; rfl

/-- No query acts on a whole job. -/
theorem query_not_jobWide {i : Instr} {c : CmdSpec} (h : specOf i = some c) (hq : c.query = true) : c.jobWide = false := by
  have hboth : (c.query && c.jobWide) = false := by
    unfold specOf at h
    split at h
    case h_73 => cases h
    all_goals cases h; rfl
  simpa [hq] using hboth

theorem specAll_of_specOf {i : Instr} {c : CmdSpec} (h : specOf i = some c) (nv : NonVol) : specAll nv i = some c := by
  unfold specAll
  split
  case h_7 => exact h
  all_goals cases h

/-- Only the image service, which `specOf` leaves out, writes the flash (R697). -/
theorem imageEffect_of_specOf {i : Instr} {c : CmdSpec} (h : specOf i = some c) (nv : NonVol) : imageEffect i nv = nv := by
  unfold imageEffect
  split
  case h_3 => rfl
  all_goals cases h

theorem withFlash_of_specOf {i : Instr} {c : CmdSpec} (h : specOf i = some c) (f : Dev → Dev) (nv : NonVol) (m : Dev) :
    withFlash i f nv m = (nv, f m) := by
  rw [withFlash, imageEffect_of_specOf h, ite_self]

/-- R23: a request of the local stroke that still waits meets the checks of R78, and the flash stays as it is. -/
theorem applyLocal_of_specOf {a : Accepted} {c : CmdSpec} {x : NonVol × Dev} (h : specOf a.cmd = some c)
    (ha : a ∈ x.2.ctl.accepted) (n : Nat) :
    applyLocal n x a = (x.1, applyAccepted c (updCtl x.2 (fun t => { t with accepted := t.accepted.erase a })) none a.stroke n) := by
  obtain ⟨cmd, mb, slot, stroke⟩ := a
  unfold applyLocal
  rw [if_neg (not_not.mpr ha)]
  simp only at h ⊢
  split
  · cases h
  · simp only [specAll_of_specOf h]
    exact withFlash_of_specOf h ..

/-! ### Acceptance and the boundary (R74, R75, R77) -/

theorem mem_of_acceptedOf {m : Dev} {st : Option Nat} {a : Accepted} {l : List Accepted} (h : acceptedOf m st = a :: l) :
    a ∈ m.ctl.accepted := (List.mem_filter.mp (h ▸ List.mem_cons_self ..)).1

/-- R187: without an array self-test nothing is held back. -/
theorem mayApply_of_selftest {m : Dev} (h : m.sys.selftest = none) (a : Accepted) : mayApply m a = true := by
  unfold mayApply
  split
  · rw [h]; rfl
  · rfl

/-- What the requests that wait for the local stroke do at its boundary. -/
def localApplied (nv : NonVol) (m : Dev) : NonVol × Dev :=
  ((acceptedOf (localEnds m) none).filter (mayApply (localEnds m))).foldl (applyLocal (localEnds m).ctl.localStroke) (nv, localEnds m)

/-- Where local strokes run, the stroke ends, the requests have their effect, and requests without a job are answered. -/
theorem localTick_running {m : Dev} (h : m.sys.st ∈ [.minimal, .ready, .active, .quiesced]) (nv : NonVol) :
    localTick nv m = ((localApplied nv m).1, answerUnbound (localApplied nv m).2) := by
  unfold localTick
  split
  case h_4 => rfl
  all_goals
    rename_i hst
    rw [hst] at h
    exact absurd h (by decide)

theorem localEnds_localStroke (m : Dev) : (localEnds m).ctl.localStroke = (m.ctl.localStroke + 1) % 2 ^ 64 := by
  unfold localEnds
  simp only [updCtl_ctl]

/-- A request that waits alone for the local stroke has its effect and stages its reply (R75, R79). -/
theorem localApplied_one {nv : NonVol} {m : Dev} {a : Accepted} {c : CmdSpec} (h : specOf a.cmd = some c)
    (hself : (localEnds m).sys.selftest = none) (hacc : acceptedOf (localEnds m) none = [a])
    (hck : recheckErr c (updCtl (localEnds m) (fun t => { t with accepted := t.accepted.erase a })) = none) :
    localApplied nv m = (nv, stageReply c (c.apply (updCtl (localEnds m) (fun t => { t with accepted := t.accepted.erase a }))) none
      a.stroke ((m.ctl.localStroke + 1) % 2 ^ 64)) := by
  have hmay : [a].filter (mayApply (localEnds m)) = [a] := by simp [mayApply_of_selftest hself]
  rw [localApplied, hacc, hmay, List.foldl_cons, List.foldl_nil, applyLocal_of_specOf (x := (nv, localEnds m)) h (mem_of_acceptedOf hacc),
    applyAccepted_applies _ _ _ _ _ hck, localEnds_localStroke]

theorem exec_localStrokeTick (s : State) : exec .localStrokeTick s =
    .next { s with nv := (resetDeferred (localTick s.nv s.m).1 (localTick s.nv s.m).2).1
                   m := (resetDeferred (localTick s.nv s.m).1 (localTick s.nv s.m).2).2 } :=
  onBoot_next (c := .localStrokeTick) (fun nv m => resetDeferred (localTick nv m).1 (localTick nv m).2) s rfl

/-- R74: a command that is not job-wide holds its buckets and waits for the boundary of its stream. -/
theorem queueCmd_timed {c : CmdSpec} (h : c.jobWide = false) (m : Dev) :
    queueCmd c m = { m with ctl := { m.ctl with
        holds := m.ctl.holds ++ c.buckets.map (fun b => { bucket := b, mb := c.mb })
        accepted := m.ctl.accepted ++ [{
          cmd := c.cmd, mb := c.mb, slot := specStream c m, stroke := strokeOf m (specStream c m) }] } } := by
  simp only [queueCmd, h]
  rfl

/-- R75: a job-wide command waits at the origin's job for its next boundary. -/
theorem jobAt_queueCmd {c : CmdSpec} {m : Dev} {js : Nat} {j : Job} (hw : c.jobWide = true) (hj : specJob c m = some (js, j)) :
    jobAt (queueCmd c m) js = (jobAt m js).map (fun j => { j with
          jobWide := some { cmd := c.cmd, mb := c.mb, slot := some js, stroke := strokeOf m (specStream c m) } }) := by
  have hj' : specJob c (takeBuckets m c.mb c.buckets) = some (js, j) := hj
  simp only [queueCmd, hw, hj']
  exact jobAt_updJob_same ..

theorem applyOne_applies {c : CmdSpec} {m : Dev} {a : Accepted} (h : specOf a.cmd = some c) (ha : a ∈ m.ctl.accepted)
    (hck : recheckErr c (updCtl m (fun t => { t with accepted := t.accepted.erase a })) = none) (js n : Nat) :
    applyOne js n m a = stageReply c (c.apply (updCtl m (fun t => { t with accepted := t.accepted.erase a }))) (some js) a.stroke n := by
  unfold applyOne
  rw [if_neg (not_not.mpr ha)]
  simp only [h]
  exact applyAccepted_applies _ _ _ _ _ hck

theorem applyWaiting_one {c : CmdSpec} {m : Dev} {js : Nat} {a : Accepted} (h : specOf a.cmd = some c) (hacc : acceptedOf m (some js) = [a])
    (hck : recheckErr c (updCtl m (fun t => { t with accepted := t.accepted.erase a })) = none) :
    applyWaiting js m = stageReply c (c.apply (updCtl m (fun t => { t with accepted := t.accepted.erase a }))) (some js) a.stroke
          (strokeOf m (some js)) := by
  rw [applyWaiting, hacc, List.foldl_cons, List.foldl_nil]
  exact applyOne_applies h (mem_of_acceptedOf hacc) hck js _

theorem jobWideHere_applies {c : CmdSpec} {m : Dev} {js : Nat} {a : Accepted} (h : specOf a.cmd = some c)
    (hj : (jobAt m js).bind (·.jobWide) = some a) (hck : recheckErr c (updJob m js (fun j => { j with jobWide := none })) = none) :
    jobWideHere js m = stageReply c (c.apply (updJob m js (fun j => { j with jobWide := none }))) (some js) a.stroke
          (strokeOf m (some js)) := by
  unfold jobWideHere
  simp only [hj, h]
  exact applyAccepted_applies _ _ _ _ _ hck

/-- Settles O6: acceptance queues the command, and at the boundary its one request passes the checks of R78 and is applied. -/
theorem acceptedCommandsTakeEffect : Obligations.AcceptedCommandsTakeEffect := by
  refine ⟨?_, ?_, ?_, ?_, ?_⟩
  · intro i c s hi hwf hun hbusy hacc hq
    rw [exec_specOf hi, onDev_next _ _ hwf, runCmd_accepted c s.m hun hbusy hacc hq]
  · exact fun c m => ⟨fun h => queueCmd_timed h m, fun js j hw _ hj => jobAt_queueCmd hw hj⟩
  · rintro i c s a m hi rfl hst hself hacc rfl hck
    refine ⟨_, exec_localStrokeTick s, rfl, ?_⟩
    rw [localTick_running hst, localApplied_one hi hself hacc hck]
  · rintro i c m js a hi rfl
    exact ⟨fun hacc hck => applyWaiting_one hi hacc hck, fun hj hck => jobWideHere_applies hi hj hck⟩
  · intro c a accept n hwait
    exact ⟨_, stageReply_replies c a accept n hwait, rfl, rfl, rfl, rfl, rfl, rfl, rfl⟩

/-! ### Answers at once (R21, R80) -/

/-- An answer at once changes only the control window, the event areas and what is sent. -/
theorem answerNow_frame (c : CmdSpec) (m : Dev) (status : Nat) (body : List Byte) :
    answerNow c m status body = { m with
      ctl := { m.ctl with cw := (answerNow c m status body).ctl.cw, areas := (answerNow c m status body).ctl.areas }
      out := (answerNow c m status body).out } := by
  obtain ⟨cw, areas, out, h⟩ : ∃ cw areas out, answerNow c m status body =
      { m with ctl := { m.ctl with cw := cw, areas := areas }, out := out } := writeReply_frame m _
  rw [h]

theorem mbField_answerNow_status (c : CmdSpec) (m : Dev) (status : Nat) (body : List Byte) :
    mbField (answerNow c m status body) c.mb 16 2 = status % 65536 := mbField_writeReply_status m _

theorem mbOwned_answerNow (c : CmdSpec) (m : Dev) (status : Nat) (body : List Byte) :
    mbOwned (answerNow c m status body) c.mb = false := mbOwned_writeReply m _

theorem jobWideBusy_of_query {i : Instr} {c : CmdSpec} (h : specOf i = some c) (hq : c.query = true) (m : Dev) :
    jobWideBusy c m = false := by
  simp [jobWideBusy, query_not_jobWide h hq]

/-- R21: a refused command is answered in its row. -/
theorem exec_refused {i : Instr} {c : CmdSpec} {s : State} {e : Err} (hi : specOf i = some c) (hwf : i.wf = true)
    (hun : unreached s.m c.opcode c.mb = false) (hbusy : jobWideBusy c s.m = false) (hacc : acceptErr c s.m = some e) :
    exec i s = .next { s with m := answerNow c s.m e.status (errBody c s.m e) } := by
  rw [exec_specOf hi, onDev_next _ _ hwf, runCmd_refused c s.m e hun hbusy hacc]

/-- The body with which a query answers. -/
def queryBody (c : CmdSpec) (m : Dev) : List Byte :=
  if (c.apply (reported c m)).status / 4096 = 1 then stateBody m c.job (c.apply (reported c m)).obj else (c.apply (reported c m)).body

/-- What a query leaves: its answer, after the free values that its report drew. -/
def queryAnswer (c : CmdSpec) (m : Dev) : Dev :=
  answerNow c { m with free := (c.apply (reported c m)).m.free } (c.apply (reported c m)).status (queryBody c m)

theorem queryAnswer_frame (c : CmdSpec) (m : Dev) :
    queryAnswer c m = { m with
      ctl := { m.ctl with cw := (queryAnswer c m).ctl.cw, areas := (queryAnswer c m).ctl.areas }
      out := (queryAnswer c m).out, free := (queryAnswer c m).free } := by
  unfold queryAnswer
  rw [answerNow_frame]

/-- R80: a query is answered in its row. -/
theorem exec_query {i : Instr} {c : CmdSpec} {s : State} (hi : specOf i = some c) (hwf : i.wf = true)
    (hun : unreached s.m c.opcode c.mb = false) (hacc : acceptErr c s.m = none) (hq : c.query = true) :
    exec i s = .next { s with m := queryAnswer c s.m } := by
  rw [exec_specOf hi, onDev_next _ _ hwf, runCmd_query c s.m hun (jobWideBusy_of_query hi hq s.m) hacc hq]
  rfl

/-- Settles O7: both answers are one `answerNow`, whose frame and STATUS are those of the reply that it writes. -/
theorem refusalsAndQueriesAnswerAtOnce : Obligations.RefusalsAndQueriesAnswerAtOnce := by
  refine ⟨fun i c s e hi hwf hun hbusy hacc => ?_, fun i c s hi hwf hun hacc hq => ?_⟩
  · exact ⟨_, exec_refused hi hwf hun hbusy hacc, rfl, rfl, answerNow_frame .., mbField_answerNow_status .., mbOwned_answerNow ..⟩
  · exact ⟨_, exec_query hi hwf hun hacc hq, rfl, rfl, queryAnswer_frame .., mbField_answerNow_status .., mbOwned_answerNow ..⟩

end Sys2Proof.Machine
end

section
/-! PROOFS of the family 02_strokes_states_phases: how a step runs its command, what stands after reset, what a mailbox reads after a
reply (R99, R105), and who may give a job-wide command (R76). -/

namespace Sys2Proof.Machine

/-- Settles O1: `step` on a queue with a front is `exec` by definition. -/
theorem stepRunsFrontCommand : Obligations.StepRunsFrontCommand := by
  intro c rest s h
  rw [step, h]

/-- Settles O5: the reset state lists nothing, so every table reads its default. -/
theorem resetState : Obligations.ResetState := by
  unfold Obligations.ResetState
  refine ⟨⟨rfl, by decide, Nat.zero_le _⟩, rfl, rfl, rfl, rfl, fun _ => rfl, rfl, rfl, rfl, rfl, fun b hb => ?_, rfl,
    fun _ _ => ⟨rfl, rfl, rfl⟩, fun _ => ⟨rfl, rfl, rfl⟩, fun _ => rfl, fun _ => ⟨rfl, rfl⟩⟩
  rw [flagAt, if_neg hb]
  rfl

/-! ### The body of a reply (R99, R105) -/

/-- R105: the bytes of a reply's body stand in the mailbox from offset 64. -/
theorem cwByte_writeReply_body (m : Dev) (r : Reply) (i : Nat) (h : i < r.body.length) :
    cwByte (writeReply m r) (r.mb * 4096 + 64 + i) = r.body[i] := by
  rw [cwByte_writeReply, cwByte_cwWrite_out _ _ _ _ (by simp; omega), cwByte_cwWrite_out _ _ _ _ (by simp; omega),
    cwByte_cwWrite_out _ _ _ _ (by simp; omega), cwByte_cwWrite_in _ _ _ _ h]

/-- A field of a reply's body reads back from the mailbox. -/
theorem mbField_writeReply_body (m : Dev) (r : Reply) (k n : Nat) (h : k + n ≤ r.body.length) :
    mbField (writeReply m r) r.mb (64 + k) n = recField r.body k n := by
  have hbytes : mbRead (writeReply m r) r.mb (64 + k) n = (r.body.drop k).take n := by
    refine List.ext_getElem (by simp [mbRead]; omega) fun i hi _ => ?_
    simp only [mbRead, List.length_map, List.length_range] at hi
    simp only [mbRead, List.getElem_map, List.getElem_range, List.getElem_take, List.getElem_drop]
    rw [← cwByte_writeReply_body m r (k + i) (by omega)]
    congr 1
    omega
  rw [mbField, hbytes, recField]

/-! ### Only the origin takes job-wide commands (R76) -/

/-- R89: OBJECT_STATE is bytes 2 and 3 of the body. -/
theorem recField_stateBody_object (m : Dev) (job : Option Nat) (obj : Nat) (h : obj < 65536) :
    recField (stateBody m job obj) 2 2 = obj := by
  unfold stateBody
  simp only [List.append_assoc]
  rw [recField_append_right _ _ _ _ (by simp), recField_append_right _ _ _ _ (by simp), recField_append_left _ _ _ _ (by simp),
    length_leBytes, length_leBytes, recField_leBytes h]

theorem length_stateBody (m : Dev) (job : Option Nat) (obj : Nat) : (stateBody m job obj).length = 32 := by
  unfold stateBody
  simp

/-- The six job-wide commands narrow no module states; their opcodes are of the families 3, 5, 6 and 7. -/
theorem jobWide_opcode {i : Instr} {c : CmdSpec} (h : specOf i = some c) (hw : c.jobWide = true) :
    c.states = none ∧ (c.opcode = 0x0303 ∨ c.opcode = 0x0304 ∨ c.opcode = 0x0503 ∨ c.opcode = 0x0601 ∨ c.opcode = 0x0602
      ∨ c.opcode = 0x0702) := by
  have hrow : (!c.jobWide || (c.states.isNone && (c.opcode == 0x0303 || c.opcode == 0x0304 || c.opcode == 0x0503
      || c.opcode == 0x0601 || c.opcode == 0x0602 || c.opcode == 0x0702))) = true := by
    unfold specOf at h
    split at h
    case h_73 => cases h
    all_goals cases h; rfl
  simpa [hw, or_assoc] using hrow

/-- R91: every job-wide command is legal in an ACTIVE module. -/
theorem active_of_jobWide {i : Instr} {c : CmdSpec} (h : specOf i = some c) (hw : c.jobWide = true) :
    ModuleState.active ∈ c.states.getD (familyStates c.opcode) := by
  obtain ⟨hs, hop⟩ := jobWide_opcode h hw
  rw [hs]
  rcases hop with h | h | h | h | h | h <;> rw [h] <;> decide

/-- R76: at a module that is not the origin, a job-wide command passes the checks before the origin's and fails that one. -/
theorem acceptErr_notOrigin {i : Instr} {c : CmdSpec} {m : Dev} {slot : Nat} {j : Job} (hi : specOf i = some c)
    (hw : c.jobWide = true) (hj : specJob c m = some (slot, j)) (ho : j.isOrigin = false) (hst : m.sys.st = .active)
    (hpow : powerAllows m c.opcode c.mb = true) (hsec : secErr c m = none) (hpar : parErr c m = none) :
    acceptErr c m = some { status := 0x1003, obj := j.origin } := by
  have hadmin : ensure (!c.admin || decide (c.mb / 32 = 0)) 0x7002 = none := by
    cases e : ensure (!c.admin || decide (c.mb / 32 = 0)) 0x7002 with
    | none => rfl
    | some x => rw [secErr, e, firstErr] at hsec; cases hsec
  have hserved : unserved c m = none := by simp [unserved, servedHere, hst, ensure]
  have hsta : staErr c m = some { status := 0x1003, obj := j.origin } := by
    simp [staErr, firstErr, ensure, hpow, hst, active_of_jobWide hi hw, hw, hj, ho]
  simp only [acceptErr, hadmin, hserved, hsec, hpar, hsta, firstErr]

/-- Settles O58: the origin's check is the first that fails, and its answer is the reply of R89. -/
theorem jobWideCommandsNeedTheOrigin : Obligations.JobWideCommandsNeedTheOrigin := by
  intro i c s slot j hi hwf hw hj ho hpos hst hpow hsec hpar hun
  have hbusy : jobWideBusy c s.m = false := by simp [jobWideBusy, hj, ho]
  have hacc := acceptErr_notOrigin hi hw hj ho hst hpow hsec hpar
  refine ⟨_, exec_refused hi hwf hun hbusy hacc, mbField_answerNow_status .., ?_, mbOwned_answerNow .., ?_⟩
  · have hbody : errBody c s.m { status := 0x1003, obj := j.origin } = stateBody s.m c.job j.origin := by simp [errBody]
    rw [hbody, answerNow, mbField_writeReply_body _ _ 2 2 (by rw [length_stateBody]; omega), recField_stateBody_object _ _ _ hpos]
  · exact congrArg (fun m => { s with m := m }) (answerNow_frame c s.m _ _)

end Sys2Proof.Machine
end

section
/-! PROOFS of the family 02_strokes_states_phases: the image service (R697, R698). -/

namespace Sys2Proof.Machine

/-! ### What the flash holds after a write -/

/-- Setting keys one after the other: a key of the run reads its byte, and every other key what it read before. -/
theorem tget_foldl_tset (l : List Byte) (t : Tab Byte) (a b k : Nat) :
    tget 0xFF ((List.zip (List.range' b l.length) l).foldl (fun t x => tset 0xFF t (a + x.1) x.2) t) k
      = if a + b ≤ k ∧ k < a + b + l.length then l.getD (k - (a + b)) 0 else tget 0xFF t k := by
  induction l generalizing t b with
  | nil =>
    rw [if_neg (by simp)]
    rfl
  | cons y l ih =>
    rw [List.length_cons, List.range'_succ, List.zip_cons_cons, List.foldl_cons, ih (tset 0xFF t (a + b) y) (b + 1), tget_tset]
    by_cases hk : k = a + b
    · subst hk
      rw [if_neg (by omega), if_pos rfl, if_pos (by omega), Nat.sub_self, List.getD_cons_zero]
    · rw [if_neg hk]
      by_cases hin : a + b ≤ k ∧ k < a + b + (l.length + 1)
      · obtain ⟨i, rfl⟩ : ∃ i, k = a + (b + 1) + i := ⟨k - (a + (b + 1)), by omega⟩
        rw [if_pos (by omega), if_pos hin, show a + (b + 1) + i - (a + b) = i + 1 by omega, List.getD_cons_succ, Nat.add_sub_cancel_left]
      · rw [if_neg (by omega), if_neg hin]

/-- R681: the bytes of the image region after a program. -/
theorem tget_flashWrite (nv : NonVol) (a : Nat) (l : List Byte) (k : Nat) :
    tget 0xFF (flashWrite nv a l).flash k = if a ≤ k ∧ k < a + l.length then l.getD (k - a) 0 else tget 0xFF nv.flash k := by
  simp only [flashWrite, List.range_eq_range']
  exact tget_foldl_tset l nv.flash a 0 k

theorem tget_flashWrite_in (nv : NonVol) (a : Nat) (l : List Byte) (i : Nat) (h : i < l.length) :
    tget 0xFF (flashWrite nv a l).flash (a + i) = l.getD i 0 := by
  rw [tget_flashWrite, if_pos (by omega), Nat.add_sub_cancel_left]

theorem tget_flashWrite_out (nv : NonVol) (a : Nat) (l : List Byte) (k : Nat) (h : k < a ∨ a + l.length ≤ k) :
    tget 0xFF (flashWrite nv a l).flash k = tget 0xFF nv.flash k := by
  rw [tget_flashWrite, if_neg (by omega)]

/-- A byte of a record, zero beyond its end. -/
theorem getD_recBytes (l : List Byte) (o n i : Nat) (h : i < n) : (recBytes l o n).getD i 0 = l.getD (o + i) 0 := by
  simp only [recBytes, List.getD_eq_getElem?_getD, zeros, List.getElem?_append, List.length_take, List.length_drop,
    List.getElem?_take, List.getElem?_drop, List.getElem?_replicate]
  split
  · rfl
  · rw [List.getElem?_eq_none (by omega : l.length ≤ o + i)]
    split <;> rfl

/-! ### The flash at the application of an image command (R697) -/

/-- R697: IMAGE_BEGIN programs the segment table. -/
theorem imageBegin_table (mb flags : Nat) (head : List Byte) (nv : NonVol) (k : Nat) (hlo : 256 ≤ k) (hhi : k < 1280) :
    tget 0xFF (imageEffect (.imageBegin mb flags head) nv).flash k = head.getD k 0 := by
  obtain ⟨i, rfl⟩ : ∃ i, k = 256 + i := ⟨k - 256, by omega⟩
  rw [imageEffect, tget_flashWrite_in _ _ _ _ (by rw [length_recBytes]; omega), getD_recBytes _ _ _ _ (by omega)]

/-- R697: beside the segment table, IMAGE_BEGIN erases the sectors up to LENGTH and leaves the others. -/
theorem imageBegin_erases (mb flags : Nat) (head : List Byte) (nv : NonVol) (k : Nat) (hk : k < 256 ∨ 1280 ≤ k) :
    tget 0xFF (imageEffect (.imageBegin mb flags head) nv).flash k
      = if k < (recField head 16 8 + 65535) / 65536 * 65536 then 0xFF else tget 0xFF nv.flash k := by
  rw [imageEffect, tget_flashWrite_out _ _ _ _ (by rw [length_recBytes]; omega)]
  unfold tget tkeep
  rw [tfind_filter nv.flash (fun a => decide ((recField head 16 8 + 65535) / 65536 * 65536 ≤ a)) k]
  by_cases h : (recField head 16 8 + 65535) / 65536 * 65536 ≤ k
  · rw [if_pos (by simpa using h), if_neg (by omega)]
  · rw [if_neg (by simpa using h), if_pos (by omega), Option.getD_none]

/-! ### An image command at its boundary -/

/-- Commands that `applyLocal` gives to `withFlash`: every one but MODULE_RESET. -/
theorem applyLocal_of_specAll {a : Accepted} {c : CmdSpec} {nv : NonVol} {m : Dev} (h : specAll nv a.cmd = some c)
    (hr : ∀ mb flags, a.cmd ≠ .moduleReset mb flags) (ha : a ∈ m.ctl.accepted) (n : Nat) :
    applyLocal n (nv, m) a = withFlash a.cmd (fun m => applyAccepted c m none a.stroke n) nv
      (updCtl m (fun t => { t with accepted := t.accepted.erase a })) := by
  obtain ⟨cmd, mb, slot, stroke⟩ := a
  unfold applyLocal
  rw [if_neg (not_not.mpr ha)]
  simp only at h hr ⊢
  rw [h]

theorem answerUnbound_of_waiting {m : Dev} (h : m.ctl.waiting = []) : answerUnbound m = m := by
  obtain ⟨⟨cycle, free, out, sys, ctl, jobs, mem, arrays⟩, seen⟩ := m
  simp only at h
  simp [answerUnbound, updCtl, h]
  rw [← h]

theorem resetDeferred_none {nv : NonVol} {m : Dev} (h : m.sys.deferredReset = none) : resetDeferred nv m = (nv, m) := by
  rw [resetDeferred, h]

/-- A reply that waits for a condition: it stands among the waits, and the command's buckets are on their way back (R129). -/
theorem stageReply_waits (c : CmdSpec) (a : Applied) (acc n : Nat) (w : WaitFor) (hw : a.wait = some w) (hs : a.status = 0)
    (hk : a.keep = false) (hc : measuredConfig c.opcode = false) :
    ∃ holds r, stageReply c a none acc n = { a.m with ctl := { a.m.ctl with holds := holds, waits := a.m.ctl.waits ++ [{ why := w, reply := r }] } }
      ∧ r.mb = c.mb ∧ r.status = 0 ∧ r.accept = acc := by
  unfold stageReply
  simp only [hw, hs, hk, hc]
  exact ⟨_, _, rfl, rfl, rfl, rfl⟩

/-- What the application of an image command gives: a session, and a reply that waits for the flash. -/
structure OpensSession (c : CmdSpec) (m : Dev) (x : Session) : Prop where
  dev : (c.apply m).m = updSys m (fun y => { y with session := some x })
  status : (c.apply m).status = 0
  wait : (c.apply m).wait = some .flash
  keep : (c.apply m).keep = false
  differs : m.sys.session ≠ some x
  opcode : measuredConfig c.opcode = false

/-- R74, R697: at the end of the local stroke, an image command that waits alone changes the session and the flash, and its reply waits
for the flash. -/
theorem localStrokeTick_session {s : State} {m : Dev} {a : Accepted} {c : CmdSpec} {x : Session}
    (hst : s.m.sys.st ∈ [.minimal, .ready, .active, .quiesced]) (hacc : acceptedOf (localEnds s.m) none = [a])
    (hm : m = updCtl (localEnds s.m) (fun t => { t with accepted := t.accepted.erase a })) (hw : m.ctl.waiting = [])
    (hd : m.sys.deferredReset = none) (hmay : mayApply (localEnds s.m) a = true) (hc : specAll s.nv a.cmd = some c)
    (hr : ∀ mb flags, a.cmd ≠ .moduleReset mb flags) (hck : recheckErr c m = none) (hx : OpensSession c m x) :
    ∃ t, exec .localStrokeTick s = .next t ∧ t.pending = s.pending
      ∧ t.m = { m with sys := { m.sys with session := some x }, ctl := { m.ctl with holds := t.m.ctl.holds, waits := t.m.ctl.waits } }
      ∧ (∃ w, t.m.ctl.waits = m.ctl.waits ++ [w] ∧ w.why = .flash ∧ w.reply.mb = c.mb ∧ w.reply.status = 0 ∧ w.reply.accept = a.stroke)
      ∧ t.nv = imageEffect a.cmd s.nv := by
  obtain ⟨holds, r, hstage, hmb, hstatus, haccept⟩ :=
    stageReply_waits c (c.apply m) a.stroke (localEnds s.m).ctl.localStroke .flash hx.wait hx.status hx.keep hx.opcode
  rw [hx.dev] at hstage
  have hone : localApplied s.nv s.m = (imageEffect a.cmd s.nv, stageReply c (c.apply m) none a.stroke (localEnds s.m).ctl.localStroke) := by
    have hfilter : [a].filter (mayApply (localEnds s.m)) = [a] := by simp [hmay]
    rw [localApplied, hacc, hfilter, List.foldl_cons, List.foldl_nil, applyLocal_of_specAll hc hr (mem_of_acceptedOf hacc), ← hm,
      withFlash, applyAccepted_applies _ _ _ _ _ hck, if_neg]
    rw [hstage]
    exact Ne.symm hx.differs
  refine ⟨_, exec_localStrokeTick s, rfl, ?_⟩
  rw [localTick_running hst, hone, answerUnbound_of_waiting, resetDeferred_none]
  · rw [hstage]
    exact ⟨rfl, ⟨_, rfl, rfl, hmb, hstatus, haccept⟩, rfl⟩
  · rw [hstage]
    exact hd
  · rw [hstage]
    exact hw

/-! ### The end of a flash operation (R697) -/

/-- The reply that the one wait for the flash becomes, with a status and, where one is given, a body. -/
theorem flashReply_one (m : Dev) (w : Wait) (status : Nat) (body : Option (List Byte)) (hw : m.ctl.waits = [w]) (hwhy : w.why = .flash) :
    ∃ r, flashReply status body m = { m with ctl := { m.ctl with waits := [], replies := m.ctl.replies ++ [r] } }
      ∧ r.mb = w.reply.mb ∧ r.status = (if status = 0 then w.reply.status else status) := by
  unfold flashReply finishFirst finishAs
  simp [updCtl, hw, hwhy]

/-- The state `t` after the end of an operation of the flash: the session is `y`, and the reply that waited is due with `status`, or
with its own where `status` is 0. -/
def FlashEnds (s t : State) (w : Wait) (y : Option Session) (status : Nat) : Prop :=
  t.m.sys = { s.m.sys with session := y } ∧ t.m.ctl.waits = []
    ∧ (∃ r, t.m.ctl.replies = s.m.ctl.replies ++ [r] ∧ r.mb = w.reply.mb ∧ r.status = (if status = 0 then w.reply.status else status))
    ∧ t = { s with nv := t.nv, m := { s.m with sys := t.m.sys, ctl := { s.m.ctl with waits := [], replies := t.m.ctl.replies } } }

theorem flashOperationDone_ends {s : State} {ok : Bool} {nv : NonVol} {y : Option Session} {w : Wait} {status : Nat}
    {body : Option (List Byte)} (hw : s.m.ctl.waits = [w]) (hwhy : w.why = .flash)
    (hdone : flashDone ok s.nv s.m = (nv, flashReply status body (updSys s.m (fun x => { x with session := y })))) :
    ∃ t, exec (.flashOperationDone ok) s = .next t ∧ FlashEnds s t w y status ∧ t.nv = nv := by
  obtain ⟨r, hreply, hmb, hstatus⟩ :=
    flashReply_one (updSys s.m (fun x => { x with session := y })) w status body hw hwhy
  have hexec : exec (.flashOperationDone ok) s = .next { s with nv := nv, m := flashReply status body (updSys s.m (fun x => { x with session := y })) } := by
    have := onBoot_next (c := .flashOperationDone ok) (flashDone ok) s rfl
    rwa [hdone] at this
  rw [hreply] at hexec
  exact ⟨_, hexec, ⟨rfl, rfl, ⟨r, rfl, hmb, hstatus⟩, rfl⟩, rfl⟩

/-! ### What each operation of the flash is (R697) -/

section
variable {nv : NonVol} {m : Dev} {x : Session} {op : FlashOp} {l : List FlashOp}

theorem flashDone_step (hs : m.sys.session = some x) (hops : x.ops = op :: l) (hop : op ≠ .readBack) :
    flashDone true nv m = (nv, flashReply 0 none (updSys m (fun y => { y with session := some { x with ops := l } }))) := by
  cases op
  case readBack => exact absurd rfl hop
  all_goals simp [flashDone, hs, hops]

theorem flashDone_agrees (hs : m.sys.session = some x) (hops : x.ops = .readBack :: l) (hbad : badSegment nv x.head = none) :
    flashDone true nv m
      = (flashWrite nv 0 (x.head.take 256), flashReply 0 none (updSys m (fun y => { y with session := none }))) := by
  simp [flashDone, hs, hops, hbad]

theorem flashDone_differs (hs : m.sys.session = some x) (hops : x.ops = .readBack :: l) (hbad : badSegment nv x.head ≠ none) :
    flashDone true nv m = (nv, flashReply 0x4002 (some (reasonBody 6)) (updSys m (fun y => { y with session := none }))) := by
  obtain ⟨i, hi⟩ := Option.ne_none_iff_exists'.mp hbad
  simp [flashDone, hs, hops, hi]

theorem flashDone_fails (hs : m.sys.session = some x) (hops : x.ops = [op]) :
    flashDone false nv m = (nv, flashReply 0x5002 (some []) (updSys m (fun y => { y with session := none }))) := by
  simp [flashDone, hs, hops]

end

/-! ### Image commands are accepted and open sessions -/

/-- R74: an image command that passes its checks waits for the boundary of the local stroke. -/
theorem runCmd_queues {c : CmdSpec} {m : Dev} (hj : c.jobWide = false) (hq : c.query = false)
    (hun : unreached m c.opcode c.mb = false) (hacc : acceptErr c m = none) : runCmd c m = queueCmd c m :=
  runCmd_accepted c m hun (by simp [jobWideBusy, hj]) hacc hq

theorem imageBegin_opens {nv : NonVol} {mb flags : Nat} {head : List Byte} {m : Dev} (h : headReason nv head = 0) :
    OpensSession (specImageBegin nv mb flags head) m
      { head := head, length := recField head 16 8, ops := sessionOps m ++ [.erase] } := by
  have happly : (specImageBegin nv mb flags head).apply m =
      { m := updSys m (fun s => { s with session := some { head := head, length := recField head 16 8, ops := sessionOps m ++ [.erase] } })
        body := reasonBody 0, wait := some .flash } := by
    simp [specImageBegin, h]
  refine ⟨by rw [happly], by rw [happly], by rw [happly], by rw [happly], fun hsame => ?_, rfl⟩
  have hops : sessionOps m = sessionOps m ++ [.erase] := by
    conv => lhs; rw [sessionOps, hsame]
  simp at hops

theorem imageWrite_opens {mb offset : Nat} {data : List Byte} {m : Dev} {x : Session} (hs : m.sys.session = some x) :
    OpensSession (specImageWrite mb offset data) m { x with
      pages := x.pages ++ (List.range (data.length / 256)).map (fun i => offset + 256 * i), ops := x.ops ++ [.program] } := by
  refine ⟨by simp [specImageWrite, updSys, hs], rfl, rfl, rfl, fun hsame => ?_, rfl⟩
  have hops := congrArg Session.ops (Option.some.inj (hs.symm.trans hsame))
  simp at hops

theorem imageCommit_opens {mb : Nat} {m : Dev} {x : Session} (hs : m.sys.session = some x) :
    OpensSession (specImageCommit mb) m { x with committing := true, ops := x.ops ++ [.readBack] } := by
  refine ⟨by simp [specImageCommit, updSys, hs], rfl, rfl, rfl, fun hsame => ?_, rfl⟩
  have hops := congrArg Session.ops (Option.some.inj (hs.symm.trans hsame))
  simp at hops

/-- Settles O50: the row of an image command queues it; at the tick it opens or extends the session (`localStrokeTick_session`); and the
end of an operation is one of the four cases of `flashDone`. -/
theorem imageService : Obligations.ImageService := by
  intro s _
  refine ⟨fun mb flags head hwf hun hacc => ?_, fun mb offset data hwf hun hacc => ?_, fun mb hwf hun hacc => ?_, ?_, ?_⟩
  · exact (onNvRead_next (c := .imageBegin mb flags head) (fun nv => runCmd (specImageBegin nv mb flags head)) s hwf).trans
      (by rw [runCmd_queues rfl rfl hun hacc])
  · exact (onCmd_next (c := specImageWrite mb offset data) s hwf).trans (by rw [runCmd_queues rfl rfl hun hacc])
  · exact (onCmd_next (c := specImageCommit mb) s hwf).trans (by rw [runCmd_queues rfl rfl hun hacc])
  · intro m a mb hst hacc hm hw hd
    refine ⟨?_, ?_, ?_⟩
    · intro flags head n hcmd hck hhead hn
      obtain ⟨t, ht, hpend, hdev, hwait, hnv⟩ := localStrokeTick_session hst hacc hm hw hd (by rw [mayApply, hcmd])
        (c := specImageBegin s.nv mb flags head) (by rw [hcmd]; rfl) (by simp [hcmd]) hck (imageBegin_opens hhead)
      rw [hcmd] at hnv
      refine ⟨t, ht, ⟨hpend, hdev, hwait⟩, by rw [hnv]; rfl, fun k hlo hhi => ?_, fun k hk hout => ?_, fun k hk hout => ?_⟩
      · rw [hnv, imageBegin_table _ _ _ _ _ hlo hhi]
      · rw [hnv, imageBegin_erases _ _ _ _ _ hout, if_pos (by omega)]
      · rw [hnv, imageBegin_erases _ _ _ _ _ (.inr hout), if_neg (by omega)]
    · intro offset data x hcmd hck hs
      obtain ⟨t, ht, hpend, hdev, hwait, hnv⟩ := localStrokeTick_session hst hacc hm hw hd (by rw [mayApply, hcmd])
        (c := specImageWrite mb offset data) (by rw [hcmd]; rfl) (by simp [hcmd]) hck (imageWrite_opens hs)
      rw [hcmd] at hnv
      refine ⟨t, ht, ⟨hpend, hdev, hwait⟩, by rw [hnv]; rfl, fun i hi => ?_, fun k hk => ?_⟩
      · rw [hnv, imageEffect, tget_flashWrite_in _ _ _ _ hi, List.getD_eq_getElem _ _ hi]
      · rw [hnv, imageEffect, tget_flashWrite_out _ _ _ _ hk]
    · intro x hcmd hck hs
      obtain ⟨t, ht, hpend, hdev, hwait, hnv⟩ := localStrokeTick_session hst hacc hm hw hd (by rw [mayApply, hcmd])
        (c := specImageCommit mb) (by rw [hcmd]; rfl) (by simp [hcmd]) hck (imageCommit_opens hs)
      rw [hcmd] at hnv
      exact ⟨t, ht, ⟨hpend, hdev, hwait⟩, hnv⟩
  · intro x op l w hs hops hw hwhy
    refine ⟨fun hop => ?_, ?_, ?_, ?_⟩
    · exact flashOperationDone_ends hw hwhy (flashDone_step hs hops hop)
    · rintro rfl hbad hlen
      obtain ⟨t, ht, hends, hnv⟩ := flashOperationDone_ends hw hwhy (flashDone_agrees (nv := s.nv) hs hops hbad)
      have hl : (x.head.take 256).length = 256 := by rw [List.length_take]; omega
      refine ⟨t, ht, hends, by rw [hnv]; rfl, fun a ha => ?_, fun a ha => ?_⟩
      · have := tget_flashWrite_in s.nv 0 (x.head.take 256) a (by omega)
        rw [Nat.zero_add] at this
        rw [hnv, this, List.getD_eq_getElem?_getD, List.getElem?_take_of_lt ha, List.getD_eq_getElem?_getD]
      · rw [hnv, tget_flashWrite_out _ _ _ _ (by omega)]
    · rintro rfl hbad
      exact flashOperationDone_ends hw hwhy (flashDone_differs hs hops hbad)
    · rintro rfl
      exact flashOperationDone_ends hw hwhy (flashDone_fails hs hops)

end Sys2Proof.Machine
end

section
/-! PROOFS of the family 02_strokes_states_phases: what mailboxes read after several replies (R105, R114, R115), MODULE_RESET, ATTEST
and BOOT_STATUS (R113, R115, R699, R702 to R705). -/

namespace Sys2Proof.Machine

/-! ### Replies to several mailboxes (R105) -/

/-- A reply writes only the window of its mailbox. -/
theorem cwByte_writeReply_out (m : Dev) (r : Reply) (j : Nat) (h : j < r.mb * 4096 ∨ r.mb * 4096 + 64 + r.body.length ≤ j) :
    cwByte (writeReply m r) j = cwByte m j := by
  have hout : ∀ (m : Dev) (o : Nat) (l : List Byte), r.mb * 4096 ≤ o → o + l.length ≤ r.mb * 4096 + 64 + r.body.length →
      cwByte (cwWrite m o l) j = cwByte m j := fun m o l _ _ => cwByte_cwWrite_out m o l j (by omega)
  rw [cwByte_writeReply, hout _ _ _ (by omega) (by rw [length_zeros]; omega),
    hout _ _ _ (by omega) (by rw [List.length_append, length_leBytes, length_leBytes]; omega),
    hout _ _ _ (by omega) (by rw [List.length_append, List.length_append, length_leBytes, length_leBytes, length_leBytes]; omega),
    hout _ _ _ (by omega) (by omega)]

/-- From `m` to `t` no byte of the control window of mailbox `k` changes. -/
def SameMailbox (k : Nat) (m t : Dev) : Prop := ∀ o < 4096, cwByte t (k * 4096 + o) = cwByte m (k * 4096 + o)

theorem SameMailbox.owned {k : Nat} {m t : Dev} (h : SameMailbox k m t) : mbOwned t k = mbOwned m k := by
  have := h 0 (by omega)
  rw [Nat.add_zero] at this
  rw [mbOwned, mbOwned, this]

theorem SameMailbox.field {k : Nat} {m t : Dev} (h : SameMailbox k m t) (o n : Nat) (hn : o + n ≤ 4096) :
    mbField t k o n = mbField m k o n := by
  have : mbRead t k o n = mbRead m k o n := List.map_congr_left fun i hi => by
    have := List.mem_range.mp hi
    rw [Nat.add_assoc]
    exact h (o + i) (by omega)
  rw [mbField, mbField, this]

/-- A reply that fits its mailbox leaves every other mailbox. -/
theorem sameMailbox_writeReply {m : Dev} {r : Reply} {k : Nat} (hk : k ≠ r.mb) (hb : r.body.length ≤ 4032) :
    SameMailbox k m (writeReply m r) := fun o ho => cwByte_writeReply_out m r _ (by omega)

theorem sameMailbox_foldl_writeReply {k : Nat} (l : List Reply) (m : Dev) (hl : ∀ r ∈ l, k ≠ r.mb ∧ r.body.length ≤ 4032) :
    SameMailbox k m (l.foldl writeReply m) := by
  induction l generalizing m with
  | nil => exact fun _ _ => rfl
  | cons r l ih =>
    obtain ⟨⟨hk, hb⟩, hl⟩ := List.forall_mem_cons.mp hl
    exact fun o ho => (ih (writeReply m r) hl o ho).trans (sameMailbox_writeReply hk hb o ho)

/-- Several replies change only the control window, the event areas and what is sent. -/
theorem foldl_writeReply_frame (l : List Reply) (m : Dev) :
    ∃ cw areas out, l.foldl writeReply m = { m with ctl := { m.ctl with cw := cw, areas := areas }, out := out } := by
  induction l generalizing m with
  | nil => exact ⟨_, _, _, rfl⟩
  | cons r l ih =>
    obtain ⟨cw, areas, out, h⟩ := writeReply_frame m r
    obtain ⟨cw', areas', out', h'⟩ := ih (writeReply m r)
    exact ⟨cw', areas', out', by rw [List.foldl_cons, h', h]⟩

/-- What a mailbox reads once a reply has been written there. -/
structure Answered (t : Dev) (mb status : Nat) : Prop where
  status : mbField t mb 16 2 = status
  owner : mbOwned t mb = false

theorem Answered.of_same {k status : Nat} {m t : Dev} (h : Answered m k status) (hs : SameMailbox k m t) : Answered t k status :=
  ⟨(hs.field 16 2 (by omega)).trans h.status, hs.owned.trans h.owner⟩

theorem answered_writeReply (m : Dev) (r : Reply) : Answered (writeReply m r) r.mb (r.status % 65536) :=
  ⟨mbField_writeReply_status m r, mbOwned_writeReply m r⟩

/-- R105: of replies to different mailboxes each stands in its own. -/
theorem answered_foldl_writeReply (f : Nat → Reply) (hmb : ∀ k, (f k).mb = k) (hb : ∀ k, (f k).body.length ≤ 4032) (l : List Nat) (m : Dev)
    (hl : l.Nodup) (k : Nat) (hk : k ∈ l) : Answered ((l.map f).foldl writeReply m) k ((f k).status % 65536) := by
  induction l generalizing m with
  | nil => cases hk
  | cons i l ih =>
    obtain ⟨hi, hl⟩ := List.nodup_cons.mp hl
    rw [List.map_cons, List.foldl_cons]
    rcases List.mem_cons.mp hk with rfl | hk
    · have hhere := answered_writeReply m (f k)
      rw [hmb] at hhere
      refine hhere.of_same (sameMailbox_foldl_writeReply _ _ fun r hr => ?_)
      obtain ⟨i, hi', rfl⟩ := List.mem_map.mp hr
      exact ⟨fun e => hi (by rwa [e, hmb]), hb i⟩
    · exact ih _ hl hk

theorem answerLost_frame (status : Nat) (p : Nat → Bool) (m : Dev) :
    ∃ cw areas out, answerLost status p m = { m with ctl := { m.ctl with cw := cw, areas := areas }, out := out } :=
  foldl_writeReply_frame ..

/-- R114, R115: every mailbox that the test names is answered with the status. -/
theorem answered_answerLost {p : Nat → Bool} (status : Nat) (m : Dev) {k : Nat} (hk : k < 256) (hp : p k = true) :
    Answered (answerLost status p m) k (status % 65536) :=
  answered_foldl_writeReply (lostReply m status) (fun _ => rfl) (fun _ => Nat.zero_le _) ((List.range 256).filter p) m
    (List.nodup_range.filter _) k (List.mem_filter.mpr ⟨List.mem_range.mpr hk, hp⟩)

/-- Every other mailbox is left as it is. -/
theorem sameMailbox_answerLost {p : Nat → Bool} (status : Nat) (m : Dev) {k : Nat} (hp : p k = false) :
    SameMailbox k m (answerLost status p m) := by
  refine sameMailbox_foldl_writeReply _ _ fun r hr => ?_
  obtain ⟨i, hi, rfl⟩ := List.mem_map.mp hr
  refine ⟨fun e => ?_, Nat.zero_le _⟩
  have hpi := (List.mem_filter.mp hi).2
  rw [show i = k from e.symm, hp] at hpi
  cases hpi

/-! ### A reset (R115) -/

theorem interruptHeader_of_not_committing {nv : NonVol} {m : Dev} (h : committing m = false) : interruptHeader nv m = (nv, m) := by
  rw [interruptHeader]
  rw [committing] at h
  cases hs : m.sys.session with
  | none => rfl
  | some x =>
    rw [hs] at h
    simp only at h
    simp [h]

/-- The mailboxes that an entry to BOOT answers: those that the module holds, but for the one that asked for the reset. -/
def lostAtBoot (except : Option Nat) (m : Dev) (mb : Nat) : Bool := (mbOwned m mb || takenIn m mb) && decide (some mb ≠ except)

/-- The start log after an entry to BOOT with the always-on domain powered: a start that is cut short is logged as RESET (R691). -/
def bootLog (nv : NonVol) (m : Dev) : NonVol :=
  if startRuns m = true then changeLast nv (fun r => { r with reason := 0x22, detail := 0 }) else nv

/-- The module at an entry to BOOT once the mailboxes that it holds have lost their replies. -/
def bootAnswered (except : Option Nat) (m : Dev) : Dev :=
  answerLost 0x6003 (lostAtBoot except m) (updCtl m (fun c => { c with areas := [] }))

theorem bootAnswered_frame (except : Option Nat) (m : Dev) :
    ∃ cw areas out, bootAnswered except m = { m with ctl := { m.ctl with cw := cw, areas := areas }, out := out } := by
  obtain ⟨cw, areas, out, h⟩ := answerLost_frame 0x6003 (lostAtBoot except m) (updCtl m (fun c => { c with areas := [] }))
  exact ⟨cw, areas, out, h⟩

@[simp] theorem bootAnswered_sys (except : Option Nat) (m : Dev) : (bootAnswered except m).sys = m.sys := by
  obtain ⟨cw, areas, out, h⟩ := bootAnswered_frame except m
  rw [h]

/-- R115: an entry to BOOT while no commit is reading back. -/
theorem enterBoot_of_not_committing {aon : Bool} {nv : NonVol} {m : Dev} (except : Option Nat) (hc : committing m = false) :
    enterBoot aon except nv m = (if aon = true then bootLog nv m else nv, bootState aon (bootAnswered except m)) := by
  have hc' : committing (bootAnswered except m) = false := by rw [committing, bootAnswered_sys]; exact hc
  have hlog : (if aon && startRuns m then changeLast nv (fun r => { r with reason := 0x22, detail := 0 }) else nv)
      = if aon = true then bootLog nv m else nv := by
    cases aon
    · rfl
    · simp only [bootLog, Bool.true_and, if_true]
  rw [← hlog]
  exact congrArg (fun x : NonVol × Dev => (x.1, bootState aon x.2)) (interruptHeader_of_not_committing hc')

/-- What a reset by MODULE_RESET leaves of the module `m` (R115). -/
structure Reset (m : Dev) (mb : Nat) (nv : NonVol) (t : NonVol × Dev) : Prop where
  boot : t.2.sys.st = .boot
  step : t.2.sys.startStep = 0
  jobs : t.2.jobs = []
  colls : t.2.colls = []
  accepted : t.2.ctl.accepted = []
  waiting : t.2.ctl.waiting = []
  deferred : t.2.sys.deferredReset = none
  log : t.1 = bootLog nv m
  here : Answered t.2 mb 0
  others : ∀ k < 256, k ≠ mb → mbOwned m k = true → Answered t.2 k 0x6003

/-- The reply of MODULE_RESET, with the strokes of its acceptance and of its end. -/
def resetReply (mb accept done : Nat) : Reply :=
  { mb := mb, status := 0, body := [], slot := none, due := 0, kind := 0, accept := accept, done := done, stretch := false, jobId := 0 }

/-- R115: the reply of MODULE_RESET is written first and stays; the other mailboxes that the module holds are answered after it. -/
theorem resetNow_resets {m : Dev} {nv : NonVol} (mb accept done : Nat) (hc : committing m = false) :
    Reset m mb nv (resetNow mb accept done nv m) := by
  obtain ⟨r, hr⟩ : ∃ r, resetReply mb accept done = r := ⟨_, rfl⟩
  have hrmb : r.mb = mb := hr ▸ rfl
  have hbody : r.body.length ≤ 4032 := hr ▸ Nat.zero_le _
  have hreply := answered_writeReply m r
  obtain ⟨cw, areas, out, hframe⟩ := writeReply_frame m r
  have hsys : (writeReply m r).sys = m.sys := by rw [hframe]
  have hnow : resetNow mb accept done nv m = (bootLog nv m, bootState true (bootAnswered (some mb) (writeReply m r))) := by
    have hstart : startRuns (writeReply m r) = startRuns m := by unfold startRuns; rw [hsys]
    have hlog : bootLog nv (writeReply m r) = bootLog nv m := by unfold bootLog; rw [hstart]
    have hc' : committing (writeReply m r) = false := by rw [committing, hsys]; exact hc
    rw [← hlog, resetNow, hc, if_neg (by decide), ← resetReply, hr, enterBoot_of_not_committing _ hc', if_pos rfl]
  rw [hnow]
  refine ⟨rfl, rfl, rfl, rfl, rfl, rfl, rfl, rfl, ?_, fun k hk hne howned => ?_⟩
  · rw [hrmb] at hreply
    have hstatus : r.status % 65536 = 0 := hr ▸ rfl
    rw [hstatus] at hreply
    exact hreply.of_same (sameMailbox_answerLost (p := lostAtBoot (some mb) (writeReply m r)) 0x6003
      (updCtl (writeReply m r) (fun c => { c with areas := [] })) (by simp [lostAtBoot]))
  · have howned' : mbOwned (writeReply m r) k = true := by
      rw [(sameMailbox_writeReply (by rwa [hrmb]) hbody).owned, howned]
    have hlost : lostAtBoot (some mb) (writeReply m r) k = true := by simp [lostAtBoot, howned', hne]
    exact (answered_answerLost 0x6003 (updCtl (writeReply m r) (fun c => { c with areas := [] })) hk hlost).of_same fun _ _ => rfl

/-! ### MODULE_RESET -/

/-- R115: the state after a reset, as O51 says it. -/
theorem Reset.reached {s : State} {m : Dev} {mb : Nat} {i : Instr} {x : NonVol × Dev} (hx : exec i s = .next { s with nv := x.1, m := x.2 })
    (h : Reset m mb s.nv x) :
    ∃ t, exec i s = .next t ∧ t.m.sys.st = .boot ∧ t.m.sys.startStep = 0 ∧ t.m.jobs = [] ∧ t.m.colls = [] ∧ t.m.ctl.accepted = []
      ∧ t.nv = (if startRuns m = true then changeLast s.nv (fun r => { r with reason := 0x22, detail := 0 }) else s.nv)
      ∧ mbField t.m mb 16 2 = 0 ∧ mbOwned t.m mb = false
      ∧ ∀ k < 256, k ≠ mb → mbOwned m k = true → mbField t.m k 16 2 = 0x6003 ∧ mbOwned t.m k = false :=
  ⟨_, hx, h.boot, h.step, h.jobs, h.colls, h.accepted, h.log, h.here.status, h.here.owner,
    fun k hk hne ho => ⟨(h.others k hk hne ho).status, (h.others k hk hne ho).owner⟩⟩

/-- R74: while strokes run, an accepted MODULE_RESET waits for the boundary of the local stroke. -/
theorem exec_moduleReset_queued {s : State} {mb flags : Nat} (hwf : (Instr.moduleReset mb flags).wf = true)
    (hun : unreached s.m (specModuleReset mb flags).opcode mb = false) (hacc : acceptErr (specModuleReset mb flags) s.m = none)
    (hst : noStrokes s.m = false) : exec (.moduleReset mb flags) s = .next { s with m := queueCmd (specModuleReset mb flags) s.m } := by
  have hrun : moduleReset mb flags s.nv s.m = (s.nv, queueCmd (specModuleReset mb flags) s.m) := by
    rw [moduleReset, if_pos (by simp [hst]), runCmd_queues rfl rfl hun hacc]
  have := onBoot_next (c := .moduleReset mb flags) (moduleReset mb flags) s hwf
  rwa [hrun] at this

/-- R113: where no strokes run, an accepted MODULE_RESET is applied at once. -/
theorem exec_moduleReset_now {s : State} {mb flags : Nat} (hwf : (Instr.moduleReset mb flags).wf = true)
    (hun : unreached s.m (specModuleReset mb flags).opcode mb = false) (hacc : acceptErr (specModuleReset mb flags) s.m = none)
    (hst : noStrokes s.m = true) :
    exec (.moduleReset mb flags) s = .next { s with nv := (resetNow mb 0 0 s.nv s.m).1, m := (resetNow mb 0 0 s.nv s.m).2 } := by
  have hrun : moduleReset mb flags s.nv s.m = resetNow mb 0 0 s.nv s.m := by
    rw [moduleReset, if_neg (by simp [hun, hacc, hst])]
  have := onBoot_next (c := .moduleReset mb flags) (moduleReset mb flags) s hwf
  rwa [hrun] at this

/-- R23: at the end of the local stroke a MODULE_RESET that waits alone is applied. -/
theorem localTick_moduleReset {nv : NonVol} {m m' : Dev} {a : Accepted} {mb flags : Nat} (hst : m.sys.st ∈ [.minimal, .ready, .active, .quiesced])
    (hacc : acceptedOf (localEnds m) none = [a]) (hcmd : a.cmd = .moduleReset mb flags)
    (hm : m' = updCtl (localEnds m) (fun t => { t with accepted := t.accepted.erase a }))
    (hck : recheckErr (specModuleReset mb flags) m' = none) (hc : committing m' = false) :
    resetDeferred (localTick nv m).1 (localTick nv m).2 = resetNow mb a.stroke (localEnds m).ctl.localStroke nv m' := by
  have hone : localApplied nv m = resetNow mb a.stroke (localEnds m).ctl.localStroke nv m' := by
    have hmay : [a].filter (mayApply (localEnds m)) = [a] := by simp [mayApply, hcmd]
    rw [localApplied, hacc, hmay, List.foldl_cons, List.foldl_nil, applyLocal, if_neg (not_not.mpr (mem_of_acceptedOf hacc)), hcmd]
    simp only
    rw [← hm, applyReset, hck]
    rfl
  have hreset := resetNow_resets (nv := nv) mb a.stroke (localEnds m).ctl.localStroke hc
  rw [localTick_running hst, hone, answerUnbound_of_waiting hreset.waiting, resetDeferred_none hreset.deferred]

/-! ### ATTEST and BOOT_STATUS -/

/-- R699, R703: an accepted ATTEST gives its report to the identity engine. -/
theorem exec_attest_accepted {s : State} {mb jobId : Nat} {nonce : List Byte} (hwf : (Instr.attest mb nonce jobId).wf = true)
    (hun : unreached s.m (specAttest s.nv mb nonce jobId).opcode mb = false) (hacc : acceptErr (specAttest s.nv mb nonce jobId) s.m = none) :
    exec (.attest mb nonce jobId) s = .next { s with m := updSys s.m (fun y => { y with
      signing := y.signing ++ [(attestReport s.nv (reported (specAttest s.nv mb nonce jobId) s.m) (mb / 32) nonce jobId, some mb,
        b2n (specStream (specAttest s.nv mb nonce jobId) s.m).isSome
          + 2 * strokeOf s.m (specStream (specAttest s.nv mb nonce jobId) s.m))] }) } := by
  have hrun : attest mb nonce jobId s.nv s.m = updSys s.m (fun y => { y with
      signing := y.signing ++ [(attestReport s.nv (reported (specAttest s.nv mb nonce jobId) s.m) (mb / 32) nonce jobId, some mb,
        b2n (specStream (specAttest s.nv mb nonce jobId) s.m).isSome
          + 2 * strokeOf s.m (specStream (specAttest s.nv mb nonce jobId) s.m))] }) := by
    simp only [attest, hun, hacc]
    rfl
  have := onNvRead_next (c := .attest mb nonce jobId) (attest mb nonce jobId) s hwf
  rwa [hrun] at this

/-- A report draws no free values of its own. -/
theorem reported_free (c : CmdSpec) (m : Dev) : (reported c m).free = m.free := by
  unfold reported
  split
  · rfl
  · simp only
    split <;> rfl

/-- The body of an answer at once stands in its mailbox. -/
theorem cwByte_answerNow_body (c : CmdSpec) (m : Dev) (status : Nat) (body : List Byte) (i : Nat) (h : i < body.length) :
    cwByte (answerNow c m status body) (c.mb * 4096 + 64 + i) = body[i] := cwByte_writeReply_body m _ i h

/-- R705: an accepted BOOT_STATUS is answered in its row. -/
theorem exec_bootStatus {s : State} {mb : Nat} {c : CmdSpec} (hmb : mb < 256) (hc : specBootStatus s.nv mb = c)
    (hun : unreached s.m c.opcode mb = false) (hacc : acceptErr c s.m = none) :
    exec (.bootStatus mb) s = .next { s with m := answerNow c s.m 0 (c.apply (reported c s.m)).body } := by
  subst hc
  have hwf : (Instr.bootStatus mb).wf = true := by simp [Instr.wf, boundsWf, hmb]
  have hfree : ((specBootStatus s.nv mb).apply (reported (specBootStatus s.nv mb) s.m)).m.free = s.m.free := reported_free ..
  have hrun := runCmd_query (specBootStatus s.nv mb) s.m hun rfl hacc rfl
  have hstatus : ((specBootStatus s.nv mb).apply (reported (specBootStatus s.nv mb) s.m)).status = 0 := rfl
  rw [hfree, hstatus, if_neg (by decide)] at hrun
  exact (onNvRead_next (c := .bootStatus mb) (fun nv => runCmd (specBootStatus nv mb)) s hwf).trans (by rw [hrun])

/-- The reply of ATTEST with its signature and the module's certificates (R699, R701). -/
def attestReply (p : List Byte) (mb x : Nat) : Reply :=
  { mb := mb, status := 0, body := p ++ identitySignature p ++ zeros 14 ++ ownChain, slot := none, due := 0, kind := x % 2
    accept := x / 2, done := x / 2, stretch := false, jobId := recField p 164 4 }

/-- R699: a finished signature of an ATTEST is its reply. -/
theorem signatureDone_attest {m : Dev} {p : List Byte} {mb x : Nat} {l : List (List Byte × Option Nat × Nat)}
    (h : m.sys.signing = (p, some mb, x) :: l) :
    signatureDone m = writeReply (updSys m (fun y => { y with signing := l })) (attestReply p mb x) := by
  rw [signatureDone, h]
  rfl

/-- R602: a finished signature of a TAKEOVER goes to its spare. -/
theorem signatureDone_takeover {m : Dev} {p : List Byte} {d : Nat} {l : List (List Byte × Option Nat × Nat)}
    (h : m.sys.signing = (p, none, d) :: l) :
    signatureDone m = sendControl (updSys m (fun y => { y with signing := l })) d (padTo 256 (p ++ identitySignature p)) := by
  rw [signatureDone, h]

/-- R463, R468: a CONTROL packet whose link can take it goes out at once. -/
theorem sendControl_takes {m : Dev} {d o bytes : Nat} {payload : List Byte} (hr : routeLink m d = some o)
    (hb : 40 + payload.length = bytes) (ht : (linkAt m o).takes 6 bytes = true) :
    ∃ links, sendControl m d payload
        = { m with out := m.out ++ [.packet o (controlPacket m d payload)], net := { m.net with links := links } }
      ∧ sentOn m (sendControl m d payload) o 6 bytes := by
  have hsend : sendControl m d payload = sendUnit m o 6 bytes (.packet o (controlPacket m d payload)) := by
    have hdest : (controlPacket m d payload).dest = d := rfl
    rw [sendControl, sendRouted, hdest, hr, ← hb]
    rfl
  rw [hsend]
  exact sendUnit_takes m o 6 bytes _ ht

/-- Settles O51: a reset is `resetNow` at once or at the tick (`resetNow_resets`); ATTEST, its signature and BOOT_STATUS are one reply or
one packet each. -/
theorem resetAndAttestation : Obligations.ResetAndAttestation := by
  intro s _
  refine ⟨?_, ?_, ?_, ?_, ?_, ?_⟩
  · rintro mb flags c rfl hwf hun hacc
    exact ⟨fun hst => exec_moduleReset_queued hwf hun hacc hst,
      fun hst hc => (resetNow_resets mb 0 0 hc).reached (exec_moduleReset_now hwf hun hacc hst)⟩
  · intro mb flags m a _ hst hacc hcmd hm hck hc
    refine (resetNow_resets mb a.stroke (localEnds s.m).ctl.localStroke hc).reached ?_
    rw [exec_localStrokeTick, localTick_moduleReset hst hacc hcmd hm hck hc]
  · rintro mb nonce jobId c hwf rfl hun hacc
    exact exec_attest_accepted hwf hun hacc
  · intro mb c hmb hc hun hacc
    have hexec := exec_bootStatus hmb hc hun hacc
    have hcmb : c.mb = mb := hc ▸ rfl
    have hstatus := mbField_answerNow_status c s.m 0 (c.apply (reported c s.m)).body
    have howner := mbOwned_answerNow c s.m 0 (c.apply (reported c s.m)).body
    rw [hcmb] at hstatus howner
    refine ⟨_, hexec, rfl, hstatus, howner, ?_, answerNow_frame ..⟩
    rintro b rfl i hi
    exact hcmb ▸ cwByte_answerNow_body c s.m 0 _ i hi
  · intro p mb x l h
    have hexec := onDev_next (c := .identitySignatureDone) signatureDone s rfl
    rw [signatureDone_attest h] at hexec
    obtain ⟨cw, areas, out, hframe⟩ := writeReply_frame (updSys s.m (fun y => { y with signing := l })) (attestReply p mb x)
    have hans := answered_writeReply (updSys s.m (fun y => { y with signing := l })) (attestReply p mb x)
    refine ⟨_, hexec, rfl, by rw [hframe]; rfl, hans.status, hans.owner, ?_, by rw [hframe]; rfl⟩
    rintro b rfl i hi
    exact cwByte_writeReply_body _ (attestReply p mb x) i hi
  · intro p d l o h hr ht
    have hexec := onDev_next (c := .identitySignatureDone) signatureDone s rfl
    rw [signatureDone_takeover h] at hexec
    obtain ⟨links, hsend, hsent⟩ := sendControl_takes (m := updSys s.m (fun y => { y with signing := l })) (bytes := 296)
      (payload := padTo 256 (p ++ identitySignature p)) hr (by rw [length_padTo]) ht
    exact ⟨_, hexec, hsent, by rw [hsend]; rfl⟩

end Sys2Proof.Machine
end

section
/-! PROOFS of the family 02_strokes_states_phases: the ways into FAILED, and the pins and supplies (R82, R83, R114, R115, R302, R648, R712,
R713, R715, R717, R718). -/

namespace Sys2Proof.Machine

/-! ### What folds over units leave unchanged -/

/-- A flit changes only the links and what is sent. -/
theorem sendFlit_frame (m : Dev) (l : Nat) (f : Flit) :
    ∃ links out, sendFlit m l f = { m with net := { m.net with links := links }, out := out } := by
  simp only [sendFlit]
  split
  · exact ⟨_, _, rfl⟩
  · split
    · exact ⟨_, _, rfl⟩
    · exact ⟨_, _, rfl⟩

/-- Flits on any number of links change only the links and what is sent. -/
theorem foldl_sendFlit_frame {α : Type} (link : α → Nat) (f : α → Flit) (l : List α) (m : Dev) :
    ∃ links out, l.foldl (fun m x => sendFlit m (link x) (f x)) m = { m with net := { m.net with links := links }, out := out } := by
  refine List.foldlRecOn (motive := fun t : Dev => ∃ links out, t = { m with net := { m.net with links := links }, out := out }) l _
    ⟨m.net.links, m.out, rfl⟩ ?_
  rintro _ ⟨links, out, rfl⟩ x _
  obtain ⟨links', out', h⟩ := sendFlit_frame { m with net := { m.net with links := links }, out := out } (link x) (f x)
  exact ⟨links', out', h⟩

/-- The brake changes the arrays and the power hub, and is on where the module is not OFF (R644). -/
theorem brakeOn_frame (m : Dev) : ∃ arrays power, brakeOn m = { m with arrays := arrays, power := power }
    ∧ power.capUnits = m.power.capUnits ∧ (m.power.dies = [] → power.dies = []) ∧ (m.sys.st ≠ .off → power.brake = true) := by
  unfold brakeOn
  split
  · rename_i h
    exact ⟨_, _, rfl, rfl, id, fun hst => h.resolve_left hst⟩
  · simp only
    obtain ⟨m', hm'⟩ : ∃ m', m' = updPower m (fun w => { w with
        brake := true, brakeAck := true, brakeHold := false, brakeStart := m.cycle, brakes := sat 16 (w.brakes + 1)
        dies := tmap w.dies (fun _ => stopPriming) }) := ⟨_, rfl⟩
    have hdies : ∀ (ds : List Nat), ∃ arrays, ds.foldl (fun m d =>
        if (pdieAt m d).st < 2 then (List.range 48).foldl (fun m a => updArray m d a (fun x => { x with braked := true, ramped := false })) m
        else m) m' = { m' with arrays := arrays } := by
      intro ds
      refine List.foldlRecOn (motive := fun t : Dev => ∃ arrays, t = { m' with arrays := arrays }) ds _ ⟨m'.arrays, rfl⟩ ?_
      rintro _ ⟨arrays, rfl⟩ d _
      split
      · refine List.foldlRecOn (motive := fun t : Dev => ∃ arrays, t = { m' with arrays := arrays }) (List.range 48) _ ⟨arrays, rfl⟩ ?_
        rintro _ ⟨arrays', rfl⟩ a _
        exact ⟨_, rfl⟩
      · exact ⟨_, rfl⟩
    obtain ⟨arrays, h⟩ := hdies (List.range 8)
    rw [← hm', h, hm']
    exact ⟨arrays, _, rfl, rfl, fun hd => congrArg (fun d => tmap d (fun _ => stopPriming)) hd, fun _ => rfl⟩

/-! ### FAILED (R83, R114) -/

/-- What the module holds once it is FAILED. -/
structure Failed (m : Dev) (reason : Nat) (t : Dev) : Prop where
  state : t.sys.st = .failed
  reason : t.sys.failedReason = reason
  mem : t.mem = m.mem
  answered : ∀ mb < 256, takenIn m mb = true → Answered t mb 0x5001
  replies : t.ctl.replies = []
  waits : t.ctl.waits = []
  accepted : t.ctl.accepted = []

/-- Flits and event records leave a FAILED module as it is. -/
theorem Failed.of_frame {m y : Dev} {reason : Nat} (h : Failed m reason y) (areas : Tab Area) (net : Net) (out : List Out) :
    Failed m reason { y with ctl := { y.ctl with areas := areas }, net := net, out := out } :=
  ⟨h.state, h.reason, h.mem, fun mb hmb ht => (h.answered mb hmb ht).of_same fun _ _ => rfl, h.replies, h.waits, h.accepted⟩

/-- R83, R114: what the mailboxes read is written first; the flits that declare the module, and the event record, change neither. -/
theorem enterFailed_fails (reason : Nat) {m : Dev} (hoff : m.sys.st ≠ .off) (hmin : m.sys.st ≠ .minimal) (hfailed : m.sys.st ≠ .failed) :
    Failed m reason (enterFailed reason m) := by
  unfold enterFailed
  rw [if_neg (by simp [hoff, hmin, hfailed])]
  simp only
  obtain ⟨x, hx⟩ : ∃ x, x = answerLost 0x5001 (takenIn m) m := ⟨_, rfl⟩
  have hmem : x.mem = m.mem := by
    obtain ⟨cw, areas, out, hlost⟩ := answerLost_frame 0x5001 (takenIn m) m
    rw [hx, hlost]
  have hans : ∀ mb < 256, takenIn m mb = true → Answered x mb 0x5001 := fun mb hmb ht => hx ▸ answered_answerLost 0x5001 m hmb ht
  rw [← hx]
  -- the module once its requests are dropped
  obtain ⟨y, hy⟩ : ∃ y, y = updSys { updCtl x (fun c => { c with
      accepted := [], waiting := [], replies := [], waits := [], flips := c.flips ++ c.waiting.map (·.mb) }) with
      jobs := tmap (updCtl x (fun c => { c with
        accepted := [], waiting := [], replies := [], waits := [], flips := c.flips ++ c.waiting.map (·.mb) })).jobs
        (fun _ j => { j with jobWide := none }) }
      (fun s => { s with st := .failed, failedReason := reason, session := none, deferredReset := none, startWait := false, signing := [] }) :=
    ⟨_, rfl⟩
  have hfy : Failed m reason y := by
    subst hy
    exact ⟨rfl, rfl, hmem, fun mb hmb ht => (hans mb hmb ht).of_same fun _ _ => rfl, rfl, rfl, rfl⟩
  rw [← hy]
  have hflits : ∀ z, Failed m reason z → Failed m reason (if (areaAt z 0).reg.isSome then
      emit z { etype := 0x0103, part := 0, status := 0, payload := leBytes 2 reason } else z) := by
    intro z hz
    split
    · obtain ⟨areas, out, h⟩ := emit_frame z { etype := 0x0103, part := 0, status := 0, payload := leBytes 2 reason }
      rw [h]
      exact hz.of_frame areas z.net out
    · exact hz
  apply hflits
  split
  · rename_i p _
    obtain ⟨links, out, h⟩ := foldl_sendFlit_frame id (fun _ => .declare p reason) (List.range 32) y
    rw [show (List.range 32).foldl (fun m l => sendFlit m l (.declare p reason)) y = _ from h]
    exact hfy.of_frame y.ctl.areas { y.net with links := links } out
  · exact hfy

/-- An entry to FAILED as O48 says it. -/
theorem Failed.reached {s : State} {i : Instr} {reason : Nat} (hx : exec i s = .next { s with m := enterFailed reason s.m })
    (h : Failed s.m reason (enterFailed reason s.m)) :
    ∃ t, exec i s = .next t ∧ t.m.sys.st = .failed ∧ t.m.sys.failedReason = reason ∧ t.nv = s.nv ∧ t.m.mem = s.m.mem
      ∧ (∀ mb < 256, takenIn s.m mb = true → mbField t.m mb 16 2 = 0x5001 ∧ mbOwned t.m mb = false)
      ∧ t.m.ctl.replies = [] ∧ t.m.ctl.waits = [] ∧ t.m.ctl.accepted = [] :=
  ⟨_, hx, h.state, h.reason, rfl, h.mem, fun mb hmb ht => ⟨(h.answered mb hmb ht).status, (h.answered mb hmb ht).owner⟩, h.replies, h.waits,
    h.accepted⟩

/-! ### OFF and BOOT (R82, R115, R713) -/

/-- Nothing is left of what the module ran, but the aquifer's data. -/
structure Cleared (m t : Dev) : Prop where
  jobs : t.jobs = []
  ves : t.ves = []
  banks : t.banks = []
  colls : t.colls = []
  bytes : t.mem.bytes = []
  extents : t.mem.aq.extents = m.mem.aq.extents
  dies : t.power.dies = []
  cap : capWatts t = 6000
  position : t.net.position = none

theorem bootState_cleared (aon : Bool) (m : Dev) : Cleared m (bootState aon m) := ⟨rfl, rfl, rfl, rfl, rfl, rfl, rfl, rfl, rfl⟩

/-- The brake keeps a cleared module cleared. -/
theorem Cleared.brakeOn {m t : Dev} (h : Cleared m t) : Cleared m (brakeOn t) := by
  obtain ⟨arrays, power, hb, hcap, hdies, -⟩ := brakeOn_frame t
  rw [hb]
  refine ⟨h.jobs, h.ves, h.banks, h.colls, h.bytes, h.extents, hdies h.dies, ?_, h.position⟩
  have := h.cap
  unfold capWatts at this ⊢
  rw [← this, ← hcap]

/-- The module `m` has entered BOOT as `t`, braked where POWER_BRAKE is asserted. -/
structure Booted (m t : Dev) : Prop where
  cleared : Cleared m t
  state : t.sys.st = .boot
  step : t.sys.startStep = 0
  input : t.sys.inputOk = m.sys.inputOk
  reset : t.sys.resetLow = m.sys.resetLow
  released : m.power.brakePin = false → t.arrays = []
  braked : m.power.brakePin = true → t.power.brake = true

theorem Booted.congr {m m' t : Dev} (h : Booted m t) (hmem : m'.mem = m.mem) (hsys : m'.sys = m.sys) (hpower : m'.power = m.power) :
    Booted m' t :=
  ⟨{ h.cleared with extents := by rw [hmem]; exact h.cleared.extents }, h.state, h.step, by rw [hsys]; exact h.input,
    by rw [hsys]; exact h.reset, by rw [hpower]; exact h.released, by rw [hpower]; exact h.braked⟩

theorem sampleBrake_boots (aon : Bool) (nv : NonVol) (m : Dev) : Booted m (sampleBrake (nv, bootState aon m)).2 := by
  have hpin : (bootState aon m).power.brakePin = m.power.brakePin := rfl
  have hsample : (sampleBrake (nv, bootState aon m)).2 = if m.power.brakePin then brakeOn (bootState aon m) else bootState aon m := rfl
  rw [hsample]
  split
  · rename_i hp
    have hc := (bootState_cleared aon m).brakeOn
    obtain ⟨arrays, power, hb, -, -, hon⟩ := brakeOn_frame (bootState aon m)
    rw [hb] at hc ⊢
    exact ⟨hc, rfl, rfl, rfl, rfl, fun h => absurd (h.symm.trans hp) (by decide), fun _ => hon (fun h => by cases h)⟩
  · rename_i hp
    exact ⟨bootState_cleared aon m, rfl, rfl, rfl, rfl, fun _ => rfl, fun h => absurd h hp⟩

/-- R82, R115: an entry to BOOT while no commit is reading back. -/
theorem enterBoot_boots {aon : Bool} {nv : NonVol} {m : Dev} (hc : committing m = false) :
    (sampleBrake (enterBoot aon none nv m)).1 = (if aon = true then bootLog nv m else nv)
      ∧ Booted m (sampleBrake (enterBoot aon none nv m)).2 := by
  rw [enterBoot_of_not_committing none hc]
  obtain ⟨cw, areas, out, hframe⟩ := bootAnswered_frame none m
  exact ⟨rfl, (sampleBrake_boots aon _ (bootAnswered none m)).congr (by rw [hframe]) (by rw [hframe]) (by rw [hframe])⟩

/-- The state of a module that has entered OFF while no commit was reading back. -/
theorem enterOff_of_not_committing {nv : NonVol} {m : Dev} (hc : committing m = false) :
    enterOff nv m = (nv, updSys (bootState false m) (fun s => { s with st := .off })) := by
  rw [enterOff, interruptHeader_of_not_committing hc]

/-- What a cleared module reads, as O48 says it. -/
theorem Cleared.reads {m t : Dev} (h : Cleared m t) :
    t.jobs = [] ∧ t.ves = [] ∧ t.banks = [] ∧ t.colls = [] ∧ t.mem.bytes = [] ∧ t.mem.aq.extents = m.mem.aq.extents ∧ t.power.dies = []
      ∧ capWatts t = 6000 ∧ t.net.position = none :=
  ⟨h.jobs, h.ves, h.banks, h.colls, h.bytes, h.extents, h.dies, h.cap, h.position⟩

/-! ### The rows of pins and supplies -/

/-- R717: the input leaves its limits. -/
theorem exec_inputShutdown {s : State} (hc : committing s.m = false) : exec .inputShutdown s = .next { s with
    m := updSys (bootState false (updSys s.m (fun y => { y with inputOk := false }))) (fun y => { y with st := .off }) } := by
  have h := onBoot_next (c := .inputShutdown) inputShutdown s rfl
  rwa [inputShutdown, enterOff_of_not_committing (m := updSys s.m (fun y => { y with inputOk := false })) hc] at h

/-- R715: RESET_N is held low. -/
theorem exec_resetNLow {s : State} (hc : committing s.m = false) : exec .resetNLow s = .next { s with
    m := updSys (bootState false (updSys s.m (fun y => { y with resetLow := true }))) (fun y => { y with st := .off }) } := by
  have h := onBoot_next (c := .resetNLow) resetLow s rfl
  rwa [resetLow, enterOff_of_not_committing (m := updSys s.m (fun y => { y with resetLow := true })) hc] at h

/-- R82: power comes to a module that is OFF. -/
theorem powerOn_boots {nv : NonVol} {m : Dev} (hoff : m.sys.st = .off) (hlow : m.sys.resetLow = false) :
    powerOn nv m = sampleBrake (enterBoot false none nv (updSys m (fun y => { y with inputOk := true }))) := by
  simp [powerOn, hoff, updSys, hlow]

/-- R715: RESET_N rises while the input is within its limits. -/
theorem resetHigh_boots {nv : NonVol} {m : Dev} (hin : m.sys.inputOk = true) :
    resetHigh nv m = sampleBrake (enterBoot (!decide (m.sys.st = .off)) none nv (updSys m (fun y => { y with resetLow := false }))) := by
  simp [resetHigh, updSys, hin]

/-- R715: RESET_N rises while the input is outside its limits. -/
theorem resetHigh_noInput {nv : NonVol} {m : Dev} (hin : m.sys.inputOk = false) :
    resetHigh nv m = (nv, updSys m (fun y => { y with resetLow := false })) := by
  simp [resetHigh, updSys, hin]

/-- Settles O48: the three ways into FAILED are `enterFailed`; the pins and supplies are `enterOff`, or `enterBoot` with the brake. -/
theorem pinsAndFailure : Obligations.PinsAndFailure := by
  intro s
  refine ⟨fun hoff hmin hfail => ⟨?_, fun unit hwf => ?_, fun sensor temp hwf hsensor => ⟨fun hcrit => ?_, fun hcool => ?_⟩⟩,
    fun hc => ?_, fun hc => ?_, fun hc hoff hlow => ?_, fun hc hin => ?_, fun hin => ?_, fun offset len hwf haux => ?_⟩
  · exact (enterFailed_fails 0x30 hoff hmin hfail).reached (onDev_next (c := .wellheadUnresponsive) (enterFailed 0x30) s rfl)
  · exact (enterFailed_fails 0x31 hoff hmin hfail).reached (onDevW_next (enterFailed 0x31) s hwf)
  · have h := onDevW_next (criticalTemp sensor temp) s hwf
    rw [criticalTemp, if_pos ⟨hsensor, hcrit⟩] at h
    exact (enterFailed_fails 0x32 hoff hmin hfail).reached h
  · have h := onDevW_next (criticalTemp sensor temp) s hwf
    rw [criticalTemp, if_neg (by omega)] at h
    exact h
  · exact ⟨_, exec_inputShutdown hc, rfl, (bootState_cleared false _).reads, rfl, rfl, rfl⟩
  · exact ⟨_, exec_resetNLow hc, rfl, (bootState_cleared false _).reads, rfl, rfl, rfl⟩
  · have h := onBoot_next (c := .powerOn) powerOn s rfl
    rw [powerOn_boots hoff hlow] at h
    obtain ⟨hnv, hb⟩ := enterBoot_boots (aon := false) (nv := s.nv) (m := updSys s.m (fun y => { y with inputOk := true })) hc
    exact ⟨_, h, hnv, hb.cleared.reads, ⟨hb.released, hb.braked⟩, hb.state, hb.step, hb.input⟩
  · have h := onBoot_next (c := .resetNHigh) resetHigh s rfl
    rw [resetHigh_boots hin] at h
    obtain ⟨hnv, hb⟩ := enterBoot_boots (aon := !decide (s.m.sys.st = .off)) (nv := s.nv)
      (m := updSys s.m (fun y => { y with resetLow := false })) hc
    refine ⟨_, h, hb.cleared.reads, ⟨hb.released, hb.braked⟩, hb.state, hb.step, hb.reset, hnv.trans ?_⟩
    have hlog : bootLog s.nv (updSys s.m (fun y => { y with resetLow := false })) = bootLog s.nv s.m := rfl
    rw [hlog, bootLog]
    by_cases hst : s.m.sys.st = .off
    · simp [hst]
    · simp [hst]
  · have h := onBoot_next (c := .resetNHigh) resetHigh s rfl
    rw [resetHigh_noInput hin] at h
    exact ⟨_, h, rfl⟩
  · have h := onDevW_next (smbFruRead offset len) s hwf
    rw [smbFruRead, if_pos haux] at h
    exact h

end Sys2Proof.Machine
end

section
/-! PROOFS of the family 02_strokes_states_phases: the watcher's report of a mailbox (R104, R108, R109, R112) and the end of the local
stroke (R55, R130). -/

namespace Sys2Proof.Machine

/-! ### The watcher's report (R104, R108) -/

/-- The module once the watcher has taken a flip. -/
def flipTaken (mb : Nat) (m : Dev) : Dev := updCtl m (fun c => { c with flips := c.flips.filter (fun x => decide (x ≠ mb)) })

theorem watcherReport_error {mb : Nat} {nv : NonVol} {m : Dev} {e : Nat × List Byte} (hf : mb ∈ m.ctl.flips)
    (hun : unreached m (mbField m mb 8 2) mb = false) (h : headerCheck nv mb (flipTaken mb m) = .error e) :
    watcherReport mb nv m = (nv, answerRaw mb e.1 e.2 (flipTaken mb m)) := by
  rw [watcherReport, if_neg (by simp [hf, hun])]
  rw [flipTaken] at h ⊢
  simp only [h]

theorem watcherReport_ok {mb : Nat} {nv : NonVol} {m : Dev} {i : Instr} (hf : mb ∈ m.ctl.flips)
    (hun : unreached m (mbField m mb 8 2) mb = false) (h : headerCheck nv mb (flipTaken mb m) = .ok i) :
    watcherReport mb nv m = acceptRequest i nv (flipTaken mb m) := by
  rw [watcherReport, if_neg (by simp [hf, hun])]
  rw [flipTaken] at h ⊢
  simp only [h]

theorem exec_watcherReport {s : State} {mb : Nat} (hmb : mb < 256) : exec (.watcherReport mb) s =
    .next { s with nv := (watcherReport mb s.nv s.m).1, m := (watcherReport mb s.nv s.m).2 } :=
  onBoot_next (c := .watcherReport mb) (watcherReport mb) s (by simp [Instr.wf, boundsWf, hmb])

/-- R108: a check of the header that fails is answered at once. -/
theorem exec_watcherReport_error {s : State} {mb status : Nat} {body : List Byte} (hmb : mb < 256) (hf : mb ∈ s.m.ctl.flips)
    (hun : unreached s.m (mbField s.m mb 8 2) mb = false) (h : headerCheck s.nv mb (flipTaken mb s.m) = .error (status, body)) :
    ∃ t, exec (.watcherReport mb) s = .next t ∧ mbField t.m mb 16 2 = status % 65536 ∧ mbOwned t.m mb = false
      ∧ t = { s with m := { flipTaken mb s.m with
          ctl := { (flipTaken mb s.m).ctl with cw := t.m.ctl.cw, areas := t.m.ctl.areas }, out := t.m.out } } := by
  have hexec := exec_watcherReport (s := s) hmb
  rw [watcherReport_error hf hun h] at hexec
  refine ⟨_, hexec, mbField_writeReply_status .., mbOwned_writeReply .., ?_⟩
  obtain ⟨cw, areas, out, hframe⟩ : ∃ cw areas out, answerRaw mb status body (flipTaken mb s.m) =
      { flipTaken mb s.m with ctl := { (flipTaken mb s.m).ctl with cw := cw, areas := areas }, out := out } := writeReply_frame _ _
  rw [hframe]

/-! ### The checks of a header in their order -/

section
variable {nv : NonVol} {mb : Nat} {m : Dev}

theorem headerCheck_partition (h : mbField m mb 10 1 ≠ mb / 32) : headerCheck nv mb m = .error (0x7001, []) := by
  rw [headerCheck, if_pos h]

theorem headerCheck_admin (h : mbField m mb 10 1 = mb / 32) (ha : adminOpcode (mbField m mb 8 2) = true) (hp : mb / 32 ≠ 0) :
    headerCheck nv mb m = .error (0x7002, []) := by
  rw [headerCheck, if_neg (not_not.mpr h), if_pos ⟨ha, hp⟩]

/-- The requester's partition is the mailbox's, and a request of the whole module comes from partition 0 (R108, R109). -/
def Admitted (m : Dev) (mb : Nat) : Prop :=
  mbField m mb 10 1 = mb / 32 ∧ (adminOpcode (mbField m mb 8 2) = true → mb / 32 = 0)

theorem Admitted.not_refused (h : Admitted m mb) : ¬ (adminOpcode (mbField m mb 8 2) = true ∧ mb / 32 ≠ 0) :=
  fun hr => hr.2 (h.2 hr.1)

theorem headerCheck_unserved (h : Admitted m mb) (hs : servedHere m (mbField m mb 8 2) mb = false) :
    ∃ body, headerCheck nv mb m = .error (0x1001, body) := by
  rw [headerCheck, if_neg (not_not.mpr h.1), if_neg h.not_refused, if_pos (by simp [hs])]
  exact ⟨_, rfl⟩

theorem headerCheck_unread {e : Nat} (h : Admitted m mb) (hs : servedHere m (mbField m mb 8 2) mb = true)
    (hr : mbRequest false m mb = .error e) : headerCheck nv mb m = .error (e, []) := by
  rw [headerCheck, if_neg (not_not.mpr h.1), if_neg h.not_refused, if_neg (by simp [hs]), hr]

theorem headerCheck_read {i : Instr} (h : Admitted m mb) (hs : servedHere m (mbField m mb 8 2) mb = true)
    (hr : mbRequest false m mb = .ok i) : headerCheck nv mb m = formCheck nv mb m i := by
  rw [headerCheck, if_neg (not_not.mpr h.1), if_neg h.not_refused, if_neg (by simp [hs]), hr]

theorem formCheck_security {i : Instr} {c : CmdSpec} {e : Err} (hc : specAll nv i = some c) (he : secErr c m = some e) :
    formCheck nv mb m i = .error (e.status, e.body) := by
  rw [formCheck, hc, Option.bind_some, he]

theorem formCheck_reserved {i : Instr} {c : CmdSpec} {e : Nat} (hc : specAll nv i = some c) (he : secErr c m = none)
    (hr : mbRequest true m mb = .error e) : formCheck nv mb m i = .error (e, []) := by
  rw [formCheck, hc, Option.bind_some, he, hr]

theorem formCheck_notify {i k : Instr} {c : CmdSpec} (hc : specAll nv i = some c) (he : secErr c m = none)
    (hr : mbRequest true m mb = .ok k) (hn : 2 ≤ mbField m mb 11 1) : formCheck nv mb m i = .error (0x2002, []) := by
  rw [formCheck, hc, Option.bind_some, he, hr]
  exact if_pos (.inl hn)

theorem formCheck_ok {i k : Instr} {c : CmdSpec} (hc : specAll nv i = some c) (he : secErr c m = none)
    (hr : mbRequest true m mb = .ok k) (hn : mbField m mb 11 1 < 2) (hz : ∀ b ∈ mbRead m mb 19 5 ++ mbRead m mb 40 24, b = 0) :
    formCheck nv mb m i = .ok k := by
  rw [formCheck, hc, Option.bind_some, he, hr]
  refine if_neg (not_or.mpr ⟨by omega, ?_⟩)
  rw [Bool.not_eq_true, List.any_eq_false]
  intro b hb
  rw [hz b hb]
  decide

end

/-! ### What an accepted request does -/

theorem acceptRequest_of_specOf {i : Instr} {c : CmdSpec} (h : specOf i = some c) (nv : NonVol) (m : Dev) :
    acceptRequest i nv m = (nv, runCmd c m) := by
  unfold acceptRequest
  split
  · cases h
  · cases h
  · rw [specAll_of_specOf h]

/-- The report of a request does what the row of its command does. -/
theorem acceptRequest_exec {i : Instr} {s : State} (hwf : i.wf = true) (hi : (specAll s.nv i).isSome = true) :
    exec i s = .next { s with nv := (acceptRequest i s.nv s.m).1, m := (acceptRequest i s.nv s.m).2 } := by
  obtain ⟨c, hc⟩ := Option.isSome_iff_exists.mp hi
  clear hi
  unfold specAll at hc
  split at hc
  case h_1 mb flags => exact onBoot_next (c := .moduleReset mb flags) (moduleReset mb flags) s hwf
  case h_2 mb flags head => exact onNvRead_next (c := .imageBegin mb flags head) (fun nv => runCmd (specImageBegin nv mb flags head)) s hwf
  case h_3 mb offset data => exact onCmd_next (c := specImageWrite mb offset data) s hwf
  case h_4 mb => exact onCmd_next (c := specImageCommit mb) s hwf
  case h_5 mb nonce jobId => exact onNvRead_next (c := .attest mb nonce jobId) (attest mb nonce jobId) s hwf
  case h_6 mb => exact onNvRead_next (c := .bootStatus mb) (fun nv => runCmd (specBootStatus nv mb)) s hwf
  case h_7 =>
    rw [exec_specOf hc, onDev_next _ _ hwf, acceptRequest_of_specOf hc]

/-- A request that passes every check of its header and its form. -/
theorem exec_watcherReport_ok {s : State} {mb : Nat} {k : Instr} (hmb : mb < 256) (hf : mb ∈ s.m.ctl.flips)
    (hun : unreached s.m (mbField s.m mb 8 2) mb = false) (h : headerCheck s.nv mb (flipTaken mb s.m) = .ok k) :
    exec (.watcherReport mb) s = .next { s with
      nv := (acceptRequest k s.nv (flipTaken mb s.m)).1, m := (acceptRequest k s.nv (flipTaken mb s.m)).2 } := by
  rw [exec_watcherReport hmb, watcherReport_ok hf hun h]

/-! ### A stroke end that has little to write (R130) -/

/-- R129, R130: with no buckets to return and no records to write, the data part of a stroke end does nothing. -/
theorem endStrokeData_none {m : Dev} (stream : Option Nat) (n : Nat) (hh : m.ctl.holds = []) (he : m.ctl.evq = []) :
    endStrokeData m stream n = m := by
  obtain ⟨⟨cycle, free, out, sys, ctl⟩, seen⟩ := m
  obtain ⟨cw⟩ := ctl
  simp only at hh he
  subst hh he
  have hnone : (List.range 8).flatMap (fun _ => ([] : List Event)) = [] := rfl
  simp [endStrokeData, returnRecords, hnone]

/-- R641: without waiting caps a stroke end supersedes none. -/
theorem supersededCaps_none {m : Dev} (n : Nat) (h : m.ctl.waits = []) : supersededCaps n m = m := by
  obtain ⟨⟨cycle, free, out, sys, ctl⟩, seen⟩ := m
  obtain ⟨cw⟩ := ctl
  simp only at h
  subst h
  simp [supersededCaps, updCtl]

/-- R676: without a reset in progress none closes. -/
theorem resetsDone_none {m : Dev} (h : ∀ p < 8, (partAt m p).resetting = false) : resetsDone m = m := by
  refine List.foldlRecOn (motive := fun t : Dev => t = m) (List.range 8) _ rfl ?_
  rintro _ rfl p hp
  rw [if_neg (by simp [h p (List.mem_range.mp hp)])]

/-- R73, R130: a reply as the end of a stroke writes it. -/
def writtenReply (r : Reply) : Reply := if r.spanned ∧ r.stretch ∧ r.status = 0 then { r with status := 0x8001 } else r

theorem writtenReply_mb (r : Reply) : (writtenReply r).mb = r.mb := by
  unfold writtenReply
  split <;> rfl

theorem writtenReply_status (r : Reply) :
    (writtenReply r).status = if r.spanned ∧ r.stretch ∧ r.status = 0 then 0x8001 else r.status := by
  unfold writtenReply
  split <;> rfl

/-- R130: a stroke end that owes one reply writes it. -/
theorem endStrokeReplies_one {m : Dev} {r : Reply} {n : Nat} (hr : m.ctl.replies = [r]) (hs : r.slot = none) (hd : r.due ≤ n) :
    endStrokeReplies m none n = writeReply { m with ctl := { m.ctl with replies := [] } } (writtenReply r) := by
  simp [endStrokeReplies, hr, hs, hd, writtenReply]

/-! ### Registers that count once in a stroke -/

/-- Changing every listed entry of a table, whose keys differ, changes what each key reads. -/
theorem tget_foldl_tset_map {α : Type} [DecidableEq α] (d : α) (f : α → α) (l t : Tab α) (k : Nat)
    (hl : (l.map (·.1)).Pairwise (· < ·)) :
    tget d (l.foldl (fun t a => tset d t a.1 (f a.2)) t) k = match tfind l k with | some v => f v | none => tget d t k := by
  induction l generalizing t with
  | nil => rfl
  | cons x l ih =>
    obtain ⟨hx, hl⟩ := List.pairwise_cons.mp hl
    rw [List.foldl_cons, ih _ hl, tfind]
    by_cases hk : x.1 = k
    · have hnone : tfind l k = none := tfind_none_of fun p hp e => by
        have : x.1 < p.1 := hx p.1 (List.mem_map_of_mem hp)
        omega
      rw [if_pos hk, hnone, tget_tset, if_pos hk.symm]
    · rw [if_neg hk]
      split
      · rfl
      · rw [tget_tset, if_neg (Ne.symm hk)]

/-- A table built anew from the changed entries of another. -/
theorem tget_foldl_tset_nil {α : Type} [DecidableEq α] {d : α} {f : α → α} (hf : f d = d) (l : Tab α) (k : Nat)
    (hl : (l.map (·.1)).Pairwise (· < ·)) : tget d (l.foldl (fun t a => tset d t a.1 (f a.2)) []) k = f (tget d l k) := by
  rw [tget_foldl_tset_map d f l [] k hl]
  unfold tget
  cases tfind l k with
  | some v => rfl
  | none => exact hf.symm

/-! ### The end of the local stroke -/

/-- The module once the one reply that the end of the local stroke owes is written. -/
def replied (r : Reply) (m : Dev) : Dev := writeReply { m with ctl := { m.ctl with replies := [] } } (writtenReply r)

theorem replied_frame (r : Reply) (m : Dev) : ∃ cw areas out, replied r m = { m with
    ctl := { m.ctl with cw := cw, areas := areas, replies := [] }, out := out } := by
  obtain ⟨cw, areas, out, h⟩ := writeReply_frame { m with ctl := { m.ctl with replies := [] } } (writtenReply r)
  exact ⟨cw, areas, out, h⟩

/-- R130: the end of the local stroke writes the reply, keeps what a query reports, and begins the next stroke. -/
theorem localEnds_replied {m : Dev} {r : Reply} (hr : m.ctl.replies = [r]) (hs : r.slot = none) (hd : r.due ≤ m.ctl.localStroke)
    (hw : m.ctl.waits = []) (hh : m.ctl.holds = []) (he : m.ctl.evq = []) (hp : ∀ p < 8, (partAt m p).resetting = false) :
    localEnds m = updCtl (strokeLatches { replied r m with seen := tput m.seen 16 { (replied r m).toBody with out := [] } })
      (fun c => { c with localStroke := (m.ctl.localStroke + 1) % 2 ^ 64 }) := by
  obtain ⟨cw, areas, out, hframe⟩ := replied_frame r m
  have hend : endStroke m none m.ctl.localStroke false
      = { replied r m with seen := tput m.seen 16 { (replied r m).toBody with out := [] } } := by
    have hrep : endStrokeReplies (endStrokeData m none m.ctl.localStroke) none m.ctl.localStroke = replied r m := by
      rw [endStrokeData_none _ _ hh he, endStrokeReplies_one hr hs hd, replied]
    have hseen : (replied r m).seen = m.seen := by rw [hframe]
    rw [endStroke]
    simp only [Bool.false_eq_true, if_false, hrep, hseen, streamKey]
  rw [localEnds]
  simp only
  rw [supersededCaps_none _ hw, hend, resetsDone_none]
  rw [hframe]
  exact hp

/-- The same in the fields of the module. -/
theorem localEnds_fields {m : Dev} {r : Reply} (hr : m.ctl.replies = [r]) (hs : r.slot = none) (hd : r.due ≤ m.ctl.localStroke)
    (hw : m.ctl.waits = []) (hh : m.ctl.holds = []) (he : m.ctl.evq = []) (hp : ∀ p < 8, (partAt m p).resetting = false) :
    ∃ cw areas out b, localEnds m = { m with
        ctl := { m.ctl with
          cw := cw, areas := areas, replies := [], localStroke := (m.ctl.localStroke + 1) % 2 ^ 64, violated := []
          bucketFlips := m.ctl.bucketFlips.filter (fun b => decide (bucketStream m b ≠ none)) }
        net := { m.net with winFaults := [] }
        arrays := m.arrays.foldl (fun t a => tset {} t a.1 { a.2 with failedCols := [] }) []
        banks := m.banks.foldl (fun t b => tset {} t b.1 { b.2 with faulted := false }) []
        out := out, seen := tput m.seen 16 b }
      ∧ Answered (localEnds m) r.mb ((if r.spanned ∧ r.stretch ∧ r.status = 0 then 0x8001 else r.status) % 65536)
      ∧ b.ctl.localStroke = m.ctl.localStroke ∧ b.ctl.cw = cw ∧ b.jobs = m.jobs ∧ b.mem = m.mem := by
  have hends := localEnds_replied hr hs hd hw hh he hp
  obtain ⟨cw, areas, out, hframe⟩ := replied_frame r m
  have hans := answered_writeReply { m with ctl := { m.ctl with replies := [] } } (writtenReply r)
  rw [← replied, writtenReply_mb, writtenReply_status] at hans
  generalize replied r m = x at hends hframe hans
  refine ⟨cw, areas, out, { x.toBody with out := [] }, ?_, ?_, ?_, ?_, ?_, ?_⟩
  · rw [hends, hframe]
    rfl
  · rw [hends]
    exact hans.of_same fun _ _ => rfl
  all_goals rw [hframe]

/-- R55: with no request that waits for it, the tick is the end of the local stroke. -/
theorem localTick_idle {nv : NonVol} {m : Dev} (hst : m.sys.st ∈ [.minimal, .ready, .active, .quiesced])
    (hacc : (localEnds m).ctl.accepted = []) (hwait : (localEnds m).ctl.waiting = []) (hd : (localEnds m).sys.deferredReset = none) :
    resetDeferred (localTick nv m).1 (localTick nv m).2 = (nv, localEnds m) := by
  have hone : localApplied nv m = (nv, localEnds m) := by
    have hnone : acceptedOf (localEnds m) none = [] := by
      rw [acceptedOf, hacc]
      rfl
    rw [localApplied, hnone]
    rfl
  rw [localTick_running hst, hone, answerUnbound_of_waiting hwait, resetDeferred_none hd]

/-- Settles O55: a report is `answerRaw` for the first check that fails, and otherwise the row of its command; the end of the local stroke
is `localEnds`, with one reply to write. -/
theorem requestsAndLocalStrokes : Obligations.RequestsAndLocalStrokes := by
  intro s
  refine ⟨?_, ?_⟩
  · intro mb m hmb hf hun hm
    replace hm : flipTaken mb s.m = m := hm.symm
    have hfield : ∀ o n, mbField s.m mb o n = mbField m mb o n := fun o n => hm ▸ rfl
    have hread : ∀ o n, mbRead s.m mb o n = mbRead m mb o n := fun o n => hm ▸ rfl
    have hserved : ∀ op, servedHere s.m op mb = servedHere m op mb := fun op => hm ▸ rfl
    have answered : ∀ {status body}, headerCheck s.nv mb m = .error (status, body) → ∃ t, exec (.watcherReport mb) s = .next t
        ∧ mbField t.m mb 16 2 = status % 65536 ∧ mbOwned t.m mb = false
        ∧ t = { s with m := { m with ctl := { m.ctl with cw := t.m.ctl.cw, areas := t.m.ctl.areas }, out := t.m.out } } :=
      fun h => hm ▸ exec_watcherReport_error hmb hf hun (hm ▸ h)
    have accepted : ∀ {k}, headerCheck s.nv mb m = .ok k → exec (.watcherReport mb) s =
        .next { s with nv := (acceptRequest k s.nv m).1, m := (acceptRequest k s.nv m).2 } :=
      fun h => hm ▸ exec_watcherReport_ok hmb hf hun (hm ▸ h)
    clear hm
    simp only [hfield, hread, hserved]
    refine ⟨fun hp => answered (headerCheck_partition hp), fun hp ha hz => answered (headerCheck_admin hp ha hz), fun hal hs => ?_,
      fun hal hs e hr => answered (headerCheck_unread hal hs hr),
      fun hal hs i c e hr hc he => answered ((headerCheck_read hal hs hr).trans (formCheck_security hc he)),
      fun hal hs i c hr hc he => ⟨fun e hr' => ?_, fun k hr' hn => ?_, fun k hr' hn hz => ⟨fun hwf hk => ?_, ?_⟩⟩⟩
    · obtain ⟨body, h⟩ := headerCheck_unserved (nv := s.nv) hal hs
      exact answered h
    · exact answered ((headerCheck_read hal hs hr).trans (formCheck_reserved hc he hr'))
    · exact answered ((headerCheck_read hal hs hr).trans (formCheck_notify hc he hr' hn))
    · rw [accepted ((headerCheck_read hal hs hr).trans (formCheck_ok hc he hr' hn hz))]
      exact (acceptRequest_exec (s := { s with m := m }) hwf hk).symm
    · intro c' hc' hq hj hun' hacc
      rw [accepted ((headerCheck_read hal hs hr).trans (formCheck_ok hc he hr' hn hz)),
        acceptRequest_of_specOf hc', runCmd_queues hj hq hun' hacc, queueCmd_timed hj]
  · rintro r n rfl hoff hboot hfail hr hslot hdue hacc hwait hw hh he hp hd
    have hst : s.m.sys.st ∈ [.minimal, .ready, .active, .quiesced] := by
      cases hs : s.m.sys.st <;> simp_all
    obtain ⟨cw, areas, out, b, hends, hans, hstroke, hcw, hjobs, hmem⟩ := localEnds_fields hr hslot hdue hw hh he hp
    have htick : resetDeferred (localTick s.nv s.m).1 (localTick s.nv s.m).2 = (s.nv, localEnds s.m) :=
      localTick_idle hst (by rw [hends]; exact hacc) (by rw [hends]; exact hwait) (by rw [hends]; exact hd)
    have hexec := exec_localStrokeTick s
    rw [htick] at hexec
    refine ⟨_, b, hexec, hans.status, hans.owner, fun hpair d a => ?_, fun hpair d a => ?_, hstroke, ?_, hjobs, hmem, ?_⟩
    · rw [hends]
      exact tget_foldl_tset_nil (f := fun x : MArray => { x with failedCols := [] }) rfl s.m.arrays (d * 48 + a) hpair
    · rw [hends]
      exact tget_foldl_tset_nil (f := fun x : Bank => { x with faulted := false }) rfl s.m.banks (d * 160 + a) hpair
    · rw [hends, hcw]
    · rw [hends]

end Sys2Proof.Machine
end

section
/-! PROOFS of the family 02_strokes_states_phases: what express flits leave behind that go out at once (R450, R454). -/

namespace Sys2Proof.Machine

/-- From `m` to `t` flits have gone out at once, each in a frame of its link: the retry buffers of those links and their SEQ have moved on,
and nothing else has changed. -/
structure FlitsSent (m t : Dev) (sent : List (Nat × Flit)) : Prop where
  frame : t = { m with net := { m.net with links := t.net.links }, out := m.out ++ sent.map (fun x => .flit x.1 x.2) }
  framed : framedOn m t (sent.map (·.1))

theorem FlitsSent.refl (m : Dev) : FlitsSent m m [] := ⟨by simp, fun _ _ => rfl, fun _ => ⟨_, _, rfl⟩⟩

theorem FlitsSent.linkUp {m t : Dev} {sent : List (Nat × Flit)} (h : FlitsSent m t sent) (l : Nat) :
    linkUp (linkAt t l) = linkUp (linkAt m l) := by
  obtain ⟨retry, next, hl⟩ := h.framed.2 l
  rw [hl]
  rfl

theorem FlitsSent.trans {m t u : Dev} {sent sent' : List (Nat × Flit)} (h : FlitsSent m t sent) (h' : FlitsSent t u sent') :
    FlitsSent m u (sent ++ sent') := by
  refine ⟨?_, fun j hj => ?_, fun j => ?_⟩
  · rw [h'.frame, h.frame]
    simp
  · simp only [List.map_append, List.mem_append, not_or] at hj
    rw [h'.framed.1 j hj.2, h.framed.1 j hj.1]
  · obtain ⟨retry, next, hl⟩ := h'.framed.2 j
    obtain ⟨_, _, hl'⟩ := h.framed.2 j
    exact ⟨retry, next, by rw [hl, hl']⟩

theorem putFlit_sent (m : Dev) (l : Nat) (f : Flit) : FlitsSent m (putFlit l f m) [(l, f)] := by
  have hlink : ∀ j, linkAt (putFlit l f m) j = linkAt (frameSent l (.flit f) m) j := fun _ => rfl
  refine ⟨rfl, fun j hj => ?_, fun j => ?_⟩
  · rw [hlink, frameSent, linkAt_updLink, if_neg (by simpa using hj)]
  · rw [hlink, frameSent, linkAt_updLink]
    split
    · rename_i h
      exact ⟨_, _, by rw [h]⟩
    · exact ⟨_, _, rfl⟩

theorem sendFlit_down {m : Dev} {l : Nat} (f : Flit) (h : linkUp (linkAt m l) = false) : sendFlit m l f = m := by
  rw [sendFlit]
  simp only [h, Bool.not_false, if_true]

/-- A flit on a link that takes it at once, or that is down. -/
theorem sendFlit_sent {m : Dev} {l : Nat} (f : Flit) (h : linkUp (linkAt m l) = true → (linkAt m l).takesFlit = true) :
    FlitsSent m (sendFlit m l f) (if linkUp (linkAt m l) = true then [(l, f)] else []) := by
  split
  next hup =>
    rw [sendFlit_takes m l f (h hup)]
    exact putFlit_sent m l f
  next hdown =>
    rw [sendFlit_down f (by simpa using hdown)]
    exact .refl m

/-- Flits on different links go out together. -/
theorem foldl_sendFlit_sent {α : Type} (link : α → Nat) (f : α → Flit) (xs : List α) : ∀ (m : Dev),
    (∀ x ∈ xs, linkUp (linkAt m (link x)) = true → (linkAt m (link x)).takesFlit = true) →
    ((xs.map link).filter (fun l => linkUp (linkAt m l))).Nodup →
    FlitsSent m (xs.foldl (fun m x => sendFlit m (link x) (f x)) m)
      ((xs.filter (fun x => linkUp (linkAt m (link x)))).map (fun x => (link x, f x))) := by
  induction xs with
  | nil => exact fun m _ _ => .refl m
  | cons x xs ih =>
    intro m htakes hnodup
    have hone := sendFlit_sent (f x) (htakes x (by simp))
    have hup : ∀ l, linkUp (linkAt (sendFlit m (link x) (f x)) l) = linkUp (linkAt m l) := hone.linkUp
    rw [List.map_cons, List.filter_cons] at hnodup
    have hsame : ∀ y ∈ xs, linkUp (linkAt m (link y)) = true → linkAt (sendFlit m (link x) (f x)) (link y) = linkAt m (link y) := by
      intro y hy hyup
      refine hone.framed.1 _ fun hmem => ?_
      split at hmem
      next hx =>
        rw [if_pos (by exact hx)] at hnodup
        simp only [List.map_cons, List.map_nil, List.mem_singleton] at hmem
        exact (List.nodup_cons.mp hnodup).1 (hmem ▸ List.mem_filter.mpr ⟨List.mem_map_of_mem hy, hyup⟩)
      next => simp at hmem
    have hrest := ih (sendFlit m (link x) (f x))
      (fun y hy hyup => by rw [hup] at hyup; rw [hsame y hy hyup]; exact htakes y (List.mem_cons_of_mem _ hy) hyup)
      (by
        simp only [hup]
        split at hnodup
        · exact (List.nodup_cons.mp hnodup).2
        · exact hnodup)
    simp only [hup] at hrest
    have h := hone.trans hrest
    rw [List.foldl_cons, List.filter_cons]
    split
    next hx => simpa [hx] using h
    next hx => simpa [hx] using h

theorem nodup_bitsOf (n v : Nat) : (bitsOf n v).Nodup := List.Nodup.filter _ List.nodup_range

/-- R457: a flit goes down a tree on each of its DOWN links that is up. -/
theorem forwardDown_sent {m : Dev} (e : TreeEntry) (f : Flit)
    (h : ∀ l, linkUp (linkAt m l) = true → (linkAt m l).takesFlit = true) :
    FlitsSent m (forwardDown e f m) (((bitsOf 32 e.down).filter (fun l => linkUp (linkAt m l))).map (fun l => (l, f))) :=
  foldl_sendFlit_sent id (fun _ => f) (bitsOf 32 e.down) m (fun _ _ => h _) (by
    rw [List.map_id]
    exact (nodup_bitsOf 32 e.down).filter _)

end Sys2Proof.Machine
end

section
/-! PROOFS of the family 02_strokes_states_phases: joins, the loss of the origin, declared failures, and the entry of a recovery (R85,
R458, R459, R585, R594, R597, R598). -/

namespace Sys2Proof.Machine

theorem forwarding_of_eq {m t : Dev} (h : t.sys = m.sys) : forwarding t = forwarding m := by simp only [forwarding, h]

theorem arrives_of {m : Dev} {link : Nat} (hf : forwarding m = true) (hup : linkUp (linkAt m link) = true) : arrives m link = true := by
  simp [arrives, hf, hup]

/-- A module of one job finds it in its slot. -/
theorem jobAt_only {m : Dev} {slot : Nat} {j : Job} (h : m.jobs = [(slot, j)]) : jobAt m slot = some j := by simp [jobAt, h, tfind]

theorem updJob_only {m : Dev} {slot : Nat} {j : Job} (h : m.jobs = [(slot, j)]) (f : Job → Job) :
    updJob m slot f = { m with jobs := [(slot, f j)] } := by
  simp [updJob, h, tupd, tfind, tput]

/-! ### Joins (R85, R458) -/

theorem joinFlit_eq {m : Dev} {e : TreeEntry} {link joined : Nat} (hf : forwarding m = true) (hup : linkUp (linkAt m link) = true)
    (ht : treeOf m e.tree = some e) (hd : bitOf e.down link = true) : joinFlit link e.tree joined m =
      let m' : Dev := { m with net := { m.net with joins := tset 0 m.net.joins (e.tree * 32 + link) joined } }
      if joinCount m' e = joinCount m e then m' else sendJoin m' e := by
  rw [joinFlit, if_neg (by simp [hf, hup]), ht]
  simp only [hd, if_true]
  rfl

/-! ### The loss of the origin (R594) -/

theorem length_recoveryPayload (j : Job) (kind attempt size : Nat) (b13 rest : List Byte) :
    (recoveryPayload j kind attempt size b13 rest).length = size := length_padTo ..

theorem originLost_eq {m : Dev} {slot c d : Nat} {j : Job} (hj : m.jobs = [(slot, j)]) (hs : j.started = true) (ho : j.isOrigin = false)
    (hc : coordOf j = some c) (hn : nextCoord j = some d) (hd : d ≠ j.self) : originLost slot m =
      sendControl { m with jobs := [(slot, { j with recov := { j.recov with addressed := some d } })] } d
        (recoveryPayload j 0x20 j.recov.attempt 64 (leBytes 1 3 ++ leBytes 2 c) []) := by
  rw [originLost, jobAt_only hj]
  simp only [hc]
  rw [if_pos ⟨hs, by simp [ho]⟩, sendReport, jobAt_only hj]
  simp only [hc, hn, true_or, and_self, if_true, hd, if_false]
  rw [updRecov, updJob_only hj]

/-! ### Declared failures (R459) -/

/-- A position that every job has reported already is reported no more. -/
theorem reportDeclared_reported {m : Dev} {slot position : Nat} {j : Job} (hj : m.jobs = [(slot, j)]) (hr : position ∈ j.recov.reported) :
    reportDeclared position m = m := by
  simp [reportDeclared, hj, hr]

end Sys2Proof.Machine
end

section
/-! PROOFS of the family 02_strokes_states_phases: the parts of a boundary (R77, R130) that have little to do. -/

namespace Sys2Proof.Machine

/-! ### What the end of a stroke changes (R129, R130) -/

/-- From `m` to `t` a stroke end has written to the host: of the control path, only requests and flips that wait are sure to stand. -/
structure StrokeWritten (m t : Dev) : Prop where
  frame : t = { m with ctl := t.ctl, out := t.out, seen := t.seen }
  accepted : t.ctl.accepted = m.ctl.accepted
  waiting : t.ctl.waiting = m.ctl.waiting
  bucketFlips : t.ctl.bucketFlips = m.ctl.bucketFlips

theorem StrokeWritten.refl (m : Dev) : StrokeWritten m m := ⟨rfl, rfl, rfl, rfl⟩

theorem StrokeWritten.trans {m t u : Dev} (h : StrokeWritten m t) (h' : StrokeWritten t u) : StrokeWritten m u :=
  ⟨by rw [h'.frame, h.frame], h'.accepted.trans h.accepted, h'.waiting.trans h.waiting, h'.bucketFlips.trans h.bucketFlips⟩

theorem strokeWritten_foldl {α : Type} (f : Dev → α → Dev) (hf : ∀ m a, StrokeWritten m (f m a)) (l : List α) (m : Dev) :
    StrokeWritten m (l.foldl f m) :=
  List.foldlRecOn (motive := fun t : Dev => StrokeWritten m t) l f (.refl m) fun t ht a _ => ht.trans (hf t a)

theorem emit_written (m : Dev) (e : Event) : StrokeWritten m (emit m e) := by
  obtain ⟨areas, out, h⟩ := emit_frame m e
  rw [h]
  exact ⟨rfl, rfl, rfl, rfl⟩

theorem writeReply_written (m : Dev) (r : Reply) : StrokeWritten m (writeReply m r) := by
  obtain ⟨cw, areas, out, h⟩ := writeReply_frame m r
  rw [h]
  exact ⟨rfl, rfl, rfl, rfl⟩

theorem returnBucket_written (m : Dev) (h : BucketHold) (n kind : Nat) : StrokeWritten m (returnBucket m h n kind) := by
  rw [returnBucket]
  split
  · rw [setFlag]
    split
    · exact .refl m
    · exact ⟨rfl, rfl, rfl, rfl⟩
  · exact .refl m

theorem endStrokeData_written (m : Dev) (stream : Option Nat) (n : Nat) : StrokeWritten m (endStrokeData m stream n) := by
  unfold endStrokeData
  simp only
  refine .trans ?_ (strokeWritten_foldl _ emit_written _ _)
  exact .trans (strokeWritten_foldl _ (fun t h => returnBucket_written t h n _) _ m) ⟨rfl, rfl, rfl, rfl⟩

theorem endStrokeReplies_written (m : Dev) (stream : Option Nat) (n : Nat) : StrokeWritten m (endStrokeReplies m stream n) := by
  refine .trans (t := { m with ctl := { m.ctl with
    replies := m.ctl.replies.filter (fun r => !(decide (r.slot = stream) && decide (r.due ≤ n))) } }) ⟨rfl, rfl, rfl, rfl⟩ ?_
  exact strokeWritten_foldl (fun t r => writeReply t (writtenReply r)) (fun t r => writeReply_written t _) _ _

theorem endStroke_written (m : Dev) (stream : Option Nat) (n : Nat) (stretched : Bool) :
    StrokeWritten m (endStroke m stream n stretched) := by
  have hmark : StrokeWritten m (if stretched then markSpanned m stream else m) := by
    split
    · exact ⟨rfl, rfl, rfl, rfl⟩
    · exact .refl m
  rw [endStroke]
  have h := hmark.trans ((endStrokeData_written _ stream n).trans (endStrokeReplies_written _ stream n))
  revert h
  generalize endStrokeReplies _ stream n = t
  exact fun h => h.trans ⟨rfl, rfl, rfl, rfl⟩

/-! ### Units that a boundary finds empty -/

/-- R390: without tinctures and pools the end of a stroke frees nothing. -/
theorem genStrokeEnd_none {m : Dev} (js n : Nat) (ht : m.tinctures = []) (hp : m.pools = []) : genStrokeEnd js n m = m := by
  have hpool : ∀ d, poolAt m d js = none := fun d => by simp [poolAt, hp, tfind]
  rw [genStrokeEnd, tinctStrokeEnd, ht]
  simp only [List.filter_nil, List.foldl_nil]
  refine List.foldlRecOn (motive := fun t : Dev => t = m) (List.range 8) _ rfl ?_
  rintro _ rfl d _
  rw [updPool, hpool]
  simp only
  rw [poolWater, hpool]

theorem tinctBoundary_none {m : Dev} (js : Nat) (ht : m.tinctures = []) : tinctBoundary js m = m := by
  rw [tinctBoundary, ht]
  rfl

theorem applyWaiting_none {m : Dev} (js : Nat) (h : m.ctl.accepted = []) : applyWaiting js m = m := by
  rw [applyWaiting, acceptedOf, h]
  rfl

theorem acceptNext_none {m : Dev} (js : Nat) (h : m.ctl.waiting = []) : acceptNext js m = m := by
  rw [acceptNext, h]
  rfl

/-! ### What links hand over (R462) -/

theorem setNth_nth_self {α : Type} (d : α) (l : List α) (i : Nat) : setNth l i (nth d l i) = l := by
  rw [setNth, nth]
  by_cases h : i < l.length
  · rw [List.getD_eq_getElem _ _ h, List.set_getElem_self]
  · exact List.set_eq_of_length_le (by omega)

/-- From `m` to `t` the links have handed over what they hold; those that hold nothing are as they were. -/
structure Drained (m t : Dev) : Prop where
  frame : t = { m with net := { m.net with links := t.net.links } }
  linkAt : (∀ l v, nth 0 (linkAt m l).rx v = 0) → ∀ l, linkAt t l = linkAt m l
  flitq : ∀ l, (Machine.linkAt t l).flitq = (Machine.linkAt m l).flitq

theorem unitTaken_drained (m : Dev) (l v bytes : Nat) : Drained m (unitTaken l v bytes m) := by
  refine ⟨rfl, fun hrx k => ?_, fun k => ?_⟩
  · rw [unitTaken, linkAt_updLink]
    split
    next h =>
      subst h
      simp only [hrx, Nat.min_zero, Nat.sub_zero, Nat.add_zero]
      have h0 : setNth (Machine.linkAt m k).rx v 0 = (Machine.linkAt m k).rx := by
        conv_rhs => rw [← setNth_nth_self 0 (Machine.linkAt m k).rx v, hrx]
      rw [h0, setNth_nth_self]
    next => rfl
  · rw [unitTaken, linkAt_updLink]
    split
    next h => rw [h]
    next => rfl

theorem Drained.refl (m : Dev) : Drained m m := ⟨rfl, fun _ _ => rfl, fun _ => rfl⟩

theorem Drained.trans {m t u : Dev} (h : Drained m t) (h' : Drained t u) : Drained m u :=
  ⟨by rw [h'.frame, h.frame], fun hrx l => by
    rw [h'.linkAt (fun l v => by rw [h.linkAt hrx]; exact hrx l v), h.linkAt hrx], fun l => (h'.flitq l).trans (h.flitq l)⟩

/-- Each link hands over what it holds at a boundary. -/
def drainLinks (m : Dev) : Dev := (List.range 32).foldl drainLink m

theorem drainLinks_drained (m : Dev) : Drained m (drainLinks m) := by
  refine List.foldlRecOn (motive := fun t : Dev => Drained m t) (List.range 32) drainLink (.refl m) fun t ht l _ => ht.trans ?_
  refine List.foldlRecOn (motive := fun u : Dev => Drained t u) (List.range 6) _ (.refl t) fun u hu v _ => ?_
  split
  · exact hu.trans (unitTaken_drained ..)
  · exact hu

/-- The engines of a module that posts and spreads nothing do no more at a boundary. -/
theorem engineWork_idle {m : Dev} {slot : Nat} {j : Job} (hj : m.jobs = [(slot, j)]) (hp : m.posts = []) (hs : j.recov.spreading = false) :
    engineWork m = drainLinks m := by
  have hd := (drainLinks_drained m).frame
  have hjobs : (drainLinks m).jobs = [(slot, j)] := by rw [hd]; exact hj
  have hposts : (drainLinks m).posts = [] := by rw [hd]; exact hp
  have hpost : postAll [] (drainLinks m) = drainLinks m := by
    rw [postAll, hposts]
    simp only [List.append_nil, List.length_nil, Nat.add_zero, postWaiting]
    rw [← hposts]
  rw [engineWork, ← drainLinks]
  simp only [hpost, hjobs, List.map_cons, List.map_nil, List.foldl_cons, List.foldl_nil]
  rw [spreadDone, jobAt_only hjobs]
  simp [hs]

/-! ### The boundary itself (R77) -/

/-- R77 from step 3 on, where the record has no job-wide command, no request waits and neither service has work: what is left is to start
the programs. -/
theorem boundary_dispatches {js count : Nat} {stretched : Bool} {it : Items} {launches : List Launch} {m x : Dev} {y : Job}
    (hx : transitions js it stretched (flipsTake (some js) (openStroke js count stretched it.margin (closeStroke js stretched m))) = x)
    (hjobs : x.jobs = [(js, y)]) (hposts : x.posts = []) (hspread : y.recov.spreading = false) (hwide : it.jobWide = none)
    (hacc : x.ctl.accepted = []) (hlearn : y.phase ≠ .learn) (hgen : y.phase = .generate → y.gen = none) :
    ∃ t, Drained x t ∧ boundary js count stretched it launches m = acceptNext js (dispatch js launches t) := by
  have hdrained := drainLinks_drained x
  refine ⟨drainLinks x, hdrained, ?_⟩
  have hjobs' : jobAt (drainLinks x) js = some y := jobAt_only (by rw [hdrained.frame]; exact hjobs)
  have hgenB : genBoundary js (drainLinks x) = drainLinks x := by
    rw [genBoundary, hjobs']
    by_cases hg : y.phase = .generate
    · simp [hg, hgen hg]
    · simp [hg]
  have hlearnB : learnItems js (drainLinks x) = drainLinks x := by
    rw [learnItems, hjobs']
    simp [hlearn]
  rw [boundary]
  simp only [hx, hwide, Option.isSome_none, Bool.false_eq_true, if_false, ite_self, engineWork_idle hjobs hposts hspread]
  rw [applyWaiting_none js (by rw [hdrained.frame]; exact hacc), hgenB, hlearnB]

end Sys2Proof.Machine
end

section
/-! PROOFS of the family 02_strokes_states_phases: the transitions of a boundary, and the entry of a recovery (R598, R600). -/

namespace Sys2Proof.Machine

/-! ### The transitions of a boundary that carries at most a recovery item (R77 step 2) -/

section
variable {js : Nat} {m : Dev} {j : Job}

theorem turnTick_none (hj : m.jobs = [(js, j)]) (hturn : j.phase ≠ .turning) (hshard : j.phase = .generate → j.learn.hasShard = false)
    (stretched : Bool) : turnTick js stretched m = m := by
  rw [turnTick, jobAt_only hj]
  simp only [hturn, if_false]
  rw [releaseShard, jobAt_only hj]
  simp only
  rw [if_neg]
  rintro ⟨hg, hs, _⟩
  simp [hshard hg] at hs

theorem recoveryTick_none (hj : m.jobs = [(js, j)]) (hrec : j.phase ≠ .recovering) (hmis : j.recov.mismatch = 0) : recoveryTick js m = m := by
  rw [recoveryTick, jobAt_only hj]
  simp [hrec, hmis]

theorem learnCommits_none (hj : m.jobs = [(js, j)]) (hl : j.phase ≠ .learn) : learnCommits js m = m := by
  rw [learnCommits, jobAt_only hj]
  simp only
  split
  · rw [if_neg (fun h => hl h.1)]
  · rfl

theorem learnStarts_none (hj : m.jobs = [(js, j)]) (hl : j.phase ≠ .learn) : learnStarts js m = m := by
  rw [learnStarts, jobAt_only hj]
  simp [hl]

end

/-- A record that holds no turn, no verdict and no securing decision. -/
structure Items.Plain (it : Items) : Prop where
  turn : it.turn = none
  secure : it.secure = none
  verdict : it.verdict = none

theorem transitions_plain {js : Nat} {it : Items} {stretched : Bool} {m x : Dev} {j y : Job} (hit : it.Plain) (hj : m.jobs = [(js, j)])
    (hturn : j.phase ≠ .turning) (hrec : j.phase ≠ .recovering) (hshard : j.phase = .generate → j.learn.hasShard = false)
    (hmis : j.recov.mismatch = 0) (hnone : it.recov = none → m = x) (hsome : ∀ r, it.recov = some r → recoveryApply js r m = x)
    (hx : x.jobs = [(js, y)]) (hl : y.phase ≠ .learn) (ht : x.tinctures = []) : transitions js it stretched m = x := by
  rw [transitions, turnTick_none hj hturn hshard, recoveryTick_none hj hrec hmis]
  simp only [hit.turn, hit.secure, hit.verdict]
  cases hr : it.recov with
  | none =>
    obtain rfl := hnone hr
    simp only
    rw [learnCommits_none hx hl, learnStarts_none hx hl, tinctBoundary_none js ht]
  | some r =>
    simp only [hsome r hr]
    rw [learnCommits_none hx hl, learnStarts_none hx hl, tinctBoundary_none js ht]

/-! ### The entry of a recovery (R598) -/

/-- R598: the programs of the job end. -/
theorem programsDone_endPrograms (js : Nat) (m : Dev) : programsDone (endPrograms js m) js = true := by
  simp only [programsDone, endPrograms, tmap, tkeep, List.all_map, List.all_filter, Bool.and_eq_true, List.all_eq_true, Function.comp_apply]
  refine ⟨⟨⟨⟨⟨?_, ?_⟩, ?_⟩, ?_⟩, ?_⟩, ?_⟩
  · intro v _
    simp
  · intro a _
    by_cases h : a.2.job = some js <;> simp [h]
  · intro d _
    split <;> simp
  · intro p _
    simp
  · intro a _
    simp
  · intro a _
    simp

/-- What the coordinator decides at an entry of kind REWIND is in the recovery alone, but for the TAKEOVERs that it has signed (R591). -/
theorem afterEnter_rewind {js : Nat} {m : Dev} {j : Job} (hj : m.jobs = [(js, j)]) (hk : j.recov.kind = 1) :
    ∃ sys stage chosen spareUps configured next, afterEnter js m = { m with
      sys := sys
      jobs := [(js, { j with recov := { j.recov with
        stage := stage, chosen := chosen, spareUps := spareUps, configured := configured, next := next } })] } := by
  have hsame : m = { m with
      sys := m.sys
      jobs := [(js, { j with recov := { j.recov with
        stage := j.recov.stage, chosen := j.recov.chosen, spareUps := j.recov.spareUps, configured := j.recov.configured
        next := j.recov.next } })] } := by
    rw [← hj]
  rw [afterEnter, jobAt_only hj]
  simp only
  split
  · exact ⟨_, _, _, _, _, _, hsame⟩
  · rw [if_neg (by simp [hk]), if_neg (by simp [hk])]
    split
    · rw [restoreItem, jobAt_only hj]
      simp only
      rw [updRecov, updJob_only hj]
      exact ⟨m.sys, j.recov.stage, j.recov.chosen, j.recov.spareUps, j.recov.configured, _, rfl⟩
    · rw [updRecov, updJob_only hj, updSys]
      exact ⟨_, _, _, _, _, j.recov.next, rfl⟩

/-- A job that has entered a recovery of kind REWIND from GENERATE. -/
structure EntersRewind (j : Job) (attempt : Nat) (y : Job) : Prop where
  phase : y.phase = .recovering
  stroke : y.stroke = j.stroke
  kind : y.recov.kind = 1
  prevPhase : y.recov.prevPhase = .generate
  enterStroke : y.recov.enterStroke = j.stroke
  attempt : y.recov.attempt = attempt
  noticeSent : y.recov.noticeSent = false
  spreading : y.recov.spreading = false

theorem endFetch_only {js : Nat} {m : Dev} {j : Job} (hj : m.jobs = [(js, j)]) : ∃ net, endFetch js m = { m with
    net := net, jobs := [(js, { j with recov := { j.recov with fetchFrom := none, fetched := [], fetchPoison := false } })] } := by
  rw [endFetch]
  simp only
  rw [updJob_only (by exact hj)]
  exact ⟨_, rfl⟩

/-- R598: at the entry the job's programs and collectives end; memory stands. -/
theorem recoveryEnter_rewind {js : Nat} {m : Dev} {j : Job} {it : RecItem} (hj : m.jobs = [(js, j)]) (hp : j.phase = .generate)
    (hg : j.gen = none) (hk : it.kind = 1) :
    ∃ y net sys, EntersRewind j it.attempt y ∧ recoveryEnter js it m =
      { endPrograms js (collStopJob js m) with jobs := [(js, y)], net := net, sys := sys } := by
  have hturn : turnFail js 9 0x6005 m = m := by
    rw [turnFail, jobAt_only hj]
    simp [hp]
  have hgen : genLeave js m = m := by
    rw [genLeave, genOf, jobAt_only hj]
    simp [hg]
  rw [recoveryEnter, hturn, jobAt_only hj]
  simp only [hp, if_true, hgen]
  obtain ⟨x, hx⟩ : ∃ x, x = endPrograms js (collStopJob js m) := ⟨_, rfl⟩
  have hxj : x.jobs = [(js, j)] := by rw [hx]; exact hj
  rw [← hx, updJob_only hxj]
  obtain ⟨net, hfetch⟩ := endFetch_only (js := js) (m := { x with jobs := [(js, { j with
    phase := .recovering, haltCause := .none
    recov := { j.recov with
      stage := 1, kind := it.kind, attempt := it.attempt, generation := it.generation, enterStroke := j.stroke, prevPhase := phaseToRestore j
      byHost := j.recov.byHost || decide (j.phase = .halted), next := none, noticeSent := false, noticed := none, restored := [], done := false,
      spreading := false, spareUps := [], configured := [], chosen := [] } })] }) rfl
  obtain ⟨sys, stage, chosen, spareUps, configured, next, hafter⟩ := afterEnter_rewind (js := js) (m := { x with
    net := net
    jobs := [(js, { j with
      phase := .recovering, haltCause := .none
      recov := { j.recov with
        stage := 1, kind := it.kind, attempt := it.attempt, generation := it.generation, enterStroke := j.stroke, prevPhase := phaseToRestore j
        byHost := j.recov.byHost || decide (j.phase = .halted), next := none, noticeSent := false, noticed := none, restored := [], done := false,
        spreading := false, spareUps := [], configured := [], chosen := [], fetchFrom := none, fetched := [], fetchPoison := false } })] }) rfl hk
  rw [hfetch, hafter]
  refine ⟨_, net, sys, ?_, rfl⟩
  exact ⟨rfl, rfl, hk, by simp [phaseToRestore, hp], rfl, rfl, rfl, rfl⟩

end Sys2Proof.Machine
end

section
/-! PROOFS of the family 02_strokes_states_phases: what the origin's boundary carries (R456), and the obligation on joins, losses and
entries (R85, R459, R585, R594, R598). -/

namespace Sys2Proof.Machine

/-! ### What the origin's boundary carries -/

/-- Outside LEARN and TURNING nothing of the job's own decides a generation. -/
theorem secureItem_none {j : Job} (hnext : j.secure.next = none) (n : Nat) : secureItem j false false false n = none := by
  rw [secureItem]
  simp only [hnext]
  split
  · rfl
  · split <;> rfl

/-- Outside LEARN and TURNING a job without items of its own carries its recovery item, and its margin with the first stroke. -/
theorem originItems_plain {j : Job} (hlearn : j.phase ≠ .learn) (hturning : j.phase ≠ .turning) (hturn : j.turn.next = none)
    (hsecure : j.secure.next = none) (hwide : j.jobWide = none) (count : Nat) :
    originItems j count = { recov := j.recov.next, margin := if j.started then none else some j.margin } := by
  have hverdict : verdictItem j = none := by simp [verdictItem, hlearn]
  have hsiphon : wantsSiphon j = false := by simp [wantsSiphon, hturning]
  simp [originItems, hverdict, hsiphon, hlearn, hturn, hwide, secureItem_none hsecure]

/-- The record and the boundary on their way down the origin's tree, whose votes begin anew. -/
def boundaryTold (j : Job) (record : List Byte) (count : Nat) (stretched : Bool) (m : Dev) : Dev :=
  match originTree m j with
  | some e => dropVotes e.tree (sendBoundary e record count stretched (!j.started) m)
  | none => m

theorem sendBoundary_frame (e : TreeEntry) (record : List Byte) (count : Nat) (stretched first : Bool) (m : Dev) :
    ∃ links out, sendBoundary e record count stretched first m = { m with net := { m.net with links := links }, out := out } := by
  refine List.foldlRecOn (motive := fun t : Dev => ∃ links out, t = { m with net := { m.net with links := links }, out := out })
    (bitsOf 32 e.down) _ ⟨m.net.links, m.out, rfl⟩ ?_
  rintro _ ⟨links, out, rfl⟩ l _
  simp only
  generalize hm : ({ m with net := { m.net with links := links }, out := out } : Dev) = t
  generalize chunksOf 8 (record.length / 8) record = fs
  obtain ⟨links', out', h⟩ := foldl_sendFlit_frame (fun _ => l) (fun x : Nat × List Byte => .attach e.tree x.1 x.2)
    (List.zip (List.range fs.length) fs) t
  rw [h]
  obtain ⟨links'', out'', h'⟩ := sendFlit_frame { t with net := { t.net with links := links' }, out := out' } l
    (.boundary e.tree fs.length count stretched first)
  exact ⟨links'', out'', by rw [h', ← hm]⟩

theorem boundaryTold_frame (j : Job) (record : List Byte) (count : Nat) (stretched : Bool) (m : Dev) :
    ∃ net out, boundaryTold j record count stretched m = { m with net := net, out := out } := by
  rw [boundaryTold]
  split
  · obtain ⟨links, out, h⟩ := sendBoundary_frame _ record count stretched (!j.started) m
    rw [h]
    exact ⟨_, _, rfl⟩
  · exact ⟨_, _, rfl⟩

/-- R456: the items that a boundary takes along are the job's no more. -/
def itemsTaken (j : Job) : Job := { j with
  turn := { j.turn with next := none }, recov := { j.recov with next := none, skip := false }, secure := { j.secure with next := none } }

theorem originBoundary_eq {js count : Nat} {launches : List Launch} {m : Dev} {j : Job} {it : Items} (hj : m.jobs = [(js, j)])
    (hcount : (if !j.started then j.firstStroke else if j.recov.skip then j.stroke + 2 else j.stroke + 1) = count)
    (hit : originItems j count = it) (hverdict : it.verdict = none) :
    originBoundary js launches m = boundary js (count % 2 ^ 64) (decide (0 < j.stretches)) it launches
      (boundaryTold j (boundaryRecord it) (count % 2 ^ 64) (decide (0 < j.stretches)) { m with jobs := [(js, itemsTaken j)] }) := by
  rw [originBoundary, jobAt_only hj]
  simp only [hcount, hit]
  rw [updJob_only hj, hverdict]
  rfl

/-! ### The stroke that a boundary closes -/

/-- R130: a stroke that was not stretched closes with what its end writes; before the first stroke nothing closes. -/
theorem closeStroke_written {js : Nat} {m : Dev} {j : Job} (hj : m.jobs = [(js, j)]) (ht : m.tinctures = []) (hp : m.pools = []) :
    StrokeWritten m (closeStroke js false m) := by
  rw [closeStroke, jobAt_only hj]
  simp only [Bool.false_eq_true, false_and, if_false, genStrokeEnd_none js j.stroke ht hp]
  split
  · exact .refl m
  · exact endStroke_written ..

/-! ### The entry of a recovery (R598) -/

/-- The job as the boundary that carries the entry opens its stroke. -/
def strokeOpened (j : Job) (count : Nat) (stretched : Bool) (margin : Option Nat) : Job := { j with
  stroke := count, started := true, stretches := 0, stretchedCount := j.stretchedCount + b2n (stretched && j.started)
  voted := false, voteSent := false, ownStretch := false, votedStretch := false, combined := none, attach := []
  margin := margin.getD j.margin }

theorem openStroke_only {js count : Nat} {stretched : Bool} {margin : Option Nat} {m : Dev} {j : Job} (hj : m.jobs = [(js, j)]) :
    openStroke js count stretched margin m = { m with jobs := [(js, strokeOpened j count stretched margin)] } := updJob_only hj _

theorem raiseJob_frame (m : Dev) (slot etype status : Nat) (payload : List Byte) :
    ∃ evq, raiseJob m slot etype status payload = { m with ctl := { m.ctl with evq := evq } } := by
  rw [raiseJob]
  split
  · exact ⟨_, rfl⟩
  · exact ⟨_, rfl⟩

/-- A module whose services and queues are empty. -/
structure Unoccupied (m : Dev) : Prop where
  accepted : m.ctl.accepted = []
  waiting : m.ctl.waiting = []
  tinctures : m.tinctures = []
  pools : m.pools = []
  posts : m.posts = []

/-- R598: the boundary that carries the entry of kind REWIND. -/
theorem boundary_entry {js count : Nat} {launches : List Launch} {r : RecItem} {m : Dev} {j : Job} (hj : m.jobs = [(js, j)])
    (hm : Unoccupied m) (hact : r.action = 1) (hkind : r.kind = 1) (hp : j.phase = .generate) (hg : j.gen = none)
    (hs : j.learn.hasShard = false) (hmis : j.recov.mismatch = 0) :
    ∃ t y, boundary js count false { recov := some r } launches m = t ∧ t.jobs = [(js, y)]
      ∧ EntersRewind (strokeOpened j count false none) r.attempt y ∧ programsDone t js = true ∧ t.mem = m.mem := by
  have hclose := closeStroke_written hj hm.tinctures hm.pools
  obtain ⟨m1, hm1⟩ : ∃ m1, m1 = flipsTake (some js) (openStroke js count false none (closeStroke js false m)) := ⟨_, rfl⟩
  have hframe : m1 = { m with ctl := m1.ctl, out := m1.out, seen := m1.seen, jobs := [(js, strokeOpened j count false none)] } := by
    rw [hm1, openStroke_only (by rw [hclose.frame]; exact hj), hclose.frame]
    rfl
  have hctl : m1.ctl.accepted = [] ∧ m1.ctl.waiting = [] := by
    rw [hm1, openStroke_only (by rw [hclose.frame]; exact hj)]
    exact ⟨hclose.accepted.trans hm.accepted, hclose.waiting.trans hm.waiting⟩
  have hj1 : m1.jobs = [(js, strokeOpened j count false none)] := by rw [hframe]
  obtain ⟨evq, hstage⟩ : ∃ evq, stageEvent js r m1 = { m1 with ctl := { m1.ctl with evq := evq } } := raiseJob_frame ..
  obtain ⟨y, net, sys, hy, henter⟩ := recoveryEnter_rewind (js := js) (m := { m1 with ctl := { m1.ctl with evq := evq } }) (it := r) hj1 hp hg hkind
  obtain ⟨x, hx⟩ : ∃ x, x = ({ endPrograms js (collStopJob js { m1 with ctl := { m1.ctl with evq := evq } }) with
    jobs := [(js, y)], net := net, sys := sys } : Dev) := ⟨_, rfl⟩
  have happly : recoveryApply js r m1 = x := by
    rw [recoveryApply, hstage, hact]
    simp only
    rw [henter, hx]
  have hxj : x.jobs = [(js, y)] := by rw [hx]
  have hposts : x.posts = [] := by
    rw [hx, hframe]
    show m.posts.filter _ = []
    rw [hm.posts, List.filter_nil]
  have htr : transitions js { recov := some r } false m1 = x :=
    transitions_plain (j := strokeOpened j count false none) ⟨rfl, rfl, rfl⟩ hj1 (by simp [strokeOpened, hp]) (by simp [strokeOpened, hp])
      (fun _ => hs) hmis (by simp) (by rintro _ ⟨⟩; exact happly) hxj (by simp [hy.phase]) (by rw [hx, hframe]; exact hm.tinctures)
  rw [hm1] at htr
  obtain ⟨u, hu, hb⟩ := boundary_dispatches (launches := launches) (hx := htr) (hjobs := hxj) (hposts := hposts) (hspread := hy.spreading) (hwide := rfl)
    (hacc := by rw [hx]; exact hctl.1) (hlearn := by simp [hy.phase]) (hgen := by simp [hy.phase])
  have huj : u.jobs = [(js, y)] := by rw [hu.frame]; exact hxj
  have hdisp : dispatch js launches u = u := by
    rw [dispatch, jobAt_only huj]
    simp [hy.phase]
  rw [hdisp, acceptNext_none js (by rw [hu.frame, hx]; exact hctl.2)] at hb
  refine ⟨u, y, hb, huj, hy, ?_, ?_⟩
  · rw [hu.frame, hx]
    exact programsDone_endPrograms js _
  · rw [hu.frame, hx, hframe]
    rfl

theorem enterItem_rewind {js : Nat} {m : Dev} {j : Job} (hj : m.jobs = [(js, j)]) (hp : j.phase = .generate) (hb : j.recov.byHost = false) :
    enterItem js m = { m with jobs := [(js, { j with recov := { j.recov with
      next := some { action := 1, kind := 1, attempt := j.recov.attempt, generation := 0 } } })] } := by
  rw [enterItem, jobAt_only hj]
  simp only
  rw [if_neg (by simp [hb]), if_pos (by simp [phaseToRestore, hp]), updRecov, updJob_only hj]

/-- R598: with every NOTICE acknowledged, the origin's next boundary carries the entry. -/
theorem recoveryEntry_enters {js : Nat} {launches : List Launch} {m : Dev} {j : Job} (hf : forwarding m = true) (hj : m.jobs = [(js, j)])
    (hm : Unoccupied m) (hcoord : isCoord j = true) (ho : j.isOrigin = true) (hstarted : j.started = true) (hstage : j.recov.stage = 1)
    (hnotice : j.recov.noticeSent = true) (hack : allAcked j = true) (hp : j.phase = .generate) (hg : j.gen = none)
    (hshard : j.learn.hasShard = false) (hstretch : j.stretches = 0) (hturn : j.turn.next = none) (hmis : j.recov.mismatch = 0)
    (hskip : j.recov.skip = false) (hhost : j.recov.byHost = false) (hsecure : j.secure.next = none) (hwide : j.jobWide = none) :
    ∃ t y, recoveryEntry js launches m = t ∧ t.jobs = [(js, y)] ∧ y.stroke = (j.stroke + 1) % 2 ^ 64
      ∧ EntersRewind { j with stroke := (j.stroke + 1) % 2 ^ 64 } j.recov.attempt y ∧ programsDone t js = true ∧ t.mem = m.mem := by
  obtain ⟨it, hit⟩ : ∃ it : Items, it = { recov := some { action := 1, kind := 1, attempt := j.recov.attempt, generation := 0 } } := ⟨_, rfl⟩
  obtain ⟨k, hk⟩ : ∃ k, k = { j with recov := { j.recov with
    next := some { action := 1, kind := 1, attempt := j.recov.attempt, generation := 0 } } } := ⟨_, rfl⟩
  obtain ⟨n, hn⟩ : ∃ n : Dev, n = { m with jobs := [(js, k)] } := ⟨_, rfl⟩
  have hrun : recoveryEntry js launches m = originBoundary js launches n := by
    rw [recoveryEntry, jobAt_only hj]
    simp only
    rw [if_pos ⟨hcoord, ho, hstarted, hstage, hnotice, hack, hf⟩, enterItem_rewind hj hp hhost, hn, hk]
  have hcount : (if !k.started then k.firstStroke else if k.recov.skip then k.stroke + 2 else k.stroke + 1) = j.stroke + 1 := by
    simp [hk, hstarted, hskip]
  have hitems : originItems k (j.stroke + 1) = it := by
    rw [originItems_plain (by simp [hk, hp]) (by simp [hk, hp]) (by rw [hk]; exact hturn) (by rw [hk]; exact hsecure)
      (by rw [hk]; exact hwide), hit, hk]
    simp [hstarted]
  have horig := originBoundary_eq (launches := launches) (m := n) (by rw [hn]) hcount hitems (by rw [hit])
  obtain ⟨net, out, htold⟩ := boundaryTold_frame k (boundaryRecord it) ((j.stroke + 1) % 2 ^ 64) (decide (0 < k.stretches))
    { n with jobs := [(js, itemsTaken k)] }
  rw [htold, show decide (0 < k.stretches) = false by simp [hk, hstretch], hit] at horig
  obtain ⟨t, y, hb, htj, hy, hdone, hmem⟩ := boundary_entry (js := js) (count := (j.stroke + 1) % 2 ^ 64) (launches := launches)
    (r := { action := 1, kind := 1, attempt := j.recov.attempt, generation := 0 })
    (m := { n with jobs := [(js, itemsTaken k)], net := net, out := out })
    (j := itemsTaken k) rfl (by rw [hn]; exact ⟨hm.accepted, hm.waiting, hm.tinctures, hm.pools, hm.posts⟩) rfl rfl (by rw [hk]; exact hp)
    (by rw [hk]; exact hg) (by rw [hk]; exact hshard) (by rw [hk]; exact hmis)
  exact ⟨t, y, by rw [hrun, horig]; exact hb, htj, hy.stroke,
    ⟨hy.phase, hy.stroke, hy.kind, hy.prevPhase, hy.enterStroke, hy.attempt, hy.noticeSent, hy.spreading⟩, hdone, by rw [hmem, hn]⟩

/-- R459: a declaration goes up each tree that has it from a DOWN link, once. -/
theorem declareFlit_eq {m n : Dev} {slot link position reason : Nat} {j : Job} (hf : forwarding m = true)
    (hup : linkUp (linkAt m link) = true) (hj : m.jobs = [(slot, j)]) (hr : position ∈ j.recov.reported)
    (hn : n = raiseModule m 0x0B64 0 (leBytes 1 link ++ zeros 1 ++ leBytes 2 position ++ leBytes 2 reason)) :
    let trees := m.net.trees.filter (fun e => bitOf e.down link && decide (e.up ≤ 31) && decide ((e.tree, position) ∉ m.net.declared))
    declareFlit link position reason m = updNet (trees.foldl (fun m e => sendFlit m e.up (.declare position reason)) n)
      (fun x => { x with declared := x.declared ++ trees.map (fun e => (e.tree, position)) }) := by
  intro trees
  have hnet : n.net = m.net := by rw [hn]; rfl
  obtain ⟨links, out, hfold⟩ := foldl_sendFlit_frame (fun e : TreeEntry => e.up) (fun _ => .declare position reason) trees n
  rw [declareFlit, if_neg (by simp [arrives_of hf hup])]
  simp only [← hn, hnet]
  rw [reportDeclared_reported (slot := slot) (j := j) _ hr]
  rw [show trees.foldl _ n = _ from hfold, hn]
  exact hj

/-! ### The obligation -/

/-- Settles O54: a join and a declaration go up as flits that their links take, a lost origin is one packet, and the entry is the boundary
of `boundary_entry`. -/
theorem joinsLossesAndEntries : Obligations.JoinsLossesAndEntries := by
  intro s slot j hf hj hslot htakes
  refine ⟨?_, ?_, ?_, ?_⟩
  · intro e link joined hwf ht hup hd hroot m
    have hexec : exec (.joinFlit link e.tree joined) s = .next { s with m := joinFlit link e.tree joined s.m } :=
      onDev_next (c := .joinFlit link e.tree joined) _ s hwf
    rw [joinFlit_eq hf hup ht hd] at hexec
    have hsend : sendJoin m e = sendFlit m e.up (.join e.tree (joinCount m e)) := by
      rw [sendJoin]
      simp only [hroot, if_true]
    simp only at hexec
    refine ⟨fun hne hupUp => ?_, fun hor => ?_⟩
    · have hsent := sendFlit_sent (m := m) (l := e.up) (.join e.tree (joinCount m e)) (htakes e.up)
      rw [if_pos (by exact hupUp), ← hsend] at hsent
      rw [if_neg hne] at hexec
      refine ⟨_, hexec, hsent.framed, ?_⟩
      rw [show sendJoin _ e = _ from hsent.frame]
      rfl
    · rw [hexec]
      split
      · rfl
      · rename_i hne
        rw [show sendJoin _ e = _ from hsend.trans (sendFlit_down _ (hor.resolve_left hne))]
  · intro c d o hs ho hc hn hd hr ht
    have hexec : exec (.originLostTimeout slot) s = .next { s with m := originLost slot s.m } :=
      onDev_next (c := .originLostTimeout slot) _ s (by simp [Instr.wf, boundsWf, hslot])
    rw [originLost_eq hj hs ho hc hn hd] at hexec
    obtain ⟨links, hsend, hsent⟩ := sendControl_takes
      (m := { s.m with jobs := [(slot, { j with recov := { j.recov with addressed := some d } })] }) (bytes := 104)
      (payload := recoveryPayload j 0x20 j.recov.attempt 64 (leBytes 1 3 ++ leBytes 2 c) []) hr (by rw [length_recoveryPayload]) ht
    refine ⟨_, hexec, hsent, ?_⟩
    rw [hsend]
    rfl
  · intro link position reason hwf hup hrep trees ups hnodup
    have hexec : exec (.declareFlit link position reason) s = .next { s with m := declareFlit link position reason s.m } :=
      onDev_next (c := .declareFlit link position reason) _ s hwf
    obtain ⟨n, hn⟩ : ∃ n, n = raiseModule s.m 0x0B64 0 (leBytes 1 link ++ zeros 1 ++ leBytes 2 position ++ leBytes 2 reason) := ⟨_, rfl⟩
    have hlinks : ∀ l, linkAt n l = linkAt s.m l := fun l => by rw [hn]; rfl
    have hsent := foldl_sendFlit_sent (·.up) (fun _ => .declare position reason) trees n (fun e _ => by rw [hlinks]; exact htakes _)
      (by simp only [hlinks]; exact hnodup)
    have hlist : (trees.filter (fun e => linkUp (linkAt n e.up))).map (fun e => (e.up, Flit.declare position reason))
        = ups.map (fun l => (l, Flit.declare position reason)) := by
      simp only [hlinks, ups, List.filter_map, List.map_map, Function.comp_def]
    rw [hlist] at hsent
    rw [declareFlit_eq hf hup hj hrep hn] at hexec
    refine ⟨_, hexec, ⟨fun l hl => ?_, fun l => ?_⟩, ?_⟩
    · exact (hsent.framed.1 l (by simpa using hl)).trans (hlinks l)
    · rw [← hlinks]
      exact hsent.framed.2 l
    · rw [show trees.foldl _ n = _ from hsent.frame, hn]
      simp only [List.map_map]
      rfl
  · intro launches hwf hcoord ho hstarted hstage hnotice hack hp hg hshard hstretch hturn _ hmis hskip hhost hsecure hwide hacc hwait htinct
      hpools hposts
    have hexec : exec (.recoveryEntryTimer slot launches) s = .next { s with m := recoveryEntry slot launches s.m } :=
      onDev_next (c := .recoveryEntryTimer slot launches) _ s hwf
    obtain ⟨t, y, ht, htj, hstroke, hy, hdone, hmem⟩ := recoveryEntry_enters (launches := launches) hf hj
      ⟨hacc, hwait, htinct, hpools, hposts⟩ hcoord ho hstarted hstage hnotice hack hp hg hshard hstretch hturn hmis hskip hhost hsecure hwide
    rw [ht] at hexec
    exact ⟨_, y, hexec, htj, hy.phase, hstroke, hy.kind, hy.prevPhase, hy.enterStroke.trans hstroke.symm, hy.attempt, hy.noticeSent, hdone,
      hmem, rfl⟩

end Sys2Proof.Machine
end

section
/-! PROOFS of the family 02_strokes_states_phases: boundaries that carry no items (R56, R58, R61, R77, R456). -/

namespace Sys2Proof.Machine

/-! ### A boundary that only closes a stroke and opens the next -/

/-- The module once its job's stroke is closed and the next one is open. -/
def strokeTurned (js count : Nat) (stretched : Bool) (margin : Option Nat) (j : Job) (m : Dev) : Dev :=
  { (if j.started then endStroke m (some js) j.stroke stretched else m) with jobs := [(js, strokeOpened j count stretched margin)] }

theorem strokeTurned_written (js count : Nat) (stretched : Bool) (margin : Option Nat) (j : Job) (m : Dev) :
    StrokeWritten { m with jobs := [(js, strokeOpened j count stretched margin)] } (strokeTurned js count stretched margin j m) := by
  rw [strokeTurned]
  split
  · have h := endStroke_written m (some js) j.stroke stretched
    generalize endStroke m (some js) j.stroke stretched = t at h
    exact ⟨by rw [h.frame], h.accepted, h.waiting, h.bucketFlips⟩
  · exact .refl _

/-- R73: a stroke that this member did not stretch closes without an event. -/
theorem closeStroke_eq {js : Nat} {stretched : Bool} {m : Dev} {j : Job} (hj : m.jobs = [(js, j)]) (ht : m.tinctures = []) (hp : m.pools = [])
    (hs : stretched = true → j.isOrigin = false ∧ j.votedStretch = false) :
    closeStroke js stretched m = if j.started then endStroke m (some js) j.stroke stretched else m := by
  have hquiet : ¬ (stretched = true ∧ (j.isOrigin = true ∨ j.votedStretch = true)) := by
    rintro ⟨hst, ho | hv⟩
    · simp [(hs hst).1] at ho
    · simp [(hs hst).2] at hv
  rw [closeStroke, jobAt_only hj]
  simp only [genStrokeEnd_none js j.stroke ht hp, hquiet, if_false]
  cases j.started <;> rfl

theorem flipsTake_none {m : Dev} (stream : Option Nat) (h : m.ctl.bucketFlips = []) : flipsTake stream m = m := by
  rw [flipsTake, updCtl]
  simp only [h, List.filter_nil]
  rw [← h]

/-- A job with nothing to take, to enter or to spread at its next boundary. -/
structure Resting (j : Job) : Prop where
  phase : j.phase = .idle ∨ j.phase = .generate
  gen : j.phase = .generate → j.gen = none
  shard : j.phase = .generate → j.learn.hasShard = false
  mismatch : j.recov.mismatch = 0
  spreading : j.recov.spreading = false

/-- R77: without items a boundary closes a stroke, opens the next, and starts the programs. -/
theorem boundary_resting {js count : Nat} {stretched : Bool} {it : Items} {launches : List Launch} {m : Dev} {j : Job} (hj : m.jobs = [(js, j)])
    (hm : Unoccupied m) (hflips : m.ctl.bucketFlips = []) (hr : Resting j) (hit : it.Plain) (hrecov : it.recov = none) (hwide : it.jobWide = none)
    (hs : stretched = true → j.isOrigin = false ∧ j.votedStretch = false) :
    ∃ t, Drained (strokeTurned js count stretched it.margin j m) t
      ∧ boundary js count stretched it launches m = acceptNext js (dispatch js launches t) := by
  have hwritten := strokeTurned_written js count stretched it.margin j m
  have hturned : flipsTake (some js) (openStroke js count stretched it.margin (closeStroke js stretched m))
      = strokeTurned js count stretched it.margin j m := by
    have hopen : openStroke js count stretched it.margin (closeStroke js stretched m) = strokeTurned js count stretched it.margin j m := by
      rw [closeStroke_eq hj hm.tinctures hm.pools hs, openStroke_only (j := j), strokeTurned]
      split
      · rw [(endStroke_written m (some js) j.stroke stretched).frame]
        exact hj
      · exact hj
    rw [hopen, flipsTake_none _ (hwritten.bucketFlips.trans hflips)]
  have hjobs : (strokeTurned js count stretched it.margin j m).jobs = [(js, strokeOpened j count stretched it.margin)] := by
    rw [hwritten.frame]
  have hphase : (strokeOpened j count stretched it.margin).phase = j.phase := rfl
  have hlearn : j.phase ≠ .learn := by rcases hr.phase with h | h <;> simp [h]
  have htr : transitions js it stretched (strokeTurned js count stretched it.margin j m) = strokeTurned js count stretched it.margin j m :=
    transitions_plain hit hjobs (by rcases hr.phase with h | h <;> simp [hphase, h]) (by rcases hr.phase with h | h <;> simp [hphase, h])
      hr.shard hr.mismatch (fun _ => rfl) (by simp [hrecov]) hjobs hlearn (by rw [hwritten.frame]; exact hm.tinctures)
  have hposts : (strokeTurned js count stretched it.margin j m).posts = [] := by
    rw [hwritten.frame]
    exact hm.posts
  exact boundary_dispatches (by rw [hturned]; exact htr) hjobs hposts hr.spreading hwide (hwritten.accepted.trans hm.accepted) hlearn hr.gen

/-- In IDLE there is no program to start (R61). -/
theorem boundary_idle {js count : Nat} {stretched : Bool} {it : Items} {launches : List Launch} {m : Dev} {j : Job} (hj : m.jobs = [(js, j)])
    (hm : Unoccupied m) (hflips : m.ctl.bucketFlips = []) (hr : Resting j) (hidle : j.phase = .idle) (hit : it.Plain) (hrecov : it.recov = none)
    (hwide : it.jobWide = none) (hs : stretched = true → j.isOrigin = false ∧ j.votedStretch = false) :
    Drained (strokeTurned js count stretched it.margin j m) (boundary js count stretched it launches m) := by
  obtain ⟨t, ht, hb⟩ := boundary_resting (count := count) (launches := launches) hj hm hflips hr hit hrecov hwide hs
  have hwritten := strokeTurned_written js count stretched it.margin j m
  have htj : t.jobs = [(js, strokeOpened j count stretched it.margin)] := by rw [ht.frame, hwritten.frame]
  have hdisp : dispatch js launches t = t := by
    rw [dispatch, jobAt_only htj]
    simp [strokeOpened, hidle]
  rw [hb, hdisp, acceptNext_none js (by rw [ht.frame]; exact hwritten.waiting.trans hm.waiting)]
  exact ht

end Sys2Proof.Machine
end

section
/-! PROOFS of the family 02_strokes_states_phases: the boundaries of the origin and of a member (R56, R58, R61, R77, R85, R456). -/

namespace Sys2Proof.Machine

/-- A job with no item for its next boundary. -/
structure Itemless (j : Job) : Prop where
  turn : j.turn.next = none
  recov : j.recov.next = none
  skip : j.recov.skip = false
  secure : j.secure.next = none
  jobWide : j.jobWide = none

theorem Itemless.itemsTaken {j : Job} (h : Itemless j) : itemsTaken j = j := by
  have hturn : ({ j.turn with next := none } : Turn) = j.turn := by rw [← h.turn]
  have hrecov : ({ j.recov with next := none, skip := false } : Recov) = j.recov := by rw [← h.recov, ← h.skip]
  have hsecure : ({ j.secure with next := none } : Secure) = j.secure := by rw [← h.secure]
  rw [Machine.itemsTaken, hturn, hrecov, hsecure]

theorem Itemless.originItems {j : Job} (h : Itemless j) (hlearn : j.phase ≠ .learn) (hturning : j.phase ≠ .turning) (count : Nat) :
    originItems j count = { margin := if j.started then none else some j.margin } := by
  rw [originItems_plain hlearn hturning h.turn h.secure h.jobWide, h.recov]

/-- A boundary in IDLE changes links only by what they hand over. -/
theorem boundary_passes {js count : Nat} {stretched : Bool} {it : Items} {launches : List Launch} {m : Dev} {j : Job} {n : Net} {out : List Out}
    (hm : Unoccupied m) (hflips : m.ctl.bucketFlips = []) (hr : Resting j) (hidle : j.phase = .idle) (hit : it.Plain) (hrecov : it.recov = none)
    (hwide : it.jobWide = none) (hs : stretched = true → j.isOrigin = false ∧ j.votedStretch = false)
    (hrx : ∀ l v, nth 0 (linkAt { m with net := n } l).rx v = 0) :
    let x : Dev := { m with jobs := [(js, j)], net := n, out := out }
    ∃ n', (∀ l, linkAt { m with net := n' } l = linkAt { m with net := n } l) ∧ n' = { n with links := n'.links }
      ∧ boundary js count stretched it launches x = { (if j.started then endStroke x (some js) j.stroke stretched else x) with
          jobs := [(js, strokeOpened j count stretched it.margin)], net := n' } := by
  intro x
  have hdrained := boundary_idle (m := x) (count := count) (launches := launches) rfl
    ⟨hm.accepted, hm.waiting, hm.tinctures, hm.pools, hm.posts⟩ hflips hr hidle hit hrecov hwide hs
  have hnet : (strokeTurned js count stretched it.margin j x).net = n := by
    rw [(strokeTurned_written js count stretched it.margin j x).frame]
  have hlink : ∀ l, linkAt (strokeTurned js count stretched it.margin j x) l = linkAt { m with net := n } l := fun l => by
    rw [linkAt, hnet]
    rfl
  have hlinks := hdrained.linkAt (fun l v => by rw [hlink]; exact hrx l v)
  have hframe := hdrained.frame
  simp only [hlink] at hlinks
  rw [hnet] at hframe
  generalize boundary js count stretched it launches x = t at hframe hlinks
  refine ⟨{ n with links := t.net.links }, hlinks, rfl, ?_⟩
  rw [hframe, strokeTurned]

/-! ### The origin (R56, R85) -/

section
variable {slot : Nat} {launches : List Launch} {m : Dev} {j : Job}

theorem originPeriodEnd_ready {lowest voters : Nat} (hj : m.jobs = [(slot, j)]) (hf : forwarding m = true) (ho : j.isOrigin = true)
    (hn : j.recov.noticeSent = false) (hs : j.started = true) (hc : j.combined = some (false, lowest, voters)) (hidle : j.phase = .idle) :
    originPeriodEnd slot launches m = originBoundary slot launches m := by
  have hlate : lateEntry slot m = m := by
    rw [lateEntry, jobAt_only hj]
    simp [hidle]
  rw [originPeriodEnd, jobAt_only hj]
  simp only [ho, hf, hn, hs, hc, hlate, Bool.not_true, Bool.false_eq_true, or_self, if_false]

theorem originPeriodEnd_new (hj : m.jobs = [(slot, j)]) (hf : forwarding m = true) (ho : j.isOrigin = true)
    (hn : j.recov.noticeSent = false) (hs : j.started = false) :
    originPeriodEnd slot launches m = if mayStart j then originBoundary slot launches m else m := by
  rw [originPeriodEnd, jobAt_only hj]
  simp only [ho, hf, hn, hs, Bool.not_true, Bool.false_eq_true, or_self, if_false, Bool.not_false, if_true]

end

/-- A boundary without attachments goes down a tree as one flit. -/
theorem sendBoundary_nil (e : TreeEntry) (count : Nat) (stretched first : Bool) (m : Dev) :
    sendBoundary e [] count stretched first m = forwardDown e (.boundary e.tree 0 count stretched first) m := rfl

end Sys2Proof.Machine
end

section
/-! PROOFS of the family 02_strokes_states_phases: flits that go out or wait for an ACK (R450, R454). -/

namespace Sys2Proof.Machine

/-! ### Flits that go out or wait -/

/-- A flit changes only its own link, which stays in its state and loses no flit that waits. -/
theorem linkAt_sendFlit (m : Dev) (l k : Nat) (f : Flit) :
    linkUp (linkAt (sendFlit m l f) k) = linkUp (linkAt m k) ∧ (linkAt (sendFlit m l f) k).txq = (linkAt m k).txq
      ∧ ∃ waiting, (linkAt (sendFlit m l f) k).flitq = (linkAt m k).flitq ++ waiting := by
  rw [sendFlit]
  split
  · exact ⟨rfl, rfl, [], by simp⟩
  · split
    · show linkUp (linkAt (updLink m l _) k) = _ ∧ (linkAt (updLink m l _) k).txq = _ ∧ ∃ waiting, (linkAt (updLink m l _) k).flitq = _
      rw [linkAt_updLink]
      split
      next h => exact h ▸ ⟨rfl, rfl, [], by simp⟩
      next => exact ⟨rfl, rfl, [], by simp⟩
    · rw [linkAt_updLink]
      split
      next h => exact h ▸ ⟨rfl, rfl, [f], rfl⟩
      next => exact ⟨rfl, rfl, [], by simp⟩

theorem mem_out_sendFlit {m : Dev} {o : Out} (l : Nat) (f : Flit) (h : o ∈ m.out) : o ∈ (sendFlit m l f).out := by
  rw [sendFlit]
  split
  · exact h
  · split
    · exact List.mem_append_left _ h
    · exact h

theorem flitOnItsWay_sendFlit_of {m : Dev} {k : Nat} {g : Flit} (l : Nat) (f : Flit) (h : flitOnItsWay m k g) :
    flitOnItsWay (sendFlit m l f) k g := by
  rcases h with h | h
  · exact .inl (mem_out_sendFlit l f h)
  · obtain ⟨_, _, waiting, hq⟩ := linkAt_sendFlit m l k f
    exact .inr (hq ▸ List.mem_append_left _ h)

theorem onItsWay_sendFlit_of {m : Dev} {k : Nat} {p : Packet} (l : Nat) (f : Flit) (h : onItsWay m k p) : onItsWay (sendFlit m l f) k p := by
  rcases h with h | ⟨n, h⟩
  · exact .inl (mem_out_sendFlit l f h)
  · exact .inr ⟨n, (linkAt_sendFlit m l k f).2.1 ▸ h⟩

/-- R454: on a link that is up a flit goes out, or waits there. -/
theorem flitOnItsWay_sendFlit {m : Dev} {l : Nat} (f : Flit) (h : linkUp (linkAt m l) = true) : flitOnItsWay (sendFlit m l f) l f := by
  rw [sendFlit]
  simp only [h, Bool.not_true, Bool.false_eq_true, if_false]
  split
  · exact .inl (List.mem_append_right _ (List.mem_singleton_self _))
  · refine .inr ?_
    rw [linkAt_updLink_same]
    exact List.mem_append_right _ (List.mem_singleton_self _)

/-- What a step of a fold sets up and no step undoes holds at the end. -/
theorem foldl_reaches {α β : Type} {f : β → α → β} {P Q : β → Prop} {a : α} (hP : ∀ m x, P m → P (f m x)) (hQ : ∀ m x, Q m → Q (f m x))
    (ha : ∀ m, P m → Q (f m a)) : ∀ (l : List α) (m : β), a ∈ l → P m → Q (l.foldl f m)
  | x :: l, m, hmem, hm => by
    rw [List.foldl_cons]
    rcases List.mem_cons.mp hmem with rfl | h
    · exact List.foldlRecOn (motive := Q) l f (ha m hm) fun t ht y _ => hQ t y ht
    · exact foldl_reaches hP hQ ha l (f m x) h (hP m x hm)

/-! ### The first boundary (R56, R456) -/

/-- The record that carries the margin alone: one attachment of eight bytes. -/
def marginRecord (margin : Nat) : List Byte := itemBytes 4 (leBytes 2 margin) ++ zeros 2

theorem length_marginRecord (margin : Nat) : (marginRecord margin).length = 8 := by simp [marginRecord, itemBytes]

theorem boundaryRecord_margin (margin : Nat) : boundaryRecord { margin := some margin } = marginRecord margin := by
  simp [boundaryRecord, itemsBytes, marginRecord, itemBytes, padTo, zeros, leBytes, List.range_succ]

/-- R456: the attachment and the boundary go down each link that is up. -/
theorem sendBoundary_margin {e : TreeEntry} {margin count : Nat} {stretched first : Bool} {m : Dev} {k : Nat} (hk : k < 32)
    (hdown : e.down.testBit k = true) (hup : linkUp (linkAt m k) = true) :
    flitOnItsWay (sendBoundary e (marginRecord margin) count stretched first m) k (.attach e.tree 0 (marginRecord margin))
      ∧ flitOnItsWay (sendBoundary e (marginRecord margin) count stretched first m) k (.boundary e.tree 1 count stretched first) := by
  have hchunks : chunksOf 8 ((marginRecord margin).length / 8) (marginRecord margin) = [marginRecord margin] := by
    have h8 := length_marginRecord margin
    obtain ⟨b, l, hb⟩ : ∃ b l, marginRecord margin = b :: l := List.exists_cons_of_length_pos (by omega)
    rw [h8, hb]
    simp only [chunksOf, Nat.reduceDiv]
    rw [← hb, List.take_of_length_le (by omega)]
  rw [sendBoundary]
  simp only [hchunks, List.length_singleton, List.range_succ, List.range_zero, List.nil_append, List.zip_cons_cons, List.zip_nil_right,
    List.foldl_cons, List.foldl_nil]
  have hkeep : ∀ t l, linkUp (linkAt t k) = true → linkUp (linkAt (sendFlit (sendFlit t l (.attach e.tree 0 (marginRecord margin))) l
      (.boundary e.tree 1 count stretched first)) k) = true := fun t l h => by
    rw [(linkAt_sendFlit ..).1, (linkAt_sendFlit ..).1, h]
  have hmem : k ∈ bitsOf 32 e.down := by simp [bitsOf, hk, hdown]
  refine foldl_reaches (P := fun t => linkUp (linkAt t k) = true)
    (Q := fun t => flitOnItsWay t k (.attach e.tree 0 (marginRecord margin)) ∧ flitOnItsWay t k (.boundary e.tree 1 count stretched first))
    hkeep ?_ ?_ (bitsOf 32 e.down) m hmem hup
  · rintro t l ⟨h1, h2⟩
    exact ⟨flitOnItsWay_sendFlit_of _ _ (flitOnItsWay_sendFlit_of _ _ h1), flitOnItsWay_sendFlit_of _ _ (flitOnItsWay_sendFlit_of _ _ h2)⟩
  · intro t ht
    exact ⟨flitOnItsWay_sendFlit_of _ _ (flitOnItsWay_sendFlit _ ht), flitOnItsWay_sendFlit _ (by rw [(linkAt_sendFlit ..).1, ht])⟩

end Sys2Proof.Machine
end

section
/-! PROOFS of the family 02_strokes_states_phases: a member's boundary, the start of a program, and the obligation on boundaries (R58, R61,
R77, R456). -/

namespace Sys2Proof.Machine

/-! ### A member (R58, R457) -/

theorem takesFrom_only {m : Dev} {slot : Nat} {j : Job} {e : TreeEntry} (hj : m.jobs = [(slot, j)]) (hmem : isMember e = true)
    (hid : e.jobId = j.id) (ho : j.isOrigin = false) (ht : j.tree = none ∨ j.tree = some e.tree) : takesFrom m e = some (slot, j) := by
  have hby : jobById m e.jobId = some (slot, j) := by simp [jobById, hj, hid]
  rw [takesFrom, if_pos hmem, hby]
  simp [ho, ht]

section
variable {m t : Dev} {slot link : Nat} {j : Job} {e : TreeEntry}

theorem attachFlit_eq {index : Nat} {data : List Byte} {sent : List (Nat × Flit)} (harr : arrives m link = true) (htree : treeOf m e.tree = some e)
    (hj : m.jobs = [(slot, j)]) (ht : forwardDown e (.attach e.tree index data) m = t) (hsent : FlitsSent m t sent)
    (htakes : takesFrom m e = some (slot, j)) :
    attachFlit link e.tree index data m = { t with
      jobs := [(slot, { j with attach := tput (if index = 0 then [] else j.attach) index data })] } := by
  have htakes' : takesFrom t e = some (slot, j) := by rw [hsent.frame]; exact htakes
  rw [attachFlit, if_neg (by simp [harr]), htree]
  simp only [ht, htakes']
  rw [updJob_only (by rw [hsent.frame]; exact hj)]

theorem strokeBoundary_whole {count : Nat} {stretched first : Bool} {launches : List Launch} {sent : List (Nat × Flit)}
    (harr : arrives m link = true) (htree : treeOf m e.tree = some e) (hj : m.jobs = [(slot, j)])
    (ht : forwardDown e (.boundary e.tree 0 count stretched first) m = t) (hsent : FlitsSent m t sent)
    (htakes : takesFrom m e = some (slot, j)) :
    strokeBoundary link e.tree 0 count stretched first launches m
      = boundary slot count stretched {} launches (dropVotes e.tree { t with jobs := [(slot, { j with tree := some e.tree })] }) := by
  have htakes' : takesFrom t e = some (slot, j) := by rw [hsent.frame]; exact htakes
  rw [strokeBoundary, if_neg (by simp [harr]), htree]
  simp only [ht, htakes', List.take_zero, List.map_nil, List.range_zero, if_true, List.flatMap_nil]
  have hitems : readItems 64 [] {} = {} := by simp [readItems]
  rw [updJob_only (by rw [hsent.frame]; exact hj), hitems]

theorem strokeBoundary_broken {natt count : Nat} {stretched first : Bool} {launches : List Launch} {sent : List (Nat × Flit)}
    (harr : arrives m link = true) (htree : treeOf m e.tree = some e) (hj : m.jobs = [(slot, j)])
    (ht : forwardDown e (.boundary e.tree natt count stretched first) m = t) (hsent : FlitsSent m t sent)
    (htakes : takesFrom m e = some (slot, j)) (hnatt : (j.attach.take natt).map (·.1) ≠ List.range natt) :
    strokeBoundary link e.tree natt count stretched first launches m = { t with jobs := [(slot, { j with attach := [] })] } := by
  have htakes' : takesFrom t e = some (slot, j) := by rw [hsent.frame]; exact htakes
  rw [strokeBoundary, if_neg (by simp [harr]), htree]
  simp only [ht, htakes', hnatt, if_false]
  rw [updJob_only (by rw [hsent.frame]; exact hj)]

end

/-! ### The start of a program (R61, R245) -/

/-- The module once one team of an idle die's engine has started. -/
theorem dispatch_one {js d v g entry : Nat} {m : Dev} {y : Job} (hj : m.jobs = [(js, y)]) (hst : m.sys.st = .active) (hp : y.phase = .generate)
    (hbit : bitOf (partAt m y.part).dies d = true) (hdie : (pdieAt m d).st = 0) (hprime : (pdieAt m d).priming = false)
    (hteam : tfind (veAt m d v).teams g = none) :
    ∃ arrays dmas x, dispatch js [{ die := d, ve := v, team := g, entry := entry }] m =
        { updVe { m with arrays := arrays, dmas := dmas } d v (fun e => { e with teams := tput e.teams g x, job := some js }) with
          free := m.free + 2576 }
      ∧ x.job = js ∧ x.pc = entry := by
  have hdispatchDie : ∃ arrays dmas, dispatchDie js m d = { m with arrays := arrays, dmas := dmas } := by
    have hwake : dieWake d m = m := by simp [dieWake, hdie]
    rw [dispatchDie, hwake]
    simp only
    rw [primingTaken, if_neg (by rintro ⟨h, _⟩; exact absurd (h.symm.trans hprime) (by simp))]
    exact ⟨_, _, rfl⟩
  obtain ⟨arrays, dmas, hdd⟩ := hdispatchDie
  rw [dispatch, jobAt_only hj]
  simp only [hst, hp, ne_eq, not_true_eq_false, false_or, false_and, if_false, List.filter_cons, hbit, hdie]
  simp only [OfNat.zero_ne_ofNat, not_false_eq_true, decide_true, Bool.and_self, if_true, List.filter_nil, List.map_cons, List.map_nil,
    List.eraseDups_cons, List.eraseDups_nil, List.foldl_cons, List.foldl_nil]
  have hfree : (tfind (veAt m d v).teams g).isNone = true := by rw [hteam, Option.isNone_none]
  rw [hdd, startTeam, if_pos ⟨hdie, hfree⟩]
  exact ⟨arrays, dmas, _, rfl, rfl, rfl⟩

/-- R61: in GENERATE a boundary starts the program's team, and no other engine's. -/
theorem boundary_starts {slot count d v g entry : Nat} {m : Dev} {y : Job} (hj : m.jobs = [(slot, y)]) (hm : Unoccupied m)
    (hflips : m.ctl.bucketFlips = []) (hr : Resting y) (hp : y.phase = .generate) (hst : m.sys.st = .active)
    (hbit : bitOf (partAt m y.part).dies d = true) (hdie : (pdieAt m d).st = 0) (hprime : (pdieAt m d).priming = false)
    (hteam : tfind (veAt m d v).teams g = none) :
    ∃ t x, boundary slot count false {} [{ die := d, ve := v, team := g, entry := entry }] m = t
      ∧ t.jobs = [(slot, strokeOpened y count false none)] ∧ tfind (veAt t d v).teams g = some x ∧ x.job = slot ∧ x.pc = entry
      ∧ (∀ d' v', d' * 128 + v' ≠ d * 128 + v → veAt t d' v' = veAt m d' v') ∧ t.mem = m.mem := by
  obtain ⟨u, hu, hb⟩ := boundary_resting (count := count) (stretched := false) (it := {})
    (launches := [{ die := d, ve := v, team := g, entry := entry }]) hj hm hflips hr ⟨rfl, rfl, rfl⟩ rfl rfl (by simp)
  have hwritten := strokeTurned_written slot count false none y m
  have hframe : u = { m with
      ctl := u.ctl, out := u.out, seen := u.seen, net := u.net, jobs := [(slot, strokeOpened y count false none)] } := by
    rw [hu.frame, hwritten.frame]
  have huj : u.jobs = [(slot, strokeOpened y count false none)] := by rw [hframe]
  have hwait : u.ctl.waiting = [] := by
    rw [hu.frame]
    exact hwritten.waiting.trans hm.waiting
  obtain ⟨arrays, dmas, x, hdisp, hjob, hpc⟩ := dispatch_one (d := d) (v := v) (g := g) (entry := entry) huj (by rw [hframe]; exact hst) hp
    (by rw [hframe]; exact hbit) (by rw [hframe]; exact hdie) (by rw [hframe]; exact hprime) (by rw [hframe]; exact hteam)
  obtain ⟨t, ht⟩ : ∃ t, t = dispatch slot [{ die := d, ve := v, team := g, entry := entry }] u := ⟨_, rfl⟩
  have hves : ∀ d' v', veAt t d' v' = veAt (updVe u d v (fun e => { e with teams := tput e.teams g x, job := some slot })) d' v' := by
    intro d' v'
    rw [ht, hdisp]
    rfl
  have htwait : t.ctl.waiting = [] := by
    rw [ht, hdisp]
    exact hwait
  rw [← ht, acceptNext_none slot htwait] at hb
  refine ⟨t, x, hb, ?_, ?_, hjob, hpc, fun d' v' hne => ?_, ?_⟩
  · rw [ht, hdisp]
    exact huj
  · rw [hves, veAt_updVe_same]
    simp [tfind_tput]
  · rw [hves, veAt_updVe, if_neg hne, hframe]
    rfl
  · rw [ht, hdisp]
    show u.mem = m.mem
    rw [hframe]

/-! ### The obligation -/

theorem exec_originPeriodEnd {s : State} {slot : Nat} {launches : List Launch} (hwf : (Instr.originPeriodEnd slot launches).wf = true) :
    exec (.originPeriodEnd slot launches) s = .next { s with m := originPeriodEnd slot launches s.m } :=
  onDev_next (c := .originPeriodEnd slot launches) _ s hwf

/-- Links that have sent flits hold what they held (R462). -/
theorem rx_of_framed {m t : Dev} {ls : List Nat} (h : framedOn m t ls) (hrx : ∀ l v, nth 0 (linkAt m l).rx v = 0) (l v : Nat) :
    nth 0 (linkAt t l).rx v = 0 := by
  obtain ⟨retry, next, hl⟩ := h.2 l
  rw [hl]
  exact hrx l v

/-- R77: a boundary in IDLE that has gone down the tree as flits. -/
theorem told_passes {slot count : Nat} {stretched : Bool} {it : Items} {launches : List Launch} {m t : Dev} {y : Job} {e : TreeEntry}
    {ls : List Nat} {f : Flit} (hsent : FlitsSent m t (ls.map (fun l => (l, f)))) (hm : Unoccupied m) (hflips : m.ctl.bucketFlips = [])
    (hr : Resting y) (hidle : y.phase = .idle) (hit : it.Plain) (hrecov : it.recov = none) (hwide : it.jobWide = none)
    (hs : stretched = true → y.isOrigin = false ∧ y.votedStretch = false) (hrx : ∀ l v, nth 0 (linkAt m l).rx v = 0) :
    ∃ n n', framedOn m { m with net := n } ls ∧ (∀ l, linkAt { m with net := n' } l = linkAt { m with net := n } l)
      ∧ n = { m.net with votes := tkeep m.net.votes (fun k _ => decide (k / 32 ≠ e.tree)), links := n.links }
      ∧ n' = { n with links := n'.links }
      ∧ boundary slot count stretched it launches (dropVotes e.tree { t with jobs := [(slot, y)] })
        = let x : Dev := { m with jobs := [(slot, y)], net := n, out := m.out ++ ls.map (fun l => .flit l f) }
          { (if y.started then endStroke x (some slot) y.stroke stretched else x) with
            jobs := [(slot, strokeOpened y count stretched it.margin)], net := n' } := by
  obtain ⟨n, hn⟩ : ∃ n, n = { m.net with votes := tkeep m.net.votes (fun k _ => decide (k / 32 ≠ e.tree)), links := t.net.links } := ⟨_, rfl⟩
  have hframed : framedOn m { m with net := n } ls := by
    have h := hsent.framed
    rw [show (ls.map (fun l => (l, f))).map (·.1) = ls by simp [Function.comp_def]] at h
    rw [hn]
    exact h
  obtain ⟨n', hlinks, hn', hb⟩ := boundary_passes (js := slot) (count := count) (launches := launches) (m := m) (n := n)
    (out := m.out ++ ls.map (fun l => .flit l f)) hm hflips hr hidle hit hrecov hwide hs (rx_of_framed hframed hrx)
  refine ⟨n, n', hframed, hlinks, by rw [hn], hn', ?_⟩
  have htold : dropVotes e.tree { t with jobs := [(slot, y)] }
      = { m with jobs := [(slot, y)], net := n, out := m.out ++ ls.map (fun l => .flit l f) } := by
    rw [hsent.frame, hn]
    simp only [List.map_map]
    rfl
  rw [htold, hb]

/-- Settles O53: in IDLE the boundary is `told_passes`, with the first record `boundary_idle`, in GENERATE `boundary_starts`; attachments only
stand in the job. -/
theorem boundariesOpenStrokes : Obligations.BoundariesOpenStrokes := by
  intro s slot j e hf hj hslot htree htakes below linked quiet opened passed boundary'
  have hmembers : ∀ f : Flit, (below.map (fun l => (l, f))).map (·.1) = below := fun f => by simp [Function.comp_def]
  refine ⟨?_, ?_⟩
  · rintro ⟨hturn, hrecov, hmis, hnotice, hskip, hspread, hsecure, hwide, hacc, hwait, hflips, htinct, hpools, hposts, hrx⟩ hidle ho horig
      hstretch launches hwf
    have hexec := exec_originPeriodEnd (s := s) hwf
    have hm : Unoccupied s.m := ⟨hacc, hwait, htinct, hpools, hposts⟩
    have hr : Resting j := ⟨.inl hidle, by simp [hidle], by simp [hidle], hmis, hspread⟩
    have hi : Itemless j := ⟨hturn, hrecov, hskip, hsecure, hwide⟩
    refine ⟨?_, ?_, ?_⟩
    · rintro lowest voters count hs hc rfl
      have hcount : (if !j.started then j.firstStroke else if j.recov.skip then j.stroke + 2 else j.stroke + 1) = j.stroke + 1 := by
        simp [hs, hskip]
      have hitems : originItems j (j.stroke + 1) = {} := by
        rw [hi.originItems (by simp [hidle]) (by simp [hidle])]
        simp [hs]
      have hsame : ({ s.m with jobs := [(slot, itemsTaken j)] } : Dev) = s.m := by rw [hi.itemsTaken, ← hj]
      have htold : boundaryTold j (boundaryRecord {}) ((j.stroke + 1) % 2 ^ 64) false s.m
          = dropVotes e.tree (forwardDown e (.boundary e.tree 0 ((j.stroke + 1) % 2 ^ 64) false false) s.m) := by
        rw [boundaryTold, horig, hs]
        rfl
      have hsent := forwardDown_sent e (.boundary e.tree 0 ((j.stroke + 1) % 2 ^ 64) false false) htakes
      rw [originPeriodEnd_ready hj hf ho hnotice hs hc hidle, originBoundary_eq hj hcount hitems rfl, hsame,
        show decide (0 < j.stretches) = false by simp [hstretch], htold] at hexec
      obtain ⟨n, n', hframed, hlinks, hn, hn', hb⟩ := told_passes (slot := slot) (count := (j.stroke + 1) % 2 ^ 64) (stretched := false)
        (it := {}) (launches := launches) (y := j) (e := e) hsent hm hflips hr hidle ⟨rfl, rfl, rfl⟩ rfl rfl (by simp) hrx
      refine ⟨n, n', ⟨hframed, hlinks, hn, hn'⟩, ?_⟩
      rw [hexec]
      have hjobs : forwardDown e (.boundary e.tree 0 ((j.stroke + 1) % 2 ^ 64) false false) s.m
          = { forwardDown e (.boundary e.tree 0 ((j.stroke + 1) % 2 ^ 64) false false) s.m with jobs := [(slot, j)] } := by
        rw [← hj, hsent.frame]
      rw [hjobs, hb]
      rfl
    · rintro count hs hmay rfl
      have hcount : (if !j.started then j.firstStroke else if j.recov.skip then j.stroke + 2 else j.stroke + 1) = j.firstStroke := by
        simp [hs]
      have hitems : originItems j j.firstStroke = { margin := some j.margin } := by
        rw [hi.originItems (by simp [hidle]) (by simp [hidle])]
        simp [hs]
      have hsame : ({ s.m with jobs := [(slot, itemsTaken j)] } : Dev) = s.m := by rw [hi.itemsTaken, ← hj]
      obtain ⟨x, hx⟩ : ∃ x, x = sendBoundary e (marginRecord j.margin) (j.firstStroke % 2 ^ 64) false true s.m := ⟨_, rfl⟩
      have htold : boundaryTold j (boundaryRecord { margin := some j.margin }) (j.firstStroke % 2 ^ 64) false s.m = dropVotes e.tree x := by
        rw [boundaryTold, horig, hs, boundaryRecord_margin, hx]
        rfl
      obtain ⟨links, out, hframe⟩ := sendBoundary_frame e (marginRecord j.margin) (j.firstStroke % 2 ^ 64) false true s.m
      rw [← hx] at hframe
      have hxj : x.jobs = [(slot, j)] := by rw [hframe]; exact hj
      rw [originPeriodEnd_new hj hf ho hnotice hs, if_pos hmay, originBoundary_eq hj hcount hitems rfl, hsame,
        show decide (0 < j.stretches) = false by simp [hstretch], htold] at hexec
      have hdrained := boundary_idle (count := j.firstStroke % 2 ^ 64) (stretched := false) (it := { margin := some j.margin })
        (launches := launches) (m := dropVotes e.tree x) hxj (by rw [hframe]; exact ⟨hacc, hwait, htinct, hpools, hposts⟩)
        (by rw [hframe]; exact hflips) hr hidle ⟨rfl, rfl, rfl⟩ rfl rfl (by simp)
      have hturned : strokeTurned slot (j.firstStroke % 2 ^ 64) false (some j.margin) j (dropVotes e.tree x) = { dropVotes e.tree x with
          jobs := [(slot, opened j (j.firstStroke % 2 ^ 64) false)] } := by
        rw [strokeTurned, hs]
        rfl
      rw [hturned] at hdrained
      generalize boundary _ _ _ _ _ _ = t at hexec hdrained
      have htout : t.out = x.out := by rw [hdrained.frame]; rfl
      have hflit : ∀ k f, flitOnItsWay x k f → flitOnItsWay t k f := by
        rintro k f (h | h)
        · exact .inl (htout ▸ h)
        · exact .inr ((hdrained.flitq k).symm ▸ h)
      refine ⟨_, hexec, ?_, ?_, fun k hk hdown hup => ?_⟩
      · rw [hdrained.frame]
      · rw [hdrained.frame, hframe]
        rfl
      · obtain ⟨hattach, hbound⟩ := sendBoundary_margin (margin := j.margin) (count := j.firstStroke % 2 ^ 64) (stretched := false)
          (first := true) hk hdown hup
        rw [← hx] at hattach hbound
        exact ⟨hflit _ _ hattach, hflit _ _ hbound⟩
    · intro hs hmay
      rw [hexec, originPeriodEnd_new hj hf ho hnotice hs, hmay]
      rfl
  · intro link hup hmem hid ho ht
    have htakesFrom := takesFrom_only hj hmem hid ho ht
    have harr := arrives_of hf hup
    refine ⟨?_, ?_⟩
    · intro natt count stretched first launches hwf run told
      have hexec : run = .next { s with m := strokeBoundary link e.tree natt count stretched first launches s.m } :=
        onDev_next (c := .strokeBoundary link e.tree natt count stretched first launches) _ s hwf
      have hsent := forwardDown_sent e (.boundary e.tree natt count stretched first) htakes
      refine ⟨?_, ?_, ?_⟩
      · rintro ⟨_, _, hmis, _, _, hspread, _, _, hacc, hwait, hflips, htinct, hpools, hposts, hrx⟩ hidle rfl hquiet
        obtain ⟨n, n', hframed, hlinks, hn, hn', hb⟩ := told_passes (slot := slot) (count := count) (stretched := stretched)
          (it := {}) (launches := launches) (y := { j with tree := some e.tree }) (e := e) hsent ⟨hacc, hwait, htinct, hpools, hposts⟩ hflips
          ⟨.inl hidle, by simp [hidle], by simp [hidle], hmis, hspread⟩ hidle ⟨rfl, rfl, rfl⟩ rfl rfl (fun h => ⟨ho, hquiet h⟩) hrx
        refine ⟨n, n', ⟨hframed, hlinks, hn, hn'⟩, ?_⟩
        rw [hexec, strokeBoundary_whole harr htree hj rfl hsent htakesFrom, hb]
        rfl
      · rintro ⟨_, _, hmis, _, _, hspread, _, _, hacc, hwait, hflips, htinct, hpools, hposts, _⟩ hp hg hshard rfl rfl hst d v g entry rfl
          hbit hdie hprime hteam
        obtain ⟨x, hx⟩ : ∃ x, x = dropVotes e.tree { forwardDown e (.boundary e.tree 0 count false first) s.m with
          jobs := [(slot, { j with tree := some e.tree })] } := ⟨_, rfl⟩
        have hframe : x = { s.m with net := x.net, out := x.out, jobs := [(slot, { j with tree := some e.tree })] } := by
          rw [hx, hsent.frame]
          rfl
        obtain ⟨t, team, ht, htj, hfind, hjob, hpc, hothers, hmem⟩ := boundary_starts (slot := slot) (count := count) (d := d) (v := v)
          (g := g) (entry := entry) (m := x) (y := { j with tree := some e.tree }) (by rw [hframe])
          (by rw [hframe]; exact ⟨hacc, hwait, htinct, hpools, hposts⟩) (by rw [hframe]; exact hflips)
          ⟨.inr hp, fun _ => hg, fun _ => hshard, hmis, hspread⟩ hp (by rw [hframe]; exact hst) (by rw [hframe]; exact hbit)
          (by rw [hframe]; exact hdie) (by rw [hframe]; exact hprime) (by rw [hframe]; exact hteam)
        refine ⟨_, team, hexec, ?_⟩
        rw [strokeBoundary_whole harr htree hj rfl hsent htakesFrom, ← hx, ht]
        refine ⟨htj, hfind, hjob, hpc, fun d' v' hne _ hv hv' => ?_, ?_, rfl⟩
        · rw [hothers d' v' (by omega), hframe]
          rfl
        · rw [hmem, hframe]
      · intro hbroken
        rw [hexec, strokeBoundary_broken harr htree hj rfl hsent htakesFrom hbroken]
        refine ⟨_, rfl, ?_, ?_⟩
        · have h := hsent.framed
          rw [hmembers] at h
          exact h
        · rw [show forwardDown e _ s.m = _ from hsent.frame]
          simp only [List.map_map]
          rfl
    · intro index data hwf
      have hexec : exec (.attachFlit link e.tree index data) s = .next { s with m := attachFlit link e.tree index data s.m } :=
        onDev_next (c := .attachFlit link e.tree index data) _ s hwf
      have hsent := forwardDown_sent e (.attach e.tree index data) htakes
      rw [hexec, attachFlit_eq harr htree hj rfl hsent htakesFrom]
      refine ⟨_, rfl, ?_, ?_⟩
      · have h := hsent.framed
        rw [hmembers] at h
        exact h
      · rw [show forwardDown e _ s.m = _ from hsent.frame]
        simp only [List.map_map]
        rfl

end Sys2Proof.Machine
end

section
/-! PROOFS of the family 02_strokes_states_phases: votes that go up a tree, and stretches that go down it (R66, R69, R70, R71). -/

namespace Sys2Proof.Machine

/-! ### What a vote leaves behind -/

/-- A command that sends one flit on some links, and then sets the jobs and the votes. -/
theorem sends_of {s : State} {i : Instr} {t : Dev} {jobs jobs' : Tab Job} {votes votes' : Tab (Nat × Bool × Nat × Nat)} {ls : List Nat} {f : Flit}
    (hexec : exec i s = .next { s with m := { t with jobs := jobs', net := { t.net with votes := votes' } } })
    (hsent : FlitsSent { s.m with jobs := jobs, net := { s.m.net with votes := votes } } t (ls.map (fun l => (l, f)))) :
    ∃ t', exec i s = .next t' ∧ framedOn s.m t'.m ls ∧ t' = { s with m := { s.m with
      jobs := jobs', net := { s.m.net with votes := votes', links := t'.m.net.links }, out := s.m.out ++ ls.map (fun l => .flit l f) } } := by
  refine ⟨_, hexec, ?_, ?_⟩
  · have h := hsent.framed
    rw [show (ls.map (fun l => (l, f))).map (·.1) = ls by simp [Function.comp_def]] at h
    exact h
  · rw [hsent.frame]
    simp only [List.map_map]
    rfl

/-- The same for a command that only sends. -/
theorem sends_of_sent {s : State} {i : Instr} {t : Dev} {jobs : Tab Job} {votes : Tab (Nat × Bool × Nat × Nat)} {ls : List Nat} {f : Flit}
    (hexec : exec i s = .next { s with m := t })
    (hsent : FlitsSent { s.m with jobs := jobs, net := { s.m.net with votes := votes } } t (ls.map (fun l => (l, f)))) :
    ∃ t', exec i s = .next t' ∧ framedOn s.m t'.m ls ∧ t' = { s with m := { s.m with
      jobs := jobs, net := { s.m.net with votes := votes, links := t'.m.net.links }, out := s.m.out ++ ls.map (fun l => .flit l f) } } := by
  refine sends_of (votes := votes) (jobs := jobs) ?_ hsent
  have hsame : ({ t with jobs := jobs, net := { t.net with votes := votes } } : Dev) = t := by rw [hsent.frame]
  rw [hsame, hexec]

/-- The one link UP of a tree, when it is up. -/
def upLinks (m : Dev) (e : TreeEntry) : List Nat := if linkUp (linkAt m e.up) = true then [e.up] else []

/-- A flit UP, from a module with the same links. -/
theorem sendFlit_up {m t : Dev} {e : TreeEntry} (f : Flit) (hlinks : t.net.links = m.net.links)
    (h : ∀ l, linkUp (linkAt m l) = true → (linkAt m l).takesFlit = true) :
    FlitsSent t (sendFlit t e.up f) ((upLinks m e).map (fun l => (l, f))) := by
  have hup : linkAt t e.up = linkAt m e.up := by rw [linkAt, linkAt, hlinks]
  have hsent := sendFlit_sent (m := t) (l := e.up) f (by rw [hup]; exact h e.up)
  rw [hup] at hsent
  rw [upLinks]
  split
  next hl =>
    rw [if_pos hl] at hsent
    exact hsent
  next hl =>
    rw [if_neg hl] at hsent
    exact hsent

/-- What is left once the votes of a tree begin anew after flits. -/
theorem dropVotes_sent {m t : Dev} {sent : List (Nat × Flit)} (tree : Nat) (h : FlitsSent m t sent) : dropVotes tree t = { t with
    jobs := m.jobs, net := { t.net with votes := tkeep m.net.votes (fun k _ => decide (k / 32 ≠ tree)) } } := by
  rw [h.frame]
  rfl

/-! ### A member's vote (R66, R69) -/

/-- A member takes its votes from the tree that it takes its boundaries from. -/
theorem jobTree_member {m : Dev} {j : Job} {e : TreeEntry} (ho : j.isOrigin = false) (ht : j.tree = some e.tree) (htree : treeOf m e.tree = some e) :
    jobTree m j = some e := by
  simp [jobTree, ho, ht, htree]

section
variable {m : Dev} {slot : Nat} {j : Job} {e : TreeEntry}

theorem tryVote_early (hj : m.jobs = [(slot, j)]) (hv : j.voted = false) : tryVote slot m = m := by
  rw [tryVote, jobAt_only hj]
  simp [hv]

theorem tryVote_waits (hj : m.jobs = [(slot, j)]) (htree : jobTree m j = some e) (hk : childVotes m e (j.stroke % 65536) = none) :
    tryVote slot m = m := by
  rw [tryVote, jobAt_only hj]
  simp only [htree, hk, ite_self]

/-- R69: the combined vote goes up when the last of the subtree's votes is in. -/
theorem tryVote_sends {k : Bool × Nat × Nat} (hj : m.jobs = [(slot, j)]) (htree : jobTree m j = some e) (ho : j.isOrigin = false)
    (hv : j.voted = true) (hs : j.voteSent = false) (hk : childVotes m e (j.stroke % 65536) = some k) :
    let v := joinVotes k (j.ownStretch, if j.ownStretch then j.self else 65535, b2n j.ownStretch)
    tryVote slot m = sendFlit { m with jobs := [(slot, { j with voteSent := true, combined := some v })] } e.up
      (.vote e.tree (j.stroke % 65536) v.1 v.2.1 v.2.2) := by
  intro v
  rw [tryVote, jobAt_only hj]
  simp only [htree, hk]
  rw [if_neg (by simp [hv, hs]), if_neg (by simp [ho]), updJob_only hj]

end

/-! ### The deadline (R66) -/

theorem voteDeadline_votes {m : Dev} {slot : Nat} {j : Job} (hf : forwarding m = true) (hj : m.jobs = [(slot, j)]) (hs : j.started = true)
    (hv : j.voted = false) : voteDeadline slot m = tryVote slot { m with jobs := [(slot, { j with
      voted := true, ownStretch := stretchVote m slot j, votedStretch := j.votedStretch || stretchVote m slot j
      ownVotes := j.ownVotes + b2n (stretchVote m slot j) })] } := by
  rw [voteDeadline, jobAt_only hj]
  simp only
  rw [if_neg (by simp [hs, hv, hf]), updJob_only hj]

/-! ### A child's vote (R69, R70) -/

section
variable {m : Dev} {slot link count lowest voters : Nat} {vote : Bool} {j : Job} {e : TreeEntry}

/-- The votes with one more in. -/
def voteIn (m : Dev) (e : TreeEntry) (link count : Nat) (vote : Bool) (lowest voters : Nat) : Tab (Nat × Bool × Nat × Nat) :=
  tput m.net.votes (e.tree * 32 + link) (count % 65536, vote, (if vote then lowest else 65535), voters)

theorem voteFlit_fresh (harr : arrives m link = true) (htree : treeOf m e.tree = some e) (hd : bitOf e.down link = true)
    (hmem : isMember e = true) (hby : jobById m e.jobId = some (slot, j)) (hjt : jobTree m j = some e) (hs : j.started = true)
    (hc : count % 65536 = j.stroke % 65536) (hj : m.jobs = [(slot, j)])
    (hfresh : (tfind m.net.votes (e.tree * 32 + link)).map (·.1) ≠ some (count % 65536)) :
    voteFlit link e.tree count vote lowest voters m = tryVote slot { m with
      jobs := [(slot, { j with missed := tdel j.missed link })], net := { m.net with votes := voteIn m e link count vote lowest voters } } := by
  rw [voteFlit, if_neg (by simp [harr]), htree]
  simp only
  rw [if_neg (by simp [hd]), if_pos hmem, hby]
  simp only
  rw [if_pos ⟨hs, by simp [hjt], hc, hfresh⟩, updJob_only (by exact hj)]
  rfl

/-- R70: a vote that its deadline has counted changes nothing. -/
theorem voteFlit_stale (harr : arrives m link = true) (htree : treeOf m e.tree = some e) (hd : bitOf e.down link = true)
    (hmem : isMember e = true) (hby : jobById m e.jobId = some (slot, j))
    (hstale : (tfind m.net.votes (e.tree * 32 + link)).map (·.1) = some (count % 65536)) :
    voteFlit link e.tree count vote lowest voters m = m := by
  rw [voteFlit, if_neg (by simp [harr]), htree]
  simp only
  rw [if_neg (by simp [hd]), if_pos hmem, hby]
  simp only
  rw [if_neg (fun h => h.2.2.2 hstale)]

theorem voteFlit_other (harr : arrives m link = true) (htree : treeOf m e.tree = some e) (hd : bitOf e.down link = true)
    (hmem : isMember e = false) {put : Dev}
    (hput : put = { m with net := { m.net with votes := voteIn m e link count vote lowest voters } }) :
    (childVotes put e (count % 65536) = none → voteFlit link e.tree count vote lowest voters m = put)
    ∧ ∀ v, childVotes put e (count % 65536) = some v → voteFlit link e.tree count vote lowest voters m
        = dropVotes e.tree (sendFlit put e.up (.vote e.tree (count % 65536) v.1 v.2.1 v.2.2)) := by
  have hrun : voteFlit link e.tree count vote lowest voters m = match childVotes put e (count % 65536) with
      | some v => dropVotes e.tree (sendFlit put e.up (.vote e.tree (count % 65536) v.1 v.2.1 v.2.2))
      | none => put := by
    rw [voteFlit, if_neg (by simp [harr]), htree, hput]
    simp only [hd, hmem, Bool.not_true, Bool.false_eq_true, if_false]
    rfl
  refine ⟨fun h => ?_, fun v h => ?_⟩
  · rw [hrun, h]
  · rw [hrun, h]

end

/-! ### Stretches (R71) -/

/-- The job once its stroke is stretched anew. -/
def stretchedAnew (j : Job) (n lowest voters : Nat) : Job := { j with
  stretches := n, stretchPeriods := j.stretchPeriods + 1, lastStretch := j.stroke, lastVoter := lowest, lastVoters := voters
  voted := false, voteSent := false, ownStretch := false, combined := none }

theorem stretchFlit_member {m t : Dev} {slot link n : Nat} {j : Job} {e : TreeEntry} {sent : List (Nat × Flit)} (harr : arrives m link = true)
    (htree : treeOf m e.tree = some e) (hj : m.jobs = [(slot, j)]) (ht : forwardDown e (.stretch e.tree n j.stroke) m = t)
    (hsent : FlitsSent m t sent) (htakes : takesFrom m e = some (slot, j)) (hs : j.started = true) (hjt : j.tree = some e.tree) :
    ∃ lowest voters, stretchFlit link e.tree n j.stroke m
        = { dropVotes e.tree t with jobs := [(slot, stretchedAnew j n lowest voters)] }
      ∧ (∀ l v, j.combined = some (true, l, v) → lowest = l ∧ voters = v)
      ∧ ((∀ l v, j.combined ≠ some (true, l, v)) → lowest = j.lastVoter ∧ voters = j.lastVoters) := by
  have htakes' : takesFrom t e = some (slot, j) := by rw [hsent.frame]; exact htakes
  have hdrop : (dropVotes e.tree t).jobs = [(slot, j)] := by rw [hsent.frame]; exact hj
  have hrun : stretchFlit link e.tree n j.stroke m = updJob (dropVotes e.tree t) slot (fun j => stretchedAnew j n
      (match j.combined with | some (true, l, _) => l | _ => j.lastVoter) (match j.combined with | some (true, _, v) => v | _ => j.lastVoters)) := by
    rw [stretchFlit, if_neg (by simp [harr]), htree]
    simp only [ht, htakes', hs, hjt, and_self, if_true]
    rfl
  rw [hrun, updJob_only hdrop]
  refine ⟨_, _, rfl, fun l v h => by simp [h], fun h => ?_⟩
  split
  next l _ hc => exact absurd hc (h _ _)
  next => exact ⟨rfl, rfl⟩

end Sys2Proof.Machine
end

section
/-! PROOFS of the family 02_strokes_states_phases: units that go out or wait for credit (R460, R462), and a child that does not vote (R70,
R585). -/

namespace Sys2Proof.Machine

/-! ### Units that go out or wait for credit -/

/-- One frame of a channel leaves each other unit where it is. -/
theorem frameOut_keeps (v w : Nat) (o : Out) : ∀ (q : List (Nat × Nat × Out)) (n : Nat), (w, n, o) ∈ q →
    (∃ n', (w, n', o) ∈ (frameOut v q).1) ∨ (frameOut v q).2 = some o
  | u :: q, n, h => by
    rw [frameOut]
    rcases List.mem_cons.mp h with rfl | h
    · split
      next hv =>
        split
        · exact .inr rfl
        · exact .inl ⟨n - 1, by rw [show w = v from hv]; exact List.mem_cons_self ..⟩
      next => exact .inl ⟨n, List.mem_cons_self ..⟩
    · split
      next =>
        split
        · exact .inl ⟨n, h⟩
        · exact .inl ⟨n, List.mem_cons_of_mem _ h⟩
      next =>
        rcases frameOut_keeps v w o q n h with ⟨n', h'⟩ | h'
        · exact .inl ⟨n', List.mem_cons_of_mem _ h'⟩
        · exact .inr h'

/-- From `m` to `t` a link has sent frames: it stays in its state, its units go out or wait, and only links and what is sent change. -/
structure LinkServed (l : Nat) (m t : Dev) : Prop where
  frame : t = { m with net := { m.net with links := t.net.links }, out := t.out }
  linkUp : ∀ k, linkUp (linkAt t k) = linkUp (linkAt m k)
  keeps : ∀ p, onItsWay m l p → onItsWay t l p

theorem LinkServed.refl (l : Nat) (m : Dev) : LinkServed l m m := ⟨rfl, fun _ => rfl, fun _ => id⟩

theorem LinkServed.trans {l : Nat} {m t u : Dev} (h : LinkServed l m t) (h' : LinkServed l t u) : LinkServed l m u :=
  ⟨by rw [h'.frame, h.frame], fun k => (h'.linkUp k).trans (h.linkUp k), fun p hp => h'.keeps p (h.keeps p hp)⟩

/-- A change of the link itself that keeps its state and its units. -/
theorem updLink_served (l : Nat) {m : Dev} (f : Link → Link) (hup : Machine.linkUp (f (linkAt m l)) = Machine.linkUp (linkAt m l))
    (htxq : (f (linkAt m l)).txq = (linkAt m l).txq) : LinkServed l m (updLink m l f) := by
  refine ⟨rfl, fun k => ?_, fun p hp => ?_⟩
  · rw [linkAt_updLink]
    split
    next h => rw [hup, h]
    next => rfl
  · rcases hp with h | ⟨n, h⟩
    · exact .inl h
    · refine .inr ⟨n, ?_⟩
      rw [linkAt_updLink_same, htxq]
      exact h

theorem send_served (l : Nat) (m : Dev) (o : Out) : LinkServed l m (send m o) :=
  ⟨rfl, fun _ => rfl, fun _ hp => hp.imp (List.mem_append_left _) id⟩

theorem putFlit_served (l : Nat) (f : Flit) (m : Dev) : LinkServed l m (putFlit l f m) :=
  (updLink_served l _ rfl rfl).trans (send_served ..)

/-- A channel's frame, in the retry buffer; its unit is on the link with the last frame. -/
theorem unitFrame_served (l v : Nat) (m : Dev) :
    let t := frameSent l (.data v (serveVc (linkAt m l) v).2) (updLink m l (fun _ => (serveVc (linkAt m l) v).1))
    ((serveVc (linkAt m l) v).2 = none → LinkServed l m t) ∧ ∀ o, (serveVc (linkAt m l) v).2 = some o → LinkServed l m (send t o) := by
  intro t
  have hup : ∀ k, linkUp (linkAt t k) = linkUp (linkAt m k) := by
    intro k
    simp only [t, frameSent]
    rw [linkAt_updLink]
    split
    next h => rw [h, linkAt_updLink_same]; rfl
    next h => rw [linkAt_updLink, if_neg h]
  have htxq : (linkAt t l).txq = (frameOut v (linkAt m l).txq).1 := by
    simp only [t, frameSent]
    rw [linkAt_updLink_same, linkAt_updLink_same]
    rfl
  have hunit : (serveVc (linkAt m l) v).2 = (frameOut v (linkAt m l).txq).2 := rfl
  obtain ⟨links, hframe⟩ : ∃ links, t = { m with net := { m.net with links := links } } := frameSent_links ..
  have hout : t.out = m.out := by rw [hframe]
  clear_value t
  refine ⟨fun hnone => ⟨by rw [hframe], hup, fun p hp => ?_⟩, fun o ho => ⟨by rw [hframe]; rfl, hup, fun p hp => ?_⟩⟩
  · rcases hp with h | ⟨n, h⟩
    · exact .inl (hout ▸ h)
    · rcases frameOut_keeps v p.vc (.packet l p) _ n h with ⟨n', h'⟩ | h'
      · exact .inr ⟨n', htxq ▸ h'⟩
      · rw [hunit, h'] at hnone
        cases hnone
  · rcases hp with h | ⟨n, h⟩
    · exact .inl (List.mem_append_left _ (hout ▸ h))
    · rcases frameOut_keeps v p.vc (.packet l p) _ n h with ⟨n', h'⟩ | h'
      · exact .inr ⟨n', htxq ▸ h'⟩
      · rw [hunit, h'] at ho
        cases ho
        exact .inl (List.mem_append_right _ (List.mem_singleton_self _))

theorem serveLink_served (l : Nat) : ∀ (n : Nat) (m : Dev), LinkServed l m (serveLink l n m)
  | 0, m => .refl l m
  | n + 1, m => by
    unfold serveLink
    simp only
    split
    · exact .refl l m
    · split
      · refine .trans ?_ (serveLink_served l n _)
        exact .trans (updLink_served l _ rfl rfl) (putFlit_served ..)
      · exact .refl l m
      · next v _ _ =>
        refine .trans ?_ (serveLink_served l n _)
        obtain ⟨hnone, hsome⟩ := unitFrame_served l v m
        split
        next o ho => exact hsome o ho
        next ho => exact hnone ho

/-- A unit changes links and what is sent. -/
theorem sendUnit_frame (m : Dev) (l v bytes : Nat) (o : Out) :
    ∃ links out, sendUnit m l v bytes o = { m with net := { m.net with links := links }, out := out } := by
  rw [sendUnit]
  split
  · have h := (serveLink_served l (creditLeft (linkAt (updLink m l (fun k => { k with txq := k.txq ++ [(v, unitFrames bytes, o)] })) l))
      (updLink m l (fun k => { k with txq := k.txq ++ [(v, unitFrames bytes, o)] }))).frame
    exact ⟨_, _, h⟩
  · exact ⟨m.net.links, m.out, rfl⟩

theorem linkUp_sendUnit (m : Dev) (l v bytes k : Nat) (o : Out) : linkUp (linkAt (sendUnit m l v bytes o) k) = linkUp (linkAt m k) := by
  rw [sendUnit]
  split
  · rw [(serveLink_served l _ _).linkUp, linkAt_updLink]
    split
    next h => rw [h]; rfl
    next => rfl
  · rfl

/-- A packet on a link that is up goes out or waits for credit. -/
theorem onItsWay_sendUnit {m : Dev} {l bytes : Nat} (p : Packet) (h : linkUp (linkAt m l) = true) :
    onItsWay (sendUnit m l p.vc bytes (.packet l p)) l p := by
  rw [sendUnit, if_pos h]
  refine (serveLink_served l _ _).keeps p (.inr ⟨unitFrames bytes, ?_⟩)
  rw [linkAt_updLink_same]
  exact List.mem_append_right _ (List.mem_singleton_self _)

/-- R468: a route leads over a link that is up. -/
theorem linkUp_of_routeLink {m : Dev} {dest l : Nat} (h : routeLink m dest = some l) : linkUp (linkAt m l) = true := by
  rw [routeLink] at h
  split at h
  next hp =>
    cases h
    simp only [Bool.and_eq_true] at hp
    exact hp.1.2
  next =>
    split at h
    next ha =>
      cases h
      simp only [Bool.and_eq_true] at ha
      exact ha.2
    next => cases h

/-- A CONTROL packet to a destination that has a route goes out or waits, and changes links only. -/
theorem sendControl_routed {m : Dev} {d o : Nat} {payload : List Byte} (h : routeLink m d = some o) :
    ∃ links out, sendControl m d payload = { m with net := { m.net with links := links }, out := out }
      ∧ (∀ k, linkUp (linkAt (sendControl m d payload) k) = linkUp (linkAt m k))
      ∧ onItsWay (sendControl m d payload) o (controlPacket m d payload) := by
  have hsend : sendControl m d payload = sendUnit m o 6 (packetBytes (controlPacket m d payload)) (.packet o (controlPacket m d payload)) := by
    have hdest : (controlPacket m d payload).dest = d := rfl
    rw [sendControl, sendRouted, hdest, h]
    rfl
  obtain ⟨links, out, hframe⟩ := sendUnit_frame m o 6 (packetBytes (controlPacket m d payload)) (.packet o (controlPacket m d payload))
  rw [hsend]
  exact ⟨links, out, hframe, fun k => linkUp_sendUnit .., onItsWay_sendUnit (controlPacket m d payload) (linkUp_of_routeLink h)⟩

/-! ### A child that does not vote (R70, R585) -/

section
variable {m : Dev} {slot link : Nat} {j : Job} {e : TreeEntry}

/-- R70: the missing vote counts as a STRETCH of the child's position, which is reported. -/
theorem childTimeout_counts (hj : m.jobs = [(slot, j)]) (htree : jobTree m j = some e) (hv : j.voted = true) (hs : j.voteSent = false)
    (hd : bitOf e.down link = true) (hfresh : (tfind m.net.votes (e.tree * 32 + link)).map (·.1) ≠ some (j.stroke % 65536)) :
    childTimeout slot link m = tryVote slot (sendReport slot (if tget 0 j.missed link = 0 then 1 else 2) (linkAt m link).peerPos { m with
      jobs := [(slot, { j with missed := tput j.missed link (tget 0 j.missed link + 1) })]
      net := { m.net with
        votes := tput m.net.votes (e.tree * 32 + link) (j.stroke % 65536, true, (linkAt m link).peerPos, 1) } }) := by
  have hcause : (if 2 ≤ tget 0 j.missed link + 1 then 2 else 1) = if tget 0 j.missed link = 0 then 1 else 2 := by
    by_cases h : tget 0 j.missed link = 0
    · simp [h]
    · rw [if_pos (by omega), if_neg h]
  rw [childTimeout, jobAt_only hj]
  simp only [htree]
  rw [if_pos ⟨hv, by simp [hs], hd, hfresh⟩, hcause, updJob_only (by exact hj)]
  rfl

/-- R585: a report of a child goes to the coordinator. -/
theorem sendReport_child {cause subject d : Nat} (hj : m.jobs = [(slot, j)]) (hcause : cause = 1 ∨ cause = 2) (hc : coordOf j = some d)
    (hd : d ≠ j.self) : sendReport slot cause subject m
      = sendControl m d (recoveryPayload j 0x20 j.recov.attempt 64 (leBytes 1 cause ++ leBytes 2 subject) []) := by
  have hlost : ¬ ((cause = 3 ∨ cause = 4 ∨ cause = 6 ∨ cause = 7) ∧ some subject = coordOf j) := by
    rintro ⟨h, _⟩
    omega
  rw [sendReport, jobAt_only hj]
  simp only
  rw [if_neg hlost, hc]
  simp only
  rw [if_neg (show ¬ cause = 3 by omega), if_neg hd]

end

/-- What a child's timeout leaves behind: the report on its way, and the combined vote too when the last vote is in. -/
theorem childTimeout_reports {m : Dev} {slot link d o : Nat} {j y : Job} {e : TreeEntry} {votes : Tab (Nat × Bool × Nat × Nat)}
    (hj : m.jobs = [(slot, j)]) (htree : treeOf m e.tree = some e) (ho : j.isOrigin = false) (hjt : j.tree = some e.tree)
    (hv : j.voted = true) (hs : j.voteSent = false)
    (hd : bitOf e.down link = true) (hfresh : (tfind m.net.votes (e.tree * 32 + link)).map (·.1) ≠ some (j.stroke % 65536))
    (hc : coordOf j = some d) (hself : d ≠ j.self) (hroute : routeLink m d = some o)
    (hy : y = { j with missed := tput j.missed link (tget 0 j.missed link + 1) })
    (hvotes : votes = tput m.net.votes (e.tree * 32 + link) (j.stroke % 65536, true, (linkAt m link).peerPos, 1)) :
    ∃ t, childTimeout slot link m = t
      ∧ onItsWay t o (controlPacket m d (recoveryPayload j 0x20 j.recov.attempt 64
          (leBytes 1 (if tget 0 j.missed link = 0 then 1 else 2) ++ leBytes 2 (linkAt m link).peerPos) []))
      ∧ t = { m with jobs := t.jobs, net := { m.net with votes := votes, links := t.net.links }, out := t.out }
      ∧ (∀ k v, childVotes { m with net := { m.net with votes := votes } } e (j.stroke % 65536) = some k →
          joinVotes k (j.ownStretch, if j.ownStretch then j.self else 65535, b2n j.ownStretch) = v →
          t.jobs = [(slot, { y with voteSent := true, combined := some v })]
          ∧ (linkUp (linkAt m e.up) = true → flitOnItsWay t e.up (.vote e.tree (j.stroke % 65536) v.1 v.2.1 v.2.2)))
      ∧ (childVotes { m with net := { m.net with votes := votes } } e (j.stroke % 65536) = none → t.jobs = [(slot, y)]) := by
  obtain ⟨n, hn⟩ : ∃ n : Dev, n = { m with jobs := [(slot, y)], net := { m.net with votes := votes } } := ⟨_, rfl⟩
  have hnj : n.jobs = [(slot, y)] := by rw [hn]
  have hrun := childTimeout_counts hj (jobTree_member ho hjt htree) hv hs hd hfresh
  rw [← hvotes, ← hy, ← hn, sendReport_child hnj (by split <;> simp) (by rw [hy]; exact hc) (by rw [hy]; exact hself)] at hrun
  obtain ⟨links, out, hframe, hup, hway⟩ := sendControl_routed (payload := recoveryPayload y 0x20 y.recov.attempt 64
    (leBytes 1 (if tget 0 j.missed link = 0 then 1 else 2) ++ leBytes 2 (linkAt m link).peerPos) []) (show routeLink n d = some o by rw [hn]; exact hroute)
  have hpacket : recoveryPayload y 0x20 y.recov.attempt 64
      (leBytes 1 (if tget 0 j.missed link = 0 then 1 else 2) ++ leBytes 2 (linkAt m link).peerPos) []
      = recoveryPayload j 0x20 j.recov.attempt 64
        (leBytes 1 (if tget 0 j.missed link = 0 then 1 else 2) ++ leBytes 2 (linkAt m link).peerPos) [] := by
    rw [hy]
    rfl
  have hctl : ∀ payload, controlPacket n d payload = controlPacket m d payload := fun payload => by
    rw [hn]
    rfl
  rw [hpacket] at hrun hframe hup hway
  rw [hctl] at hway
  generalize sendControl n d _ = u at hrun hframe hup hway
  have huj : u.jobs = [(slot, y)] := by rw [hframe]; exact hnj
  have hupM : ∀ k, linkUp (linkAt u k) = linkUp (linkAt m k) := fun k => (hup k).trans (by rw [hn]; rfl)
  have hutree : jobTree u y = some e := jobTree_member (by rw [hy]; exact ho) (by rw [hy]; exact hjt) (by rw [hframe, hn]; exact htree)
  have hstroke : y.stroke % 65536 = j.stroke % 65536 := by rw [hy]
  have hkids : childVotes u e (y.stroke % 65536) = childVotes { m with net := { m.net with votes := votes } } e (j.stroke % 65536) := by
    rw [hframe, hn, hstroke]
    rfl
  cases hk : childVotes { m with net := { m.net with votes := votes } } e (j.stroke % 65536) with
  | none =>
    rw [tryVote_waits huj hutree (hkids.trans hk)] at hrun
    exact ⟨u, hrun, hway, by rw [hframe, hn], by simp, fun _ => huj⟩
  | some k =>
    have hsend := tryVote_sends huj hutree (by rw [hy]; exact ho) (by rw [hy]; exact hv) (by rw [hy]; exact hs) (hkids.trans hk)
    obtain ⟨v, hvote⟩ : ∃ v, v = joinVotes k (j.ownStretch, if j.ownStretch then j.self else 65535, b2n j.ownStretch) := ⟨_, rfl⟩
    have hown : joinVotes k (y.ownStretch, if y.ownStretch then y.self else 65535, b2n y.ownStretch) = v := by rw [hvote, hy]
    rw [hown, hstroke] at hsend
    rw [hsend] at hrun
    obtain ⟨links', out', hflit⟩ := sendFlit_frame { u with jobs := [(slot, { y with voteSent := true, combined := some v })] } e.up
      (.vote e.tree (j.stroke % 65536) v.1 v.2.1 v.2.2)
    refine ⟨_, hrun, onItsWay_sendFlit_of _ _ hway, ?_, ?_, by simp⟩
    · rw [hflit, hframe, hn]
    · rintro k' v' ⟨⟩ hv'
      rw [← hvote] at hv'
      subst hv'
      exact ⟨by rw [hflit], fun h => flitOnItsWay_sendFlit _ ((hupM e.up).trans h)⟩

end Sys2Proof.Machine
end

section
/-! PROOFS of the family 02_strokes_states_phases: what the collectives, the securing and the links of a module of one job leave of the job:
its stroke, its stretches and its failed positions. -/

namespace Sys2Proof.Machine

/-! ### A module of one job -/

/-- What collectives, securing and links never touch of a job. -/
def strokeView (j : Job) : Nat × Nat × List Nat := (j.stroke, j.stretches, j.recov.failed)

/-- The module's one job, in its slot, with a given view. -/
def HoldsJob (slot : Nat) (w : Nat × Nat × List Nat) (m : Dev) : Prop := ∃ y, m.jobs = [(slot, y)] ∧ strokeView y = w

variable {slot : Nat} {w : Nat × Nat × List Nat} {m t : Dev}

theorem HoldsJob.of_jobs (h : HoldsJob slot w m) (ht : t.jobs = m.jobs) : HoldsJob slot w t := by
  obtain ⟨y, hy, hw⟩ := h
  exact ⟨y, ht.trans hy, hw⟩

theorem HoldsJob.updJob (h : HoldsJob slot w m) (s : Nat) (f : Job → Job) (hf : ∀ j, strokeView (f j) = strokeView j) :
    HoldsJob slot w (updJob m s f) := by
  obtain ⟨y, hy, hw⟩ := h
  by_cases hs : slot = s
  · subst hs
    exact ⟨f y, by rw [updJob_only hy], (hf y).trans hw⟩
  · exact ⟨y, by simp [hy, tupd, tfind, hs], hw⟩

theorem HoldsJob.foldl {α : Type} {f : Dev → α → Dev} (h : HoldsJob slot w m) (hf : ∀ m a, HoldsJob slot w m → HoldsJob slot w (f m a))
    (l : List α) : HoldsJob slot w (l.foldl f m) :=
  List.foldlRecOn (motive := HoldsJob slot w) l f h fun t ht a _ => hf t a ht

/-- A fold that carries something along. -/
theorem HoldsJob.foldl_snd {α β : Type} {f : β × Dev → α → β × Dev} (h : HoldsJob slot w m)
    (hf : ∀ x a, HoldsJob slot w x.2 → HoldsJob slot w (f x a).2) (b : β) (l : List α) : HoldsJob slot w (l.foldl f (b, m)).2 :=
  List.foldlRecOn (motive := fun x => HoldsJob slot w x.2) l f h fun x hx a _ => hf x a hx

theorem HoldsJob.ite {p : Prop} [Decidable p] {a b : Dev} (ha : HoldsJob slot w a) (hb : HoldsJob slot w b) :
    HoldsJob slot w (if p then a else b) := by
  split
  · exact ha
  · exact hb

theorem HoldsJob.updColl (h : HoldsJob slot w m) (c : Coll) (f : Coll → Coll) : HoldsJob slot w (updColl m c f) := h.of_jobs rfl

theorem HoldsJob.updFab (h : HoldsJob slot w m) (d : Nat) (f : Fab → Fab) : HoldsJob slot w (updFab m d f) := h.of_jobs rfl

theorem HoldsJob.updBank (h : HoldsJob slot w m) (d b : Nat) (f : Bank → Bank) : HoldsJob slot w (updBank m d b f) := h.of_jobs rfl

theorem HoldsJob.updGroup (h : HoldsJob slot w m) (s g : Nat) (f : Group → Group) : HoldsJob slot w (updGroup m s g f) := h.of_jobs rfl

theorem HoldsJob.updLink (h : HoldsJob slot w m) (l : Nat) (f : Link → Link) : HoldsJob slot w (updLink m l f) := h.of_jobs rfl

theorem HoldsJob.updSecure (h : HoldsJob slot w m) (s : Nat) (f : Secure → Secure) : HoldsJob slot w (updSecure m s f) :=
  h.updJob _ _ (fun _ => rfl)

theorem HoldsJob.updMem (h : HoldsJob slot w m) (f : Mem → Mem) : HoldsJob slot w (updMem m f) := h.of_jobs rfl

/-! ### Links and memory -/

theorem HoldsJob.sendUnit (h : HoldsJob slot w m) (l v bytes : Nat) (o : Out) : HoldsJob slot w (sendUnit m l v bytes o) := by
  obtain ⟨links, out, hframe⟩ := sendUnit_frame m l v bytes o
  exact h.of_jobs (by rw [hframe])

theorem HoldsJob.sendChunk (h : HoldsJob slot w m) (l : Nat) (c : Chunk) : HoldsJob slot w (sendChunk m l c) := h.sendUnit ..

theorem HoldsJob.sendDown (h : HoldsJob slot w m) (x : TreeLinks) (c : Chunk) : HoldsJob slot w (sendDown m x c) :=
  h.foldl (fun _ _ ht => ht.sendChunk ..) _

theorem HoldsJob.sendStriped (h : HoldsJob slot w m) (links : Nat) (ps : List Packet) : HoldsJob slot w (sendStriped links ps m) := by
  rw [Machine.sendStriped]
  simp only
  split
  · exact h
  · exact h.foldl (fun _ _ ht => ht.sendUnit ..) _

theorem HoldsJob.sendControl (h : HoldsJob slot w m) (dest : Nat) (payload : List Byte) : HoldsJob slot w (sendControl m dest payload) := by
  rw [Machine.sendControl, sendRouted]
  split
  · exact h.sendUnit ..
  · exact h.of_jobs rfl

theorem barredFault_jobs (m : Dev) (unit cause addr : Nat) : (barredFault m unit cause addr).jobs = m.jobs := by
  rw [barredFault]
  split
  · rw [bankFault]
    split <;> simp
  · simp [addressFault]

theorem admitAccess_jobs (m : Dev) (unit slot addr n cause : Nat) : (admitAccess m unit slot addr n cause).2.jobs = m.jobs := by
  rw [admitAccess]
  split
  · exact barredFault_jobs ..
  · rfl

theorem poisonFound_jobs (m : Dev) (requester addr : Nat) : (poisonFound m requester addr).jobs = m.jobs := by
  simp [poisonFound, riskHit]

theorem HoldsJob.freeFinds (h : HoldsJob slot w m) (ps : List (Nat × Nat)) : HoldsJob slot w (freeFinds m ps) := by
  rw [Machine.freeFinds]
  split
  · exact h
  · simp only
    rw [readsFind]
    have hdraw : HoldsJob slot w (drawFree m 12).2 := h.of_jobs rfl
    split
    · exact hdraw
    · exact hdraw.foldl (fun _ _ ht => ht.foldl (fun _ _ hu => hu.of_jobs (poisonFound_jobs ..)) _) _

theorem HoldsJob.touchJob (h : HoldsJob slot w m) (s a n : Nat) : HoldsJob slot w (touchJob s m a n) := by
  rw [Machine.touchJob]
  split
  · exact h
  · refine (h.freeFinds _).foldl (fun t p ht => ?_) _
    split
    · exact ht
    · simp only
      split
      · refine (ht.updJob _ _ ?_).updFab _ _
        exact fun _ => rfl
      · exact ht.updFab _ _

theorem HoldsJob.touchPages (h : HoldsJob slot w m) (a n : Nat) : HoldsJob slot w (touchPages m a n) := by
  rw [Machine.touchPages]
  split
  · exact h.foldl (fun _ _ ht => ht.touchJob ..) _
  · exact h

theorem HoldsJob.unitWrite (h : HoldsJob slot w m) (unit s addr : Nat) (l : List Byte) (poisoned : Bool) :
    HoldsJob slot w (unitWrite m unit s addr l poisoned) := by
  refine h.foldl (fun t p ht => ?_) _
  have hadmit := ht.of_jobs (admitAccess_jobs t unit s p.1 p.2 1)
  generalize admitAccess t unit s p.1 p.2 1 = r at hadmit
  obtain ⟨b, u⟩ := r
  cases b
  · exact hadmit
  · exact (hadmit.touchPages p.1 p.2).of_jobs rfl

theorem HoldsJob.ownWrite (h : HoldsJob slot w m) (a : Nat) (l : List Byte) : HoldsJob slot w (ownWrite m a l) := by
  rw [Machine.ownWrite]
  split
  · exact h
  · exact (h.touchPages a l.length).of_jobs rfl

theorem HoldsJob.piecesWrite (poisoned : Bool) (ps : List (Nat × Nat)) : ∀ {m : Dev} (l : List Byte), HoldsJob slot w m →
    HoldsJob slot w (piecesWrite m l poisoned ps) := by
  induction ps with
  | nil => exact fun _ h => h
  | cons p ps ih =>
    intro m l h
    rw [Machine.piecesWrite]
    refine ih _ ?_
    split
    · exact (h.ownWrite ..).of_jobs rfl
    · exact h.ownWrite ..

/-! ### The end of a collective -/

theorem HoldsJob.collCount (h : HoldsJob slot w m) (c : Coll) (i : Nat) : HoldsJob slot w (collCount m c i) :=
  HoldsJob.updJob (h.of_jobs rfl) _ _ (fun _ => rfl)

theorem HoldsJob.collRecord (h : HoldsJob slot w m) (c : Coll) (d : CollDie) (status : Nat) : HoldsJob slot w (collRecord m c d status) := by
  rw [Machine.collRecord]
  split
  · exact h
  · exact (h.unitWrite ..).unitWrite ..

theorem HoldsJob.returnStaging (h : HoldsJob slot w m) (d : CollDie) : HoldsJob slot w (returnStaging m d) := by
  rw [Machine.returnStaging]
  exact h.foldl (fun _ _ ht => ht.updBank _ _ _) _

theorem HoldsJob.releaseNamed (h : HoldsJob slot w m) (c : Coll) : HoldsJob slot w (releaseNamed c m) := by
  refine h.foldl (fun t d ht => ht.foldl (fun u b hu => ?_) _) _
  split
  · exact hu
  · exact hu.updBank _ _ _

theorem HoldsJob.stageRecordDone (h : HoldsJob slot w m) (js : Nat) (words : List Nat) : HoldsJob slot w (stageRecordDone js words m) := by
  rw [Machine.stageRecordDone]
  split
  · exact h
  · split
    · simp only
      split
      · exact h.updJob _ _ (fun _ => rfl)
      · split
        · exact h.updJob _ _ (fun _ => rfl)
        · exact h
    · exact h

theorem HoldsJob.secureRecordDone (h : HoldsJob slot w m) (js : Nat) (words : List Nat) : HoldsJob slot w (secureRecordDone js words m) := by
  rw [Machine.secureRecordDone]
  split
  · exact h
  · split
    · exact h.updJob _ _ (fun _ => rfl)
    · exact h

theorem HoldsJob.engineEnd (h : HoldsJob slot w m) (c : Coll) (status : Nat) : HoldsJob slot w (engineEnd c status m) := by
  rw [Machine.engineEnd]
  split
  · split
    · exact h.stageRecordDone ..
    · exact h.secureRecordDone ..
    · exact h
  · exact h

/-- One count of a status, when it is met. -/
theorem HoldsJob.collCount_if (h : HoldsJob slot w m) (p : Prop) [Decidable p] (c : Coll) (i : Nat) :
    HoldsJob slot w (if p then Machine.collCount m c i else m) := .ite (h.collCount ..) h

theorem HoldsJob.collEnd (h : HoldsJob slot w m) (c : Coll) (status : Nat) : HoldsJob slot w (collEnd c status m) := by
  rw [Machine.collEnd]
  split
  · exact h
  · simp only
    generalize hx : Machine.engineEnd _ _ _ = x
    have hend : HoldsJob slot w x := by
      rw [← hx]
      refine ((((HoldsJob.releaseNamed (HoldsJob.of_jobs ?_ rfl) _).collCount_if _ _ _).collCount_if _ _ _).collCount_if _ _ _).collCount_if _ _ _
        |>.engineEnd _ _
      exact h.foldl (fun t d ht => ((ht.collRecord _ d _).returnStaging d).updFab _ _) _
    split
    · split
      · exact hend.updJob _ _ (fun _ => rfl)
      · exact hend
    · exact hend

end Sys2Proof.Machine
end

section
/-! PROOFS of the family 02_strokes_states_phases: the run of a collective, and a link that goes down, leave the stroke of a module's one job,
its stretches and its failed positions. -/

namespace Sys2Proof.Machine

variable {slot : Nat} {w : Nat × Nat × List Nat} {m t : Dev}

/-! ### The data phase of a collective -/

theorem HoldsJob.hotDelay (h : HoldsJob slot w m) (a : Nat) : HoldsJob slot w (hotDelay m a).2 := by
  rw [Machine.hotDelay]
  split
  · split
    · exact h.of_jobs rfl
    · exact h
  · exact h

/-- The accesses of a collective's dies to stacks that may throttle. -/
theorem HoldsJob.hotDies (h : HoldsJob slot w m) (b : Bool) (l : List CollDie) : HoldsJob slot w (l.foldl (fun (r : Bool × Dev) d =>
    let x := if srcAddr d = 0 then (false, r.2) else Machine.hotDelay r.2 (srcAddr d)
    (r.1 || x.1, x.2)) (b, m)).2 := by
  refine h.foldl_snd (fun x d hx => ?_) b l
  simp only
  split
  · exact hx
  · exact hx.hotDelay _

theorem HoldsJob.collActive (h : HoldsJob slot w m) (s die n : Nat) : HoldsJob slot w (collActive m s die n) := h.updFab _ _

theorem HoldsJob.writeDie (h : HoldsJob slot w m) (c : Coll) (die first : Nat) (x : Contrib) (nonfinite : Bool) :
    HoldsJob slot w (writeDie c die first x nonfinite m) := by
  rw [Machine.writeDie]
  split
  · exact h
  · simp only
    generalize (if c.op = 7 then pieceOf m c else (0, c.bytes)) = p
    split
    · exact h
    · split
      · refine HoldsJob.updColl ?_ _ _
        split
        · exact (HoldsJob.piecesWrite _ _ _ h).updJob _ _ (fun _ => rfl)
        · exact HoldsJob.piecesWrite _ _ _ h
      · split
        · exact h
        · refine HoldsJob.updColl ?_ _ _
          exact ((h.hotDelay _).unitWrite _ _ _ _ _).foldl (fun _ _ ht => ht.updMem _) _

theorem HoldsJob.writeDies (h : HoldsJob slot w m) (c : Coll) (first : Nat) (x : Contrib) (nonfinite : Bool) (dies : List Nat) :
    HoldsJob slot w (dies.foldl (fun m d => Machine.writeDie c d first x nonfinite m) m) :=
  h.foldl (fun _ _ ht => ht.writeDie _ _ _ _ _) _

theorem HoldsJob.broadcastChunk (h : HoldsJob slot w m) (c : Coll) (p : CollPhase) (ph i flags : Nat) (x : Contrib) :
    HoldsJob slot w (broadcastChunk c p ph i flags x m) := by
  rw [Machine.broadcastChunk]
  simp only
  refine HoldsJob.updColl (HoldsJob.writeDies ?_ _ _ _ _ _) _ _
  split
  · exact h.sendDown _ _
  · exact (h.sendDown _ _).collActive _ _ _

theorem HoldsJob.reduceChunk (h : HoldsJob slot w m) (c : Coll) (p : CollPhase) (ph i base : Nat) (after : Option CollPhase) :
    HoldsJob slot w (reduceChunk c p ph i base after m) := by
  rw [Machine.reduceChunk]
  simp only
  have hhot := h.hotDies false c.dies
  generalize List.foldl _ (false, m) c.dies = hot at hhot
  split
  · exact (hhot.updColl _ _).updColl _ _
  · split
    · exact (((((hhot.updColl _ _).updColl _ _).collActive _ _ _).sendChunk _ _).collActive _ _ _).updColl _ _
    · split
      · exact ((((hhot.updColl _ _).updColl _ _).collActive _ _ _).updColl _ _).broadcastChunk _ _ _ _ _ _
      · exact ((((hhot.updColl _ _).updColl _ _).collActive _ _ _).writeDie _ _ _ _ _).updColl _ _

theorem HoldsJob.phaseStep (h : HoldsJob slot w m) {c : Coll} {ps : List CollPhase} {ph : Nat} {p : CollPhase}
    (ht : phaseStep c ps ph p m = some t) : HoldsJob slot w t := by
  rw [Machine.phaseStep] at ht
  simp only at ht
  split at ht
  · cases ht
  · split at ht
    · split at ht
      · cases ht
        exact h.reduceChunk ..
      · cases ht
    · split at ht
      · split at ht
        · cases ht
        · cases ht
          exact ((h.updColl _ _).updColl _ _).broadcastChunk ..
      · split at ht
        · cases ht
        · split at ht
          · cases ht
          · cases ht
            exact ((h.hotDelay _).updColl _ _).broadcastChunk ..

theorem HoldsJob.collStep (h : HoldsJob slot w m) {c : Coll} {ps : List CollPhase} (ht : collStep c ps m = some t) : HoldsJob slot w t := by
  obtain ⟨x, _, hx⟩ := List.exists_of_findSome?_eq_some ht
  exact h.phaseStep hx

theorem HoldsJob.sendFinish (h : HoldsJob slot w m) (c : Coll) : HoldsJob slot w (sendFinish c m) := by
  refine h.foldl (fun t l ht => ?_) _
  split
  · exact ht.sendChunk ..
  · exact ht.of_jobs rfl

theorem HoldsJob.tryEnd (h : HoldsJob slot w m) (c : Coll) : HoldsJob slot w (tryEnd c m) := by
  rw [Machine.tryEnd]
  split
  · exact h
  · simp only
    split
    · split
      · exact (h.sendChunk _ _).updColl _ _
      · exact (h.sendFinish _).collEnd _ _
    · exact h

theorem HoldsJob.collRun (c : Coll) : ∀ (n : Nat) {m : Dev}, HoldsJob slot w m → HoldsJob slot w (collRun c n m)
  | 0, _, h => h.tryEnd c
  | n + 1, m, h => by
    rw [Machine.collRun]
    split
    · exact h
    · split
      · split
        next hstep => exact HoldsJob.collRun c n (h.collStep hstep)
        next => exact h.tryEnd c
      · exact h

theorem HoldsJob.localRun (h : HoldsJob slot w m) (c : Coll) (g : Group) : HoldsJob slot w (localRun c g m) := by
  rw [Machine.localRun]
  simp only
  refine HoldsJob.collEnd ?_ _ _
  have hhot := h.hotDies false c.dies
  generalize List.foldl _ (false, m) c.dies = hot at hhot
  have hcoll := fun f => hhot.updColl c f
  split
  · split
    · exact (hcoll _).writeDies _ _ _ _ _
    · exact hcoll _
  · split
    · exact (hcoll _).writeDies _ _ _ _ _
    · exact hcoll _
  · refine (hcoll _).foldl (fun t x ht => ?_) _
    split
    · exact ht.writeDies _ _ _ _ _
    · exact ht
  · split
    · exact (hcoll _).foldl (fun _ _ ht => ht.writeDie _ _ _ _ _) _
    · exact hcoll _
  · split
    · exact (hcoll _).writeDies _ _ _ _ _
    · exact hcoll _
  · split
    · exact (hcoll _).writeDies _ _ _ _ _
    · exact hcoll _
  · split
    · exact (hcoll _).writeDie _ _ _ _ _
    · exact hcoll _

theorem HoldsJob.collAdvance (h : HoldsJob slot w m) (c : Coll) : HoldsJob slot w (collAdvance c m) := by
  rw [Machine.collAdvance]
  split
  · exact h
  · split
    · exact h
    · split
      · exact .ite (h.localRun _ _) h
      · exact HoldsJob.collRun _ _ h

/-! ### The header pass -/

theorem HoldsJob.takeGo (h : HoldsJob slot w m) (c : Coll) (mismatch : Bool) : HoldsJob slot w (takeGo c mismatch m) := by
  rw [Machine.takeGo]
  split
  · exact (h.sendDown _ _).collEnd _ _
  · exact ((h.sendDown _ _).updColl _ _).collAdvance _

theorem HoldsJob.tryHeader (h : HoldsJob slot w m) (c : Coll) : HoldsJob slot w (tryHeader c m) := by
  rw [Machine.tryHeader]
  split
  · exact h
  · refine .ite ?_ h
    split
    · exact (h.updColl _ _).sendChunk _ _
    · exact (h.updColl _ _).takeGo _ _

theorem HoldsJob.raiseJob (h : HoldsJob slot w m) (s etype status : Nat) (payload : List Byte) :
    HoldsJob slot w (raiseJob m s etype status payload) := h.of_jobs (raiseJob_jobs ..)

theorem HoldsJob.takeHeader (h : HoldsJob slot w m) (c : Coll) (link digest src : Nat) (mismatch : Bool) :
    HoldsJob slot w (takeHeader c link digest src mismatch m) := by
  rw [Machine.takeHeader]
  exact .ite ((h.updColl _ _).raiseJob _ _ _ _) (h.updColl _ _)

theorem HoldsJob.takeEarly (h : HoldsJob slot w m) (c : Coll) : HoldsJob slot w (takeEarly c m) := by
  rw [Machine.takeEarly]
  split
  · refine (h.updGroup _ _ _).foldl (fun t l ht => ?_) _
    split
    · split
      · split
        · exact ht
        · exact (ht.updGroup _ _ _).takeHeader _ _ _ _ _
      · exact ht
    · exact ht
  · exact h

theorem HoldsJob.startHeader (h : HoldsJob slot w m) (c : Coll) : HoldsJob slot w (startHeader c m) := (h.takeEarly c).tryHeader c

theorem HoldsJob.collRestart (h : HoldsJob slot w m) (c : Coll) (n : Nat) : HoldsJob slot w (collRestart c n m) := by
  rw [Machine.collRestart]
  have hfabs : ∀ {x : Dev} (l : List CollDie), HoldsJob slot w x →
      HoldsJob slot w (l.foldl (fun m d => Machine.updFab m d.die (fun f => { f with restarts := sat 4 (f.restarts + 1) })) x) :=
    fun l hx => hx.foldl (fun _ _ ht => ht.updFab _ _) l
  split
  · exact (hfabs _ ((h.updColl _ _).collCount _ _)).startHeader _
  · exact hfabs _ ((h.updColl _ _).collCount _ _)

/-! ### Collectives that the module's engines post -/

theorem HoldsJob.postEngine (h : HoldsJob slot w m) (c : Coll) : HoldsJob slot w (postEngine c m) := by
  rw [Machine.postEngine]
  split
  · exact h
  · simp only
    refine HoldsJob.startHeader (HoldsJob.collCount (HoldsJob.of_jobs ?_ rfl) _ _) _
    exact (h.updGroup _ _ _).foldl (fun _ _ ht => ht.updFab _ _) _

theorem HoldsJob.postWaiting : ∀ (n : Nat) {m : Dev}, HoldsJob slot w m → HoldsJob slot w (postWaiting n m)
  | 0, _, h => h
  | n + 1, m, h => by
    rw [Machine.postWaiting]
    split
    · exact h
    next c _ =>
      exact HoldsJob.postWaiting n (HoldsJob.postEngine (m := { m with posts := m.posts.erase c }) (h.of_jobs rfl) c)

theorem HoldsJob.postRecord (h : HoldsJob slot w m) (s group : Nat) (poster : Poster) (epoch : Nat) (words : List Nat) :
    HoldsJob slot w (postRecord s group poster epoch words m) := by
  rw [Machine.postRecord]
  split
  · exact HoldsJob.postWaiting _ (h.of_jobs rfl)
  · exact h.of_jobs rfl
  · exact h

theorem HoldsJob.postSecure (h : HoldsJob slot w m) (js cause : Nat) : HoldsJob slot w (postSecure js cause m) := by
  rw [Machine.postSecure]
  split
  · exact h
  · simp only
    split
    · exact (h.updSecure _ _).postRecord _ _ _ _ _
    · exact h.updSecure _ _

/-! ### Links that go down -/

theorem HoldsJob.collLinkDown (h : HoldsJob slot w m) (l : Nat) : HoldsJob slot w (collLinkDown l m) := by
  refine h.foldl (fun t c ht => ?_) _
  split
  · exact ht
  · simp only
    refine HoldsJob.collRestart (HoldsJob.raiseJob (HoldsJob.updColl ?_ _ _) _ _ _ _) _ _
    exact ht.foldl (fun _ _ hu => hu.sendChunk _ _) _

theorem HoldsJob.secureResend (h : HoldsJob slot w m) (q : List Out) : HoldsJob slot w (secureResend q m) := by
  refine h.foldl (fun t u ht => ?_) _
  split
  · split
    · split
      · exact ht.sendStriped _ _
      · exact ht
    · exact ht
  · exact ht

theorem HoldsJob.secureLinkDown (h : HoldsJob slot w m) : HoldsJob slot w (secureLinkDown m) := by
  refine h.foldl (fun t p ht => ?_) _
  split
  · split
    · exact ht.postSecure _ _
    · exact ht
  · exact ht

theorem HoldsJob.linkDown (h : HoldsJob slot w m) (l : Nat) : HoldsJob slot w (linkDown l m) := by
  rw [Machine.linkDown]
  have hstate : ∀ st, HoldsJob slot w (setLinkState l st (Machine.updLink m l linkDropped)) := fun st => h.of_jobs (setLinkState_jobs ..)
  split
  · exact (((hstate _).collLinkDown l).secureResend _).secureLinkDown
  · exact hstate _

/-! ### Fences and declarations (R590, R597) -/

theorem HoldsJob.applySets (h : HoldsJob slot w m) (js kind subject spare : Nat) : HoldsJob slot w (applySets js kind subject spare m) := by
  rw [Machine.applySets]
  split
  · exact h
  · refine h.foldl (fun t s ht => ?_) _
    exact ht.of_jobs rfl

theorem HoldsJob.fence (h : HoldsJob slot w m) (js pos : Nat) : HoldsJob slot w (fence js pos m) := by
  refine (h.applySets js 0 pos 0).foldl (fun t l ht => ?_) _
  exact .ite ((ht.updLink _ _).linkDown l) ht

theorem HoldsJob.sendNotices (h : HoldsJob slot w m) (js : Nat) : HoldsJob slot w (sendNotices js m) := by
  rw [Machine.sendNotices]
  split
  · exact h
  · simp only
    refine HoldsJob.updJob ?_ _ _ (fun _ => rfl)
    exact h.foldl (fun _ _ ht => ht.foldl (fun _ _ hu => hu.sendControl _ _) _) _

/-- R586, R597: a declared position stands among the failed; the stroke goes on. -/
theorem declareFailed_holds {js p cause : Nat} {m : Dev} {j : Job} (hj : m.jobs = [(js, j)]) (hp : p ∉ unfilled j.recov)
    (hphase : j.phase ≠ .recovering) :
    HoldsJob js (j.stroke, j.stretches, j.recov.failed.filter (fun q => decide (q ≠ p)) ++ [p]) (declareFailed js p cause m) := by
  rw [declareFailed, jobAt_only hj]
  simp only
  rw [if_neg hp, if_neg hphase, updRecov, updJob_only hj]
  refine HoldsJob.sendNotices (HoldsJob.fence (HoldsJob.raiseJob ?_ _ _ _ _) _ _) _
  exact ⟨_, rfl, rfl⟩

end Sys2Proof.Machine
end

section
/-! PROOFS of the family 02_strokes_states_phases: the stretches of the origin (R71, R72), and the obligation on votes and stretches. -/

namespace Sys2Proof.Machine

section
variable {m : Dev} {slot lowest voters : Nat} {launches : List Launch} {j : Job} {e : TreeEntry}

theorem originPeriodEnd_stretch (hj : m.jobs = [(slot, j)]) (hf : forwarding m = true) (ho : j.isOrigin = true)
    (hn : j.recov.noticeSent = false) (hs : j.started = true) (hc : j.combined = some (true, lowest, voters)) :
    originPeriodEnd slot launches m = originStretch slot lowest voters m := by
  rw [originPeriodEnd, jobAt_only hj]
  simp only [ho, hf, hn, hs, hc, Bool.not_true, Bool.false_eq_true, or_self, if_false]

theorem originStretch_below (hj : m.jobs = [(slot, j)]) (htree : treeOf m e.tree = some e) (hjt : j.tree = some e.tree)
    (hlimit : j.stretches < j.stretchLimit) {t : Dev} {sent : List (Nat × Flit)}
    (ht : forwardDown e (.stretch e.tree (j.stretches + 1) j.stroke) m = t) (hsent : FlitsSent m t sent) :
    originStretch slot lowest voters m = { dropVotes e.tree t with jobs := [(slot, stretchedAnew j (j.stretches + 1) lowest voters)] } := by
  have horig : originTree m j = some e := by simp [originTree, hjt, htree]
  have hdrop : (dropVotes e.tree t).jobs = [(slot, j)] := by rw [hsent.frame]; exact hj
  rw [originStretch, jobAt_only hj]
  simp only
  rw [if_neg (by omega), horig]
  simp only
  rw [← forwardDown, ht, updJob_only hdrop]
  rfl

/-- R72: at the limit the coordinator declares the position that the votes name. -/
theorem originStretch_limit {p : Nat} (hj : m.jobs = [(slot, j)]) (hlimit : j.stretchLimit ≤ j.stretches) (hc : isCoord j = true)
    (hp : namedVoters m j = [p]) : originStretch slot lowest voters m = declareFailed slot p 2 m := by
  rw [originStretch, jobAt_only hj]
  simp only
  rw [if_pos hlimit, if_pos hc, hp, List.foldl_cons, List.foldl_nil]

theorem originStretch_none (hj : m.jobs = [(slot, j)]) (hlimit : j.stretchLimit ≤ j.stretches)
    (h : isCoord j = false ∨ namedVoters m j = []) : originStretch slot lowest voters m = m := by
  rw [originStretch, jobAt_only hj]
  simp only
  rw [if_pos hlimit]
  rcases h with h | h
  · rw [if_neg (by simp [h])]
  · rw [h, List.foldl_nil, ite_self]

end

/-- Settles O52: a vote is `tryVote` with the votes that are in, a timeout adds a report (`childTimeout_reports`), a stretch is one flit down
the tree, and at the limit `declareFailed_holds`. -/
theorem votesAndStretches : Obligations.VotesAndStretches := by
  intro s slot j e hf hj hslot hstarted htree htakes c above below mine still sends dropped kids voted
  -- the vote of a member whose votes and job stand as given
  have hvote : ∀ (i : Instr) (y : Job) (votes : Tab (Nat × Bool × Nat × Nat)), y.isOrigin = false → y.tree = some e.tree → y.voted = true →
      y.voteSent = false → y.stroke = j.stroke → y.self = j.self →
      exec i s = .next { s with m := tryVote slot { s.m with jobs := [(slot, y)], net := { s.m.net with votes := votes } } } →
      (∀ k, kids votes c = some k → voted i y (joinVotes k (mine y.ownStretch)) votes) ∧ (kids votes c = none → still i y votes) := by
    intro i y votes ho hjt hv hvs hstroke hself hexec
    have hjtree : jobTree { s.m with jobs := [(slot, y)], net := { s.m.net with votes := votes } } y = some e := jobTree_member ho hjt htree
    refine ⟨fun k hk => ?_, fun hk => ?_⟩
    · have hk' : childVotes { s.m with jobs := [(slot, y)], net := { s.m.net with votes := votes } } e (y.stroke % 65536) = some k := by
        rw [hstroke]
        exact hk
      rw [tryVote_sends rfl hjtree ho hv hvs hk'] at hexec
      have hmod : y.stroke % 65536 = c := by rw [hstroke]
      have hmine : (y.ownStretch, if y.ownStretch then y.self else 65535, b2n y.ownStretch) = mine y.ownStretch := by rw [hself]
      rw [hmine, hmod] at hexec
      exact sends_of_sent hexec (sendFlit_up _ rfl htakes)
    · rw [tryVote_waits rfl hjtree (by rw [hstroke]; exact hk)] at hexec
      exact hexec
  refine ⟨?_, ?_, ?_⟩
  · intro ho hjt hmem hid hvs
    have hby : jobById s.m e.jobId = some (slot, j) := by simp [jobById, hj, hid]
    have hjtree : jobTree s.m j = some e := jobTree_member ho hjt htree
    refine ⟨?_, ?_, ?_⟩
    · rintro hv v rfl y
      have hexec : exec (.voteDeadline slot) s = .next { s with m := voteDeadline slot s.m } :=
        onDev_next (c := .voteDeadline slot) _ s (by simp [Instr.wf, boundsWf, hslot])
      rw [voteDeadline_votes hf hj hstarted hv] at hexec
      exact hvote _ y s.m.net.votes ho hjt rfl hvs rfl rfl hexec
    · intro link count vote lowest voters hwf hup hd hc votes y fresh
      have hexec : exec (.voteFlit link e.tree count vote lowest voters) s
          = .next { s with m := voteFlit link e.tree count vote lowest voters s.m } :=
        onDev_next (c := .voteFlit link e.tree count vote lowest voters) _ s hwf
      have harr := arrives_of hf hup
      have hvotes : voteIn s.m e link count vote lowest voters = votes := by rw [voteIn, hc]
      have hfresh : fresh → (tfind s.m.net.votes (e.tree * 32 + link)).map (·.1) ≠ some (count % 65536) := by
        intro h heq
        obtain ⟨x, hx, hx1⟩ := Option.map_eq_some_iff.mp heq
        exact h x hx (hx1.trans hc)
      have hrun : fresh → exec (.voteFlit link e.tree count vote lowest voters) s
          = .next { s with m := tryVote slot { s.m with jobs := [(slot, y)], net := { s.m.net with votes := votes } } } := by
        intro h
        rw [hexec, voteFlit_fresh harr htree hd hmem hby hjtree hstarted hc hj (hfresh h), hvotes]
      refine ⟨fun h hor => ?_, fun h hv => ?_, fun h => ?_⟩
      · cases hv : j.voted with
        | false =>
          have h' := hrun h
          rw [tryVote_early rfl (by exact hv)] at h'
          exact h'
        | true => exact (hvote _ y votes ho hjt hv hvs rfl rfl (hrun h)).2 (hor.resolve_left (by simp [hv]))
      · exact (hvote _ y votes ho hjt hv hvs rfl rfl (hrun h)).1
      · simp only [fresh, not_forall, not_not] at h
        obtain ⟨x, hx, hx1⟩ := h
        rw [hexec, voteFlit_stale harr htree hd hmem hby (by rw [hx, Option.map_some, hx1, hc])]
    · rintro link d n o hlink hv hd rfl hfresh hcoord hself hroute child votes
      have hexec : exec (.childVoteTimeout slot link) s = .next { s with m := childTimeout slot link s.m } :=
        onDev_next (c := .childVoteTimeout slot link) _ s (by simp [Instr.wf, boundsWf, hslot, hlink])
      have hfresh' : (tfind s.m.net.votes (e.tree * 32 + link)).map (·.1) ≠ some (j.stroke % 65536) := by
        intro heq
        obtain ⟨x, hx, hx1⟩ := Option.map_eq_some_iff.mp heq
        exact hfresh x hx hx1
      obtain ⟨t, ht, hway, hframe, hlast, hmissing⟩ := childTimeout_reports (votes := votes) hj htree ho hjt hv hvs hd hfresh' hcoord hself
        hroute rfl rfl
      rw [ht] at hexec
      exact ⟨_, _, hexec, rfl, hway, by rw [← hframe], hlast, hmissing⟩
  · intro hmem link count vote lowest voters hwf hup hd votes
    have hexec : exec (.voteFlit link e.tree count vote lowest voters) s
        = .next { s with m := voteFlit link e.tree count vote lowest voters s.m } :=
      onDev_next (c := .voteFlit link e.tree count vote lowest voters) _ s hwf
    obtain ⟨put, hput⟩ : ∃ put : Dev, put = { s.m with jobs := [(slot, j)], net := { s.m.net with votes := votes } } := ⟨_, rfl⟩
    obtain ⟨hnone, hsome⟩ := voteFlit_other (vote := vote) (lowest := lowest) (voters := voters) (count := count) (put := put)
      (arrives_of hf hup) htree hd hmem (by rw [hput, ← hj]; rfl)
    have hkids : kids votes (count % 65536) = childVotes put e (count % 65536) := by rw [hput]; rfl
    refine ⟨fun v hv => ?_, fun hv => ?_⟩
    · have hsent := sendFlit_up (t := put) (e := e) (.vote e.tree (count % 65536) v.1 v.2.1 v.2.2) (by rw [hput]) htakes
      rw [hsome v (hkids.symm.trans hv), dropVotes_sent e.tree hsent] at hexec
      rw [show put.jobs = [(slot, j)] by rw [hput], show put.net.votes = votes by rw [hput]] at hexec
      have hsent' : FlitsSent { s.m with jobs := [(slot, j)], net := { s.m.net with votes := votes } }
          (sendFlit put e.up (.vote e.tree (count % 65536) v.1 v.2.1 v.2.2))
          (above.map (fun l => (l, .vote e.tree (count % 65536) v.1 v.2.1 v.2.2))) := by
        rw [← hput]
        exact hsent
      exact sends_of hexec hsent'
    · rw [hnone (hkids.symm.trans hv), hput] at hexec
      exact hexec
  · intro hjt anew
    refine ⟨?_, ?_⟩
    · intro link n hwf hup ho hmem hid stretched
      have hexec : exec (.stretchFlit link e.tree n j.stroke) s = .next { s with m := stretchFlit link e.tree n j.stroke s.m } :=
        onDev_next (c := .stretchFlit link e.tree n j.stroke) _ s hwf
      have hsent := forwardDown_sent e (.stretch e.tree n j.stroke) htakes
      obtain ⟨lowest, voters, hrun, hown, hother⟩ := stretchFlit_member (arrives_of hf hup) htree hj rfl hsent
        (takesFrom_only hj hmem hid ho (.inr hjt)) hstarted hjt
      rw [hrun] at hexec
      have hstretched : stretched lowest voters :=
        sends_of (jobs := s.m.jobs) (votes := s.m.net.votes) (by rw [hexec, dropVotes_sent e.tree hsent]; rfl) hsent
      refine ⟨fun l v hc => ?_, fun hc => ?_⟩
      · obtain ⟨rfl, rfl⟩ := hown l v hc
        exact hstretched
      · obtain ⟨rfl, rfl⟩ := hother hc
        exact hstretched
    · intro launches lowest voters hwf ho hn hc
      have hexec := exec_originPeriodEnd (s := s) hwf
      rw [originPeriodEnd_stretch hj hf ho hn hstarted hc] at hexec
      refine ⟨fun hlimit => ?_, fun p hlimit hcoord hp hfilled hphase => ?_, fun hlimit h => ?_⟩
      · have hsent := forwardDown_sent e (.stretch e.tree (j.stretches + 1) j.stroke) htakes
        rw [originStretch_below hj htree hjt hlimit rfl hsent] at hexec
        exact sends_of (jobs := s.m.jobs) (votes := s.m.net.votes) (by rw [hexec, dropVotes_sent e.tree hsent]; rfl) hsent
      · rw [originStretch_limit hj hlimit hcoord hp] at hexec
        obtain ⟨y, hy, hview⟩ := declareFailed_holds (cause := 2) hj hfilled hphase
        obtain ⟨hstroke, hstretches, hfailed⟩ : y.stroke = j.stroke ∧ y.stretches = j.stretches
            ∧ y.recov.failed = j.recov.failed.filter (fun q => decide (q ≠ p)) ++ [p] := by
          simpa [strokeView] using hview
        exact ⟨_, y, hexec, hy, by simp [hfailed], hstroke, hstretches⟩
      · rw [originStretch_none hj hlimit h] at hexec
        exact hexec

end Sys2Proof.Machine
end

section
/-! PROOFS of the family 03_control_path: accesses with a remote key (R659), and data that lies within one item of its window. -/

namespace Sys2Proof.Machine

/-! ### Remote keys (R659) -/

theorem liveQp_of {m : Dev} {qp : Nat} {q : Qp} (hq : tfind m.port.qps qp = some q) (he : q.error = false) : liveQp m qp = some q := by
  simp [liveQp, hq, he]

theorem keyed_right {m : Dev} {qp : Nat} {q : Qp} (hq : tfind m.port.qps qp = some q) (he : q.error = false) (right : Part → Nat)
    (f : Nat → Dev → Dev) : keyed m qp (right (partAt m q.part)) right f = f q.part m := by
  simp [keyed, liveQp_of hq he]

/-- R659: a wrong key is answered by a NAK, and its queue pair enters the error state with the event. -/
theorem keyed_wrong {m : Dev} {qp key : Nat} {q : Qp} {right : Part → Nat} (hq : tfind m.port.qps qp = some q) (he : q.error = false)
    (hkey : key ≠ right (partAt m q.part)) (f : Nat → Dev → Dev) :
    keyed m qp key right f = raisePart { m with
      out := m.out ++ [.rdmaNak qp], port := { m.port with qps := tput m.port.qps qp { q with error := true } } } q.part 0x0106 0
        (leBytes 4 qp ++ leBytes 1 1) := by
  have hlive : liveQp (send m (.rdmaNak qp)) qp = some q := liveQp_of hq he
  simp only [keyed, liveQp_of hq he, if_neg hkey, qpFails, hlive]
  simp only [updQp, updPort, tupd, send, hq]

/-- R659: a row that is an access with a wrong key ends the queue pair and reaches no window. -/
theorem exec_wrongKey {i : Instr} {s : State} {qp key : Nat} {q : Qp} {right : Part → Nat} {f : Nat → Dev → Dev}
    (hexec : exec i s = .next { s with m := keyed s.m qp key right f }) (hq : tfind s.m.port.qps qp = some q) (he : q.error = false)
    (hkey : key ≠ right (partAt s.m q.part)) :
    ∃ t, exec i s = .next t ∧ t.m.out = s.m.out ++ [.rdmaNak qp]
      ∧ t.m.port = { s.m.port with qps := tput s.m.port.qps qp { q with error := true } }
      ∧ t = { s with m := { s.m with port := t.m.port, out := t.m.out, ctl := { s.m.ctl with evq := t.m.ctl.evq } } } := by
  rw [keyed_wrong hq he hkey] at hexec
  exact ⟨_, hexec, rfl, rfl, rfl⟩

/-! ### Data within one item -/

/-- Data that ends within its item is one piece. -/
theorem pieces_one {unit off : Nat} {l : List Byte} (fuel idx : Nat) (hl : l ≠ []) (hfit : off + l.length ≤ unit) :
    pieces unit (fuel + 2) idx off l = [(idx, off, l)] := by
  obtain ⟨b, l, rfl⟩ := List.exists_cons_of_ne_nil hl
  have hdrop : (b :: l).drop (unit - off) = [] := List.drop_eq_nil_of_le (by omega)
  rw [pieces, hdrop, List.take_of_length_le (by omega), pieces]
  all_goals simp

end Sys2Proof.Machine
end

section
/-! PROOFS of the family 03_control_path: what a host write leaves in a mailbox (R97, R101, R102), and the obligations on OWNER and on
the host's accesses to the windows. -/

namespace Sys2Proof.Machine

/-! ### A write into one mailbox -/

section
variable {m : Dev} {qp mb off : Nat} {data : List Byte}

/-- R97: the partition's own key brings a write that ends within one of its mailboxes to that mailbox. -/
theorem hostCwWrite_one {q : Qp} (hq : tfind m.port.qps qp = some q) (he : q.error = false) (hmb : mb / 32 = q.part)
    (hne : data ≠ []) (hfit : off + data.length ≤ 4096) :
    hostCwWrite qp (partAt m q.part).cwKey (mb * 4096 + off) data m = mailboxWrite qp q.part m (mb, off, data) := by
  have hpos := List.length_pos_of_ne_nil hne
  have hrange : q.part * 131072 ≤ mb * 4096 + off ∧ mb * 4096 + off + data.length ≤ q.part * 131072 + 131072 := by omega
  have hidx : (mb * 4096 + off) / 4096 = mb := by omega
  have hin : (mb * 4096 + off) % 4096 = off := by omega
  rw [hostCwWrite, keyed_right hq he (·.cwKey), if_pos hrange, hidx, hin, pieces_one _ _ hne hfit, List.foldl_cons, List.foldl_nil]

/-- R102: a mailbox that reads DEVICE takes no write. -/
theorem mailboxWrite_owned (part : Nat) (h : mbOwned m mb = true) :
    mailboxWrite qp part m (mb, off, data) = mailboxViolation m qp part (mb * 4096 + off) 0 := if_pos h

/-- R101: beyond OWNER a write stores its bytes. -/
theorem mailboxWrite_beyond (part : Nat) (h : mbOwned m mb = false) (hoff : 4 ≤ off) :
    mailboxWrite qp part m (mb, off, data) = cwWrite m (mb * 4096 + off) data := by
  have hflip : flipsOwner off data = false := by simp [flipsOwner, hoff]
  simp [mailboxWrite, h, hflip, Nat.max_eq_left hoff, Nat.sub_eq_zero_of_le hoff]

/-- R101: the mailbox after a flip; the write that flips it stores nothing beyond OWNER. -/
def mailboxFlipped (mb : Nat) (m : Dev) : Dev :=
  updCtl (cwWrite (cwWrite m (mb * 4096 + 4) []) (mb * 4096) (leBytes 4 1)) (fun c => { c with flips := c.flips ++ [mb] })

/-- R101: a write that ends within OWNER flips the mailbox or stores nothing. -/
theorem mailboxWrite_owner (part : Nat) (h : mbOwned m mb = false) (hne : data ≠ []) (hfit : off + data.length ≤ 4) :
    mailboxWrite qp part m (mb, off, data) = if flipsOwner off data then mailboxFlipped mb m else cwWrite m (mb * 4096 + 4) [] := by
  have hpos := List.length_pos_of_ne_nil hne
  have hdrop : data.drop (4 - off) = [] := List.drop_eq_nil_of_le (by omega)
  have hmax : max off 4 = 4 := by omega
  simp only [mailboxWrite, h, hdrop, hmax, mailboxFlipped, Bool.false_eq_true, if_false]

theorem cwByte_cwWrite_nil (m : Dev) (o j : Nat) : cwByte (cwWrite m o []) j = cwByte m j :=
  cwByte_cwWrite_out m o [] j (by simp; omega)

theorem cwByte_mailboxFlipped (m : Dev) (mb j : Nat) :
    cwByte (mailboxFlipped mb m) j = cwByte (cwWrite (cwWrite m (mb * 4096 + 4) []) (mb * 4096) (leBytes 4 1)) j := rfl

theorem cwByte_mailboxFlipped_owner (m : Dev) (mb : Nat) {i : Nat} (h : i < (leBytes 4 1).length) :
    cwByte (mailboxFlipped mb m) (mb * 4096 + i) = (leBytes 4 1)[i] := by
  rw [cwByte_mailboxFlipped, cwByte_cwWrite_in _ _ _ i h]

theorem cwByte_mailboxFlipped_out (m : Dev) (mb j : Nat) (h : j < mb * 4096 ∨ mb * 4096 + 4 ≤ j) :
    cwByte (mailboxFlipped mb m) j = cwByte m j := by
  rw [cwByte_mailboxFlipped, cwByte_cwWrite_out _ _ _ j (by rw [length_leBytes]; exact h), cwByte_cwWrite_nil]

/-- R101: after a flip OWNER reads 1. -/
theorem mbField_mailboxFlipped (m : Dev) (mb : Nat) : mbField (mailboxFlipped mb m) mb 0 4 = 1 := by
  have hread : mbRead (mailboxFlipped mb m) mb 0 4 = leBytes 4 1 :=
    List.ext_getElem (by simp [mbRead]) fun i _ hi => by
      simpa [mbRead] using cwByte_mailboxFlipped_owner m mb hi
  rw [mbField, hread]
  rfl

theorem mbOwned_mailboxFlipped (m : Dev) (mb : Nat) : mbOwned (mailboxFlipped mb m) mb = true := by
  have hbyte := cwByte_mailboxFlipped_owner m mb (i := 0) (by decide)
  rw [Nat.add_zero] at hbyte
  rw [mbOwned, hbyte]
  rfl

/-- While OWNER reads 0, a write forms its value with zeros where it does not reach. -/
theorem ownerAfter_zero (off : Nat) (l : List Byte) : ownerAfter 0 off l =
    leNat ((List.range 4).map (fun i => if off ≤ i ∧ i < off + l.length then l.getD (i - off) 0 else 0)) := by
  have hold : ∀ i < 4, nth 0 (leBytes 4 0) i = 0 := by decide
  exact congrArg leNat (List.map_congr_left fun i hi => by rw [hold i (List.mem_range.mp hi), nth])

/-- R101: a write that ends within OWNER flips the mailbox when it forms the value 1. -/
theorem flipsOwner_iff (hne : data ≠ []) (hfit : off + data.length ≤ 4) : flipsOwner off data = true ↔ ownerAfter 0 off data = 1 := by
  have hpos := List.length_pos_of_ne_nil hne
  have hoff : off < 4 := by omega
  simp [flipsOwner, hoff]

end

/-! ### The rows of host writes -/

/-- R97: the row of a host write with the partition's own key into one of its mailboxes. -/
theorem exec_hostCwWrite_one {s : State} {qp mb off : Nat} {data : List Byte} {q : Qp}
    (hwf : (Instr.hostCwWrite qp (partAt s.m q.part).cwKey (mb * 4096 + off) data).wf = true) (hq : tfind s.m.port.qps qp = some q)
    (he : q.error = false) (hmb : mb / 32 = q.part) (hne : data ≠ []) (hfit : off + data.length ≤ 4096) :
    exec (.hostCwWrite qp (partAt s.m q.part).cwKey (mb * 4096 + off) data) s
      = .next { s with m := mailboxWrite qp q.part s.m (mb, off, data) } := by
  rw [← hostCwWrite_one hq he hmb hne hfit]
  exact onDev_next _ s hwf

/-- R101: the row of a flip writes the value 1 into OWNER. -/
theorem exec_mailboxFlip {s : State} {qp mb : Nat} {q : Qp} (hwf : (Instr.mailboxFlip qp (partAt s.m q.part).cwKey mb).wf = true)
    (hq : tfind s.m.port.qps qp = some q) (he : q.error = false) (hmb : mb / 32 = q.part) :
    exec (.mailboxFlip qp (partAt s.m q.part).cwKey mb) s = .next { s with m := mailboxWrite qp q.part s.m (mb, 0, leBytes 4 1) } := by
  have hone := hostCwWrite_one (off := 0) (data := leBytes 4 1) hq he hmb (by decide) (by decide)
  rw [Nat.add_zero] at hone
  rw [← hone]
  exact onDev_next _ s hwf

/-! ### The obligations -/

/-- Settles O59: a write within OWNER is one piece of one mailbox, which flips or keeps every byte. -/
theorem ownerTakesOnlyAFlip : Obligations.OwnerTakesOnlyAFlip := by
  unfold Obligations.OwnerTakesOnlyAFlip
  intro s qp mb off data q hwf hq he hmb hfit hne howned value
  have hvalue : flipsOwner off data = true ↔ value = 1 := by rw [flipsOwner_iff hne hfit, ownerAfter_zero]
  have hexec : exec (.hostCwWrite qp (partAt s.m q.part).cwKey (mb * 4096 + off) data) s = .next { s with
      m := if flipsOwner off data then mailboxFlipped mb s.m else cwWrite s.m (mb * 4096 + 4) [] } := by
    rw [← mailboxWrite_owner q.part howned hne hfit]
    exact exec_hostCwWrite_one hwf hq he hmb hne (by omega)
  refine ⟨fun h => ?_, fun h => ?_⟩
  · rw [if_pos (hvalue.mpr h)] at hexec
    exact ⟨_, hexec, mbOwned_mailboxFlipped s.m mb, mbField_mailboxFlipped s.m mb, rfl, cwByte_mailboxFlipped_out s.m mb, rfl⟩
  · rw [if_neg (mt hvalue.mp h)] at hexec
    exact ⟨_, hexec, cwByte_cwWrite_nil s.m _, rfl⟩

/-- R117: bucket 0 holds the flag table, so that every write into the bucket window needs the partition's key of that window. -/
theorem hostBucketWrite_keyed (qp key bucket offset : Nat) (data : List Byte) (m : Dev) :
    ∃ f, hostBucketWrite qp key bucket offset data m = keyed m qp key (·.bwKey) f := by
  rw [hostBucketWrite]
  split
  · exact ⟨_, rfl⟩
  · exact ⟨_, rfl⟩

/-- Settles O10: by where the write lies in its mailbox, by OWNER for a flip, and by the wrong key for each kind of access. -/
theorem hostAccessesToTheWindows : Obligations.HostAccessesToTheWindows := by
  unfold Obligations.HostAccessesToTheWindows
  refine ⟨⟨?_, ?_⟩, ?_⟩
  · intro s qp offset data q hwf hq he hne hlo hhi hoff hfit howned
    have hpos := List.length_pos_of_ne_nil hne
    obtain ⟨mb, off, hlt, rfl⟩ : ∃ mb off, off < 4096 ∧ offset = mb * 4096 + off := ⟨offset / 4096, offset % 4096, by omega, by omega⟩
    have hidx : (mb * 4096 + off) / 4096 = mb := by omega
    have hin : (mb * 4096 + off) % 4096 = off := by omega
    rw [hidx] at howned
    rw [hin] at hoff hfit
    have hexec := exec_hostCwWrite_one hwf hq he (by omega) hne hfit
    rw [mailboxWrite_beyond q.part howned hoff] at hexec
    exact ⟨_, hexec, rfl, cwByte_cwWrite_in s.m _ data, cwByte_cwWrite_out s.m _ data⟩
  · intro s qp mb q hwf hq he hmb
    have hexec := exec_mailboxFlip hwf hq he hmb
    refine ⟨fun howned => ?_, fun howned => ?_⟩
    · rw [mailboxWrite_owner q.part howned (by decide) (by decide), if_pos (by decide)] at hexec
      exact ⟨_, hexec, mbOwned_mailboxFlipped s.m mb, rfl, cwByte_mailboxFlipped_out s.m mb, rfl⟩
    · rw [mailboxWrite_owned q.part howned] at hexec
      exact ⟨_, hexec, rfl, rfl, rfl, rfl⟩
  · intro s qp key q hq he ends
    refine ⟨fun hkey offset data hwf => exec_wrongKey (onDev_next _ s hwf) hq he hkey, fun hkey bucket offset data => ⟨?_, ?_, ?_⟩⟩
    · exact fun hwf => exec_wrongKey (onDev_next _ s hwf) hq he hkey
    · intro hwf
      obtain ⟨f, hf⟩ := hostBucketWrite_keyed qp key bucket offset data s.m
      have hexec : exec (.hostBucketWrite qp key bucket offset data) s = .next { s with m := hostBucketWrite qp key bucket offset data s.m } :=
        onDev_next _ s hwf
      rw [hf] at hexec
      exact exec_wrongKey hexec hq he hkey
    · exact fun len hwf => exec_wrongKey (onDev_next _ s hwf) hq he hkey

end Sys2Proof.Machine
end

section
/-! PROOFS of the family 03_control_path: what the owning partition writes into a HOST bucket and reads of it (R121 to R126). -/

namespace Sys2Proof.Machine

/-! ### The hand-over of a bucket (R121, R126) -/

/-- A field of an entry that a write ends below keeps its value. -/
theorem fieldAfter_beyond {old o off : Nat} {l : List Byte} (hout : off + l.length ≤ o) (hold : old < 2 ^ 32) :
    fieldAfter old o off l = old := by
  have hkept : (List.range 4).map (fun i => if off ≤ o + i ∧ o + i < off + l.length then nth 0 l (o + i - off) else nth 0 (leBytes 4 old) i)
      = leBytes 4 old := by
    refine List.ext_getElem (by simp) fun i _ hi => ?_
    have hbelow : ¬(off ≤ o + i ∧ o + i < off + l.length) := by omega
    simp only [List.getElem_map, List.getElem_range, if_neg hbelow, nth, List.getD_eq_getElem _ _ hi]
  rw [fieldAfter, hkept, leNat_leBytes]
  exact Nat.mod_eq_of_lt hold

/-- R121, R126: the owning partition's write of DEVICE into OWNER of a HOST bucket. -/
theorem flagWrite_device {m : Dev} {b : Nat} {f : Flag} (qp : Nat) (hb : 1 ≤ b) (hf : flagAt m b = f) (ho : f.owner = 1)
    (hfill : f.fill < 2 ^ 32) (htag : f.tag < 2 ^ 32) :
    flagWrite qp f.part m (b, 0, leBytes 4 2) = { m with ctl := { m.ctl with
      flags := tset {} m.ctl.flags b { f with
        owner := 2, handoffs := f.handoffs + 1, stroke := strokeOf m (bucketStream m b)
        strokeKind := if (bucketStream m b).isSome then 1 else 0 }
      bucketFlips := m.ctl.bucketFlips ++ [b] } } := by
  have hentry : ¬(b = 0 ∨ f.owner = 0) := by omega
  have hheld : ¬f.owner ≠ 1 := not_not_intro ho
  have hdevice : 0 < 4 ∧ fieldAfter 1 0 0 (leBytes 4 2) = 2 := by decide
  simp only [flagWrite, hf, if_neg hentry, ne_eq, not_true_eq_false, if_false, if_neg hheld, if_pos hdevice,
    fieldAfter_beyond (old := f.fill) (o := 16) (off := 0) (l := leBytes 4 2) (by decide) hfill,
    fieldAfter_beyond (old := f.tag) (o := 20) (off := 0) (l := leBytes 4 2) (by decide) htag,
    setFlag, if_neg (show ¬b = 0 by omega), updCtl, b2n]

/-! ### Pages that no protection holds (R554) -/

theorem mem_of_tfind {α : Type} {t : Tab α} {k : Nat} {v : α} (h : tfind t k = some v) : (k, v) ∈ t := by
  induction t with
  | nil => cases h
  | cons x t ih =>
    obtain ⟨k', v'⟩ := x
    rw [tfind] at h
    split at h
    next hk =>
      cases hk
      cases h
      exact List.mem_cons_self ..
    next => exact List.mem_cons_of_mem _ (ih h)

theorem freeFinds_nil (m : Dev) : freeFinds m [] = m := by simp [freeFinds]

/-- A write touches nothing of jobs that protect no page. -/
theorem touchPages_unprotected {m : Dev} (h : ∀ x ∈ m.jobs, x.2.secure.protectedPages = []) (a n : Nat) : touchPages m a n = m := by
  have hjob : ∀ slot, touchJob slot m a n = m := fun slot => by
    rw [touchJob]
    cases hj : jobAt m slot with
    | none => rfl
    | some j =>
      have hpages : j.secure.protectedPages = [] := h _ (mem_of_tfind hj)
      simp [hpages, freeFinds_nil]
  rw [touchPages]
  split
  · exact List.foldl_fixed' hjob _
  · rfl

/-! ### The data of a bucket (R122, R123) -/

section
variable {m : Dev} {qp b offset : Nat} {f : Flag}

/-- R122: a write of the owning partition into a HOST bucket. -/
theorem bucketWrite_host {data : List Byte} (hb : 1 ≤ b) (hlast : b ≤ 32767) (hdeep : m.power.deep < 3) (hf : flagAt m b = f) (ho : f.owner = 1)
    (hgrant : bucketGranted m b = false) (hpages : ∀ x ∈ m.jobs, x.2.secure.protectedPages = []) :
    bucketWrite qp f.part m (b, offset, data) = { m with mem := memWrite m.mem (f.addr + offset) data } := by
  have hreached : ¬(b = 0 ∨ 32767 < b ∨ f.owner = 0 ∨ bucketsBarred m) := by
    simp only [bucketsBarred, decide_eq_true_eq]
    omega
  have hheld : ¬f.owner ≠ 1 := not_not_intro ho
  simp only [bucketWrite, hf, if_neg hreached, ne_eq, not_true_eq_false, if_false, if_neg hheld, hgrant, Bool.false_eq_true,
    touchPages_unprotected hpages]

/-- R122: the row of a write into one bucket beyond the flag table. -/
theorem exec_hostBucketWrite_one {s : State} {data : List Byte} {q : Qp}
    (hwf : (Instr.hostBucketWrite qp (partAt s.m q.part).bwKey b offset data).wf = true) (hq : tfind s.m.port.qps qp = some q)
    (he : q.error = false) (hb : 1 ≤ b) (hne : data ≠ []) (hfit : offset + data.length ≤ 0x200000) :
    exec (.hostBucketWrite qp (partAt s.m q.part).bwKey b offset data) s
      = .next { s with m := bucketWrite qp q.part s.m (b, offset, data) } := by
  have hone : hostBucketWrite qp (partAt s.m q.part).bwKey b offset data s.m = bucketWrite qp q.part s.m (b, offset, data) := by
    rw [hostBucketWrite, if_neg (show ¬b = 0 by omega), keyed_right hq he (·.bwKey), pieces_one _ _ hne hfit, List.foldl_cons,
      List.foldl_nil]
  rw [← hone]
  exact onDev_next _ s hwf

/-- Bytes that no poisoned block touches are read as they are. -/
theorem poisonedRead_clean {data : List Byte} (part : Nat) (hf : flagAt m b = f)
    (hclean : ∀ x ∈ m.mem.poison, ¬((f.addr + offset) / 64 ≤ x.1 ∧ x.1 * 64 < f.addr + offset + data.length)) :
    poisonedRead part b offset data m = (data, m) := by
  have hnone : m.mem.poison.filter (fun p => p.2 && decide ((f.addr + offset) / 64 ≤ p.1)
      && decide (p.1 * 64 < f.addr + offset + data.length)) = [] := by
    refine List.filter_eq_nil_iff.mpr fun x hx h => hclean x hx ?_
    simp only [Bool.and_eq_true, decide_eq_true_eq] at h
    exact ⟨h.1.2, h.2⟩
  have hall : (List.range data.length).map (fun i => nth 0 data i) = data :=
    List.ext_getElem (by simp) fun i _ hi => by simp [nth, hi]
  simp only [poisonedRead, hf, hnone, List.map_nil, List.not_mem_nil, if_false, hall, List.foldl_nil]

/-- R122: a read of the owning partition of the unpoisoned bytes of a HOST bucket. -/
theorem bucketReadPiece_host {len : Nat} (l : List Byte) (hb : 1 ≤ b) (hlast : b ≤ 32767) (hdeep : m.power.deep < 3) (hf : flagAt m b = f)
    (ho : f.owner = 1) (hdamaged : m.mem.damaged = [])
    (hclean : ∀ x ∈ m.mem.poison, ¬((f.addr + offset) / 64 ≤ x.1 ∧ x.1 * 64 < f.addr + offset + len)) :
    bucketReadPiece qp f.part (l, m) (b, offset, len) = (l ++ memRead m.mem (f.addr + offset) len, m) := by
  have hreached : ¬(32767 < b ∨ f.owner = 0 ∨ bucketsBarred m) := by
    simp only [bucketsBarred, decide_eq_true_eq]
    omega
  have hfinds : freeFinds m [(f.addr + offset, len)] = m := by simp [freeFinds, hdamaged]
  have hlen : (memRead m.mem (f.addr + offset) len).length = len := by simp [memRead]
  have hread := poisonedRead_clean (data := memRead m.mem (f.addr + offset) len) f.part hf (by rw [hlen]; exact hclean)
  have hheld : ¬f.owner = 2 := by omega
  simp only [bucketReadPiece, hf, if_neg (show ¬b = 0 by omega), if_neg hreached, ne_eq, not_true_eq_false, if_false, hfinds,
    if_neg hheld, hread]

/-- A read that ends within its bucket is one run. -/
theorem bucketRuns_one {off len : Nat} (fuel b : Nat) (hlen : 0 < len) (hfit : off + len ≤ 0x200000) :
    bucketRuns (fuel + 2) b off len = [(b, off, len)] := by
  have hmin : min len (0x200000 - off) = len := by omega
  rw [bucketRuns, if_neg (by omega), hmin, Nat.sub_self, bucketRuns, if_pos rfl]

/-- R122: the row of a read of one bucket. -/
theorem exec_hostBucketRead_one {s : State} {len : Nat} {q : Qp}
    (hwf : (Instr.hostBucketRead qp (partAt s.m q.part).bwKey b offset len).wf = true) (hq : tfind s.m.port.qps qp = some q)
    (he : q.error = false) (hlen : 0 < len) (hfit : offset + len ≤ 0x200000) :
    exec (.hostBucketRead qp (partAt s.m q.part).bwKey b offset len) s = .next { s with
      m := send (bucketReadPiece qp q.part ([], s.m) (b, offset, len)).2 (.readData qp (bucketReadPiece qp q.part ([], s.m) (b, offset, len)).1) } := by
  have hone : hostBucketRead qp (partAt s.m q.part).bwKey b offset len s.m
      = send (bucketReadPiece qp q.part ([], s.m) (b, offset, len)).2 (.readData qp (bucketReadPiece qp q.part ([], s.m) (b, offset, len)).1) := by
    rw [hostBucketRead, keyed_right hq he (·.bwKey), bucketRuns_one _ _ hlen hfit]
    rfl
  rw [← hone]
  exact onDev_next _ s hwf

end

/-- R121: the row of a write into the entry of one bucket. -/
theorem exec_hostFlagWrite_one {s : State} {qp b off : Nat} {data : List Byte} {q : Qp}
    (hwf : (Instr.hostFlagWrite qp (partAt s.m q.part).bwKey b off data).wf = true) (hq : tfind s.m.port.qps qp = some q)
    (he : q.error = false) (hne : data ≠ []) (hfit : off + data.length ≤ 64) :
    exec (.hostFlagWrite qp (partAt s.m q.part).bwKey b off data) s = .next { s with m := flagWrite qp q.part s.m (b, off, data) } := by
  have hb : b < 32768 := by
    simp only [Instr.wf, boundsWf, Bool.and_eq_true, List.all_cons, decide_eq_true_eq] at hwf
    omega
  have hone : hostFlagWrite qp (partAt s.m q.part).bwKey b off data s.m = flagWrite qp q.part s.m (b, off, data) := by
    rw [hostFlagWrite, keyed_right hq he (·.bwKey), pieces_one _ _ hne hfit, List.filter_cons_of_pos (by simpa using hb), List.filter_nil,
      List.foldl_cons, List.foldl_nil]
  rw [← hone]
  exact onDev_next _ s hwf

/-- Settles O11: each access is one piece of one bucket, which the owning partition writes or reads. -/
theorem bucketsOfTheHost : Obligations.BucketsOfTheHost := by
  unfold Obligations.BucketsOfTheHost
  refine ⟨?_, ?_⟩
  · intro s qp b q f hwf hq he hb hf ho hpart hfill htag
    rw [exec_hostFlagWrite_one hwf hq he (by decide) (by decide), ← hpart, flagWrite_device qp hb hf ho hfill htag]
  · intro s qp b offset q f hq he hb hlast hf ho hpart
    refine ⟨?_, ?_⟩
    · intro data hwf hne hfit hgrant hdeep hpages
      have hexec := exec_hostBucketWrite_one hwf hq he hb hne hfit
      rw [← hpart, bucketWrite_host hb hlast hdeep hf ho hgrant hpages, hpart] at hexec
      exact ⟨_, hexec, memByte_memWrite_in s.m.mem _ data, memByte_memWrite_out s.m.mem _ data, rfl⟩
    · intro len hwf hfit hlen hdeep hdamaged hclean
      rw [exec_hostBucketRead_one hwf hq he hlen hfit, ← hpart, bucketReadPiece_host [] hb hlast hdeep hf ho hdamaged hclean]
      rfl

end Sys2Proof.Machine
end

section
/-! PROOFS of the family 03_control_path: a module that reads C again writes the records it holds (R135, R142). -/

namespace Sys2Proof.Machine

/-- R135, R142: an area whose C has been read, up to the last EVENT_SEQ written. -/
def consumerTaken (value : Nat) (a : Area) : Area := { a with consumer := min value (a.nextSeq - 1), fresh := false }

section
variable {m : Dev} {p : Nat} {a : Area} {r : AreaReg}

/-- The area of a partition reads as it was last set. -/
theorem areaAt_of_tset {areas : Tab Area} (h : m.ctl.areas = tset {} areas p a) : areaAt m p = a := by
  rw [areaAt, h, tget_tset, if_pos rfl]

/-- R132, R134: a record goes into the slot of its EVENT_SEQ. -/
theorem writeRecord_eq (ha : areaAt m p = a) (hr : a.reg = some r) (e : Event) :
    writeRecord m p e = { m with
      ctl := { m.ctl with areas := tset {} m.ctl.areas p { a with nextSeq := a.nextSeq + 1, lost := 0 } }
      out := m.out ++ [.hostWrite r.qp (r.addr + (a.nextSeq - 1) % r.slots * 64) r.rkey (eventBytes e a.nextSeq a.lost)] } := by
  simp only [writeRecord, ha, hr, send]

theorem flushHeld_empty (ha : areaAt m p = a) (hh : a.held = []) (fuel : Nat) : flushHeld p (fuel + 1) m = m := by
  simp only [flushHeld, ha, hh]

/-- R135: with room the oldest held record is written. -/
theorem flushHeld_room {e : Event} {l : List Event} (ha : areaAt m p = a) (hh : a.held = e :: l) (hroom : areaRoom a = true) (fuel : Nat) :
    flushHeld p (fuel + 1) m = flushHeld p fuel
      (writeRecord { m with ctl := { m.ctl with areas := tset {} m.ctl.areas p { a with held := l } } } p e) := by
  simp only [flushHeld, ha, hh, hroom, if_true]

/-- R135: with room the one held record is written, and none is held. -/
theorem flushHeld_one {e : Event} (ha : areaAt m p = a) (hr : a.reg = some r) (hh : a.held = [e]) (hroom : areaRoom a = true) :
    ∃ areas, flushHeld p 2 m = { m with
        ctl := { m.ctl with areas := tset {} areas p { a with held := [], nextSeq := a.nextSeq + 1, lost := 0 } }
        out := m.out ++ [.hostWrite r.qp (r.addr + (a.nextSeq - 1) % r.slots * 64) r.rkey (eventBytes e a.nextSeq a.lost)] } := by
  rw [flushHeld_room ha hh hroom, writeRecord_eq (a := { a with held := [] }) (areaAt_of_tset rfl) hr,
    flushHeld_empty (areaAt_of_tset rfl) rfl]
  exact ⟨_, rfl⟩

/-- R135, R142: without room the module reads C again before it writes what it holds. -/
theorem consumerReread_full (ha : areaAt m p = a) (hr : a.reg = some r) (hroom : areaRoom a = false) (value : Nat) :
    consumerReread p value m = flushHeld p (a.held.length + 1) { m with
      ctl := { m.ctl with areas := tset {} m.ctl.areas p (consumerTaken value a) }
      out := m.out ++ [.hostRead r.qp r.cAddr r.cRkey 8] } := by
  simp only [consumerReread, ha, hr, hroom, Bool.false_eq_true, if_false, send, updCtl, consumerTaken]

/-- R135, R142: when C leaves room, the one held record is written. -/
theorem consumerReread_one {value : Nat} {e : Event} (ha : areaAt m p = a) (hr : a.reg = some r) (hh : a.held = [e])
    (hroom : areaRoom a = false) (hroom' : areaRoom (consumerTaken value a) = true) :
    ∃ areas, consumerReread p value m = { m with
        ctl := { m.ctl with areas := tset {} areas p { consumerTaken value a with held := [], nextSeq := a.nextSeq + 1, lost := 0 } }
        out := m.out ++ [.hostRead r.qp r.cAddr r.cRkey 8]
          ++ [.hostWrite r.qp (r.addr + (a.nextSeq - 1) % r.slots * 64) r.rkey (eventBytes e a.nextSeq a.lost)] } := by
  rw [consumerReread_full ha hr hroom, hh]
  exact flushHeld_one (a := consumerTaken value a) (areaAt_of_tset rfl) hr hh hroom'

end

/-- Settles O12: after the second read there is room for the one record that is held. -/
theorem consumerRereadWritesHeldRecord : Obligations.ConsumerRereadWritesHeldRecord := by
  unfold Obligations.ConsumerRereadWritesHeldRecord
  intro s p value r e hwf hr hh hroom hslots
  have hexec : exec (.consumerReread p value) s = .next { s with m := consumerReread p value s.m } := onDev_next _ s hwf
  obtain ⟨a, ha⟩ : ∃ a, areaAt s.m p = a := ⟨_, rfl⟩
  rw [ha] at hr hh hroom hslots ⊢
  have hroom' : areaRoom (consumerTaken value a) = true := by simpa [areaRoom, consumerTaken, hr] using hslots
  obtain ⟨areas, hone⟩ := consumerReread_one ha hr hh hroom hroom'
  rw [hone, List.append_assoc] at hexec
  exact ⟨_, hexec, rfl, areaAt_of_tset rfl, rfl⟩

end Sys2Proof.Machine
end

section
/-! PROOFS of the family 04_matrix_arrays: how descriptors leave the queue of a matrix array, and what its admitted accesses read and
write (R154, R155, R172, R173, R178). -/

namespace Sys2Proof.Machine

/-! ### Descriptors that leave the queue (R172, R173, R178) -/

section
variable {a : MArray} {d : Desc} {l : List Desc}

/-- R178: a descriptor of another shape leaves the queue to wait. -/
theorem releaseOne_shape (hq : a.queue = d :: l) (hnone : ∀ x ∈ a.held, x.stage ≠ .shape) (hd : dShape d ≠ a.shape) :
    releaseOne a = { a with queue := l, held := a.held ++ [released d .shape] } := by
  have hany : ¬a.held.any (fun x => decide (x.stage = .shape)) = true := by simpa using hnone
  simp only [releaseOne, hq, if_neg hany, if_pos hd]

/-- R172: a descriptor of the array's shape leaves the queue for a free weight buffer. -/
theorem releaseOne_starts (hq : a.queue = d :: l) (hnone : ∀ x ∈ a.held, x.stage ≠ .shape) (hd : dShape d = a.shape)
    (hfree : buffersUsed a (dUnit d) < 2) :
    releaseOne a = { a with queue := l, held := a.held ++ [released d (startStage d)] } := by
  have hany : ¬a.held.any (fun x => decide (x.stage = .shape)) = true := by simpa using hnone
  simp only [releaseOne, hq, if_neg hany, if_neg (not_not_intro hd), if_pos hfree]

/-- R172: without a free weight buffer the oldest descriptor stays in the queue. -/
theorem releaseOne_full (hq : a.queue = d :: l) (hnone : ∀ x ∈ a.held, x.stage ≠ .shape) (hd : dShape d = a.shape)
    (hfull : 2 ≤ buffersUsed a (dUnit d)) : releaseOne a = a := by
  have hany : ¬a.held.any (fun x => decide (x.stage = .shape)) = true := by simpa using hnone
  simp only [releaseOne, hq, if_neg hany, if_neg (not_not_intro hd), if_neg (Nat.not_lt.mpr hfull)]

end

/-- What leaves the queue is held behind what the array holds already; nothing else of the array changes. -/
theorem releaseOne_frame (a : MArray) : ∃ q l, releaseOne a = { a with queue := q, held := a.held ++ l } := by
  have hsame : ∃ q l, a = { a with queue := q, held := a.held ++ l } := ⟨a.queue, [], by rw [List.append_nil]⟩
  unfold releaseOne
  split
  next => exact hsame
  next d l _ =>
    split
    next => exact hsame
    next =>
      split
      next => exact ⟨l, _, rfl⟩
      next =>
        split
        next => exact ⟨l, _, rfl⟩
        next => exact hsame

theorem releaseAll_frame (a : MArray) : ∃ q l, releaseAll a = { a with queue := q, held := a.held ++ l } := by
  refine List.foldlRecOn (List.range 16) _ (motive := fun b : MArray => ∃ q l, b = { a with queue := q, held := a.held ++ l })
    ⟨a.queue, [], by rw [List.append_nil]⟩ ?_
  rintro _ ⟨q, l, rfl⟩ _ _
  obtain ⟨q', l', h⟩ := releaseOne_frame { a with queue := q, held := a.held ++ l }
  exact ⟨q', l ++ l', by rw [h, List.append_assoc]⟩

@[simp] theorem releaseAll_gangMismatch (a : MArray) : (releaseAll a).gangMismatch = a.gangMismatch := by
  obtain ⟨q, l, h⟩ := releaseAll_frame a
  rw [h]

/-- An instruction that is held keeps its place. -/
theorem releaseAll_held {a : MArray} {i : Nat} {x : Rel} (h : a.held[i]? = some x) : (releaseAll a).held[i]? = some x := by
  obtain ⟨q, l, hall⟩ := releaseAll_frame a
  obtain ⟨hi, _⟩ := List.getElem?_eq_some_iff.mp h
  rw [hall]
  exact (List.getElem?_append_left hi).trans h

@[simp] theorem countRows_held (a : MArray) (unit : Nat) (d : Desc) : (countRows a unit d).held = a.held := by
  simp only [countRows]
  split <;> rfl

/-- R172: an instruction whose rows are in keeps its place with its flags. -/
theorem streamed_held {a : MArray} {i : Nat} {x y : Rel} (fl : Flags3) (h : a.held[i]? = some y) :
    (streamed i x fl a).held[i]? = some { x with stage := .streamed, flags := fl } := by
  obtain ⟨hi, _⟩ := List.getElem?_eq_some_iff.mp h
  refine releaseAll_held ?_
  rw [countRows_held]
  exact List.getElem?_set_self hi

/-- The instruction that heads a sub-unit is one that its array holds, filled. -/
theorem headFill_some {a : MArray} {unit i : Nat} {x : Rel} (h : headFill a unit = some (i, x)) :
    a.held[i]? = some x ∧ x.unit = unit ∧ x.stage = .filled := by
  unfold headFill at h
  split at h
  next => cases h
  next k hk =>
    obtain ⟨y, hy, hpair⟩ := Option.map_eq_some_iff.mp h
    cases hpair
    obtain ⟨hget, hfilled⟩ := Option.filter_eq_some_iff.mp hy
    obtain ⟨_, hp, _⟩ := List.findIdx?_eq_some_iff_getElem.mp hk
    obtain ⟨_, rfl⟩ := List.getElem?_eq_some_iff.mp hget
    simp only [Bool.and_eq_true, decide_eq_true_eq] at hp hfilled
    exact ⟨hget, hp.1, hfilled⟩

/-! ### Other arrays -/

theorem arrayAt_updArray_other (m : Dev) {die n d k : Nat} (f : MArray → MArray) (h : d * 48 + k ≠ die * 48 + n) :
    arrayAt (updArray m die n f) d k = arrayAt m d k := by rw [arrayAt_updArray, if_neg h]

/-! ### Accesses of an array (R154, R155, R304) -/

section
variable {m : Dev} {die n slot unit addr len : Nat}

/-- R304: a controller finds nothing where no block is uncorrectable. -/
theorem readFinds_undamaged (h : m.mem.damaged = []) (requester addr n : Nat) : readFinds m requester addr n = m := by
  simp [readFinds, h]

/-- An admitted read within one bank or outside the banks. -/
theorem unitReads_one (hdam : m.mem.damaged = []) (hone : bankPieces addr len = [(addr, len)])
    (hadmit : admitAccess m unit slot addr len 0 = (true, m)) :
    unitReads m unit slot addr len = (memRead m.mem addr len, memPoisoned m.mem addr len, false, m) := by
  simp only [unitReads, hone, List.foldl_cons, List.foldl_nil, hadmit, readFinds_undamaged hdam, List.nil_append, Bool.false_or]

theorem arrayRead_admitted (hjob : (arrayAt m die n).job = some slot) (hdam : m.mem.damaged = [])
    (hone : bankPieces addr len = [(addr, len)]) (hadmit : admitAccess m (maUnit die n) slot addr len 0 = (true, m)) :
    arrayRead die n addr len m = (memRead m.mem addr len, memPoisoned m.mem addr len, m) := by
  have hslot : (arrayAt m die n).job.getD 16 = slot := by rw [hjob]; rfl
  simp only [arrayRead, hslot, unitReads_one hdam hone hadmit, Bool.false_eq_true, if_false]

/-- An admitted write of sound bytes into one bank: the siphon protects no page there. -/
theorem unitWrite_bank {l : List Byte} (hbank : isExtMem addr = false) (hone : bankPieces addr l.length = [(addr, l.length)])
    (hadmit : admitAccess m unit slot addr l.length 1 = (true, m)) :
    unitWrite m unit slot addr l false = { m with mem := memWrite m.mem addr l } := by
  have htouch : touchPages m addr l.length = m := by simp [touchPages, hbank]
  simp only [unitWrite, hone, List.foldl_cons, List.foldl_nil, hadmit, htouch, Nat.sub_self, List.drop_zero, List.take_length,
    Bool.false_eq_true, if_false]

end

end Sys2Proof.Machine
end

section
/-! PROOFS of the family 04_matrix_arrays: a matrix instruction of one row, gangs whose instructions differ, and the sums of columns
(R163 to R167, R172, R180, R183). -/

namespace Sys2Proof.Machine

/-! ### An instruction of one row (R163 to R167, R172) -/

section
variable {m : Dev} {die n unit i : Nat} {x : Rel}

/-- R172, R174: outside a gang the filled instruction that heads its sub-unit streams alone. -/
theorem streamers_single (hhead : headFill (arrayAt m die n) unit = some (i, x)) (hop : dOp x.d = 1) (hgang : dGang x.d = false)
    (hmay : mayStream (arrayAt m die n) (i, x) = true) : streamers m die n unit = [(n, i, x)] := by
  simp [streamers, hhead, hop, hgang, hmay]

theorem matmul_single (hbrake : m.power.brake = false) (h : streamers m die n unit = [(n, i, x)]) :
    matmul die n unit m = streamAll die n x.d [partOf m die n (i, x)] m := by
  simp [matmul, hbrake, h]

/-- R166, R167: without ACC a sound stream row gives an output row without poison, which the array writes. -/
theorem streamOne_plain {m' : Dev} {p : Streamer} {row : List Byte} {o : List Byte × Flags3} (hacc : dAcc p.x.d = false)
    (hpoison : p.x.poison = false) (hout : outRow p.x.d p.cols row [] = o)
    (hwrite : unitWrite m (maUnit die p.n) ((arrayAt m die p.n).job.getD 16) (wAddr p.x.d.w3) o.1 false = m') :
    streamOne die 0 (row, false) p ({}, m) = ({ o.2 with poison := false }, m') := by
  simp [streamOne, hacc, hpoison, hout, hwrite, orFlags]

/-- An instruction of one row that streams alone: the row is read, the output row written, and the buffer is free. -/
theorem streamAll_row {m' m'' : Dev} {p : Streamer} {row : List Byte} {poisoned : Bool} {fl : Flags3} (hk : dK p.x.d = 1)
    (hread : arrayRead die p.n (wAddr p.x.d.w1) (streamRow p.x.d) m = (row, poisoned, m'))
    (hrow : streamOne die 0 (row, poisoned) p ({}, m') = (fl, m'')) :
    streamAll die p.n p.x.d [p] m = updArray m'' die p.n (streamed p.i p.x fl) := by
  simp [streamAll, hk, streamRowOf, hread, hrow]

end

/-! ### Gangs whose instructions differ (R180) -/

/-- R180: the array of a gang's member `p` after it has ended its instruction without a row. -/
def gangEnded (p : Nat × Nat × Rel) (a : MArray) : MArray :=
  releaseAll { a with held := a.held.set p.2.1 { p.2.2 with stage := .streamed, void := true }, gangMismatch := true }

section
variable (die : Nat) (l : List (Nat × Nat × Rel))

/-- R180: a member of a gang that fails ends its instruction and keeps all else but its own registers and its event. -/
theorem gangFails_frame (m : Dev) (p : Nat × Nat × Rel) : ∃ arrays e,
    gangFails die m p = { m with arrays := arrays, ctl := { m.ctl with evq := m.ctl.evq ++ [e] } } := ⟨_, _, rfl⟩

theorem arrayAt_gangFails (m : Dev) (p : Nat × Nat × Rel) (d k : Nat) :
    arrayAt (gangFails die m p) d k = arrayAt (updArray m die p.1 (gangEnded p)) d k := by
  rw [gangFails, arrayAt, raisePart_arrays, arrayAt]
  rfl

theorem gangFails_mismatch (m : Dev) (p : Nat × Nat × Rel) : (arrayAt (gangFails die m p) die p.1).gangMismatch = true := by
  rw [arrayAt_gangFails, arrayAt_updArray_same, gangEnded, releaseAll_gangMismatch]

/-- GANG_MISMATCH once set stays when another member fails. -/
theorem gangFails_keeps {m : Dev} {k : Nat} (p : Nat × Nat × Rel) (h : (arrayAt m die k).gangMismatch = true) :
    (arrayAt (gangFails die m p) die k).gangMismatch = true := by
  by_cases hk : die * 48 + k = die * 48 + p.1
  · obtain rfl : k = p.1 := by omega
    exact gangFails_mismatch die m p
  · rw [arrayAt_gangFails, arrayAt_updArray_other _ _ hk]
    exact h

theorem foldl_gangFails_frame (m : Dev) : ∃ arrays es, es.length = l.length ∧
    l.foldl (gangFails die) m = { m with arrays := arrays, ctl := { m.ctl with evq := m.ctl.evq ++ es } } := by
  induction l generalizing m with
  | nil => exact ⟨m.arrays, [], rfl, by rw [List.append_nil]; rfl⟩
  | cons p l ih =>
    obtain ⟨arrays, e, hp⟩ := gangFails_frame die m p
    obtain ⟨arrays', es, hlen, hl⟩ := ih (gangFails die m p)
    refine ⟨arrays', e :: es, by rw [List.length_cons, hlen, List.length_cons], ?_⟩
    rw [List.foldl_cons, hl, hp, List.append_assoc]
    rfl

/-- R180: each member of the gang is left with GANG_MISMATCH. -/
theorem foldl_gangFails_mismatch (m : Dev) : ∀ y ∈ l, (arrayAt (l.foldl (gangFails die) m) die y.1).gangMismatch = true := by
  induction l generalizing m with
  | nil => simp
  | cons p l ih =>
    intro y hy
    rcases List.mem_cons.mp hy with rfl | hy
    · exact List.foldlRecOn l _ (motive := fun m => (arrayAt m die y.1).gangMismatch = true) (gangFails_mismatch die m y)
        fun _ h q _ => gangFails_keeps die q h
    · exact ih (gangFails die m p) y hy

end

theorem matmul_braked {m : Dev} (die n unit : Nat) (h : m.power.brake = true) : matmul die n unit m = m := if_pos h

/-- R180: instructions of one gang that differ end without a row. -/
theorem matmul_mismatch {m : Dev} {die n unit : Nat} {p q : Nat × Nat × Rel} {l : List (Nat × Nat × Rel)} (hbrake : m.power.brake = false)
    (h : streamers m die n unit = p :: l) (hq : q ∈ l) (hkey : gangKey q.2.2.d ≠ gangKey p.2.2.d) :
    matmul die n unit m = (p :: l).foldl (gangFails die) m := by
  have hdiffer : ¬(p :: l).all (fun q => decide (gangKey q.2.2.d = gangKey p.2.2.d)) = true := fun hall =>
    hkey (of_decide_eq_true (List.all_eq_true.mp hall q (List.mem_cons_of_mem _ hq)))
  simp only [matmul, hbrake, h, if_neg hdiffer, Bool.false_eq_true, if_false]

/-! ### The sum of a column (R163, R164) -/

/-- R164: one product more is one fused multiply-add more. -/
theorem sumCols_fused_append {a w : List FVal} (x y : FVal) (k : List (Option Int)) (h : a.length = w.length) :
    (sumCols true (a ++ [x]) (w ++ [y]) k).1 = rne32 (fvAdd (dec32 (sumCols true a w k).1) (fvMul x y)) := by
  simp only [sumCols, if_true, List.zip_append h, List.zip_cons_cons, List.zip_nil_left, List.foldl_append, List.foldl_cons,
    List.foldl_nil, accAdd, accRound, rne32]

/-- The step of R163 for group `j`: its sum is scaled and rounded, and acc is rounded after it. -/
def groupStep (a w : List FVal) (k : List (Option Int)) (acc : Nat × Bool) (j : Nat) : Nat × Bool :=
  let r := accRound (groupSum ((a.drop (32 * j)).take 32) ((w.drop (32 * j)).take 32) (nth (some 0) k j))
  accAdd (acc.1, acc.2 || r.2) (dec32 r.1)

theorem sumCols_groups (a w : List FVal) (k : List (Option Int)) :
    sumCols false a w k = (List.range (a.length / 32)).foldl (groupStep a w k) (0, false) := rfl

/-- Group `j` of values that go on behind it. -/
theorem group_append {a x : List FVal} {j : Nat} (h : 32 * j + 32 ≤ a.length) :
    ((a ++ x).drop (32 * j)).take 32 = (a.drop (32 * j)).take 32 := by
  rw [List.drop_append_of_le_length (by omega), List.take_append_of_le_length (by rw [List.length_drop]; omega)]

/-- The group that values of whole groups are followed by. -/
theorem group_last {a x : List FVal} {j : Nat} (h : a.length = 32 * j) (hx : x.length = 32) : ((a ++ x).drop (32 * j)).take 32 = x := by
  rw [← h, List.drop_left, ← hx, List.take_length]

/-- R163: one group more is one rounded and scaled sum more. -/
theorem sumCols_groups_append {a w x y : List FVal} {k : List (Option Int)} {e : Int} (h : a.length = w.length) (hwhole : a.length % 32 = 0)
    (hx : x.length = 32) (hy : y.length = 32) (hk : nth (some 0) k (a.length / 32) = some e) :
    (sumCols false (a ++ x) (w ++ y) k).1 = rne32 (fvAdd (dec32 (sumCols false a w k).1)
      (dec32 (rne32 (fvScale ((List.zipWith fvMul x y).foldl fvAdd (.fin false 0 0)) e)))) := by
  obtain ⟨g, hg⟩ : ∃ g, a.length / 32 = g := ⟨_, rfl⟩
  have ha : a.length = 32 * g := by omega
  have hmore : (a ++ x).length / 32 = g + 1 := by rw [List.length_append]; omega
  have hearlier : (List.range g).foldl (groupStep (a ++ x) (w ++ y) k) (0, false) = (List.range g).foldl (groupStep a w k) (0, false) := by
    refine List.foldl_ext _ _ _ fun acc j hj => ?_
    have hjg := List.mem_range.mp hj
    simp only [groupStep, group_append (a := a) (x := x) (j := j) (by omega), group_append (a := w) (x := y) (j := j) (by omega)]
  rw [hg] at hk
  simp only [sumCols_groups, hmore, hg, List.range_succ, List.foldl_append, List.foldl_cons, List.foldl_nil, hearlier]
  simp only [groupStep, group_last ha hx, group_last (h ▸ ha) hy, hk, groupSum, accAdd, accRound, rne32]

/-! ### The obligation -/

/-- R172: the row of a MATMUL of one row, outside a gang and without ACC, into one bank of sound bytes. -/
theorem matmul_row {m : Dev} {die n unit i : Nat} {x : Rel} {row : List Byte} {o : List Byte × Flags3} (hbrake : m.power.brake = false)
    (hhead : headFill (arrayAt m die n) unit = some (i, x)) (hop : dOp x.d = 1) (hgang : dGang x.d = false) (hacc : dAcc x.d = false)
    (hk : dK x.d = 1) (hmay : mayStream (arrayAt m die n) (i, x) = true) (hpoison : x.poison = false)
    (hread : arrayRead die n (wAddr x.d.w1) (streamRow x.d) m = (row, false, m)) (hout : outRow x.d (partOf m die n (i, x)).cols row [] = o)
    (hwrite : unitWrite m (maUnit die n) ((arrayAt m die n).job.getD 16) (wAddr x.d.w3) o.1 false
      = { m with mem := memWrite m.mem (wAddr x.d.w3) o.1 }) :
    matmul die n unit m = updArray { m with mem := memWrite m.mem (wAddr x.d.w3) o.1 } die n (streamed i x { o.2 with poison := false }) := by
  rw [matmul_single hbrake (streamers_single hhead hop hgang hmay)]
  exact streamAll_row (p := partOf m die n (i, x)) hk hread (streamOne_plain hacc hpoison hout hwrite)

/-- Settles O32: a row is read and written by accesses that are not barred; a gang's failing members are told one by one; and a sum of
one product or one group more is one step more. -/
theorem matrixRowsAndColumnSums : Obligations.MatrixRowsAndColumnSums := by
  unfold Obligations.MatrixRowsAndColumnSums
  refine ⟨?_, ?_, fun a w x y k h => sumCols_fused_append x y k h, fun a w x y k e h hwhole hx hy hk => sumCols_groups_append h hwhole hx hy hk⟩
  · intro s die n unit slot i a x row o hwf ha hbrake hhead hop hgang hacc hk hmay hpoison hjob hdam hin hadmitIn hrow hclean hout hbank
      hone hadmitOut
    subst ha
    have hread := arrayRead_admitted hjob hdam hin hadmitIn
    rw [hrow, hclean] at hread
    have hslot : (arrayAt s.m die n).job.getD 16 = slot := by rw [hjob]; rfl
    have hwrite := unitWrite_bank hbank hone hadmitOut
    have hexec : exec (.matmul die n unit) s = .next { s with m := matmul die n unit s.m } := onDev_next _ s hwf
    rw [matmul_row hbrake hhead hop hgang hacc hk hmay hpoison hread hout (hslot ▸ hwrite)] at hexec
    have harray := arrayAt_updArray_same { s.m with mem := memWrite s.m.mem (wAddr x.d.w3) o.1 } die n
      (streamed i x { o.2 with poison := false })
    refine ⟨_, hexec, memByte_memWrite_in s.m.mem _ o.1, memByte_memWrite_out s.m.mem _ o.1, harray, ?_,
      fun d k hother => arrayAt_updArray_other _ _ hother, rfl⟩
    exact (congrArg (fun a : MArray => a.held[i]?) harray).trans (streamed_held _ (headFill_some hhead).1)
  · intro s die n unit p q l hwf
    have hexec : exec (.matmul die n unit) s = .next { s with m := matmul die n unit s.m } := onDev_next _ s hwf
    refine ⟨fun hbrake => ?_, fun hbrake hstream hq hkey => ?_⟩
    · rw [matmul_braked die n unit hbrake] at hexec
      exact hexec
    · rw [matmul_mismatch hbrake hstream hq hkey] at hexec
      obtain ⟨arrays, es, hlen, hframe⟩ := foldl_gangFails_frame die (p :: l) s.m
      refine ⟨_, hexec, foldl_gangFails_mismatch die (p :: l) s.m, ?_, ?_⟩
      · rw [hframe, ← hlen]
        exact List.length_append
      · rw [hframe]

end Sys2Proof.Machine
end

section
/-! PROOFS of the family 04_matrix_arrays: how the instructions of an array fill, stream, complete and are counted, and how an array ramps
down (R169, R172, R176, R178, R182, R184, R227). -/

namespace Sys2Proof.Machine

section
variable {m : Dev} {die n i : Nat} {x : Rel}

/-! ### Shape and weight buffers (R169, R172, R178) -/

/-- R178: an array that holds only an instruction of another shape takes that shape. -/
theorem shapeChange_eq (hheld : (arrayAt m die n).held = [x]) (hstage : x.stage = .shape) :
    shapeChange die n m
      = updArray m die n (fun a => releaseAll { a with shape := dShape x.d, held := [{ x with stage := startStage x.d }] }) := by
  simp only [shapeChange, hheld, if_pos hstage]

/-- R169: a weight operand whose rows are all read without poison is its rows, each padded. -/
theorem weightRead_admitted {d : Desc} {w : Nat} {row : Nat → List Byte} (hread : ∀ r < weightRows d, arrayRead die n
      (wAddr d.w2 + r * wPitch d.w2) (if r < depthOf d then packedBytes (dWfmt d) w else w) m = (row r, false, m)) :
    weightRead die n d w m = ((List.range (weightRows d)).flatMap (fun r => padTo (weightRow d w) (row r)), false, m) := by
  rw [weightRead]
  generalize weightRows d = k at hread
  induction k with
  | zero => rfl
  | succ k ih =>
    rw [List.range_succ, List.foldl_append, ih fun r hr => hread r (by omega), List.flatMap_append]
    simp only [List.foldl_cons, List.foldl_nil, hread k (by omega), Bool.or_false, List.flatMap_cons, List.flatMap_nil, List.append_nil]

/-- R169: the oldest weight buffer that fills is full. -/
theorem fillDone_eq {l : List Byte} (hfind : (List.range (arrayAt m die n).held.length).find? (mayFill (arrayAt m die n)) = some i)
    (hx : (arrayAt m die n).held[i]? = some x)
    (hread : weightRead die n x.d (unitCols (arrayAt m die n) (dShape x.d) x.unit).length m = (l, false, m)) :
    fillDone die n m = updArray m die n (fun a => { a with
      held := a.held.set i { x with stage := .filled, weights := l, poison := false } }) := by
  simp only [fillDone, hfind, hx, hread]

/-! ### DITHER and the ramp (R182, R184) -/

theorem dither_eq (hbrake : m.power.brake = false) (hhead : headDither (arrayAt m die n) = some (i, x)) :
    dither die n m = updArray m die n (streamed i x {}) := by
  simp only [dither, hbrake, hhead, Bool.false_eq_true, if_false]

/-- The DITHER that heads a sub-unit is one that its array holds. -/
theorem headDither_some {a : MArray} (h : headDither a = some (i, x)) : a.held[i]? = some x := by
  obtain ⟨_, _, hhead⟩ := List.mem_filterMap.mp (List.mem_of_find?_eq_some h)
  exact (headFill_some hhead).1

theorem rampDown_eq (hbrake : m.power.brake = false) (hrows : rowsWait m die n = false) :
    rampDown die n m
      = updArray m die n (fun a => if a.ramped then { a with ramped := false, active := (a.active + 32) % 2 ^ 64 } else a) := by
  simp only [rampDown, hbrake, hrows, Bool.or_false, Bool.false_eq_true, if_false]

/-! ### Completion (R176, R178, R227) -/

/-- R176: an array after its instruction `x` of a sub-unit completes, which is the one at index `i` of those it holds. -/
def completed (unit i : Nat) (x : Rel) (a : MArray) : MArray := { a with
  held := a.held.eraseIdx i, done := tmod [] a.done unit (· ++ [x.flags]), sticky := orFlags a.sticky x.flags, lastTag := dTag x.d }

section
variable {unit : Nat} (hfind : (arrayAt m die n).held.findIdx? (fun x => decide (x.unit = unit)) = some i)
  (hx : (arrayAt m die n).held[i]? = some x)
include hfind hx

/-- R176: an instruction whose rows are not all in does not complete. -/
theorem instrDone_early (h : x.stage ≠ .streamed) : instrDone die n unit m = m := by
  simp only [instrDone, hfind, hx, if_neg h]

/-- R176: the oldest instruction of a sub-unit completes, and its flags are counted. -/
theorem instrDone_eq (h : x.stage = .streamed) :
    instrDone die n unit m
      = updArray (stepNonfinite die ((arrayAt m die n).job.getD 16) x.flags m) die n (completed unit i x) := by
  simp only [instrDone, hfind, hx, if_pos h]
  rfl

end

section
variable (die slot : Nat) (fl : Flags3)

/-- R227: the flag of a learning step is a part of its job. -/
theorem stepNonfinite_frame (m : Dev) : ∃ jobs, stepNonfinite die slot fl m = { m with jobs := jobs } := by
  unfold stepNonfinite
  split
  · split
    · exact ⟨_, rfl⟩
    · exact ⟨m.jobs, rfl⟩
  · exact ⟨m.jobs, rfl⟩

theorem arrayAt_stepNonfinite (m : Dev) (d k : Nat) : arrayAt (stepNonfinite die slot fl m) d k = arrayAt m d k := by
  obtain ⟨jobs, h⟩ := stepNonfinite_frame die slot fl m
  rw [h]
  rfl

theorem stepNonfinite_finite {m : Dev} {fl : Flags3} (h : fl.nonfinite = false) : stepNonfinite die slot fl m = m := by
  unfold stepNonfinite
  split
  · simp [h]
  · rfl

/-- R227: a NaN or an infinity of a backward or weight-gradient item sets the flag. -/
theorem jobAt_stepNonfinite {m : Dev} {j : Job} {fl : Flags3} (hj : jobAt m slot = some j) (hfl : fl.nonfinite = true)
    (hkind : 2 ≤ (tget {} j.learn.stages die).kind) :
    jobAt (stepNonfinite die slot fl m) slot = some { j with learn := { j.learn with flagNonfinite := true } } := by
  simp only [stepNonfinite, hj, hfl, hkind, decide_true, Bool.and_self, if_true, jobAt_updJob_same, Option.map_some]

end

end

/-! ### The obligation -/

/-- Settles O33: each row of an array is one change of that array, which the lemmas above name case by case. -/
theorem arrayInstructionsGoOn : Obligations.ArrayInstructionsGoOn := by
  unfold Obligations.ArrayInstructionsGoOn
  refine ⟨fun a d l hq hnone => ⟨releaseOne_shape hq hnone, releaseOne_starts hq hnone, releaseOne_full hq hnone⟩, ?_⟩
  intro s die n a ha hdie hn only
  subst ha
  have honly : ∀ f : MArray → MArray, only { s with m := updArray s.m die n f } := fun f =>
    ⟨fun d k h => arrayAt_updArray_other s.m f h, rfl⟩
  have hwf : boundsWf [(die, 8), (n, 48)] = true := by simp [boundsWf, hdie, hn]
  refine ⟨?_, ?_, ?_, ?_, ?_⟩
  · intro x hheld hstage
    have hexec : exec (.arrayShapeChange die n) s = .next { s with m := shapeChange die n s.m } := onDev_next _ s hwf
    rw [shapeChange_eq hheld hstage] at hexec
    exact ⟨_, hexec, honly _, arrayAt_updArray_same ..⟩
  · intro i x slot w hfind hx hjob hw hdam len hlen hrows
    subst hw
    have hread := weightRead_admitted (m := s.m) (die := die) (n := n) (d := x.d) (w := (unitCols (arrayAt s.m die n) (dShape x.d) x.unit).length)
      (row := fun r => memRead s.m.mem (wAddr x.d.w2 + r * wPitch x.d.w2) (len r)) fun r hr => by
        obtain ⟨hone, hadmit, hclean⟩ := hrows r hr
        rw [hlen, arrayRead_admitted hjob hdam hone hadmit, hclean]
    have hexec : exec (.arrayFillDone die n) s = .next { s with m := fillDone die n s.m } := onDev_next _ s hwf
    rw [fillDone_eq hfind hx hread] at hexec
    exact ⟨_, hexec, honly _, arrayAt_updArray_same ..⟩
  · intro i x hbrake hhead
    have hexec : exec (.dither die n) s = .next { s with m := dither die n s.m } := onDev_next _ s hwf
    rw [dither_eq hbrake hhead] at hexec
    have harray := arrayAt_updArray_same s.m die n (streamed i x {})
    exact ⟨_, hexec, honly _, harray, (congrArg (fun a : MArray => a.held[i]?) harray).trans (streamed_held _ (headDither_some hhead))⟩
  · intro unit i x hunit hfind hx
    have hexec : exec (.arrayInstrDone die n unit) s = .next { s with m := instrDone die n unit s.m } :=
      onDev_next _ s (by simp [Instr.wf, boundsWf, hdie, hn, hunit])
    refine ⟨fun hstage => ?_, fun hstage => ?_⟩
    · rw [instrDone_early hfind hx hstage] at hexec
      exact hexec
    · rw [instrDone_eq hfind hx hstage] at hexec
      have harray : arrayAt (updArray (stepNonfinite die ((arrayAt s.m die n).job.getD 16) x.flags s.m) die n (completed unit i x)) die n
          = completed unit i x (arrayAt s.m die n) := by
        rw [arrayAt_updArray_same, arrayAt_stepNonfinite]
      refine ⟨_, hexec, ?_, fun u hu => ?_, ?_, fun d k hother => ?_, fun hfinite => ?_, fun slot j hjob hj hnonfinite hkind => ?_, ?_⟩
      · rw [harray, completed, tget_tmod, if_pos rfl]
      · rw [harray, completed, tget_tmod, if_neg hu]
      · rw [harray]
        rfl
      · rw [arrayAt_updArray_other _ _ hother, arrayAt_stepNonfinite]
      · rw [updArray_jobs, stepNonfinite_finite _ _ hfinite]
      · have hslot : (arrayAt s.m die n).job.getD 16 = slot := by rw [hjob]; rfl
        rw [hslot]
        exact jobAt_stepNonfinite die slot hj hnonfinite hkind
      · obtain ⟨jobs, hjobs⟩ := stepNonfinite_frame die ((arrayAt s.m die n).job.getD 16) x.flags s.m
        rw [hjobs]
        rfl
  · intro hramped hbrake hrows
    have hexec : exec (.arrayRampDown die n) s = .next { s with m := rampDown die n s.m } := onDev_next _ s hwf
    rw [rampDown_eq hbrake hrows] at hexec
    exact ⟨_, hexec, honly _, (arrayAt_updArray_same ..).trans (if_pos hramped)⟩

end Sys2Proof.Machine
end

section
/-! PROOFS of the family 04_matrix_arrays: columns that fail their parity, and the end of an array self-test (R184, R187 to R189). -/

namespace Sys2Proof.Machine

/-! ### Poison marks that stand in memory (R304) -/

theorem memPoisoned_iff (m : Mem) (a n : Nat) :
    memPoisoned m a n = true ↔ ∃ b, (b, true) ∈ m.poison ∧ a / 64 ≤ b ∧ b * 64 < a + n := by
  simp [memPoisoned, and_comm, and_assoc]

theorem memPoison_frame (m : Mem) (a n : Nat) : ∃ marks, memPoison m a n = { m with poison := marks } := by
  unfold memPoison
  split
  · exact ⟨m.poison, rfl⟩
  · exact ⟨_, rfl⟩

/-- R304: bytes that have been poisoned are. -/
theorem memPoisoned_memPoison (m : Mem) (a : Nat) {n : Nat} (hn : 0 < n) : memPoisoned (memPoison m a n) a n = true := by
  rw [memPoisoned_iff, memPoison, if_neg (by omega)]
  refine ⟨a / 64, ?_, Nat.le_refl _, by omega⟩
  exact List.mem_append_left _ (List.mem_append_right _ (List.mem_map.mpr ⟨0, List.mem_range.mpr (by omega), rfl⟩))

/-- A block that is poisoned stays so when others are. -/
theorem mark_memPoison {m : Mem} {b : Nat} (a n : Nat) (h : (b, true) ∈ m.poison) : (b, true) ∈ (memPoison m a n).poison := by
  unfold memPoison
  split
  next => exact h
  next =>
    rcases lt_or_ge b (a / 64) with hlow | hge
    · exact List.mem_append_left _ (List.mem_append_left _ (List.mem_filter.mpr ⟨h, decide_eq_true hlow⟩))
    · rcases lt_or_ge b (a / 64 + ((a + n - 1) / 64 + 1 - a / 64)) with hin | hhigh
      · refine List.mem_append_left _ (List.mem_append_right _ (List.mem_map.mpr ⟨b - a / 64, List.mem_range.mpr (by omega), ?_⟩))
        rw [Nat.add_sub_cancel' hge]
      · exact List.mem_append_right _ (List.mem_filter.mpr ⟨h, decide_eq_true hhigh⟩)

theorem memPoisoned_memPoison_keeps {m : Mem} {a n : Nat} (b k : Nat) (h : memPoisoned m a n = true) :
    memPoisoned (memPoison m b k) a n = true := by
  rw [memPoisoned_iff] at h ⊢
  obtain ⟨c, hmem, hc⟩ := h
  exact ⟨c, mark_memPoison b k hmem, hc⟩

section
variable (f : Nat → Nat) (n : Nat) (l : List Nat)

theorem foldl_memPoison_frame (m : Mem) : ∃ marks, l.foldl (fun x k => memPoison x (f k) n) m = { m with poison := marks } := by
  refine List.foldlRecOn l _ (motive := fun x : Mem => ∃ marks, x = { m with poison := marks }) ⟨m.poison, rfl⟩ ?_
  rintro _ ⟨marks, rfl⟩ k _
  obtain ⟨marks', h⟩ := memPoison_frame { m with poison := marks } (f k) n
  exact ⟨marks', h⟩

/-- Of several runs that have been poisoned each one is. -/
theorem memPoisoned_foldl {n : Nat} (hn : 0 < n) (m : Mem) {k : Nat} (hk : k ∈ l) :
    memPoisoned (l.foldl (fun x k => memPoison x (f k) n) m) (f k) n = true := by
  induction l generalizing m with
  | nil => cases hk
  | cons j l ih =>
    rcases List.mem_cons.mp hk with rfl | hk
    · exact List.foldlRecOn l _ (motive := fun x => memPoisoned x (f k) n = true) (memPoisoned_memPoison m (f k) hn)
        fun _ h b _ => memPoisoned_memPoison_keeps _ _ h
    · exact ih _ hk

end

theorem outBytes_pos (d : Desc) : 0 < outBytes d := by
  unfold outBytes
  split <;> decide

/-! ### The blocks of a column (R188) -/

section
variable (die n : Nat) (d : Desc) (j row : Nat) (m : Dev)

theorem poisonColumn_frame : ∃ marks, poisonColumn die n d j row m = { m with mem := { m.mem with poison := marks } } := by
  obtain ⟨marks, h⟩ := foldl_memPoison_frame (fun k => wAddr d.w3 + k * wPitch d.w3 + j * outBytes d) (outBytes d)
    ((List.range (dK d)).filter (fun k => decide (row ≤ k) && !barred m (maUnit die n) ((arrayAt m die n).job.getD 16)
      (wAddr d.w3 + k * wPitch d.w3 + j * outBytes d) (outBytes d) 1)) m.mem
  exact ⟨marks, congrArg (fun x => { m with mem := x }) h⟩

/-- R188: from the failing row on, a block that the array may write is poisoned. -/
theorem poisonColumn_marks {k : Nat} (hfrom : row ≤ k) (hk : k < dK d) (hmay : barred m (maUnit die n) ((arrayAt m die n).job.getD 16)
      (wAddr d.w3 + k * wPitch d.w3 + j * outBytes d) (outBytes d) 1 = false) :
    memPoisoned (poisonColumn die n d j row m).mem (wAddr d.w3 + k * wPitch d.w3 + j * outBytes d) (outBytes d) = true := by
  refine memPoisoned_foldl (fun k => wAddr d.w3 + k * wPitch d.w3 + j * outBytes d) _ (outBytes_pos d) m.mem
    (List.mem_filter.mpr ⟨List.mem_range.mpr hk, ?_⟩)
  simp [hfrom, hmay]

end

/-! ### Columns that become pending (R189) -/

section
variable {m : Dev} {die n col : Nat}

/-- R189: a column that is pending or bypassed is not entered again. -/
theorem columnPending_known (h : col ∈ tget [] m.sys.colRecord (die * 48 + n) ∨ col ∈ (arrayAt m die n).bad) :
    columnPending die n col m = m := if_pos h

/-- R189: another column is entered, and told with an event. -/
theorem columnPending_new (h : ¬(col ∈ tget [] m.sys.colRecord (die * 48 + n) ∨ col ∈ (arrayAt m die n).bad)) :
    ∃ e, columnPending die n col m = { updArray m die n (fun a => { a with pend := a.pend.or (some col) }) with
      sys := { m.sys with colRecord := tset [] m.sys.colRecord (die * 48 + n) (tget [] m.sys.colRecord (die * 48 + n) ++ [col]) }
      ctl := { m.ctl with evq := m.ctl.evq ++ [e] } } := ⟨_, if_neg h⟩

theorem arrayAt_columnPending_new (h : ¬(col ∈ tget [] m.sys.colRecord (die * 48 + n) ∨ col ∈ (arrayAt m die n).bad)) (d k : Nat) :
    arrayAt (columnPending die n col m) d k = arrayAt (updArray m die n (fun a => { a with pend := a.pend.or (some col) })) d k := by
  obtain ⟨_, hnew⟩ := columnPending_new h
  rw [hnew]
  rfl

variable (m die n col)

theorem columnPending_frame : ∃ arrays record evq, columnPending die n col m = { m with
    arrays := arrays, sys := { m.sys with colRecord := record }, ctl := { m.ctl with evq := evq } } := by
  by_cases h : col ∈ tget [] m.sys.colRecord (die * 48 + n) ∨ col ∈ (arrayAt m die n).bad
  · exact ⟨m.arrays, m.sys.colRecord, m.ctl.evq, columnPending_known h⟩
  · obtain ⟨_, hnew⟩ := columnPending_new h
    exact ⟨_, _, _, hnew⟩

/-- Only what is pending of an array changes. -/
theorem arrayAt_columnPending (d k : Nat) : ∃ pend, arrayAt (columnPending die n col m) d k = { arrayAt m d k with pend := pend } := by
  by_cases h : col ∈ tget [] m.sys.colRecord (die * 48 + n) ∨ col ∈ (arrayAt m die n).bad
  · exact ⟨(arrayAt m d k).pend, by rw [columnPending_known h]⟩
  · rw [arrayAt_columnPending_new h, arrayAt_updArray]
    split
    next heq => exact ⟨_, by rw [arrayAt, arrayAt, heq]⟩
    next => exact ⟨(arrayAt m d k).pend, rfl⟩

variable {m die n col}

/-- R189: a column that is neither pending nor bypassed becomes pending. -/
theorem columnPending_enters (hnew : col ∉ tget [] m.sys.colRecord (die * 48 + n)) (hbad : col ∉ (arrayAt m die n).bad) :
    col ∈ tget [] (columnPending die n col m).sys.colRecord (die * 48 + n)
      ∧ (arrayAt (columnPending die n col m) die n).pend = (arrayAt m die n).pend.or (some col) := by
  have hneither := not_or.mpr ⟨hnew, hbad⟩
  refine ⟨?_, by rw [arrayAt_columnPending_new hneither, arrayAt_updArray_same]⟩
  obtain ⟨_, h⟩ := columnPending_new hneither
  rw [h, tget_tset, if_pos rfl]
  exact List.mem_append_right _ (List.mem_singleton_self col)

/-- What has been entered stays. -/
theorem columnPending_keeps {b k : Nat} (h : b ∈ tget [] m.sys.colRecord k) : b ∈ tget [] (columnPending die n col m).sys.colRecord k := by
  by_cases hknown : col ∈ tget [] m.sys.colRecord (die * 48 + n) ∨ col ∈ (arrayAt m die n).bad
  · rw [columnPending_known hknown]
    exact h
  · obtain ⟨_, hnew⟩ := columnPending_new hknown
    rw [hnew, tget_tset]
    split
    next heq =>
      subst heq
      exact List.mem_append_left _ h
    next => exact h

/-- R187, R189: a column that is not bypassed is pending after it has been entered. -/
theorem columnPending_stands (hbad : col ∉ (arrayAt m die n).bad) :
    col ∈ tget [] (columnPending die n col m).sys.colRecord (die * 48 + n) := by
  by_cases hold : col ∈ tget [] m.sys.colRecord (die * 48 + n)
  · exact columnPending_keeps hold
  · exact (columnPending_enters hold hbad).1

end

/-! ### A column that fails its parity (R184, R188, R189) -/

/-- R188: an array after column `col` has failed under its instruction `x`, the one at index `i` of those it holds; `mul` tells that
the instruction has an output. -/
def parityNoted (col i : Nat) (x : Rel) (mul : Bool) (a : MArray) : MArray := { a with
  held := if mul then a.held.set i { x with flags := { x.flags with poison := true } } else a.held
  parity := true, sticky := { a.sticky with poison := a.sticky.poison || mul }
  parityCount := sat 16 (a.parityCount + 1), lastCol := col, failedCols := a.failedCols ++ [col] }

/-- R188: the module after the failure has been counted and told, before R189 makes the column pending. -/
def parityTold (die n col row i j : Nat) (x : Rel) (win : List (List Nat)) (e : Option Nat × Event) (m : Dev) : Dev :=
  { updArray m die n (parityNoted col i x (decide (dOp x.d = 1))) with
    mem := if dOp x.d = 1 then (poisonColumn die n x.d j row m).mem else m.mem
    sys := { m.sys with riskWin := win }
    ctl := { m.ctl with evq := m.ctl.evq ++ [e] } }

theorem arrayAt_parityTold (die n col row i j : Nat) (x : Rel) (win : List (List Nat)) (e : Option Nat × Event) (m : Dev) :
    arrayAt (parityTold die n col row i j x win e m) die n = parityNoted col i x (decide (dOp x.d = 1)) (arrayAt m die n) :=
  arrayAt_updArray_same ..

section
variable {m : Dev} {die n unit col i j : Nat} {x : Rel} (row : Nat)
  (hfind : (arrayAt m die n).held.findIdx? (fun x => decide (x.unit = unit) && decide (x.stage = .streamed) && !x.void) = some i)
  (hx : (arrayAt m die n).held[i]? = some x) (hj : (unitCols (arrayAt m die n) (dShape x.d) unit).idxOf? col = some j)
include hfind hx hj

/-- R188, R189: a failure is told, and the second of a column in one stroke makes it pending. -/
theorem parityFail_eq :
    ∃ win e, parityFail die n unit col row m
      = if col ∈ (arrayAt m die n).failedCols then columnPending die n col (parityTold die n col row i j x win e m)
        else parityTold die n col row i j x win e m := by
  simp only [parityFail, hfind, hx, hj, decide_eq_true_eq]
  by_cases hop : dOp x.d = 1
  · obtain ⟨marks, hmarks⟩ := poisonColumn_frame die n x.d j row m
    simp only [parityTold, hop, if_true, hmarks]
    exact ⟨_, _, rfl⟩
  · simp only [parityTold, hop, if_false]
    exact ⟨_, _, rfl⟩

/-- All that a failure changes, whether the column becomes pending or not. -/
theorem parityFail_frame :
    (∃ pend, arrayAt (parityFail die n unit col row m) die n
      = { parityNoted col i x (decide (dOp x.d = 1)) (arrayAt m die n) with pend := pend })
    ∧ (parityFail die n unit col row m).mem = (if dOp x.d = 1 then (poisonColumn die n x.d j row m).mem else m.mem)
    ∧ ∃ arrays win record evq, parityFail die n unit col row m = { m with
        arrays := arrays, mem := if dOp x.d = 1 then (poisonColumn die n x.d j row m).mem else m.mem
        sys := { m.sys with riskWin := win, colRecord := record }, ctl := { m.ctl with evq := evq } } := by
  obtain ⟨win, e, hfail⟩ := parityFail_eq row hfind hx hj
  have hnoted := arrayAt_parityTold die n col row i j x win e m
  rw [hfail]
  split
  next =>
    obtain ⟨pend, harray⟩ := arrayAt_columnPending (parityTold die n col row i j x win e m) die n col die n
    obtain ⟨arrays, record, evq, hframe⟩ := columnPending_frame (parityTold die n col row i j x win e m) die n col
    refine ⟨⟨pend, by rw [harray, hnoted]⟩, ?_, arrays, win, record, evq, hframe⟩
    rw [hframe]
    rfl
  next => exact ⟨⟨(arrayAt m die n).pend, hnoted⟩, rfl, _, win, m.sys.colRecord, _, rfl⟩

end

/-! ### The end of a self-test (R187) -/

/-- A column of a self-test's result, entered as R189 has it. -/
def enterCol (m : Dev) (c : Nat) : Dev := columnPending (c / 256 / 48) (c / 256 % 48) (c % 256) m

/-- Counting the columns of a self-test leaves what R189 does with each. -/
theorem selftestCol_dev (x : Nat × List Nat × Dev) (c : Nat) : (selftestCol x c).2.2 = enterCol x.2.2 c := by
  by_cases h : c % 256 ∈ tget [] x.2.2.sys.colRecord (c / 256) ∨ c % 256 ∈ (tget {} x.2.2.arrays (c / 256)).bad
  · have hknown : enterCol x.2.2 c = x.2.2 := columnPending_known (by rw [arrayAt, Nat.div_add_mod']; exact h)
    rw [hknown]
    simp only [selftestCol, ← Bool.decide_or, decide_eq_true h, if_true]
  · simp only [selftestCol, ← Bool.decide_or, decide_eq_false h, Bool.false_eq_true, if_false, enterCol]

theorem foldl_selftestCol_dev (l : List Nat) (x : Nat × List Nat × Dev) : (l.foldl selftestCol x).2.2 = l.foldl enterCol x.2.2 := by
  induction l generalizing x with
  | nil => rfl
  | cons c l ih => rw [List.foldl_cons, ih, selftestCol_dev, List.foldl_cons]

theorem foldl_enterCol_frame (l : List Nat) (m : Dev) : ∃ arrays record evq, l.foldl enterCol m = { m with
    arrays := arrays, sys := { m.sys with colRecord := record }, ctl := { m.ctl with evq := evq } } := by
  refine List.foldlRecOn l _ (motive := fun t : Dev => ∃ arrays record evq, t = { m with
    arrays := arrays, sys := { m.sys with colRecord := record }, ctl := { m.ctl with evq := evq } }) ⟨_, _, _, rfl⟩ ?_
  rintro _ ⟨_, _, _, rfl⟩ c _
  obtain ⟨arrays, record, evq, h⟩ := columnPending_frame _ (c / 256 / 48) (c / 256 % 48) (c % 256)
  exact ⟨arrays, record, evq, h⟩

theorem bad_enterCol (m : Dev) (b d k : Nat) : (arrayAt (enterCol m b) d k).bad = (arrayAt m d k).bad := by
  obtain ⟨pend, h⟩ := arrayAt_columnPending m (b / 256 / 48) (b / 256 % 48) (b % 256) d k
  rw [enterCol, h]

/-- R187: each column that is not bypassed is pending once all have been entered. -/
theorem foldl_enterCol_stands (l : List Nat) (m : Dev) {c : Nat} (hc : c ∈ l)
    (hbad : c % 256 ∉ (arrayAt m (c / 256 / 48) (c / 256 % 48)).bad) :
    c % 256 ∈ tget [] (l.foldl enterCol m).sys.colRecord (c / 256) := by
  induction l generalizing m with
  | nil => cases hc
  | cons b l ih =>
    rcases List.mem_cons.mp hc with rfl | hc
    · have hentered := columnPending_stands hbad
      rw [Nat.div_add_mod'] at hentered
      exact List.foldlRecOn l _ (motive := fun m : Dev => c % 256 ∈ tget [] m.sys.colRecord (c / 256)) hentered
        fun _ h _ _ => columnPending_keeps h
    · exact ih (enterCol m b) hc (by rw [bad_enterCol]; exact hbad)

/-- R187: the end of a self-test of the dies `die`. -/
theorem selftestDone_eq {m : Dev} {die mb : Nat} (fails : List Nat) (h : m.sys.selftest = some (die, mb)) :
    ∃ f, selftestDone fails m = finishWaits ((selftestHits die fails).foldl enterCol (updSys m (fun s => { s with selftest := none })))
      (fun w => decide (w = .selftest)) f := by
  simp only [selftestDone, h, foldl_selftestCol_dev]
  exact ⟨_, rfl⟩

/-- What waits no longer is not among what waits. -/
theorem finishWaits_waits (m : Dev) (why : WaitFor) (f : Reply → Reply) :
    ∀ w ∈ (finishWaits m (fun w => decide (w = why)) f).ctl.waits, w.why ≠ why := by
  intro w hw
  simpa using (List.mem_filter.mp hw).2

/-! ### The obligation -/

/-- Settles O34: a failure poisons, counts and tells, and what makes a column pending keeps all of that; a self-test enters its columns
one by one, and none is taken back. -/
theorem columnParityAndSelfTest : Obligations.ColumnParityAndSelfTest := by
  unfold Obligations.ColumnParityAndSelfTest
  refine ⟨?_, ?_⟩
  · intro s die n unit col row i j a x d hwf ha hfind hx hd hj
    subst ha hd
    have hexec : exec (.columnParityFail die n unit col row) s = .next { s with m := parityFail die n unit col row s.m } :=
      onDevW_next _ s hwf
    obtain ⟨win, e, hfail⟩ := parityFail_eq row hfind hx hj
    obtain ⟨⟨pend, harray⟩, hmem, arrays, win', record, evq, hframe⟩ := parityFail_frame row hfind hx hj
    obtain ⟨marks, hmarks⟩ := poisonColumn_frame die n x.d j row s.m
    have hnoted := arrayAt_parityTold die n col row i j x win e s.m
    refine ⟨_, hexec, ?_, ?_, ?_, fun hop => ⟨?_, ?_, fun k hfrom hk hmay => ?_⟩, fun hop => ⟨?_, ?_, ?_⟩, ?_, fun hfirst => ?_,
      fun hagain hnew hbad => ?_, ?_⟩
    · rw [harray]; rfl
    · rw [harray]; rfl
    · rw [harray]; rfl
    · rw [harray]
      simp [parityNoted, hop]
    · rw [harray]
      simp [parityNoted, hop]
    · rw [hmem, if_pos hop]
      exact poisonColumn_marks die n x.d j row s.m hfrom hk hmay
    · rw [harray]
      simp [parityNoted, hop]
    · rw [harray]
      simp [parityNoted, hop]
    · rw [hmem, if_neg hop]
    · rw [hmem, hmarks]
      split <;> rfl
    · rw [hfail, if_neg hfirst]
      exact ⟨rfl, (congrArg MArray.pend hnoted).trans rfl⟩
    · rw [hfail, if_pos hagain]
      obtain ⟨hrecord, hpend⟩ := columnPending_enters (m := parityTold die n col row i j x win e s.m) hnew (by rw [hnoted]; exact hbad)
      exact ⟨hrecord, hpend.trans (by rw [hnoted]; rfl)⟩
    · rw [hframe, hmarks]
      split <;> rfl
  · intro s die mb fails hwf hrun
    have hexec : exec (.selftestDone fails) s = .next { s with m := selftestDone fails s.m } := onDevW_next _ s hwf
    obtain ⟨f, hdone⟩ := selftestDone_eq fails hrun
    rw [hdone] at hexec
    obtain ⟨arrays, record, evq, hframe⟩ := foldl_enterCol_frame (selftestHits die fails) (updSys s.m (fun s => { s with selftest := none }))
    refine ⟨_, hexec, ?_, fun c hc hlt hdie hbad => ?_, finishWaits_waits _ _ _, ?_, ?_, rfl⟩
    · rw [hframe]; rfl
    · refine foldl_enterCol_stands _ (updSys s.m _) (List.mem_filter.mpr ⟨hc, ?_⟩) hbad
      simp only [Bool.and_eq_true, Bool.or_eq_true, decide_eq_true_eq]
      exact ⟨hlt, hdie⟩
    · rw [hframe]; rfl
    · rw [hframe]; rfl

end Sys2Proof.Machine
end

section
/-! PROOFS of the family 05_numerics: how a team issues an instruction, and what it reads of its registers afterwards (R246, R249 to R251). -/

namespace Sys2Proof.Machine

/-! ### Registers of a team -/

theorem VeF.bounds {f : VeF} (h : f.wf = true) : f.die < 8 ∧ f.ve < 128 ∧ f.team < 32 ∧ f.rd < 32 ∧ f.ra < 32 := by
  simp only [VeF.wf, Bool.and_eq_true, decide_eq_true_eq] at h
  omega

theorem vGet_vPut (t : Team) (lane x l : Nat) (p : Bool) {r k : Nat} (hr : r < 32) (hk : k < 32) :
    vGet (vPut t lane r x p) l k = if k = r ∧ l = lane then x % 2 ^ 32 else vGet t l k := by
  have hkey : l * 32 + k = lane * 32 + r ↔ k = r ∧ l = lane := by omega
  simp only [vGet, vPut, tfind_tput, hkey]
  by_cases h : k = r ∧ l = lane
  · simp only [if_pos h, BitVec.toNat_ofNat]
  · simp only [if_neg h]

theorem uGet_tput (t : Team) (r x k : Nat) : uGet { t with u := tput t.u r x } k = if k = r then x else uGet t k := by
  simp only [uGet, tfind_tput]
  split <;> rfl

theorem mem_lanesOn {t : Team} {f : VeF} {l : Nat} : l ∈ lanesOn t f ↔ l < 64 ∧ guardOn t f l = true := by
  simp [lanesOn]

theorem lanesOn_isEmpty_iff {t : Team} {f : VeF} : (lanesOn t f).isEmpty = true ↔ ¬∃ l < 64, guardOn t f l = true := by
  simp [lanesOn, List.filter_eq_nil_iff]

theorem lanesOn_nodup (t : Team) (f : VeF) : (lanesOn t f).Nodup := List.nodup_range.filter _

/-! ### Issue and retirement -/

theorem pcPlus_eight (t : Team) : pcPlus t 8 = (t.pc + 8) % 2 ^ 48 := by
  unfold pcPlus
  omega

/-- A team that is ready and awaits no buffered atomic issues. -/
theorem onDev_team {c : Instr} {s : State} {f : VeF} {t : Team} {srcs : List Nat} {act : Team → Dev → Dev} (hwf : c.wf = true)
    (ht : teamAt s.m f.die f.ve f.team = some t) (hready : t.wait = .ready) (hregs : t.atomRegs = []) :
    onDev c (onTeam f srcs act) s = .next { s with m := act t s.m } := by
  rw [onDev_next _ s hwf]
  simp [onTeam, ht, mayIssue, hready, hregs]

@[simp] theorem teamAt_updVe_same (m : Dev) (die ve k : Nat) (g : VEngine → VEngine) :
    teamAt (updVe m die ve g) die ve k = tfind (g (veAt m die ve)).teams k := by rw [teamAt, veAt_updVe_same]

theorem teamAt_retireAt (f : VeF) (t : Team) (d : Int) (m : Dev) :
    teamAt (retireAt f t d m) f.die f.ve f.team = some { t with pc := pcPlus t d } := by
  simp [retireAt, tfind_tput]

theorem teamAt_retire (f : VeF) (t : Team) (m : Dev) :
    teamAt (retire f t m) f.die f.ve f.team = some { t with pc := (t.pc + 8) % 2 ^ 48 } := by
  rw [← pcPlus_eight]
  exact teamAt_retireAt f t 8 m

/-- What an instruction over the lanes leaves as it was when team `t` has issued it in `s` and stands as `u` in `r`. -/
def LanesIssued (s : State) (f : VeF) (t : Team) (r : State) (u : Team) : Prop :=
  teamAt r.m f.die f.ve f.team = some u ∧ u.pc = (t.pc + 8) % 2 ^ 48
    ∧ (∀ l < 64, (guardOn t f l = false → vGet u l f.rd = vGet t l f.rd) ∧ ∀ k < 32, k ≠ f.rd → vGet u l k = vGet t l k)
    ∧ u.p = t.p ∧ u.job = t.job ∧ r = { s with m := { s.m with ves := r.m.ves, jobs := r.m.jobs, free := r.m.free } }

/-- R250: an instruction that executes as nothing sets ILLEGAL and raises VE_FAULT. -/
theorem illegal_tells (f : VeF) (t : Team) (m : Dev) :
    teamAt (illegal f t m) f.die f.ve f.team = some { t with pc := (t.pc + 8) % 2 ^ 48 }
      ∧ (veAt (illegal f t m) f.die f.ve).illegal = true
      ∧ (∃ e, (illegal f t m).ctl.evq = m.ctl.evq ++ [(none, e)] ∧ e.etype = 0x0B31)
      ∧ illegal f t m = { m with ves := (illegal f t m).ves, ctl := { m.ctl with evq := (illegal f t m).ctl.evq } } := by
  refine ⟨teamAt_retire f t _, ?_, ⟨_, rfl, rfl⟩, rfl⟩
  show (veAt (retire f t _) f.die f.ve).illegal = true
  rw [retire, retireAt, veAt_updVe_same, veAt_updVe_same]

/-! ### Instructions that write RD lane by lane (R250, R251) -/

/-- Team `u` is team `t` after RD of the lanes `done` has been written with the values `val`. -/
structure Wrote (f : VeF) (t : Team) (val : Nat → Nat) (done : List Nat) (u : Team) : Prop where
  reg : ∀ l, ∀ k < 32, vGet u l k = if k = f.rd ∧ l ∈ done then val l % 2 ^ 32 else vGet t l k
  rest : u = { t with v := u.v, vp := u.vp, flags := u.flags }

namespace Wrote

variable {f : VeF} {t u : Team} {val : Nat → Nat} {done : List Nat}

theorem nothing : Wrote f t val [] t := ⟨fun _ _ _ => by simp, rfl⟩

theorem put (h : Wrote f t val done u) (hrd : f.rd < 32) (l : Nat) (p : Bool) (fl : Flags3) :
    Wrote f t val (done ++ [l]) { vPut u l f.rd (val l) p with flags := fl } := by
  refine ⟨fun i k hk => (vGet_vPut u l (val l) i p hrd hk).trans ?_, by rw [h.rest]; rfl⟩
  rw [h.reg i k hk]
  by_cases hi : i = l
  · subst hi
    by_cases hkr : k = f.rd <;> simp [hkr]
  · simp [hi]

theorem flags (h : Wrote f t val done u) (fl : Flags3) : Wrote f t val done { u with flags := fl } :=
  ⟨h.reg, by rw [h.rest]⟩

theorem flagsUnless (h : Wrote f t val done u) (c : Prop) [Decidable c] (fl : Flags3) :
    Wrote f t val done (if c then u else { u with flags := fl }) := by
  split
  · exact h
  · exact h.flags fl

theorem job (h : Wrote f t val done u) : u.job = t.job := by rw [h.rest]

/-- A lane that has not been written yet reads as it did. -/
theorem reads (h : Wrote f t val done u) {l k : Nat} (hl : l ∉ done) (hk : k < 32) : vGet u l k = vGet t l k := by
  rw [h.reg l k hk, if_neg fun hw => hl hw.2]

/-- The instruction's own lane reads its value after the team has gone on. -/
theorem value (h : Wrote f t val (lanesOn t f) u) (hrd : f.rd < 32) (pc : Nat) {l : Nat} (hl : l < 64) (hon : guardOn t f l = true) :
    vGet { u with pc := pc } l f.rd = val l % 2 ^ 32 :=
  (h.reg l f.rd hrd).trans (if_pos ⟨rfl, mem_lanesOn.mpr ⟨hl, hon⟩⟩)

theorem issued (h : Wrote f t val (lanesOn t f) u) (hrd : f.rd < 32) {s : State} {m : Dev}
    (hm : m = { s.m with jobs := m.jobs, free := m.free }) :
    LanesIssued s f t { s with m := retire f u m } { u with pc := (u.pc + 8) % 2 ^ 48 } := by
  refine ⟨teamAt_retire f u m, by rw [h.rest], fun l _ => ⟨fun hoff => ?_, fun k hk hne => ?_⟩, by rw [h.rest], by rw [h.rest],
    by rw [hm]; rfl⟩
  · refine (h.reg l f.rd hrd).trans (if_neg fun hw => ?_)
    exact Bool.false_ne_true (hoff.symm.trans (mem_lanesOn.mp hw.2).2)
  · exact (h.reg l k hk).trans (if_neg fun hw => hne hw.1)

end Wrote

/-- A fold keeps what it has reached on the elements that are done. -/
theorem foldl_invariant {α β : Type} {P : List α → β → Prop} {step : β → α → β} {b : β} (l : List α) (hnodup : l.Nodup) (h : P [] b)
    (hstep : ∀ done a x, P done x → a ∉ done → P (done ++ [a]) (step x a)) : P l (l.foldl step b) := by
  induction l using List.reverseRecOn with
  | nil => exact h
  | append_singleton l a ih =>
    rw [List.foldl_append]
    exact hstep l a _ (ih hnodup.of_append_left) fun ha => List.disjoint_of_nodup_append hnodup ha (List.mem_singleton_self a)

/-- A fold over the guarded lanes each of whose steps writes RD of its lane with a value that the team held before. -/
theorem foldl_wrote {f : VeF} (t : Team) {val : Nat → Nat} {step : Team → Nat → Team} (hrd : f.rd < 32)
    (hstep : ∀ u l, ∃ p fl, step u l = { vPut u l f.rd (val l) p with flags := fl }) :
    Wrote f t val (lanesOn t f) ((lanesOn t f).foldl step t) := by
  refine foldl_invariant (P := Wrote f t val) _ (lanesOn_nodup t f) Wrote.nothing fun done l u h _ => ?_
  obtain ⟨p, fl, hput⟩ := hstep u l
  rw [hput]
  exact h.put hrd l p fl

/-- The same where every guarded lane receives one value. -/
theorem foldl_wrote_const {f : VeF} (t : Team) (hrd : f.rd < 32) (x : Nat) (p : Bool) :
    Wrote f t (fun _ => x) (lanesOn t f) ((lanesOn t f).foldl (fun u l => vPut u l f.rd x p) t) :=
  foldl_wrote t hrd fun u _ => ⟨p, u.flags, rfl⟩

/-! ### Draws of the lanes' generators (R230 to R233) -/

/-- Module `m'` is `m` after generators of the threads of the lanes `done` have drawn for job `j` of a slot. -/
structure Drawn (m : Dev) (slot : Nat) (j : Job) (thread : Nat → Nat) (done : List Nat) (m' : Dev) : Prop where
  rest : m' = { m with jobs := m'.jobs }
  job : ∃ j', jobAt m' slot = some j' ∧ j'.self = j.self ∧ j'.seed = j.seed
    ∧ ∀ T, (∀ l ∈ done, T ≠ thread l) → tget (0, 0) j'.num.gens T = tget (0, 0) j.num.gens T

/-- R230: a draw depends on the job's seed, its position and the generator of the thread. -/
theorem jobDraw_value {i j : Job} {T : Nat} (hself : i.self = j.self) (hseed : i.seed = j.seed)
    (hgen : tget (0, 0) i.num.gens T = tget (0, 0) j.num.gens T) : (jobDraw i T).1 = (jobDraw j T).1 := by
  simp only [jobDraw, hself, hseed, hgen]

theorem tget_gens_jobDraw (j : Job) {T K : Nat} (h : K ≠ T) :
    tget (0, 0) (jobDraw j T).2.num.gens K = tget (0, 0) j.num.gens K := by
  rw [jobDraw, tget_tset, if_neg h]

namespace Drawn

variable {m m' : Dev} {slot : Nat} {j : Job} {thread : Nat → Nat} {done : List Nat}

theorem nothing (h : jobAt m slot = some j) : Drawn m slot j thread [] m := ⟨rfl, j, h, rfl, rfl, fun _ _ => rfl⟩

theorem more (h : Drawn m slot j thread done m') (l : Nat) : Drawn m slot j thread (done ++ [l]) m' := by
  obtain ⟨hrest, i, hi, hself, hseed, hgens⟩ := h
  exact ⟨hrest, i, hi, hself, hseed, fun T hT => hgens T fun k hk => hT k (List.mem_append_left _ hk)⟩

/-- A thread that has not drawn yet draws what it would have drawn first. -/
theorem draw (h : Drawn m slot j thread done m') {l : Nat} (hnew : ∀ k ∈ done, thread l ≠ thread k) :
    (Machine.draw m' slot (thread l)).1 = (jobDraw j (thread l)).1
      ∧ Drawn m slot j thread (done ++ [l]) (Machine.draw m' slot (thread l)).2 := by
  obtain ⟨hrest, i, hi, hself, hseed, hgens⟩ := h
  have hdraw : Machine.draw m' slot (thread l)
      = ((jobDraw i (thread l)).1, { m' with jobs := tput m'.jobs slot (jobDraw i (thread l)).2 }) := by simp only [Machine.draw, hi]
  rw [hdraw]
  refine ⟨jobDraw_value hself hseed (hgens _ hnew), by rw [hrest],
    (jobDraw i (thread l)).2, by rw [jobAt, tfind_tput, if_pos rfl], hself, hseed, fun T hT => ?_⟩
  rw [tget_gens_jobDraw i (hT l (List.mem_append_right _ (List.mem_singleton_self l)))]
  exact hgens T fun k hk => hT k (List.mem_append_left _ hk)

end Drawn

theorem threadIndex_inj {die ve team l k : Nat} (h : threadIndex die ve team l = threadIndex die ve team k) : l = k :=
  Nat.add_left_cancel h

/-- The lanes of a team draw from generators of their own. -/
theorem threadIndex_new {l : Nat} {done : List Nat} (die ve team : Nat) (h : l ∉ done) :
    ∀ k ∈ done, threadIndex die ve team l ≠ threadIndex die ve team k := fun _ hk he => h (threadIndex_inj he ▸ hk)

end Sys2Proof.Machine
end

section
/-! PROOFS of the family 05_numerics: the operations over the lanes of a team (R204, R232, R236, R250). -/

namespace Sys2Proof.Machine

/-! ### Pairwise reduction (R236) -/

section
variable {α β : Type} {op : α → α → α}

theorem length_pairLevel (op : α → α → α) : ∀ l : List α, (pairLevel op l).length = (l.length + 1) / 2
  | [] => by simp [pairLevel]
  | [_] => by simp [pairLevel]
  | a :: b :: l => by
    rw [pairLevel, List.length_cons, length_pairLevel op l, List.length_cons, List.length_cons]
    omega

theorem length_pairTree {l : List α} (h : l.length = 64) : (pairTree op l).length = 1 := by
  simp [pairTree, List.range, List.range.loop, length_pairLevel, h]

/-- What a map makes of the operation, it makes of a level. -/
theorem map_pairLevel {op' : β → β → β} {g : α → β} (hg : ∀ a b, g (op a b) = op' (g a) (g b)) :
    ∀ l : List α, (pairLevel op l).map g = pairLevel op' (l.map g)
  | [] => rfl
  | [_] => rfl
  | a :: b :: l => by
    rw [pairLevel, List.map_cons, map_pairLevel hg l, hg, List.map_cons, List.map_cons, pairLevel]

theorem map_pairTree {op' : β → β → β} {g : α → β} (hg : ∀ a b, g (op a b) = op' (g a) (g b)) (l : List α) :
    (pairTree op l).map g = pairTree op' (l.map g) :=
  (List.foldl_hom (List.map g) (g₁ := fun l _ => pairLevel op l) (g₂ := fun l _ => pairLevel op' l) fun l _ =>
    (map_pairLevel hg l).symm).symm

end

/-- A level whose operation adds modulo `n` keeps the sum modulo `n`. -/
theorem sum_pairLevel {op : Nat → Nat → Nat} {n : Nat} (hop : ∀ a b, op a b ≡ a + b [MOD n]) :
    ∀ l : List Nat, (pairLevel op l).sum ≡ l.sum [MOD n]
  | [] => rfl
  | [_] => rfl
  | a :: b :: l => by
    rw [pairLevel, List.sum_cons, List.sum_cons, List.sum_cons, ← Nat.add_assoc]
    exact (hop a b).add (sum_pairLevel hop l)

/-- R236: the reduction of 64 values by an addition modulo `n` is their sum modulo `n`. -/
theorem pairTree_sum {op : Nat → Nat → Nat} {n : Nat} (hop : ∀ a b, op a b ≡ a + b [MOD n]) {l : List Nat} (h : l.length = 64) :
    (pairTree op l).headD 0 ≡ l.sum [MOD n] := by
  have hsum : (pairTree op l).sum ≡ l.sum [MOD n] :=
    List.foldlRecOn (List.range 6) _ (motive := fun x : List Nat => x.sum ≡ l.sum [MOD n]) rfl
      fun x hx _ _ => (sum_pairLevel hop x).trans hx
  obtain ⟨x, hx⟩ := List.length_eq_one_iff.mp (length_pairTree (op := op) h)
  rw [hx] at hsum ⊢
  simpa using hsum

/-- R236: the value of the lanes' reduction is the reduction of their values. -/
theorem pairTree_lanes {op : LaneOut → LaneOut → LaneOut} {vop : Nat → Nat → Nat} (hop : ∀ a b, (op a b).1 = vop a.1 b.1)
    (val : Nat → Nat) :
    ((pairTree op ((List.range 64).map fun l => (val l, ({} : Flags3)))).headD (0, {})).1
      = (pairTree vop ((List.range 64).map val)).headD 0 := by
  have hmap := map_pairTree (g := Prod.fst) hop ((List.range 64).map fun l => (val l, ({} : Flags3)))
  rw [List.map_map] at hmap
  obtain ⟨x, hx⟩ := List.length_eq_one_iff.mp
    (length_pairTree (op := op) (l := (List.range 64).map fun l => (val l, ({} : Flags3))) (by simp))
  rw [hx] at hmap ⊢
  exact congrArg (fun l => l.headD 0) hmap

/-! ### The instructions -/

/-- What an instruction over the lanes answers when it has written RD with the values `val`; `free` numbers the next free value. -/
def LanesAnswer (s : State) (f : VeF) (t : Team) (val : Nat → Nat) (free : Nat) (o : Host.Outcome State Fault Refusal) : Prop :=
  ∃ r u, o = .next r ∧ LanesIssued s f t r u ∧ u.u = t.u ∧ r.m.free = free
    ∧ ∀ l < 64, guardOn t f l = true → vGet u l f.rd = val l % 2 ^ 32

theorem Wrote.answer {s : State} {f : VeF} {t u : Team} {val : Nat → Nat} (h : Wrote f t val (lanesOn t f) u) (hrd : f.rd < 32) {m : Dev}
    (hm : m = { s.m with jobs := m.jobs, free := m.free }) :
    LanesAnswer s f t val m.free (.next { s with m := retire f u m }) :=
  ⟨_, _, rfl, h.issued hrd hm, by rw [h.rest], rfl, fun _ hl hon => h.value hrd _ hl hon⟩

/-- The same of an instruction whose lanes may also draw: `step` is what it makes of a lane that comes after the lanes `done`. -/
theorem foldl_drew_answer {s : State} {f : VeF} {t : Team} {val : Nat → Nat} {j : Job} {step : Team × Dev → Nat → Team × Dev}
    (hrd : f.rd < 32) (hj : jobAt s.m t.job = some j)
    (hstep : ∀ done l x, l ∉ done → Wrote f t val done x.1 → Drawn s.m t.job j (threadIndex f.die f.ve f.team) done x.2 →
      ∃ p fl, (step x l).1 = { vPut x.1 l f.rd (val l) p with flags := fl }
        ∧ Drawn s.m t.job j (threadIndex f.die f.ve f.team) (done ++ [l]) (step x l).2) :
    LanesAnswer s f t val s.m.free (.next { s with
      m := retire f ((lanesOn t f).foldl step (t, s.m)).1 ((lanesOn t f).foldl step (t, s.m)).2 }) := by
  obtain ⟨hwrote, hdrawn⟩ := foldl_invariant (P := fun done x =>
      Wrote f t val done x.1 ∧ Drawn s.m t.job j (threadIndex f.die f.ve f.team) done x.2) (b := (t, s.m)) (step := step)
    (lanesOn t f) (lanesOn_nodup t f) ⟨Wrote.nothing, Drawn.nothing hj⟩ fun done l x hx hl => by
      obtain ⟨p, fl, hput, hdrawn⟩ := hstep done l x hl hx.1 hx.2
      exact ⟨hput ▸ hx.1.put hrd l p fl, hdrawn⟩
  have hfree : ((lanesOn t f).foldl step (t, s.m)).2.free = s.m.free := by rw [hdrawn.rest]
  rw [← hfree]
  exact hwrote.answer hrd (by rw [hfree]; exact hdrawn.rest)

section
variable {s : State} {f : VeF} {t : Team} (hwf : f.wf = true) (ht : teamAt s.m f.die f.ve f.team = some t) (hready : t.wait = .ready)
  (hregs : t.atomRegs = [])
include hwf ht hready hregs

/-- R250: SHFL takes RA of the lane that RB names, and a free value where RB names no lane. -/
theorem exec_shfl : LanesAnswer s f t
    (fun l => if vGet t l f.rb < 64 then vGet t (vGet t l f.rb) f.ra else Config.freeNat (s.m.free + l) % 2 ^ 32) (s.m.free + 64)
    (exec (.shfl f) s) := by
  have hexec : exec (.shfl f) s = .next { s with m := _ } := onDev_team (c := .shfl f) hwf ht hready hregs
  obtain ⟨-, -, -, hrd, -⟩ := VeF.bounds hwf
  rw [hexec]
  exact (foldl_wrote t hrd fun _ _ => ⟨_, _, rfl⟩).answer hrd rfl

omit hwf in
/-- R250: IMM 1:0 = 3 is not allowed. -/
theorem reduceOp_illegal {c : Instr} (op : LaneOut → LaneOut → LaneOut) (hc : c.wf = true) (himm : f.imm % 4 = 3) :
    onDev c (reduceOp f op) s = .next { s with m := illegal f t s.m } := by
  have hexec : onDev c (reduceOp f op) s = .next { s with m := _ } := onDev_team hc ht hready hregs
  rw [hexec, if_pos (show immBits f 0 2 = 3 from himm)]

/-- R236: every guarded lane receives the reduction of the 64 lanes. -/
theorem reduceOp_answer {c : Instr} {op : LaneOut → LaneOut → LaneOut} {vop : Nat → Nat → Nat} (hc : c.wf = true)
    (himm : f.imm % 4 ≠ 3) (hop : ∀ a b, (op a b).1 = vop a.1 b.1) :
    LanesAnswer s f t (fun _ => (pairTree vop ((List.range 64).map fun k => vGet t k f.ra)).headD 0) s.m.free
      (onDev c (reduceOp f op) s) := by
  have hexec : onDev c (reduceOp f op) s = .next { s with m := _ } := onDev_team hc ht hready hregs
  obtain ⟨-, -, -, hrd, -⟩ := VeF.bounds hwf
  rw [hexec, if_neg (show ¬immBits f 0 2 = 3 from himm), ← pairTree_lanes hop]
  exact ((foldl_wrote_const t hrd _ _).flagsUnless _ _).answer hrd rfl

/-- R232: DRAW gives each guarded lane its generator's draw. -/
theorem exec_draw {j : Job} (hj : jobAt s.m t.job = some j) :
    LanesAnswer s f t (fun l => (jobDraw j (threadIndex f.die f.ve f.team l)).1) s.m.free (exec (.draw f) s) := by
  have hexec : exec (.draw f) s = .next { s with m := _ } := onDev_team (c := .draw f) hwf ht hready hregs
  obtain ⟨-, -, -, hrd, -⟩ := VeF.bounds hwf
  rw [hexec]
  refine foldl_drew_answer hrd hj fun done l x hl _ hdrawn => ?_
  obtain ⟨hval, hmore⟩ := hdrawn.draw (threadIndex_new f.die f.ve f.team hl)
  exact ⟨false, x.1.flags, by rw [← hval]; rfl, hmore⟩

/-- R204, R250: CVT converts each guarded lane, with a draw of the lane for sr(). -/
theorem exec_cvt {a b : Fmt} {j : Job} (ha : fmtOf (f.imm % 16) = some a) (hb : fmtOf (f.imm / 16 % 16) = some b) (hkind : b.kind ≠ 3)
    (hj : jobAt s.m t.job = some j) :
    LanesAnswer s f t (fun l => (fcvt b
      (if bitOf f.imm 8 = true then some ((jobDraw j (threadIndex f.die f.ve f.team l)).1 % 65536) else none)
      (fdec a (vGet t l f.ra % 2 ^ fbits a))).1) s.m.free (exec (.cvt f) s) := by
  have hexec : exec (.cvt f) s = .next { s with m := _ } := onDev_team (c := .cvt f) hwf ht hready hregs
  have hsrc : fmtOf (immBits f 0 4) = some a := ha
  have hdst : fmtOf (immBits f 4 4) = some b := by rw [immBits, Nat.shiftRight_eq_div_pow]; exact hb
  obtain ⟨-, -, -, hrd, hra⟩ := VeF.bounds hwf
  rw [hexec, hsrc, hdst]
  refine foldl_drew_answer hrd hj fun done l x hl hwrote hdrawn => ?_
  obtain ⟨hval, hmore⟩ := hdrawn.draw (threadIndex_new f.die f.ve f.team hl)
  simp only [cvtLane, hwrote.job, hwrote.reads hl hra, hkind, false_and, if_false]
  by_cases hsr : bitOf f.imm 8 = true
  · simp only [hsr, if_true, hval]
    exact ⟨_, _, rfl, hmore⟩
  · simp only [hsr]
    exact ⟨_, _, rfl, hdrawn.more l⟩

/-- R250: GETF gives the team's flags, and clears them when a lane is guarded. -/
theorem exec_getf : ∃ r u, exec (.getf f) s = .next r ∧ LanesIssued s f t r u ∧ u.u = t.u ∧ ∀ l < 64, guardOn t f l = true →
    vGet u l f.rd = flagWord t.flags % 2 ^ 32 ∧ u.flags = {} := by
  have hexec : exec (.getf f) s = .next { s with m := _ } := onDev_team (c := .getf f) hwf ht hready hregs
  obtain ⟨-, -, -, hrd, -⟩ := VeF.bounds hwf
  have hwrote := (foldl_wrote_const t hrd (flagWord t.flags) false).flagsUnless ((lanesOn t f).isEmpty = true) {}
  rw [hexec]
  refine ⟨_, _, rfl, hwrote.issued hrd rfl, by rw [hwrote.rest], fun l hl hon => ⟨hwrote.value hrd _ hl hon, ?_⟩⟩
  rw [if_neg fun hnone => lanesOn_isEmpty_iff.mp hnone ⟨l, hl, hon⟩]

/-- R250: UBASE sets a base register from RA of lanes 0 and 1. -/
theorem exec_ubase (hon : guardOn t f 0 = true) : ∃ r u, exec (.ubase f) s = .next r ∧ LanesIssued s f t r u ∧ u.v = t.v
    ∧ u.u = tput t.u (f.imm % 16) (vGet t 0 f.ra + 2 ^ 32 * vGet t 1 f.ra) ∧ u.start = t.start := by
  have hexec : exec (.ubase f) s = .next { s with m := _ } := onDev_team (c := .ubase f) hwf ht hready hregs
  rw [hexec, if_pos hon]
  exact ⟨_, _, rfl, ⟨teamAt_retire f _ s.m, rfl, fun _ _ => ⟨fun _ => rfl, fun _ _ _ => rfl⟩, rfl, rfl, rfl⟩, rfl, rfl, rfl⟩

end

/-! ### The obligation -/

theorem flagWord_eq (fl : Flags3) : flagWord fl % 2 ^ 32
    = (if fl.ovf then 1 else 0) + (if fl.nonfinite then 2 else 0) + (if fl.poison then 4 else 0) := by
  obtain ⟨ovf, nonfinite, poison⟩ := fl
  revert ovf nonfinite poison
  decide

/-- Settles O26: each operation writes RD of the guarded lanes one by one with values that the earlier lanes do not change. -/
theorem vectorTeamOperations : Obligations.VectorTeamOperations := by
  unfold Obligations.VectorTeamOperations
  intro s f t hwf ht hready hregs issued illegal
  refine ⟨?_, fun himm x hx => ?_, fun himm => ?_, fun himm => ?_, fun himm => ?_, fun a b j ha hb hkind hj => ?_, fun j hj => ?_, ?_,
    fun hon => ?_⟩
  · obtain ⟨r, u, hexec, hissued, hu, -, hval⟩ := exec_shfl hwf ht hready hregs
    refine ⟨r, u, hexec, hissued, hu, fun l hl hg hlane => ?_⟩
    exact (hval l hl hg).trans (congrArg (· % 2 ^ 32) (if_pos hlane))
  · have hanswer : exec (x f) s = .next { s with m := Machine.illegal f t s.m } := by
      rcases List.mem_cons.mp hx with rfl | hx
      · exact reduceOp_illegal (c := .reduceIadd f) ht hready hregs _ hwf himm
      · rcases List.mem_cons.mp hx with rfl | hx
        · exact reduceOp_illegal (c := .reduceFadd f) ht hready hregs _ hwf himm
        · rcases List.mem_singleton.mp hx with rfl
          exact reduceOp_illegal (c := .reduceFmax f) ht hready hregs _ hwf himm
    obtain ⟨hteam, hill, hevent, hrest⟩ := illegal_tells f t s.m
    exact ⟨_, hanswer, hteam, hill, hevent, congrArg (fun m => { s with m := m }) hrest⟩
  · obtain ⟨r, u, hexec, hissued, hu, -, hval⟩ : LanesAnswer s f t _ s.m.free (exec (.reduceIadd f) s) :=
      reduceOp_answer (c := .reduceIadd f) (vop := fun a b => (a + b) % 2 ^ 32) hwf ht hready hregs hwf himm fun _ _ => rfl
    refine ⟨r, u, hexec, hissued, hu, fun l hl hg => (hval l hl hg).trans ?_⟩
    exact pairTree_sum (fun a b => Nat.mod_modEq (a + b) _) (by simp)
  · obtain ⟨r, u, hexec, hissued, hu, -, hval⟩ : LanesAnswer s f t _ s.m.free (exec (.reduceFadd f) s) :=
      reduceOp_answer (c := .reduceFadd f) (vop := add32) hwf ht hready hregs hwf himm fun _ _ => rfl
    exact ⟨r, u, hexec, hissued, hu, hval⟩
  · obtain ⟨r, u, hexec, hissued, hu, -, hval⟩ : LanesAnswer s f t _ s.m.free (exec (.reduceFmax f) s) :=
      reduceOp_answer (c := .reduceFmax f) (vop := maxMin32 true) hwf ht hready hregs hwf himm fun _ _ => rfl
    exact ⟨r, u, hexec, hissued, hu, hval⟩
  · exact exec_cvt hwf ht hready hregs ha hb hkind hj
  · exact exec_draw hwf ht hready hregs hj
  · obtain ⟨r, u, hexec, hissued, hu, hval⟩ := exec_getf hwf ht hready hregs
    exact ⟨r, u, hexec, hissued, hu, fun l hl hg => by rw [← flagWord_eq]; exact hval l hl hg⟩
  · obtain ⟨r, u, hexec, hissued, hv, hu, hstart⟩ := exec_ubase hwf ht hready hregs hon
    have hread : ∀ k, uGet u k = uGet { t with u := tput t.u (f.imm % 16) (vGet t 0 f.ra + 2 ^ 32 * vGet t 1 f.ra) } k := fun k => by
      simp only [uGet, hu, hstart]
    exact ⟨r, u, hexec, hissued, hv, by rw [hread, uGet_tput, if_pos rfl], fun k hk => by rw [hread, uGet_tput, if_neg hk]⟩

end Sys2Proof.Machine
end

section
/-! PROOFS of the family 05_numerics: the table of the lanes' generators, and the commit of one buffered atomic (R233, R242, R268, R270). -/

namespace Sys2Proof.Machine

/-! ### Runs of bytes in memory (R7) -/

/-- A part of what has been written reads as written. -/
theorem memRead_memWrite (m : Mem) (a : Nat) (l : List Byte) {o n : Nat} (h : o + n ≤ l.length) :
    memRead (memWrite m a l) (a + o) n = (l.drop o).take n := by
  refine List.ext_getElem (by simp [memRead]; omega) fun i hi _ => ?_
  have hn : i < n := by simpa [memRead] using hi
  simp only [memRead, List.getElem_map, List.getElem_range, List.getElem_take, List.getElem_drop, Nat.add_assoc]
  exact memByte_memWrite_in m a l (o + i) (by omega)

theorem memNat_memWrite_leBytes (m : Mem) (a n v : Nat) : memNat (memWrite m a (leBytes n v)) a n = v % 256 ^ n := by
  have hread := memRead_memWrite m a (leBytes n v) (o := 0) (n := n) (by simp)
  rw [Nat.add_zero, List.drop_zero, List.take_of_length_le (by simp)] at hread
  rw [memNat, hread, leNat_leBytes]

theorem memNat_lt (m : Mem) (a n : Nat) : memNat m a n < 256 ^ n := by
  simpa [memNat, memRead] using leNat_lt (memRead m a n)

/-- Block `i` of blocks of `n` elements that stand one behind the other. -/
theorem flatMap_block {α β : Type} {g : α → List β} {n : Nat} (hlen : ∀ x, (g x).length = n) (l : List α) {i : Nat} (h : i < l.length) :
    ((l.flatMap g).drop (n * i)).take n = g l[i] := by
  induction l generalizing i with
  | nil => cases h
  | cons x l ih =>
    cases i with
    | zero => rw [Nat.mul_zero, List.drop_zero, List.flatMap_cons, ← hlen x, List.take_left]; rfl
    | succ i =>
      rw [Nat.mul_succ, Nat.add_comm, List.flatMap_cons, ← List.drop_drop, ← hlen x, List.drop_left, hlen x]
      exact ih (Nat.lt_of_succ_lt_succ h)

/-! ### The generator table (R233, R242) -/

@[simp] theorem length_genBytes (g : Nat × Nat) : (genBytes g).length = 16 := by simp [genBytes]

theorem threadIndex_lane (die ve team l : Nat) : threadIndex die ve team l = threadIndex die ve team 0 + l := by
  simp [threadIndex]

/-- R242: where the entries of team `f` stand in its engine's part of the table. -/
theorem threadIndex_entry {f : VeF} (hwf : f.wf = true) :
    threadIndex f.die f.ve f.team 0 / 262144 = f.die
      ∧ threadIndex f.die f.ve f.team 0 % 262144 * 16 = f.ve * 32768 + f.team * 1024 := by
  obtain ⟨hdie, hve, hteam, -⟩ := VeF.bounds hwf
  simp only [threadIndex]
  omega

/-- The entries of `n` threads from `T` on, as bytes. -/
def gensFrom (j : Job) (T n : Nat) : List Byte := (List.range n).flatMap fun i => genBytes (tget (0, 0) j.num.gens (T + i))

theorem length_gensFrom (j : Job) (T n : Nat) : (gensFrom j T n).length = 16 * n := by
  simp [gensFrom, List.length_flatMap, Nat.mul_comm]

theorem genStore_listed {m : Dev} {slot T : Nat} {j : Job} {b : Alloc} (n : Nat) (hj : jobAt m slot = some j)
    (hb : m.mem.allocs.find? (fun a =>
      decide (a.job = some slot) && decide (a.use = .generators) && decide (segUnit a.first = 2 * (T / 262144))) = some b) :
    genStore slot T n m = updMem m (memWrite · (b.first * segBytes + T % 262144 * 16) (gensFrom j T n)) := by
  simp only [genStore, hj, hb, gensFrom]

theorem genStore_frame (slot T n : Nat) (m : Dev) : genStore slot T n m = m ∨ ∃ a l, genStore slot T n m = updMem m (memWrite · a l) := by
  unfold genStore
  split
  · exact .inr ⟨_, _, rfl⟩
  · exact .inl rfl

/-- Only the bytes of memory change. -/
theorem genStore_rest (slot T n : Nat) (m : Dev) : genStore slot T n m = { m with mem := (genStore slot T n m).mem } := by
  rcases genStore_frame slot T n m with h | ⟨a, l, h⟩ <;> rw [h]
  rfl

/-- R233: the entries of a team's generators go to the table in its die's first stack. -/
theorem genStore_team {m : Dev} {f : VeF} {slot : Nat} {j : Job} {b : Alloc} (hwf : f.wf = true) (hj : jobAt m slot = some j)
    (hb : m.mem.allocs.find? (fun a =>
      decide (a.job = some slot) && decide (a.use = .generators) && decide (segUnit a.first = 2 * f.die)) = some b) :
    (genStore slot (threadIndex f.die f.ve f.team 0) 64 m).mem
      = memWrite m.mem (b.first * 0x200000 + f.ve * 32768 + f.team * 1024) (gensFrom j (threadIndex f.die f.ve f.team 0) 64) := by
  obtain ⟨hdie, hentry⟩ := threadIndex_entry hwf
  rw [genStore_listed 64 hj (by rw [hdie]; exact hb), hentry, updMem_mem, segBytes, Nat.add_assoc]

/-- R242: an entry of the table is that of its thread. -/
theorem memRead_gensFrom (m : Mem) (a : Nat) (j : Job) (T : Nat) {l n : Nat} (hl : l < n) :
    memRead (memWrite m a (gensFrom j T n)) (a + 16 * l) 16 = genBytes (tget (0, 0) j.num.gens (T + l)) := by
  rw [memRead_memWrite m a _ (by rw [length_gensFrom]; omega), gensFrom,
    flatMap_block (fun _ => length_genBytes _) _ (by simpa using hl), List.getElem_range]

/-! ### Accesses that the contents of memory do not decide (R261, R670) -/

/-- What bars an access is not the bytes of memory. -/
theorem barred_memWrite (m : Dev) (a : Nat) (l : List Byte) (unit slot addr n cause : Nat) :
    barred (updMem m (memWrite · a l)) unit slot addr n cause = barred m unit slot addr n cause := rfl

theorem barred_genStore (slot' T k : Nat) (m : Dev) (unit slot addr n cause : Nat) :
    barred (genStore slot' T k m) unit slot addr n cause = barred m unit slot addr n cause := by
  rcases genStore_frame slot' T k m with h | ⟨a, l, h⟩ <;> rw [h]
  exact barred_memWrite m a l unit slot addr n cause

theorem not_barred_of_admitted {m : Dev} {unit slot addr n cause : Nat} (h : admitAccess m unit slot addr n cause = (true, m)) :
    barred m unit slot addr n cause = false := by
  by_contra hb
  rw [admitAccess, if_pos (by simpa using hb)] at h
  exact Bool.false_ne_true (congrArg Prod.fst h)

/-! ### The commit of one atomic (R268, R270) -/

/-- The module after an atomic addition to the word at its address. -/
def atomAdded (m : Dev) (a : AtomOp) : Dev :=
  updMem m fun x => memWrite x a.addr (leBytes 4 ((memNat x a.addr 4 + a.operand) % 2 ^ 32))

theorem veAt_atomAdded (m : Dev) (a : AtomOp) (die ve : Nat) : veAt (atomAdded m a) die ve = veAt m die ve := rfl

theorem memNat_atomAdded (m : Dev) (a : AtomOp) :
    memNat (atomAdded m a).mem a.addr 4 = (memNat m.mem a.addr 4 + a.operand) % 2 ^ 32 :=
  (memNat_memWrite_leBytes _ _ _ _).trans (Nat.mod_mod _ _)

theorem memByte_atomAdded (m : Dev) (a : AtomOp) {b : Nat} (h : b < a.addr ∨ a.addr + 4 ≤ b) :
    memByte (atomAdded m a).mem b = memByte m.mem b := memByte_memWrite_out _ _ _ _ (by simpa using h)

theorem teamAt_mem (m : Dev) (x : Mem) (die ve k : Nat) : teamAt { m with mem := x } die ve k = teamAt m die ve k := rfl

theorem atomBytes_add32 : atomBytes 0 = 4 := rfl

section
variable {m : Dev} {die ve : Nat} {a : AtomOp} (keys : List (Nat × Nat)) (hop : a.op = 0) (hpoison : a.poison = false)
  (hmay : barred m (die * 256 + ve) a.job a.addr 4 2 = false)
include hop hpoison hmay

/-- R270: an addition of a team that has ended changes the word, and its old value goes nowhere. -/
theorem commitOne_ended (hteam : teamAt m die ve a.team = none) : (commitOne die ve (keys, m) a).2 = atomAdded m a := by
  simp only [commitOne, hop, atomBytes_add32, hmay, hpoison, teamAt_mem, hteam, Bool.false_eq_true, if_false]
  rfl

/-- R270: an addition of a team that runs changes the word, and the team takes the old value. -/
theorem commitOne_runs {t : Team} (hrd : a.rd < 32) (hteam : teamAt m die ve a.team = some t) :
    ∃ u, (commitOne die ve (keys, m) a).2 = putTeam (atomAdded m a) die ve a.team u
      ∧ vGet u a.lane a.rd = memNat m.mem a.addr 4 ∧ u = { t with v := u.v, vp := u.vp, flags := u.flags } := by
  refine ⟨vPut { t with flags := orFlags t.flags { poison := memPoisoned m.mem a.addr 4 } } a.lane a.rd
    (memNat m.mem a.addr 4 % 2 ^ 32) (memPoisoned m.mem a.addr 4), ?_, ?_, rfl⟩
  · simp only [commitOne, hop, atomBytes_add32, hmay, hpoison, teamAt_mem, hteam, Bool.false_eq_true, if_false, Bool.not_false, Bool.true_and]
    rfl
  · rw [vGet_vPut _ _ _ _ _ hrd hrd, if_pos ⟨rfl, rfl⟩, Nat.mod_mod]
    exact Nat.mod_eq_of_lt (memNat_lt m.mem a.addr 4)

end

/-- Of the threads of an engine only the atomic's own takes it to its commit. -/
theorem flatMap_range_single {α : Type} (a : α) {k n : Nat} (h : k < n) :
    (List.range n).flatMap (fun i => [a].filter (fun _ => decide (k = i))) = [a] := by
  induction n with
  | zero => cases h
  | succ n ih =>
    rw [List.range_succ, List.flatMap_append]
    rcases Nat.lt_succ_iff_lt_or_eq.mp h with hlt | rfl
    · have hn : k ≠ n := Nat.ne_of_lt hlt
      simp [ih hlt, hn]
    · have hnone : (List.range k).flatMap (fun i => [a].filter (fun _ => decide (k = i))) = [] :=
        List.flatMap_eq_nil_iff.mpr fun i hi => by simp [(Nat.ne_of_lt (List.mem_range.mp hi)).symm]
      simp [hnone]

end Sys2Proof.Machine
end

section
/-! PROOFS of the family 05_numerics: the barrier of a job slot, and the control flow of a team (R233, R246, R251, R270). -/

namespace Sys2Proof.Machine

/-! ### The barrier of a job slot (R270) -/

theorem mem_tput_of_mem {α : Type} {t : Tab α} {k : Nat} (v : α) {p : Nat × α} (hp : p ∈ t) (hk : p.1 ≠ k) : p ∈ tput t k v := by
  induction t with
  | nil => cases hp
  | cons x t ih =>
    rw [tput]
    split
    · exact List.mem_cons_of_mem _ hp
    · split
      · next h => exact List.mem_cons_of_mem _ ((List.mem_cons.mp hp).resolve_left fun he => hk (by rw [he]; exact h))
      · rcases List.mem_cons.mp hp with rfl | hp
        · exact List.mem_cons_self
        · exact List.mem_cons_of_mem _ (ih hp)

theorem tfind_tmap {α β : Type} (t : Tab α) (g : Nat → α → β) (k : Nat) : tfind (tmap t g) k = (tfind t k).map (g k) := by
  induction t with
  | nil => rfl
  | cons x t ih =>
    by_cases h : x.1 = k
    · subst h
      simp [tmap, tfind]
    · simpa [tmap, tfind, h] using ih

theorem veAt_putTeam (m : Dev) (die ve k : Nat) (t : Team) :
    veAt (putTeam m die ve k t) die ve = { veAt m die ve with teams := tput (veAt m die ve).teams k t } := veAt_updVe_same ..

/-- R270: a team of the job slot goes on behind its barrier. -/
def teamReleased (job : Nat) (t : Team) : Team :=
  if t.job = job then { t with atomRegs := [], wait := .ready, pc := pcPlus t 8 } else t

/-- R270: an engine after a job slot's atomics have been committed and its teams go on. -/
def engineReleased (job : Nat) (v : VEngine) : VEngine := { v with
  atoms := v.atoms.filter fun a => !decide (a.job = job)
  atomUsed := tdel v.atomUsed job
  teams := tmap v.teams fun _ t => teamReleased job t }

section
variable {m : Dev} {die ve job : Nat}

/-- R270: the barrier holds while a team of the job slot has not arrived. -/
theorem barrier_waits (h : ∃ x ∈ (veAt m die ve).teams, x.2.job = job ∧ x.2.wait ≠ .barrier) : barrier die ve job m = m := by
  obtain ⟨x, hx, hjob, hwait⟩ := h
  refine if_neg fun hall => ?_
  have hx := List.all_eq_true.mp hall x hx
  simp [hjob, hwait] at hx

/-- R270: the commit of a buffer that holds one atomic. -/
theorem commitAtoms_one {a : AtomOp} (hatoms : (veAt m die ve).atoms = [a]) (hteam : a.team < 32) (hlane : a.lane < 64) :
    commitAtoms die ve a.job m = updVe (commitOne die ve ([], m) a).2 die ve (fun v => { v with
      atoms := v.atoms.filter (fun b => !decide (b.job = a.job)), atomUsed := tdel v.atomUsed a.job
      teams := tmap v.teams (fun _ t => if t.job = a.job then { t with atomRegs := [] } else t) }) := by
  have hmine : [a].filter (fun b => decide (b.job = a.job)) = [a] := by simp
  have horder : (List.range 2048).flatMap (fun k => [a].filter (fun b => decide (b.team * 64 + b.lane = k))) = [a] := by
    refine (List.flatMap_congr fun k _ => ?_).trans (flatMap_range_single a (k := a.team * 64 + a.lane) (by omega))
    simp [List.filter_cons]
  simp only [commitAtoms, hatoms, hmine, horder, List.foldl_cons, List.foldl_nil]

/-- R270: when the job slot's teams have arrived, its one atomic is committed and its teams go on. -/
theorem barrier_commits {a : AtomOp} (hatoms : (veAt m die ve).atoms = [a]) (hteam : a.team < 32) (hlane : a.lane < 64)
    (hall : ∀ x ∈ (veAt m die ve).teams, x.2.wait = .barrier) :
    veAt (barrier die ve a.job m) die ve = engineReleased a.job (veAt (commitOne die ve ([], m) a).2 die ve)
      ∧ barrier die ve a.job m = { (commitOne die ve ([], m) a).2 with ves := (barrier die ve a.job m).ves } := by
  have hgo : (veAt m die ve).teams.all (fun t => decide (t.2.job ≠ a.job) || decide (t.2.wait = .barrier)) = true :=
    List.all_eq_true.mpr fun x hx => by simp [hall x hx]
  rw [barrier, if_pos hgo, commitAtoms_one hatoms hteam hlane]
  generalize (commitOne die ve ([], m) a).2 = x
  refine ⟨?_, rfl⟩
  rw [veAt_updVe_same, veAt_updVe_same, engineReleased]
  simp only [tmap, List.map_map]
  congr 1
  refine List.map_congr_left fun x _ => ?_
  simp only [Function.comp_apply, teamReleased]
  by_cases h : x.2.job = a.job <;> simp [h, pcPlus]

end

/-! ### The instructions -/

/-- R270: the module when team `f` has arrived at its barrier. -/
def barArrived (f : VeF) (t : Team) (m : Dev) : Dev :=
  updVe m f.die f.ve fun v => { v with teams := tput v.teams f.team { t with wait := .barrier }, active := (v.active + 1) % 2 ^ 64 }

theorem veAt_barArrived_alone {f : VeF} {t : Team} {m : Dev} (h : (veAt m f.die f.ve).teams = [(f.team, t)]) :
    veAt (barArrived f t m) f.die f.ve = { veAt m f.die f.ve with
      teams := [(f.team, { t with wait := .barrier })], active := ((veAt m f.die f.ve).active + 1) % 2 ^ 64 } := by
  rw [barArrived, veAt_updVe_same, h]
  simp [tput]

/-- R246: the module when team `f` has ended. -/
def teamEnded (f : VeF) (t : Team) (m : Dev) : Dev :=
  updVe m f.die f.ve fun v => { v with
    teams := tdel v.teams f.team, active := (v.active + 1) % 2 ^ 64, sticky := orFlags v.sticky t.flags }

section
variable {s : State} {f : VeF} {t : Team} (hwf : f.wf = true) (ht : teamAt s.m f.die f.ve f.team = some t) (hready : t.wait = .ready)
  (hregs : t.atomRegs = [])
include hwf ht hready hregs

/-- R251: BR is taken when a guard is true. -/
theorem exec_br : exec (.br f) s = .next { s with
    m := retireAt f t (if ∃ l < 64, guardOn t f l = true then immSigned f * 8 else 8) s.m } := by
  have hexec : exec (.br f) s = .next { s with m := _ } := onDev_team (c := .br f) hwf ht hready hregs
  rw [hexec]
  by_cases h : ∃ l < 64, guardOn t f l = true
  · rw [if_neg fun hnone => lanesOn_isEmpty_iff.mp hnone h, if_pos h]
  · rw [if_pos (lanesOn_isEmpty_iff.mpr h), if_neg h]

theorem exec_barE (hon : guardOn t f 0 = true) :
    exec (.barE f) s = .next { s with m := barrier f.die f.ve t.job (barArrived f t s.m) } := by
  have hexec : exec (.barE f) s = .next { s with m := _ } := onDev_team (c := .barE f) hwf ht hready hregs
  rw [hexec, if_pos hon, barArrived]

/-- R233, R246: EXIT of a team whose work has met no NaN and no infinity. -/
theorem exec_exit (hon : guardOn t f 0 = true) (hfinite : t.flags.nonfinite = false) :
    exec (.exit f) s = .next { s with
      m := barrier f.die f.ve t.job (teamEnded f t (genStore t.job (threadIndex f.die f.ve f.team 0) 64 s.m)) } := by
  have hexec : exec (.exit f) s = .next { s with m := _ } := onDev_team (c := .exit f) hwf ht hready hregs
  rw [hexec, if_pos hon, stepNonfinite_finite _ _ hfinite, teamEnded]

theorem exec_fence : exec (.fence f) s = .next { s with
    m := if s.m.posted.any (fun p => p.2.any (fun a => decide (a.die = f.die ∧ a.ve = f.ve ∧ a.team = f.team))) then s.m
      else retire f t s.m } := onDev_team (c := .fence f) hwf ht hready hregs

end

/-- The buffer of a team's engine holds one atomic: an addition of the team to a word that its engine may write. -/
structure OneAddition (m : Dev) (f : VeF) (t : Team) (a : AtomOp) : Prop where
  atoms : (veAt m f.die f.ve).atoms = [a]
  job : a.job = t.job
  team : a.team = f.team
  lane : a.lane < 64
  op : a.op = 0
  poison : a.poison = false
  may : barred m (f.die * 256 + f.ve) a.job a.addr 4 2 = false

theorem OneAddition.team_lt {m : Dev} {f : VeF} {t : Team} {a : AtomOp} (h : OneAddition m f t a) (hwf : f.wf = true) : a.team < 32 := by
  obtain ⟨-, -, hteam, -⟩ := VeF.bounds hwf
  rw [h.team]
  exact hteam

section
variable {s : State} {f : VeF} {t : Team} (hwf : f.wf = true) (ht : teamAt s.m f.die f.ve f.team = some t) (hready : t.wait = .ready)
  (hregs : t.atomRegs = []) (hon : guardOn t f 0 = true)
include hwf ht hready hregs hon

/-- R270: BAR.E waits while a team of the job slot has not arrived. -/
theorem exec_barE_waits (hothers : ∃ x ∈ (veAt s.m f.die f.ve).teams, x.1 ≠ f.team ∧ x.2.job = t.job ∧ x.2.wait = .ready) :
    exec (.barE f) s = .next { s with m := barArrived f t s.m } := by
  obtain ⟨x, hx, hne, hjob, hwait⟩ := hothers
  rw [exec_barE hwf ht hready hregs hon, barrier_waits]
  refine ⟨x, ?_, hjob, by simp [hwait]⟩
  rw [barArrived, veAt_updVe_same]
  exact mem_tput_of_mem _ hx hne

/-- R270: EXIT commits nothing while another team of the job slot runs. -/
theorem exec_exit_waits (hfinite : t.flags.nonfinite = false)
    (hothers : ∃ x ∈ (veAt s.m f.die f.ve).teams, x.1 ≠ f.team ∧ x.2.job = t.job ∧ x.2.wait = .ready) :
    exec (.exit f) s = .next { s with
      m := teamEnded f t (genStore t.job (threadIndex f.die f.ve f.team 0) 64 s.m) } := by
  obtain ⟨x, hx, hne, hjob, hwait⟩ := hothers
  rw [exec_exit hwf ht hready hregs hon hfinite, barrier_waits]
  refine ⟨x, ?_, hjob, by simp [hwait]⟩
  rw [teamEnded, veAt_updVe_same, genStore_rest]
  exact List.mem_filter.mpr ⟨hx, decide_eq_true hne⟩

variable (hteams : (veAt s.m f.die f.ve).teams = [(f.team, t)]) {a : AtomOp} (ha : OneAddition s.m f t a)
include hteams ha

/-- R270: the last team at the barrier commits the one atomic, which is its own, and goes on. -/
theorem exec_barE_commits (hrd : a.rd < 32) : ∃ r u, exec (.barE f) s = .next r ∧ teamAt r.m f.die f.ve f.team = some u
    ∧ u.wait = .ready ∧ u.pc = (t.pc + 8) % 2 ^ 48 ∧ vGet u a.lane a.rd = memNat s.m.mem a.addr 4
    ∧ (veAt r.m f.die f.ve).atoms = []
    ∧ r = { s with m := { s.m with ves := r.m.ves, mem := (atomAdded s.m a).mem } } := by
  have harrived := veAt_barArrived_alone hteams
  have hatoms : (veAt (barArrived f t s.m) f.die f.ve).atoms = [a] := by rw [harrived]; exact ha.atoms
  have hfind : teamAt (barArrived f t s.m) f.die f.ve a.team = some { t with wait := .barrier } := by
    simp [teamAt, harrived, ha.team, tfind]
  have hmay : barred (barArrived f t s.m) (f.die * 256 + f.ve) a.job a.addr 4 2 = false := ha.may
  obtain ⟨u, hcommit, hold, hu⟩ := commitOne_runs [] ha.op ha.poison hmay hrd hfind
  obtain ⟨hve, hrest⟩ := barrier_commits hatoms (ha.team_lt hwf) ha.lane (by rw [harrived]; simp)
  have hexec := exec_barE hwf ht hready hregs hon
  rw [← ha.job] at hexec
  obtain ⟨r, hr⟩ : ∃ r, barrier f.die f.ve a.job (barArrived f t s.m) = r := ⟨_, rfl⟩
  rw [hr] at hexec hve hrest
  rw [hcommit] at hve hrest
  rw [veAt_putTeam, veAt_atomAdded] at hve
  have hreleased : teamReleased a.job u = { u with atomRegs := [], wait := .ready, pc := pcPlus t 8 } := by
    rw [teamReleased, if_pos (by rw [hu]; exact ha.job.symm), hu]
    rfl
  refine ⟨_, teamReleased a.job u, hexec, ?_, ?_, ?_, ?_, ?_, ?_⟩
  · rw [teamAt, hve, engineReleased, tfind_tmap, tfind_tput, if_pos ha.team.symm]
    rfl
  · rw [hreleased]
  · rw [hreleased]
    exact pcPlus_eight t
  · rw [hreleased]
    exact hold
  · rw [hve, engineReleased]
    simp [hatoms]
  · simp only [putTeam, updVe, atomAdded, updMem, barArrived] at hrest
    exact congrArg (fun m => { s with m := m }) hrest

/-- R270: the exit of the last team commits its one atomic. -/
theorem exec_exit_commits (hfinite : t.flags.nonfinite = false) {stored : Dev}
    (hstored : genStore t.job (threadIndex f.die f.ve f.team 0) 64 s.m = stored) :
    ∃ r, exec (.exit f) s = .next r ∧ teamAt r.m f.die f.ve f.team = none ∧ (veAt r.m f.die f.ve).atoms = []
      ∧ r = { s with m := { s.m with ves := r.m.ves, mem := (atomAdded stored a).mem } } := by
  have hveStored : veAt stored f.die f.ve = veAt s.m f.die f.ve := by rw [← hstored, genStore_rest]; rfl
  have hended : (veAt (teamEnded f t stored) f.die f.ve).teams = [] ∧ (veAt (teamEnded f t stored) f.die f.ve).atoms = [a] := by
    rw [teamEnded, veAt_updVe_same, hveStored, hteams]
    exact ⟨by simp [tdel], ha.atoms⟩
  have hfind : teamAt (teamEnded f t stored) f.die f.ve a.team = none := by rw [teamAt, hended.1]; rfl
  have hmay : barred (teamEnded f t stored) (f.die * 256 + f.ve) a.job a.addr 4 2 = false := by
    have hmay := ha.may
    rw [← barred_genStore t.job (threadIndex f.die f.ve f.team 0) 64, hstored] at hmay
    exact hmay
  have hcommit := commitOne_ended [] ha.op ha.poison hmay hfind
  obtain ⟨hve, hrest⟩ := barrier_commits hended.2 (ha.team_lt hwf) ha.lane (by rw [hended.1]; simp)
  have hexec := exec_exit hwf ht hready hregs hon hfinite
  rw [hstored, ← ha.job] at hexec
  rw [hcommit] at hve hrest
  rw [veAt_atomAdded] at hve
  refine ⟨_, hexec, ?_, ?_, ?_⟩
  · rw [teamAt, hve, engineReleased, hended.1]
    rfl
  · rw [hve, engineReleased, hended.2]
    simp
  · refine congrArg (fun m => { s with m := m }) (hrest.trans ?_)
    rw [← hstored, genStore_rest]
    rfl

end

/-! ### The obligation -/

/-- Settles O27: BAR.E and EXIT are the team's own change of its engine and then `barrier`, which waits for the other teams or commits
the one atomic. -/
theorem vectorControlFlow : Obligations.VectorControlFlow := by
  unfold Obligations.VectorControlFlow
  intro s f t hwf ht hready hregs stored
  refine ⟨?_, fun hon hothers => ⟨?_, fun hfinite => ?_⟩, fun hon hteams a hatoms hjob hteam hlane hop hpoison hrd hadmit => ?_,
    fun hnone => ?_, fun ⟨p, hp, b, hb, hown⟩ => ?_⟩
  · exact ⟨_, _, exec_br hwf ht hready hregs, teamAt_retireAt f t _ s.m, rfl, rfl⟩
  · refine ⟨_, exec_barE_waits hwf ht hready hregs hon hothers, ?_, rfl⟩
    rw [barArrived, teamAt_updVe_same, tfind_tput, if_pos rfl]
  · refine ⟨_, exec_exit_waits hwf ht hready hregs hon hfinite hothers, ?_, fun k hk => ?_, fun j b hj hb => ?_, ?_⟩
    · rw [teamEnded, teamAt_updVe_same, tfind_tdel, if_pos rfl]
    · rw [teamEnded, teamAt_updVe_same, tfind_tdel, if_neg hk, genStore_rest]
      rfl
    · have htable := genStore_team hwf hj hb
      refine ⟨fun l hl => ?_, fun c hc => ?_⟩
      · rw [teamEnded, updVe_mem, htable, threadIndex_lane _ _ _ l]
        exact memRead_gensFrom _ _ j _ hl
      · rw [teamEnded, updVe_mem, htable]
        exact memByte_memWrite_out _ _ _ _ (by rw [length_gensFrom]; exact hc)
    · rw [genStore_rest]
      rfl
  · have hone : OneAddition s.m f t a :=
      ⟨hatoms, hjob, hteam, hlane, hop, hpoison, by rw [hjob]; exact not_barred_of_admitted hadmit⟩
    refine ⟨fun _ => ?_, fun hfinite => ?_⟩
    · obtain ⟨r, u, hexec, hu, hwait, hpc, hold, hempty, hr⟩ := exec_barE_commits hwf ht hready hregs hon hteams hone hrd
      have hmem : r.m.mem = (atomAdded s.m a).mem := by rw [hr]
      refine ⟨r, u, hexec, hu, hwait, hpc, hold, ?_, fun b hb => ?_, hempty, by rw [hmem]; exact hr⟩
      · rw [hmem, memNat_atomAdded]
      · rw [hmem, memByte_atomAdded _ _ hb]
    · obtain ⟨r, hexec, hgone, hempty, hr⟩ := exec_exit_commits hwf ht hready hregs hon hteams hone hfinite rfl
      have hmem : r.m.mem = (atomAdded (genStore t.job (threadIndex f.die f.ve f.team 0) 64 s.m) a).mem := by rw [hr]
      refine ⟨r, hexec, hgone, ?_, fun b hb => ?_, hempty, by rw [hmem]; exact hr⟩
      · rw [hmem, memNat_atomAdded]
      · rw [hmem, memByte_atomAdded _ _ hb]
  · have hgo : s.m.posted.any (fun p => p.2.any (fun a => decide (a.die = f.die ∧ a.ve = f.ve ∧ a.team = f.team))) = false :=
      List.any_eq_false.mpr fun p hp => by simpa using hnone p hp
    refine ⟨_, _, exec_fence hwf ht hready hregs, ?_, rfl, ?_⟩
    · rw [hgo]
      exact teamAt_retire f t s.m
    · rw [hgo]
      rfl
  · have hstay : s.m.posted.any (fun p => p.2.any (fun a => decide (a.die = f.die ∧ a.ve = f.ve ∧ a.team = f.team))) = true :=
      List.any_eq_true.mpr ⟨p, hp, List.any_eq_true.mpr ⟨b, hb, decide_eq_true hown⟩⟩
    rw [exec_fence hwf ht hready hregs, if_pos hstay]

end Sys2Proof.Machine
end

section
/-! PROOFS of the family 06_vector_engines_scratchpad: the arithmetic, shifts, selects and predicates of the lanes (R250, R251, R253,
R257). -/

namespace Sys2Proof.Machine

/-! ### What an instruction leaves of its engine and of the others -/

theorem teams_retire_other (f : VeF) (t : Team) (m : Dev) {k : Nat} (h : k ≠ f.team) :
    tfind (veAt (retire f t m) f.die f.ve).teams k = tfind (veAt m f.die f.ve).teams k := by
  rw [retire, retireAt, veAt_updVe_same, tfind_tput, if_neg h]

theorem veAt_retire_other (f : VeF) (t : Team) (m : Dev) {d v : Nat} (h : d * 128 + v ≠ f.die * 128 + f.ve) :
    veAt (retire f t m) d v = veAt m d v := by
  rw [retire, retireAt, veAt_updVe, if_neg h]

/-! ### Poison bits of the lanes (R257) -/

theorem vPoison_vPut (t : Team) (lane x l : Nat) (p : Bool) {r k : Nat} (hr : r < 32) (hk : k < 32) :
    vPoison (vPut t lane r x p) l k = if k = r ∧ l = lane then p else vPoison t l k := by
  have hkey : l * 32 + k = lane * 32 + r ↔ k = r ∧ l = lane := by omega
  simp only [vPoison, vPut, tget_tset, hkey]

/-- A fold over lanes each of whose steps writes RD of its lane with the poison bit `pois` gives them these bits. -/
theorem vPoison_foldl {f : VeF} (t : Team) {val : Nat → Nat} {pois : Nat → Bool} {step : Team → Nat → Team} (hrd : f.rd < 32)
    (hstep : ∀ u l, ∃ fl, step u l = { vPut u l f.rd (val l) (pois l) with flags := fl }) (lanes : List Nat) {l k : Nat} (hk : k < 32) :
    vPoison (lanes.foldl step t) l k = if k = f.rd ∧ l ∈ lanes then pois l else vPoison t l k := by
  induction lanes using List.reverseRecOn with
  | nil => simp
  | append_singleton lanes j ih =>
    obtain ⟨fl, hput⟩ := hstep (lanes.foldl step t) j
    rw [List.foldl_append, List.foldl_cons, List.foldl_nil, hput]
    refine (vPoison_vPut _ j (val j) l (pois j) hrd hk).trans ?_
    rw [ih]
    by_cases hj : l = j
    · subst hj
      by_cases hkr : k = f.rd <;> simp [hkr]
    · simp [hj]

/-- What RD of a lane reads when its instruction has written the guarded lanes. -/
theorem Wrote.guarded {f : VeF} {t u : Team} {val : Nat → Nat} (h : Wrote f t val (lanesOn t f) u) (hrd : f.rd < 32) {l : Nat} (hl : l < 64) :
    vGet u l f.rd = if guardOn t f l = true then val l % 2 ^ 32 else vGet t l f.rd := by
  rw [h.reg l f.rd hrd]
  simp only [mem_lanesOn, hl, true_and]

/-- A register other than RD reads as it did. -/
theorem Wrote.other {f : VeF} {t u : Team} {val : Nat → Nat} {done : List Nat} (h : Wrote f t val done u) (l : Nat) {k : Nat} (hk : k < 32)
    (hne : k ≠ f.rd) : vGet u l k = vGet t l k := (h.reg l k hk).trans (if_neg fun hw => hne hw.1)

theorem lanesWrite_wrote {f : VeF} (t : Team) (srcs : List Nat) (op : Nat → LaneOut) (hrd : f.rd < 32) :
    Wrote f t (fun l => (op l).1) (lanesOn t f) (lanesWrite f t srcs op) := foldl_wrote t hrd fun _ _ => ⟨_, _, rfl⟩

/-- R257: RD of a guarded lane carries the poison of the sources. -/
theorem vPoison_lanesWrite {f : VeF} (t : Team) (srcs : List Nat) (op : Nat → LaneOut) (hrd : f.rd < 32) {l k : Nat} (hk : k < 32) :
    vPoison (lanesWrite f t srcs op) l k
      = if k = f.rd ∧ l ∈ lanesOn t f then srcs.any (fun r => vPoison t l r) else vPoison t l k :=
  vPoison_foldl t (val := fun l => (op l).1) hrd (fun _ _ => ⟨_, rfl⟩) (lanesOn t f) hk

/-! ### Arithmetic and logic (R250, R253) -/

/-- Team `t` of engine `f` has issued, from `s` to `r`, an instruction that gives RD of each guarded lane the lane's result `val`
with the poison of the registers `srcs`; it stands as `u`. -/
def LanesComputed (s : State) (f : VeF) (t : Team) (srcs : List Nat) (val : Nat → Nat) (r : State) (u : Team) : Prop :=
  teamAt r.m f.die f.ve f.team = some u
    ∧ (∀ l < 64, vGet u l f.rd = if guardOn t f l = true then val l % 2 ^ 32 else vGet t l f.rd)
    ∧ (∀ l < 64, vPoison u l f.rd = if guardOn t f l = true then srcs.any (vPoison t l) else vPoison t l f.rd)
    ∧ (∀ l < 64, ∀ k < 32, k ≠ f.rd → vGet u l k = vGet t l k ∧ vPoison u l k = vPoison t l k)
    ∧ u = { t with v := u.v, vp := u.vp, flags := u.flags, pc := (t.pc + 8) % 2 ^ 48 }
    ∧ (∀ k, k ≠ f.team → tfind (veAt r.m f.die f.ve).teams k = tfind (veAt s.m f.die f.ve).teams k)
    ∧ veAt r.m f.die f.ve = { veAt s.m f.die f.ve with
        teams := (veAt r.m f.die f.ve).teams, sticky := (veAt r.m f.die f.ve).sticky
        active := ((veAt s.m f.die f.ve).active + 1) % 2 ^ 64 }
    ∧ (∀ d v, d * 128 + v ≠ f.die * 128 + f.ve → veAt r.m d v = veAt s.m d v)
    ∧ r = { s with m := { s.m with ves := r.m.ves } }

section
variable {s : State} {f : VeF} {t : Team} (hwf : f.wf = true) (ht : teamAt s.m f.die f.ve f.team = some t) (hready : t.wait = .ready)
  (hregs : t.atomRegs = [])
include hwf ht hready hregs

/-- What an instruction that computes RD of each lane from the lane's own registers does; `val` is the result of a lane. -/
theorem laneOp_answer {c : Instr} {srcs : List Nat} {op : Team → Nat → LaneOut} {val : Nat → Nat}
    (hc : exec c s = onDev c (laneOp f srcs op) s) (hcwf : c.wf = true) (hval : ∀ l, (op t l).1 % 2 ^ 32 = val l % 2 ^ 32) :
    ∃ r u, exec c s = .next r ∧ LanesComputed s f t srcs val r u := by
  obtain ⟨-, -, -, hrd, -⟩ := VeF.bounds hwf
  have hexec : onDev c (laneOp f srcs op) s = .next { s with m := _ } := onDev_team hcwf ht hready hregs
  have hwrote := lanesWrite_wrote t srcs (op t) hrd
  have hpoison : ∀ l, ∀ k < 32, _ := fun l k hk => vPoison_lanesWrite t srcs (op t) hrd (l := l) hk
  rw [hc, hexec]
  refine ⟨_, _, rfl, teamAt_retire f _ s.m, fun l hl => ?_, fun l hl => ?_, fun l _ k hk hne => ⟨hwrote.other l hk hne, ?_⟩, ?_,
    fun k hk => teams_retire_other f _ s.m hk, ?_, fun d v hv => veAt_retire_other f _ s.m hv, rfl⟩
  · rw [← hval]
    exact hwrote.guarded hrd hl
  · refine (hpoison l f.rd hrd).trans ?_
    simp only [mem_lanesOn, hl, true_and]
  · exact (hpoison l k hk).trans (if_neg fun hw => hne hw.1)
  · rw [hwrote.rest]
  · simp only [retire, retireAt, veAt_updVe_same]

end

/-- Settles O24: each instruction computes RD of the guarded lanes by the operation that the list names. -/
theorem vectorLaneArithmetic : Obligations.VectorLaneArithmetic := by
  unfold Obligations.VectorLaneArithmetic
  intro s f t hwf ht hready hregs x hx
  simp only [List.mem_cons, List.not_mem_nil, or_false] at hx
  obtain rfl | rfl | rfl | rfl | rfl | rfl | rfl | rfl | rfl | rfl | hint := hx
  iterate 10 exact laneOp_answer hwf ht hready hregs rfl hwf fun _ => rfl
  obtain rfl | rfl | rfl | rfl | rfl | rfl := hint
  all_goals exact laneOp_answer hwf ht hready hregs rfl hwf fun _ => Nat.mod_mod _ _

/-! ### Operations that leave values free (R250, log entry 25) -/

/-- What an instruction that takes free values for its lanes leaves as it was when team `t` has issued it and stands as `u`. -/
def FreeIssued (s : State) (f : VeF) (t : Team) (r : State) (u : Team) : Prop :=
  teamAt r.m f.die f.ve f.team = some u
    ∧ u = { t with v := u.v, vp := u.vp, p := u.p, flags := u.flags, pc := (t.pc + 8) % 2 ^ 48 }
    ∧ (∀ k, k ≠ f.team → tfind (veAt r.m f.die f.ve).teams k = tfind (veAt s.m f.die f.ve).teams k)
    ∧ (∀ d v, d * 128 + v ≠ f.die * 128 + f.ve → veAt r.m d v = veAt s.m d v)
    ∧ r = { s with m := { s.m with ves := r.m.ves, free := s.m.free + 64 } }

theorem freeIssued_retire (s : State) (f : VeF) {t u : Team} (h : u = { t with v := u.v, vp := u.vp, p := u.p, flags := u.flags }) :
    FreeIssued s f t { s with m := retire f u { s.m with free := s.m.free + 64 } } { u with pc := (u.pc + 8) % 2 ^ 48 } :=
  ⟨teamAt_retire f u _, by rw [h], fun _ hk => teams_retire_other f u _ hk, fun _ _ hv => veAt_retire_other f u _ hv, rfl⟩

/-! ### Predicates (R251) -/

theorem pPut_rest (t : Team) (lane r : Nat) (b : Bool) : pPut t lane r b = { t with p := (pPut t lane r b).p } := by
  unfold pPut
  split <;> rfl

/-- P0 and every other predicate read as they did. -/
theorem pGet_pPut_other (t : Team) {lane r l k : Nat} (b : Bool) (hr : r < 8) (hk : k < 8) (h : k ≠ r ∨ k = 0 ∨ l ≠ lane) :
    pGet (pPut t lane r b) l k = pGet t l k := by
  by_cases h0 : k = 0
  · simp [pGet, h0]
  · by_cases hr0 : r = 0
    · rw [pPut, if_pos hr0]
    · have hkey : l * 8 + k ≠ lane * 8 + r := by omega
      simp only [pGet, pPut, if_neg hr0, tfind_tput, if_neg hkey]

/-- Team `u` is team `t` after CMP has written its predicate in the lanes `done`. -/
structure Compared (f : VeF) (t : Team) (done : List Nat) (u : Team) : Prop where
  rest : u = { t with
    p := u.p, flags := { t.flags with poison := t.flags.poison || done.any fun l => vPoison t l f.ra || vPoison t l f.rb } }
  pred : ∀ l, ∀ k < 8, k ≠ f.rd % 8 ∨ k = 0 ∨ l ∉ done → pGet u l k = pGet t l k

theorem Compared.put {f : VeF} {t u : Team} {done : List Nat} (h : Compared f t done u) (lane : Nat) (b : Bool) :
    Compared f t (done ++ [lane]) { pPut u lane (f.rd % 8) b with
      flags := orFlags (pPut u lane (f.rd % 8) b).flags { poison := vPoison t lane f.ra || vPoison t lane f.rb } } := by
  refine ⟨?_, fun l k hk hor => ?_⟩
  · rw [pPut_rest, h.rest]
    simp [orFlags, Bool.or_assoc]
  · have hlane : k ≠ f.rd % 8 ∨ k = 0 ∨ l ≠ lane := hor.imp_right (Or.imp_right fun hl he => hl (by simp [he]))
    have hdone : k ≠ f.rd % 8 ∨ k = 0 ∨ l ∉ done := hor.imp_right (Or.imp_right fun hl hm => hl (by simp [hm]))
    exact (pGet_pPut_other u b (Nat.mod_lt _ (by decide)) hk hlane).trans (h.pred l k hk hdone)

/-! ### The instructions -/

section
variable {s : State} {f : VeF} {t : Team} (hwf : f.wf = true) (ht : teamAt s.m f.die f.ve f.team = some t) (hready : t.wait = .ready)
  (hregs : t.atomRegs = [])
include hwf ht hready hregs

/-- Each guarded lane receives what the operation makes of its registers and of a free value of its own. -/
theorem freeLaneOp_answer {c : Instr} {srcs : List Nat} {op : Team → Nat → Nat → Nat} (hc : c.wf = true) :
    ∃ r u, onDev c (freeLaneOp f srcs op) s = .next r ∧ FreeIssued s f t r u ∧ u.p = t.p
      ∧ ∀ l < 64, (guardOn t f l = true → vGet u l f.rd = op t l (Config.freeNat (s.m.free + l)) % 2 ^ 32)
        ∧ (guardOn t f l = false → vGet u l f.rd = vGet t l f.rd) ∧ ∀ k < 32, k ≠ f.rd → vGet u l k = vGet t l k := by
  obtain ⟨-, -, -, hrd, -⟩ := VeF.bounds hwf
  have hexec : onDev c (freeLaneOp f srcs op) s = .next { s with m := _ } := onDev_team hc ht hready hregs
  have hwrote := lanesWrite_wrote t srcs (fun l => (op t l (Config.freeNat (s.m.free + l)) % 2 ^ 32, {})) hrd
  rw [hexec]
  refine ⟨_, _, rfl, freeIssued_retire s f (by rw [hwrote.rest]), by rw [hwrote.rest], fun l hl => ⟨fun hon => ?_, fun hoff => ?_,
    fun k hk hne => hwrote.other l hk hne⟩⟩
  · exact (hwrote.guarded hrd hl).trans ((if_pos hon).trans (Nat.mod_mod _ _))
  · exact (hwrote.guarded hrd hl).trans (if_neg (by simp [hoff]))

/-- R250: CMP's predicate is that of RD in its lane. -/
theorem exec_cmp : ∃ r u, exec (.cmp f) s = .next r ∧ FreeIssued s f t r u ∧ u.v = t.v ∧ u.vp = t.vp
    ∧ u.flags = { t.flags with poison := t.flags.poison || (lanesOn t f).any (fun l => vPoison t l f.ra || vPoison t l f.rb) }
    ∧ ∀ l, ∀ k < 8, k ≠ f.rd % 8 ∨ k = 0 ∨ l ∉ lanesOn t f → pGet u l k = pGet t l k := by
  have hexec : exec (.cmp f) s = .next { s with m := _ } := onDev_team (c := .cmp f) hwf ht hready hregs
  rw [hexec]
  have hcomp := foldl_invariant (P := Compared f t) (b := t) (lanesOn t f) (lanesOn_nodup t f) ⟨by simp, fun _ _ _ _ => rfl⟩
    fun done l u h _ => h.put l (decide (Config.freeNat (s.m.free + l) % 2 = 1))
  exact ⟨_, _, rfl, freeIssued_retire s f (by rw [hcomp.rest]), by rw [hcomp.rest], by rw [hcomp.rest], by rw [hcomp.rest], hcomp.pred⟩

end

/-- Settles O25: SHL, SHR and SEL give each lane what their operation makes of a free value that the stated cases do not use. -/
theorem vectorShiftsAndSelects : Obligations.VectorShiftsAndSelects := by
  unfold Obligations.VectorShiftsAndSelects
  intro s f t hwf ht hready hregs issued
  refine ⟨?_, ?_, ?_, ?_⟩
  · obtain ⟨r, u, hexec, hissued, hp, hlanes⟩ := freeLaneOp_answer (c := .shl f) hwf ht hready hregs hwf
    refine ⟨r, u, hexec, hissued, hp, fun l hl => ⟨fun hon hshort => ?_, (hlanes l hl).2⟩⟩
    rw [(hlanes l hl).1 hon, if_pos hshort, Nat.shiftLeft_eq]
  · obtain ⟨r, u, hexec, hissued, hp, hlanes⟩ := freeLaneOp_answer (c := .shr f) hwf ht hready hregs hwf
    refine ⟨r, u, hexec, hissued, hp, fun l hl => ⟨fun hon hshort hpos => ?_, (hlanes l hl).2⟩⟩
    have hfits : vGet t l f.ra / 2 ^ vGet t l f.rb < 2 ^ 32 := (Nat.div_le_self _ _).trans_lt (hpos.trans (by decide))
    rw [(hlanes l hl).1 hon, if_neg (Nat.not_le.mpr hshort), if_neg fun hneg => Nat.not_le.mpr hpos hneg.1, Nat.shiftRight_eq_div_pow,
      Nat.mod_eq_of_lt hfits]
  · obtain ⟨r, u, hexec, hissued, hv, hvp, hflags, hpred⟩ := exec_cmp hwf ht hready hregs
    refine ⟨r, u, hexec, hissued, hv, hvp, fun q hq => ?_, fun l _ k hk hor => hpred l k hk (hor.imp_right (Or.imp_right fun hoff => ?_))⟩
    · rw [hflags, ← hq, lanesOn, List.any_filter]
    · simp [mem_lanesOn, hoff]
  · obtain ⟨r, u, hexec, hissued, hp, hlanes⟩ := freeLaneOp_answer (c := .sel f) hwf ht hready hregs hwf
    refine ⟨r, u, hexec, hissued, hp, fun l hl => ⟨fun hon => ?_, (hlanes l hl).2⟩⟩
    rw [(hlanes l hl).1 hon]
    by_cases hodd : Config.freeNat (s.m.free + l) % 2 = 1
    · exact .inl (by rw [if_pos hodd])
    · exact .inr (by rw [if_neg hodd])

end Sys2Proof.Machine
end

section
/-! PROOFS of the family 06_vector_engines_scratchpad: words that units put into memory, and the loads and stores of the lanes (R252, R257,
R304, R305). -/

namespace Sys2Proof.Machine

/-! ### A word that is put into memory (R7, R257) -/

theorem memNat_congr {x y : Mem} {a n : Nat} (h : ∀ b, a ≤ b → b < a + n → memByte x b = memByte y b) : memNat x a n = memNat y a n := by
  have hread : memRead x a n = memRead y a n :=
    List.map_congr_left fun i hi => h (a + i) (Nat.le_add_right a i) (Nat.add_lt_add_left (List.mem_range.mp hi) a)
  rw [memNat, hread, memNat]

/-- Memory when the `n` bytes of a value have been written; a poisoned value marks the blocks it touches. -/
def memPut (x : Mem) (a n v : Nat) (poison : Bool) : Mem :=
  if poison then memPoison (memWrite x a (leBytes n v)) a n else memWrite x a (leBytes n v)

section
variable (x : Mem) (a n v : Nat) (p : Bool)

theorem memPut_frame : memPut x a n v p = { x with
    bytes := (memPut x a n v p).bytes, poison := (memPut x a n v p).poison, damaged := (memPut x a n v p).damaged
    lines := (memPut x a n v p).lines } := by
  unfold memPut
  split
  · obtain ⟨marks, h⟩ := memPoison_frame (memWrite x a (leBytes n v)) a n
    rw [h]
    rfl
  · rfl

theorem memByte_memPut (b : Nat) : memByte (memPut x a n v p) b = memByte (memWrite x a (leBytes n v)) b := by
  unfold memPut
  split
  · obtain ⟨marks, h⟩ := memPoison_frame (memWrite x a (leBytes n v)) a n
    rw [h]
    rfl
  · rfl

theorem memByte_memPut_out {b : Nat} (h : b < a ∨ a + n ≤ b) : memByte (memPut x a n v p) b = memByte x b := by
  rw [memByte_memPut]
  exact memByte_memWrite_out _ _ _ _ (by simpa using h)

theorem memNat_memPut : memNat (memPut x a n v p) a n = v % 256 ^ n := by
  rw [memNat_congr fun b _ _ => memByte_memPut x a n v p b, memNat_memWrite_leBytes]

/-- A poisoned value poisons its blocks. -/
theorem memPoisoned_memPut (hn : 0 < n) : memPoisoned (memPut x a n v true) a n = true := memPoisoned_memPoison _ a hn

/-- A value shorter than a block clears no mark. -/
theorem memPoisoned_memPut_keeps {b k : Nat} (hn : n < 64) (h : memPoisoned x b k = true) : memPoisoned (memPut x a n v p) b k = true := by
  have hwrite : memPoisoned (memWrite x a (leBytes n v)) b k = true := by
    rw [memPoisoned_iff] at h ⊢
    obtain ⟨c, hc, hin⟩ := h
    refine ⟨c, List.mem_filter.mpr ⟨hc, ?_⟩, hin⟩
    have hlen : (leBytes n v).length = n := by simp
    simp only [blockIn, hlen, Bool.not_eq_true', Bool.and_eq_false_iff, decide_eq_false_iff_not]
    omega
  unfold memPut
  split
  · exact memPoisoned_memPoison_keeps a n hwrite
  · exact hwrite

end

/-! ### A word of each of several lanes -/

/-- Memory when the lanes have put their words, in this order. -/
def memPutLanes (addr val : Nat → Nat) (pois : Nat → Bool) (lanes : List Nat) (x : Mem) : Mem :=
  lanes.foldl (fun x l => memPut x (addr l) 4 (val l) (pois l)) x

section
variable {addr val : Nat → Nat} {pois : Nat → Bool}

theorem memPutLanes_append (lanes : List Nat) (j : Nat) (x : Mem) : memPutLanes addr val pois (lanes ++ [j]) x
    = memPut (memPutLanes addr val pois lanes x) (addr j) 4 (val j) (pois j) := by simp [memPutLanes]

theorem memPutLanes_frame (lanes : List Nat) (x : Mem) : memPutLanes addr val pois lanes x = { x with
    bytes := (memPutLanes addr val pois lanes x).bytes, poison := (memPutLanes addr val pois lanes x).poison
    damaged := (memPutLanes addr val pois lanes x).damaged, lines := (memPutLanes addr val pois lanes x).lines } := by
  induction lanes using List.reverseRecOn with
  | nil => rfl
  | append_singleton lanes j ih => rw [memPutLanes_append, memPut_frame, ih]

/-- A byte that no lane addresses stands. -/
theorem memByte_memPutLanes_out {lanes : List Nat} (x : Mem) {b : Nat} (h : ∀ l ∈ lanes, b < addr l ∨ addr l + 4 ≤ b) :
    memByte (memPutLanes addr val pois lanes x) b = memByte x b := by
  induction lanes using List.reverseRecOn with
  | nil => rfl
  | append_singleton lanes j ih =>
    rw [memPutLanes_append, memByte_memPut_out _ _ _ _ _ (h j (by simp))]
    exact ih fun l hl => h l (List.mem_append_left _ hl)

/-- The word of a lane that no other lane touches. -/
theorem memNat_memPutLanes {lanes : List Nat} (x : Mem) {l : Nat} (hl : l ∈ lanes)
    (hother : ∀ k ∈ lanes, k ≠ l → addr l + 4 ≤ addr k ∨ addr k + 4 ≤ addr l) :
    memNat (memPutLanes addr val pois lanes x) (addr l) 4 = val l % 2 ^ 32 := by
  induction lanes using List.reverseRecOn with
  | nil => cases hl
  | append_singleton lanes j ih =>
    rw [memPutLanes_append]
    by_cases hj : j = l
    · subst hj
      exact memNat_memPut _ _ _ _ _
    · have hapart := hother j (by simp) hj
      have hin : l ∈ lanes := (List.mem_append.mp hl).resolve_right fun h => hj (List.mem_singleton.mp h).symm
      rw [memNat_congr fun b _ _ => memByte_memPut_out _ (addr j) 4 _ _ (by omega)]
      exact ih hin fun k hk => hother k (List.mem_append_left _ hk)

theorem memPoisoned_memPutLanes {lanes : List Nat} (x : Mem) {l : Nat} (hl : l ∈ lanes) (hp : pois l = true) :
    memPoisoned (memPutLanes addr val pois lanes x) (addr l) 4 = true := by
  induction lanes using List.reverseRecOn with
  | nil => cases hl
  | append_singleton lanes j ih =>
    rw [memPutLanes_append]
    rcases List.mem_append.mp hl with hin | hj
    · exact memPoisoned_memPut_keeps _ _ _ _ _ (by decide) (ih hin)
    · obtain rfl := List.mem_singleton.mp hj
      rw [hp]
      exact memPoisoned_memPut _ _ _ _ (by decide)

end

/-! ### Accesses that are admitted (R35, R124, R261) -/

/-- No access is barred: nothing is counted and nothing raised. -/
theorem barredLanes_none {m : Dev} {unit slot n cause : Nat} {as : List Nat} (h : ∀ a ∈ as, barred m unit slot a n cause = false) :
    barredLanes m unit slot n cause as = m := by
  have hnone : as.filter (fun a => barred m unit slot a n cause) = [] := List.filter_eq_nil_iff.mpr fun a ha => by simp [h a ha]
  simp only [barredLanes, hnone, List.foldl_nil]

/-- R35, R124, R261: when an access reaches memory. -/
theorem admitAccess_iff {m : Dev} {unit slot addr n cause : Nat} : admitAccess m unit slot addr n cause = (true, m)
    ↔ barred m unit slot addr n cause = false ∧ (cause = 0 ∨ (isExtMem addr && underHost m addr n) = false) := by
  unfold admitAccess
  cases barred m unit slot addr n cause with
  | true => simp
  | false => cases isExtMem addr <;> simp

/-- A store of a lane where no page is protected and no bucket of the host lies. -/
theorem storeLane_eq {m : Dev} {addr : Nat} (v : Nat) (p : Bool) (hjobs : ∀ x ∈ m.jobs, x.2.secure.protectedPages = [])
    (hhost : (isExtMem addr && underHost m addr 4) = false) : storeLane m addr v p = updMem m (memPut · addr 4 v p) := by
  simp only [storeLane, hhost, Bool.false_eq_true, if_false, touchPages_unprotected hjobs]
  rfl

theorem foldl_storeLane {m : Dev} {addr val : Nat → Nat} {pois : Nat → Bool} {lanes : List Nat}
    (hjobs : ∀ x ∈ m.jobs, x.2.secure.protectedPages = []) (hhost : ∀ l ∈ lanes, (isExtMem (addr l) && underHost m (addr l) 4) = false) :
    lanes.foldl (fun m l => storeLane m (addr l) (val l) (pois l)) m = updMem m (memPutLanes addr val pois lanes) := by
  induction lanes using List.reverseRecOn with
  | nil => rfl
  | append_singleton lanes j ih =>
    rw [List.foldl_append, List.foldl_cons, List.foldl_nil, ih fun l hl => hhost l (List.mem_append_left _ hl)]
    refine (storeLane_eq (m := updMem m (memPutLanes addr val pois lanes)) _ _ hjobs (hhost j (by simp))).trans ?_
    simp only [updMem, memPutLanes_append]

/-! ### The instructions -/

theorem vGet_lt (t : Team) (lane r : Nat) : vGet t lane r < 2 ^ 32 := by
  unfold vGet
  split
  · exact BitVec.isLt _
  · exact Nat.mod_lt _ (by decide)

/-- R252: the address of a lane's word. -/
def wordAddr (t : Team) (f : VeF) (l : Nat) : Nat := alignTo 4 (laneAddr t (immBits f 0 4) f.ra l)

theorem alignTo_laneAddr (t : Team) (f : VeF) (l : Nat) : alignTo 4 (laneAddr t (immBits f 0 4) f.ra l) = wordAddr t f l := rfl

/-- Words at two addresses lie apart. -/
theorem wordAddr_apart {t : Team} {f : VeF} {l k : Nat} (h : wordAddr t f k ≠ wordAddr t f l) :
    wordAddr t f l + 4 ≤ wordAddr t f k ∨ wordAddr t f k + 4 ≤ wordAddr t f l := by
  simp only [wordAddr, alignTo] at h ⊢
  omega

/-- R252, R257: the team when LD has given RD of the guarded lanes their words of memory `x`; a lane whose read is barred gets zero. -/
def loaded (f : VeF) (t : Team) (bad : Nat → Bool) (x : Mem) : Team :=
  (lanesOn t f).foldl (fun u l =>
    let p := (!bad l && memPoisoned x (wordAddr t f l) 4) || vPoison t l f.ra
    let u := vPut u l f.rd (if bad l then 0 else memNat x (wordAddr t f l) 4) p
    { u with flags := orFlags u.flags { poison := p } }) t

theorem loaded_wrote {f : VeF} (t : Team) (bad : Nat → Bool) (x : Mem) (hrd : f.rd < 32) :
    Wrote f t (fun l => if bad l then 0 else memNat x (wordAddr t f l) 4) (lanesOn t f) (loaded f t bad x) :=
  foldl_wrote t hrd fun _ _ => ⟨_, _, rfl⟩

theorem vPoison_loaded {f : VeF} (t : Team) (bad : Nat → Bool) (x : Mem) (hrd : f.rd < 32) {l : Nat} (hl : l ∈ lanesOn t f) :
    vPoison (loaded f t bad x) l f.rd = ((!bad l && memPoisoned x (wordAddr t f l) 4) || vPoison t l f.ra) :=
  (vPoison_foldl t (val := fun l => if bad l then 0 else memNat x (wordAddr t f l) 4) hrd (fun _ _ => ⟨_, rfl⟩) (lanesOn t f) hrd).trans
    (if_pos ⟨rfl, hl⟩)

/-- What the guarded lanes of LD and ST meet when none of their accesses is barred. -/
theorem barredLanes_words {m : Dev} {f : VeF} {t : Team} {n cause : Nat}
    (hmay : ∀ l ∈ lanesOn t f, barred m (veUnit f) t.job (wordAddr t f l) n cause = false) :
    barredLanes m (veUnit f) t.job n cause ((lanesOn t f).map (wordAddr t f)) = m :=
  barredLanes_none fun a ha => by
    obtain ⟨l, hl, rfl⟩ := List.mem_map.mp ha
    exact hmay l hl

section
variable {s : State} {f : VeF} {t : Team} (hwf : f.wf = true) (ht : teamAt s.m f.die f.ve f.team = some t) (hready : t.wait = .ready)
  (hregs : t.atomRegs = [])
include hwf ht hready hregs

/-- R252, R257: LD of lanes that may read their words. -/
theorem exec_ld (hdam : s.m.mem.damaged = [])
    (hmay : ∀ l ∈ lanesOn t f, barred s.m (veUnit f) t.job (wordAddr t f l) 4 0 = false) :
    exec (.ld f) s = .next { s with
      m := retire f (loaded f t (fun l => barred s.m (veUnit f) t.job (wordAddr t f l) 4 0) s.m.mem) s.m } := by
  have hexec : exec (.ld f) s = .next { s with m := _ } := onDev_team (c := .ld f) hwf ht hready hregs
  rw [hexec]
  have hfinds : ((lanesOn t f).filter fun l => !barred s.m (veUnit f) t.job (wordAddr t f l) 4 0).foldl
      (fun m l => readFinds m (veUnit f) (wordAddr t f l) 4)
      (barredLanes s.m (veUnit f) t.job 4 0 ((lanesOn t f).map (wordAddr t f))) = s.m := by
    rw [barredLanes_words hmay]
    exact List.foldl_fixed' (fun l => readFinds_undamaged hdam _ _ _) _
  simp only [alignTo_laneAddr, hfinds]
  rfl

/-- R252, R257: ST of lanes that may write their words. -/
theorem exec_st (hjobs : ∀ x ∈ s.m.jobs, x.2.secure.protectedPages = [])
    (hmay : ∀ l ∈ lanesOn t f, barred s.m (veUnit f) t.job (wordAddr t f l) 4 1 = false)
    (hhost : ∀ l ∈ lanesOn t f, (isExtMem (wordAddr t f l) && underHost s.m (wordAddr t f l) 4) = false) :
    exec (.st f) s = .next { s with
      m := retire f { t with flags := orFlags t.flags { poison := (lanesOn t f).any fun l => vPoison t l f.rb } }
        (updMem s.m (memPutLanes (wordAddr t f) (fun l => vGet t l f.rb) (fun l => vPoison t l f.rb) (lanesOn t f))) } := by
  have hgo : (lanesOn t f).filter (fun l => !barred s.m (veUnit f) t.job (wordAddr t f l) 4 1) = lanesOn t f :=
    List.filter_eq_self.mpr fun l hl => by rw [hmay l hl]; rfl
  have hstores : ((lanesOn t f).filter fun l => !barred s.m (veUnit f) t.job (wordAddr t f l) 4 1).foldl
      (fun m l => storeLane m (wordAddr t f l) (vGet t l f.rb) (vPoison t l f.rb))
      (barredLanes s.m (veUnit f) t.job 4 1 ((lanesOn t f).map (wordAddr t f)))
      = updMem s.m (memPutLanes (wordAddr t f) (fun l => vGet t l f.rb) (fun l => vPoison t l f.rb) (lanesOn t f)) := by
    rw [barredLanes_words hmay, hgo]
    exact foldl_storeLane hjobs hhost
  rw [← hstores]
  exact onDev_team (c := .st f) hwf ht hready hregs

end

/-- Settles O28: LD reads memory as it stands; what ST leaves in memory are the words of the lanes, put one after the other. -/
theorem vectorLoadsAndStores : Obligations.VectorLoadsAndStores := by
  unfold Obligations.VectorLoadsAndStores
  intro s f t hwf ht hready hregs addr haddr
  obtain rfl : wordAddr t f = addr := funext haddr
  obtain ⟨-, -, -, hrd, -⟩ := VeF.bounds hwf
  refine ⟨fun hdam hadmit => ?_, fun hadmit hjobs => ?_⟩
  · have hmay : ∀ l ∈ lanesOn t f, barred s.m (veUnit f) t.job (wordAddr t f l) 4 0 = false := fun l hl =>
      not_barred_of_admitted (hadmit l (mem_lanesOn.mp hl).1 (mem_lanesOn.mp hl).2)
    have hwrote := loaded_wrote t (fun l => barred s.m (veUnit f) t.job (wordAddr t f l) 4 0) s.m.mem hrd
    obtain ⟨hteam, hpc, hlanes, hp, -, -⟩ := hwrote.issued (s := s) (m := s.m) hrd rfl
    refine ⟨_, _, exec_ld hwf ht hready hregs hdam hmay, hteam, hpc, fun l hl hon => ?_, fun l hl => (hlanes l hl).1,
      fun l hl => (hlanes l hl).2, hp, by rw [hwrote.rest], rfl⟩
    have hl' : l ∈ lanesOn t f := mem_lanesOn.mpr ⟨hl, hon⟩
    refine ⟨?_, ?_⟩
    · rw [hwrote.value hrd _ hl hon]
      simp only [hmay l hl', Bool.false_eq_true, if_false]
      exact Nat.mod_eq_of_lt (memNat_lt _ _ 4)
    · refine (vPoison_loaded t _ s.m.mem hrd hl').trans ?_
      simp only [hmay l hl', Bool.not_false, Bool.true_and]
  · have hlane : ∀ l ∈ lanesOn t f, admitAccess s.m (veUnit f) t.job (wordAddr t f l) 4 1 = (true, s.m) := fun l hl =>
      hadmit l (mem_lanesOn.mp hl).1 (mem_lanesOn.mp hl).2
    refine ⟨_, _, exec_st hwf ht hready hregs hjobs (fun l hl => not_barred_of_admitted (hlane l hl))
      (fun l hl => (admitAccess_iff.mp (hlane l hl)).2.resolve_left (by decide)), teamAt_retire f _ _, rfl,
      fun l hl hon hother => ⟨?_, fun hp => ?_⟩, fun a ha => ?_, ?_⟩
    · refine (memNat_memPutLanes s.m.mem (mem_lanesOn.mpr ⟨hl, hon⟩) fun k hk hne => ?_).trans (Nat.mod_eq_of_lt (vGet_lt t l f.rb))
      exact wordAddr_apart (hother k (mem_lanesOn.mp hk).1 (mem_lanesOn.mp hk).2 hne)
    · exact memPoisoned_memPutLanes s.m.mem (mem_lanesOn.mpr ⟨hl, hon⟩) hp
    · exact memByte_memPutLanes_out s.m.mem fun l hl => ha l (mem_lanesOn.mp hl).1 (mem_lanesOn.mp hl).2
    · exact congrArg (fun x => ({ s with m := { retire f { t with
        flags := orFlags t.flags { poison := (lanesOn t f).any fun l => vPoison t l f.rb } } s.m with mem := x } } : State))
        (memPutLanes_frame (lanesOn t f) s.m.mem)

end Sys2Proof.Machine
end

section
/-! PROOFS of the family 06_vector_engines_scratchpad: atomics of the lanes, and the caches that apply posted ones (R268 to R277). -/

namespace Sys2Proof.Machine

/-! ### Where a lane's word lies (R30, R33) -/

theorem placeOf_onBank {a : Nat} (h : onBank a = true) : ∃ d b, placeOf a = .spad d b := by
  unfold onBank at h
  split at h
  · exact ⟨_, _, ‹_›⟩
  · cases h

theorem placeOf_onHbm {a : Nat} (h : onHbm a = true) : ∃ k, placeOf a = .hbm k := by
  unfold onHbm at h
  split at h
  · exact ⟨_, ‹_›⟩
  · cases h

theorem onHbm_of_onBank {a : Nat} (h : onBank a = true) : onHbm a = false ∧ onNothing a = false := by
  obtain ⟨d, b, hplace⟩ := placeOf_onBank h
  simp [onHbm, onNothing, hplace]

theorem onBank_of_onHbm {a : Nat} (h : onHbm a = true) : onBank a = false ∧ onNothing a = false := by
  obtain ⟨k, hplace⟩ := placeOf_onHbm h
  simp [onBank, onNothing, hplace]

/-! ### One lane of an atomic (R269, R275) -/

/-- R269: the entry of the buffer for a lane. -/
def bufferedLane (f : VeF) (t : Team) (op no l : Nat) : AtomOp := {
  team := f.team, lane := l, addr := atomAddr t f op l, op := op, operand := atomOperand t f op l, rd := f.rd, job := t.job
  poison := vPoison t l f.rb, no := no }

/-- R275: what a lane posts. -/
def postedLane (f : VeF) (t : Team) (op l : Nat) : Posted := {
  addr := atomAddr t f op l, op := op, operand := atomOperand t f op l, die := f.die, ve := f.ve, team := f.team, job := t.job
  poison := vPoison t l f.rb }

section
variable {f : VeF} {t : Team} {op no : Nat}

theorem atomLane_bank {l : Nat} (m : Dev) (h : onBank (atomAddr t f op l) = true) :
    atomLane f t op no m l = updVe m f.die f.ve (fun v => { v with atoms := v.atoms ++ [bufferedLane f t op no l] }) := by
  obtain ⟨d, b, hplace⟩ := placeOf_onBank h
  simp only [atomLane, hplace, bufferedLane]

theorem atomLane_hbm {l : Nat} (m : Dev) (h : onHbm (atomAddr t f op l) = true) : atomLane f t op no m l =
    { m with posted := tmod [] m.posted (dieOfAddr (atomAddr t f op l)) (· ++ [postedLane f t op l]) } := by
  obtain ⟨k, hplace⟩ := placeOf_onHbm h
  simp only [atomLane, hplace, postedLane]

/-- R269: lanes on banks enter the buffer in order. -/
theorem foldl_atomLane_bank {lanes : List Nat} (m : Dev) (h : ∀ l ∈ lanes, onBank (atomAddr t f op l) = true) :
    veAt (lanes.foldl (atomLane f t op no) m) f.die f.ve
        = { veAt m f.die f.ve with atoms := (veAt m f.die f.ve).atoms ++ lanes.map (bufferedLane f t op no) }
      ∧ lanes.foldl (atomLane f t op no) m = { m with ves := (lanes.foldl (atomLane f t op no) m).ves } := by
  induction lanes using List.reverseRecOn with
  | nil => exact ⟨by simp, rfl⟩
  | append_singleton lanes j ih =>
    obtain ⟨hve, hrest⟩ := ih fun l hl => h l (List.mem_append_left _ hl)
    rw [List.foldl_append, List.foldl_cons, List.foldl_nil, atomLane_bank _ (h j (by simp))]
    refine ⟨?_, by rw [hrest]; rfl⟩
    rw [veAt_updVe_same, hve]
    simp

/-- R275: lanes on HBM of one die are posted at its cache in order. -/
theorem foldl_atomLane_hbm {lanes : List Nat} {d : Nat} (m : Dev)
    (h : ∀ l ∈ lanes, onHbm (atomAddr t f op l) = true ∧ dieOfAddr (atomAddr t f op l) = d) :
    tget [] (lanes.foldl (atomLane f t op no) m).posted d = tget [] m.posted d ++ lanes.map (postedLane f t op)
      ∧ lanes.foldl (atomLane f t op no) m = { m with posted := (lanes.foldl (atomLane f t op no) m).posted } := by
  induction lanes using List.reverseRecOn with
  | nil => exact ⟨by simp, rfl⟩
  | append_singleton lanes j ih =>
    obtain ⟨hposted, hrest⟩ := ih fun l hl => h l (List.mem_append_left _ hl)
    obtain ⟨hhbm, hdie⟩ := h j (by simp)
    rw [List.foldl_append, List.foldl_cons, List.foldl_nil, atomLane_hbm _ hhbm, hdie]
    refine ⟨?_, by rw [hrest]⟩
    rw [tget_tmod, if_pos rfl, hposted]
    simp

end

/-! ### The instruction (R250, R269, R271) -/

/-- What all lanes answer alike, the lanes that decide answer. -/
theorem any_deciding {on : List Nat} {p : Nat → Bool} {b : Bool} (hon : ∀ l ∈ on, l < 64) (h : ∀ l < 64, p l = b) :
    (if on.isEmpty then List.range 64 else on).any p = b := by
  obtain ⟨l, hl⟩ : ∃ l, l ∈ (if on.isEmpty then List.range 64 else on) := by
    cases on with
    | nil => exact ⟨0, by simp⟩
    | cons k on => exact ⟨k, by simp⟩
  have hall : ∀ k ∈ (if on.isEmpty then List.range 64 else on), p k = b := fun k hk => h k <| by
    split at hk
    · exact List.mem_range.mp hk
    · exact hon k hk
  cases b with
  | false => exact List.any_eq_false.mpr fun k hk => by simp [hall k hk]
  | true => exact List.any_eq_true.mpr ⟨l, hl, hall l hl⟩

theorem atomDest_eq (f : VeF) (op : Nat) : atomDest f op = if op = 1 ∨ op = 3 then [f.rd, (f.rd + 1) % 32] else [f.rd] := by
  by_cases h : op = 1 ∨ op = 3 <;> simp [atomDest, atomBytes, h]

/-- R271: team `t` when its atomic has been issued; on banks its destination registers wait for the commit. -/
def atomTeam (f : VeF) (t : Team) (op : Nat) (bank : Bool) : Team := { t with
  atomRegs := (if bank then t.atomRegs ++ atomDest f op else t.atomRegs)
  flags := orFlags t.flags { poison := (lanesOn t f).any fun l => vPoison t l f.rb } }

/-- R269: 64 entries of the buffer are taken. -/
def atomTakes (f : VeF) (t : Team) (m : Dev) : Dev :=
  updVe m f.die f.ve fun v => { v with atomUsed := tmod 0 v.atomUsed t.job (· + 64) }

theorem atoms_atomTakes (f : VeF) (t : Team) (m : Dev) : (veAt (atomTakes f t m) f.die f.ve).atoms = (veAt m f.die f.ve).atoms := by
  rw [atomTakes, veAt_updVe_same]

theorem atomUsed_atomTakes (f : VeF) (t : Team) (m : Dev) :
    tget 0 (veAt (atomTakes f t m) f.die f.ve).atomUsed t.job = tget 0 (veAt m f.die f.ve).atomUsed t.job + 64 := by
  rw [atomTakes, veAt_updVe_same]
  exact (tget_tmod 0 (veAt m f.die f.ve).atomUsed t.job t.job (· + 64)).trans (if_pos rfl)

theorem atoms_retire (f : VeF) (t : Team) (m : Dev) : (veAt (retire f t m) f.die f.ve).atoms = (veAt m f.die f.ve).atoms := by
  rw [retire, retireAt, veAt_updVe_same]

theorem atomUsed_retire (f : VeF) (t : Team) (m : Dev) : (veAt (retire f t m) f.die f.ve).atomUsed = (veAt m f.die f.ve).atomUsed := by
  rw [retire, retireAt, veAt_updVe_same]

section
variable {s : State} {f : VeF} {t : Team} (ht : teamAt s.m f.die f.ve f.team = some t) (hready : t.wait = .ready) (hregs : t.atomRegs = [])
include ht hready hregs

/-- R250: an operation code of 8 or more is not allowed. -/
theorem atom_illegal {c : Instr} (op : Nat) (hc : c.wf = true) (himm : 8 ≤ f.imm % 16) :
    onDev c (atom f op) s = .next { s with m := illegal f t s.m } := by
  have hexec : onDev c (atom f op) s = .next { s with m := _ } := onDev_team hc ht hready hregs
  rw [hexec, if_pos (show 8 ≤ immBits f 0 4 from himm)]

/-- An atomic of an allowed code whose lanes all lie where it may act. -/
theorem atom_goes {c : Instr} {op : Nat} {bank : Bool} (hc : c.wf = true) (himm : f.imm % 16 < 8)
    (hlegal : ∀ l < 64, ¬((op = 6 ∨ op = 7) ∧ onBank (atomAddr t f op l) = true) ∧ ¬((op = 2 ∨ op = 3) ∧ onHbm (atomAddr t f op l) = true))
    (hbank : ∀ l < 64, onBank (atomAddr t f op l) = bank) (hplaces : ∀ l < 64, onNothing (atomAddr t f op l) = false)
    (hroom : bank = true → atomEntries (veAt s.m f.die f.ve) + 64 ≤ 2048) :
    onDev c (atom f op) s = .next { s with
      m := retire f (atomTeam f t op bank)
        ((lanesOn t f).foldl (atomLane f t op (tget 0 (veAt s.m f.die f.ve).atomUsed t.job / 64))
          (if bank then atomTakes f t s.m else s.m)) } := by
  have hexec : onDev c (atom f op) s = .next { s with m := _ } := onDev_team hc ht hready hregs
  have hany := any_deciding (on := lanesOn t f) (fun l hl => (mem_lanesOn.mp hl).1) hbank
  have hmay : (lanesOn t f).any (fun l => ((decide (op = 6) || decide (op = 7)) && onBank (atomAddr t f op l))
      || ((decide (op = 2) || decide (op = 3)) && onHbm (atomAddr t f op l))) = false :=
    List.any_eq_false.mpr fun l hl => by simpa using hlegal l (mem_lanesOn.mp hl).1
  have hnothing : ((lanesOn t f).map (atomAddr t f op)).filter onNothing = [] :=
    List.filter_eq_nil_iff.mpr fun a ha => by
      obtain ⟨l, hl, rfl⟩ := List.mem_map.mp ha
      simp [hplaces l (mem_lanesOn.mp hl).1]
  have hnone : ∀ m : Dev, barredLanes m (veUnit f) t.job (atomBytes op) 2 [] = m := fun _ => barredLanes_none fun _ h => nomatch h
  have hfits : ¬(bank = true ∧ 2048 < atomEntries (veAt s.m f.die f.ve) + 64) := fun h => Nat.not_le.mpr h.2 (hroom h.1)
  have hcode : ¬8 ≤ immBits f 0 4 := Nat.not_le.mpr himm
  simp only [hexec, hany, hmay, hnothing, hnone, if_neg hcode, if_neg hfits, Bool.false_eq_true, if_false]
  cases bank <;> rfl

/-- R269: an atomic whose lanes all lie on banks, with room in the buffer, is buffered. -/
theorem atom_buffered {c : Instr} {op : Nat} (hc : c.wf = true) (himm : f.imm % 16 < 8) (hop : op < 6)
    (hbank : ∀ l < 64, onBank (atomAddr t f op l) = true) (hroom : atomEntries (veAt s.m f.die f.ve) + 64 ≤ 2048) :
    ∃ r, onDev c (atom f op) s = .next r
      ∧ teamAt r.m f.die f.ve f.team = some { atomTeam f t op true with pc := (t.pc + 8) % 2 ^ 48 }
      ∧ (veAt r.m f.die f.ve).atoms = (veAt s.m f.die f.ve).atoms
          ++ (lanesOn t f).map (bufferedLane f t op (tget 0 (veAt s.m f.die f.ve).atomUsed t.job / 64))
      ∧ tget 0 (veAt r.m f.die f.ve).atomUsed t.job = tget 0 (veAt s.m f.die f.ve).atomUsed t.job + 64
      ∧ r = { s with m := { s.m with ves := r.m.ves } } := by
  obtain ⟨hve, hrest⟩ := foldl_atomLane_bank (no := tget 0 (veAt s.m f.die f.ve).atomUsed t.job / 64) (atomTakes f t s.m)
    fun l hl => hbank l (mem_lanesOn.mp hl).1
  have hexec := atom_goes ht hready hregs hc himm (fun l hl => ⟨by omega, by simp [onHbm_of_onBank (hbank l hl)]⟩) hbank
    (fun l hl => (onHbm_of_onBank (hbank l hl)).2) fun _ => hroom
  rw [if_pos rfl] at hexec
  refine ⟨_, hexec, teamAt_retire f _ _, ?_, ?_, ?_⟩
  · rw [atoms_retire, hve, atoms_atomTakes]
  · rw [atomUsed_retire, hve, ← atomUsed_atomTakes]
  · rw [hrest]
    rfl

/-- R275: an atomic whose lanes all lie on HBM of one die is posted at that die's cache. -/
theorem atom_posted {c : Instr} {op d : Nat} (hc : c.wf = true) (himm : f.imm % 16 < 8) (hop : op ≠ 2 ∧ op ≠ 3)
    (hhbm : ∀ l < 64, onHbm (atomAddr t f op l) = true ∧ dieOfAddr (atomAddr t f op l) = d) :
    ∃ r, onDev c (atom f op) s = .next r
      ∧ teamAt r.m f.die f.ve f.team = some { atomTeam f t op false with pc := (t.pc + 8) % 2 ^ 48 }
      ∧ tget [] r.m.posted d = tget [] s.m.posted d ++ (lanesOn t f).map (postedLane f t op)
      ∧ (veAt r.m f.die f.ve).atoms = (veAt s.m f.die f.ve).atoms
      ∧ r = { s with m := { s.m with ves := r.m.ves, posted := r.m.posted } } := by
  obtain ⟨hposted, hrest⟩ := foldl_atomLane_hbm (no := tget 0 (veAt s.m f.die f.ve).atomUsed t.job / 64) s.m
    fun l hl => hhbm l (mem_lanesOn.mp hl).1
  have hexec := atom_goes ht hready hregs hc himm (fun l hl => ⟨by simp [onBank_of_onHbm (hhbm l hl).1], by omega⟩)
    (fun l hl => (onBank_of_onHbm (hhbm l hl).1).1) (fun l hl => (onBank_of_onHbm (hhbm l hl).1).2) (fun h => nomatch h)
  rw [if_neg Bool.false_ne_true] at hexec
  refine ⟨_, hexec, teamAt_retire f _ _, hposted, ?_, ?_⟩
  · rw [atoms_retire, hrest]
    rfl
  · rw [hrest]
    rfl

end

/-! ### A cache applies what is posted (R275, R277) -/

/-- R268, R275: the new value of a word of `n` bytes, which fits them. -/
theorem atomApply_fits {op n w x : Nat} (hop : op ∈ [0, 1, 4, 5, 6, 7]) (hn : (if op = 1 then 8 else 4) = n) (hw : w < 256 ^ n)
    (hx : x < 2 ^ (8 * n)) :
    atomApply op w x % 256 ^ n = if op ≤ 1 then (w + x) % 2 ^ (8 * n) else if op = 4 then w ||| x
      else if op = 5 then w &&& (x ^^^ 0xFFFFFFFF) else if op = 6 then max w x else min w x := by
  have hbytes : 256 ^ n = 2 ^ (8 * n) := by rw [Nat.pow_mul]
  rw [hbytes] at hw ⊢
  subst hn
  simp only [List.mem_cons, List.not_mem_nil, or_false] at hop
  obtain rfl | rfl | rfl | rfl | rfl | rfl := hop
  · exact Nat.mod_mod _ _
  · exact Nat.mod_mod _ _
  · exact Nat.mod_eq_of_lt (Nat.or_lt_two_pow hw hx)
  · exact Nat.mod_eq_of_lt (Nat.and_le_left.trans_lt hw)
  · exact Nat.mod_eq_of_lt (max_lt hw hx)
  · exact Nat.mod_eq_of_lt ((min_le_left w x).trans_lt hw)

/-- R275: an admitted atomic changes its word. -/
theorem applyPosted_admitted {m : Dev} {a : Posted} (hadmit : admitAccess m (a.die * 256 + a.ve) a.job a.addr (atomBytes a.op) 2 = (true, m))
    (hdam : m.mem.damaged = []) (hjobs : ∀ x ∈ m.jobs, x.2.secure.protectedPages = []) :
    applyPosted m a = updMem m fun x =>
      memPut x a.addr (atomBytes a.op) (atomApply a.op (memNat x a.addr (atomBytes a.op)) a.operand) a.poison := by
  simp only [applyPosted, hadmit, readFinds_undamaged hdam, touchPages_unprotected hjobs, if_true]
  rfl

/-- R277: a cache at which one atomic waits applies it. -/
theorem postedApply_one {m : Dev} {die : Nat} {a : Posted} (hone : tget [] m.posted die = [a]) :
    postedApply die m = applyPosted { m with posted := tset [] m.posted die [] } a := by
  simp only [postedApply, hone]
  rfl

theorem exec_postedAtomicApply (s : State) {die : Nat} (h : (Instr.postedAtomicApply die).wf = true) :
    exec (.postedAtomicApply die) s = .next { s with m := postedApply die s.m } := onDev_next (c := .postedAtomicApply die) _ s h

/-- Settles O29: ATOM looks at where its lanes lie and then treats them one by one; a cache writes the new value of each posted word. -/
theorem atomicsAreBufferedPostedAndApplied : Obligations.AtomicsAreBufferedPostedAndApplied := by
  unfold Obligations.AtomicsAreBufferedPostedAndApplied
  refine ⟨fun s f t hwf ht hready hregs => ⟨fun himm x hx => ?_, fun himm x hx hbank hroom => ?_, fun himm x hx d hhbm => ?_⟩,
    fun s die n w a hwf hone hop hn hx hpoison hadmit hjobs hdam hw => ?_⟩
  · have hanswer : exec (x f) s = .next { s with m := illegal f t s.m } := by
      simp only [List.mem_cons, List.not_mem_nil, or_false] at hx
      obtain rfl | rfl | rfl | rfl | rfl | rfl | rfl | rfl := hx
      all_goals exact atom_illegal ht hready hregs _ hwf himm
    obtain ⟨hteam, hill, hevent, hrest⟩ := illegal_tells f t s.m
    exact ⟨_, hanswer, hteam, hill, hevent, congrArg (fun m => { s with m := m }) hrest⟩
  · obtain ⟨hop, hexec, hc⟩ : x.1 < 6 ∧ exec (x.2 f) s = onDev (x.2 f) (atom f x.1) s ∧ (x.2 f).wf = true := by
      simp only [List.mem_cons, List.not_mem_nil, or_false] at hx
      obtain rfl | rfl | rfl | rfl | rfl | rfl := hx
      all_goals exact ⟨by decide, rfl, hwf⟩
    obtain ⟨r, hr, hteam, hatoms, hused, hrest⟩ := atom_buffered ht hready hregs hc himm hop hbank hroom
    refine ⟨r, _, hexec.trans hr, hteam, rfl, rfl, ?_, hatoms, hused, hrest⟩
    rw [← atomDest_eq]
    exact congrArg (· ++ atomDest f x.1) hregs
  · obtain ⟨hop, hexec, hc⟩ : (x.1 ≠ 2 ∧ x.1 ≠ 3) ∧ exec (x.2 f) s = onDev (x.2 f) (atom f x.1) s ∧ (x.2 f).wf = true := by
      simp only [List.mem_cons, List.not_mem_nil, or_false] at hx
      obtain rfl | rfl | rfl | rfl | rfl | rfl := hx
      all_goals exact ⟨by decide, rfl, hwf⟩
    obtain ⟨r, hr, hteam, hposted, hatoms, hrest⟩ := atom_posted ht hready hregs hc himm hop hhbm
    exact ⟨r, _, hexec.trans hr, hteam, rfl, hposted, hatoms, hrest⟩
  · have hbytes : atomBytes a.op = n := by
      rw [← hn]
      simp only [List.mem_cons, List.not_mem_nil, or_false] at hop
      obtain h | h | h | h | h | h := hop <;> rw [h] <;> rfl
    have hmay := admitAccess_iff.mp hadmit
    have happly := applyPosted_admitted (m := { s.m with posted := tset [] s.m.posted die [] }) (a := a)
      (by rw [hbytes]; exact admitAccess_iff.mpr hmay) hdam hjobs
    rw [hbytes] at happly
    refine ⟨_, exec_postedAtomicApply s hwf, ?_⟩
    rw [postedApply_one hone, happly]
    refine ⟨?_, fun b hb => memByte_memPut_out _ _ _ _ _ hb, (tget_tset [] s.m.posted die die []).trans (if_pos rfl), ?_⟩
    · refine (memNat_memPut ..).trans ?_
      have hfits := memNat_lt s.m.mem a.addr n
      rw [hw] at hfits
      rw [← atomApply_fits hop hn hfits hx, ← hw]
    · exact congrArg (fun x => ({ s with m := { s.m with posted := tset [] s.m.posted die [], mem := x } } : State)) (memPut_frame s.m.mem ..)

end Sys2Proof.Machine
end

section
/-! PROOFS of the family 06_vector_engines_scratchpad: work queued for arrays and movers (R162, R254 to R256, R267). -/

namespace Sys2Proof.Machine

/-! ### Operands of the queueing instructions -/

theorem immBits_eq (f : VeF) (lo n : Nat) : immBits f lo n = f.imm / 2 ^ lo % 2 ^ n := by
  rw [immBits, Nat.shiftRight_eq_div_pow]

theorem flagWord_lt (fl : Flags3) : flagWord fl < 2 ^ 32 := by
  obtain ⟨ovf, nonfinite, poison⟩ := fl
  revert ovf nonfinite poison
  decide

/-- R254: a fold that gives RD of all 64 lanes one value. -/
theorem foldl_allLanes_wrote {f : VeF} (t : Team) (hrd : f.rd < 32) (x : Nat) (p : Bool) :
    Wrote f t (fun _ => x) (List.range 64) ((List.range 64).foldl (fun u l => vPut u l f.rd x p) t) :=
  foldl_invariant (P := Wrote f t fun _ => x) (List.range 64) List.nodup_range Wrote.nothing fun _ l u h _ => h.put hrd l p u.flags

/-! ### A mover -/

theorem dmaAt_updDma_same (m : Dev) (die e : Nat) (g : Dma → Dma) : dmaAt (updDma m die e g) die e = g (dmaAt m die e) :=
  (tget_tmod {} m.dmas (die * 4 + e) (die * 4 + e) g).trans (if_pos rfl)

/-! ### What a team that goes on leaves alone -/

theorem arrayAt_retire (f : VeF) (t : Team) (m : Dev) (d n : Nat) : arrayAt (retire f t m) d n = arrayAt m d n := rfl

theorem dmaAt_retire (f : VeF) (t : Team) (m : Dev) (d e : Nat) : dmaAt (retire f t m) d e = dmaAt m d e := rfl

/-! ### Copies of memory (R267) -/

section
variable {α : Type} {l : Tab α} {src dst n : Nat}

theorem tfind_tshift {i : Nat} (h : ∀ p ∈ l, src ≤ p.1) : tfind (tshift l src dst) (dst + i) = tfind l (src + i) := by
  induction l with
  | nil => rfl
  | cons x l ih =>
    have hx := h x List.mem_cons_self
    have hkey : x.1 - src + dst = dst + i ↔ x.1 = src + i := by omega
    have ih := ih fun p hp => h p (List.mem_cons_of_mem _ hp)
    simp only [tshift] at ih
    simp only [tshift, List.map_cons, tfind, hkey, ih]

theorem mem_trange {p : Nat × α} : p ∈ trange l src n ↔ p ∈ l ∧ src ≤ p.1 ∧ p.1 < src + n := by
  simp [trange]

theorem tfind_trange {k : Nat} (h : src ≤ k ∧ k < src + n) : tfind (trange l src n) k = tfind l k := by
  rw [trange, tfind_filter l (fun k => decide (src ≤ k) && decide (k < src + n)) k, if_pos (by simpa using h)]

end

section
variable (m : Mem) {src dst n : Nat}

theorem copied_in_range : ∀ p ∈ tshift (trange m.bytes src n) src dst, dst ≤ p.1 ∧ p.1 < dst + n := fun p hp => by
  obtain ⟨q, hq, rfl⟩ := List.mem_map.mp hp
  obtain ⟨-, hlo, hhi⟩ := mem_trange.mp hq
  simp only
  omega

/-- R267: a copy brings the source's bytes. -/
theorem memByte_memCopy_in {i : Nat} (h : i < n) : memByte (memCopy m src dst n) (dst + i) = memByte m (src + i) := by
  rw [memByte, memCopy, tget_tsplice 0 m.bytes _ dst n (dst + i) (copied_in_range m), if_pos (by omega), tget,
    tfind_tshift fun p hp => (mem_trange.mp hp).2.1, tfind_trange (by omega)]
  rfl

theorem memByte_memCopy_out {a : Nat} (h : a < dst ∨ dst + n ≤ a) : memByte (memCopy m src dst n) a = memByte m a := by
  rw [memByte, memCopy, tget_tsplice 0 m.bytes _ dst n a (copied_in_range m), if_neg (by omega)]
  rfl

end

theorem dmaRun_done (unit job fuel src dst : Nat) (x : Bool × Dev) : dmaRun unit job fuel src dst 0 x = x := by
  cases fuel <;> rfl

/-- R267: a copy within one MiB of source and of destination is one piece. -/
theorem dmaRun_piece {m : Dev} {unit job src dst n : Nat} (fuel : Nat) (hn : 0 < n) (hsrc : src % 0x100000 + n ≤ 0x100000)
    (hdst : dst % 0x100000 + n ≤ 0x100000) (hread : admitAccess m unit job src n 0 = (true, m))
    (hwrite : admitAccess m unit job dst n 1 = (true, m)) (hjobs : ∀ x ∈ m.jobs, x.2.secure.protectedPages = [])
    (hdam : m.mem.damaged = []) :
    dmaRun unit job (fuel + 1) src dst n (false, m) = (memPoisoned m.mem src n, updMem m (memCopy · src dst n)) := by
  have hpiece : min n (min (0x100000 - src % 0x100000) (0x100000 - dst % 0x100000)) = n := by omega
  obtain ⟨k, rfl⟩ : ∃ k, n = k + 1 := ⟨n - 1, by omega⟩
  simp only [dmaRun, hpiece, hread, hwrite, readFinds_undamaged hdam, touchPages_unprotected hjobs, if_true, Nat.sub_self, dmaRun_done,
    Bool.false_or, Bool.true_and]
  rfl

/-- R267: the oldest copy of an engine is made and counted. -/
theorem dmaDone_piece {m : Dev} {die e : Nat} {c : DmaOp} {l : List DmaOp} (hq : (dmaAt m die e).queue = c :: l) (hn : 0 < c.bytes)
    (hsrc : c.src % 0x100000 + c.bytes ≤ 0x100000) (hdst : c.dst % 0x100000 + c.bytes ≤ 0x100000)
    (hread : admitAccess m (die * 256 + 0xC2 + e) c.job c.src c.bytes 0 = (true, m))
    (hwrite : admitAccess m (die * 256 + 0xC2 + e) c.job c.dst c.bytes 1 = (true, m))
    (hjobs : ∀ x ∈ m.jobs, x.2.secure.protectedPages = []) (hdam : m.mem.damaged = []) :
    dmaDone die e m = updDma (updMem m (memCopy · c.src c.dst c.bytes)) die e fun d =>
      { d with queue := l, done := d.done ++ [memPoisoned m.mem c.src c.bytes] } := by
  have hrun := dmaRun_piece (c.bytes / 0x80000 + 3) hn hsrc hdst hread hwrite hjobs hdam
  simp only [dmaDone, hq, hrun]

theorem exec_dmaCopyDone (s : State) {die e : Nat} (h : (Instr.dmaCopyDone die e).wf = true) :
    exec (.dmaCopyDone die e) s = .next { s with m := dmaDone die e s.m } := onDev_next (c := .dmaCopyDone die e) _ s h

/-! ### The instructions of a team -/

section
variable {s : State} {f : VeF} {t : Team} (hwf : f.wf = true) (ht : teamAt s.m f.die f.ve f.team = some t) (hready : t.wait = .ready)
  (hregs : t.atomRegs = [])
include hwf ht hready hregs

/-- R162, R254: a descriptor that passes every check enters the queue of an array that has room. -/
theorem exec_mxIssue {n : Nat} {d : Desc} (hd : descOf (laneWords t f.ra) = d) (hon : guardOn t f 0 = true) (himm : f.imm % 64 = n)
    (hn : n < 48) (hroom : (arrayAt s.m f.die n).queue.length < 16) (hcheck : descCheck f.die n (arrayAt s.m f.die n) d = 0) :
    exec (.mxIssue f) s = .next { s with
      m := retire f ((List.range 64).foldl (fun u l => vPut u l f.rd 0 false) t)
        (updArray s.m f.die n fun a => releaseAll { a with queue := a.queue ++ [d], job := some t.job }) } := by
  have hexec : exec (.mxIssue f) s = .next { s with m := _ } := onDev_team (c := .mxIssue f) hwf ht hready hregs
  have hfield : immBits f 0 6 = n := himm
  simp only [hexec, hfield, hd, hcheck, hon, if_neg (Nat.not_le.mpr hn), if_neg (Nat.not_le.mpr hroom), Bool.not_true, Bool.false_eq_true,
    if_false, if_true]

/-- R255: a team whose count is reached takes the flags of the instructions that are counted. -/
theorem exec_mxWait {n : Nat} {l : List Flags3} (himm : f.imm % 64 = n) (hn : n < 48)
    (hl : tget [] (arrayAt s.m f.die n).done (f.imm / 64 % 16) = l) (hcount : vGet t 0 f.ra ≤ l.length) :
    exec (.mxWait f) s = .next { s with
      m := retire f ((lanesOn t f).foldl (fun u k => vPut u k f.rd (flagWord (orAll (l.take (vGet t 0 f.ra)))) false) t) s.m } := by
  have hexec : exec (.mxWait f) s = .next { s with m := _ } := onDev_team (c := .mxWait f) hwf ht hready hregs
  have hfield : immBits f 0 6 = n := himm
  have hunit : immBits f 6 4 = f.imm / 64 % 16 := immBits_eq f 6 4
  simp only [hexec, hfield, hunit, hl, if_neg (Nat.not_le.mpr hn), if_neg (Nat.not_lt.mpr hcount)]

/-- R267: a descriptor in its form is queued at its mover. -/
theorem exec_dmaCopy (hon : guardOn t f 0 = true) (hok : dmaOk (laneWords t f.ra) = true) :
    exec (.dmaCopy f) s = .next { s with
      m := retire f t (updDma s.m f.die (f.imm % 4) fun d => { d with
        job := some t.job
        queue := d.queue ++ [{
          src := nth 0 (laneWords t f.ra) 0 + 2 ^ 32 * nth 0 (laneWords t f.ra) 1
          dst := nth 0 (laneWords t f.ra) 2 + 2 ^ 32 * nth 0 (laneWords t f.ra) 3
          bytes := nth 0 (laneWords t f.ra) 4, ve := f.ve, team := f.team, job := t.job }] }) } := by
  have hexec : exec (.dmaCopy f) s = .next { s with m := _ } := onDev_team (c := .dmaCopy f) hwf ht hready hregs
  have hfield : immBits f 0 2 = f.imm % 4 := rfl
  simp only [hexec, hon, hok, hfield, Bool.not_true, Bool.false_eq_true, if_false, if_true]

/-- R256, R267: a team whose count is reached learns whether a counted copy met poison. -/
theorem exec_dmaWait (hcount : vGet t 0 f.ra ≤ (dmaAt s.m f.die (f.imm % 4)).done.length) :
    exec (.dmaWait f) s = .next { s with
      m := retire f ((lanesOn t f).foldl (fun u l => vPut u l f.rd
        (flagWord { poison := ((dmaAt s.m f.die (f.imm % 4)).done.take (vGet t 0 f.ra)).any id }) false) t) s.m } := by
  have hexec : exec (.dmaWait f) s = .next { s with m := _ } := onDev_team (c := .dmaWait f) hwf ht hready hregs
  have hfield : immBits f 0 2 = f.imm % 4 := rfl
  simp only [hexec, hfield, if_neg (Nat.not_lt.mpr hcount)]

omit ht hready hregs in
/-- A wait that is over gives every guarded lane one word of flags. -/
theorem flags_answer {o : Host.Outcome State Fault Refusal} {fl : Flags3}
    (ho : o = .next { s with m := retire f ((lanesOn t f).foldl (fun u k => vPut u k f.rd (flagWord fl) false) t) s.m }) :
    ∃ r u, o = .next r ∧ teamAt r.m f.die f.ve f.team = some u ∧ u.pc = (t.pc + 8) % 2 ^ 48
      ∧ (∀ k < 64, guardOn t f k = true → vGet u k f.rd = flagWord fl) ∧ r = { s with m := { s.m with ves := r.m.ves } } := by
  obtain ⟨-, -, -, hrd, -⟩ := VeF.bounds hwf
  have hwrote := foldl_wrote_const t hrd (flagWord fl) false
  refine ⟨_, _, ho, teamAt_retire f _ s.m, by rw [hwrote.rest], fun k hk hon => ?_, rfl⟩
  rw [hwrote.value hrd _ hk hon, Nat.mod_eq_of_lt (flagWord_lt fl)]

end

/-- Settles O30: each instruction queues its descriptor or gives the counted flags; a mover copies its oldest descriptor in one piece. -/
theorem queuedWork : Obligations.QueuedWork := by
  unfold Obligations.QueuedWork
  refine ⟨fun s f t d hwf ht hready hregs hd => ⟨fun n hon himm hn hroom hcheck => ?_, fun n l himm hn hl hcount => ?_,
    fun w hw hon hok => ?_, fun hcount => ?_⟩, fun s die e c l hwf hq hn _ _ _ hsrc hdst hread hwrite hjobs hdam => ?_⟩
  · obtain ⟨-, -, -, hrd, -⟩ := VeF.bounds hwf
    have hexec := exec_mxIssue hwf ht hready hregs hd hon himm hn hroom hcheck
    have hwrote := foldl_allLanes_wrote t hrd 0 false
    generalize (List.range 64).foldl (fun u l => vPut u l f.rd 0 false) t = u at hexec hwrote
    refine ⟨_, _, hexec, teamAt_retire f u _, by rw [hwrote.rest], fun l hl => ⟨?_, fun k hk hne => hwrote.other l hk hne⟩,
      by rw [arrayAt_retire, arrayAt_updArray_same], rfl⟩
    exact (hwrote.reg l f.rd hrd).trans (if_pos ⟨rfl, List.mem_range.mpr hl⟩)
  · exact flags_answer hwf (exec_mxWait hwf ht hready hregs himm hn hl hcount)
  · subst hw
    exact ⟨_, _, exec_dmaCopy hwf ht hready hregs hon hok, teamAt_retire f t _, rfl, by rw [dmaAt_retire, dmaAt_updDma_same], rfl⟩
  · obtain ⟨r, u, hexec, hteam, hpc, hflags, hrest⟩ := flags_answer hwf (exec_dmaWait hwf ht hready hregs hcount)
    refine ⟨r, u, hexec, hteam, hpc, fun k hk hon => (hflags k hk hon).trans ?_, hrest⟩
    simp [flagWord, b2n]
  · refine ⟨_, exec_dmaCopyDone s hwf, ?_⟩
    rw [dmaDone_piece hq hn hsrc hdst hread hwrite hjobs hdam]
    exact ⟨fun i hi => memByte_memCopy_in s.m.mem hi, fun a ha => memByte_memCopy_out s.m.mem ha, by rw [dmaAt_updDma_same]; rfl, rfl⟩

end Sys2Proof.Machine
end

section
/-! PROOFS of the family 06_vector_engines_scratchpad: scratchpad banks that change hands (R262 to R266, R281). -/

namespace Sys2Proof.Machine

/-! ### Banks and their bytes (R266) -/

theorem bankAt_updBank_other (m : Dev) {d b e x : Nat} (g : Bank → Bank) (h : e * 160 + x ≠ d * 160 + b) :
    bankAt (updBank m d b g) e x = bankAt m e x := by rw [bankAt_updBank, if_neg h]

theorem memByte_memZero_in (m : Mem) {a n b : Nat} (h : a ≤ b ∧ b < a + n) : memByte (memZero m a n) b = 0 := by
  rw [memByte, memZero, tget_tsplice 0 m.bytes [] a n b (fun _ hp => nomatch hp), if_pos h]
  rfl

theorem memByte_memZero_out (m : Mem) {a n b : Nat} (h : b < a ∨ a + n ≤ b) : memByte (memZero m a n) b = memByte m b := by
  rw [memByte, memZero, tget_tsplice 0 m.bytes [] a n b (fun _ hp => nomatch hp), if_neg (by omega)]
  rfl

/-! ### SPB.GIVE and SPB.WAIT (R262, R263) -/

section
variable {s : State} {f : VeF} {t : Team} {bank : Nat} (hwf : f.wf = true) (ht : teamAt s.m f.die f.ve f.team = some t)
  (hready : t.wait = .ready) (hregs : t.atomRegs = []) (hbank : f.imm % 256 = bank) (hlt : bank < 160)
  (howns : ownsBank s.m (f.die * 256 + f.ve) t.job f.die bank = true)
include hwf ht hready hregs hbank hlt howns

/-- R262, R263: the team gives a bank that its engine owns, and waits. -/
theorem exec_spbGive {u : Nat} (hon : guardOn t f 0 = true) (hu : f.imm / 256 % 256 = u) (hgivable : givable u = true)
    (hpending : (bankAt s.m f.die bank).pending = none) (hatoms : (veAt s.m f.die f.ve).atoms = []) :
    exec (.spbGive f) s = .next { s with
      m := updVe (updBank s.m f.die bank fun b => { b with pending := some (u, f.ve, f.team) }) f.die f.ve fun v => { v with
        teams := tput v.teams f.team { t with wait := .handover bank }, active := (v.active + 1) % 2 ^ 64 } } := by
  have hexec : exec (.spbGive f) s = .next { s with m := _ } := onDev_team (c := .spbGive f) hwf ht hready hregs
  have hbankField : immBits f 0 8 = bank := hbank
  have hunitField : immBits f 8 8 = u := (immBits_eq f 8 8).trans hu
  have hmay : mayGive s.m f t.job bank = true := by
    rw [mayGive, veUnit, howns]
    rfl
  have hnumber : decide (160 ≤ bank) = false := decide_eq_false (Nat.not_le.mpr hlt)
  simp only [hexec, hbankField, hunitField, hon, hnumber, hgivable, hmay, hpending, hatoms, Bool.not_true, Bool.or_self,
    Option.isSome_none, List.any_nil, Bool.false_eq_true, if_false]

/-- R262: SPB.WAIT for a bank that the engine owns goes on. -/
theorem exec_spbWait : exec (.spbWait f) s = .next { s with m := retire f t s.m } := by
  have hexec : exec (.spbWait f) s = .next { s with m := _ } := onDev_team (c := .spbWait f) hwf ht hready hregs
  have hbankField : immBits f 0 8 = bank := hbank
  have howned : ownsBank s.m (veUnit f) t.job f.die bank = true := howns
  simp only [hexec, hbankField, howned, if_neg (Nat.not_le.mpr hlt), Bool.or_true, if_true]

end

/-! ### The handover takes effect (R263, R264, R281) -/

section
variable {m : Dev} {die bank : Nat}

theorem handoverEffect_waits (h : ownerFinished m die bank = false) : handoverEffect die bank m = m := by
  simp [handoverEffect, h]

/-- R263: the bank that a team gives. -/
def bankGiven (u ve : Nat) (b : Bank) : Bank :=
  { b with owner := u, giver := ve, giverValid := true, pending := none, fresh := takesBanks u }

/-- R262, R263: once the old owner has finished, the new one has the bank and the giver goes on. -/
theorem handoverEffect_given {u ve team : Nat} {t : Team} (hfinished : ownerFinished m die bank = true)
    (hpending : (bankAt m die bank).pending = some (u, ve, team)) (hwritten : (bankAt m die bank).written = none)
    (ht : teamAt m die ve team = some t) (hwait : t.wait = .handover bank) :
    handoverEffect die bank m
      = putTeam (updBank m die bank (bankGiven u ve)) die ve team { t with wait := .ready, pc := (t.pc + 8) % 2 ^ 48 } := by
  have hteam : teamAt (updBank m die bank (bankGiven u ve)) die ve team = some t := ht
  have hrelease : releaseGiver (updBank m die bank (bankGiven u ve)) die bank ve team
      = putTeam (updBank m die bank (bankGiven u ve)) die ve team { t with wait := .ready, pc := (t.pc + 8) % 2 ^ 48 } := by
    simp only [releaseGiver, hteam, hwait, if_true, pcPlus_eight]
  rw [← hrelease]
  simp only [handoverEffect, hfinished, hwritten, hpending, Bool.not_true, Bool.false_eq_true, if_false]
  rfl

/-- R262, R281: the bank that the wellhead hands over. -/
def bankAssigned (value : Nat) (b : Bank) : Bank := { b with
  owner := value % 256, jobSlot := value / 256 % 16, jobValid := value.testBit 12, pending := none, written := none
  fresh := takesBanks (value % 256) }

theorem bankAssigned_eq (value : Nat) {b : Bank} (h : b.pending = none) : bankAssigned value b = { b with
    owner := value % 256, jobSlot := value / 256 % 16, jobValid := value.testBit 12, written := none
    fresh := decide (value % 256 = 0xC0 ∨ value % 256 = 0xC8 ∨ value % 256 = 0xC9) } := by
  simp only [bankAssigned, takesBanks, h]

/-- R262, R266, R281: the wellhead's handover of a bank that no team gives; another job slot finds it cleared. -/
theorem handoverEffect_written {value : Nat} (hfinished : ownerFinished m die bank = true)
    (hwritten : (bankAt m die bank).written = some value) (hpending : (bankAt m die bank).pending = none) :
    handoverEffect die bank m = updBank
      (if (bankAt m die bank).jobSlot ≠ value / 256 % 16 ∨ (bankAt m die bank).jobValid ≠ value.testBit 12 then clearBank m die bank else m)
      die bank (bankAssigned value) := by
  have hslot : bitField value 8 4 = value / 256 % 16 := congrArg (· % 2 ^ 4) (Nat.shiftRight_eq_div_pow value 8)
  have hvalid : bitOf value 12 = value.testBit 12 := rfl
  simp only [handoverEffect, hfinished, hwritten, bankAssign, hpending, hslot, hvalid, Bool.not_true, Bool.false_eq_true, if_false]
  rfl

end

theorem exec_spbHandoverEffect (s : State) {die bank : Nat} (h : (Instr.spbHandoverEffect die bank).wf = true) :
    exec (.spbHandoverEffect die bank) s = .next { s with m := handoverEffect die bank s.m } := onDev_next (c := .spbHandoverEffect die bank) _ s h

theorem exec_spbOwnerWrite (s : State) {die bank value : Nat} (h : (Instr.spbOwnerWrite die bank value).wf = true) :
    exec (.spbOwnerWrite die bank value) s = .next { s with m := ownerWrite die bank value s.m } :=
  onDev_next (c := .spbOwnerWrite die bank value) _ s h

/-- Settles O31: a bank goes to the new owner that SPB.GIVE or the wellhead has named, once the old one has finished. -/
theorem banksChangeHands : Obligations.BanksChangeHands := by
  unfold Obligations.BanksChangeHands
  refine ⟨fun s f t bank u hwf ht hready hregs hon hbank hu hlt howns => ⟨fun hgivable hpending hatoms => ?_, ?_⟩,
    fun s die bank u ve team t hwf hpending hwritten hfinished ht hwait => ?_,
    fun s die bank value b hb => ⟨fun hwf => ?_, fun hwf hwaits => ?_, fun hwf hfinished hwritten hpending => ?_⟩⟩
  · refine ⟨_, exec_spbGive hwf ht hready hregs hbank hlt howns hon hu hgivable hpending hatoms, ?_, ?_, rfl⟩
    · rw [teamAt_updVe_same, tfind_tput, if_pos rfl]
    · exact bankAt_updBank_same s.m f.die bank fun b => { b with pending := some (u, f.ve, f.team) }
  · exact ⟨_, exec_spbWait hwf ht hready hregs hbank hlt howns, teamAt_retire f t s.m, rfl⟩
  · refine ⟨_, exec_spbHandoverEffect s hwf, ?_⟩
    rw [handoverEffect_given hfinished hpending hwritten ht hwait]
    refine ⟨bankAt_updBank_same s.m die bank _, ?_, rfl⟩
    rw [putTeam, teamAt_updVe_same, tfind_tput, if_pos rfl]
  · subst hb
    exact ⟨_, exec_spbOwnerWrite s hwf, bankAt_updBank_same s.m die bank _, fun e x hne => bankAt_updBank_other s.m _ hne, rfl⟩
  · rw [exec_spbHandoverEffect s hwf, handoverEffect_waits hwaits]
  · subst hb
    refine ⟨_, exec_spbHandoverEffect s hwf, ?_⟩
    rw [handoverEffect_written hfinished hwritten hpending]
    split
    next hchange =>
      refine ⟨(bankAt_updBank_same _ die bank _).trans (bankAssigned_eq value hpending), fun hslot hvalid => ?_, fun _ i hi => ?_,
        fun a ha => memByte_memZero_out _ ha, rfl⟩
      · exact absurd hchange (by simp [hslot, hvalid])
      · exact memByte_memZero_in _ ⟨Nat.le_add_right _ i, Nat.add_lt_add_left hi _⟩
    next hsame =>
      exact ⟨(bankAt_updBank_same s.m die bank _).trans (bankAssigned_eq value hpending), fun _ _ => rfl,
        fun hchange => absurd hchange hsame, fun _ _ => rfl, rfl⟩

end Sys2Proof.Machine
end

section
/-! PROOFS of the family 07_memory_tiers: runs of segments, how they are taken and cleared (R290 to R292), and the poison marks of
blocks (R305). -/

namespace Sys2Proof.Machine

/-! ### Runs of segments (R290, R291) -/

section
variable {m : Mem} {u n f : Nat}

/-- The places where the lowest run can start: the unit's first segment, and the segment after each taken run. -/
def runStarts (m : Mem) (u : Nat) : List Nat := (unitSegs u).1 :: (takenRuns m).map (fun t => t.1 + t.2)

/-- The `n` segments from `f` lie in the unit and are FREE. -/
def runFits (m : Mem) (u n f : Nat) : Bool :=
  decide ((unitSegs u).1 ≤ f) && decide (f + n ≤ (unitSegs u).1 + (unitSegs u).2) && !(takenRuns m).any (runsMeet (f, n))

theorem findRun_eq (m : Mem) (u n : Nat) : findRun m u n = ((runStarts m u).filter (runFits m u n)).min? := rfl

theorem runFits_iff : runFits m u n f = true ↔ (unitSegs u).1 ≤ f ∧ f + n ≤ (unitSegs u).1 + (unitSegs u).2
    ∧ ∀ t ∈ takenRuns m, t.1 + t.2 ≤ f ∨ f + n ≤ t.1 := by
  have hmeet : ∀ t : Nat × Nat, runsMeet (f, n) t = false ↔ t.1 + t.2 ≤ f ∨ f + n ≤ t.1 := fun t => by
    simp only [runsMeet, Bool.and_eq_false_iff, decide_eq_false_iff_not, Nat.not_lt]
  simp only [runFits, Bool.and_eq_true, decide_eq_true_eq, Bool.not_eq_true', List.any_eq_false, Bool.not_eq_true, hmeet, and_assoc]

/-- A run of the unit that is not FREE meets a taken run. -/
theorem taken_of_not_runFits (hlo : (unitSegs u).1 ≤ f) (hhi : f + n ≤ (unitSegs u).1 + (unitSegs u).2) (h : ¬runFits m u n f = true) :
    ∃ t ∈ takenRuns m, f < t.1 + t.2 ∧ t.1 < f + n := by
  rw [runFits_iff] at h
  push Not at h
  exact h hlo hhi

/-- Sliding down a FREE run as far as it goes ends at one of the places where a run can start. -/
theorem exists_start_of_runFits (h : runFits m u n f = true) : ∃ g ≤ f, g ∈ runStarts m u ∧ runFits m u n g = true := by
  induction f with
  | zero =>
    have hfirst : (unitSegs u).1 = 0 := Nat.le_zero.mp (runFits_iff.mp h).1
    exact ⟨0, Nat.le_refl 0, List.mem_cons.mpr (.inl hfirst.symm), h⟩
  | succ f ih =>
    by_cases hstart : f + 1 ∈ runStarts m u
    · exact ⟨f + 1, Nat.le_refl _, hstart, h⟩
    · obtain ⟨hlo, hhi, hfree⟩ := runFits_iff.mp h
      obtain ⟨hfirst, hafter⟩ := not_or.mp (mt List.mem_cons.mpr hstart)
      have hbelow : runFits m u n f = true := by
        refine runFits_iff.mpr ⟨by omega, by omega, fun t ht => ?_⟩
        have hend : t.1 + t.2 ≠ f + 1 := fun e => hafter (List.mem_map.mpr ⟨t, ht, e⟩)
        have := hfree t ht
        omega
      obtain ⟨g, hg, hmem, hfits⟩ := ih hbelow
      exact ⟨g, by omega, hmem, hfits⟩

/-- R291: the run that is found is FREE, and none of the unit below it is. -/
theorem findRun_some (h : findRun m u n = some f) : runFits m u n f = true ∧ ∀ g < f, ¬runFits m u n g = true := by
  rw [findRun_eq, List.min?_eq_some_iff] at h
  obtain ⟨hmem, hleast⟩ := h
  refine ⟨(List.mem_filter.mp hmem).2, fun g hlt hfits => ?_⟩
  obtain ⟨k, hk, hstart, hkfits⟩ := exists_start_of_runFits hfits
  have := hleast k (List.mem_filter.mpr ⟨hstart, hkfits⟩)
  omega

/-- R291: where none is found no run of the unit is FREE. -/
theorem findRun_none (h : findRun m u n = none) : ¬runFits m u n f = true := fun hfits => by
  obtain ⟨k, -, hstart, hkfits⟩ := exists_start_of_runFits hfits
  rw [findRun_eq, List.min?_eq_none_iff] at h
  exact List.ne_nil_of_mem (List.mem_filter.mpr ⟨hstart, hkfits⟩) h

end

/-! ### Clearing (R292) -/

/-- R292: the first segment in CLEARING of its unit is zeroed. -/
theorem exec_segmentCleared {s : State} {seg : Nat} (hwf : (Instr.segmentCleared seg).wf = true)
    (hfirst : s.m.mem.clearing.find? (fun x => decide (segUnit x = segUnit seg)) = some seg) :
    exec (.segmentCleared seg) s = .next { s with m := { s.m with mem := {
      memZero s.m.mem (seg * 0x200000) 0x200000 with clearing := s.m.mem.clearing.erase seg } } } := by
  have hcleared : segmentCleared seg s.m = { s.m with mem := {
      memZero s.m.mem (seg * 0x200000) 0x200000 with clearing := s.m.mem.clearing.erase seg } } := if_pos hfirst
  rw [← hcleared]
  exact onDev_next _ s hwf

/-- Settles O13: the lowest run is the one `findRun_some` names, and a cleared segment reads as `memZero` leaves it. -/
theorem segmentsAreTakenAndCleared : Obligations.SegmentsAreTakenAndCleared := by
  unfold Obligations.SegmentsAreTakenAndCleared
  refine ⟨fun m u n _ => ⟨fun f hf => ?_, fun hnone g hlo hhi => taken_of_not_runFits hlo hhi (findRun_none hnone)⟩,
    fun s seg hwf hfirst => ?_⟩
  · obtain ⟨hfits, hleast⟩ := findRun_some hf
    obtain ⟨hlo, hhi, hfree⟩ := runFits_iff.mp hfits
    exact ⟨hlo, hhi, hfree, fun g hg hlt => taken_of_not_runFits hg (by omega) (hleast g hlt)⟩
  · exact ⟨_, exec_segmentCleared hwf hfirst, rfl,
      fun i hi => memByte_memZero_in s.m.mem ⟨Nat.le_add_right _ i, Nat.add_lt_add_left hi _⟩,
      fun a ha => memByte_memZero_out s.m.mem ha, rfl⟩

/-! ### Poison marks (R305) -/

/-- R305: a write, of bytes or of zeros, takes the marks of the blocks that it covers and no other. -/
theorem mark_filter_blockIn (poison : Tab Bool) (a n k : Nat) :
    tget false (poison.filter (fun p => !blockIn a n p.1)) k = (tget false poison k && !blockIn a n k) := by
  rw [tget, tfind_filter poison (fun b => !blockIn a n b) k]
  cases blockIn a n k
  · simp [tget]
  · simp

/-- Settles O60: memory takes the marks of covered blocks alone, and the host's write into its bucket is a write of memory. -/
theorem poisonMarksStay : Obligations.PoisonMarksStay := by
  unfold Obligations.PoisonMarksStay
  refine ⟨fun m a k l => mark_filter_blockIn m.poison a l.length k, fun m a n k => mark_filter_blockIn m.poison a n k, ?_⟩
  intro s qp b offset k q f data hwf hq he hb hlast hdeep hf ho hpart hne hfit hgrant hpages
  have hexec := exec_hostBucketWrite_one hwf hq he hb hne hfit
  rw [← hpart, bucketWrite_host hb hlast hdeep hf ho hgrant hpages, hpart] at hexec
  exact ⟨_, hexec, mark_filter_blockIn s.m.mem.poison (f.addr + offset) data.length k⟩

end Sys2Proof.Machine
end

section
/-! PROOFS of the family 07_memory_tiers: what the patrol scrub finds, and how rows are repaired (R304, R306, R307). -/

namespace Sys2Proof.Machine

/-! ### Changing one key of a table twice -/

section
variable {α : Type} (t : Tab α) (k : Nat)

theorem mem_tput_same (v : α) : (k, v) ∈ tput t k v := mem_of_tfind ((tfind_tput t k k v).trans (if_pos rfl))

theorem tput_tput (v w : α) : tput (tput t k v) k w = tput t k w := by
  induction t with
  | nil => simp [tput]
  | cons x t ih =>
    rcases lt_trichotomy k x.1 with hlt | heq | hgt
    · simp [tput, hlt]
    · simp [tput, heq]
    · simp [tput, hgt.not_gt, hgt.ne, ih]

theorem tdel_tput (v : α) : tdel (tput t k v) k = tdel t k := by
  induction t with
  | nil => simp [tput, tdel]
  | cons x t ih =>
    simp only [tdel] at ih
    rcases lt_trichotomy k x.1 with hlt | heq | hgt
    · simp [tput, tdel, hlt]
    · simp [tput, tdel, heq]
    · simp only [tput, tdel, if_neg hgt.not_gt, if_neg hgt.ne, List.filter_cons, ih]

variable [DecidableEq α] {d : α}

/-- A second change of a key that is listed writes over the first. -/
theorem tmod_tmod {f g : α → α} (h : f (tget d t k) ≠ d) : tmod d (tmod d t k f) k g = tset d t k (g (f (tget d t k))) := by
  have hread : tget d (tmod d t k f) k = f (tget d t k) := (tget_tmod d t k k f).trans (if_pos rfl)
  have hlisted : tmod d t k f = tput t k (f (tget d t k)) := if_neg h
  rw [tmod, hread, hlisted, tset, tset, tdel_tput, tput_tput]

/-- Reading after a change of one key, with the value that is read. -/
theorem tget_tmod_read (d : α) (j : Nat) (f : α → α) : tget d (tmod d t k f) j = if j = k then f (tget d t j) else tget d t j := by
  rw [tget_tmod]
  split
  next h => rw [h]
  next => rfl

end

theorem tmod_succ_ne_nil (t : Tab Nat) (k : Nat) : tmod 0 t k (· + 1) ≠ [] := by
  rw [tmod, tset, if_neg (Nat.succ_ne_zero _)]
  exact List.ne_nil_of_mem (mem_tput_same t k _)

/-! ### The patrol scrub (R304, R306) -/

section
variable {m : Dev} {addr : Nat} (hhbm : addr < 0x020000000000)
include hhbm

theorem segUnit_hbm : segUnit (addr / segBytes) = addr / 0x2000000000 := by
  rw [segUnit, if_pos (by rw [segBytes]; omega), segBytes, Nat.div_div_eq_div_mul]

theorem segKind_hbm : segKind (addr / segBytes) = 1 := if_pos (by rw [segBytes]; omega)

theorem isExtMem_hbm : isExtMem addr = true := by
  rw [isExtMem, decide_eq_true_eq]
  omega

/-- R306: a corrected block of HBM is counted. -/
theorem patrolScrub_corrected (hsound : addr / 64 ∉ m.mem.damaged) : patrolScrub addr true false m = updMem (riskHit m 0 1) fun x =>
    { x with hbm := tmod {} x.hbm (addr / 0x2000000000) fun s => { s with corrected := sat 32 (s.corrected + 1) } } := by
  have hstack : addr / 0x2000000000 < 16 := by omega
  simp only [patrolScrub, isExtMem_hbm hhbm, segUnit_hbm hhbm, if_pos hstack, if_true]
  exact if_neg (by simp [updMem, riskHit, updSys, hsound])

/-- R304: an uncorrectable block of HBM takes its mark, is counted and told. -/
theorem poisonFound_hbm (requester : Nat) : ∃ win e, poisonFound m requester addr = { m with
    sys := { m.sys with riskWin := win }, ctl := { m.ctl with evq := m.ctl.evq ++ [e] }
    mem := { m.mem with
      poison := tset false m.mem.poison (addr / 64) true, damaged := m.mem.damaged.filter (fun b => decide (b ≠ addr / 64))
      hbm := tmod {} m.mem.hbm (addr / 0x2000000000) fun s => { s with uncorrectable := sat 16 (s.uncorrectable + 1) } } } := by
  simp only [poisonFound, segKind_hbm hhbm, segUnit_hbm hhbm, if_true]
  exact ⟨_, _, rfl⟩

end

/-- R306: the scrub finds an uncorrectable block; its REQUESTER is a free value. -/
theorem patrolScrub_uncorrectable {m : Dev} {addr : Nat} (hext : isExtMem addr = true) :
    ∃ requester, patrolScrub addr false true m = poisonFound { m with free := m.free + 1 } requester (addr / 64 * 64) :=
  ⟨_, if_pos hext⟩

theorem exec_patrolScrub (s : State) {addr : Nat} (corrected uncorrectable : Bool) (h : wfPatrolScrub addr corrected uncorrectable = true) :
    exec (.patrolScrub addr corrected uncorrectable) s = .next { s with m := patrolScrub addr corrected uncorrectable s.m } := onDevW_next _ s h

/-- R304: a block that holds a mark is poisoned. -/
theorem memPoisoned_marked {m : Mem} {a : Nat} {poison : Tab Bool} (h : m.poison = tset false poison (a / 64) true) :
    memPoisoned m a 1 = true := by
  refine (memPoisoned_iff m a 1).mpr ⟨a / 64, ?_, Nat.le_refl _, by omega⟩
  rw [h, tset, if_neg (by decide)]
  exact mem_tput_same _ _ _

/-! ### Rows (R307) -/

section
variable {m : Dev} {r : RepairRow}

/-- R307: a row of an HBM bank with a spare row left begins its soft repair. -/
theorem rowCandidate_soft (hkind : r.kind = 1)
    (hspare : (m.mem.remaps.filter (fun q => decide (q.kind = r.kind ∧ q.unit = r.unit ∧ q.bank = r.bank))).length < bankSpares m.mem r) :
    rowCandidate r m = updMem m fun x => { x with
      remaps := x.remaps ++ [r], hbm := tmod {} x.hbm r.unit fun s => { s with remapping := true } } :=
  if_pos ⟨hkind, Nat.sub_pos_of_lt hspare⟩

/-- R307: a row of the cistern that a spare row can serve waits in the repair record. -/
theorem rowCandidate_waits (hkind : r.kind ≠ 1)
    (hspare : (m.mem.rowRecord.filter (fun q => decide (q.kind = r.kind ∧ q.unit = r.unit ∧ q.bank = r.bank) && !q.soft)).length
      + (m.mem.remaps.filter (fun q => decide (q.kind = r.kind ∧ q.unit = r.unit ∧ q.bank = r.bank))).length < bankSpares m.mem r) :
    rowCandidate r m = rowRemap (updMem m fun x => { x with rowRecord := x.rowRecord ++ [r] }) r 1 := by
  rw [rowCandidate, if_neg fun h => hkind h.1, if_pos (Nat.lt_sub_of_add_lt hspare)]

/-- R307: the stack's oldest repair ends: the record holds the row, and a spare of its bank is spent. -/
theorem softRepairDone_oldest {l : List RepairRow} (hremaps : m.mem.remaps = r :: l) (hkind : r.kind = 1) :
    softRepairDone r.unit m = rowRemap (updMem m fun x => { x with
      remaps := l, rowRecord := x.rowRecord ++ [{ r with soft := true }]
      hbm := tset {} x.hbm r.unit { tget {} x.hbm r.unit with
        remapping := l.any (fun q => decide (q.unit = r.unit)), softRemaps := sat 16 ((tget {} x.hbm r.unit).softRemaps + 1)
        used := tmod 0 (tget {} x.hbm r.unit).used r.bank (· + 1) } }) r 0 := by
  have hspent : { tget {} m.mem.hbm r.unit with used := tmod 0 (tget {} m.mem.hbm r.unit).used r.bank (· + 1) } ≠ ({} : Stack) :=
    fun h => tmod_succ_ne_nil _ _ (congrArg Stack.used h)
  have holdest : (r :: l).find? (fun q => decide (q.unit = r.unit)) = some r := List.find?_cons_of_pos (by simp)
  simp only [softRepairDone, hremaps, holdest, List.erase_cons_head, takeSpare, if_pos hkind, updMem]
  rw [tmod_tmod (f := fun s : Stack => { s with used := tmod 0 s.used r.bank (· + 1) }) _ _ hspent]

end

theorem exec_rowRepairCandidate (s : State) {kind unit bank row : Nat} (h : wfRowRepairCandidate kind unit bank row = true) :
    exec (.rowRepairCandidate kind unit bank row) s = .next { s with m := rowCandidate { kind, unit, bank, row } s.m } := onDevW_next _ s h

theorem exec_softRepairDone (s : State) {unit : Nat} (h : wfSoftRepairDone unit = true) :
    exec (.softRepairDone unit) s = .next { s with m := softRepairDone unit s.m } := onDevW_next _ s h

/-- Settles O14: a scrub counts (`patrolScrub_corrected`) or marks (`poisonFound_hbm`), and a row begins its repair, waits or is held. -/
theorem scrubAndRowRepair : Obligations.ScrubAndRowRepair := by
  unfold Obligations.ScrubAndRowRepair
  refine ⟨fun s addr hwf hhbm hsound => ⟨?_, ?_⟩, fun s unit bank row => ⟨fun hwf hspare => ?_, fun hwf hspare => ?_,
    fun r l hwf hremaps hunit hkind => ?_⟩⟩
  · have hexec := exec_patrolScrub s true false hwf
    rw [patrolScrub_corrected hhbm hsound] at hexec
    exact ⟨_, hexec, rfl, rfl⟩
  · have hexec := exec_patrolScrub s false true hwf
    obtain ⟨requester, hscrub⟩ := patrolScrub_uncorrectable (m := s.m) (isExtMem_hbm hhbm)
    obtain ⟨win, e, hfound⟩ := poisonFound_hbm (m := { s.m with free := s.m.free + 1 }) (addr := addr / 64 * 64) (by omega) requester
    rw [hscrub, hfound] at hexec
    refine ⟨_, hexec, memPoisoned_marked (poison := s.m.mem.poison) ?_, rfl, rfl⟩
    rw [Nat.mul_div_cancel _ (by decide)]
  · rw [exec_rowRepairCandidate s hwf, rowCandidate_soft rfl hspare]
    rfl
  · have hexec := exec_rowRepairCandidate s hwf
    rw [rowCandidate_waits (show (2 : Nat) ≠ 1 by decide) hspare] at hexec
    exact ⟨_, hexec, rfl, rfl⟩
  · subst hunit
    have hexec := exec_softRepairDone s hwf
    rw [softRepairDone_oldest hremaps hkind] at hexec
    exact ⟨_, hexec, rfl, rfl⟩

end Sys2Proof.Machine
end

section
/-! PROOFS of the family 07_memory_tiers: how aquifer commands move their extents and end (R310, R311, R313, R315). -/

namespace Sys2Proof.Machine

/-! ### Events that are raised one after the other -/

/-- Steps that each put one event behind those that wait put as many as there are steps. -/
theorem foldl_raises {α : Type} (l : List α) {f : Dev → α → Dev}
    (h : ∀ m x, ∃ e, f m x = { m with ctl := { m.ctl with evq := m.ctl.evq ++ [e] } }) (m : Dev) :
    ∃ es, es.length = l.length ∧ l.foldl f m = { m with ctl := { m.ctl with evq := m.ctl.evq ++ es } } := by
  induction l generalizing m with
  | nil => exact ⟨[], rfl, by rw [List.append_nil]; rfl⟩
  | cons x l ih =>
    obtain ⟨e, he⟩ := h m x
    obtain ⟨es, hlen, hes⟩ := ih (f m x)
    refine ⟨e :: es, by rw [List.length_cons, List.length_cons, hlen], ?_⟩
    rw [List.foldl_cons, hes, he, List.append_assoc, List.singleton_append]

/-! ### The controller's reading (R315) -/

/-- R315: a reading of fewer than 2 % of spare blocks takes a NORMAL aquifer to READ_ONLY. -/
def entersReadOnly (spare : Nat) (a : Aquifer) : Bool := decide (a.st = 0) && decide (spare < 2)

/-- R315: the aquifer after a reading of its wear and its spare blocks. -/
def wearRead (wear spare : Nat) (a : Aquifer) : Aquifer := { a with
  st := if entersReadOnly spare a then 1 else a.st
  wear := sat 8 wear, spare := spare, warned := max a.warned (wearLevel wear) }

theorem wearRead_st (wear spare : Nat) (a : Aquifer) : (wearRead wear spare a).st = if a.st = 0 ∧ spare < 2 then 1 else a.st := by
  simp only [wearRead, entersReadOnly, Bool.and_eq_true, decide_eq_true_eq]

theorem entersReadOnly_of_spares {spare : Nat} (h : 2 ≤ spare) (a : Aquifer) : entersReadOnly spare a = false := by
  simp [entersReadOnly, Nat.not_lt.mpr h]

/-- R315: a reading raises AQUIFER_WEAR for each threshold that is new, and at least once at the entry to READ_ONLY. -/
theorem aqWear_frame (wear spare : Nat) (m : Dev) : ∃ es,
    es.length = max (wearLevel wear - m.mem.aq.warned) (b2n (entersReadOnly spare m.mem.aq))
      ∧ aqWear wear spare m = { m with
          mem := { m.mem with aq := wearRead wear spare m.mem.aq }, ctl := { m.ctl with evq := m.ctl.evq ++ es } } := by
  obtain ⟨es, hlen, hes⟩ := foldl_raises (List.range (max (wearLevel wear - m.mem.aq.warned) (b2n (entersReadOnly spare m.mem.aq))))
    (f := fun x _ => raiseModule x 0x0208 0
      (leBytes 1 (sat 8 wear) ++ leBytes 1 spare ++ leBytes 1 (wearRead wear spare m.mem.aq).st)) (fun _ _ => ⟨_, rfl⟩)
    { m with mem := { m.mem with aq := wearRead wear spare m.mem.aq } }
  exact ⟨es, by rw [hlen, List.length_range], hes⟩

/-! ### The commands (R310, R311) -/

section
variable {m : Dev} {c : AqCmd} {l : List AqCmd} (hone : c.count = 1)

theorem freeFinds_undamaged {m : Dev} (h : m.mem.damaged = []) (ps : List (Nat × Nat)) : freeFinds m ps = m := by simp [freeFinds, h]

/-- The key of the one extent of a command. -/
def AqCmd.key (c : AqCmd) : Nat := c.part * 33554432 + c.first

/-- R310: the 2 MiB from an address as an extent holds them. -/
def extentOf (m : Mem) (a : Nat) : Tab Byte := tshift (trange m.bytes a segBytes) a 0

theorem tget_extentOf (m : Mem) (a : Nat) {i : Nat} (hi : i < 0x200000) : tget 0 (extentOf m a) i = memByte m (a + i) := by
  have hshift := tfind_tshift (l := trange m.bytes a segBytes) (src := a) (dst := 0) (i := i) fun p hp => (mem_trange.mp hp).2.1
  rw [Nat.zero_add] at hshift
  rw [tget, extentOf, hshift, tfind_trange ⟨Nat.le_add_right a i, Nat.add_lt_add_left (show i < segBytes from hi) a⟩]
  rfl

/-- R311: the bytes of memory after an extent has been read. -/
theorem memByte_aqReadExtent {m : Mem} {c : AqCmd} {e : Extent} (he : tfind m.aq.extents c.key = some e)
    (hdata : ∀ x ∈ e.data, x.1 < 0x200000) (b : Nat) : memByte (aqReadExtent m c false 0) b
      = if c.addr ≤ b ∧ b < c.addr + 0x200000 then tget 0 e.data (b - c.addr) else memByte m b := by
  have hkey : tfind m.aq.extents (extentKey c.part (c.first + 0)) = some e := he
  have hrange : ∀ p ∈ tshift e.data 0 c.addr, c.addr ≤ p.1 ∧ p.1 < c.addr + 0x200000 := fun p hp => by
    obtain ⟨q, hq, rfl⟩ := List.mem_map.mp hp
    have := hdata q hq
    simp only
    omega
  have hbytes : memByte (aqReadExtent m c false 0) b = tget 0 (tsplice (memZero m c.addr 0x200000).bytes c.addr 0x200000 (tshift e.data 0 c.addr)) b := by
    simp only [aqReadExtent, hkey]
    rfl
  rw [hbytes, tget_tsplice 0 _ _ _ _ b hrange]
  split
  next hin =>
    obtain ⟨i, rfl⟩ := Nat.exists_eq_add_of_le hin.1
    rw [tget, tfind_tshift fun p _ => Nat.zero_le p.1, Nat.zero_add, Nat.add_sub_cancel_left]
    rfl
  next hout => exact memByte_memZero_out m (by omega)

include hone

/-- R310: a write of one extent. -/
theorem aqCmdDone_write (failed : List Nat) (hwrite : c.write = true) (hdam : m.mem.damaged = []) : ∃ x, x.data = extentOf m.mem c.addr
    ∧ ∃ e, aqCmdDone failed c l m = { m with
        mem := { m.mem with aq := { m.mem.aq with cmds := l, extents := tput m.mem.aq.extents c.key x } }
        ctl := { m.ctl with evq := m.ctl.evq ++ [(none, e)] } } := by
  have hfinds := freeFinds_undamaged (m := { m with mem := { m.mem with aq := { m.mem.aq with cmds := l } } }) hdam
  refine ⟨{ (tfind m.mem.aq.extents c.key).getD {} with data := extentOf m.mem c.addr }, rfl, ?_⟩
  rw [aqCmdDone, if_pos hwrite, hone, hfinds]
  exact ⟨_, rfl⟩

/-- R311: a read of one extent that the host does not own and that no page protection holds. -/
theorem aqCmdDone_read (hread : c.write = false) (hhost : underHost m c.addr 0x200000 = false)
    (hpages : ∀ x ∈ m.jobs, x.2.secure.protectedPages = []) : ∃ win evq aq, aq.cmds = l
      ∧ aqCmdDone [] c l m = { m with
          mem := { aqReadExtent m.mem c false 0 with aq := aq }, sys := { m.sys with riskWin := win }, ctl := { m.ctl with evq := evq } } := by
  have hhost' : underHost m (c.addr + 0 * segBytes) segBytes = false := hhost
  have hsingle : List.range 1 = [0] := rfl
  rw [aqCmdDone, if_neg (by simp [hread]), hone, hsingle]
  simp only [List.not_mem_nil, decide_false, List.filter_cons, List.filter_nil, hhost', Bool.not_false, if_true, Bool.false_eq_true, if_false,
    List.foldl_cons, List.foldl_nil, touchPages_unprotected hpages]
  exact ⟨_, _, _, rfl, rfl⟩

end

/-- R313: the oldest command ends, and the controller reads its wear. -/
theorem exec_aqOpDone {s : State} {c : AqCmd} {l : List AqCmd} {wear spare : Nat} (hcmds : s.m.mem.aq.cmds = c :: l)
    (hwear : wear < 65536) (hspare : spare ≤ 100) :
    exec (.aqOpDone 0 [] wear spare) s = .next { s with m := aqWear wear spare (aqCmdDone [] c l s.m) } := by
  have hwf : (Instr.aqOpDone 0 [] wear spare).wf = true := by simp [Instr.wf, boundsWf, hwear]; omega
  have holdest : aqOpDone 0 [] wear spare s.m = aqWear wear spare (aqCmdDone [] c l s.m) := by simp [aqOpDone, hcmds]
  rw [← holdest]
  exact onDev_next _ s hwf

/-- R315: the failed controller ends every command. -/
theorem exec_aquiferControllerFailure (s : State) : ∃ es, es.length = s.m.mem.aq.cmds.length
    ∧ exec .aquiferControllerFailure s = .next { s with m := { s.m with
        mem := { s.m.mem with aq := { s.m.mem.aq with st := 2, cmds := [] } }, ctl := { s.m.ctl with evq := s.m.ctl.evq ++ es } } } := by
  obtain ⟨es, hlen, hes⟩ := foldl_raises s.m.mem.aq.cmds (f := fun m c => aqDone m c 0x5002 0 0xFFFFFFFF) (fun m c => ⟨_, rfl⟩)
    { s.m with mem := { s.m.mem with aq := { s.m.mem.aq with st := 2, cmds := [] } } }
  refine ⟨es, hlen, ?_⟩
  have hexec : exec .aquiferControllerFailure s = .next { s with m := aquiferFailed s.m } :=
    onDev_next (c := .aquiferControllerFailure) _ s rfl
  rw [hexec, aquiferFailed, hes]

/-- Settles O15: the command moves its extent (`aqCmdDone_write`, `aqCmdDone_read`), the wear is read (`aqWear_frame`), and a failed
controller ends what it holds. -/
theorem aquiferCommandsEnd : Obligations.AquiferCommandsEnd := by
  unfold Obligations.AquiferCommandsEnd
  intro s c l wear spare hcmds hone hwear hspare hdam
  refine ⟨fun hwrite => ?_, fun e hread he hdata hhost hpages => ?_, ?_⟩
  · have hexec := exec_aqOpDone hcmds hwear hspare
    obtain ⟨x, hx, e, hdone⟩ := aqCmdDone_write (l := l) hone [] hwrite hdam
    obtain ⟨es, hlen, hes⟩ := aqWear_frame wear spare (aqCmdDone [] c l s.m)
    rw [hes, hdone] at hexec
    rw [hdone] at hlen
    refine ⟨_, hexec, rfl, rfl, rfl, wearRead_st .., fun henough => ?_, fun i hi => ⟨x, (tfind_tput ..).trans (if_pos rfl), ?_⟩, rfl⟩
    · rw [entersReadOnly_of_spares henough, show b2n false = 0 from rfl, Nat.max_zero] at hlen
      simp only [List.length_append, List.length_singleton, hlen]
      rfl
    · rw [hx, tget_extentOf s.m.mem c.addr hi]
  · have hexec := exec_aqOpDone hcmds hwear hspare
    obtain ⟨win, evq, aq, haq, hdone⟩ := aqCmdDone_read (l := l) hone hread hhost hpages
    obtain ⟨es, -, hes⟩ := aqWear_frame wear spare (aqCmdDone [] c l s.m)
    rw [hes, hdone] at hexec
    have hbyte := memByte_aqReadExtent he hdata
    refine ⟨_, hexec, haq, fun i hi => (hbyte (c.addr + i)).trans ?_, fun a ha => (hbyte a).trans (if_neg (by omega)), rfl, rfl, rfl⟩
    rw [if_pos ⟨Nat.le_add_right _ i, Nat.add_lt_add_left hi _⟩, Nat.add_sub_cancel_left]
  · obtain ⟨es, hlen, hexec⟩ := exec_aquiferControllerFailure s
    refine ⟨_, hexec, rfl, ?_, rfl⟩
    rw [List.length_append, hlen, hcmds, List.length_cons]
    omega

end Sys2Proof.Machine
end

section
/-! PROOFS of the family 07_memory_tiers: the sensors of dies, stacks, packages and coolant (R300 to R302, R648, R649, R721, R723). -/

namespace Sys2Proof.Machine

/-! ### Dies (R649) -/

section
variable {m t : Dev} {d temp : Nat} {y : PwrDie} {evq : List (Option Nat × Event)}

/-- `t` is `m` but for the power state of one die, which is `y`, and the events that wait. -/
def OnlyDie (m : Dev) (d : Nat) (y : PwrDie) (evq : List (Option Nat × Event)) (t : Dev) : Prop :=
  ∃ dies, (∀ k, tget {} dies k = if k = d then y else pdieAt m k)
    ∧ t = { m with power := { m.power with dies := dies }, ctl := { m.ctl with evq := evq } }

theorem onlyDie_updPdie (f : PwrDie → PwrDie) : OnlyDie m d (f (pdieAt m d)) m.ctl.evq (updPdie m d f) :=
  ⟨_, fun k => pdieAt_updPdie m d k f, rfl⟩

theorem OnlyDie.pdieAt_same (h : OnlyDie m d y evq t) : pdieAt t d = y := by
  obtain ⟨dies, hread, rfl⟩ := h
  exact (hread d).trans (if_pos rfl)

theorem OnlyDie.updPdie (h : OnlyDie m d y evq t) (g : PwrDie → PwrDie) : OnlyDie m d (g y) evq (updPdie t d g) := by
  have hsame := h.pdieAt_same
  obtain ⟨dies, hread, rfl⟩ := h
  refine ⟨_, fun k => (pdieAt_updPdie _ d k g).trans ?_, rfl⟩
  rw [hsame]
  split
  next => rfl
  next hne => exact (hread k).trans (if_neg hne)

/-- The DIE_THERMAL event of a die to partition 0 (R649). -/
def thermalTold (m : Dev) (d edge : Nat) (y : PwrDie) : Option Nat × Event := (none, {
  etype := 0x0904, part := 0, stroke := m.ctl.localStroke
  payload := leBytes 1 d ++ leBytes 1 y.temp ++ leBytes 1 (dutyOf y) ++ leBytes 1 edge })

/-- DIE_THERMAL goes to partition 0, and then to the die's own when that is another. -/
theorem OnlyDie.thermalEvent (h : OnlyDie m d y evq t) (edge : Nat) :
    ∃ told, OnlyDie m d y told (thermalEvent d edge t) ∧ thermalTold m d edge y ∈ told := by
  have hsame := h.pdieAt_same
  obtain ⟨dies, hread, rfl⟩ := h
  rw [Machine.thermalEvent, hsame]
  simp only
  split
  · exact ⟨_, ⟨dies, hread, rfl⟩, List.mem_append_right _ (List.mem_singleton_self _)⟩
  · exact ⟨_, ⟨dies, hread, rfl⟩, List.mem_append_left _ (List.mem_append_right _ (List.mem_singleton_self _))⟩

/-- R649: a die at its threshold loses a step of duty, and tells when it begins to throttle. -/
theorem thermalTick_hot (hhot : (pdieAt m d).thr ≤ temp)
    (hy : { pdieAt m d with temp := temp, thermDuty := max 8 ((pdieAt m d).thermDuty - 1), throttling := true } = y) :
    ∃ told, OnlyDie m d y told (thermalTick d temp m) ∧ ((pdieAt m d).throttling = true → told = m.ctl.evq)
      ∧ ((pdieAt m d).throttling = false → thermalTold m d 0 y ∈ told) := by
  have hmeasured := onlyDie_updPdie (m := m) (d := d) fun x => { x with temp := temp }
  have hlowered := hmeasured.updPdie fun x => { x with thermDuty := max 8 (x.thermDuty - 1), throttling := true }
  simp only [thermalTick, hmeasured.pdieAt_same, if_pos hhot]
  subst hy
  cases hthrottling : (pdieAt m d).throttling with
  | true => exact ⟨_, hlowered, fun _ => rfl, nofun⟩
  | false =>
    obtain ⟨told, hevent, hmem⟩ := hlowered.thermalEvent 0
    exact ⟨told, hevent, nofun, fun _ => hmem⟩

/-- R649: a die 4 °C below its threshold gains a step of duty, and tells when it has its whole duty again. -/
theorem thermalTick_cool (hcool : temp + 4 ≤ (pdieAt m d).thr) (hduty : (pdieAt m d).thermDuty < 64)
    (hy : { pdieAt m d with
      temp := temp, thermDuty := (pdieAt m d).thermDuty + 1, throttling := decide ((pdieAt m d).thermDuty + 1 < 64) } = y) :
    ∃ told, OnlyDie m d y told (thermalTick d temp m) ∧ ((pdieAt m d).thermDuty < 63 → told = m.ctl.evq)
      ∧ ((pdieAt m d).thermDuty = 63 → thermalTold m d 1 y ∈ told) := by
  have hmeasured := onlyDie_updPdie (m := m) (d := d) fun x => { x with temp := temp }
  have hraised := hmeasured.updPdie fun x => { x with thermDuty := x.thermDuty + 1, throttling := decide (x.thermDuty + 1 < 64) }
  have hbelow : ¬(pdieAt m d).thr ≤ temp := by omega
  have hraises : temp + 3 < (pdieAt m d).thr ∧ (pdieAt m d).thermDuty < 64 := ⟨by omega, hduty⟩
  simp only [thermalTick, hmeasured.pdieAt_same, if_neg hbelow, if_pos hraises]
  subst hy
  split
  next hwhole =>
    obtain ⟨told, hevent, hmem⟩ := hraised.thermalEvent 1
    exact ⟨told, hevent, fun h => absurd hwhole (by omega), fun _ => hmem⟩
  next hpart => exact ⟨_, hraised, fun _ => rfl, fun h => absurd (congrArg (· + 1) h) hpart⟩

/-- R649: between the two, and at its whole duty, a die only shows its temperature. -/
theorem thermalTick_between (hbelow : temp < (pdieAt m d).thr) (hkeeps : (pdieAt m d).thr ≤ temp + 3 ∨ 64 ≤ (pdieAt m d).thermDuty) :
    OnlyDie m d { pdieAt m d with temp := temp } m.ctl.evq (thermalTick d temp m) := by
  have hmeasured := onlyDie_updPdie (m := m) (d := d) fun x => { x with temp := temp }
  have hstays : ¬(temp + 3 < (pdieAt m d).thr ∧ (pdieAt m d).thermDuty < 64) := by omega
  simp only [thermalTick, hmeasured.pdieAt_same, if_neg (Nat.not_le.mpr hbelow), if_neg hstays]
  exact hmeasured

end

theorem exec_thermalDutyTick (s : State) {d temp : Nat} (hd : d < 8) (htemp : temp < 256) :
    exec (.thermalDutyTick d temp) s = .next { s with m := thermalTick d temp s.m } :=
  onDev_next (c := .thermalDutyTick d temp) _ s (by simp [Instr.wf, boundsWf, hd, htemp])

/-! ### Stacks (R300, R302) -/

section
variable {m : Dev} {k temp : Nat}

theorem stackAt_updStack (m : Dev) (k j : Nat) (f : Stack → Stack) :
    stackAt (updStack m k f) j = if j = k then f (stackAt m k) else stackAt m j := tget_tmod ..

theorem stackAt_updStack_same (m : Dev) (k : Nat) (f : Stack → Stack) : stackAt (updStack m k f) k = f (stackAt m k) := by
  rw [stackAt_updStack, if_pos rfl]

/-- R300, R302: a stack after a reading of its temperature. -/
def stackMeasured (temp : Nat) (x : Stack) : Stack := { x with
  temp := temp, refresh2x := decide (85 < temp), level := if x.thrStart ≤ temp then min 7 (x.level + 1) else x.level }

theorem stackTemp_begins (hold : (stackAt m k).level = 0) (hnew : (stackMeasured temp (stackAt m k)).level ≠ 0) :
    stackTemp k temp m = stackEvent k 0 (updStack m k (stackMeasured temp)) := by
  have hread := stackAt_updStack_same m k (stackMeasured temp)
  unfold stackMeasured at hread hnew
  rw [stackTemp, hread, if_pos ⟨hold, hnew⟩]
  exact congrArg (fun n => stackEvent k n (updStack m k (stackMeasured temp))) hold

theorem stackTemp_quiet (h : (stackAt m k).level ≠ 0 ∨ (stackMeasured temp (stackAt m k)).level = 0) :
    stackTemp k temp m = updStack m k (stackMeasured temp) := by
  have hread := stackAt_updStack_same m k (stackMeasured temp)
  unfold stackMeasured at hread h
  rw [stackTemp, hread, if_neg (by tauto)]
  rfl

theorem stackDecay_eq (hlevel : 0 < (stackAt m k).level) (hcool : (stackAt m k).temp + (stackAt m k).hyst < (stackAt m k).thrStart) :
    stackDecay k m = if (stackAt m k).level = 1 then stackEvent k 1 (updStack m k fun x => { x with level := x.level - 1 })
      else updStack m k fun x => { x with level := x.level - 1 } := by
  rw [stackDecay, if_pos ⟨hlevel, hcool⟩]

end

theorem exec_stackTempRead (s : State) {k temp : Nat} (hk : k < 16) (htemp : temp < 256) :
    exec (.stackTempRead k temp) s = .next { s with m := stackTemp k temp s.m } :=
  onDev_next (c := .stackTempRead k temp) _ s (by simp [Instr.wf, boundsWf, hk, htemp])

theorem exec_stackThrottleDecay (s : State) {k : Nat} (hk : k < 16) :
    exec (.stackThrottleDecay k) s = .next { s with m := stackDecay k s.m } :=
  onDevW_next _ s (by simp [wfStackThrottleDecay, boundsWf, hk])

/-! ### Packages (R648) -/

/-- R648: a package after a reading of its temperature. -/
def packageMeasured (temp : Nat) (c : Cis) : Cis := { c with
  temp := temp, refresh2x := decide (85 ≤ temp), halfRate := decide (95 ≤ temp) }

theorem thresholdCrossed_package (unit temp : Nat) (m : Dev) :
    thresholdCrossed 1 unit temp m = updMem m fun x => { x with cis := tmod {} x.cis unit (packageMeasured temp) } := rfl

theorem exec_thermalThresholdCrossed (s : State) {kind unit temp : Nat} (hkind : kind < 256) (hunit : unit < 65536) (htemp : temp < 256) :
    exec (.thermalThresholdCrossed kind unit temp) s = .next { s with m := thresholdCrossed kind unit temp s.m } :=
  onDevW_next _ s (by simp [wfThermalThresholdCrossed, boundsWf, hkind, hunit, htemp])

/-! ### Coolant (R721, R723) -/

theorem exec_coolantSensorTick (s : State) {inlet outlet : Nat} {wet : Bool} (h : wfCoolantSensorTick inlet outlet wet = true) :
    exec (.coolantSensorTick inlet outlet wet) s = .next { s with m := coolantTick inlet outlet wet s.m } := onDevW_next _ s h

/-- R721, R723: the coolant's event tells what stands after the reading, when a flag has changed. -/
theorem coolantTick_eq (inlet outlet : Nat) (wet hot : Bool) (m : Dev)
    (hhot : (decide (60 ≤ outlet) || (m.power.hot && decide (57 ≤ outlet))) = hot) :
    coolantTick inlet outlet wet m = { m with
      power := { m.power with inlet := inlet, outlet := outlet, hot := hot, leak := wet }
      ctl := { m.ctl with evq := if hot = m.power.hot ∧ wet = m.power.leak then m.ctl.evq else m.ctl.evq ++ [(none, {
        etype := 0x0907, part := 0, stroke := m.ctl.localStroke
        payload := leBytes 1 inlet ++ leBytes 1 outlet ++ leBytes 1 (b2n hot) ++ leBytes 1 (b2n wet) })] } } := by
  have hchanged : (decide (hot ≠ m.power.hot) || decide (wet ≠ m.power.leak)) = true ↔ ¬(hot = m.power.hot ∧ wet = m.power.leak) := by
    rw [Bool.or_eq_true, decide_eq_true_eq, decide_eq_true_eq, not_and_or]
  simp only [coolantTick, hhot]
  by_cases hsame : hot = m.power.hot ∧ wet = m.power.leak
  · rw [if_neg (fun h => hchanged.mp h hsame), if_pos hsame]
    rfl
  · rw [if_pos (hchanged.mpr hsame), if_neg hsame]
    rfl

end Sys2Proof.Machine
end

section
/-! PROOFS of the family 07_memory_tiers: the regulators' alarms, the risk estimate, and the obligation on sensors and alarms (R300 to R302,
R572, R635, R648, R649, R721, R723). -/

namespace Sys2Proof.Machine

/-! ### Regulators (R635, R645) -/

/-- R635: the module once an alarm of a rail is kept, counted and reported. -/
def alarmKept (rail alarm value : Nat) (m : Dev) : Dev :=
  raiseModule (riskHit (updPower m fun w => { w with
      alarms := sat 16 (w.alarms + 1), rails := tmod {} w.rails rail fun r => { r with alarm := r.alarm ||| 2 ^ alarm } }) 5 1)
    0x0903 0 (leBytes 1 rail ++ leBytes 1 alarm ++ zeros 2 ++ leBytes 4 value)

theorem alarmKept_frame (rail alarm value : Nat) (m : Dev) : ∃ win, alarmKept rail alarm value m = { m with
    sys := { m.sys with riskWin := win }
    power := { m.power with
      alarms := sat 16 (m.power.alarms + 1)
      rails := tmod {} m.power.rails rail fun r => { r with alarm := r.alarm ||| 2 ^ alarm } }
    ctl := { m.ctl with evq := m.ctl.evq ++ [(none, {
      etype := 0x0903, part := 0, stroke := m.ctl.localStroke
      payload := leBytes 1 rail ++ leBytes 1 alarm ++ zeros 2 ++ leBytes 4 value })] } } := ⟨_, rfl⟩

theorem vcoreDroop_eq (d : Nat) (m : Dev) : vcoreDroop d m = { m with power := { m.power with
    dies := tmod {} m.power.dies d fun x => { x with droopUntil := m.cycle + 64 }, droops := sat 16 (m.power.droops + 1) } } := rfl

/-- R635, R645: an alarm of a rail that its regulator still holds; a droop of a die's own rail halves the die's duty. -/
theorem exec_regulatorAlarm {s : State} {rail alarm value : Nat} (hwf : wfRegulatorAlarm rail alarm value true = true)
    (hon : s.m.sys.st ≠ .off) (hrail : rail < 32) : exec (.regulatorAlarm rail alarm value true) s = .next { s with
      m := if alarm = 2 ∧ rail < 8 then vcoreDroop rail (alarmKept rail alarm value s.m) else alarmKept rail alarm value s.m } := by
  have hrow : exec (.regulatorAlarm rail alarm value true) s = .next { s with
    nv := (regulatorAlarm rail alarm value true s.nv s.m).1, m := (regulatorAlarm rail alarm value true s.nv s.m).2 } := if_pos hwf
  have hkept : regulatorAlarm rail alarm value true s.nv s.m = (s.nv, if alarm = 2 ∧ rail < 8
      then vcoreDroop rail (alarmKept rail alarm value s.m) else alarmKept rail alarm value s.m) := by
    simp only [regulatorAlarm, if_neg hon, if_neg hrail.ne, if_true]
    rfl
  rw [hrow, hkept]

/-! ### The risk estimate (R572) -/

/-- R572: the window of the estimate once the links' counters have been read. -/
def riskWinRead (m : Dev) : List (List Nat) :=
  if linkFaults m - m.sys.riskLinks = 0 then m.sys.riskWin else (riskHit m 2 (linkFaults m - m.sys.riskLinks)).sys.riskWin

theorem riskReadLinks_eq (m : Dev) :
    riskReadLinks m = { m with sys := { m.sys with riskWin := riskWinRead m, riskLinks := linkFaults m } } := by
  rw [riskReadLinks, riskWinRead]
  simp only
  split <;> rfl

/-- R572: a millisecond that ends no second and no hour, in a module without a job. -/
theorem riskTick_eq {m x : Dev} {e : Nat} {ss : List Nat} (hjobs : m.jobs = []) (hms : m.sys.riskMs < 999) (hhour : m.sys.hourMs < 3599999)
    (hx : { m with sys := { m.sys with riskWin := riskWinRead m } } = x) (hss : riskScoresOf x = ss)
    (he : min 255 (((List.range 7).map (fun i => nth 0 m.sys.riskWeights i * nth 0 ss i)).sum / 256) = e) :
    riskTick m = { x with sys := { x.sys with
      riskMs := m.sys.riskMs + 1, hourMs := m.sys.hourMs + 1, riskLinks := linkFaults m, riskScores := ss, estimate := e
      peak := max m.sys.peak e, top := riskTop m.sys.riskWeights ss } } := by
  have hsecond : ¬1000 ≤ m.sys.riskMs + 1 := by omega
  have hnext : ¬3600000 ≤ m.sys.hourMs + 1 := by omega
  subst hx hss he
  simp only [riskTick, riskReadLinks_eq, updSys, if_neg hsecond, if_neg hnext, hjobs, List.map_nil, List.foldl_nil]
  rfl

theorem exec_riskEstimateTick (s : State) : exec .riskEstimateTick s = .next { s with m := riskTick s.m } :=
  onDev_next (c := .riskEstimateTick) _ s rfl

/-! ### The obligation -/

/-- Settles O46: each sensor and alarm by the equation of its tick. -/
theorem sensorsAndAlarms : Obligations.SensorsAndAlarms := by
  unfold Obligations.SensorsAndAlarms
  intro s
  refine ⟨?_, ?_, ?_, ?_, ?_, ?_⟩
  · rintro d temp _ hd htemp rfl only event
    have hexec := exec_thermalDutyTick s hd htemp
    refine ⟨fun duty hhot hduty => ?_, fun hcool hbelow => ?_, fun hbelow hkeeps => ?_⟩
    · subst hduty
      obtain ⟨told, ⟨dies, hread, ht⟩, hquiet, htold⟩ := thermalTick_hot hhot rfl
      rw [ht] at hexec
      exact ⟨_, hexec, ⟨hread, rfl⟩, hquiet, htold⟩
    · obtain ⟨told, ⟨dies, hread, ht⟩, hquiet, htold⟩ := thermalTick_cool hcool hbelow rfl
      rw [ht] at hexec
      refine ⟨_, hexec, ⟨hread, rfl⟩, hquiet, fun h => ?_⟩
      have hmem := htold h
      rw [thermalTold, dutyOf] at hmem
      simp only [h] at hmem
      exact hmem
    · obtain ⟨dies, hread, ht⟩ := thermalTick_between hbelow hkeeps
      rw [ht] at hexec
      exact ⟨_, hexec, ⟨hread, rfl⟩, rfl⟩
  · rintro k _ hk rfl only event
    refine ⟨fun temp level htemp hlevel => ?_, fun hlevel hcool => ?_⟩
    · subst hlevel
      have hexec := exec_stackTempRead s hk htemp
      by_cases hbegins : (stackAt s.m k).level = 0 ∧ (stackMeasured temp (stackAt s.m k)).level ≠ 0
      · rw [stackTemp_begins hbegins.1 hbegins.2, stackEvent, stackAt_updStack_same] at hexec
        exact ⟨_, hexec, ⟨fun j => stackAt_updStack s.m k j _, rfl⟩, fun _ _ => rfl, fun h => absurd hbegins (by tauto)⟩
      · have hquiet : (stackAt s.m k).level ≠ 0 ∨ (stackMeasured temp (stackAt s.m k)).level = 0 := by tauto
        rw [stackTemp_quiet hquiet] at hexec
        exact ⟨_, hexec, ⟨fun j => stackAt_updStack s.m k j _, rfl⟩, fun hold hnew => absurd ⟨hold, hnew⟩ hbegins, fun _ => rfl⟩
    · have hexec := exec_stackThrottleDecay s hk
      rw [stackDecay_eq hlevel hcool] at hexec
      split at hexec
      next hone =>
        rw [stackEvent, stackAt_updStack_same] at hexec
        refine ⟨_, hexec, ⟨fun j => stackAt_updStack s.m k j _, rfl⟩, fun _ => ?_, fun h => absurd hone h⟩
        simp only [hone]
        rfl
      next hmore =>
        exact ⟨_, hexec, ⟨fun j => stackAt_updStack s.m k j _, rfl⟩, fun h => absurd h hmore, fun _ => rfl⟩
  · intro unit temp hunit htemp
    have hexec := fun kind (hkind : kind < 256) => exec_thermalThresholdCrossed s hkind hunit htemp
    have hpackage := hexec 1 (by decide)
    rw [thresholdCrossed_package] at hpackage
    refine ⟨⟨_, hexec 0 (by decide), ?_, fun k hk => ?_, rfl⟩,
      ⟨_, hpackage, fun k => tget_tmod_read s.m.mem.cis unit {} k (packageMeasured temp), rfl⟩, hexec 2 (by decide)⟩
    · exact (tget_tset ..).trans (if_pos rfl)
    · exact (tget_tset ..).trans (if_neg hk)
  · intro inlet outlet wet hot hwf hhot
    have hexec := exec_coolantSensorTick s hwf
    rw [coolantTick_eq inlet outlet wet hot s.m hhot] at hexec
    exact ⟨_, hexec, rfl, rfl⟩
  · intro rail alarm value hwf hon hrail
    have hexec := exec_regulatorAlarm hwf hon hrail
    obtain ⟨win, hkept⟩ := alarmKept_frame rail alarm value s.m
    have hrails := fun r => tget_tmod_read s.m.power.rails rail {} r fun x => { x with alarm := x.alarm ||| 2 ^ alarm }
    rw [hkept] at hexec
    by_cases hdroop : alarm = 2 ∧ rail < 8
    · rw [if_pos hdroop, vcoreDroop_eq] at hexec
      have hdies := fun d => tget_tmod_read s.m.power.dies rail {} d fun x => { x with droopUntil := s.m.cycle + 64 }
      exact ⟨_, hexec, rfl, hrails,
        fun d => (hdies d).trans (if_congr ⟨fun h => ⟨hdroop.1, hdroop.2, h⟩, fun h => h.2.2⟩ rfl rfl), rfl, rfl⟩
    · rw [if_neg hdroop] at hexec
      exact ⟨_, hexec, rfl, hrails, fun d => (if_neg fun h => hdroop ⟨h.1, h.2.1⟩).symm, rfl, rfl⟩
  · rintro e n w m ss hjobs hms hhour rfl rfl hm hss he
    rw [exec_riskEstimateTick, riskTick_eq hjobs hms hhour hm hss he]

end Sys2Proof.Machine
end

section
/-! PROOFS of the family 08_attention_kv: what writes change in memory, and a change of one list of a pool with the tables that follow it
(R342 to R346, R353). -/

namespace Sys2Proof.Machine

/-! ### What writes change -/

/-- Memory changes its bytes in a region alone, besides its marks and lines. -/
structure BytesIn (P : Nat → Prop) (x y : Mem) : Prop where
  frame : ∃ bytes poison damaged lines, y = { x with bytes := bytes, poison := poison, damaged := damaged, lines := lines }
  byte : ∀ a, ¬P a → memByte y a = memByte x a

/-- A module changes the bytes of a region alone, besides the marks and lines of memory. -/
structure WritesIn (P : Nat → Prop) (m r : Dev) : Prop where
  mem : BytesIn P m.mem r.mem
  frame : ∃ mem, r = { m with mem := mem }

/-- The addresses of a run. -/
def InRun (a n x : Nat) : Prop := a ≤ x ∧ x < a + n

section
variable {P : Nat → Prop} {x y z : Mem} {m r t : Dev}

theorem BytesIn.refl (P : Nat → Prop) (x : Mem) : BytesIn P x x := ⟨⟨_, _, _, _, rfl⟩, fun _ _ => rfl⟩

theorem BytesIn.trans (h : BytesIn P x y) (h' : BytesIn P y z) : BytesIn P x z := by
  obtain ⟨⟨_, _, _, _, rfl⟩, hb⟩ := h
  obtain ⟨⟨_, _, _, _, rfl⟩, hb'⟩ := h'
  exact ⟨⟨_, _, _, _, rfl⟩, fun a ha => (hb' a ha).trans (hb a ha)⟩

theorem bytesIn_memWrite (x : Mem) {a : Nat} {l : List Byte} (h : ∀ i < l.length, P (a + i)) : BytesIn P x (memWrite x a l) := by
  refine ⟨⟨_, _, _, _, rfl⟩, fun b hb => memByte_memWrite_out x a l b ?_⟩
  by_contra hin
  refine hb ?_
  have := h (b - a) (by omega)
  rwa [Nat.add_sub_cancel' (by omega)] at this

theorem WritesIn.refl (P : Nat → Prop) (m : Dev) : WritesIn P m m := ⟨.refl P m.mem, m.mem, rfl⟩

theorem WritesIn.trans (h : WritesIn P m r) (h' : WritesIn P r t) : WritesIn P m t := by
  obtain ⟨hb, mem, rfl⟩ := h
  obtain ⟨hb', mem', rfl⟩ := h'
  exact ⟨hb.trans hb', mem', rfl⟩

theorem WritesIn.ite {q : Prop} [Decidable q] (h : WritesIn P m r) (h' : WritesIn P m t) : WritesIn P m (if q then r else t) := by
  split
  · exact h
  · exact h'

theorem WritesIn.jobs (h : WritesIn P m r) : r.jobs = m.jobs := by
  obtain ⟨mem, rfl⟩ := h.frame
  rfl

end

theorem isExtMem_bankAddr (die bank o : Nat) : isExtMem (bankAddr die bank + o) = false := by
  exact decide_eq_false (by unfold bankAddr; omega)

theorem underHost_within {m : Dev} {a n b k : Nat} (h : underHost m a n = false) (hlo : a ≤ b) (hhi : b + k ≤ a + n) :
    underHost m b k = false := by
  simp only [underHost, List.any_eq_false, Bool.and_eq_true, decide_eq_true_eq] at h ⊢
  intro f hf hin
  exact h f hf ⟨⟨hin.1.1, by omega⟩, by omega⟩

/-- R124, R554: a write under no bucket of the host that touches no protected page. -/
theorem ownWrite_goes {m : Dev} {a : Nat} {l : List Byte} (hhost : underHost m a l.length = false)
    (hpages : touchPages m a l.length = m) : ownWrite m a l = { m with mem := memWrite m.mem a l } := by
  simp only [ownWrite, hhost, hpages, Bool.false_eq_true, if_false]

theorem ownWrite_writesIn {P : Nat → Prop} {m : Dev} {a : Nat} {l : List Byte} (hjobs : ∀ x ∈ m.jobs, x.2.secure.protectedPages = [])
    (h : ∀ i < l.length, P (a + i)) : WritesIn P m (ownWrite m a l) := by
  rw [ownWrite]
  split
  · exact .refl P m
  · rw [touchPages_unprotected hjobs]
    exact ⟨bytesIn_memWrite m.mem h, _, rfl⟩

theorem readsFind_undamaged {m : Dev} (h : m.mem.damaged = []) (requester : Nat) (ps : List (Nat × Nat)) :
    readsFind m requester ps = m := by
  simp [readsFind, h]

/-! ### A pool whose changes lie in one list -/

/-- Pages that a pool lists are among its page-table entries. -/
def PagesBounded (p : KvPool) : Prop := ∀ k, p.desc.pages ≤ k → tfind p.pages k = none

/-- The number of lists of a pool (R344). -/
abbrev listCount (p : KvPool) : Nat := p.desc.seqs * p.desc.layers * 2

/-- A change of a pool that keeps its shape and, of its maps and lengths, all but those of list `L`. -/
structure ListChange (L : Nat) (p q : KvPool) : Prop where
  desc : q.desc = p.desc
  base : q.tableBase = p.tableBase
  hbm : q.hbmBase = p.hbmBase
  cis : q.cisBase = p.cisBase
  pages : ∀ k, p.desc.pages ≤ k → tfind q.pages k = tfind p.pages k
  map : ∀ k, (L < listCount p → ∀ i < p.desc.maxPages, k ≠ L * p.desc.maxPages + i) → tfind q.map k = tfind p.map k
  len : ∀ k, (L < listCount p → k ≠ L) → tfind q.len k = tfind p.len k

theorem pagesBounded_of {p : KvPool} (h : ∀ y ∈ p.pages, y.1 < p.desc.pages) : PagesBounded p := fun _ hk =>
  tfind_none_of fun y hy he => absurd (h y hy) (by omega)

theorem tfind_tset_other {α : Type} [DecidableEq α] (d : α) (t : Tab α) (v : α) {k j : Nat} (h : j ≠ k) :
    tfind (tset d t k v) j = tfind t j := by
  unfold tset
  split
  · rw [tfind_tdel, if_neg h]
  · rw [tfind_tput, if_neg h]

namespace ListChange
variable {L : Nat} {p q u : KvPool}

theorem refl (L : Nat) (p : KvPool) : ListChange L p p := ⟨rfl, rfl, rfl, rfl, fun _ _ => rfl, fun _ _ => rfl, fun _ _ => rfl⟩

theorem trans (h : ListChange L p q) (h' : ListChange L q u) : ListChange L p u where
  desc := h'.desc.trans h.desc
  base := h'.base.trans h.base
  hbm := h'.hbm.trans h.hbm
  cis := h'.cis.trans h.cis
  pages k hk := (h'.pages k (by rwa [h.desc])).trans (h.pages k hk)
  map k hk := (h'.map k (by rwa [listCount, h.desc])).trans (h.map k hk)
  len k hk := (h'.len k (by rwa [listCount, h.desc])).trans (h.len k hk)

theorem bounded (h : ListChange L p q) (hb : PagesBounded p) : PagesBounded q := fun k hk => by
  rw [h.desc] at hk
  rw [h.pages k hk, hb k hk]

theorem frameAddr_eq (h : ListChange L p q) (c : Bool) (f : Nat) : frameAddr q c f = frameAddr p c f := by
  simp only [frameAddr, kvFrame, kvData, kvRow, h.desc, h.hbm, h.cis]

/-- The entries of other lists stand. -/
theorem mapPage_other (h : ListChange L p q) {k : Nat} (hk : k ≠ L) (i : Nat) : mapPage q k i = mapPage p k i := by
  have hlist : ∀ l, ∀ j < p.desc.maxPages, (l * p.desc.maxPages + j) / p.desc.maxPages = l := fun l j hj => by
    rw [Nat.mul_comm, Nat.mul_add_div (by omega), Nat.div_eq_of_lt hj, Nat.add_zero]
  have hkeys : i < p.desc.maxPages → ∀ j < p.desc.maxPages, k * p.desc.maxPages + i ≠ L * p.desc.maxPages + j := fun hi j hj he =>
    hk (by rw [← hlist k i hi, he, hlist L j hj])
  unfold mapPage
  rw [h.desc]
  split
  next hi => rw [tget, tget, h.map _ fun _ => hkeys hi]
  next => rfl

theorem listLen_other (h : ListChange L p q) {k : Nat} (hk : k ≠ L) : listLen q k = listLen p k := by
  rw [listLen, listLen, tget, tget, h.len k fun _ => hk]

end ListChange

section
variable {L : Nat} {p : KvPool}

theorem listChange_setMap {i : Nat} (hL : L < listCount p) (hi : i < p.desc.maxPages) (pg : Option Nat) :
    ListChange L p (setMap p L i pg) :=
  { ListChange.refl L p with map := fun _ hk => tfind_tset_other 0 _ _ (hk hL i hi) }

theorem listChange_setLen (hL : L < listCount p) (n : Nat) : ListChange L p (setLen p L n) :=
  { ListChange.refl L p with len := fun _ hk => tfind_tset_other 0 _ _ (hk hL) }

theorem listChange_updPage (hb : PagesBounded p) (pg : Nat) (f : Page → Page) : ListChange L p (updPage p pg f) :=
  { ListChange.refl L p with
    pages := fun k hk => by
      refine (tfind_tupd p.pages pg k f).trans ?_
      split
      next h => rw [← h, hb k hk, Option.map_none]
      next => rfl }

theorem listChange_putPage {n : Nat} (hn : n < p.desc.pages) (x : Page) : ListChange L p { p with pages := tput p.pages n x } :=
  { ListChange.refl L p with pages := fun k hk => (tfind_tput p.pages n k x).trans (if_neg (by omega)) }

/-- A page that changes and may then retire (R353). -/
theorem listChange_settled (hb : PagesBounded p) (pg : Nat) (f : Page → Page) : ListChange L p (settlePage (updPage p pg f) pg) :=
  (listChange_updPage hb pg f).trans (listChange_updPage ((listChange_updPage (L := L) hb pg f).bounded hb) pg _)

end

@[simp] theorem mapPage_updPage (p : KvPool) (pg : Nat) (f : Page → Page) (L i : Nat) : mapPage (updPage p pg f) L i = mapPage p L i := rfl
@[simp] theorem mapPage_setLen (p : KvPool) (k n L i : Nat) : mapPage (setLen p k n) L i = mapPage p L i := rfl
@[simp] theorem listLen_setLen (p : KvPool) (L n : Nat) : listLen (setLen p L n) L = n := by simp [listLen, setLen, tget_tset]

theorem mapPage_setMap (p : KvPool) {L i : Nat} (hi : i < p.desc.maxPages) (pg : Option Nat) (j : Nat) :
    mapPage (setMap p L i pg) L j = if j = i then pg else mapPage p L j := by
  have hread : tget 0 (setMap p L i pg).map (L * p.desc.maxPages + j)
      = if j = i then (match pg with | some n => n + 1 | none => 0) else tget 0 p.map (L * p.desc.maxPages + j) := by
    exact (tget_tset 0 p.map _ _ _).trans (if_congr Nat.add_left_cancel_iff rfl rfl)
  unfold mapPage
  rw [show (setMap p L i pg).desc = p.desc from rfl, hread]
  by_cases hj : j = i
  · subst hj
    cases pg <;> simp [hi]
  · simp only [hj, if_false]

theorem mapPage_bound {p : KvPool} {L i pg : Nat} (h : mapPage p L i = some pg) : i < p.desc.maxPages := by
  by_contra hi
  rw [mapPage, if_neg hi] at h
  cases h

theorem tfind_updPage (p : KvPool) (pg k : Nat) (f : Page → Page) :
    tfind (updPage p pg f).pages k = if k = pg then (tfind p.pages pg).map f else tfind p.pages k := tfind_tupd ..

/-- R353: only a page that nothing names or reads retires. -/
theorem settlePage_named {p : KvPool} {pg : Nat} {x : Page} (hx : tfind p.pages pg = some x) (href : x.ref ≠ 0) (k : Nat) :
    tfind (settlePage p pg).pages k = tfind p.pages k := by
  rw [settlePage, tfind_updPage]
  split
  next h => rw [h, hx, Option.map_some, if_neg fun h => href h.1]
  next => rfl

/-- R345: the lowest free number is free. -/
theorem lowestFree_free {taken : List Nat} {n k : Nat} (h : lowestFree taken n = some k) : k < n ∧ k ∉ taken := by
  have hmem := List.min?_mem h
  simpa using (List.mem_filter.mp hmem).2

theorem newPage_some {p : KvPool} {n f : Nat} (h : newPage p = some (n, f)) : n < p.desc.pages ∧ tfind p.pages n = none := by
  rw [newPage] at h
  split at h
  next n' f' hn hf =>
    cases h
    obtain ⟨hlt, hfree⟩ := lowestFree_free hn
    exact ⟨hlt, tfind_none_of fun y hy he => hfree (List.mem_map.mpr ⟨y, hy, he⟩)⟩
  next => cases h

theorem listIndex_lt {p : KvPool} {s l h : Nat} (hs : s < p.desc.seqs) (hl : l < p.desc.layers) (hh : h < 2) :
    listIndex p s l h < listCount p := by
  have hseq : (s + 1) * p.desc.layers ≤ p.desc.seqs * p.desc.layers := Nat.mul_le_mul_right _ hs
  rw [Nat.add_mul, Nat.one_mul] at hseq
  unfold listIndex listCount
  omega

/-! ### The tables in memory (R344, R346) -/

/-- The addresses of a pool's tables. -/
def InTables (p : KvPool) (a : Nat) : Prop :=
  InRun p.tableBase (p.desc.pages * 16 + listCount p * (p.desc.maxPages * 4 + 4)) a

@[simp] theorem length_pageBytes (x : Option Page) : (pageBytes x).length = 16 := by
  cases x <;> simp [pageBytes]

theorem changed_of_mem {α : Type} [DecidableEq α] {old new : Tab α} {k : Nat} (h : k ∈ changedKeys old new) :
    tfind old k ≠ tfind new k := by
  simpa using (List.mem_filter.mp h).2

theorem changedKeys_same {α : Type} [DecidableEq α] (t : Tab α) : changedKeys t t = [] := by simp [changedKeys]

/-- R344, R346: a change of one list is written into the pool's tables. -/
theorem tableWrites_inTables {L : Nat} {p q : KvPool} (h : ListChange L p q) {w : Nat × List Byte} (hw : w ∈ tableWrites p q) :
    ∀ i < w.2.length, InTables p (w.1 + i) := by
  simp only [tableWrites, h.desc, h.base, List.mem_append, List.mem_map] at hw
  intro i hi
  simp only [InTables, InRun, listCount, Nat.mul_add, ← Nat.mul_assoc]
  obtain (⟨k, hk, rfl⟩ | ⟨k, hk, rfl⟩) | ⟨k, hk, rfl⟩ := hw
  · have hlow : k < p.desc.pages := by
      by_contra hge
      exact changed_of_mem hk (h.pages k (Nat.not_lt.mp hge)).symm
    simp only [length_pageBytes] at hi
    omega
  · have hkey : L < listCount p ∧ ∃ j < p.desc.maxPages, k = L * p.desc.maxPages + j := by
      by_contra hnone
      push Not at hnone
      exact changed_of_mem hk (h.map k hnone).symm
    obtain ⟨hL, j, hj, rfl⟩ := hkey
    have hlists : (L + 1) * p.desc.maxPages ≤ p.desc.seqs * p.desc.layers * 2 * p.desc.maxPages := Nat.mul_le_mul_right _ hL
    rw [Nat.add_mul, Nat.one_mul] at hlists
    simp only [length_leBytes] at hi
    omega
  · have hkey : L < p.desc.seqs * p.desc.layers * 2 ∧ k = L := by
      by_contra hnone
      push Not at hnone
      exact changed_of_mem hk (h.len k hnone).symm
    simp only [length_leBytes] at hi
    omega

theorem ListChange.inTables {L : Nat} {p q : KvPool} (h : ListChange L p q) : InTables q = InTables p := by
  unfold InTables listCount
  rw [h.desc, h.base]

theorem foldl_tableWrites (ws : List (Nat × List Byte)) : ∀ m : Dev, ws.foldl (fun m w => updMem m (fun x => memWrite x w.1 w.2)) m
    = { m with mem := ws.foldl (fun x w => memWrite x w.1 w.2) m.mem } := by
  induction ws with
  | nil => exact fun m => rfl
  | cons w ws ih => exact fun m => ih _

/-- What a change of one list of the pool of a die and job slot does to the module. -/
structure PoolStep (die slot L : Nat) (m : Dev) (p : KvPool) (r : Dev) (q : KvPool) : Prop where
  pool : poolAt r die slot = some q
  change : ListChange L p q
  mem : BytesIn (InTables p) m.mem r.mem
  frame : ∃ pools evq mem, r = { m with pools := pools, ctl := { m.ctl with evq := evq }, mem := mem }

section
variable {die slot L : Nat} {m r t : Dev} {p q u : KvPool}

theorem PoolStep.refl (hp : poolAt m die slot = some p) : PoolStep die slot L m p m p := ⟨hp, .refl L p, .refl _ _, _, _, _, rfl⟩

theorem PoolStep.lists (h : PoolStep die slot L m p r q) : listCount q = listCount p := by rw [listCount, h.change.desc]

theorem PoolStep.trans (h : PoolStep die slot L m p r q) (h' : PoolStep die slot L r q t u) : PoolStep die slot L m p t u := by
  obtain ⟨_, hc, hb, _, _, _, rfl⟩ := h
  obtain ⟨hp, hc', hb', _, _, _, rfl⟩ := h'
  rw [hc.inTables] at hb'
  exact ⟨hp, hc.trans hc', hb.trans hb', _, _, _, rfl⟩

theorem updPool_eq (hp : poolAt m die slot = some p) (f : KvPool → KvPool) : updPool m die slot f = { m with
    pools := tput m.pools (die * 16 + slot) (f p)
    mem := (tableWrites p (f p)).foldl (fun x w => memWrite x w.1 w.2) m.mem } := by
  rw [updPool, hp]
  exact foldl_tableWrites _ _

/-- R344, R346: a change of one list and the tables that follow it. -/
theorem poolStep_updPool (hp : poolAt m die slot = some p) (f : KvPool → KvPool)
    (h : ListChange L p (f p)) : PoolStep die slot L m p (updPool m die slot f) (f p) := by
  rw [updPool_eq hp]
  refine ⟨(tfind_tput ..).trans (if_pos rfl), h, ?_, _, _, _, rfl⟩
  exact List.foldlRecOn _ _ (motive := BytesIn (InTables p) m.mem) (.refl _ _) fun x hx w hw =>
    hx.trans (bytesIn_memWrite x (tableWrites_inTables h hw))

theorem PoolStep.upd (h : PoolStep die slot L m p r q) (f : KvPool → KvPool)
    (hf : ListChange L q (f q)) : PoolStep die slot L m p (updPool r die slot f) (f q) :=
  h.trans (poolStep_updPool h.pool f hf)

theorem PoolStep.raise (h : PoolStep die slot L m p r q) (j e st : Nat) (l : List Byte) :
    PoolStep die slot L m p (raiseJob r j e st l) q := by
  obtain ⟨evq, hr⟩ := raiseJob_frame r j e st l
  obtain ⟨hp, hc, hb, _, _, _, rfl⟩ := h
  rw [hr]
  exact ⟨hp, hc, hb, _, _, _, rfl⟩

/-- R361: KV_POOL_LOW changes a mark of the pool alone. -/
theorem PoolStep.water (h : PoolStep die slot L m p r q) :
    ∃ low, PoolStep die slot L m p (poolWater die slot r) { q with low := low } := by
  have hlow : ∀ b, PoolStep die slot L m p (updPool r die slot fun p => { p with low := b }) { q with low := b } := fun b =>
    h.upd _ { ListChange.refl L q with }
  simp only [poolWater, h.pool]
  split
  · exact ⟨q.low, h⟩
  · split
    · exact ⟨_, (hlow _).raise ..⟩
    · exact ⟨_, hlow _⟩

end

end Sys2Proof.Machine
end

section
/-! PROOFS of the family 08_attention_kv: the page operations on one list, the moves of pages, and the frame in which the attention engine
runs a descriptor (R331 to R341, R345, R354, R355). -/

namespace Sys2Proof.Machine

/-! ### Operations on one list (R340, R354) -/

section
variable {die slot L : Nat} {m : Dev} {p : KvPool}

/-- R354: one entry is taken out of the list. -/
theorem releaseEntry_step (hL : L < listCount p) (hp : poolAt m die slot = some p) (hb : PagesBounded p) (seq i : Nat) :
    ∃ q, PoolStep die slot L m p (releaseEntry die slot seq L m i) q ∧ q.len = p.len
      ∧ ∀ j, mapPage q L j = if j = i then none else mapPage p L j := by
  cases hpg : mapPage p L i with
  | none =>
    refine ⟨p, ?_, rfl, fun j => ?_⟩
    · simp only [releaseEntry, hp, hpg]
      exact .refl hp
    · split
      next h => rw [h, hpg]
      next => rfl
  | some pg =>
    have hi := mapPage_bound hpg
    have hmap := mapPage_setMap p (L := L) hi none
    have hcleared := poolStep_updPool hp (fun p => setMap p L i none) (listChange_setMap hL hi none)
    have hcount := hcleared.upd (fun p => settlePage (updPage p pg fun x => { x with ref := x.ref - 1 }) pg)
      (listChange_settled (hcleared.change.bounded hb) pg _)
    have hfault := hcleared.upd (fun p => { p with countFault := sat 16 (p.countFault + 1) }) { ListChange.refl L _ with }
    simp only [releaseEntry, hp, hpg]
    cases tfind p.pages pg with
    | none => exact ⟨_, hfault.raise .., rfl, hmap⟩
    | some x =>
      simp only
      split
      · exact ⟨_, hcount, rfl, hmap⟩
      · exact ⟨_, hfault.raise .., rfl, hmap⟩

/-- R340: the entries of some indices are taken out, one by one. -/
theorem releaseEntries_step (seq : Nat) (l : List Nat) : ∀ {m : Dev} {p : KvPool}, L < listCount p →
    poolAt m die slot = some p → PagesBounded p →
    ∃ q, PoolStep die slot L m p (l.foldl (releaseEntry die slot seq L) m) q ∧ q.len = p.len
      ∧ ∀ j, mapPage q L j = if j ∈ l then none else mapPage p L j := by
  induction l with
  | nil => exact fun _ hp _ => ⟨_, .refl hp, rfl, fun j => by simp⟩
  | cons i l ih =>
    intro m p hL hp hb
    obtain ⟨q, hstep, hlen, hmap⟩ := releaseEntry_step hL hp hb seq i
    obtain ⟨u, hrest, hlen', hmap'⟩ := ih (by rwa [hstep.lists]) hstep.pool (hstep.change.bounded hb)
    refine ⟨u, hstep.trans hrest, hlen'.trans hlen, fun j => ?_⟩
    rw [hmap', hmap]
    by_cases hj : j = i <;> simp [hj]

theorem mem_listPages {i : Nat} : i ∈ listPages p ↔ i < p.desc.maxPages := List.mem_range

/-- R340: RELEASE empties the list. -/
theorem releaseList_step (hL : L < listCount p) (hp : poolAt m die slot = some p) (hb : PagesBounded p) (seq : Nat) :
    ∃ q, PoolStep die slot L m p (releaseList die slot seq L m) q ∧ listLen q L = 0 ∧ ∀ i, mapPage q L i = none := by
  obtain ⟨q, hstep, -, hmap⟩ := releaseEntries_step seq (listPages p) hL hp hb
  refine ⟨setLen q L 0, ?_, listLen_setLen q L 0, fun i => ?_⟩
  · simp only [releaseList, hp]
    exact hstep.upd _ (listChange_setLen (by rwa [hstep.lists]) 0)
  · rw [mapPage_setLen, hmap]
    split
    next => rfl
    next hi => exact if_neg fun h => hi (mem_listPages.mpr h)

/-- R340: DROP takes out the entries whose 64 positions all lie in a range. -/
theorem dropEntries_step (hL : L < listCount p) (hp : poolAt m die slot = some p) (hb : PagesBounded p) (seq n k : Nat) :
    ∃ q, PoolStep die slot L m p (((listPages p).filter fun i => decide (n ≤ i * 64) && decide (i * 64 + 64 ≤ n + k)).foldl
        (releaseEntry die slot seq L) m) q
      ∧ listLen q L = listLen p L ∧ ∀ i, mapPage q L i = if n ≤ i * 64 ∧ i * 64 + 64 ≤ n + k then none else mapPage p L i := by
  obtain ⟨q, hstep, hlen, hmap⟩ := releaseEntries_step seq
    ((listPages p).filter fun i => decide (n ≤ i * 64) && decide (i * 64 + 64 ≤ n + k)) hL hp hb
  refine ⟨q, hstep, by rw [listLen, hlen]; rfl, fun i => ?_⟩
  rw [hmap]
  by_cases hi : i < p.desc.maxPages
  · simp [mem_listPages, hi]
  · rw [show mapPage p L i = none from if_neg hi, ite_self, ite_self]

/-- R340: TRUNCATE takes out the entries from a position on. -/
theorem truncateList_step (hL : L < listCount p) (hp : poolAt m die slot = some p) (hb : PagesBounded p) (seq n : Nat) :
    ∃ q, PoolStep die slot L m p (truncateList die slot seq L n m) q ∧ listLen q L = n
      ∧ (∀ i, n ≤ i * 64 → mapPage q L i = none) ∧ ∀ i, i * 64 < n → mapPage q L i = mapPage p L i := by
  obtain ⟨q, hstep, -, hmap⟩ := releaseEntries_step seq ((listPages p).filter fun i => decide (n ≤ i * 64)) hL hp hb
  have hset : ∀ {r u}, PoolStep die slot L m p r u → PoolStep die slot L m p (updPool r die slot fun p => setLen p L n) (setLen u L n) :=
    fun h => h.upd _ (listChange_setLen (by rwa [h.lists]) n)
  have hfill := fun pg => hstep.upd (fun p => updPage p pg fun x => if x.ref = 1 then { x with fill := n % 64 } else x)
    (listChange_updPage (hstep.change.bounded hb) pg _)
  have hentries : (∀ i, n ≤ i * 64 → mapPage q L i = none) ∧ ∀ i, i * 64 < n → mapPage q L i = mapPage p L i := by
    refine ⟨fun i hi => ?_, fun i hi => ?_⟩
    · rw [hmap]
      split
      next => rfl
      next hout =>
        refine if_neg fun h => hout (List.mem_filter.mpr ⟨mem_listPages.mpr h, by simpa using hi⟩)
    · rw [hmap, if_neg]
      simp [hi]
  simp only [truncateList, hp]
  split
  · exact ⟨_, hset hstep, listLen_setLen .., hentries⟩
  · split
    · exact ⟨_, hset (hfill _), listLen_setLen .., hentries⟩
    · exact ⟨_, hset hstep, listLen_setLen .., hentries⟩

end

/-! ### SHARE (R340, R349) -/

/-- A pool in which list `L` has taken over entry `i` of list `M`. -/
def shareEntry (L M : Nat) (p : KvPool) (i : Nat) : KvPool :=
  match mapPage p M i with
  | some pg => updPage (setMap p L i (some pg)) pg (fun x => { x with ref := x.ref + 1 })
  | none => p

theorem shareList_eq (die slot L M n : Nat) (m : Dev) : shareList die slot L M n m =
    updPool m die slot fun p => setLen ((List.range ((n + 63) / 64)).foldl (shareEntry L M) p) L n := rfl

/-- R340: the first entries of a list are named by another list too, and their pages count it. -/
theorem shareEntries {L M : Nat} {p : KvPool} (hL : L < listCount p) (hne : M ≠ L) (hb : PagesBounded p) (k : Nat)
    (h : ∀ i < k, (mapPage p M i).isSome = true) :
    ∃ q, (List.range k).foldl (shareEntry L M) p = q ∧ ListChange L p q ∧ (∀ i < k, mapPage q L i = mapPage p M i)
      ∧ ∀ pg x, tfind p.pages pg = some x → (tfind q.pages pg).map (·.ref) =
          some (x.ref + ((List.range k).filter (fun i => decide (mapPage p M i = some pg))).length) := by
  induction k with
  | zero => exact ⟨_, rfl, .refl L p, fun i hi => absurd hi (by omega), fun pg x hx => by simp [hx]⟩
  | succ k ih =>
    obtain ⟨q, hq, hchange, hmap, href⟩ := ih fun i hi => h i (by omega)
    obtain ⟨n, hn⟩ := Option.isSome_iff_exists.mp (h k (by omega))
    have hentry : mapPage q M k = some n := (hchange.mapPage_other hne k).trans hn
    have hk : k < q.desc.maxPages := mapPage_bound hentry
    refine ⟨_, rfl, ?_⟩
    rw [List.range_succ, List.foldl_append, hq, List.foldl_cons, List.foldl_nil, shareEntry, hentry]
    have hset := listChange_setMap (by rwa [listCount, hchange.desc]) hk (some n)
    refine ⟨hchange.trans (hset.trans (listChange_updPage (hset.bounded (hchange.bounded hb)) n _)), fun i hi => ?_, fun pg x hx => ?_⟩
    · rw [mapPage_updPage, mapPage_setMap q hk]
      split
      next hik => rw [hik, hn]
      next hik => exact hmap i (by omega)
    · have hold := href pg x hx
      simp only [tfind_updPage, List.filter_append, List.length_append, List.filter_cons, List.filter_nil, hn]
      by_cases hpg : pg = n
      · subst hpg
        obtain ⟨y, hy, hyref⟩ := Option.map_eq_some_iff.mp hold
        simp [setMap, hy, hyref, Nat.add_assoc]
      · simpa [setMap, hpg, Ne.symm hpg] using hold

/-- R340: SHARE of an empty list. -/
theorem shareList_step {die slot L M n : Nat} {m : Dev} {p : KvPool} (hL : L < listCount p)
    (hp : poolAt m die slot = some p) (hb : PagesBounded p) (hempty : ∀ i, mapPage p L i = none)
    (hfull : ∀ i, i * 64 < n → (mapPage p M i).isSome = true) :
    ∃ q, PoolStep die slot L m p (shareList die slot L M n m) q ∧ listLen q L = n ∧ (∀ i, i * 64 < n → mapPage q L i = mapPage p M i)
      ∧ ∀ pg x, tfind p.pages pg = some x → (tfind q.pages pg).map (·.ref) =
          some (x.ref + ((List.range ((n + 63) / 64)).filter (fun i => decide (mapPage p M i = some pg))).length) := by
  rw [shareList_eq]
  by_cases hn : n = 0
  · subst hn
    exact ⟨_, poolStep_updPool hp _ (listChange_setLen hL 0), listLen_setLen p L 0, fun i hi => absurd hi (by omega),
      fun pg x hx => by simp [setLen, hx]⟩
  · have hne : M ≠ L := fun e => by
      have hfirst := hfull 0 (by omega)
      rw [e, hempty 0] at hfirst
      cases hfirst
    obtain ⟨q, hq, hchange, hmap, href⟩ := shareEntries hL hne hb ((n + 63) / 64) fun i hi => hfull i (by omega)
    refine ⟨setLen q L n, ?_, listLen_setLen q L n, fun i hi => hmap i (by omega), href⟩
    have hstep := poolStep_updPool hp (fun p => setLen ((List.range ((n + 63) / 64)).foldl (shareEntry L M) p) L n) (by
      rw [hq]
      exact hchange.trans (listChange_setLen (by rwa [listCount, hchange.desc]) n))
    rwa [hq] at hstep

/-! ### A page starts to move (R345, R355) -/

/-- R345: a page in use moves towards the lowest free frame of the other tier. -/
theorem startMove_step {die slot L pg f : Nat} {cistern : Bool} {m : Dev} {p : KvPool} {x : Page}
    (hp : poolAt m die slot = some p) (hb : PagesBounded p) (hx : tfind p.pages pg = some x) (hst : x.st = .inUse)
    (hfree : lowestFree (usedFrames p cistern) (tierFrames p cistern) = some f) :
    ∃ q, PoolStep die slot L m p (startMove die slot cistern m pg) q ∧ q.len = p.len ∧ (∀ i, mapPage q L i = mapPage p L i)
      ∧ tfind q.pages pg = some { x with st := .moving, moveTo := some (cistern, f) } := by
  have hmoves := poolStep_updPool (L := L) hp (fun p => updPage p pg fun x => { x with st := .moving, moveTo := some (cistern, f) })
    (listChange_updPage hb pg _)
  obtain ⟨low, hwater⟩ := hmoves.water
  simp only [startMove, hp, hx, hfree, if_pos hst]
  refine ⟨_, hwater, rfl, fun i => rfl, ?_⟩
  exact (tfind_updPage p pg pg _).trans (by rw [if_pos rfl, hx]; rfl)

theorem pagesIn_inUse {p : KvPool} {d : List Byte} {cistern : Bool} {L pg : Nat} {x : Page} (h : pg ∈ pagesIn p d cistern L)
    (hx : tfind p.pages pg = some x) : x.st = .inUse := by
  obtain ⟨i, -, hi⟩ := List.mem_filterMap.mp h
  split at hi
  next =>
    split at hi
    next n hn =>
      split at hi
      next y hy =>
        split at hi
        next hin =>
          cases hi
          cases hx.symm.trans hy
          exact hin.2
        next => cases hi
      next => cases hi
    next => cases hi
  next => cases hi

/-! ### The end of a descriptor (R331, R335) -/

theorem attAt_updAtt_same (m : Dev) (die : Nat) (f : Att → Att) : attAt (updAtt m die f) die = f (attAt m die) := by
  simp [attAt, updAtt, tget_tmod]

theorem attNext_some {m : Dev} {die a : Nat} {b : CmdBank} {d : List Byte} (h : attNext m die = some (b, a, d)) :
    (∃ l, (attAt m die).banks = b :: l) ∧ a = bankAddr die b.bank + 64 + 64 * b.next ∧ d = memRead m.mem a 64 := by
  rw [attNext] at h
  split at h
  next => cases h
  next c l hbanks =>
    cases h
    exact ⟨⟨l, hbanks⟩, rfl, rfl⟩

/-- The bytes that the end of a descriptor at `a` writes: its result and flags, and the counts of its bank's header. -/
def InResult (die a : Nat) (b : CmdBank) (x : Nat) : Prop := InRun (a + 60) 2 x ∨ InRun (bankAddr die b.bank + 8) 8 x

/-- What the end of a descriptor at `a` with RESULT 0 does to the module. -/
structure EndsWell (die a : Nat) (b : CmdBank) (m r : Dev) : Prop where
  result : memByte r.mem (a + 60) = 0
  mem : BytesIn (InResult die a b) m.mem r.mem
  banks : (attAt r die).banks = (if b.next + 1 < b.count then [{ b with next := b.next + 1, done := b.done + 1 }] else [])
    ++ (attAt m die).banks.drop 1
  moves : (attAt r die).moves = (attAt m die).moves
  frame : ∃ atts mem, r = { m with atts := atts, mem := mem }

/-- A bank's own bytes are written where the host owns no bucket over it. -/
theorem ownWrite_bank {m : Dev} {die bank o : Nat} {l : List Byte} (hhost : underHost m (bankAddr die bank) 0x100000 = false)
    (ho : o + l.length ≤ 0x100000) :
    ownWrite m (bankAddr die bank + o) l = { m with mem := memWrite m.mem (bankAddr die bank + o) l } := by
  refine ownWrite_goes (underHost_within hhost (by omega) (by omega)) ?_
  rw [touchPages, isExtMem_bankAddr, if_neg Bool.false_ne_true]

theorem attEnd_endsWell {m : Dev} {die a : Nat} {b : CmdBank} (ha : a = bankAddr die b.bank + 64 + 64 * b.next)
    (hhost : underHost m (bankAddr die b.bank) 0x100000 = false) (hnext : b.next < 16383) (d : List Byte) (flags : Nat) :
    EndsWell die a b m (attEnd die b a d 0 flags m) := by
  have haddr : a + 60 = bankAddr die b.bank + (124 + 64 * b.next) := by omega
  have hresult := ownWrite_bank (l := leBytes 1 0 ++ leBytes 1 flags) hhost
    (show 124 + 64 * b.next + (leBytes 1 0 ++ leBytes 1 flags).length ≤ _ by simp; omega)
  have hheader := ownWrite_bank (m := { m with mem := memWrite m.mem (a + 60) (leBytes 1 0 ++ leBytes 1 flags) })
    (l := leBytes 4 (b.done + 1) ++ leBytes 4 b.failed) hhost (show 8 + (leBytes 4 (b.done + 1) ++ leBytes 4 b.failed).length ≤ _ by simp)
  rw [← haddr] at hresult
  have hend : attEnd die b a d 0 flags m = updAtt _ die _ := rfl
  rw [hresult] at hend
  simp only [if_true, Nat.add_zero] at hend
  rw [hheader] at hend
  rw [hend]
  refine ⟨?_, ?_, ?_, ?_, _, _, rfl⟩
  · refine (memByte_memWrite_out _ _ _ _ (.inr (by simp; omega))).trans ?_
    exact memByte_memWrite_in m.mem (a + 60) (leBytes 1 0 ++ leBytes 1 flags) 0 (by simp)
  · exact (bytesIn_memWrite m.mem fun i hi => .inl ⟨by omega, by simp at hi; omega⟩).trans
      (bytesIn_memWrite _ fun i hi => .inr ⟨by omega, by simp at hi; omega⟩)
  · rw [attAt_updAtt_same]
    simp only
    split <;> rfl
  · rw [attAt_updAtt_same]
    rfl

/-! ### The frame of a descriptor row (R335, R336, R341) -/

theorem descKind_page {d : List Byte} {code : Nat} (hop : recField d 0 1 = 3) (hcode : recField d 1 1 = code) (hlo : 1 ≤ code)
    (hhi : code ≤ 6) : descKind d = 10 + code := by
  subst hcode
  simp only [descKind, hop, if_pos (And.intro hlo hhi)]

section
variable {m : Dev} {die a : Nat} {b : CmdBank} {d : List Byte} {p : KvPool} (hnext : attNext m die = some (b, a, d))
  (hmoves : (attAt m die).moves = []) (hskip : recField d 4 2 ∉ b.skip) (hres : descReserved d = false) (hp : poolAt m die b.job = some p)
include hnext hmoves hskip hres hp

/-- A descriptor of the row's kind whose checks pass is run. -/
theorem attRow_runs {kind : Nat} {fields : KvPool → List Byte → Bool} {addrs : Dev → CmdBank → List Byte → Bool}
    {run : CmdBank → Nat → List Byte → KvPool → Dev → Dev} (hkind : descKind d = kind) (hop : recField d 0 1 ∈ [1, 2, 3])
    (hfields : fields p d = true) (haddrs : addrs m b d = true) : attRow die kind fields addrs run m = run b a d p m := by
  have hother : ¬(descKind d ≠ kind ∨ (attAt m die).moves ≠ []) := by simp [hkind, hmoves]
  have hchecked : (decide (recField d 0 1 ∈ [1, 2, 3]) && fields p d) = true := by rw [hfields, Bool.and_true, decide_eq_true hop]
  simp only [attRow, hnext, if_neg hother, if_neg hskip, hres, hp, hchecked, haddrs, Bool.not_true, Bool.false_eq_true, if_false]

variable (hop : recField d 0 1 = 3) (hfields : pageFields p d = true)
include hop hfields

/-- R340: a page operation on one list that passes its check. -/
theorem pageRow_runs {code L : Nat} {check : KvPool → List Byte → Nat → Nat} {op : Nat → List Byte → KvPool → Nat → Dev → Dev}
    (hcode : recField d 1 1 = code) (hlo : 1 ≤ code) (hhi : code ≤ 6) (hother : code = 1 → recField d 16 2 < p.desc.seqs)
    (hlists : namedLists p d (recField d 4 2) = [L]) (hcheck : check p d L = 0) :
    pageRow die code check op m = attEnd die b a d 0 0 (updAtt (op b.job d p L m) die fun t => { t with
      job := some b.job, active := (t.active + 40) % 2 ^ 64 }) := by
  have hall : (pageFields p d && (decide (code ≠ 1) || decide (recField d 16 2 < p.desc.seqs))) = true := by
    rw [hfields, Bool.true_and, Bool.or_eq_true, decide_eq_true_eq, decide_eq_true_eq]
    exact (em (code = 1)).elim (fun h => .inr (hother h)) .inl
  rw [pageRow, attRow_runs hnext hmoves hskip hres hp (descKind_page hop hcode hlo hhi) (by simp [hop]) hall rfl]
  simp [hlists, hcheck]

/-- R345: a PROMOTE or DEMOTE that moves one page. -/
theorem movePages_one {code L pg : Nat} {cistern : Bool} (hcode : recField d 1 1 = code) (hlo : 1 ≤ code) (hhi : code ≤ 6)
    (hlists : namedLists p d (recField d 4 2) = [L]) (hpages : pagesIn p d (!cistern) L = [pg]) (hroom : 1 ≤ freeFrames p cistern) :
    movePages die code cistern m = updAtt (startMove die b.job cistern m pg) die fun t => { t with
      job := some b.job, active := (t.active + 40) % 2 ^ 64, moves := [pg] } := by
  have hmove : pagesToMove p d cistern = [pg] := by simp [pagesToMove, hlists, hpages]
  rw [movePages, attRow_runs hnext hmoves hskip hres hp (descKind_page hop hcode hlo hhi) (by simp [hop]) hfields rfl]
  simp [hmove, Nat.not_lt.mpr hroom]

end

/-- A list that a descriptor names is a list of the pool. -/
theorem namedList_lt {p : KvPool} {d : List Byte} {L : Nat} (h : descLists p d true = true) (hL : L ∈ namedLists p d (recField d 4 2)) :
    L < listCount p := by
  simp only [descLists, Bool.and_eq_true, Bool.or_eq_true, Bool.true_and, decide_eq_true_eq] at h
  obtain ⟨⟨hseq, hlayer⟩, hhead⟩ := h
  obtain ⟨l, hl, hL⟩ := List.mem_flatMap.mp hL
  obtain ⟨k, hk, rfl⟩ := List.mem_map.mp hL
  refine listIndex_lt hseq ?_ ?_
  · split at hl
    next => exact List.mem_range.mp hl
    next hone => exact (List.mem_singleton.mp hl) ▸ hlayer.resolve_right hone
  · split at hk
    next => simp at hk; omega
    next hone => exact (List.mem_singleton.mp hk) ▸ hhead.resolve_right hone

end Sys2Proof.Machine
end

section
/-! PROOFS of the family 08_attention_kv: the obligation on page operations and the copies they make (R335, R340, R344, R345, R349, R352,
R354, R355). -/

namespace Sys2Proof.Machine

/-! ### A page operation and its end -/

theorem onDev_next_of {c : Instr} {f : Dev → Dev} {s : State} {r : Dev} (hwf : c.wf = true) (h : f s.m = r) :
    onDev c f s = .next { s with m := r } := by
  rw [onDev_next f s hwf, h]

theorem dieRow_wf {die : Nat} (h : die < 8) : boundsWf [(die, 8)] = true := by simp [boundsWf, h]

/-- A page operation changes, besides the engine and memory, the pool's list `L` alone. -/
def OnList (die slot L : Nat) (p : KvPool) (s r : State) (q : KvPool) : Prop :=
  poolAt r.m die slot = some q ∧ q.desc = p.desc ∧ (∀ k i, k ≠ L → mapPage q k i = mapPage p k i)
    ∧ (∀ k, k ≠ L → listLen q k = listLen p k)
    ∧ r = { s with m := { s.m with atts := r.m.atts, mem := r.m.mem, pools := r.m.pools, ctl := { s.m.ctl with evq := r.m.ctl.evq } } }

theorem not_inTables {p : KvPool} {x last : Nat}
    (hlast : p.tableBase + p.desc.pages * 16 + p.desc.seqs * p.desc.layers * 2 * (p.desc.maxPages * 4 + 4) = last)
    (h : x < p.tableBase ∨ last ≤ x) : ¬InTables p x := by
  unfold InTables InRun listCount
  omega

/-- The engine changes by itself; the pool's change is a list's. -/
theorem onList_of {die slot L : Nat} {p q : KvPool} {s : State} {t r : Dev} (h : PoolStep die slot L s.m p t q)
    (hr : ∃ atts mem, r = { t with atts := atts, mem := mem }) : OnList die slot L p s { s with m := r } q := by
  obtain ⟨hpool, hchange, -, _, _, _, rfl⟩ := h
  obtain ⟨_, _, rfl⟩ := hr
  exact ⟨hpool, hchange.desc, fun k i hk => hchange.mapPage_other hk i, fun k hk => hchange.listLen_other hk, rfl⟩

/-- R331, R340: a page operation whose descriptor ends with RESULT 0. -/
theorem pageOperation_ends {die slot L a : Nat} {b : CmdBank} {p q : KvPool} {s : State} {t : Dev} (h : PoolStep die slot L s.m p t q)
    (ha : a = bankAddr die b.bank + 64 + 64 * b.next) (hhost : underHost s.m (bankAddr die b.bank) 0x100000 = false)
    (hnext : b.next < 16383) (d : List Byte) (f : Att → Att) :
    let r := attEnd die b a d 0 0 (updAtt t die f)
    OnList die slot L p s { s with m := r } q ∧ memByte r.mem (a + 60) = 0
      ∧ ∀ x, (x < a + 60 ∨ a + 62 ≤ x) → (x < bankAddr die b.bank + 8 ∨ bankAddr die b.bank + 16 ≤ x) →
          (x < p.tableBase ∨ p.tableBase + p.desc.pages * 16 + p.desc.seqs * p.desc.layers * 2 * (p.desc.maxPages * 4 + 4) ≤ x) →
          memByte r.mem x = memByte s.m.mem x := by
  have hflags : underHost (updAtt t die f) (bankAddr die b.bank) 0x100000 = false := by
    obtain ⟨_, _, _, rfl⟩ := h.frame
    exact hhost
  obtain ⟨hresult, hmem, -, -, atts, mem, hr⟩ := attEnd_endsWell ha hflags hnext d 0
  refine ⟨onList_of h ⟨atts, mem, hr⟩, hresult, fun x hout hhead htab => ?_⟩
  exact (hmem.byte x (by unfold InResult InRun; omega)).trans (h.mem.byte x (not_inTables rfl htab))

/-- R335: an operation that starts a move leaves its descriptor at the head. -/
theorem pageOperation_waits {die slot L pg active : Nat} {job : Option Nat} {p q : KvPool} {s : State} {t : Dev} {x : Page}
    (h : PoolStep die slot L s.m p t q)
    (hlist : q.len = p.len ∧ (∀ i, mapPage q L i = mapPage p L i) ∧ tfind q.pages pg = some x) :
    let r := updAtt t die fun t => { t with job := job, active := active, moves := [pg] }
    (OnList die slot L p s { s with m := r } q ∧ (∀ i, mapPage q L i = mapPage p L i)
      ∧ (∀ x, (x < p.tableBase ∨ p.tableBase + p.desc.pages * 16 + p.desc.seqs * p.desc.layers * 2 * (p.desc.maxPages * 4 + 4) ≤ x) →
          memByte r.mem x = memByte s.m.mem x)
      ∧ (attAt r die).moves = [pg] ∧ (attAt r die).banks = (attAt s.m die).banks)
    ∧ tfind q.pages pg = some x := by
  obtain ⟨-, hmap, hpage⟩ := hlist
  refine ⟨⟨onList_of h ⟨_, t.mem, rfl⟩, hmap, fun x htab => h.mem.byte x (not_inTables rfl htab), ?_, ?_⟩, hpage⟩
  · rw [attAt_updAtt_same]
  · rw [attAt_updAtt_same]
    obtain ⟨_, _, _, rfl⟩ := h.frame
    rfl

/-! ### Copies of pages (R352, R355) -/

/-- The module once `n` bytes have been copied. -/
def copiedDev (m : Dev) (src dst n : Nat) : Dev := { m with mem := memCopy m.mem src dst n }

theorem ownCopy_goes {m : Dev} {src dst n : Nat} (hhost : underHost m dst n = false)
    (hjobs : ∀ y ∈ m.jobs, y.2.secure.protectedPages = []) : ownCopy m src dst n = copiedDev m src dst n := by
  rw [ownCopy, touchPages_unprotected hjobs, if_neg (by simp [hhost])]
  rfl

/-- R345: the pool whose list `L` names the new page `n` at entry `i`. -/
def ownPage (L i n : Nat) (x : Page) (p : KvPool) : KvPool := setMap { p with pages := tput p.pages n x } L i (some n)

theorem ownPage_change {L i n : Nat} {p : KvPool} (hL : L < listCount p) (hi : i < p.desc.maxPages) (hn : n < p.desc.pages) (x : Page) :
    ListChange L p (ownPage L i n x p) :=
  (listChange_putPage hn x).trans (listChange_setMap (p := { p with pages := tput p.pages n x }) hL hi (some n))

theorem mapPage_ownPage {L i n : Nat} {p : KvPool} (hi : i < p.desc.maxPages) (x : Page) : mapPage (ownPage L i n x p) L i = some n :=
  (mapPage_setMap { p with pages := tput p.pages n x } hi (some n) i).trans (if_pos rfl)

theorem tfind_ownPage (L i n k : Nat) (x : Page) (p : KvPool) :
    tfind (ownPage L i n x p).pages k = if k = n then some x else tfind p.pages k := tfind_tput ..

/-- R352: the pool once list `L` has a copy of the shared page `pg` for its own use. -/
def copiedPool (L i pg n : Nat) (x : Page) (p : KvPool) : KvPool :=
  settlePage (updPage (ownPage L i n x { p with copies := p.copies + 1 }) pg (fun x => { x with ref := x.ref - 1 })) pg

theorem copiedPool_reads {L i pg n : Nat} {p : KvPool} {x : Page} (new : Page) (hi : i < p.desc.maxPages) (hx : tfind p.pages pg = some x)
    (href : 1 < x.ref) (hne : pg ≠ n) : mapPage (copiedPool L i pg n new p) L i = some n
      ∧ tfind (copiedPool L i pg n new p).pages n = some new
      ∧ tfind (copiedPool L i pg n new p).pages pg = some { x with ref := x.ref - 1 } := by
  have hpages := tfind_ownPage L i n pg new { p with copies := p.copies + 1 }
  rw [if_neg hne, show tfind _ pg = some x from hx] at hpages
  have hless := tfind_updPage (ownPage L i n new { p with copies := p.copies + 1 }) pg
  have hshared := (hless pg fun x => { x with ref := x.ref - 1 }).trans (by rw [if_pos rfl, hpages, Option.map_some])
  have hkeeps := settlePage_named hshared (show x.ref - 1 ≠ 0 by omega)
  refine ⟨mapPage_ownPage (p := { p with copies := p.copies + 1 }) hi new, ?_, (hkeeps pg).trans hshared⟩
  rw [copiedPool, hkeeps n, hless n, if_neg hne.symm, tfind_ownPage, if_pos rfl]

/-- R355: the pool once page `pg` lies in its new frame. -/
def movedPool (pg : Nat) (x : Page) (cistern : Bool) (f : Nat) (p : KvPool) : KvPool :=
  settlePage { updPage p pg (fun x => { x with frame := f, cistern := cistern, st := .inUse, moveTo := none }) with
    oldFrames := p.oldFrames ++ [(x.cistern, x.frame)] } pg

theorem movedPool_reads {pg f : Nat} {p : KvPool} {x : Page} (c : Bool) (hx : tfind p.pages pg = some x) (href : 0 < x.ref) :
    tfind (movedPool pg x c f p).pages pg = some { x with frame := f, cistern := c, st := .inUse, moveTo := none } := by
  have hmoved := (tfind_updPage p pg pg fun x => { x with frame := f, cistern := c, st := .inUse, moveTo := none }).trans
    (by rw [if_pos rfl, hx, Option.map_some])
  exact (settlePage_named (p := { updPage p pg _ with oldFrames := _ }) hmoved (show x.ref ≠ 0 by omega) pg).trans hmoved

section
variable {die slot pg : Nat} {m : Dev} {p : KvPool} {x : Page} (hp : poolAt m die slot = some p) (hx : tfind p.pages pg = some x)
  (hb : PagesBounded p) (hdam : m.mem.damaged = [])
include hp hx hb hdam

/-- R352: a shared page is copied into a new page for the list's own use. -/
theorem copyOnWrite_step {L i n f : Nat} (hL : L < listCount p) (hpg : mapPage p L i = some pg) (href : 1 < x.ref)
    (hnew : newPage p = some (n, f)) (hjobs : ∀ y ∈ m.jobs, y.2.secure.protectedPages = [])
    (hhost : underHost m (frameAddr p false f) (kvFrame p) = false) (fill : Nat) :
    ∃ r q, copyOnWrite die slot L i fill m = some r
      ∧ PoolStep die slot L (copiedDev m (frameAddr p x.cistern x.frame) (frameAddr p false f) (kvFrame p)) p r q
      ∧ mapPage q L i = some n ∧ tfind q.pages n = some { frame := f, ref := 1, fill := fill }
      ∧ tfind q.pages pg = some { x with ref := x.ref - 1 } ∧ q.copies = p.copies + 1 := by
  obtain ⟨hn, hfree⟩ := newPage_some hnew
  have hne : pg ≠ n := fun e => by simp [e, hfree] at hx
  have hi := mapPage_bound hpg
  have hown : ListChange L p (ownPage L i n { frame := f, ref := 1, fill := fill } { p with copies := p.copies + 1 }) :=
    { ownPage_change hL hi hn { frame := f, ref := 1, fill := fill } with }
  have hcopied : poolAt (copiedDev m (frameAddr p x.cistern x.frame) (frameAddr p false f) (kvFrame p)) die slot = some p := hp
  obtain ⟨low, hstep⟩ := (poolStep_updPool hcopied (copiedPool L i pg n { frame := f, ref := 1, fill := fill })
    (hown.trans (listChange_settled (hown.bounded hb) pg _))).water
  obtain ⟨hmap, hnewpage, hold⟩ := copiedPool_reads { frame := f, ref := 1, fill := fill } hi hx href hne
  refine ⟨_, _, ?_, hstep, hmap, hnewpage, hold, rfl⟩
  simp only [copyOnWrite, hp, hpg, hnew, hx, readsFind_undamaged hdam, ownCopy_goes hhost hjobs]
  rfl

/-- R355: a move that completes rewrites FRAME. -/
theorem moveTo_step {L f : Nat} {c : Bool} (href : 0 < x.ref) (hjobs : ∀ y ∈ m.jobs, y.2.secure.protectedPages = []) :
    ∃ q, PoolStep die slot L (ownCopy m (frameAddr p x.cistern x.frame) (frameAddr p c f) (kvFrame p)) p (moveTo die slot pg c f m) q
      ∧ tfind q.pages pg = some { x with frame := f, cistern := c, st := .inUse, moveTo := none }
      ∧ q.oldFrames = p.oldFrames ++ [(x.cistern, x.frame)] := by
  have hcopied : poolAt (ownCopy m (frameAddr p x.cistern x.frame) (frameAddr p c f) (kvFrame p)) die slot = some p := by
    rw [ownCopy, touchPages_unprotected hjobs]
    split <;> exact hp
  have hframe : ListChange L p { updPage p pg (fun x => { x with frame := f, cistern := c, st := .inUse, moveTo := none }) with
      oldFrames := p.oldFrames ++ [(x.cistern, x.frame)] } := { listChange_updPage hb pg _ with }
  obtain ⟨low, hstep⟩ := (poolStep_updPool hcopied (movedPool pg x c f)
    (hframe.trans (listChange_updPage (hframe.bounded hb) pg _))).water
  have hrun : moveTo die slot pg c f m = poolWater die slot
      (updPool (ownCopy m (frameAddr p x.cistern x.frame) (frameAddr p c f) (kvFrame p)) die slot (movedPool pg x c f)) := by
    simp only [moveTo, hp, hx, readsFind_undamaged hdam]
    rfl
  rw [hrun]
  exact ⟨_, hstep, movedPool_reads c hx href, rfl⟩

end

/-- A copy into a frame off the tables, then a change of the pool. -/
theorem copied_of {die slot L src dst n last : Nat} {p q : KvPool} {s : State} {r : Dev}
    (h : PoolStep die slot L (copiedDev s.m src dst n) p r q)
    (hlast : p.tableBase + p.desc.pages * 16 + p.desc.seqs * p.desc.layers * 2 * (p.desc.maxPages * 4 + 4) = last)
    (hoff : dst + n ≤ p.tableBase ∨ last ≤ dst) :
    (∀ i < n, memByte r.mem (dst + i) = memByte s.m.mem (src + i))
      ∧ (∀ i, i < dst ∨ dst + n ≤ i → i < p.tableBase ∨ last ≤ i → memByte r.mem i = memByte s.m.mem i)
      ∧ ({ s with m := r } : State) = { s with m := { s.m with
          pools := r.pools, ctl := { s.m.ctl with evq := r.ctl.evq }
          mem := { s.m.mem with bytes := r.mem.bytes, poison := r.mem.poison, damaged := r.mem.damaged, lines := r.mem.lines } } } := by
  refine ⟨fun i hi => ?_, fun i hout htab => ?_, ?_⟩
  · rw [h.mem.byte _ (not_inTables hlast (by omega))]
    exact memByte_memCopy_in s.m.mem hi
  · rw [h.mem.byte _ (not_inTables hlast htab)]
    exact memByte_memCopy_out s.m.mem hout
  · obtain ⟨⟨_, _, _, _, hmem⟩, -⟩ := h.mem
    obtain ⟨_, _, mem, rfl⟩ := h.frame
    have hmem' : mem = _ := hmem
    subst hmem'
    rfl

/-- A copy, if it is made, and a change of the pool leave all but memory, pools and events. -/
theorem PoolStep.frame_ownCopy {die slot L src dst n : Nat} {p q : KvPool} {m r : Dev} (h : PoolStep die slot L (ownCopy m src dst n) p r q)
    (hjobs : ∀ y ∈ m.jobs, y.2.secure.protectedPages = []) :
    ∃ pools evq mem, r = { m with pools := pools, ctl := { m.ctl with evq := evq }, mem := mem } := by
  obtain ⟨_, _, _, rfl⟩ := h.frame
  rw [ownCopy, touchPages_unprotected hjobs]
  split <;> exact ⟨_, _, _, rfl⟩

/-! ### The rows of page copies and moves -/

theorem copyRow_wf {die slot seq layer kvh index : Nat} (hdie : die < 8) (hslot : slot < 16) (hseq : seq < 65536) (hlayer : layer < 256)
    (hkvh : kvh < 2) (hindex : index < 65536) : (Instr.pageCopyOnWrite die slot seq layer kvh index).wf = true := by
  simp only [Instr.wf, boundsWf, List.all_cons, List.all_nil, Bool.and_true, Bool.and_eq_true, decide_eq_true_eq]
  omega

/-- R352: the row copies the shared page at the end of a list. -/
theorem pageCopy_runs {die slot seq layer kvh L len pg : Nat} {m r : Dev} {p : KvPool} {x : Page} (hp : poolAt m die slot = some p)
    (hx : tfind p.pages pg = some x) (hL : listIndex p seq layer kvh = L) (hlen : listLen p L = len)
    (hpg : mapPage p L (len / 64) = some pg) (hseq : seq < p.desc.seqs) (hlayer : layer < p.desc.layers)
    (href : 1 < x.ref) (hst : x.st = .inUse) (hend : len % 64 ≠ 0)
    (hcopy : copyOnWrite die slot L (len / 64) (len % 64) m = some r) : pageCopy die slot seq layer kvh (len / 64) m = r := by
  simp only [pageCopy, hp, hL, hlen, hpg, hx, hcopy]
  exact if_pos ⟨hseq, hlayer, href, hst, trivial, hend⟩

/-- R355: the row completes the move that a page is in. -/
theorem pageMoveDone_moves {die slot pg f : Nat} {c : Bool} {m : Dev} {p : KvPool} {x : Page} (hp : poolAt m die slot = some p)
    (hx : tfind p.pages pg = some x) (hmove : x.moveTo = some (c, f)) :
    pageMoveDone die slot pg m = moveEnded die slot pg (moveTo die slot pg c f m) := by
  simp only [pageMoveDone, hp, hx, Option.bind_some, hmove]

theorem moveEnded_other {die slot pg : Nat} {m : Dev} (h : pg ∉ (attAt m die).moves) : moveEnded die slot pg m = m := by
  rw [moveEnded]
  split
  next => rfl
  next => exact if_pos (.inr h)

/-- R335: the last move of the head descriptor ends it, whatever the copy has left in memory. -/
theorem moveEnded_last {die slot pg a : Nat} {m t : Dev} {b : CmdBank} {d : List Byte} (hnext : attNext m die = some (b, a, d))
    (hjob : b.job = slot) (hmoves : (attAt m die).moves = [pg]) (hatts : attAt t die = attAt m die) :
    moveEnded die slot pg t = attEnd die b a (memRead t.mem a 64) 0 0 (updAtt t die fun t => { t with moves := [] }) := by
  obtain ⟨⟨l, hbanks⟩, ha, -⟩ := attNext_some hnext
  have hhead : attNext t die = some (b, a, memRead t.mem a 64) := by rw [attNext, hatts, hbanks, ha]
  simp [moveEnded, hhead, hatts, hjob, hmoves]

section
variable {s : State} {die slot pg f : Nat} {c : Bool} {p : KvPool} {x : Page} (hp : poolAt s.m die slot = some p)
  (hx : tfind p.pages pg = some x) (hb : PagesBounded p) (hdam : s.m.mem.damaged = [])
  (hjobs : ∀ y ∈ s.m.jobs, y.2.secure.protectedPages = []) (hmove : x.moveTo = some (c, f)) (href : 0 < x.ref)
include hp hx hb hdam hjobs hmove href

/-- R355: the move of a page that no descriptor waits for. -/
theorem pageMoveDone_copies {last : Nat} (hother : pg ∉ (attAt s.m die).moves) (hhost : underHost s.m (frameAddr p c f) (kvFrame p) = false)
    (hlast : p.tableBase + p.desc.pages * 16 + p.desc.seqs * p.desc.layers * 2 * (p.desc.maxPages * 4 + 4) = last)
    (hoff : frameAddr p c f + kvFrame p ≤ p.tableBase ∨ last ≤ frameAddr p c f) :
    ∃ r q, pageMoveDone die slot pg s.m = r ∧ poolAt r die slot = some q
      ∧ tfind q.pages pg = some { x with frame := f, cistern := c, st := .inUse, moveTo := none }
      ∧ q.oldFrames = p.oldFrames ++ [(x.cistern, x.frame)]
      ∧ (∀ i < kvFrame p, memByte r.mem (frameAddr p c f + i) = memByte s.m.mem (frameAddr p x.cistern x.frame + i))
      ∧ (∀ i, i < frameAddr p c f ∨ frameAddr p c f + kvFrame p ≤ i → i < p.tableBase ∨ last ≤ i → memByte r.mem i = memByte s.m.mem i)
      ∧ ({ s with m := r } : State) = { s with m := { s.m with
          pools := r.pools, ctl := { s.m.ctl with evq := r.ctl.evq }
          mem := { s.m.mem with bytes := r.mem.bytes, poison := r.mem.poison, damaged := r.mem.damaged, lines := r.mem.lines } } } := by
  obtain ⟨q, hstep, hpage, hold⟩ := moveTo_step (L := 0) (c := c) (f := f) hp hx hb hdam href hjobs
  obtain ⟨pools, evq, mem, hframe⟩ := hstep.frame_ownCopy hjobs
  have hrow := pageMoveDone_moves hp hx hmove
  rw [moveEnded_other (by rw [hframe]; exact hother)] at hrow
  rw [ownCopy_goes hhost hjobs] at hstep
  exact ⟨_, q, hrow, hstep.pool, hpage, hold, copied_of hstep hlast hoff⟩

/-- R335, R355: the last move of a descriptor ends it. -/
theorem pageMoveDone_ends {a : Nat} {b : CmdBank} {d : List Byte} (hnext : attNext s.m die = some (b, a, d)) (hjob : b.job = slot)
    (hmoves : (attAt s.m die).moves = [pg]) (hbound : b.next < 16383) (hhost : underHost s.m (bankAddr die b.bank) 0x100000 = false) :
    ∃ r q, pageMoveDone die slot pg s.m = r ∧ poolAt r die slot = some q
      ∧ tfind q.pages pg = some { x with frame := f, cistern := c, st := .inUse, moveTo := none }
      ∧ memByte r.mem (a + 60) = 0 ∧ (attAt r die).moves = []
      ∧ (attAt r die).banks.drop (if b.next + 1 < b.count then 1 else 0) = (attAt s.m die).banks.drop 1 := by
  obtain ⟨q, hstep, hpage, -⟩ := moveTo_step (L := 0) (c := c) (f := f) hp hx hb hdam href hjobs
  obtain ⟨pools, evq, mem, hframe⟩ := hstep.frame_ownCopy hjobs
  have hrow := pageMoveDone_moves hp hx hmove
  rw [moveEnded_last hnext hjob hmoves (by rw [hframe]; rfl)] at hrow
  obtain ⟨hresult, -, hbanks, hleft, atts, mem', hr⟩ := attEnd_endsWell
    (m := updAtt (moveTo die slot pg c f s.m) die fun t => { t with moves := [] }) (attNext_some hnext).2.1
    (by rw [hframe]; exact hhost) hbound (memRead (moveTo die slot pg c f s.m).mem a 64) 0
  refine ⟨_, q, hrow, ?_, hpage, hresult, ?_, ?_⟩
  · rw [hr]
    exact hstep.pool
  · rw [hleft, attAt_updAtt_same]
  · rw [hbanks, attAt_updAtt_same, hframe]
    split <;> rfl

end

/-- Settles O36: each page operation is a change of its one list (`releaseEntries_step`, `shareEntries`) in the frame of a descriptor, and
a copy or a move writes a frame that lies off the tables. -/
theorem pageOperationsAndCopies : Obligations.PageOperationsAndCopies := by
  unfold Obligations.PageOperationsAndCopies
  refine ⟨fun s die a L b d p hdie hnext hmoves hbound hhost hop hskip hres h2 h3 hlists hnamed hp hpages => ?_,
    fun s die slot pg p x hdie hslot hp hx hjobs hdam hpages last hlast => ?_⟩
  · intro tables lists ends moves
    obtain ⟨-, ha, -⟩ := attNext_some hnext
    have hb := pagesBounded_of hpages
    have hL : L < listCount p := namedList_lt hlists (by simp [hnamed])
    have hfields : pageFields p d = true := by simp [pageFields, hlists, h2, h3]
    have hwf := dieRow_wf hdie
    refine ⟨fun n M hcode hseq hM hn hlen hempty hentries hfull => ?_, fun n hcode hn hlen => ?_, fun hcode => ?_,
      fun n k hcode hn hk => ?_,
      fun pg x f hcode hin hx hroom hfree => ?_, fun pg x f hcode hin hx hroom hfree => ?_⟩
    · subst hM hn
      obtain ⟨q, hstep, hlist⟩ := shareList_step (n := recField d 8 4) hL hp hb hentries hfull
      refine ⟨_, q, onDev_next_of (c := .pageShare die) hwf (pageRow_runs hnext hmoves hskip hres hp hop hfields hcode (by decide)
        (by decide) (fun _ => hseq) hnamed ?_), pageOperation_ends hstep ha hhost hbound d _, hlist⟩
      simp [hempty, hlen, hentries]
    · subst hn
      obtain ⟨q, hstep, hlist⟩ := truncateList_step (n := recField d 8 4) hL hp hb (recField d 4 2)
      refine ⟨_, q, onDev_next_of (c := .pageTruncate die) hwf (pageRow_runs hnext hmoves hskip hres hp hop hfields hcode (by decide)
        (by decide) (fun h => absurd h (by decide)) hnamed (if_neg (Nat.not_lt.mpr hlen))),
        pageOperation_ends hstep ha hhost hbound d _, hlist⟩
    · obtain ⟨q, hstep, hlist⟩ := releaseList_step hL hp hb (recField d 4 2)
      exact ⟨_, q, onDev_next_of (c := .pageRelease die) hwf (pageRow_runs hnext hmoves hskip hres hp hop hfields hcode (by decide)
        (by decide) (fun h => absurd h (by decide)) hnamed rfl), pageOperation_ends hstep ha hhost hbound d _, hlist⟩
    · subst hn hk
      obtain ⟨q, hstep, hlist⟩ := dropEntries_step hL hp hb (recField d 4 2) (recField d 8 4) (recField d 12 4)
      exact ⟨_, q, onDev_next_of (c := .pageDrop die) hwf (pageRow_runs hnext hmoves hskip hres hp hop hfields hcode (by decide)
        (by decide) (fun h => absurd h (by decide)) hnamed rfl), pageOperation_ends hstep ha hhost hbound d _, hlist⟩
    · obtain ⟨q, hstep, hlist⟩ := startMove_step (L := L) hp hb hx (pagesIn_inUse (hin ▸ List.mem_singleton_self pg) hx) hfree
      exact ⟨_, q, onDev_next_of (c := .pagePromote die) hwf (movePages_one hnext hmoves hskip hres hp hop hfields hcode (by decide)
        (by decide) hnamed hin hroom), pageOperation_waits hstep hlist⟩
    · obtain ⟨q, hstep, hlist⟩ := startMove_step (L := L) hp hb hx (pagesIn_inUse (hin ▸ List.mem_singleton_self pg) hx) hfree
      exact ⟨_, q, onDev_next_of (c := .pageDemote die) hwf (movePages_one hnext hmoves hskip hres hp hop hfields hcode (by decide)
        (by decide) hnamed hin hroom), pageOperation_waits hstep hlist⟩
  · have hb := pagesBounded_of hpages
    refine ⟨fun seq layer kvh L len n f hseq hlayer hkvh hL hlen hpg hseq' hlayer' href hst hend hnew hindex hhost hoff => ?_,
      fun c f hwf hmove href => ⟨fun hother hhost hoff => ?_, fun b a d hnext hjob hmoves hbound hhost => ?_⟩⟩
    · have hlist : L < listCount p := hL ▸ listIndex_lt hseq' hlayer' hkvh
      obtain ⟨r, q, hcopy, hstep, hmap, hnewpage, hold, hcount⟩ := copyOnWrite_step hp hx hb hdam hlist hpg href hnew hjobs hhost (len % 64)
      have hrow := pageCopy_runs hp hx hL hlen hpg hseq' hlayer' href hst hend hcopy
      refine ⟨{ s with m := r }, q, ?_, hstep.pool, hmap, hnewpage, hold, hcount, copied_of hstep hlast hoff⟩
      rw [← hrow]
      exact onDev_next (c := .pageCopyOnWrite die slot seq layer kvh (len / 64)) _ s (copyRow_wf hdie hslot hseq hlayer hkvh hindex)
    · obtain ⟨r, q, hrow, hpool, hpage, hold, hcopied⟩ := pageMoveDone_copies hp hx hb hdam hjobs hmove href hother hhost hlast hoff
      exact ⟨_, q, onDev_next_of (c := .pageMoveDone die slot pg) hwf hrow, hpool, hpage, hold, hcopied⟩
    · obtain ⟨r, q, hrow, hlast⟩ := pageMoveDone_ends hp hx hb hdam hjobs hmove href hnext hjob hmoves hbound hhost
      exact ⟨_, q, onDev_next_of (c := .pageMoveDone die slot pg) hwf hrow, hlast⟩

end Sys2Proof.Machine
end

section
/-! PROOFS of the family 08_attention_kv: where a row of an attended result lies, what an append writes into its page, and the obligation on
the attention engine's descriptors (R323, R325, R331, R333, R338, R339, R347). -/

namespace Sys2Proof.Machine

/-! ### Fields of a descriptor -/

theorem recField_split (l : List Byte) (o n k : Nat) : recField l o (n + k) = recField l o n + 256 ^ n * recField l (o + n) k := by
  rw [recField, recField, recField, List.take_add, leNat_append, List.drop_drop]
  by_cases hn : n ≤ (l.drop o).length
  · rw [List.length_take, Nat.min_eq_left hn]
  · have hend : l.drop (o + n) = [] := List.drop_eq_nil_of_le (by rw [List.length_drop] at hn; omega)
    rw [hend, List.take_nil, leNat, Nat.mul_zero, Nat.mul_zero]

theorem recField_eight (l : List Byte) (o : Nat) : recField l o 8 = recField l o 6 + 2 ^ 48 * recField l (o + 6) 2 := recField_split l o 6 2

theorem recField_low {l : List Byte} {o : Nat} (h : recField l (o + 6) 2 = 0) : recField l o 8 = recField l o 6 := by
  rw [recField_eight, h]
  rfl

theorem recField_low_of_lt {l : List Byte} {o : Nat} (h : recField l o 8 < 2 ^ 48) : recField l o 8 = recField l o 6 := by
  have hsplit := recField_eight l o
  omega

/-! ### Ranges in a bank (R33, R333) -/

theorem placeOf_spad {a d b : Nat} (h : placeOf a = .spad d b) : bankAddr d b ≤ a ∧ a - bankAddr d b = a % 0x100000 := by
  unfold placeOf at h
  split at h
  next => cases h
  next =>
    split at h
    next => cases h
    next =>
      split at h
      next =>
        simp only at h
        split at h
        next =>
          cases h
          unfold bankAddr
          omega
        next => cases h
      next =>
        split at h <;> cases h

theorem inOwnBank_place {m : Dev} {die job a n : Nat} (h : inOwnBank m die job a n = true) :
    ∃ bank, placeOf a = .spad die bank ∧ InRun (bankAddr die bank) 0x100000 a ∧ a + n ≤ bankAddr die bank + 0x100000 := by
  unfold inOwnBank at h
  split at h
  next d b hplace =>
    simp only [Bool.and_eq_true, decide_eq_true_eq] at h
    obtain ⟨⟨⟨rfl, -⟩, hfits⟩, -⟩ := h
    obtain ⟨hlo, hoff⟩ := placeOf_spad hplace
    exact ⟨b, hplace, by unfold InRun; omega, by omega⟩
  next => cases h

/-- A range in another bank of the die lies off a bank. -/
theorem bank_apart {die b c a n : Nat} (hne : b ≠ c) (hin : InRun (bankAddr die b) 0x100000 a) (hfits : a + n ≤ bankAddr die b + 0x100000) :
    a + n ≤ bankAddr die c ∨ bankAddr die c + 0x100000 ≤ a := by
  unfold InRun bankAddr at *
  omega

/-! ### A row of a forward descriptor (R323, R325, R327) -/

theorem attBlock_acc (p : KvPool) (page : List Byte) (poisoned : Bool) (q : List FVal) (scale : Nat) (ps : List Nat) {r : AttRow}
    (h : r.acc.length = 128) : (attBlock p page poisoned q scale ps r).acc.length = 128 := by
  unfold attBlock
  split
  · exact h
  · simp only
    split
    · exact h
    · simp

theorem fwdRow_acc (m : Dev) (p : KvPool) (d : List Byte) (pages : List (Nat × Nat × Page)) (r : Nat) :
    (fwdRow m p d pages r).acc.length = 128 := by
  unfold fwdRow
  refine List.foldlRecOn pages _ (motive := fun a : AttRow => a.acc.length = 128) ?_ fun a ha x _ => attBlock_acc p _ _ _ _ _ ha
  simp only
  split <;> simp

theorem length_flatMap_const {f : Nat → List Byte} {n : Nat} (h : ∀ x, (f x).length = n) (l : List Nat) :
    (l.flatMap f).length = l.length * n := by
  rw [List.length_flatMap, List.map_congr_left (g := fun _ => n) fun x _ => h x, List.map_const', List.sum_replicate, smul_eq_mul]

/-- R325, R327: a row leaves as many bytes as its place has. -/
theorem length_rowOut (d : List Byte) {a : AttRow} (h : a.acc.length = 128) (r : Nat) : (rowOut d a).length = (rowPlace d r).2 := by
  unfold rowOut rowPlace
  simp only
  split
  · split <;> simp [h]
  · split
    · rw [length_flatMap_const (length_leBytes 4), List.length_map, h]
    · rw [length_flatMap_const fun x => length_leBytes 2 _, List.length_map, h]

/-- R333, R338: the first row's place lies in a range that the descriptor gives in a bank of the engine. -/
theorem rowPlace_inBank {m : Dev} {die job : Nat} {d : List Byte} (hop : recField d 0 1 = 1) (hres : descReserved d = false)
    (haddrs : fwdAddrs m die job d = true) (hrows : recField d 3 1 = 1) :
    ∃ n, (rowPlace d 0).2 ≤ n ∧ inOwnBank m die job (rowPlace d 0).1 n = true := by
  simp only [descReserved, anyByte, hop, Bool.or_eq_false_iff, decide_eq_false_iff_not, not_not] at hres
  obtain ⟨-, ⟨⟨-, -⟩, hout⟩, hstate⟩ := hres
  simp only [fwdAddrs, hrows, recField_low hout, recField_low hstate, Bool.and_eq_true, Bool.or_eq_true, decide_eq_true_eq, Nat.one_mul]
    at haddrs
  obtain ⟨⟨-, hrow⟩, hpartial⟩ := haddrs
  unfold rowPlace
  by_cases hbit : bitOf (recField d 1 1) 2 = true
  · have hmode : recField d 1 1 / 2 ≠ 0 := fun h => by
      rw [bitOf, Nat.testBit_lt_two_pow (by omega)] at hbit
      cases hbit
    rw [if_pos hbit]
    exact ⟨576, show 528 ≤ 576 by decide, hpartial.resolve_left hmode⟩
  · rw [if_neg hbit]
    split at hrow
    next hwide => rw [if_pos hwide]; exact ⟨512, Nat.le_refl _, hrow⟩
    next hnarrow => rw [if_neg hnarrow]; exact ⟨256, Nat.le_refl _, hrow⟩

/-- R325: a row is written in its place; its poison changes no byte. -/
theorem fwdWrite_eq {d : List Byte} {m : Dev} {r : Nat} {a : AttRow} (hhost : underHost m (rowPlace d r).1 (rowOut d a).length = false)
    (hjobs : ∀ x ∈ m.jobs, x.2.secure.protectedPages = []) : ∃ marks, fwdWrite d m (r, a) =
      { m with mem := { memWrite m.mem (rowPlace d r).1 (rowOut d a) with poison := marks } } := by
  rw [fwdWrite]
  simp only [ownWrite_goes hhost (touchPages_unprotected hjobs _ _)]
  split
  · obtain ⟨marks, hmarks⟩ := memPoison_frame (memWrite m.mem (rowPlace d r).1 (rowOut d a)) (rowPlace d r).1 (rowPlace d r).2
    exact ⟨marks, congrArg (fun x => ({ m with mem := x } : Dev)) hmarks⟩
  · exact ⟨_, rfl⟩

/-- R360: a count of the pool is in no table. -/
theorem updPool_coldReads (m : Dev) (die slot n : Nat) : ∃ pools, updPool m die slot (fun p => { p with coldReads := p.coldReads + n })
    = { m with pools := pools } := by
  cases hp : poolAt m die slot with
  | none => exact ⟨m.pools, by rw [updPool, hp]⟩
  | some p =>
    rw [updPool_eq hp, tableWrites]
    simp only [changedKeys_same, List.map_nil, List.append_nil]
    exact ⟨_, rfl⟩

/-- R323, R331: a forward descriptor of one row writes that row and ends with RESULT 0. -/
theorem fwdRun_one {die a L : Nat} {b : CmdBank} {d o : List Byte} {p : KvPool} {m : Dev} (hrows : recField d 3 1 = 1)
    (hdam : m.mem.damaged = []) (hjobs : ∀ x ∈ m.jobs, x.2.secure.protectedPages = [])
    (hL : listIndex p (recField d 4 2) (recField d 6 1) (recField d 7 1) = L)
    (ho : rowOut d (fwdRow m p d ((fwdPages p d L).filter (fun x => decide (0 < x.2.2.ref))) 0) = o)
    (hhost : underHost m (rowPlace d 0).1 o.length = false) :
    ∃ marks pools flags f, fwdRun die b a d p m = attEnd die b a d 0 flags (updAtt { m with
        mem := { memWrite m.mem (rowPlace d 0).1 o with poison := marks }, pools := pools } die f)
      ∧ ∀ t, (f t).banks = t.banks := by
  subst hL ho
  obtain ⟨marks, hwrite⟩ := fwdWrite_eq hhost hjobs
  choose pools hpools using fun (m : Dev) (n : Nat) => updPool_coldReads m die b.job n
  simp only [fwdRun, readsFind_undamaged hdam, hrows, List.range_one, List.map_cons, List.map_nil, List.length_singleton,
    List.zip_cons_cons, List.zip_nil_right, List.foldl_cons, List.foldl_nil, hwrite, hpools]
  exact ⟨marks, _, _, _, rfl, fun t => rfl⟩

/-! ### An append of one position (R347) -/

section
variable {m : Dev} {p : KvPool} {ad pos v c : Nat} (hv : v < 2) (hc : c < 128)
include hv hc

/-- A stored element lies in its page. -/
theorem putElem_writesIn (hpos : pos < 64) (code : Nat) (hjobs : ∀ x ∈ m.jobs, x.2.secure.protectedPages = []) :
    WritesIn (InRun ad (kvFrame p)) m (putElem p ad v pos c code m) := by
  unfold putElem
  split
  next hfmt =>
    refine ownWrite_writesIn hjobs fun i hi => ?_
    simp only [length_leBytes] at hi
    simp only [InRun, kvFrame, kvData, kvRow, hfmt, if_true]
    omega
  next hfmt =>
    refine ownWrite_writesIn hjobs fun i hi => ?_
    simp only [length_leBytes] at hi
    simp only [InRun, kvFrame, kvData, kvRow, hfmt, if_false]
    omega

/-- R207, R208: a channel of a position writes elements and a scale of its page. -/
theorem quantChannel_writesIn (hpos : pos < 64) (src : Nat → FVal) (rose : Bool) (hjobs : ∀ x ∈ m.jobs, x.2.secure.protectedPages = []) :
    WritesIn (InRun ad (kvFrame p)) m (quantChannel p ad pos v src (rose, m) c).2 := by
  have hscale : ∀ n : Nat, WritesIn (InRun ad (kvFrame p)) m (ownWrite m (ad + kvData p + v * 128 + c) (leBytes 1 n)) := fun n =>
    ownWrite_writesIn hjobs fun i hi => by
      simp only [length_leBytes] at hi
      simp only [InRun, kvFrame]
      omega
  have hput : ∀ {r : Dev} {j : Nat} (code : Nat), WritesIn (InRun ad (kvFrame p)) m r → j < 64 →
      WritesIn (InRun ad (kvFrame p)) m (putElem p ad v j c code r) :=
    fun code hr hj => hr.trans (putElem_writesIn hv hc hj code (by rwa [hr.jobs]))
  have hfirst := fun q [Decidable q] n => WritesIn.ite (q := q) (hscale n) (.refl _ m)
  exact hput _ (.ite (List.foldlRecOn _ _ (motive := WritesIn (InRun ad (kvFrame p)) m) (hfirst _ _) fun r hr j hj =>
    hput _ hr (by rw [List.mem_range] at hj; omega)) (hfirst _ _)) hpos

end

/-- R347 step 8: the channels of a position. -/
theorem quantChannels_writesIn {m : Dev} {p : KvPool} {ad pos v : Nat} (hv : v < 2) (hpos : pos < 64) (src : Nat → FVal) (x : Bool × Dev)
    (hx : WritesIn (InRun ad (kvFrame p)) m x.2) (hjobs : ∀ x ∈ m.jobs, x.2.secure.protectedPages = []) :
    WritesIn (InRun ad (kvFrame p)) m ((List.range 128).foldl (quantChannel p ad pos v src) x).2 :=
  List.foldlRecOn _ _ (motive := fun y : Bool × Dev => WritesIn (InRun ad (kvFrame p)) m y.2) hx fun y hy _ hc =>
    hy.trans (quantChannel_writesIn hv (List.mem_range.mp hc) hpos src y.1 (by rwa [hy.jobs]))

/-- R347 step 8: what an append writes into the page lies in the page, and the pool's list grows. -/
theorem appendInto_step {die slot L i src n k pg : Nat} {m : Dev} {p : KvPool} {x : Page} {pos : Nat} (hpos : pos < 64)
    (hL : L < listCount p) (hp : poolAt m die slot = some p) (hx : tfind p.pages pg = some x) (hb : PagesBounded p)
    (hjobs : ∀ x ∈ m.jobs, x.2.secure.protectedPages = []) :
    ∃ t rose r, WritesIn (InRun (frameAddr p x.cistern x.frame) (kvFrame p)) m t ∧ appendInto die slot L i pos src n k pg m = (rose, r)
      ∧ PoolStep die slot L t p r (setLen (updPage p pg fun x => { x with fill := pos + 1 }) L (i * 64 + pos + 1)) := by
  have hkey := fun src => quantChannels_writesIn (p := p) (ad := frameAddr p x.cistern x.frame) (v := 0) (by decide) hpos src (false, m)
    (.refl _ m) hjobs
  have hvalue := fun src src' => quantChannels_writesIn (p := p) (ad := frameAddr p x.cistern x.frame) (v := 1) (by decide) hpos src _
    (hkey src') hjobs
  simp only [appendInto, hp, hx]
  refine ⟨_, _, _, hvalue _ _, rfl, poolStep_updPool ?_ _ ?_⟩
  · obtain ⟨_, hframe⟩ := (hvalue _ _).frame
    rw [hframe]
    exact hp
  · exact (listChange_updPage hb pg _).trans (listChange_setLen (p := updPage p pg _) hL _)

/-- R345, R347: an append to the first position of a page takes a new page. -/
theorem appendPage_new {die slot L i n f : Nat} {m : Dev} {p : KvPool} (hL : L < listCount p) (hp : poolAt m die slot = some p)
    (hi : i < p.desc.maxPages) (hnew : newPage p = some (n, f)) :
    ∃ low r, appendPage die slot L i 0 m = some (n, r)
      ∧ PoolStep die slot L m p r { ownPage L i n { frame := f, ref := 1 } p with low := low } := by
  obtain ⟨low, hstep⟩ := (poolStep_updPool hp (ownPage L i n { frame := f, ref := 1 })
    (ownPage_change hL hi (newPage_some hnew).1 _)).water
  refine ⟨low, _, ?_, hstep⟩
  simp only [appendPage, hp, hnew, if_true]
  rfl

end Sys2Proof.Machine
end

section
/-! PROOFS of the family 08_attention_kv: the obligation on the attention engine's descriptors (R323, R331, R338, R339, R347). -/

namespace Sys2Proof.Machine

/-! ### One position is appended (R347) -/

theorem memPoisoned_within {x : Mem} {a n b k : Nat} (h : memPoisoned x a n = false) (hlo : a ≤ b) (hhi : b + k ≤ a + n) :
    memPoisoned x b k = false := by
  rw [Bool.eq_false_iff, Ne, memPoisoned_iff] at h ⊢
  exact fun ⟨c, hc, hfrom, hto⟩ => h ⟨c, hc, by omega, by omega⟩

/-- R347 steps 1 and 2: the source of one position passes its checks. -/
theorem appendOne_goes {die slot L src pos pg : Nat} {m r : Dev} {p : KvPool} (hp : poolAt m die slot = some p) (hlen : listLen p L = pos)
    (hfinite : ∀ i < 256, codeNonfinite bf16 (memNat m.mem (src + 2 * i) 2) = false) (hpoison : memPoisoned m.mem src 512 = false)
    (hpage : appendPage die slot L (pos / 64) (pos % 64) m = some (pg, r)) :
    appendOne die slot L src 1 pos { m := m } 0 = {
      rescaled := (appendInto die slot L (pos / 64) (pos % 64) src 1 0 pg r).1
      m := (appendInto die slot L (pos / 64) (pos % 64) src 1 0 pg r).2 } := by
  have hbad : ((List.range 128).any fun c => codeNonfinite bf16 (memNat m.mem (src + 0 * 256 + 2 * c) 2)
      || codeNonfinite bf16 (memNat m.mem (src + 1 * 256 + 0 * 256 + 2 * c) 2)) = false := by
    refine List.any_eq_false.mpr fun c hc => ?_
    rw [List.mem_range] at hc
    have hkey : src + 0 * 256 + 2 * c = src + 2 * c := by omega
    have hvalue : src + 1 * 256 + 0 * 256 + 2 * c = src + 2 * (128 + c) := by omega
    rw [hkey, hvalue, hfinite c (by omega), hfinite (128 + c) (by omega)]
    decide
  have hkeys := memPoisoned_within (b := src + 0 * 256) (k := 256) hpoison (by omega) (by omega)
  have hvalues := memPoisoned_within (b := src + 1 * 256 + 0 * 256) (k := 256) hpoison (by omega) (by omega)
  simp only [appendOne, hp, hlen, Nat.add_zero, hbad, hkeys, hvalues, hpage, Bool.or_false, Bool.false_or, Bool.false_eq_true, ne_eq,
    not_true_eq_false, if_false]

/-- R345, R347: an append of one position that begins a page. -/
theorem appendOne_first {die slot L src pos n f : Nat} {m : Dev} {p : KvPool} (hL : L < listCount p) (hp : poolAt m die slot = some p)
    (hb : PagesBounded p) (hlen : listLen p L = pos) (hbegins : pos % 64 = 0) (hi : pos / 64 < p.desc.maxPages)
    (hnew : newPage p = some (n, f)) (hfinite : ∀ i < 256, codeNonfinite bf16 (memNat m.mem (src + 2 * i) 2) = false)
    (hpoison : memPoisoned m.mem src 512 = false) (hjobs : ∀ x ∈ m.jobs, x.2.secure.protectedPages = []) :
    ∃ rose r q, appendOne die slot L src 1 pos { m := m } 0 = { rescaled := rose, m := r } ∧ poolAt r die slot = some q
      ∧ mapPage q L (pos / 64) = some n ∧ tfind q.pages n = some { frame := f, ref := 1, fill := 1 } ∧ listLen q L = pos + 1
      ∧ (∀ x, ¬InRun (frameAddr p false f) (kvFrame p) x → ¬InTables p x → memByte r.mem x = memByte m.mem x)
      ∧ ∃ pools evq mem, r = { m with pools := pools, ctl := { m.ctl with evq := evq }, mem := mem } := by
  obtain ⟨low, t, hpage, htake⟩ := appendPage_new hL hp hi hnew
  have hx : tfind ({ ownPage L (pos / 64) n { frame := f, ref := 1 } p with low := low } : KvPool).pages n
      = some { frame := f, ref := 1 } :=
    (tfind_ownPage L (pos / 64) n n { frame := f, ref := 1 } p).trans (if_pos rfl)
  obtain ⟨_, _, _, ht⟩ := htake.frame
  have hjobs' : ∀ x ∈ t.jobs, x.2.secure.protectedPages = [] := by rwa [ht]
  obtain ⟨u, rose, r, hwrite, hinto, hgrow⟩ := appendInto_step (i := pos / 64) (src := src) (n := 1) (k := 0) (pos := 0) (by decide)
    (by rwa [htake.lists]) htake.pool hx (htake.change.bounded hb) hjobs'
  have hone := appendOne_goes (pg := n) (r := t) hp hlen hfinite hpoison (by rw [hbegins, hpage])
  rw [hbegins, hinto] at hone
  refine ⟨rose, r, _, hone, hgrow.pool, ?_, ?_, ?_, fun x hrun htab => ?_, ?_⟩
  · exact mapPage_ownPage hi { frame := f, ref := 1 }
  · exact (tfind_updPage _ n n _).trans (by rw [if_pos rfl, hx]; rfl)
  · rw [listLen_setLen]
    omega
  · rw [htake.change.frameAddr_eq] at hwrite
    rw [hgrow.mem.byte x (by rwa [htake.change.inTables]), hwrite.mem.byte x hrun, htake.mem.byte x htab]
  · obtain ⟨_, hu⟩ := hwrite.frame
    obtain ⟨_, _, _, hr⟩ := hgrow.frame
    rw [hr, hu, ht]
    exact ⟨_, _, _, rfl⟩

theorem noteSeq_frame (slot seq result : Nat) (m : Dev) : ∃ seqs, noteSeq slot seq result m = { m with seqs := seqs } := by
  unfold noteSeq
  split
  · exact ⟨_, rfl⟩
  · split <;> exact ⟨_, rfl⟩

/-! ### Command banks (R331) -/

/-- R331: a command bank with a whole header waits behind the engine's banks. -/
theorem attHandover_takes {die bank : Nat} {m : Dev} (howner : (bankAt m die bank).owner = 0xC8)
    (hvalid : (bankAt m die bank).jobValid = true) (hother : ∀ x ∈ (attAt m die).banks, x.bank ≠ bank)
    (hmagic : memNat m.mem (bankAddr die bank) 2 = 0xA7E0) (hlo : 1 ≤ memNat m.mem (bankAddr die bank + 2) 2)
    (hhi : memNat m.mem (bankAddr die bank + 2) 2 ≤ 16383) :
    attHandover die bank m = updAtt (updBank m die bank fun b => { b with fresh := false }) die fun t => { t with banks := t.banks ++ [{
      bank := bank, job := (bankAt m die bank).jobSlot, next := 0, count := memNat m.mem (bankAddr die bank + 2) 2 }] } := by
  have hnew : ((attAt m die).banks.any fun x => decide (x.bank = bank)) = false :=
    List.any_eq_false.mpr fun x hx => by simpa using hother x hx
  simp only [attHandover, howner, hvalid, hnew, hmagic]
  exact (if_pos ⟨trivial, trivial, rfl⟩).trans (if_pos ⟨trivial, hlo, hhi⟩)

/-! ### The rows of descriptors -/

/-- R338: a forward descriptor whose checks pass is run. -/
theorem attFwd_runs {die a : Nat} {b : CmdBank} {d : List Byte} {p : KvPool} {m : Dev} (hnext : attNext m die = some (b, a, d))
    (hmoves : (attAt m die).moves = []) (hskip : recField d 4 2 ∉ b.skip) (hres : descReserved d = false) (hp : poolAt m die b.job = some p)
    (hop : recField d 0 1 = 1) (hfields : fwdFields p d = true) (haddrs : fwdAddrs m die b.job d = true) :
    attFwd die m = fwdRun die b a d p m := by
  have hkind : descKind d = 1 := by simp [descKind, hop]
  exact attRow_runs hnext hmoves hskip hres hp hkind (by simp [hop]) (Bool.and_eq_true_iff.mpr ⟨decide_eq_true hop, hfields⟩) haddrs

/-- R347: an append of one position, which has gone through, ends with RESULT 0. -/
theorem attAppend_one {die a L : Nat} {b : CmdBank} {d : List Byte} {p : KvPool} {m r : Dev} {rose : Bool}
    (hnext : attNext m die = some (b, a, d)) (hmoves : (attAt m die).moves = []) (hskip : recField d 4 2 ∉ b.skip)
    (hres : descReserved d = false) (hp : poolAt m die b.job = some p)
    (hL : listIndex p (recField d 4 2) (recField d 6 1) (recField d 7 1) = L) (hop : recField d 0 1 = 2) (hfields : appendFields p d = true)
    (hrows : recField d 3 1 = 1) (hbank : inOwnBank m die b.job (recField d 32 8) 512 = true) (hbegins : recField d 8 4 % 64 = 0)
    (hone : appendOne die b.job L (recField d 32 6) 1 (recField d 8 4) { m := m } 0 = { rescaled := rose, m := r }) :
    ∃ seqs flags f, attAppend die m = attEnd die b a d 0 flags { updAtt r die f with seqs := seqs } := by
  have hkind : descKind d = 2 := by simp [descKind, hop]
  have hstays : ¬((listMoving p L (recField d 8 4) && decide (recField d 8 4 % 64 ≠ 0)) = true) := by simp [hbegins]
  rw [attAppend, attRow_runs hnext hmoves hskip hres hp hkind (by simp [hop]) hfields (by simp [hrows, hbank])]
  simp only [hL, if_neg hstays, hrows, List.range_one, List.foldl_cons, List.foldl_nil, hone]
  obtain ⟨seqs, hseqs⟩ := noteSeq_frame b.job (recField d 4 2) 0 (updAtt r die fun t => { t with
    job := some b.job, active := (t.active + 40 + 4 * 1) % 2 ^ 64 })
  exact ⟨seqs, _, _, congrArg (attEnd die b a d 0 _) hseqs⟩

/-- Settles O35: a handed-over bank is queued; a forward descriptor writes its row in another bank than its own (`rowPlace_inBank`), and
an append changes its new page and the pool's tables alone (`appendOne_first`). -/
theorem attentionDescriptors : Obligations.AttentionDescriptors := by
  unfold Obligations.AttentionDescriptors
  refine ⟨fun s die bank b hwf hbank howner hvalid hother hmagic hlo hhi => ?_,
    fun s die a L b d p hdie hnext hmoves hbound hhost hdam hskip hres hp hL hjobs => ⟨fun o hop hfields haddrs hrows hplace ho hrow => ?_,
      fun n f src hop hfields hrows hsrc hshort hbank hlen hbegins hnew hfinite hpoison hpages => ?_⟩⟩
  · subst hbank
    refine ⟨_, onDev_next_of (c := .attBankHandover die bank) hwf (attHandover_takes howner hvalid hother hmagic hlo hhi), ?_, ?_,
      fun e x hne => ?_, rfl⟩
    · rw [attAt_updAtt_same]
      rfl
    · exact bankAt_updBank_same s.m die bank fun b => { b with fresh := false }
    · exact (bankAt_updBank s.m die bank e x fun b => { b with fresh := false }).trans (if_neg hne)
  · have ha := (attNext_some hnext).2.1
    obtain ⟨marks, pools, flags, f, hrun, hf⟩ := fwdRun_one (b := b) (die := die) (a := a) hrows hdam hjobs hL ho hrow
    have hexec := onDev_next_of (c := .attFwd die) (s := s) (dieRow_wf hdie)
      ((attFwd_runs hnext hmoves hskip hres hp hop hfields haddrs).trans hrun)
    obtain ⟨k, hk, hown⟩ := rowPlace_inBank hop hres haddrs hrows
    obtain ⟨c, hc, hin, hfits⟩ := inOwnBank_place hown
    have hapart := bank_apart (c := b.bank) (fun e => hplace (e ▸ hc)) hin hfits
    have hsize : o.length = (rowPlace d 0).2 := ho ▸ length_rowOut d (fwdRow_acc ..) 0
    obtain ⟨hresult, hmem, hbanks, -, atts, mem, hr⟩ := attEnd_endsWell (m := updAtt { s.m with
      mem := { memWrite s.m.mem (rowPlace d 0).1 o with poison := marks }, pools := pools } die f) ha hhost hbound d flags
    refine ⟨_, hexec, hresult, fun i hi => ?_, fun x hrow hend hhead => ?_, ?_, ?_⟩
    · refine (hmem.byte _ (by unfold InResult InRun; omega)).trans ?_
      exact memByte_memWrite_in s.m.mem (rowPlace d 0).1 o i hi
    · refine (hmem.byte _ (by unfold InResult InRun; omega)).trans ?_
      exact memByte_memWrite_out s.m.mem (rowPlace d 0).1 o x hrow
    · rw [hbanks, attAt_updAtt_same, hf]
      rfl
    · rw [hr]
      rfl
  · have ha := (attNext_some hnext).2.1
    have hchecks := hfields
    simp only [appendFields, descLists, Bool.and_eq_true, Bool.or_eq_true, Bool.false_and, Bool.false_eq_true, or_false, decide_eq_true_eq,
      hrows] at hchecks
    obtain ⟨⟨⟨⟨⟨⟨hseq, hlayer⟩, hhead⟩, -⟩, -⟩, -⟩, hroom⟩ := hchecks
    have hlist : L < listCount p := hL ▸ listIndex_lt hseq hlayer hhead
    rw [← hsrc, recField_low_of_lt (by rw [hsrc]; exact hshort)] at hfinite hpoison
    obtain ⟨rose, t, q, hone, hpool, hmap, hpage, hgrown, hbytes, pools, evq, mem, ht⟩ :=
      appendOne_first hlist hp (pagesBounded_of hpages) hlen hbegins (by omega) hnew hfinite hpoison hjobs
    obtain ⟨seqs, flags, f', hrun⟩ := attAppend_one hnext hmoves hskip hres hp hL hop hfields hrows (hsrc ▸ hbank) hbegins hone
    have hflags : underHost { updAtt t die f' with seqs := seqs } (bankAddr die b.bank) 0x100000 = false := by
      rw [ht]
      exact hhost
    obtain ⟨hresult, hmem, -, -, atts, mem', hr⟩ := attEnd_endsWell ha hflags hbound d flags
    refine ⟨_, q, onDev_next_of (c := .attAppend die) (dieRow_wf hdie) hrun, ?_, hresult, hmap, hpage, hgrown,
      fun x hframe hend hhead htab => ?_, ?_⟩
    · rw [hr]
      exact hpool
    · refine (hmem.byte x (by unfold InResult InRun; omega)).trans ?_
      exact hbytes x (by unfold InRun; omega) (not_inTables rfl htab)
    · rw [hr, ht]
      rfl

end Sys2Proof.Machine
end

section
/-! PROOFS of the family 09_generation_service: what the atomiser samples (R233, R331, R376 to R379), and the obligation on it. -/

namespace Sys2Proof.Machine

/-! ### The greatest value (R377, R378) -/

/-- The number that a finite value is. -/
def fvNumber (s : Bool) (m : Nat) (e : ℤ) : ℚ := signedOf s m * 2 ^ e

/-- The place of a value among the values that are not NaN. -/
def fvRank : FVal → WithBot (WithTop ℚ)
  | .fin s m e => (fvNumber s m e : WithTop ℚ)
  | .inf false => (⊤ : WithTop ℚ)
  | .inf true => ⊥
  | .nan _ => ⊥

theorem fvLt_fin (s t : Bool) (m n : Nat) (e d : ℤ) :
    fvLt (.fin s m e) (.fin t n d) = decide (fvNumber s m e < fvNumber t n d) := by
  have hscale : ∀ n k x : ℤ, x ≤ k → ((n * 2 ^ (k - x).toNat : ℤ) : ℚ) * 2 ^ x = n * 2 ^ k := fun n k x hx => by
    rw [Int.cast_mul, Int.cast_pow, Int.cast_ofNat, ← zpow_natCast, Int.toNat_of_nonneg (by omega), mul_assoc,
      ← zpow_add₀ two_ne_zero, Int.sub_add_cancel]
  rw [fvLt, fvNumber, fvNumber, ← hscale _ e _ (min_le_left e d), ← hscale _ d _ (min_le_right e d)]
  simp only [mul_lt_mul_iff_left₀ (zpow_pos (two_pos (α := ℚ)) (min e d)), Int.cast_lt]

/-- `fvLt` is the order of ranks on values that are not NaN. -/
theorem fvLt_eq_rank {a b : FVal} (ha : ∀ n, a ≠ .nan n) (hb : ∀ n, b ≠ .nan n) : fvLt a b = decide (fvRank a < fvRank b) := by
  cases a with
  | nan n => exact absurd rfl (ha n)
  | inf s =>
    cases b with
    | nan n => exact absurd rfl (hb n)
    | inf t => cases s <;> cases t <;> simp [fvLt, fvRank]
    | fin t n d => cases s <;> simp [fvLt, fvRank]
  | fin s m e =>
    cases b with
    | nan n => exact absurd rfl (hb n)
    | inf t =>
      cases t with
      | false => exact (decide_eq_true (WithBot.coe_lt_coe.mpr (WithTop.coe_lt_top _))).symm
      | true => simp [fvLt, fvRank]
    | fin t n d => simp [fvLt_fin, fvRank]

/-- A list is sorted by a key that its members compare by. -/
theorem pairwise_mergeSort_key {α β : Type} [LinearOrder β] {le : α → α → Bool} {key : α → β} {l : List α}
    (h : ∀ a ∈ l, ∀ b ∈ l, le a b = decide (key b ≤ key a)) : (l.mergeSort le).Pairwise fun a b => key b ≤ key a := by
  have hkey : l.mergeSort le = l.mergeSort fun a b => decide (key b ≤ key a) := by
    simpa using List.map_mergeSort (f := id) h
  rw [hkey]
  refine (List.pairwise_mergeSort (fun a b c hab hbc => ?_) (fun a b => ?_) l).imp of_decide_eq_true
  · exact decide_eq_true ((of_decide_eq_true hbc).trans (of_decide_eq_true hab))
  · simpa using le_total (key b) (key a)

/-- R378: at temperature 0 the one candidate is a token of the greatest value. -/
theorem candidates_greatest {q : Request} {z : List (Nat × Nat)} (htemp : fvZero (dec32 q.temp) = true)
    (hsome : ∃ c ∈ z, c.1 ≠ 0xFF800000) (hnan : ∀ c ∈ z, ∀ n, dec32 c.1 ≠ .nan n) :
    ∃ c ∈ z, candidates q z = [c] ∧ c.1 ≠ 0xFF800000 ∧ ∀ x ∈ z, x.1 ≠ 0xFF800000 →
      fvLt (dec32 c.1) (dec32 x.1) = false := by
  have hlt : ∀ a ∈ z, ∀ b ∈ z, fvLt (dec32 a.1) (dec32 b.1) = decide (fvRank (dec32 a.1) < fvRank (dec32 b.1)) :=
    fun a ha b hb => fvLt_eq_rank (hnan a ha) (hnan b hb)
  have hmem : ∀ x, x ∈ z.filter (fun c => decide (c.1 ≠ 0xFF800000)) ↔ x ∈ z ∧ x.1 ≠ 0xFF800000 := by simp
  have hsorted := pairwise_mergeSort_key (l := z.filter fun c => decide (c.1 ≠ 0xFF800000))
    (le := fun a b => !fvLt (dec32 a.1) (dec32 b.1)) (key := fun c => fvRank (dec32 c.1)) fun a ha b hb => by
      simp [hlt a ((hmem a).mp ha).1 b ((hmem b).mp hb).1, ← decide_not]
  have hperm : ∀ x, x ∈ (z.filter fun c => decide (c.1 ≠ 0xFF800000)).mergeSort (fun a b => !fvLt (dec32 a.1) (dec32 b.1))
      ↔ x ∈ z ∧ x.1 ≠ 0xFF800000 := fun x => List.mem_mergeSort.trans (hmem x)
  simp only [candidates, htemp, if_true]
  generalize (z.filter fun c => decide (c.1 ≠ 0xFF800000)).mergeSort (fun a b => !fvLt (dec32 a.1) (dec32 b.1)) = sorted at *
  cases sorted with
  | nil =>
    obtain ⟨c, hc⟩ := hsome
    exact nomatch (hperm c).mpr hc
  | cons c l =>
    obtain ⟨hc, hopen⟩ := (hperm c).mp List.mem_cons_self
    refine ⟨c, hc, rfl, hopen, fun x hx hx' => ?_⟩
    rw [hlt c hc x hx, decide_eq_false_iff_not, not_lt]
    rcases List.mem_cons.mp ((hperm x).mpr ⟨hx, hx'⟩) with rfl | hl
    · exact le_refl _
    · exact (List.pairwise_cons.mp hsorted).1 x hl

/-! ### The atomiser's state -/

theorem atmAt_updAtm_same (m : Dev) (die : Nat) (f : Atm → Atm) : atmAt (updAtm m die f) die = f (atmAt m die) := by
  simp [atmAt, updAtm, tget_tmod]

theorem seqAt_updSeq_same (m : Dev) (seq : Nat) (f : SeqCtx → SeqCtx) : seqAt (updSeq m seq f) seq = f (seqAt m seq) := by
  simp [seqAt, updSeq, tget_tmod]

/-- R331, R376: a command bank with a whole header waits behind the atomiser's banks. -/
theorem atmHandover_takes {die bank : Nat} {m : Dev} (howner : (bankAt m die bank).owner = 0xC9)
    (hvalid : (bankAt m die bank).jobValid = true) (hother : ∀ x ∈ (atmAt m die).banks, x.bank ≠ bank)
    (hmagic : memNat m.mem (bankAddr die bank) 2 = 0xA7A1) (hlo : 1 ≤ memNat m.mem (bankAddr die bank + 2) 2)
    (hhi : memNat m.mem (bankAddr die bank + 2) 2 ≤ 16383) :
    atmHandover die bank m = updAtm (headerRead m die bank) die fun t => { t with banks := t.banks ++ [{
      bank := bank, job := (bankAt m die bank).jobSlot, next := 0, count := memNat m.mem (bankAddr die bank + 2) 2 }] } := by
  have hnew : ((atmAt m die).banks.any fun x => decide (x.bank = bank)) = false :=
    List.any_eq_false.mpr fun x hx => by simpa using hother x hx
  simp only [atmHandover, howner, hvalid, hnew, hmagic]
  exact (if_pos ⟨trivial, trivial, rfl⟩).trans (if_pos ⟨trivial, hlo, hhi⟩)

theorem inAtmBank_place {m : Dev} {die job al a n : Nat} (h : inAtmBank m die job al a n = true) :
    ∃ bank, placeOf a = .spad die bank ∧ InRun (bankAddr die bank) 0x100000 a ∧ a + n ≤ bankAddr die bank + 0x100000 := by
  unfold inAtmBank at h
  split at h
  next d b hplace =>
    simp only [Bool.and_eq_true, decide_eq_true_eq] at h
    obtain ⟨⟨⟨rfl, -⟩, hfits⟩, -⟩ := h
    obtain ⟨hlo, hoff⟩ := placeOf_spad hplace
    exact ⟨b, hplace, by unfold InRun; omega, by omega⟩
  next => cases h

/-! ### The generator table (R233) -/

/-- The tables of generators in memory. -/
def InGens (m : Mem) (x : Nat) : Prop := ∃ y ∈ m.allocs, y.use = .generators ∧ InRun (y.first * segBytes) 0x400000 x

/-- R233: the entry of one thread lies in a table of generators. -/
theorem genStore_one_writesIn (slot T : Nat) (m : Dev) : WritesIn (InGens m.mem) m (genStore slot T 1 m) := by
  unfold genStore
  split
  next j a hj ha =>
    have huse := List.find?_some ha
    simp only [Bool.and_eq_true, decide_eq_true_eq] at huse
    refine ⟨bytesIn_memWrite m.mem fun i hi => ⟨a, List.mem_of_find?_eq_some ha, huse.1.2, ?_⟩, _, rfl⟩
    simp at hi
    unfold InRun
    omega
  next => exact .refl _ m

/-! ### A descriptor (R331, R376) -/

/-- A write into a bank under no bucket of the host goes ahead. -/
theorem ownWrite_inBank {m : Dev} {die bank o : Nat} {l : List Byte} (hin : InRun (bankAddr die bank) 0x100000 o)
    (hhost : underHost m o l.length = false) : ownWrite m o l = { m with mem := memWrite m.mem o l } := by
  obtain ⟨i, rfl⟩ := Nat.exists_eq_add_of_le hin.1
  refine ownWrite_goes hhost ?_
  rw [touchPages, isExtMem_bankAddr, if_neg Bool.false_ne_true]

/-- R331: the result of a descriptor and the counts of its bank are written into that bank. -/
theorem ownWrite_result {m : Dev} {die a : Nat} {b : CmdBank} {l k : List Byte} (ha : a = bankAddr die b.bank + 64 + 64 * b.next)
    (hhost : underHost m (bankAddr die b.bank) 0x100000 = false) (hnext : b.next < 16383) (hl : l.length = 2) (hk : k.length = 8) :
    ∃ x, ownWrite (ownWrite m (a + 60) l) (bankAddr die b.bank + 8) k = { m with mem := x } ∧ BytesIn (InResult die a b) m.mem x
      ∧ memByte x (a + 60) = l[0] := by
  have haddr : a + 60 = bankAddr die b.bank + (124 + 64 * b.next) := by omega
  have hresult := ownWrite_bank (l := l) (o := 124 + 64 * b.next) hhost (by omega)
  rw [← haddr] at hresult
  refine ⟨_, (congrArg (ownWrite · _ k) hresult).trans (ownWrite_bank hhost (by omega)), ?_, ?_⟩
  · exact (bytesIn_memWrite m.mem fun i hi => .inl ⟨by omega, by omega⟩).trans
      (bytesIn_memWrite _ fun i hi => .inr ⟨by omega, by omega⟩)
  · exact (memByte_memWrite_out _ _ _ _ (.inr (by omega))).trans (memByte_memWrite_in m.mem (a + 60) l 0 (by omega))

/-- R331, R376: a descriptor ends with RESULT 0. -/
theorem atmEnd_good {m : Dev} {die a : Nat} {b : CmdBank} (ha : a = bankAddr die b.bank + 64 + 64 * b.next)
    (hhost : underHost m (bankAddr die b.bank) 0x100000 = false) (hnext : b.next < 16383) (d : List Byte) :
    ∃ x f, atmEnd die b a d 0 m = updAtm { m with mem := x } die f ∧ BytesIn (InResult die a b) m.mem x ∧ memByte x (a + 60) = 0
      ∧ ∀ t, (f t).samples = (t.samples + 1) % 2 ^ 64 := by
  obtain ⟨x, hwrite, hx, hres⟩ := ownWrite_result (l := leBytes 1 0 ++ leBytes 1 0)
    (k := leBytes 4 (b.done + 1) ++ leBytes 4 b.failed) ha hhost hnext (by simp) (by simp)
  exact ⟨x, _, congrArg (updAtm · die _) hwrite, hx, hres, fun _ => rfl⟩

/-- The bytes of a sampled token's result (R376). -/
def tokenBytes (tk lp flags : Nat) : List Byte := leBytes 4 tk ++ leBytes 4 lp ++ leBytes 1 flags ++ zeros 7

@[simp] theorem length_tokenBytes (tk lp flags : Nat) : (tokenBytes tk lp flags).length = 16 := by simp [tokenBytes, zeros]

theorem memNat_tokenBytes (x : Mem) {o tk lp : Nat} (flags : Nat) (htk : tk < 2 ^ 32) (hlp : lp < 2 ^ 32) :
    memNat (memWrite x o (tokenBytes tk lp flags)) o 4 = tk ∧ memNat (memWrite x o (tokenBytes tk lp flags)) (o + 4) 4 = lp := by
  have htoken := memRead_memWrite x o (tokenBytes tk lp flags) (o := 0) (n := 4) (by simp)
  have hlog := memRead_memWrite x o (tokenBytes tk lp flags) (o := 4) (n := 4) (by simp)
  have hfirst : ((tokenBytes tk lp flags).drop 0).take 4 = leBytes 4 tk := by simp [tokenBytes]
  have hsecond : ((tokenBytes tk lp flags).drop 4).take 4 = leBytes 4 lp := by simp [tokenBytes]
  rw [Nat.add_zero, hfirst] at htoken
  rw [hsecond] at hlog
  rw [memNat, memNat, htoken, hlog, leNat_leBytes, leNat_leBytes]
  exact ⟨Nat.mod_eq_of_lt htk, Nat.mod_eq_of_lt hlp⟩

/-- R376: a descriptor whose token is written into another bank ends with RESULT 0. -/
theorem atmEnd_token {m : Dev} {die a o k tk lp : Nat} {b : CmdBank} (ha : a = bankAddr die b.bank + 64 + 64 * b.next)
    (hhost : underHost m (bankAddr die b.bank) 0x100000 = false) (hnext : b.next < 16383) (hother : k ≠ b.bank)
    (hin : InRun (bankAddr die k) 0x100000 o) (hfits : o + 16 ≤ bankAddr die k + 0x100000) (hhosto : underHost m o 16 = false)
    (htk : tk < 2 ^ 32) (hlp : lp < 2 ^ 32) (d : List Byte) (flags : Nat) :
    ∃ x f, atmEnd die b a d 0 (ownWrite m o (tokenBytes tk lp flags)) = updAtm { m with mem := x } die f
      ∧ BytesIn (fun y => InRun o 16 y ∨ InResult die a b y) m.mem x ∧ memByte x (a + 60) = 0
      ∧ memNat x o 4 = tk ∧ memNat x (o + 4) 4 = lp ∧ ∀ t, (f t).samples = (t.samples + 1) % 2 ^ 64 := by
  rw [ownWrite_inBank hin (by rwa [length_tokenBytes])]
  obtain ⟨x, f, hend, hbytes, hres, hcount⟩ :=
    atmEnd_good (m := { m with mem := memWrite m.mem o (tokenBytes tk lp flags) }) ha hhost hnext d
  obtain ⟨htoken, hlog⟩ := memNat_tokenBytes m.mem (o := o) flags htk hlp
  have hapart := bank_apart hother hin hfits
  have hstays : ∀ y, InRun o 16 y → memByte x y = memByte (memWrite m.mem o (tokenBytes tk lp flags)) y := fun y hy =>
    hbytes.byte y (by unfold InResult InRun at *; omega)
  refine ⟨x, f, hend, ?_, hres, ?_, ?_, hcount⟩
  · refine (bytesIn_memWrite m.mem fun i hi => .inl ?_).trans ⟨hbytes.frame, fun y hy => hbytes.byte y fun h => hy (.inr h)⟩
    rw [length_tokenBytes] at hi
    unfold InRun
    omega
  · exact (memNat_congr fun y hlo hhi => hstays y (by unfold InRun; omega)).trans htoken
  · exact (memNat_congr fun y hlo hhi => hstays y (by unfold InRun; omega)).trans hlog

/-- The module once a slot's context has taken its sample: its thread has drawn, and memory is `x` (R233, R379). -/
def sampledDev (m : Dev) (die slot seq : Nat) (j : Job) (res : Sampled) (x : Mem) (f : Atm → Atm) : Dev :=
  { m with
    free := m.free + 1, jobs := tput m.jobs slot (jobDraw j (seqThread seq)).2, mem := x, atms := tmod {} m.atms die f
    seqs := tmod {} m.seqs seq fun c => { c with sampled := res } }

theorem atmAt_sampledDev (m : Dev) (die slot seq : Nat) (j : Job) (res : Sampled) (x : Mem) (f : Atm → Atm) :
    atmAt (sampledDev m die slot seq j res x f) die = f (atmAt m die) :=
  atmAt_updAtm_same m die f

theorem seqAt_sampledDev (m : Dev) (die slot seq : Nat) (j : Job) (res : Sampled) (x : Mem) (f : Atm → Atm) :
    seqAt (sampledDev m die slot seq j res x f) seq = { seqAt m seq with sampled := res } :=
  seqAt_updSeq_same m seq fun c => { c with sampled := res }

theorem jobAt_sampledDev (m : Dev) (die slot seq : Nat) (j : Job) (res : Sampled) (x : Mem) (f : Atm → Atm) :
    jobAt (sampledDev m die slot seq j res x f) slot = some (jobDraw j (seqThread seq)).2 := (tfind_tput ..).trans (if_pos rfl)

/-- R376 to R379: a SAMPLE descriptor of FP32 logits whose checks pass. -/
theorem sample_token {m : Dev} {die a seq o tk lp : Nat} {b : CmdBank} {l : List CmdBank} {d : List Byte} {g : Gen} {q : Request} {j : Job}
    (hbanks : (atmAt m die).banks = b :: l) (ha : bankAddr die b.bank + 64 + 64 * b.next = a) (hd : memRead m.mem a 64 = d)
    (hseq : recField d 4 2 = seq) (ho : recField d 16 8 = o) (hin : inAtmBank m die b.job 1 o 16 = true)
    (hop : recField d 0 1 = 1) (hfmt : recField d 1 1 = 0) (hres2 : recField d 2 2 = 0) (hres6 : recField d 6 2 = 0)
    (hres24 : recField d 24 32 = 0) (hres58 : recField d 58 2 = 0) (hres62 : recField d 62 2 = 0) (hlt : seq < 4096) (hdie : seq % 8 = die)
    (hslot : (seqAt m seq).jobSlot = b.job) (hfree : (seqAt m seq).st ≠ .free) (hreq : (seqAt m seq).req = some q)
    (hg : genOf m b.job = some g) (hj : jobAt m b.job = some j) (hlogits : inAtmBank m die b.job 64 (recField d 8 8) (g.vocab * 4) = true)
    (hpoison : memPoisoned m.mem (recField d 8 8) (g.vocab * 4) = false) (hq : q.poison = false)
    (hsample : sampleFrom { r := q, vocab := g.vocab, tokens := (seqAt m seq).tokens, d := (jobDraw j (seqThread seq)).1 }
      ((chunksOf 4 g.vocab (memRead m.mem (recField d 8 8) (g.vocab * 4))).map leNat) = .token tk lp) :
    ∃ (f : Atm → Atm) (x : Mem) (flags : Nat), (∀ t, (f t).samples = t.samples) ∧ BytesIn (InGens m.mem) m.mem x ∧
      sample die m = atmEnd die b a d 0 (ownWrite (sampledDev m die b.job seq j (.token tk lp) x f) o (tokenBytes tk lp flags)) := by
  obtain ⟨hgens, x, hstore⟩ := genStore_one_writesIn b.job (seqThread seq)
    { m with jobs := tput m.jobs b.job (jobDraw j (seqThread seq)).2 }
  rw [hstore] at hgens
  refine ⟨fun t => { t with
    job := some b.job, active := (t.active + sampleCycles q g.vocab (seqAt m seq).generated) % 2 ^ 64 }, x, (drawFree m 8).1,
    fun _ => rfl, hgens, ?_⟩
  have hdraw : draw m b.job (seqThread seq)
      = ((jobDraw j (seqThread seq)).1, { m with jobs := tput m.jobs b.job (jobDraw j (seqThread seq)).2 }) := by
    simp only [draw, hj]
  have hreserved : (anyByte d 2 2 || anyByte d 6 2 || anyByte d 24 32 || anyByte d 58 2 || anyByte d 62 2) = false := by
    simp [anyByte, hres2, hres6, hres24, hres58, hres62]
  have hfields : ¬(recField d 0 1 ≠ 1 ∨ 1 < recField d 1 1 ∨ 4095 < seq ∨ seq % 8 ≠ die ∨ (seqAt m seq).jobSlot ≠ b.job
      ∨ (seqAt m seq).st = .free) := by
    simp only [hop, hfmt, hdie, hslot, hfree, ne_eq, not_true_eq_false, false_or, or_false]
    omega
  have hranges : (!(inAtmBank m die b.job 64 (recField d 8 8) (g.vocab * 4) && inAtmBank m die b.job 1 o 16)) = false := by
    rw [hlogits, hin]
    rfl
  have hclean : (memPoisoned m.mem (recField d 8 8) (g.vocab * 4) || q.poison) = false := by rw [hpoison, hq]; rfl
  simp only [sample, hbanks, ha, hd, hseq, ho, hreserved, hg, hreq, if_neg hfields, if_pos hfmt, hranges, hclean, hdraw, hstore,
    hsample, if_true, Bool.false_eq_true, if_false]
  rfl

/-- Settles O37: a handed-over bank is queued; of a sampled token the generator's entry, the result and the descriptor's end are written
one after the other; and the one candidate heads the sorted tokens (`candidates_greatest`). -/
theorem samplingOneToken : Obligations.SamplingOneToken := by
  unfold Obligations.SamplingOneToken
  refine ⟨fun s die bank b hwf hbank howner hvalid hother hmagic hlo hhi => ?_,
    fun s die a seq o tk lp b l d g q c j hdie hbanks hnext ha hd hop hfmt hres2 hseq hres6 hres24 hres58 hres62 hlt hmod hc hslot hfree hreq
      hg hj hlogits ho hin hplace hpoison hq hhost hhosto hsample htk hlp => ?_, fun q z => candidates_greatest⟩
  · subst hbank
    refine ⟨_, onDev_next_of (c := .atmBankHandover die bank) hwf (atmHandover_takes howner hvalid hother hmagic hlo hhi), ?_, ?_,
      fun e x hne => ?_, rfl⟩
    · rw [atmAt_updAtm_same]
      rfl
    · exact bankAt_updBank_same s.m die bank fun b => { b with fresh := false }
    · exact (bankAt_updBank s.m die bank e x fun b => { b with fresh := false }).trans (if_neg hne)
  · subst hc
    obtain ⟨f, x, flags, hf, hgens, hrun⟩ := sample_token hbanks ha hd hseq ho hin hop hfmt hres2 hres6 hres24 hres58 hres62 hlt hmod
      hslot hfree hreq hg hj hlogits hpoison hq hsample
    obtain ⟨k, hk, hbank, hfits⟩ := inAtmBank_place hin
    obtain ⟨y, f', hend, hbytes, hres, htoken, hlog, hcount⟩ :=
      atmEnd_token (m := sampledDev s.m die b.job seq j (.token tk lp) x f) ha.symm hhost hnext (fun e => hplace (e ▸ hk)) hbank hfits
        hhosto htk hlp d flags
    have hcounted : (atmAt (updAtm { sampledDev s.m die b.job seq j (.token tk lp) x f with mem := y } die f') die).samples
        = ((atmAt s.m die).samples + 1) % 2 ^ 64 := by
      rw [atmAt_updAtm_same, hcount, ← hf (atmAt s.m die), ← atmAt_sampledDev s.m die b.job seq j (.token tk lp) x f]
      rfl
    refine ⟨_, onDev_next_of (c := .sample die) (dieRow_wf hdie) (hrun.trans hend), hres, htoken, hlog, ?_, ?_, hcounted,
      fun z hout hend hhead hgen => ?_, rfl⟩
    · exact seqAt_sampledDev s.m die b.job seq j (.token tk lp) x f
    · exact jobAt_sampledDev s.m die b.job seq j (.token tk lp) x f
    · refine (hbytes.byte z (by unfold InResult InRun; omega)).trans (hgens.byte z ?_)
      rintro ⟨t, ht, huse, hlo, hhi⟩
      have := hgen t ht huse
      omega

end Sys2Proof.Machine
end

section
/-! PROOFS of the family 09_generation_service: held output records, tinctures' copies and restored weights (R384, R389, R394, R395), and
the obligation on them. -/

namespace Sys2Proof.Machine

/-! ### The service's state -/

theorem genOf_updGen_same (m : Dev) (slot : Nat) (f : Gen → Gen) : genOf (updGen m slot f) slot = (genOf m slot).map f := by
  rw [genOf, updGen, jobAt_updJob_same, genOf]
  cases jobAt m slot <;> rfl

/-- R384: held records go into the next output bucket, which reads DEVICE. -/
theorem outputReady_writes {m : Dev} {slot b : Nat} {g : Gen} {f : Flag} {recs : List Byte} (hg : genOf m slot = some g)
    (hheld : g.held = some recs) (hb : g.outFirst + g.outNext = b) (hf : flagAt m b = f) (howner : f.owner = 2)
    (hflip : b ∉ m.ctl.bucketFlips) (hwrite : ownWrite m f.addr recs = { m with mem := memWrite m.mem f.addr recs }) :
    ∃ tokens, outputReady slot m = updGen { m with
      mem := memWrite m.mem f.addr recs
      ctl := { m.ctl with holds := m.ctl.holds ++ [{
        bucket := b, mb := copyHolder 3 slot, due := some (bucketStream m b, strokeOf m (bucketStream m b))
        fill := some (recs.length, f.tag) }] }
      } slot fun g => { g with held := none, outNext := (g.outNext + 1) % g.outCount, tokens := g.tokens + tokens } := by
  subst hb hf
  simp only [outputReady, writeOutput, hg, Option.bind_some, hheld, hwrite, if_pos (And.intro howner hflip)]
  exact ⟨_, rfl⟩

/-! ### Copies of images (R304, R389) -/

theorem bytesIn_memCopy {P : Nat → Prop} (x : Mem) (src : Nat) {dst n : Nat} (h : ∀ i < n, P (dst + i)) :
    BytesIn P x (memCopy x src dst n) := by
  refine ⟨⟨_, _, _, _, rfl⟩, fun b hb => memByte_memCopy_out x ?_⟩
  by_contra hin
  refine hb ?_
  have := h (b - dst) (by omega)
  rwa [Nat.add_sub_cancel' (by omega)] at this

theorem ownCopy_writesIn {P : Nat → Prop} {m : Dev} {dst n : Nat} (src : Nat) (hjobs : ∀ x ∈ m.jobs, x.2.secure.protectedPages = [])
    (h : ∀ i < n, P (dst + i)) : WritesIn P m (ownCopy m src dst n) := by
  rw [ownCopy, touchPages_unprotected hjobs]
  exact .ite (.refl P m) ⟨bytesIn_memCopy m.mem src h, _, rfl⟩

/-- A copy of runs writes into its destinations alone. -/
theorem copyRuns_writesIn {P : Nat → Prop} (fuel : Nat) (src dst : List (Nat × Nat)) {m : Dev}
    (hjobs : ∀ x ∈ m.jobs, x.2.secure.protectedPages = []) (h : ∀ p ∈ dst, ∀ i < p.2, P (p.1 + i)) :
    WritesIn P m (copyRuns fuel src dst m) := by
  induction fuel generalizing src dst m with
  | zero => exact .refl P m
  | succ fuel ih =>
    cases src with
    | nil => exact .refl P m
    | cons s src =>
      cases dst with
      | nil => exact .refl P m
      | cons p dst =>
        have hone : WritesIn P m (ownCopy m s.1 p.1 (min s.2 p.2)) :=
          ownCopy_writesIn s.1 hjobs fun i hi => h p List.mem_cons_self i (by omega)
        refine hone.trans (ih _ _ (by rwa [hone.jobs]) fun y hy i hi => ?_)
        split at hy
        next hshort =>
          rcases List.mem_cons.mp hy with rfl | hy
          · rw [Nat.add_assoc]
            exact h p List.mem_cons_self _ (by simp only at hi; omega)
          · exact h y (List.mem_cons_of_mem _ hy) i hi
        next => exact h y (List.mem_cons_of_mem _ hy) i hi

/-- An image goes into the shares of its memory alone. -/
theorem imageCopy_writesIn {m : Dev} {n len : Nat} {per : Nat → Nat} {shares : List Alloc} (src : List (Nat × Nat))
    (hjobs : ∀ x ∈ m.jobs, x.2.secure.protectedPages = []) (hdam : m.mem.damaged = []) (hper : ∀ i, per i ≤ len) :
    WritesIn (fun x => ∃ y ∈ shares, InRun (y.first * segBytes) len x) m (imageCopy m src n per shares) := by
  simp only [imageCopy, readsFind_undamaged hdam]
  refine copyRuns_writesIn _ _ _ hjobs fun p hp i hi => ?_
  obtain ⟨y, hy, rfl⟩ := List.mem_map.mp hp
  have hlen := hper y.1
  exact ⟨y.2, (List.of_mem_zip hy).2, by unfold InRun; simp only at hi ⊢; omega⟩

/-- R388: no share of a tincture is longer than the whole. -/
theorem tinctPart_le (len n i : Nat) : tinctPart len n i ≤ len := by
  have hpart : (len + n - 1) / max 1 n ≤ len := by
    refine Nat.le_of_lt_succ ((Nat.div_lt_iff_lt_mul (by omega)).mpr ?_)
    rw [Nat.succ_mul]
    rcases Nat.eq_zero_or_pos n with rfl | hn
    · rw [Nat.max_eq_left (Nat.zero_le 1)]
      omega
    · have := Nat.le_mul_of_pos_right len hn
      rw [Nat.max_eq_right hn]
      omega
  simp only [tinctPart]
  split <;> omega

/-- R389: the image is in the shares of its memory, and its digest has been checked. -/
theorem tinctureCopyDone_checks {m : Dev} {slot id v e : Nat} {t : Tincture} {x : Mem}
    (hfind : tinctFind m slot
      (fun t => decide (t.id = id) && decide (t.version = v) && decide (t.st = .loading) && decide (t.outcome = none))
      = some (e, t))
    (hcopy : imageCopy m (heldRuns m (copyHolder 1 e)) t.image.length (tinctPart t.image.length (jobDies m slot).length)
      (m.mem.allocs.filter fun a => decide (a.job = some slot) && decide (a.use = .tincture e)) = { m with mem := x }) :
    tinctureCopyDone slot id v m = endBuckets (updTinct { m with mem := x } e fun y => { y with outcome := some (
      if (cutRuns t.image.length (heldRuns m (copyHolder 1 e))).any (fun p => memPoisoned x p.1 p.2) then 0x4001
      else if shake256 8 (t.image.drop 64) = recBytes t.image 24 8 then 0 else 0x4002) }) (copyHolder 1 e) := by
  simp only [tinctureCopyDone, hfind, hcopy, decide_eq_true_eq]

/-- The buckets that a copy holds return. -/
theorem endBuckets_returns {m : Dev} {mb : Nat} {h : BucketHold} (hh : h ∈ (endBuckets m mb).ctl.holds) (hmb : h.mb = mb) :
    h.due ≠ none := by
  obtain ⟨k, -, rfl⟩ := List.mem_map.mp hh
  by_cases hheld : k.mb = mb ∧ k.due = none
  · rw [if_pos hheld]
    exact Option.some_ne_none _
  · rw [if_neg hheld] at hmb ⊢
    exact fun hdue => hheld ⟨hmb, hdue⟩

/-! ### Poison marks of a copy (R304) -/

theorem mem_tsplice {α : Type} {t es : Tab α} {lo n : Nat} {p : Nat × α} (h : p ∈ tsplice t lo n es) (hlo : lo ≤ p.1)
    (hhi : p.1 < lo + n) : p ∈ es := by
  simp only [tsplice, List.mem_append, List.mem_filter, decide_eq_true_eq] at h
  rcases h with (⟨-, hlow⟩ | h) | ⟨-, hhigh⟩
  · omega
  · exact h
  · omega

/-- A copy of whole blocks without poison is without poison. -/
theorem memPoisoned_memCopy {x : Mem} {src dst n : Nat} (hsrc : src % 64 = 0) (hdst : dst % 64 = 0) (hn : n % 64 = 0)
    (h : memPoisoned x src n = false) : memPoisoned (memCopy x src dst n) dst n = false := by
  rw [Bool.eq_false_iff, Ne, memPoisoned_iff] at h ⊢
  rintro ⟨c, hc, hlo, hhi⟩
  obtain ⟨⟨k, v⟩, hk, hkey⟩ := List.mem_map.mp (mem_tsplice hc hlo (by simp only; omega))
  obtain ⟨rfl, rfl⟩ := Prod.mk.inj hkey
  obtain ⟨hmem, hfrom, hto⟩ := mem_trange.mp hk
  exact h ⟨k, hmem, hfrom, by simp only at hto; omega⟩

/-! ### Weights under restoration (R394, R395) -/

theorem weightRow_wf {slot a : Nat} (hslot : slot < 16) (ha : a < 2 ^ 48) : boundsWf [(slot, 16), (a, 281474976710656)] = true := by
  simpa [boundsWf, hslot] using ha

/-- The module once a block is no longer under restoration. -/
def restoreOver (m : Dev) (slot a : Nat) : Dev := { m with restores := m.restores.filter fun r => decide (r ≠ (slot, a)) }

theorem not_mem_restoreOver (m : Dev) (slot a : Nat) : (slot, a) ∉ (restoreOver m slot a).restores := by simp [restoreOver]

/-- The sequences that wait for a block settle, and the event that the restoration has ended goes out. -/
theorem settled_frame (slot a : Nat) (failed : Bool) (payload : List Byte) (t : Dev) :
    ∃ seqs evq, raiseJob (settleBlock a failed t) slot 0x0403 0 payload = { t with seqs := seqs, ctl := { t.ctl with evq := evq } } := by
  obtain ⟨evq, h⟩ := raiseJob_frame (settleBlock a failed t) slot 0x0403 0 payload
  exact ⟨_, evq, h⟩

section
variable {m : Dev} {slot a k : Nat} (haligned : a % 64 = 0) (hgolden : goldenAddr m slot a = some k)
include haligned hgolden

/-- R394: the restoration of a poisoned weight block begins. -/
theorem weightPoison_begins (hpoison : memPoisoned m.mem a 64 = true) (hnew : ∀ y ∈ m.restores, y.2 ≠ a) :
    weightPoison slot a m = { m with restores := m.restores ++ [(slot, a)] } := by
  have hblock : a / 64 * 64 = a := by omega
  have hany : (m.restores.any fun r => decide (r.2 = a)) = false := List.any_eq_false.mpr fun y hy => by simpa using hnew y hy
  simp only [weightPoison, hblock, hpoison, hgolden, hany]
  rfl

variable (hrun : (slot, a) ∈ m.restores) (hdam : m.mem.damaged = [])
include hrun hdam

/-- R394: the golden block is copied over the weight block. -/
theorem weightRestored_copies (hclean : memPoisoned m.mem k 64 = false) (hhost : underHost m a 64 = false)
    (hjobs : ∀ x ∈ m.jobs, x.2.secure.protectedPages = []) :
    ∃ seqs evq, weightRestored slot a m = { updGen (restoreOver m slot a) slot fun x => { x with restored := x.restored + 1 } with
      mem := memCopy m.mem k a 64, seqs := seqs, ctl := { m.ctl with evq := evq } } := by
  have hblock : a / 64 * 64 = a := by omega
  have hcopy := ownCopy_goes (m := restoreOver m slot a) (src := k) hhost hjobs
  have hfinds := freeFinds_undamaged (m := restoreOver m slot a) hdam [(k, 64)]
  rw [restoreOver] at hfinds hcopy
  simp only [weightRestored, hblock, if_pos hrun, hgolden, hfinds, hcopy, hclean, Bool.false_eq_true, if_false]
  exact settled_frame ..

/-- R395: a poisoned golden block fails the restoration. -/
theorem weightRestored_fails (hpoison : memPoisoned m.mem k 64 = true) :
    ∃ seqs evq, weightRestored slot a m = { updGen (restoreOver m slot a) slot fun x => { x with badBlocks := x.badBlocks ++ [a] } with
      seqs := seqs, ctl := { m.ctl with evq := evq } } := by
  have hblock : a / 64 * 64 = a := by omega
  have hfinds := freeFinds_undamaged (m := restoreOver m slot a) hdam [(k, 64)]
  rw [restoreOver] at hfinds
  simp only [weightRestored, hblock, if_pos hrun, hgolden, hfinds, hpoison, if_true]
  exact settled_frame ..

end

/-- Settles O38: held records are one write and one hold (`outputReady_writes`); a tincture's copy writes into its shares alone
(`imageCopy_writesIn`); a restoration is one copy of a block (`weightRestored_copies`) or fails (`weightRestored_fails`). -/
theorem generationService : Obligations.GenerationService := by
  unfold Obligations.GenerationService
  refine ⟨fun s slot b g recs f hwf hg hheld hb hf howner hflip hhost hdam hjobs => ?_,
    fun s slot id v e t src shares hwf hfind ht hsrc hdam hshares hjobs => ?_,
    fun s slot a k g hslot ha haligned hgolden hblock hg hjobs hdam hhost => ⟨fun hpoison hnew => ?_,
      fun hrun hclean => ?_, fun hrun hpoison => ?_⟩⟩
  · obtain ⟨tokens, hready⟩ := outputReady_writes hg hheld hb hf howner hflip (ownWrite_goes hhost (touchPages_unprotected hjobs _ _))
    refine ⟨_, _, onDev_next_of (c := .outputBucketReady slot) hwf hready, (genOf_updGen_same ..).trans (congrArg (Option.map _) hg), rfl,
      rfl, fun i hi => memByte_memWrite_in s.m.mem f.addr recs i hi, fun x hx => memByte_memWrite_out s.m.mem f.addr recs x hx, rfl, rfl⟩
  · subst hsrc hshares
    have hcopy := imageCopy_writesIn (m := s.m) (n := t.image.length) (per := tinctPart t.image.length (jobDies s.m slot).length)
      (shares := s.m.mem.allocs.filter fun a => decide (a.job = some slot) && decide (a.use = .tincture e))
      (heldRuns s.m (copyHolder 1 e)) hjobs hdam fun i => tinctPart_le _ _ i
    obtain ⟨hmem, x, hx⟩ := hcopy
    rw [hx] at hmem ⊢
    obtain ⟨⟨_, _, _, _, hframe⟩, hbytes⟩ := hmem
    refine ⟨_, onDev_next_of (c := .tinctureCopyDone slot id v) hwf (tinctureCopyDone_checks hfind hx), rfl, fun a hout => hbytes a ?_, ?_,
      fun k hk => (tfind_tupd ..).trans (if_neg hk), fun h hh => endBuckets_returns hh, ?_⟩
    · rintro ⟨y, hy, hlo, hhi⟩
      have := hout y hy
      omega
    · exact (tfind_tupd ..).trans (by rw [if_pos rfl, ht]; rfl)
    · cases hframe
      rfl
  · exact onDev_next_of (c := .weightPoisonReport slot a) (weightRow_wf hslot ha)
      (weightPoison_begins haligned hgolden hpoison hnew)
  · obtain ⟨seqs, evq, hrestored⟩ := weightRestored_copies haligned hgolden hrun hdam hclean hhost hjobs
    refine ⟨_, onDev_next_of (c := .weightRestoreDone slot a) (weightRow_wf hslot ha) hrestored,
      fun i hi => memByte_memCopy_in s.m.mem hi, memPoisoned_memCopy hblock haligned rfl hclean, fun x hx => memByte_memCopy_out s.m.mem hx,
      not_mem_restoreOver s.m slot a, ?_, rfl⟩
    exact congrArg (Option.map _) ((genOf_updGen_same (restoreOver s.m slot a) slot _).trans (congrArg (Option.map _) hg))
  · obtain ⟨seqs, evq, hrestored⟩ := weightRestored_fails haligned hgolden hrun hdam hpoison
    refine ⟨_, onDev_next_of (c := .weightRestoreDone slot a) (weightRow_wf hslot ha) hrestored, rfl,
      not_mem_restoreOver s.m slot a, ?_, rfl⟩
    exact congrArg (Option.map _) ((genOf_updGen_same (restoreOver s.m slot a) slot _).trans (congrArg (Option.map _) hg))

end Sys2Proof.Machine
end

section
/-! PROOFS of the family 10_learning: slices handed over and delivered, the copies of images, and the stages of a turn (R129, R404, R406,
R423, R426, R427, R429, R514, R523, R538), and the obligation on them. -/

namespace Sys2Proof.Machine

/-! ### One job changes -/

/-- A listed key that changes is listed anew. -/
theorem tupd_listed {α : Type} {t : Tab α} {k : Nat} {v : α} (h : tfind t k = some v) (f : α → α) : tupd t k f = tput t k (f v) := by
  simp only [tupd, h]

/-- The job of a slot is `j` now, and the other slots are as they were. -/
def OnlyJob (slot : Nat) (j : Job) (m r : Dev) : Prop := jobAt r slot = some j ∧ ∀ k, k ≠ slot → jobAt r k = jobAt m k

section
variable {slot : Nat} {j y : Job} {m r : Dev}

theorem OnlyJob.refl (h : jobAt m slot = some j) : OnlyJob slot j m m := ⟨h, fun _ _ => rfl⟩

theorem OnlyJob.send (h : OnlyJob slot j m r) (o : Out) : OnlyJob slot j m (send r o) := h

theorem OnlyJob.updJob (h : OnlyJob slot j m r) (f : Job → Job) : OnlyJob slot (f j) m (updJob r slot f) :=
  ⟨(jobAt_updJob_same ..).trans (congrArg (Option.map f) h.1), fun k hk => (jobAt_updJob ..).trans ((if_neg hk).trans (h.2 k hk))⟩

theorem OnlyJob.updLearn (h : OnlyJob slot j m r) (f : Learn → Learn) :
    OnlyJob slot { j with learn := f j.learn } m (updLearn r slot f) := h.updJob _

/-- No stream is at another stroke. -/
theorem OnlyJob.strokeOf_eq (h : OnlyJob slot y m r) (hj : jobAt m slot = some j) (hstroke : y.stroke = j.stroke)
    (hlocal : r.ctl.localStroke = m.ctl.localStroke) (stream : Option Nat) : strokeOf r stream = strokeOf m stream := by
  cases stream with
  | none => exact hlocal
  | some k =>
    by_cases hk : k = slot
    · subst hk
      simp only [strokeOf, h.1, hj, hstroke]
    · simp only [strokeOf, h.2 k hk]

end

theorem slotRow_wf {slot : Nat} (h : slot < 16) : boundsWf [(slot, 16)] = true := by simp [boundsWf, h]

theorem partRow_wf {slot cause : Nat} (h : slot < 16) (hcause : cause < 256) : boundsWf [(slot, 16), (cause, 256)] = true := by
  simp [boundsWf, h, hcause]

/-! ### The end of REDUCE (R404, R429) -/

/-- The step with the records of its scaled tensors (R212, R227). -/
def countedStep (free : Nat) (g : Learn) : Learn :=
  { g with
    tensors := Config.tensorSteps free
    flagNonfinite := g.flagNonfinite || (Config.tensorSteps free).any fun x => x.2.2.2 }

/-- R429: the words of the member's step record. -/
def stepWords (free loss : Nat) (g : Learn) : List Nat :=
  [(if (countedStep free g).flagNonfinite then 1 else 0) + (if g.flagPoison then 2 else 0) + (if g.flagMismatch then 4 else 0),
    g.taken.length, ((g.taken.flatMap (·.tokens)).filter fun t => !fvZero (dec32 t.2.2.2)).length, loss, g.sqnorm]

section
variable {slot : Nat} {j : Job} {g before : Learn} {m r : Dev}

/-- Slices are still to be handed over or delivered. -/
theorem postStepRecord_waits (h : OnlyJob slot { j with learn := g } m r) (hg : g.stage ≠ 3) : postStepRecord slot before r = r := by
  simp only [postStepRecord, h.1, if_neg (not_and_of_not_left _ hg)]

/-- R429: the step that enters VERDICT sends the member's record. -/
theorem postStepRecord_sends (hg : g.stage = 3) (hbefore : before.stage ≠ 3) (h : OnlyJob slot { j with learn := g } m r) :
    ∃ loss < 2 ^ 32, ∃ jobs, postStepRecord slot before r
        = { r with jobs := jobs, free := r.free + 1, out := r.out ++ [.record slot 1 (stepWords r.free loss g)] }
      ∧ OnlyJob slot { j with learn := countedStep r.free g } m { r with jobs := jobs } := by
  refine ⟨Config.imageLoss (g.taken.map (·.raw)) (workingBytes r slot { j with learn := g }) j.self % 2 ^ 32, Nat.mod_lt _ (by decide),
    _, ?_, h.updJob fun y => { y with learn := { y.learn with
    tensors := (countedStep r.free g).tensors, flagNonfinite := (countedStep r.free g).flagNonfinite } }⟩
  simp only [postStepRecord, h.1, if_pos (And.intro hg hbefore)]
  simp only [send, updLearn, updJob, stepWords, countedStep, b2n, mul_ite, mul_one, mul_zero]
  rfl

/-- R404, R429: a module that has sent `sent` ends REDUCE with the step `g`. -/
def StepEnds (slot : Nat) (j : Job) (sent : List Out) (m r : Dev) (g : Learn) : Prop :=
  ∃ loss < 2 ^ 32, ∃ jobs,
    r = { m with jobs := jobs, free := m.free + 1, out := m.out ++ sent ++ [.record slot 1 (stepWords m.free loss g)] }
      ∧ OnlyJob slot { j with learn := countedStep m.free g } m { m with jobs := jobs }

theorem stepEnds_postStepRecord {sent : List Out} (hg : g.stage = 3) (hbefore : before.stage ≠ 3) (h : OnlyJob slot { j with learn := g } m r)
    (hr : r = { m with jobs := r.jobs, out := m.out ++ sent }) : StepEnds slot j sent m (postStepRecord slot before r) g := by
  rw [hr] at h ⊢
  exact postStepRecord_sends (r := { m with jobs := r.jobs, out := m.out ++ sent }) hg hbefore h

end

/-! ### Slices (R423, R426, R427) -/

theorem words_mod {data : List Nat} (h : ∀ x ∈ data, x < 2 ^ 32) : data.map (· % 2 ^ 32) = data :=
  (List.map_congr_left fun x hx => Nat.mod_eq_of_lt (h x hx)).trans (List.map_id data)

/-- R426: what a hand-over tells of its gradient. -/
def flaggedStep (nonfinite poison : Bool) (g : Learn) : Learn :=
  { g with flagNonfinite := g.flagNonfinite || nonfinite, flagPoison := g.flagPoison || poison }

/-- R423, R426: the step once the gradient of a slice goes out. -/
def handedStep (slice : Nat) (g : Learn) : Learn :=
  { g with handed := g.handed ++ [slice], ends := tdel (tdel g.ends (slice * 8)) (slice * 8 + 7) }

/-- R427: the step once a slice is held by its owner. -/
def heldStep (slice : Nat) (data : List Nat) (g : Learn) : Learn :=
  let h := tput g.held slice data
  { g with held := h, sqnorm := if g.group = 0 ∧ h.length = (ownSlices g).length then squaredNorm { g with held := h } else g.sqnorm }

section
variable {g : Learn} (hstage : g.stage = 1 ∨ g.stage = 2)
include hstage

/-- R404: the stage while slices are still to be handed over or delivered. -/
theorem advanceStage_stays (h : g.handed.length < (openSlices g).length ∨ g.held.length < (ownSlices g).length) :
    advanceStage g = { g with stage := if g.handed.length < (openSlices g).length then 1 else 2 } := by
  rw [advanceStage, if_pos hstage]
  by_cases hopen : g.handed.length < (openSlices g).length
  · simp only [if_pos hopen]
  · simp only [if_neg hopen, if_pos (h.resolve_left hopen)]

/-- R404: everything is handed over and held. -/
theorem advanceStage_ends (hopen : (openSlices g).length ≤ g.handed.length) (hown : (ownSlices g).length ≤ g.held.length) :
    advanceStage g = { g with stage := 3 } := by
  rw [advanceStage, if_pos hstage, if_neg hopen.not_gt, if_neg hown.not_gt]

end

/-- R404: ITEMS goes on while slices are still to be handed over. -/
theorem advanceStage_items {g : Learn} (hitems : g.stage = 1) (h : g.handed.length < (openSlices g).length) : advanceStage g = g := by
  rw [advanceStage_stays (.inl hitems) (.inl h), if_pos h, ← hitems]

section
variable {g : Learn} (slice : Nat) (nonfinite poison : Bool) (hstage : g.stage = 1)
include hstage

/-- R404: a hand-over that is not the last leaves the stage. -/
theorem handedStep_stays (h : g.handed.length + 1 < (openSlices g).length) :
    advanceStage (handedStep slice (flaggedStep nonfinite poison g)) = handedStep slice (flaggedStep nonfinite poison g) :=
  advanceStage_items hstage (List.length_append.trans_lt h)

/-- R404: the last hand-over ends REDUCE when the shard is held. -/
theorem handedStep_ends (h : (openSlices g).length ≤ g.handed.length + 1) (hown : (ownSlices g).length ≤ g.held.length) :
    advanceStage (handedStep slice (flaggedStep nonfinite poison g)) = { handedStep slice (flaggedStep nonfinite poison g) with stage := 3 } :=
  advanceStage_ends (.inl hstage) (h.trans (List.length_append (as := g.handed) (bs := [slice])).ge) hown

end

section
variable {slot slice die : Nat} {data : List Nat} {j : Job} {m : Dev} (hj : jobAt m slot = some j) (hrun : j.learn.running = true)
  (hdata : ∀ x ∈ data, x < 2 ^ 32)
include hj hrun hdata

section
variable (hstage : j.learn.stage = 1) (hslice : slice < j.learn.slices) (htrain : trainable j.learn slice = true)
  (hnew : slice ∉ j.learn.handed) (nonfinite poison : Bool)
include hstage hslice htrain hnew

/-- R423: the first of the embedding's two gradients waits. -/
theorem sliceHandoff_waits (hown : sliceGradient m slot slice die data j.learn = none) :
    sliceHandoff slot slice die data nonfinite poison m = updLearn m slot fun g =>
      { flaggedStep nonfinite poison g with ends := tput g.ends (slice * 8 + die) data } := by
  simp only [sliceHandoff, hj, words_mod hdata, hown, if_pos (And.intro hrun (And.intro hstage (And.intro hslice (And.intro htrain hnew))))]
  rfl

section
variable {sum : List Nat} (hown : sliceGradient m slot slice die data j.learn = some sum)
include hown

/-- R426: the gradient goes out, and the stage follows. -/
theorem sliceHandoff_gives : sliceHandoff slot slice die data nonfinite poison m
    = postStepRecord slot j.learn (updLearn (send m (.slice slot slice sum)) slot fun g =>
      advanceStage (handedStep slice (flaggedStep nonfinite poison g))) := by
  simp only [sliceHandoff, hj, words_mod hdata, hown, if_pos (And.intro hrun (And.intro hstage (And.intro hslice (And.intro htrain hnew))))]
  rfl

/-- R426: a hand-over that is not the last. -/
theorem sliceHandoff_goesOn (h : j.learn.handed.length + 1 < (openSlices j.learn).length) :
    ∃ jobs, sliceHandoff slot slice die data nonfinite poison m = { m with jobs := jobs, out := m.out ++ [.slice slot slice sum] }
      ∧ OnlyJob slot { j with learn := handedStep slice (flaggedStep nonfinite poison j.learn) } m { m with jobs := jobs } := by
  have hstep := ((OnlyJob.refl hj).send (.slice slot slice sum)).updLearn fun g =>
    advanceStage (handedStep slice (flaggedStep nonfinite poison g))
  rw [handedStep_stays slice nonfinite poison hstage h] at hstep
  have hgives := sliceHandoff_gives hj hrun hdata hstage hslice htrain hnew nonfinite poison hown
  exact ⟨_, hgives.trans (postStepRecord_waits hstep (hstage.trans_ne (by decide))), hstep⟩

/-- R404, R426, R429: the last hand-over, with the shard held. -/
theorem sliceHandoff_ends (h : (openSlices j.learn).length ≤ j.learn.handed.length + 1)
    (hheld : (ownSlices j.learn).length ≤ j.learn.held.length) :
    StepEnds slot j [.slice slot slice sum] m (sliceHandoff slot slice die data nonfinite poison m)
      { handedStep slice (flaggedStep nonfinite poison j.learn) with stage := 3 } := by
  have hstep := ((OnlyJob.refl hj).send (.slice slot slice sum)).updLearn fun g =>
    advanceStage (handedStep slice (flaggedStep nonfinite poison g))
  rw [handedStep_ends slice nonfinite poison hstage h hheld] at hstep
  rw [sliceHandoff_gives hj hrun hdata hstage hslice htrain hnew nonfinite poison hown]
  exact stepEnds_postStepRecord rfl (hstage.trans_ne (by decide)) hstep rfl

end

end

section
variable (hstage : j.learn.stage = 1 ∨ j.learn.stage = 2) (hown : slice ∈ ownSlices j.learn) (hnew : tfind j.learn.held slice = none)
include hstage hown hnew

/-- R427: a delivered slice is held, and the stage follows. -/
theorem sliceDelivered_holds :
    sliceDelivered slot slice data m = postStepRecord slot j.learn (updLearn m slot fun g => advanceStage (heldStep slice data g)) := by
  simp only [sliceDelivered, hj, words_mod hdata, if_pos (And.intro hrun (And.intro hstage (And.intro hown hnew)))]
  rfl

/-- R427: slices are still to be handed over or delivered. -/
theorem sliceDelivered_goesOn (h : j.learn.handed.length < (openSlices j.learn).length
      ∨ (tput j.learn.held slice data).length < (ownSlices j.learn).length) :
    ∃ jobs, sliceDelivered slot slice data m = { m with jobs := jobs }
      ∧ OnlyJob slot { j with learn := { heldStep slice data j.learn with
          stage := if j.learn.handed.length < (openSlices j.learn).length then 1 else 2 } } m { m with jobs := jobs } := by
  have hgoes : (if j.learn.handed.length < (openSlices j.learn).length then 1 else 2) ≠ 3 := by split <;> decide
  have hstep := (OnlyJob.refl hj).updLearn fun g => advanceStage (heldStep slice data g)
  rw [advanceStage_stays (g := heldStep slice data j.learn) hstage h] at hstep
  exact ⟨_, (sliceDelivered_holds hj hrun hdata hstage hown hnew).trans (postStepRecord_waits hstep hgoes), hstep⟩

/-- R404, R427, R429: the last delivery, with everything handed over. -/
theorem sliceDelivered_ends (h : (openSlices j.learn).length ≤ j.learn.handed.length)
    (hheld : (ownSlices j.learn).length ≤ (tput j.learn.held slice data).length) :
    StepEnds slot j [] m (sliceDelivered slot slice data m) { heldStep slice data j.learn with stage := 3 } := by
  have hstep := (OnlyJob.refl hj).updLearn fun g => advanceStage (heldStep slice data g)
  rw [advanceStage_ends (g := heldStep slice data j.learn) hstage h hheld] at hstep
  rw [sliceDelivered_holds hj hrun hdata hstage hown hnew]
  exact stepEnds_postStepRecord rfl (by omega) hstep (by rw [List.append_nil]; rfl)

end

end

/-- R406: the origin keeps the completed reduction. -/
theorem verdictDone_keeps {slot : Nat} {j : Job} {m : Dev} (hj : jobAt m slot = some j) (horigin : j.isOrigin = true)
    (hrun : j.learn.running = true) (hstage : j.learn.stage ≤ 3) (hnone : j.learn.verdict = none) (flags count tokens loss sqnorm : Nat) :
    verdictDone slot flags count tokens loss sqnorm m
      = updLearn m slot fun g => { g with verdict := some { flags, count, tokens, loss, sqnorm } } := by
  simp only [verdictDone, hj, if_pos (And.intro horigin (And.intro hrun (And.intro hstage hnone)))]

/-! ### The end of an image's copy (R129, R523) -/

/-- The one reply that waits is staged. -/
theorem finishWaits_one {m : Dev} {w : Wait} {why : WaitFor} (hwaits : m.ctl.waits = [w]) (hw : w.why = why) (f : Reply → Reply) :
    ∃ done, finishWaits m (fun w => decide (w = why)) f = { m with ctl := { m.ctl with
      waits := []
      replies := m.ctl.replies ++ [f { w.reply with due := max w.reply.due (strokeOf m w.reply.slot), done := done }] } } := by
  refine ⟨if w.reply.slot.isSome = decide (w.reply.kind = 1) then max w.reply.done (strokeOf m w.reply.slot) else w.reply.done, ?_⟩
  simp only [finishWaits, hwaits, List.filter_cons, List.filter_nil, hw, decide_true, if_true, Bool.not_true, Bool.false_eq_true, if_false,
    List.map_cons, List.map_nil]
  rfl

/-- R702: the job once the copy of its image has ended. -/
def copiedJob (kind index op : Nat) (img : List Byte) (good : Bool) (j : Job) : Job :=
  if good then { j with
    meas := shake256 32 (j.meas ++ leBytes 2 op ++ shake256 32 img)
    measCount := j.measCount + 1
    layouts := if kind = 3 then tupd j.layouts index (fun l => { l with copying := false }) else j.layouts }
  else { j with layouts := tdel j.layouts index }

theorem copiedJob_stroke (kind index op : Nat) (img : List Byte) (good : Bool) (j : Job) :
    (copiedJob kind index op img good j).stroke = j.stroke := by
  cases good <;> rfl

/-- R129, R523: the copy ends: the image lies in its shares or is released again, its buckets return, and the reply is staged. -/
theorem imageCopied_ends {m : Dev} {slot kind index op : Nat} {j : Job} {w : Wait} {good : Bool} {img : List Byte} {x : Mem}
    {why : WaitFor} (hwhy : .imageCopy slot (if kind = 3 then 3 + 16 * index else kind) = why)
    (hj : jobAt m slot = some j) (hkind : kind = 1 ∨ kind = 2 ∨ kind = 3)
    (hw : w.why = why) (hwaits : m.ctl.waits = [w])
    (hgood : if kind = 3 then ∃ l, tfind j.layouts index = some l ∧ layoutDigestOk l = good else good = true)
    (hop : (if kind = 1 then 0x0401 else if kind = 2 then 0x0501 else 0x0604) = op)
    (himg : heldImage m w.reply.mb (if kind = 3 then 24 else 16) = img)
    (hcopy : imageCopy m (heldRuns m w.reply.mb) img.length (fun _ => (img.length + 15) / 16) (imageShares m slot kind index)
      = { m with mem := x }) :
    ∃ jobs holds, imageCopied slot kind index m
        = finishWaits { m with
            jobs := jobs
            mem := if good then x else releaseAllocs x (layoutUse slot index)
            ctl := { m.ctl with holds := holds } }
          (fun v => decide (v = why)) (if good then id else fun r => { r with status := 0x4002, body := [] })
      ∧ (∀ h ∈ holds, h.mb = w.reply.mb → h.due ≠ none)
      ∧ OnlyJob slot (copiedJob kind index op img good j) m { m with jobs := jobs } := by
  have hwait : m.ctl.waits.filter (fun v => decide (v.why = why)) = [w] := by simp [hwaits, hw]
  have hany : m.ctl.waits.any (fun v => decide (v.why = why)) = true := by simp [hwaits, hw]
  have hmeas := (OnlyJob.refl hj).updJob fun y =>
    { y with meas := shake256 32 (y.meas ++ leBytes 2 op ++ shake256 32 img), measCount := y.measCount + 1 }
  simp only [imageCopied, hwhy, if_pos hany, hwait, List.foldl_cons, List.foldl_nil, himg, hcopy]
  subst hop
  rcases hkind with rfl | rfl | rfl
  · obtain rfl : good = true := hgood
    exact ⟨_, _, rfl, fun h hh => endBuckets_returns hh, hmeas⟩
  · obtain rfl : good = true := hgood
    exact ⟨_, _, rfl, fun h hh => endBuckets_returns hh, hmeas⟩
  · obtain ⟨l, hl, hok⟩ : ∃ l, tfind j.layouts index = some l ∧ layoutDigestOk l = good := hgood
    simp only [hj, Option.bind_some, hl, hok]
    cases good with
    | true => exact ⟨_, _, rfl, fun h hh => endBuckets_returns hh,
        hmeas.updJob fun y => { y with layouts := tupd y.layouts index fun l => { l with copying := false } }⟩
    | false => exact ⟨_, _, rfl, fun h hh => endBuckets_returns hh,
        (OnlyJob.refl hj).updJob fun y => { y with layouts := tdel y.layouts index }⟩

/-! ### Stages of a turn (R514, R538) -/

/-- R544: the pipes are the dies' own, whatever the jobs are. -/
theorem setPipes_jobs (m : Dev) (p : List Nat × List Nat) (jobs : Tab Job) :
    setPipes { m with jobs := jobs } p = { setPipes m p with jobs := jobs } := by
  unfold setPipes
  refine List.foldl_hom (fun m : Dev => { m with jobs := jobs }) fun _ _ => ?_
  rfl

/-- R538: the words of a stage record: a member, whether it has a cause, and each cause. -/
def stageWords (mask : Nat) : List Nat :=
  [1, if mask ≠ 0 then 1 else 0] ++ (List.range 6).map (fun i => if bitOf mask (i + 3) = true then 1 else 0) ++ List.replicate 8 0

/-- The job once the record of its stage is posted. -/
def postedJob (j : Job) : Job := { j with turn := { j.turn with posted := true, mine := 0 } }

/-- R514: the job once the source or the partner has given a cause. -/
def failedSource (j : Job) : Job := { j with turn := { j.turn with mine := j.turn.mine ||| 32 } }

theorem postStage_posts {slot : Nat} {j : Job} {m : Dev} (hj : jobAt m slot = some j) :
    postStage slot m = postRecord slot j.turn.turnGroup .stage ((j.epoch + 1) % 2 ^ 32) (stageWords j.turn.mine)
      { m with jobs := tput m.jobs slot (postedJob j) } := by
  simp only [postStage, hj, updTurn, updJob, tupd_listed hj, b2n, decide_eq_true_eq]
  rfl

/-- The same once the pipes have stopped. -/
theorem postStage_stopped {slot : Nat} (m : Dev) {jobs : Tab Job} {y : Job} (p : List Nat × List Nat) (hy : tfind jobs slot = some y) :
    postStage slot (setPipes { m with jobs := jobs } p) = postRecord slot y.turn.turnGroup .stage ((y.epoch + 1) % 2 ^ 32)
      (stageWords y.turn.mine) { setPipes m p with jobs := tput jobs slot (postedJob y) } := by
  rw [setPipes_jobs m p jobs]
  generalize setPipes m p = r
  exact postStage_posts (m := { r with jobs := jobs }) hy

/-- R514: this member's part of a stage has ended, with the causes that its record counts. -/
def PartEnds (m : Dev) (slot cause mask : Nat) (j : Job) : Prop :=
  j.turn.stage = 1 ∧ collInFlight m slot j.epoch = false ∧ mask = j.turn.mine
    ∨ j.turn.stage = 2 ∧ (j.turn.prev ≠ .learn ∨ j.turn.snapshotGen ≠ 0 ∨ j.turn.openAt = false) ∧ mask = j.turn.mine
    ∨ j.turn.stage = 3 ∧ j.turn.source ≠ 4 ∧ cause = 5 ∧ mask = j.turn.mine ||| 32
    ∨ j.turn.stage = 3 ∧ j.turn.source ≠ 4 ∧ cause ≠ 5 ∧ j.turn.mine ≠ 0 ∧ mask = j.turn.mine
    ∨ j.turn.stage = 4 ∧ engineBusy m slot .run = false ∧ j.turn.awaited = [] ∧ mask = j.turn.mine

/-- R514, R538: the member posts the record of its stage; the pipes of a failed TRANSFORM stop first. -/
theorem partDone_posts {m : Dev} {slot cause mask : Nat} {j : Job} (hj : jobAt m slot = some j) (hphase : j.phase = .turning)
    (hposted : j.turn.posted = false) (h : PartEnds m slot cause mask j) :
    partDone slot cause m = postRecord slot j.turn.turnGroup .stage ((j.epoch + 1) % 2 ^ 32) (stageWords mask)
      { (if j.turn.stage = 3 then setPipes m ([], []) else m) with jobs := tput m.jobs slot (postedJob j) } := by
  have hgoes : ¬(j.phase ≠ .turning ∨ j.turn.posted = true) := by simp [hphase, hposted]
  rcases h with ⟨hone, hnone, rfl⟩ | ⟨htwo, hsaved, rfl⟩ | ⟨hthree, hsource, hfive, rfl⟩ | ⟨hthree, hsource, hfive, hmine, rfl⟩
    | ⟨hfour, hbusy, hawaited, rfl⟩
  · rw [if_neg (by omega), ← postStage_posts hj]
    simp [partDone, hj, hgoes, hone, hnone]
  · rw [if_neg (by omega), ← postStage_posts hj]
    simp [partDone, hj, hgoes, htwo, hsaved]
  · have hstop := postStage_stopped m (jobs := tput m.jobs slot (failedSource j)) ([], []) ((tfind_tput ..).trans (if_pos rfl))
    rw [tput_tput] at hstop
    rw [if_pos hthree]
    refine Eq.trans ?_ hstop
    simp only [partDone, hj, if_neg hgoes, hthree, if_pos (Or.inr hfive : j.turn.mine ≠ 0 ∨ _), if_pos hfive, if_neg hsource]
    simp only [updTurn, updJob, tupd_listed hj]
    rfl
  · rw [if_pos hthree, ← postStage_stopped m ([], []) hj]
    simp only [partDone, hj, if_neg hgoes, hthree, if_pos (Or.inl hmine : _ ∨ cause = 5), if_neg hfive, if_neg hsource]
  · rw [if_neg (by omega), ← postStage_posts hj]
    simp [partDone, hj, hgoes, hfour, hbusy, hawaited]

section
variable {slot : Nat} {j : Job} {m : Dev} (hj : jobAt m slot = some j) (horigin : j.isOrigin = true) (hphase : j.phase = .turning)
  (hnext : j.turn.next = none)
include hj horigin hphase hnext

/-- R538: the lowest cause of a record fails the turn. -/
theorem stageRecordDone_fails {words : List Nat} {c : Nat} (hbad : nth 0 words 1 ≠ 0) (h3 : 3 ≤ c) (h8 : c ≤ 8)
    (hcause : nth 0 words (c - 1) ≠ 0) (hlow : ∀ k, 3 ≤ k → k < c → nth 0 words (k - 1) = 0) :
    stageRecordDone slot words m = updTurn m slot fun t => { t with next := some (6, c) } := by
  have hfind : (List.range 6).find? (fun i => decide (nth 0 words (i + 2) ≠ 0)) = some (c - 3) := by
    rw [List.find?_range_eq_some]
    refine ⟨?_, ?_, fun k hk => ?_⟩
    · rwa [decide_eq_true_eq, show c - 3 + 2 = c - 1 by omega]
    · exact List.mem_range.mpr (by omega)
    · have := hlow (k + 3) (by omega) (by omega)
      simpa using this
  simp only [stageRecordDone, hj, if_pos (And.intro horigin (And.intro hphase hnext)), if_pos hbad, hfind, Option.map_some, Option.getD_some,
    Nat.sub_add_cancel h3]

/-- R538: every member's record is clean. -/
theorem stageRecordDone_advances {words : List Nat} (hclean : nth 0 words 1 = 0) (hall : nth 0 words 0 = j.members) :
    stageRecordDone slot words m = updTurn m slot fun t => { t with next := some (t.stage + 1, 0) } := by
  simp only [stageRecordDone, hj, if_pos (And.intro horigin (And.intro hphase hnext)), if_neg (not_not.mpr hclean), if_pos hall]

/-- R538: members are missing. -/
theorem stageRecordDone_waits {words : List Nat} (hclean : nth 0 words 1 = 0) (hsome : nth 0 words 0 ≠ j.members) :
    stageRecordDone slot words m = m := by
  simp only [stageRecordDone, hj, if_pos (And.intro horigin (And.intro hphase hnext)), if_neg (not_not.mpr hclean), if_neg hsome]

/-- R538: the stage limit fails the turn. -/
theorem stageTimeout_fails (hlimit : j.turn.stageLimit ≤ j.turn.stageStrokes) :
    stageTimeout slot m = updTurn m slot fun t => { t with next := some (6, 2) } := by
  simp only [stageTimeout, hj, if_pos (And.intro horigin (And.intro hphase (And.intro hnext hlimit)))]

end

/-- Settles O39: a hand-over and a delivery change the step alone, and the last one sends the record of the step (`StepEnds`); an image's copy
writes into its shares alone and stages its reply (`imageCopied_ends`); a stage's end posts its record, and the origin notes what follows. -/
theorem slicesCopiesAndStages : Obligations.SlicesCopiesAndStages := by
  unfold Obligations.SlicesCopiesAndStages
  refine ⟨fun s slot slice j g hslot hslice hj hg hrun => ?_, fun s slot kind index j w good hwf hj hkind hw hwaits hgood hjobs hdam img op
    hop himg => ?_, fun s slot j u hslot hj hphase hu => ?_⟩
  · subst hg
    intro only ends
    refine ⟨fun die data nonfinite poison n o own hwf hdata hstage hopen htrain hnew hn ho hown => ?_, fun data o htwo hend => ?_,
      fun data h q hwf hdata hin hnew hstage hh hq => ?_, fun flags count tokens loss sqnorm hwf horigin hstage hnone => ?_⟩
    · intro flags rest
      have hrow : ∀ {r}, sliceHandoff slot slice die data nonfinite poison s.m = r →
          exec (.sliceHandoff slot ⟨die, slice, data⟩ nonfinite poison) s = .next { s with m := r } := onDev_next_of hwf
      refine ⟨fun hnone => ?_, fun sum hsum hless => ?_, fun sum hsum hall hheld => ?_⟩
      · have hstep := (OnlyJob.refl hj).updLearn fun g =>
          { flaggedStep nonfinite poison g with ends := tput g.ends (slice * 8 + die) data }
        exact ⟨_, hrow (sliceHandoff_waits hj hrun hdata hstage hopen htrain hnew nonfinite poison (hown.trans hnone)), rfl, rfl,
          hstep.1, hstep.2, rfl⟩
      · obtain ⟨jobs, hgives, hjob, hother⟩ := sliceHandoff_goesOn hj hrun hdata hstage hopen htrain hnew nonfinite poison
          (hown.trans hsum) (by omega)
        exact ⟨_, hrow hgives, rfl, rfl, hjob, hother, rfl⟩
      · obtain ⟨loss, hloss, jobs, hends, hjob, hother⟩ := sliceHandoff_ends hj hrun hdata hstage hopen htrain hnew nonfinite poison
          (hown.trans hsum) (by omega) hheld
        exact ⟨_, hrow hends, loss, hloss, rfl, rfl, hjob, hother, rfl⟩
    · simp only [sliceGradient, htwo, if_true, hend, Option.map_some]
    · subst hh hq
      have hrow : ∀ {r}, sliceDelivered slot slice data s.m = r → exec (.sliceDelivered slot slice data) s = .next { s with m := r } :=
        onDev_next_of hwf
      refine ⟨fun hsome => ?_, fun hall hheld => ?_⟩
      · obtain ⟨jobs, hholds, hjob, hother⟩ := sliceDelivered_goesOn hj hrun hdata hstage hin hnew hsome
        exact ⟨_, hrow hholds, rfl, rfl, hjob, hother, rfl⟩
      · obtain ⟨loss, hloss, jobs, hends, hjob, hother⟩ := sliceDelivered_ends hj hrun hdata hstage hin hnew hall hheld
        exact ⟨_, hrow hends, loss, hloss, rfl, rfl, hjob, hother, rfl⟩
    · have hstep := (OnlyJob.refl hj).updLearn fun g => { g with verdict := some { flags, count, tokens, loss, sqnorm } }
      exact ⟨_, onDev_next_of (c := .verdictReduceDone slot flags count tokens loss sqnorm) hwf
        (verdictDone_keeps hj horigin hrun hstage hnone flags count tokens loss sqnorm), rfl, rfl, hstep.1, hstep.2, rfl⟩
  · intro copied
    have hcopy : imageCopy s.m (heldRuns s.m w.reply.mb) img.length (fun _ => (img.length + 15) / 16) (imageShares s.m slot kind index)
        = { s.m with mem := copied } := by
      obtain ⟨mem, hmem⟩ := (imageCopy_writesIn (n := img.length) (shares := imageShares s.m slot kind index) (heldRuns s.m w.reply.mb)
        hjobs hdam fun _ => le_refl ((img.length + 15) / 16)).frame
      simp only [copied, hmem]
    obtain ⟨jobs, holds, hends, hholds, honly⟩ := imageCopied_ends rfl hj hkind hw hwaits hgood hop himg hcopy
    obtain ⟨done, hreply⟩ := finishWaits_one (m := { s.m with
      jobs := jobs
      mem := if good then copied else releaseAllocs copied (layoutUse slot index)
      ctl := { s.m.ctl with holds := holds } }) hwaits hw (if good then id else fun r => { r with status := 0x4002, body := [] })
    have hstroke := honly.strokeOf_eq hj (copiedJob_stroke kind index op img good j) rfl w.reply.slot
    refine ⟨_, _, onDev_next_of (c := .imageCopyDone slot kind index) hwf (hends.trans hreply), rfl, rfl, ?_, ?_, ?_, hholds, ?_, ?_,
      honly.2, rfl⟩
    · cases good <;> rfl
    · cases good <;> rfl
    · cases good <;> exact congrArg (max w.reply.due) hstroke
    · rintro rfl
      exact ⟨rfl, honly.1⟩
    · rintro rfl
      exact ⟨rfl, honly.1⟩
  · subst hu
    intro only
    have honly : ∀ f : Turn → Turn, only { s with m := updTurn s.m slot f } (f j.turn) := fun f =>
      have hturn := (OnlyJob.refl hj).updJob fun y => { y with turn := f y.turn }
      ⟨hturn.1, hturn.2, rfl⟩
    refine ⟨fun cause mask hcause hposted hpart => ?_,
      fun horigin hnext => ⟨fun words hwf => ⟨fun c hbad h3 h8 hc hlow => ?_, fun hclean hall => ?_, fun hclean hsome => ?_⟩,
        fun hlimit => ?_⟩⟩
    · intro idle r hr
      subst hr
      exact onDev_next_of (c := .sluicePartDone slot cause) (partRow_wf hslot hcause) (partDone_posts hj hphase hposted hpart)
    · have hfails := stageRecordDone_fails hj horigin hphase hnext hbad h3 h8 hc hlow
      exact ⟨_, onDev_next_of (c := .stageRecordDone slot words) hwf hfails, honly _, rfl⟩
    · exact ⟨_, onDev_next_of (c := .stageRecordDone slot words) hwf (stageRecordDone_advances hj horigin hphase hnext hclean hall),
        honly _, rfl⟩
    · exact onDev_next_of (c := .stageRecordDone slot words) hwf (stageRecordDone_waits hj horigin hphase hnext hclean hsome)
    · exact ⟨_, onDev_next_of (c := .stageLimitTimeout slot) (slotRow_wf hslot)
        (stageTimeout_fails hj horigin hphase hnext hlimit), honly _, rfl⟩

end Sys2Proof.Machine
end

section
/-! PROOFS of the family 11_jainzel_links: one link changes, frames and events go out, and all else stands; training (R445, R472, R479). -/

namespace Sys2Proof.Machine

/-! ### A change of one link -/

/-- From `m` to `t` link `l` has become `k`; the module has sent `sent` and raised `raised`, and nothing else has changed. -/
structure LinkStep (l : Nat) (k : Link) (sent : List Out) (raised : List (Option Nat × Event)) (m t : Dev) : Prop where
  frame : t = { m with
    out := m.out ++ sent, net := { m.net with links := t.net.links }, ctl := { m.ctl with evq := m.ctl.evq ++ raised } }
  link : linkAt t l = k
  other : ∀ j, j ≠ l → linkAt t j = linkAt m j

namespace LinkStep
variable {l : Nat} {k : Link} {sent : List Out} {raised : List (Option Nat × Event)} {m t : Dev}

theorem refl (h : linkAt m l = k) : LinkStep l k [] [] m m := ⟨by simp, h, fun _ _ => rfl⟩

theorem updLink (h : LinkStep l k sent raised m t) (f : Link → Link) : LinkStep l (f k) sent raised m (updLink t l f) := by
  refine ⟨?_, ?_, fun j hj => ?_⟩
  · rw [h.frame]
    rfl
  · rw [linkAt_updLink_same, h.link]
  · rw [linkAt_updLink, if_neg hj, h.other j hj]

theorem send (h : LinkStep l k sent raised m t) (o : Out) : LinkStep l k (sent ++ [o]) raised m (send t o) := by
  refine ⟨?_, h.link, h.other⟩
  rw [h.frame, ← List.append_assoc]
  rfl

theorem raiseModule (h : LinkStep l k sent raised m t) (etype status : Nat) (payload : List Byte) :
    LinkStep l k sent (raised ++ [(none, { etype, part := 0, stroke := m.ctl.localStroke, status, payload })]) m
      (raiseModule t etype status payload) := by
  refine ⟨?_, h.link, h.other⟩
  rw [h.frame, ← List.append_assoc]
  rfl

theorem jobs (h : LinkStep l k sent raised m t) : t.jobs = m.jobs := by rw [h.frame]

theorem colls (h : LinkStep l k sent raised m t) : t.colls = m.colls := by rw [h.frame]

theorem finWait (h : LinkStep l k sent raised m t) : t.net.finWait = m.net.finWait := by rw [h.frame]

theorem out (h : LinkStep l k sent raised m t) : t.out = m.out ++ sent := by rw [h.frame]

theorem evq (h : LinkStep l k sent raised m t) : t.ctl.evq = m.ctl.evq ++ raised := by rw [h.frame]

theorem localStroke (h : LinkStep l k sent raised m t) : t.ctl.localStroke = m.ctl.localStroke := by rw [h.frame]

theorem ownWide (h : LinkStep l k sent raised m t) : ownWide t = ownWide m := by
  rw [h.frame]
  rfl

/-- Besides the link only what is sent and the events that wait differ. -/
theorem onlyOutEvq (h : LinkStep l k sent raised m t) : t = { m with
    out := t.out, net := { m.net with links := t.net.links }, ctl := { m.ctl with evq := t.ctl.evq } } := by
  rw [h.out, h.evq]
  exact h.frame

theorem onlyOut (h : LinkStep l k sent [] m t) : t = { m with out := t.out, net := { m.net with links := t.net.links } } := by
  have hevq := h.evq
  rw [List.append_nil] at hevq
  have hall := h.onlyOutEvq
  rwa [hevq] at hall

theorem onlyEvq (h : LinkStep l k [] raised m t) :
    t = { m with net := { m.net with links := t.net.links }, ctl := { m.ctl with evq := t.ctl.evq } } := by
  have hout := h.out
  rw [List.append_nil] at hout
  have hall := h.onlyOutEvq
  rwa [hout] at hall

theorem only (h : LinkStep l k [] [] m t) : t = { m with net := { m.net with links := t.net.links } } := by
  have hevq := h.evq
  rw [List.append_nil] at hevq
  have hall := h.onlyEvq
  rwa [hevq] at hall

/-- R479: a link enters another state and tells so. -/
theorem setLinkState (h : LinkStep l k sent raised m t) {st : LinkState} (hst : k.st ≠ st) :
    ∃ e, LinkStep l { k with
      st := st
      upSince := if linkUp { k with st := st } = true then m.ctl.localStroke % 2 ^ 32 else k.upSince } sent (raised ++ [e]) m
      (setLinkState l st t) := by
  have hlink := setLinkState_link t l st (by rwa [h.link])
  have hother := fun j hj => setLinkState_other t l j st hj
  rw [h.link, h.localStroke] at hlink
  have hne : (linkAt t l).st ≠ st := by rwa [h.link]
  obtain ⟨f, payload, hrun⟩ : ∃ f payload, Machine.setLinkState l st t
      = Machine.raiseModule (Machine.updLink (Machine.updLink t l fun x => { x with st := st }) l f) 0x0B60 0 payload := by
    simp only [Machine.setLinkState, if_neg hne]
    exact ⟨_, _, rfl⟩
  have hstep := ((h.updLink fun x => { x with st := st }).updLink f).raiseModule 0x0B60 0 payload
  rw [← hrun] at hstep
  exact ⟨_, hstep.frame, hlink, fun j hj => (hother j hj).trans (h.other j hj)⟩

/-- R479: a link that is in a state already stays as it is. -/
theorem setLinkState_same (h : LinkStep l k sent raised m t) {st : LinkState} (hst : k.st = st) : Machine.setLinkState l st t = t := by
  rw [Machine.setLinkState, h.link]
  exact if_pos hst

end LinkStep

/-! ### Training (R445) -/

section
variable {l : Nat} {k : Link} {m : Dev}

/-- R445: the peer is seen. -/
theorem peerSignal_begins (hk : linkAt m l = k) (hoff : m.sys.st ≠ .off) (hen : k.enabled = true) (hatt : k.attempting = false)
    (hst : k.st = .off ∨ k.st = .training) :
    ∃ es, LinkStep l { k with st := .training, attempting := true, trains := min (k.trains + 1) 255 } [] es m (peerSignal l m) := by
  have hstep := (LinkStep.refl hk).updLink fun k => { k with attempting := true, trains := sat 8 (k.trains + 1) }
  rw [peerSignal, hk, if_pos ⟨hoff, hen, hst, by simp [hatt]⟩]
  rcases hst with hst | hst
  · obtain ⟨e, hset⟩ := hstep.setLinkState (st := .training) (by simp [hst])
    exact ⟨_, hset⟩
  · rw [hstep.setLinkState_same hst, ← hst]
    exact ⟨_, hstep⟩

/-- R445: the loss of the peer ends the attempt. -/
theorem peerLoss_ends (hk : linkAt m l = k) (hatt : k.attempting = true) :
    LinkStep l { k with attempting := false, cause := 1 } [] [] m (peerLoss l m) := by
  rw [peerLoss, hk, if_pos hatt]
  exact (LinkStep.refl hk).updLink fun k => { k with attempting := false, cause := 1 }

/-- R445: an attempt that fails is counted, and the third makes the link FAILED. -/
theorem trainFail_counts (hk : linkAt m l = k) (hst : k.st = .training) (cause : Nat) :
    ∃ es, LinkStep l { k with
      attempting := false, cause := cause, attempts := k.attempts + 1, st := if 2 ≤ k.attempts then .failed else .training } [] es m
      (trainFail l cause m) := by
  have hstep := (LinkStep.refl hk).updLink fun k => { k with attempting := false, cause := cause, attempts := k.attempts + 1 }
  rw [trainFail]
  simp only [hstep.link]
  by_cases h : 2 ≤ k.attempts
  · rw [if_pos (show 3 ≤ k.attempts + 1 by omega), if_pos h]
    obtain ⟨e, hset⟩ := hstep.setLinkState (st := .failed) (by simp [hst])
    exact ⟨_, hset⟩
  · rw [if_neg (show ¬3 ≤ k.attempts + 1 by omega), if_neg h, ← hst]
    exact ⟨_, hstep⟩

/-- R732: a link that comes up with nothing due on it. -/
theorem collLinkUp_none (hfin : ∀ x ∈ m.net.finWait, x.1 ≠ l) (hcolls : ∀ c ∈ m.colls, c.st ≠ .header) :
    collLinkUp l m = m := by
  have hdue : m.net.finWait.filter (fun f => decide (f.1 = l)) = [] := by simpa using hfin
  have hkeep : updNet m (fun n => { n with finWait := n.finWait.filter (fun f => decide (f.1 ≠ l)) }) = m := by
    have hall : m.net.finWait.filter (fun f => decide (f.1 ≠ l)) = m.net.finWait := by simpa using hfin
    rw [updNet, hall]
  have hheader : m.colls.filter (fun c => decide (c.st = .header) && decide (l ∈ collLinks m c)) = [] := by
    simp only [List.filter_eq_nil_iff, Bool.and_eq_true, decide_eq_true_eq, not_and]
    exact fun c hc h => absurd h (hcolls c hc)
  rw [collLinkUp]
  simp only [hdue, hkeep, hheader, List.map_nil, List.foldl_nil]

/-- A link as an attempt that found all four lanes leaves it, still in TRAINING (R445). -/
def trainedLink (k : Link) (flight : Nat) (seen : Bool) (pos plink : Nat) : Link := { k with
  attempting := false, attempts := 0, lanesOk := 15, flight := flight
  fShifts := if k.flight ≠ 0 ∧ (k.flight + 4 < flight ∨ flight + 4 < k.flight) then min (k.fShifts + 1) 255 else k.fShifts
  peerPos := if seen then pos else 65535, peerLink := plink, peerValid := seen
  expSeq := 0, lastAck := 4095, awaitReplay := false, lastFlit := none, sameReplays := 0, peerWide := true, widthTo := none }

/-- R472: with four lanes and a peer that requests WIDE the module's own request gives the width. -/
theorem widthFor_fourLanes (m : Dev) {k : Link} (hlanes : k.lanesOk = 15) (hpeer : k.peerWide = true) :
    widthFor m k = if powerState m < 3 then .wide else .narrow := by
  simp [widthFor, ownWide, hlanes, hpeer]

/-- R445, R472: an attempt that succeeds on all lanes brings the link up at its width. -/
theorem trainDone_up {flight pos plink : Nat} {seen : Bool} (hk : linkAt m l = k) (hatt : k.attempting = true) (hst : k.st = .training)
    (hflight : flight ≤ 1400) (hfin : ∀ x ∈ m.net.finWait, x.1 ≠ l) (hcolls : ∀ c ∈ m.colls, c.st ≠ .header) :
    ∃ es, LinkStep l { trainedLink k flight seen pos plink with
      st := if powerState m < 3 then .wide else .narrow, upSince := m.ctl.localStroke % 2 ^ 32 } [] es m
      (trainDone l 15 flight seen pos plink 0 m) := by
  have hstep : LinkStep l (trainedLink k flight seen pos plink) [] [] m (updLink m l fun x => { x with
      attempting := false, attempts := 0, lanesOk := 15 % 16, flight := flight
      fShifts := if decide (k.flight ≠ 0) && (decide (k.flight + 4 < flight) || decide (flight + 4 < k.flight)) then sat 8 (x.fShifts + 1)
        else x.fShifts
      peerPos := if seen then pos else 0xFFFF, peerLink := plink, peerValid := seen
      expSeq := 0, lastAck := 4095, awaitReplay := false, lastFlit := none, sameReplays := 0, peerWide := true, widthTo := none }) := by
    convert (LinkStep.refl hk).updLink _ using 1
    simp [trainedLink, sat]
  rw [trainDone]
  simp only [hk, hatt, Bool.not_true, Bool.false_eq_true, if_false, not_true_eq_false, ne_eq, Nat.not_lt.mpr hflight,
    show ¬15 % 16 = 0 by decide]
  generalize updLink m l _ = t at hstep
  have hw : widthFor t (linkAt t l) = if powerState m < 3 then .wide else .narrow := by
    rw [hstep.link, widthFor_fourLanes t rfl rfl, hstep.frame]
    rfl
  generalize hwidth : (if powerState m < 3 then LinkState.wide else .narrow) = w at hw ⊢
  have hup : w = .wide ∨ w = .narrow := by
    rw [← hwidth]
    split <;> simp
  obtain ⟨e, hset⟩ := hstep.setLinkState (st := w) (by rcases hup with rfl | rfl <;> simp [trainedLink, hst])
  rw [hw, if_neg (by rcases hup with rfl | rfl <;> simp), collLinkUp_none (by rwa [hset.finWait]) (by rwa [hset.colls])]
  refine ⟨[] ++ [e], ?_⟩
  convert hset using 2
  rcases hup with rfl | rfl <;> simp [linkUp]

end

/-- Settles O16: a row of the training is one change of its link: it begins (`peerSignal_begins`), loses its peer, fails
(`trainFail_counts`) or comes up (`trainDone_up`). -/
theorem linkTraining : Obligations.LinkTraining := by
  unfold Obligations.LinkTraining
  intro s l k hk only fails
  have honly : ∀ {k' es} {r : Dev}, LinkStep l k' [] es s.m r → only { s with m := r } := fun h =>
    ⟨h.other, congrArg (fun m => { s with m := m }) h.onlyEvq⟩
  refine ⟨fun hwf hoff hen hatt hst => ?_, fun hatt hst => ⟨fun hwf => ?_, fun cause hwf => ?_,
    fun lanes flight seen pos plink cause hwf => ⟨fun hcause => ?_, fun hcause hlong => ?_,
      fun hcause hflight hlanes hfin hcolls => ?_⟩⟩⟩
  · obtain ⟨es, h⟩ := peerSignal_begins hk hoff hen hatt hst
    exact ⟨_, onDev_next (c := .linkPeerSignal l) _ s hwf, honly h, h.link⟩
  · have h := peerLoss_ends hk hatt
    exact ⟨_, onDev_next (c := .linkPeerLoss l) _ s hwf, honly h, h.link⟩
  · obtain ⟨es, h⟩ := trainFail_counts hk hst cause
    exact ⟨_, onDev_next_of (c := .linkTrainTimeout l cause) hwf (by rw [trainTimeout, hk, if_pos hatt]), honly h, h.link⟩
  · obtain ⟨es, h⟩ := trainFail_counts hk hst cause
    exact ⟨_, onDev_next_of (c := .linkTrainDone l lanes flight seen pos plink cause) hwf 
      (by simp [trainDone, hk, hatt, hcause]), honly h, h.link⟩
  · obtain ⟨es, h⟩ := trainFail_counts hk hst 3
    exact ⟨_, onDev_next_of (c := .linkTrainDone l lanes flight seen pos plink cause) hwf (by simp [trainDone, hk, hatt, hcause, hlong]),
      honly h, h.link⟩
  · subst hcause hlanes
    obtain ⟨es, h⟩ := trainDone_up (seen := seen) (pos := pos) (plink := plink) hk hatt hst hflight hfin hcolls
    exact ⟨_, onDev_next (c := .linkTrainDone l 15 flight seen pos plink 0) _ s hwf, honly h, h.link⟩

end Sys2Proof.Machine
end

section
/-! PROOFS of the family 11_jainzel_links: frames, their acknowledgement and their credit (R450, R462). -/

namespace Sys2Proof.Machine

/-! ### Headers and acknowledgements (R448, R450) -/

namespace LinkStep
variable {l : Nat} {k : Link} {sent : List Out} {raised : List (Option Nat × Event)} {m t : Dev}

/-- R462: a header goes out with the credit that is due. -/
theorem sendHeader (h : LinkStep l k sent raised m t) (ack : Nat) (nak : Bool) :
    LinkStep l { k with owed := setNth k.owed (creditDue k).1 (nth 0 k.owed (creditDue k).1 - (creditDue k).2) }
      (sent ++ [.header l ack nak (creditDue k).1 (creditDue k).2 (decide (powerState m < 3)) k.keepPair]) raised m
      (sendHeader l ack nak t) := by
  have hstep := (h.updLink fun x => { x with owed := setNth x.owed (creditDue k).1 (nth 0 x.owed (creditDue k).1 - (creditDue k).2) }).send
    (.header l ack nak (creditDue k).1 (creditDue k).2 (decide (powerState m < 3)) k.keepPair)
  convert hstep using 1
  rw [Machine.sendHeader]
  simp only [h.link, h.ownWide]
  rfl

end LinkStep

/-- R561: without a job no copy to a partner is in flight. -/
theorem secureAcked_none {m : Dev} (l : Nat) (q : List (Nat × Sent)) (h : m.jobs = []) : secureAcked l q m = m := by
  rw [secureAcked]
  refine List.foldl_fixed' (fun x => ?_) q
  split
  · simp [h]
  · rfl

/-- R450: what an ACK covers leaves the retry buffer. -/
theorem LinkStep.frameAcks {l : Nat} {k : Link} {sent : List Out} {raised : List (Option Nat × Event)} {m t : Dev}
    (h : LinkStep l k sent raised m t) (ack : Nat) (hjobs : m.jobs = []) :
    LinkStep l { k with retry := ackedTo ack k.retry } sent raised m (frameAcks l ack t) := by
  have hstep := h.updLink fun x => { x with retry := ackedTo ack k.retry }
  rw [Machine.frameAcks, h.link]
  rwa [secureAcked_none _ _ (hstep.jobs.trans hjobs)]

/-! ### Credit and buffers (R462) -/

section
variable {l : Nat} {k : Link} {sent : List Out} {raised : List (Option Nat × Event)} {m t : Dev}

/-- A link without waiting units and flits sends nothing. -/
theorem serveLink_empty (n : Nat) (htxq : (linkAt t l).txq = []) (hflitq : (linkAt t l).flitq = []) : serveLink l n t = t := by
  cases n with
  | zero => rfl
  | succ n =>
    have hready : vcReady (linkAt t l) = fun _ => false := funext fun v => by simp [vcReady, htxq]
    have hnext : nextVc (linkAt t l) = none := by simp [nextVc, hready]
    rw [serveLink]
    simp only [hflitq, hnext, ite_self]

theorem vcDrains_noColl (hcolls : t.colls = []) (v : Nat) : vcDrains t l v = decide (v < 6) := by simp [vcDrains, hcolls]

/-- R462: `n` frames of a channel have left the receive buffer, and their credit is owed. -/
def takenFrames (k : Link) (v n : Nat) : Link :=
  { k with rx := setNth k.rx v (nth 0 k.rx v - n), owed := setNth k.owed v (nth 0 k.owed v + n) }

/-- R462: a channel has handed over all that it held. -/
def handedOver (k : Link) (v : Nat) : Link := takenFrames k v (nth 0 k.rx v)

theorem LinkStep.unitTaken (h : LinkStep l k sent raised m t) (v bytes : Nat) :
    LinkStep l (takenFrames k v (min (unitFrames bytes) (nth 0 k.rx v))) sent raised m (unitTaken l v bytes t) :=
  h.updLink fun k => takenFrames k v (min (unitFrames bytes) (nth 0 k.rx v))

/-- R462: without collectives each collective channel hands over all that it holds. -/
theorem LinkStep.drainLink (h : LinkStep l k sent raised m t) (hcolls : m.colls = []) :
    LinkStep l ((List.range 6).foldl handedOver k) sent raised m (drainLink t l) := by
  rw [Machine.drainLink]
  have hfold : ∀ (vs : List Nat) (k : Link) (t : Dev), (∀ v ∈ vs, v < 6) → LinkStep l k sent raised m t →
      LinkStep l (vs.foldl handedOver k) sent raised m
        (vs.foldl (fun m v => if vcDrains m l v then Machine.unitTaken l v (200 * nth 0 (linkAt m l).rx v) m else m) t) := by
    intro vs
    induction vs with
    | nil => exact fun k t _ h => h
    | cons v vs ih =>
      intro k t hvs h
      rw [List.foldl_cons, List.foldl_cons]
      refine ih _ _ (fun w hw => hvs w (List.mem_cons_of_mem _ hw)) ?_
      have hv : v < 6 := hvs v (List.mem_cons_self ..)
      have htaken := h.unitTaken v (200 * nth 0 k.rx v)
      have hframes : min (unitFrames (200 * nth 0 k.rx v)) (nth 0 k.rx v) = nth 0 k.rx v := by
        simp only [unitFrames]
        omega
      rw [hframes] at htaken
      rwa [vcDrains_noColl (h.colls.trans hcolls), if_pos (decide_eq_true hv), h.link]
  exact hfold _ k t (fun v hv => List.mem_range.mp hv) h

/-- The buffers of a link that held nothing, once a frame of channel `v` has come in and the collective channels have handed over. -/
theorem drained_one {k : Link} {v : Nat} (hv : v < 8) (valid : Bool)
    (hrx : k.rx = if valid then setNth (List.replicate 8 0) v 1 else List.replicate 8 0) (howed : k.owed = List.replicate 8 0) :
    (List.range 6).foldl handedOver k = { k with
      rx := setNth (List.replicate 8 0) v (if valid = true ∧ 6 ≤ v then 1 else 0)
      owed := setNth (List.replicate 8 0) v (if valid = true ∧ v < 6 then 1 else 0) } := by
  obtain ⟨⟩ := k
  subst hrx howed
  cases valid
  · interval_cases v <;> rfl
  · interval_cases v <;> rfl

/-- R462: of a link that is owed at most one frame, on channel `v`. -/
theorem creditDue_one {k : Link} {v : Nat} (hv : v < 8) (c : Prop) [Decidable c]
    (howed : k.owed = setNth (List.replicate 8 0) v (if c then 1 else 0)) :
    creditDue k = (if c then v else 0, if c then 1 else 0) := by
  rw [creditDue, howed]
  by_cases h : c
  · simp only [if_pos h]
    interval_cases v <;> rfl
  · simp only [if_neg h]
    interval_cases v <;> rfl

/-- R462: what is owed once a header has given that frame back. -/
theorem returned_one {v : Nat} (hv : v < 8) (c : Prop) [Decidable c] :
    setNth (setNth (List.replicate 8 0) v (if c then 1 else 0)) (if c then v else 0)
      (nth 0 (setNth (List.replicate 8 0) v (if c then 1 else 0)) (if c then v else 0) - if c then 1 else 0) = List.replicate 8 0 := by
  by_cases h : c
  · simp only [if_pos h]
    interval_cases v <;> rfl
  · simp only [if_neg h]
    interval_cases v <;> rfl

end

/-! ### Frames in order and out of order (R450) -/

namespace LinkStep
variable {l : Nat} {k : Link} {sent : List Out} {raised : List (Option Nat × Event)} {m t : Dev}

theorem widthFor (h : LinkStep l k sent raised m t) (x : Link) : widthFor t x = widthFor m x := by
  rw [Machine.widthFor, h.ownWide]
  rfl

/-- R472: a change of width begins when the requests of both ends give another one. -/
theorem agreeWidth (h : LinkStep l k sent raised m t) (hup : linkUp k = true) :
    LinkStep l { k with widthTo := if k.st = Machine.widthFor m k then none else some (Machine.widthFor m k) } sent raised m
      (agreeWidth t l) := by
  rw [Machine.agreeWidth]
  simp only [h.link, h.widthFor, hup, true_and]
  by_cases hst : k.st = Machine.widthFor m k
  · rw [if_neg (not_not.mpr hst), if_pos hst]
    exact h.updLink fun x => { x with widthTo := none }
  · rw [if_pos hst, if_neg hst]
    exact h.updLink fun x => { x with widthTo := some (Machine.widthFor m x) }

end LinkStep

/-- R450: a link once a frame in order has come in: what its header says of SEQ and width, and the symbols that were corrected. -/
def inOrder (k : Link) (f : Frame) : Link := { k with
  corrected := min (k.corrected + f.symErr) (2 ^ 32 - 1), expSeq := (f.seq + 1) % 4096, lastAck := f.seq, awaitReplay := false
  lastFlit := none, sameReplays := if (f.ack + 1) % 4096 = k.replaySeq then k.sameReplays else 0, peerWide := f.wideReq }

section
variable {l : Nat} {f : Frame} {k : Link} {m : Dev} (hk : linkAt m l = k) (hup : linkUp k = true) (hexp : f.exp = false)
include hk hup hexp

/-- R450: a frame in order without a flit, a NAK or DROP_PAIR is acknowledged once its own ACK and credit have been taken. -/
theorem frameReceive_inOrder (hnak : f.nak = false) (hdrop : f.dropPair = false) (hseq : f.seq = k.expSeq) (hsym : f.symErr ≤ 8) :
    ∃ t, LinkStep l (inOrder k f) [] [] m t
      ∧ frameReceive l f m = agreeWidth (sendHeader l f.seq false (frameCredit l f (frameAcks l f.ack t))) l := by
  refine ⟨updLink m l fun _ => inOrder k f, (LinkStep.refl hk).updLink fun _ => inOrder k f, ?_⟩
  have hlink : ∀ g : Link → Link, g k = inOrder k f → updLink m l g = updLink m l fun _ => inOrder k f := fun g hg => by
    simp only [updLink, tmod, show tget {} m.net.links l = k from hk, hg]
  rw [frameReceive, frameIn]
  simp only [hk, hup, hexp, hnak, hdrop, hseq, Nat.not_lt.mpr hsym, Bool.false_and, Bool.not_true, Bool.false_eq_true, ne_eq,
    not_true_eq_false, false_and, false_or, decide_false, if_false]
  rw [hlink _ (by simp [inOrder, sat, hseq])]

/-- R450: a frame out of order, or one that cannot be corrected, is answered by a NAK. -/
theorem frameReceive_nak (hbad : f.seq = k.expSeq ∧ 8 < f.symErr ∨ f.seq ≠ k.expSeq ∧ k.awaitReplay = false) :
    LinkStep l { k with
      uncorr := min (k.uncorr + 1) 4095, awaitReplay := true
      owed := setNth k.owed (creditDue k).1 (nth 0 k.owed (creditDue k).1 - (creditDue k).2) }
      [.header l k.lastAck true (creditDue k).1 (creditDue k).2 (decide (powerState m < 3)) k.keepPair] [] m (frameReceive l f m) := by
  have hgoes : ¬(f.seq ≠ k.expSeq ∧ k.awaitReplay = true) := by
    rintro ⟨hne, hwait⟩
    rcases hbad with h | h
    · exact hne h.1
    · simp [h.2] at hwait
  have hnak : f.seq ≠ k.expSeq ∨ decide (8 < f.symErr) = true := by
    rcases hbad with h | h
    · exact .inr (decide_eq_true h.2)
    · exact .inl h.1
  have hstep := ((LinkStep.refl hk).updLink fun x => { x with
    uncorr := sat 12 (x.uncorr + 1), awaitReplay := true, lastFlit := x.lastFlit }).sendHeader k.lastAck true
  rw [frameReceive, frameIn]
  simp only [hk, hup, Bool.not_true, Bool.false_eq_true, if_false, if_neg hgoes, if_pos hnak, hexp, Bool.and_false, Bool.false_and]
  exact hstep

omit hexp in
/-- R450: until the expected frame arrives the others are discarded. -/
theorem frameReceive_discards (hne : f.seq ≠ k.expSeq) (hwait : k.awaitReplay = true) : frameReceive l f m = m := by
  rw [frameReceive, frameIn]
  simp only [hk, hup, Bool.not_true, Bool.false_eq_true, if_false, if_pos (And.intro hne hwait)]

end

/-- R462: a link once the header of a frame has given its credit, to at most 64 frames, and the flit space stands in its channel's buffer. -/
def credited (k : Link) (f : Frame) : Link := { k with
  credit := setNth k.credit f.creditVc (min 64 (nth 0 k.credit f.creditVc + f.credit))
  rx := if f.vcValid then setNth k.rx f.vc (min 64 (nth 0 k.rx f.vc + 1)) else k.rx }

section
variable {l : Nat} {f : Frame} {k : Link} {sent : List Out} {raised : List (Option Nat × Event)} {m t : Dev}
  (h : LinkStep l k sent raised m t) (hvc : f.vc < 8) (hrx : k.rx = List.replicate 8 0) (howed : k.owed = List.replicate 8 0)
  (htxq : k.txq = []) (hflitq : k.flitq = []) (hcolls : m.colls = [])
include h hvc hrx howed htxq hflitq hcolls

/-- R462: on a link that held nothing a frame's flit space is handed over by a collective channel and stays in a bulk channel's buffer. -/
theorem LinkStep.frameCredit :
    LinkStep l { k with
      credit := setNth k.credit f.creditVc (min 64 (nth 0 k.credit f.creditVc + f.credit))
      rx := setNth (List.replicate 8 0) f.vc (if f.vcValid = true ∧ 6 ≤ f.vc then 1 else 0)
      owed := setNth (List.replicate 8 0) f.vc (if f.vcValid = true ∧ f.vc < 6 then 1 else 0) } sent raised m (frameCredit l f t) := by
  have hstep := h.updLink fun x => credited x f
  have hempty : nth 0 (List.replicate 8 0) f.vc = 0 := by
    simp only [nth, List.getD_eq_getElem?_getD, List.getElem?_replicate, hvc, if_true, Option.getD_some]
  have hdrained := hstep.drainLink hcolls
  rw [drained_one (k := credited k f) hvc f.vcValid (by simp only [credited, hrx, hempty]; rfl) howed] at hdrained
  have hserved := serveLink_empty (creditLeft (linkAt (Machine.updLink t l fun x => credited x f) l)) (by rw [hstep.link]; exact htxq)
    (by rw [hstep.link]; exact hflitq)
  rw [← hserved] at hdrained
  exact hdrained

/-- R462: the header that answers a frame gives back what its collective channel has handed over. -/
theorem LinkStep.answered (ack : Nat) :
    LinkStep l { k with
      credit := setNth k.credit f.creditVc (min 64 (nth 0 k.credit f.creditVc + f.credit))
      rx := setNth (List.replicate 8 0) f.vc (if f.vcValid = true ∧ 6 ≤ f.vc then 1 else 0) }
      (sent ++ [.header l ack false (if f.vcValid = true ∧ f.vc < 6 then f.vc else 0) (if f.vcValid = true ∧ f.vc < 6 then 1 else 0)
        (decide (powerState m < 3)) k.keepPair]) raised m
      (Machine.sendHeader l ack false (Machine.frameCredit l f t)) := by
  have hsent := (h.frameCredit hvc hrx howed htxq hflitq hcolls).sendHeader ack false
  rw [creditDue_one hvc (f.vcValid = true ∧ f.vc < 6) rfl] at hsent
  convert hsent using 2
  rw [howed]
  exact (returned_one hvc _).symm

end

/-- Settles O17: a frame in order runs through its ACK, its credit and the header that answers it, one change of the link after the other;
another frame is answered by `frameReceive_nak` or discarded. -/
theorem framesArriveInOrder : Obligations.FramesArriveInOrder := by
  unfold Obligations.FramesArriveInOrder
  intro s l f k hwf hk hup hexp hnak hdrop only
  have honly : ∀ {k' sent} {r : Dev}, LinkStep l k' sent [] s.m r → only { s with m := r } := fun h =>
    ⟨h.other, congrArg (fun m => { s with m := m }) h.onlyOut⟩
  refine ⟨fun hseq hsym hrx howed htxq hflitq hcolls hjobs => ?_, fun hbad v n hdue => ?_, fun hne hwait => ?_⟩
  · have hvc : f.vc < 8 := by
      simp only [Instr.wf, Frame.wf, Bool.and_eq_true, decide_eq_true_eq] at hwf
      omega
    obtain ⟨t, hstep, hrun⟩ := frameReceive_inOrder hk hup hexp hnak hdrop hseq hsym
    have hin := ((hstep.frameAcks f.ack hjobs).answered hvc hrx howed htxq hflitq hcolls f.seq).agreeWidth hup
    rw [← hrun] at hin
    exact ⟨_, onDev_next (c := .frameReceive l f) _ s hwf, honly hin, hin.out, hin.link⟩
  · have h := frameReceive_nak hk hup hexp hbad
    rw [hdue] at h
    exact ⟨_, onDev_next (c := .frameReceive l f) _ s hwf, honly h, h.out, h.link⟩
  · exact onDev_next_of (c := .frameReceive l f) hwf (frameReceive_discards hk hup hne hwait)

end Sys2Proof.Machine
end

section
/-! PROOFS of the family 11_jainzel_links: replays, links that go down, lanes and widths (R450, R451, R472, R473). -/

namespace Sys2Proof.Machine

/-! ### Links that go down and replays (R450, R451) -/

namespace LinkStep
variable {l : Nat} {k : Link} {sent : List Out} {raised : List (Option Nat × Event)} {m t : Dev}

/-- R451: with no collective and no job a link that goes down leaves its own buffers and state. -/
theorem linkDown (h : LinkStep l k sent raised m t) (hup : linkUp k = true) (hcolls : m.colls = []) (hjobs : m.jobs = []) :
    ∃ e, LinkStep l { linkDropped k with st := if k.enabled then .training else .off } sent (raised ++ [e]) m (linkDown l t) := by
  rw [linkDown_alone t l (h.colls.trans hcolls) (h.jobs.trans hjobs), h.link]
  have hne : (linkDropped k).st ≠ if k.enabled then .training else .off := fun hst => by
    have hst' : k.st = if k.enabled then .training else .off := hst
    rw [linkUp, hst'] at hup
    split at hup <;> simp at hup
  obtain ⟨e, hset⟩ := (h.updLink linkDropped).setLinkState hne
  refine ⟨e, ?_⟩
  convert hset using 2
  split <;> simp [linkUp, linkDropped]

end LinkStep

section
variable {l : Nat} {k : Link} {m : Dev} (hk : linkAt m l = k) (hup : linkUp k = true) (hcolls : m.colls = []) (hjobs : m.jobs = [])
include hk hup hcolls hjobs

/-- R451: no frame arrives. -/
theorem linkIdle_down : ∃ e, LinkStep l { linkDropped k with st := if k.enabled then .training else .off } [] [e] m (linkIdle l m) := by
  rw [linkIdle, hk, if_pos hup]
  exact (LinkStep.refl hk).linkDown hup hcolls hjobs

/-- R451: the ninth replay of one frame is not made; the link goes down. -/
theorem nakFor_down {ack n : Nat} (hn : (if k.sameReplays ≠ 0 ∧ k.replaySeq = (ack + 1) % 4096 then k.sameReplays + 1 else 1) = n)
    (hlimit : 8 < n) :
    ∃ e, LinkStep l { linkDropped k with st := if k.enabled then .training else .off } [] [e] m (nakFor l ack m) := by
  have hacked := (LinkStep.refl hk).frameAcks ack hjobs
  have hup' : linkUp { k with retry := ackedTo ack k.retry } = true := hup
  rw [nakFor]
  simp only [hacked.link, hup', hn, hlimit, Bool.not_true, Bool.false_eq_true, if_false, if_true]
  exact hacked.linkDown hup hcolls hjobs

omit hcolls in
/-- R450: a NAK makes the sender replay from the frame after ACK. -/
theorem nakFor_replays {ack n : Nat} (hn : (if k.sameReplays ≠ 0 ∧ k.replaySeq = (ack + 1) % 4096 then k.sameReplays + 1 else 1) = n)
    (hlimit : n ≤ 8) :
    LinkStep l { k with
      retry := ackedTo ack k.retry, sameReplays := n, replaySeq := (ack + 1) % 4096, replays := min (k.replays + 1) (2 ^ 32 - 1) }
      [.replay l ((ack + 1) % 4096)] [] m (nakFor l ack m) := by
  have hacked := (LinkStep.refl hk).frameAcks ack hjobs
  have hup' : linkUp { k with retry := ackedTo ack k.retry } = true := hup
  rw [nakFor]
  simp only [hacked.link, hup', hn, Nat.not_lt.mpr hlimit, Bool.not_true, Bool.false_eq_true, if_false]
  exact (hacked.updLink fun x => { x with
    sameReplays := n, replaySeq := (ack + 1) % 4096, replays := sat 32 (x.replays + 1) }).send (.replay l ((ack + 1) % 4096))

end

/-! ### Lanes and widths (R472, R473) -/

/-- The lanes that are left once one of four has failed. -/
theorem lanes_without {lanes lane : Nat} (hlane : lane < 4) (hlanes : lanes < 16) (hbit : bitOf lanes lane = true) :
    lanes &&& (15 ^^^ (1 <<< lane)) = lanes - 2 ^ lane ∧ lanes - 2 ^ lane ≠ lanes := by
  have hall : ∀ i < 4, ∀ n < 16, bitOf n i = true → n &&& (15 ^^^ (1 <<< i)) = n - 2 ^ i ∧ n - 2 ^ i ≠ n := by decide
  exact hall lane hlane lanes hlanes hbit

/-- R473: the width that is left to a link once lanes have failed. -/
def widthLeft (st : LinkState) (left : Nat) : LinkState :=
  if st = .narrow then .narrow else if pairOk left 0 || pairOk left 1 then .half else .narrow

section
variable {l : Nat} {k : Link} {sent : List Out} {raised : List (Option Nat × Event)} {m t : Dev}

/-- R473: a link that loses lanes and keeps some goes on at the width that is left. -/
theorem LinkStep.loseLanes (h : LinkStep l k sent raised m t) (hup : linkUp k = true) {lanes left : Nat}
    (hleft : k.lanesOk &&& (15 ^^^ lanes) = left) (hlost : left ≠ k.lanesOk) (hsome : left ≠ 0) :
    ∃ es e up, e.etype = 0x0B61 ∧ LinkStep l { k with lanesOk := left, st := widthLeft k.st left, upSince := up } sent
      (es ++ [(none, e)]) m (Machine.loseLanes l lanes t) := by
  have hrun : Machine.loseLanes l lanes t
      = Machine.raiseModule
          (Machine.setLinkState l (widthLeft k.st left) (Machine.updLink t l fun x => { x with lanesOk := left })) 0x0B61 0
          (leBytes 1 l ++ leBytes 1 left ++ leBytes 1 (linkCode (widthLeft k.st left))) := by
    rw [Machine.loseLanes]
    simp only [h.link, hleft, hup, Bool.not_true, Bool.false_eq_true, hlost, hsome, or_self, if_false]
    rfl
  rw [hrun]
  have hstep := h.updLink fun x => { x with lanesOk := left }
  by_cases hst : k.st = widthLeft k.st left
  · rw [hstep.setLinkState_same hst, ← hst]
    exact ⟨raised, _, k.upSince, rfl, hstep.raiseModule _ _ _⟩
  · obtain ⟨e, hset⟩ := hstep.setLinkState (st := widthLeft k.st left) hst
    exact ⟨_, _, _, rfl, hset.raiseModule _ _ _⟩

end

/-- R473: a lane fails in use; while a pair works the link runs HALF and its next header names the pair to keep. -/
theorem laneFailure_leaves {l lane left : Nat} {half : Bool} {k : Link} {m : Dev} (hk : linkAt m l = k) (hlane : lane < 4)
    (hup : linkUp k = true) (hlanes : k.lanesOk < 16) (hbit : bitOf k.lanesOk lane = true) (hleft : k.lanesOk - 2 ^ lane = left)
    (hsome : left ≠ 0) (hhalf : (decide (k.st ≠ .narrow) && (bitOf left 0 && bitOf left 1 || bitOf left 2 && bitOf left 3)) = half) :
    ∃ k' es e, k'.lanesOk = left ∧ k'.laneFaults = min (k.laneFaults + 1) 255 ∧ k'.st = (if half then .half else .narrow)
      ∧ e.etype = 0x0B61 ∧ LinkStep l k' (if half then [.header l k.lastAck false (creditDue k).1 (creditDue k).2 (decide (powerState m < 3))
          (some (if lane < 2 then 1 else 0))] else []) (es ++ [(none, e)]) m (laneFailure l lane m) := by
  obtain ⟨hand, hlost⟩ := lanes_without hlane hlanes hbit
  rw [hleft] at hand hlost
  have hstep := (LinkStep.refl hk).updLink fun x => { x with laneFaults := sat 8 (x.laneFaults + 1) }
  obtain ⟨es, e, up, he, hlose⟩ := hstep.loseLanes (lanes := 1 <<< lane) (left := left) hup hand hlost hsome
  have hwidth : widthLeft k.st left = if half then .half else .narrow := by
    rw [← hhalf, widthLeft]
    by_cases hst : k.st = .narrow <;> simp [hst, pairOk]
  rw [laneFailure]
  simp only [hk, hup, hbit, and_self, if_true, hlose.link, hwidth]
  have hpair : (if lane < 2 then 1 else 0) = b2n (decide (lane < 2)) := by simp [b2n]
  rw [hpair]
  cases half
  · exact ⟨_, es, e, rfl, rfl, hwidth, he, hlose⟩
  · exact ⟨_, es, e, rfl, rfl, hwidth, he,
      (hlose.updLink fun x => { x with keepPair := some (b2n (decide (lane < 2))) }).sendHeader k.lastAck false⟩

/-- R472: an agreed change of width is made. -/
theorem widthDone_changes {l : Nat} {w : LinkState} {k : Link} {m : Dev} (hk : linkAt m l = k) (hto : k.widthTo = some w) (hne : w ≠ k.st)
    (hw : w = .wide ∨ w = .half ∨ w = .narrow) :
    ∃ es, LinkStep l { k with widthTo := none, st := w, upSince := m.ctl.localStroke % 2 ^ 32 } [] es m (widthDone l m) := by
  rw [widthDone, hk, hto]
  obtain ⟨e, hset⟩ := ((LinkStep.refl hk).updLink fun x => { x with widthTo := none }).setLinkState (st := w) hne.symm
  refine ⟨[] ++ [e], ?_⟩
  convert hset using 2
  rcases hw with rfl | rfl | rfl <;> simp [linkUp]

/-- Settles O18: a link that goes down is `LinkStep.linkDown`, whichever row takes it down; a NAK within the limit is one replay; a lane's
failure and a change of width are changes of the link's state. -/
theorem replayLinkDownAndLanes : Obligations.ReplayLinkDownAndLanes := by
  unfold Obligations.ReplayLinkDownAndLanes
  constructor
  · intro s l k hk hup hl hcolls hjobs only down
    have honly : ∀ {k' sent es} {r : Dev}, LinkStep l k' sent es s.m r → only { s with m := r } := fun h =>
      ⟨h.other, congrArg (fun m => { s with m := m }) h.onlyOutEvq⟩
    have hdown : ∀ {es} {r : Dev}, LinkStep l { linkDropped k with st := if k.enabled then .training else .off } [] es s.m r →
        down { s with m := r } := fun h => by
      refine ⟨honly h, h.out.trans (List.append_nil _), h.link.trans ?_⟩
      simp [linkDropped, hup, sat]
    refine ⟨?_, fun ack n hack hn => ⟨fun hlimit => ?_, fun hlimit => ?_⟩⟩
    · obtain ⟨e, h⟩ := linkIdle_down hk hup hcolls hjobs
      exact ⟨_, onDev_next (c := .linkIdleTimeout l) _ s (by simp [Instr.wf, boundsWf, hl]), hdown h⟩
    · obtain ⟨e, h⟩ := nakFor_down hk hup hcolls hjobs hn hlimit
      exact ⟨_, onDev_next (c := .nakReceive l ack) _ s (by simp [Instr.wf, boundsWf, hl, hack]), hdown h⟩
    · have h := nakFor_replays hk hup hjobs hn hlimit
      exact ⟨_, onDev_next (c := .nakReceive l ack) _ s (by simp [Instr.wf, boundsWf, hl, hack]), honly h, h.out,
        h.evq.trans (List.append_nil _), h.link⟩
  · intro s l k hk only
    refine ⟨fun lane left half hwf hup hlanes hbit hleft hsome hhalf => ?_, fun w hwf hto hne hw => ?_⟩
    · have hlane : lane < 4 := by
        simp only [wfLaneFailure, boundsWf, List.all_cons, List.all_nil, Bool.and_true, Bool.and_eq_true, decide_eq_true_eq] at hwf
        exact hwf.2
      obtain ⟨k', es, e, hleft', hfaults, hst, he, h⟩ := laneFailure_leaves hk hlane hup hlanes hbit hleft hsome hhalf
      refine ⟨_, onDevW_next _ s hwf, ⟨h.other, congrArg (fun m => { s with m := m }) h.onlyOutEvq⟩, h.link ▸ hleft',
        h.link ▸ hfaults, h.link ▸ hst, ⟨e, ?_, he⟩, fun hh => ?_, fun hh => ?_⟩
      · rw [h.evq, ← List.append_assoc, List.getLast?_concat]
      · rw [h.out, hh]
        simp
      · rw [h.out, hh]
        simp
    · obtain ⟨es, h⟩ := widthDone_changes hk hto hne hw
      exact ⟨_, onDev_next (c := .widthChangeDone l) _ s hwf, ⟨h.other, congrArg (fun m => { s with m := m }) h.onlyOutEvq⟩,
        h.out.trans (List.append_nil _), h.link⟩

end Sys2Proof.Machine
end

section
/-! PROOFS of the family 11_jainzel_links: packets that are forwarded by route or delivered under their window (R462, R464, R468, R731). -/

namespace Sys2Proof.Machine

/-! ### Routes (R468) -/

section
variable {m : Dev} {dest e a b : Nat} (he : tget 0 m.net.routes dest = e)
include he

/-- R468: PRIMARY is there, is up, and is no NARROW link to another module than the destination. -/
theorem routeLink_primary (ha : e % 32 = a) (hbit : bitOf e 5 = true) (hup : linkUp (linkAt m a) = true)
    (hnarrow : (linkAt m a).st = .narrow → (linkAt m a).peerValid = true ∧ (linkAt m a).peerPos = dest) :
    routeLink m dest = some a := by
  rw [routeLink, he]
  simp only [ha, hbit, hup, Bool.true_and]
  rw [if_pos]
  by_cases hst : (linkAt m a).st = .narrow
  · simp [hst, hnarrow hst]
  · simp [hst]

/-- R468: PRIMARY does not serve. -/
theorem routeLink_alternate (ha : e % 32 = a) (hb : e / 64 % 32 = b)
    (hprimary : ¬(bitOf e 5 = true ∧ linkUp (linkAt m a) = true
      ∧ ((linkAt m a).st = .narrow → (linkAt m a).peerValid = true ∧ (linkAt m a).peerPos = dest))) :
    routeLink m dest = if bitOf e 11 && linkUp (linkAt m b) then some b else none := by
  have hshift : e >>> 6 % 32 = b := by rw [Nat.shiftRight_eq_div_pow, ← hb]
  rw [routeLink, he]
  simp only [ha, hshift]
  rw [if_neg]
  intro h
  refine hprimary ?_
  simp only [Bool.and_eq_true, Bool.not_eq_true', Bool.and_eq_false_iff, decide_eq_false_iff_not, Bool.not_eq_false',
    decide_eq_true_eq] at h
  obtain ⟨⟨hbit, hup⟩, hnarrow⟩ := h
  exact ⟨hbit, hup, fun hst => hnarrow.resolve_left (not_not.mpr hst)⟩

end

/-! ### Packets that go on (R468, R731) -/

section
variable {l : Nat} {p : Packet} {k : Link} {m : Dev} (hk : linkAt m l = k) (hf : forwarding m = true) (hup : linkUp k = true)
  (hdest : m.net.position ≠ some p.dest)
include hk hf hup hdest

/-- R462, R468: a packet leaves on the link of its route, and its frames are owed to the link that it came on. -/
theorem packetForward_leaves {a : Nat} (hroute : routeLink m p.dest = some a)
    (htakes : (linkAt m a).takes p.vc (packetBytes p) = true) :
    ∃ links, packetForward l p m = { m with out := m.out ++ [.packet a p], net := { m.net with links := links } }
      ∧ (∀ j, j ≠ l → j ≠ a → linkAt (packetForward l p m) j = linkAt m j)
      ∧ (a ≠ l → linkAt (packetForward l p m) l = takenFrames k p.vc (min (unitFrames (packetBytes p)) (nth 0 k.rx p.vc)))
      ∧ (linkAt (packetForward l p m) a).credit
          = setNth (linkAt m a).credit p.vc (nth 0 (linkAt m a).credit p.vc - unitFrames (packetBytes p)) := by
  have htaken := (LinkStep.refl hk).unitTaken p.vc (packetBytes p)
  have hcredit : (linkAt (unitTaken l p.vc (packetBytes p) m) a).credit = (linkAt m a).credit
      ∧ (linkAt (unitTaken l p.vc (packetBytes p) m) a).takes p.vc (packetBytes p) = true := by
    by_cases ha : a = l
    · subst ha
      rw [htaken.link]
      rw [hk] at htakes ⊢
      exact ⟨rfl, htakes⟩
    · rw [htaken.other a ha]
      exact ⟨rfl, htakes⟩
  obtain ⟨links, hsent, hother, _, _, _, _, _, hlink⟩ := sendUnit_takes _ a p.vc (packetBytes p) (.packet a p) hcredit.2
  have hrun : packetForward l p m = sendUnit (unitTaken l p.vc (packetBytes p) m) a p.vc (packetBytes p) (.packet a p) := by
    simp [packetForward, hf, hdest, hk, hup, hroute]
  rw [hrun]
  refine ⟨links, hsent, fun j hjl hja => (hother j hja).trans (htaken.other j hjl), fun ha => ?_, ?_⟩
  · rw [hother l ha.symm, htaken.link]
  · rw [hlink, ← hcredit.1]

/-- R731: a packet without a route is discarded and counted. -/
theorem packetForward_noRoute (hroute : routeLink m p.dest = none) :
    LinkStep l { takenFrames k p.vc (min (unitFrames (packetBytes p)) (nth 0 k.rx p.vc)) with noRoute := min (k.noRoute + 1) 15 } [] [] m
      (packetForward l p m) := by
  have hstep := ((LinkStep.refl hk).unitTaken p.vc (packetBytes p)).updLink fun x => { x with noRoute := sat 4 (x.noRoute + 1) }
  have hrun : packetForward l p m
      = updLink (unitTaken l p.vc (packetBytes p) m) l fun x => { x with noRoute := sat 4 (x.noRoute + 1) } := by
    simp [packetForward, hf, hdest, hk, hup, hroute]
  rw [hrun]
  exact hstep

end

/-! ### Packets for this module (R464) -/

section
variable {l : Nat} {p : Packet} {k : Link} {m : Dev}

/-- R464: a WRITE packet outside the engines' windows is its window's business alone. -/
theorem bulkReceive_write (hk : linkAt m l = k) (hf : forwarding m = true) (hup : linkUp k = true) (hdeep : m.power.deep = 0)
    (hdest : m.net.position = some p.dest) (htype : p.type = 1) (hwindow : p.window < 0xF000) :
    bulkReceive l p m = (windowWrite l p m).2 := by
  have hwake : packetWake m = m := by simp [packetWake, hdeep]
  have hengine : p.window ≠ 0xF100 ∧ p.window ≠ 0xF200 ∧ ¬(0xF000 ≤ p.window ∧ p.window < 0xF100) := by omega
  rw [bulkReceive, if_neg (by simp [hf, hk, hup, hdeep]), if_neg (not_not.mpr hdest)]
  simp only [hwake, htype, writeIn]
  split
  · simp only [hengine, if_false]
  · rfl

/-- The memory under a run of a window of one piece. -/
theorem spanPieces_one {a size o n : Nat} (hn : 0 < n) (hin : o + n ≤ size) : spanPieces [(a, size)] o n = [(a + o, n)] := by
  have hmin : min n (size - o) = n := by omega
  simp [spanPieces, hn.ne', show ¬size ≤ o by omega, hmin]

/-- R464: the data of a packet that its window takes go into the memory under it. -/
theorem windowWrite_takes {w : Window} {a : Nat} (hw : windowFor m p.window p.src = some w) (hcrc : p.crcOk = true)
    (hin : p.offset + p.payload.length ≤ w.size) (hpieces : w.pieces = [(a, w.size)]) (hlen : 0 < p.payload.length)
    (hpoison : p.poisonMap = 0) (hjobs : ∀ x ∈ m.jobs, x.2.secure.protectedPages = []) (hhost : underHost m (a + p.offset) p.payload.length = false) :
    (windowWrite l p m).2
      = { unitTaken l p.vc (packetBytes p) m with mem := memWrite m.mem (a + p.offset) p.payload } := by
  have hgoes := ownWrite_goes (m := unitTaken l p.vc (packetBytes p) m) (a := a + p.offset) (l := p.payload) hhost
    (touchPages_unprotected (m := unitTaken l p.vc (packetBytes p) m) hjobs _ _)
  have hw' : windowFor (unitTaken l p.vc (packetBytes p) m) p.window p.src = some w := hw
  simp only [windowWrite, hw', hcrc, hin, decide_true, Bool.and_self, hpieces, spanPieces_one hlen hin, piecesWrite, List.take_length,
    hpoison, hgoes, Bool.false_eq_true, if_false]
  simp [bitsOf]
  rfl

/-- R464: a packet that no window takes is counted, and its window's event comes once in a stroke. -/
theorem windowWrite_none (hk : linkAt m l = k) (hw : windowFor m p.window p.src = none) :
    ∃ t evq, LinkStep l { takenFrames k p.vc (min (unitFrames (packetBytes p)) (nth 0 k.rx p.vc)) with window := min (k.window + 1) 15 }
        [] [] m t
      ∧ (windowWrite l p m).2 = { t with
        net := { t.net with winFaults := if p.window ∈ m.net.winFaults then m.net.winFaults else m.net.winFaults ++ [p.window] }
        ctl := { t.ctl with evq := evq } }
      ∧ (p.window ∈ m.net.winFaults → evq = m.ctl.evq) := by
  have hstep := ((LinkStep.refl hk).unitTaken p.vc (packetBytes p)).updLink fun x => { x with window := sat 4 (x.window + 1) }
  have hw' : windowFor (unitTaken l p.vc (packetBytes p) m) p.window p.src = none := hw
  refine ⟨_, (windowWrite l p m).2.ctl.evq, hstep, ?_⟩
  rw [windowWrite]
  simp only [hw']
  by_cases hseen : p.window ∈ m.net.winFaults
  · rw [if_pos (by exact hseen), if_pos hseen]
    exact ⟨rfl, fun _ => rfl⟩
  · rw [if_neg (by exact hseen), if_neg hseen]
    refine ⟨?_, fun h => absurd h hseen⟩
    simp only
    split
    · obtain ⟨evq, h⟩ := raiseJob_frame
        (updNet (updLink (unitTaken l p.vc (packetBytes p) m) l fun x => { x with window := sat 4 (x.window + 1) }) fun n => { n with winFaults := n.winFaults ++ [p.window] }) _ 0x0B62 0
        (leBytes 1 l ++ zeros 1 ++ leBytes 2 p.src ++ leBytes 2 p.window ++ zeros 2 ++ leBytes 8 p.offset)
      rw [h]
      rfl
    · rfl

end

/-- Settles O19: `packetForward` by the link that `routeLink` gives; a packet for this module is `windowWrite`, whose window takes it or
not. -/
theorem packetsFindTheirWay : Obligations.PacketsFindTheirWay := by
  unfold Obligations.PacketsFindTheirWay
  intro s l p k hk hf hup hdeep n taken leaves
  constructor
  · intro e a b hwf he ha hb hdest primary
    have hleaves : ∀ {a}, routeLink s.m p.dest = some a → (linkAt s.m a).takes p.vc (packetBytes p) = true →
        ∃ t, exec (.bulkPacketForward l p) s = .next t ∧ leaves a t := fun hroute htakes => by
      obtain ⟨links, hframe, hother, hlink, hcredit⟩ := packetForward_leaves hk hf hup hdest hroute htakes
      refine ⟨_, onDev_next (c := .bulkPacketForward l p) _ s hwf, ?_, hother, hlink, hcredit, ?_⟩
      · simp only [hframe]
      · simp only [hframe]
    refine ⟨fun hprimary htakes => hleaves (routeLink_primary he ha hprimary.1 hprimary.2.1 hprimary.2.2) htakes,
      fun hprimary => ⟨fun hbit htakes => hleaves ?_ htakes, fun hnone => ?_⟩⟩
    · have hupb : linkUp (linkAt s.m b) = true := by
        simp only [Link.takes, Bool.and_eq_true] at htakes
        exact htakes.1.1.1.1.1.1
      rw [routeLink_alternate he ha hb hprimary, hbit, hupb]
      rfl
    · have h := packetForward_noRoute hk hf hup hdest (by
        rw [routeLink_alternate he ha hb hprimary]
        rcases hnone with h | h <;> simp [h])
      exact ⟨_, onDev_next (c := .bulkPacketForward l p) _ s hwf, h.link, h.other, congrArg (fun m => { s with m := m }) h.only⟩
  · intro hwf hdest htype hwindow hpoison
    have hrow := bulkReceive_write hk hf hup hdeep hdest htype hwindow
    refine ⟨fun w a hw hcrc hin hpieces hjobs hhost => ?_, fun hw => ?_⟩
    · have hlen : 0 < p.payload.length := by
        simp only [Instr.wf, Packet.wf, Bool.and_eq_true, decide_eq_true_eq] at hwf
        omega
      have htaken := (LinkStep.refl hk).unitTaken p.vc (packetBytes p)
      rw [windowWrite_takes hw hcrc hin hpieces hlen hpoison hjobs hhost] at hrow
      refine ⟨_, onDev_next_of (c := .bulkPacketReceive l p) hwf hrow, fun i hi => memByte_memWrite_in s.m.mem _ _ i hi,
        fun j hj => memByte_memWrite_out s.m.mem _ _ j hj, htaken.link, htaken.other, ?_⟩
      rfl
    · obtain ⟨t, evq, hstep, hrun, hkept⟩ := windowWrite_none (p := p) hk hw
      rw [hrun] at hrow
      refine ⟨_, onDev_next_of (c := .bulkPacketReceive l p) hwf hrow, hstep.link, hstep.other, ?_, fun hseen => ?_, ?_⟩
      · show p.window ∈ if _ then _ else _
        split
        · assumption
        · simp
      · show { t.ctl with evq := evq } = s.m.ctl
        rw [hkept hseen, hstep.frame]
      · rw [hstep.frame]
        simp

end Sys2Proof.Machine
end

section
/-! PROOFS of the family 18_boot_firmware_security: which commands change the boot flash, the fuses and the start log, and that every
step keeps the flash table canonical and the fuses in their widths (R685, R687, R691, R696, R697). -/

namespace Sys2Proof.Machine

/-! ### The frame of every other command -/

/-- Every command that `mayChangeFlash` does not name is framed by the module alone. -/
theorem exec_dev_of_mayChangeFlash {c : Instr} (h : c.mayChangeFlash = false) (s : State) :
    ∃ m, exec c s = if c.wf = true then .next { s with m := m } else .fault .illFormed := by
  cases c
  all_goals cases h
  all_goals exact ⟨_, rfl⟩

/-- Settles O3: those commands are framed by the module alone. -/
theorem flashAndFusesFrame : Obligations.FlashAndFusesFrame := by
  intro c s t hc ht
  obtain ⟨m, hm⟩ := exec_dev_of_mayChangeFlash hc s
  rw [hm] at ht
  split at ht
  · cases ht
    rfl
  · cases ht

/-! ### What keeps the flash and the fuses sound -/

/-- Soundness does not speak of the start log. -/
theorem NonVol.ok.records {n : NonVol} (h : n.ok) (l : List StartRec) : NonVol.ok { n with records := l } := h

theorem NonVol.ok.changeLast {n : NonVol} (h : n.ok) (f : StartRec → StartRec) : (changeLast n f).ok := h.records _

theorem NonVol.ok.appendRecord {n : NonVol} (h : n.ok) (reason detail : Nat) : (appendRecord n reason detail).ok := h.records _

theorem twf_foldl_tset {α β : Type} [DecidableEq α] {d : α} (key : β → Nat) (val : β → α) (l : List β) :
    ∀ {t : Tab α}, twf d t = true → twf d (l.foldl (fun t x => tset d t (key x) (val x)) t) = true := by
  induction l with
  | nil => exact id
  | cons x l ih => exact fun h => ih (tset_twf (key x) (val x) h)

theorem NonVol.ok.flashWrite {n : NonVol} (h : n.ok) (a : Nat) (l : List Byte) : (flashWrite n a l).ok :=
  ⟨twf_foldl_tset (fun x : Nat × Byte => a + x.1) Prod.snd _ h.1, h.2⟩

/-- R697: erasing sectors keeps the table canonical. -/
theorem NonVol.ok.keep {n : NonVol} (h : n.ok) (f : Nat → Byte → Bool) :
    NonVol.ok { n with shipped := false, flash := tkeep n.flash f } := ⟨twf_filter _ h.1, h.2⟩

/-- R697: erasing sectors and programming pages keep the table canonical. -/
theorem NonVol.ok.imageEffect {n : NonVol} (h : n.ok) (c : Instr) : (imageEffect c n).ok := by
  unfold Machine.imageEffect
  split
  · exact (h.keep _).flashWrite ..
  · exact h.flashWrite ..
  · exact h

/-- R685, R689: a burn keeps REVOKED within its four fuses and MIN_SVN at 64 or below. -/
theorem NonVol.ok.burnFuses {n : NonVol} (h : n.ok) : (burnFuses n).ok := by
  obtain ⟨hflash, _, hsvn⟩ := h
  refine ⟨hflash, Nat.mod_lt _ (by decide), ?_⟩
  show (if _ then max n.minSvn (min _ 64) else n.minSvn) ≤ 64
  split
  · exact max_le hsvn (min_le_right _ _)
  · exact hsvn

theorem NonVol.ok.interruptHeader {n : NonVol} (h : n.ok) (m : Dev) : (interruptHeader n m).1.ok := by
  unfold Machine.interruptHeader
  split
  · exact h
  · split
    · exact h.flashWrite ..
    · exact h

/-! ### Entering BOOT and OFF -/

theorem NonVol.ok.enterBoot {n : NonVol} (h : n.ok) (aon : Bool) (except : Option Nat) (m : Dev) : (enterBoot aon except n m).1.ok := by
  refine NonVol.ok.interruptHeader ?_ _
  split
  · exact h.changeLast _
  · exact h

theorem NonVol.ok.enterOff {n : NonVol} (h : n.ok) (m : Dev) : (enterOff n m).1.ok := h.interruptHeader m

theorem NonVol.ok.regulatorAlarm {n : NonVol} (h : n.ok) (rail alarm value : Nat) (holds : Bool) (m : Dev) :
    (regulatorAlarm rail alarm value holds n m).1.ok := by
  unfold Machine.regulatorAlarm
  split
  · exact h
  · dsimp only
    generalize (if alarm = 2 ∧ rail < 8 then vcoreDroop rail _ else _) = m'
    split
    · exact h
    · exact h.enterOff _

theorem NonVol.ok.powerOn {n : NonVol} (h : n.ok) (m : Dev) : (powerOn n m).1.ok := by
  unfold Machine.powerOn
  split
  · dsimp only
    split
    · exact h
    · exact h.enterBoot ..
  · exact h

theorem NonVol.ok.resetHigh {n : NonVol} (h : n.ok) (m : Dev) : (resetHigh n m).1.ok := by
  unfold Machine.resetHigh
  dsimp only
  split
  · exact h
  · exact h.enterBoot ..

/-! ### Starts and restarts -/

theorem NonVol.ok.startFails {n : NonVol} (h : n.ok) (reason detail : Nat) (m : Dev) : (startFails reason detail n m).1.ok := h.changeLast _

theorem NonVol.ok.startStep {n : NonVol} (h : n.ok) (fails : List Nat) (m : Dev) : (startStep fails n m).1.ok := by
  unfold Machine.startStep
  split
  · exact h
  · dsimp only
    split
    · exact h.appendRecord ..
    · split
      · exact h
      · exact h.startFails ..
    · split
      · exact h
      · exact h.startFails ..
    · exact h
    · exact h
    · exact h
    · exact (h.changeLast _).burnFuses

theorem NonVol.ok.startFailed {n : NonVol} (h : n.ok) (reason detail : Nat) (m : Dev) : (startFailed reason detail n m).1.ok := by
  unfold Machine.startFailed
  split
  · exact h.startFails ..
  · exact h

theorem NonVol.ok.startWatchdog {n : NonVol} (h : n.ok) (m : Dev) : (startWatchdog n m).1.ok := by
  unfold Machine.startWatchdog
  split
  · exact h.startFails ..
  · exact h

theorem NonVol.ok.startWaitEnd {n : NonVol} (h : n.ok) (m : Dev) : (startWaitEnd n m).1.ok := by
  unfold Machine.startWaitEnd
  split
  · split
    · exact h.enterBoot ..
    · exact h
  · exact h

theorem NonVol.ok.p5Restart {n : NonVol} (h : n.ok) (reason : Nat) (m : Dev) : (p5Restart reason n m).1.ok := by
  unfold Machine.p5Restart
  split
  · dsimp only
    generalize (if reason ≠ 0 then reason else _) = r
    split
    · exact h.appendRecord ..
    · exact h.burnFuses
  · exact h

/-! ### Resets and the image service -/

theorem NonVol.ok.resetNow {n : NonVol} (h : n.ok) (mb accept done : Nat) (m : Dev) : (resetNow mb accept done n m).1.ok := by
  unfold Machine.resetNow
  split
  · exact h
  · exact h.enterBoot ..

theorem NonVol.ok.resetDeferred {n : NonVol} (h : n.ok) (m : Dev) : (resetDeferred n m).1.ok := by
  unfold Machine.resetDeferred
  split
  · split
    · exact h
    · exact h.resetNow ..
  · exact h

theorem NonVol.ok.applyReset {n : NonVol} (h : n.ok) (c : CmdSpec) (accept k : Nat) (m : Dev) : (applyReset c accept k n m).1.ok := by
  unfold Machine.applyReset
  split
  · exact h
  · exact h.resetNow ..

theorem NonVol.ok.moduleReset {n : NonVol} (h : n.ok) (mb flags : Nat) (m : Dev) : (moduleReset mb flags n m).1.ok := by
  unfold Machine.moduleReset
  dsimp only
  split
  · exact h
  · exact h.resetNow ..

theorem NonVol.ok.withFlash {n : NonVol} (h : n.ok) (c : Instr) (f : Dev → Dev) (m : Dev) : (withFlash c f n m).1.ok := by
  show NonVol.ok (if _ then n else Machine.imageEffect c n)
  split
  · exact h
  · exact h.imageEffect c

theorem NonVol.ok.flashDone {n : NonVol} (h : n.ok) (ok : Bool) (m : Dev) : (flashDone ok n m).1.ok := by
  unfold Machine.flashDone
  split
  · exact h
  · split
    · exact h
    · split
      · exact h
      · split
        · dsimp only
          split
          · exact h
          · exact h.flashWrite ..
        · exact h

/-! ### The ends of local strokes and the watcher's reports -/

theorem NonVol.ok.applyLocal {x : NonVol × Dev} (h : x.1.ok) (k : Nat) (a : Accepted) : (applyLocal k x a).1.ok := by
  unfold Machine.applyLocal
  split
  · exact h
  · dsimp only
    split
    · exact h.applyReset ..
    · split
      · exact h.withFlash ..
      · exact h

theorem NonVol.ok.foldl_applyLocal (k : Nat) (l : List Accepted) : ∀ {x : NonVol × Dev}, x.1.ok → (l.foldl (Machine.applyLocal k) x).1.ok := by
  induction l with
  | nil => exact id
  | cons a l ih => exact fun h => ih (h.applyLocal k a)

theorem NonVol.ok.localTick {n : NonVol} (h : n.ok) (m : Dev) : (localTick n m).1.ok := by
  unfold Machine.localTick
  split
  case h_4 =>
    dsimp only
    exact NonVol.ok.foldl_applyLocal _ _ (x := (n, localEnds m)) h
  all_goals exact h

theorem NonVol.ok.acceptRequest {n : NonVol} (h : n.ok) (i : Instr) (m : Dev) : (acceptRequest i n m).1.ok := by
  unfold Machine.acceptRequest
  split
  · exact h.moduleReset ..
  · exact h
  · split <;> exact h

theorem NonVol.ok.watcherReport {n : NonVol} (h : n.ok) (mb : Nat) (m : Dev) : (watcherReport mb n m).1.ok := by
  unfold Machine.watcherReport
  split
  · exact h
  · dsimp only
    split
    · exact h
    · exact h.acceptRequest ..

/-! ### The obligation -/

/-- A row whose operation keeps the flash and the fuses sound keeps them sound. -/
theorem NonVol.ok.of_next {b : Bool} {t u : State}
    (ht : (if b = true then Host.Outcome.next u else .fault Fault.illFormed : Host.Outcome State Fault Refusal) = .next t) (h : u.nv.ok) :
    t.nv.ok := by
  split at ht
  · cases ht
    exact h
  · cases ht

theorem NonVol.ok.of_onBoot (c : Instr) (f : NonVol → Dev → NonVol × Dev) {s t : State} (h : (f s.nv s.m).1.ok)
    (ht : Machine.onBoot c f s = .next t) : t.nv.ok := NonVol.ok.of_next ht h

theorem exec_keeps_ok {c : Instr} {s t : State} (h : s.nv.ok) (ht : exec c s = .next t) : t.nv.ok := by
  cases hc : c.mayChangeFlash with
  | false => exact flashAndFusesFrame c s t hc ht ▸ h
  | true =>
    unfold Instr.mayChangeFlash at hc
    split at hc
    case h_1 => exact NonVol.ok.of_onBoot .powerOn powerOn (h.powerOn _) ht
    case h_2 => exact NonVol.ok.of_onBoot .inputShutdown inputShutdown (h.enterOff _) ht
    case h_3 => exact NonVol.ok.of_onBoot .resetNLow resetLow (h.enterOff _) ht
    case h_4 => exact NonVol.ok.of_onBoot .resetNHigh resetHigh (h.resetHigh _) ht
    case h_5 => exact NonVol.ok.of_next ht (h.regulatorAlarm ..)
    case h_6 fails => exact NonVol.ok.of_onBoot (.startStep fails) (startStep fails) (h.startStep ..) ht
    case h_7 reason detail => exact NonVol.ok.of_onBoot (.startFailed reason detail) (startFailed reason detail) (h.startFailed ..) ht
    case h_8 => exact NonVol.ok.of_onBoot .startWatchdog startWatchdog (h.startWatchdog _) ht
    case h_9 => exact NonVol.ok.of_onBoot .startWaitEnd startWaitEnd (h.startWaitEnd _) ht
    case h_10 => exact NonVol.ok.of_next ht (h.p5Restart ..)
    case h_11 mb flags => exact NonVol.ok.of_onBoot (.moduleReset mb flags) (moduleReset mb flags) (h.moduleReset ..) ht
    case h_12 =>
      rw [exec_localStrokeTick] at ht
      cases ht
      exact (h.localTick _).resetDeferred _
    case h_13 ok => exact NonVol.ok.of_onBoot (.flashOperationDone ok) (flashDone ok) (h.flashDone ..) ht
    case h_14 mb => exact NonVol.ok.of_onBoot (.watcherReport mb) (watcherReport mb) (h.watcherReport ..) ht
    case h_15 => cases hc

/-- Settles O4: a command that may change the flash is one of the operations above, and every other leaves it as it is. -/
theorem flashAndFusesStaySound : Obligations.FlashAndFusesStaySound := by
  intro s t h ht
  unfold step at ht
  split at ht
  · cases ht
    exact h
  · rename_i rest _
    exact exec_keeps_ok (s := { s with pending := rest }) h ht

end Sys2Proof.Machine
end

section
/-! PROOFS of the family 17_host_port_partitions: queue pairs and the messages of the Ethernet port (R656, R657, R660, R661, R663, R665). -/

namespace Sys2Proof.Machine

/-! ### One queue pair changes -/

theorem updQp_listed {m : Dev} {qp : Nat} {q : Qp} (hq : tfind m.port.qps qp = some q) (f : Qp → Qp) :
    updQp m qp f = { m with port := { m.port with qps := tput m.port.qps qp (f q) } } := by
  rw [updQp, updPort, tupd_listed hq]

theorem updQp_updQp {m : Dev} {qp : Nat} {q : Qp} (hq : tfind m.port.qps qp = some q) (f g : Qp → Qp) :
    updQp (updQp m qp f) qp g = updQp m qp (g ∘ f) := by
  rw [updQp_listed hq, updQp_listed (q := f q) ((tfind_tput ..).trans (if_pos rfl)), updQp_listed hq]
  simp only [tput_tput]
  rfl

/-- R663: 50 µs have passed since the last time, if there was one. -/
theorem spaced_iff {m : Dev} {last : Option Nat} : spaced m last = true ↔ ∀ c, last = some c → c + 35000 ≤ m.cycle := by
  cases last <;> simp [spaced]

theorem not_spaced {m : Dev} {c : Nat} (h : m.cycle < c + 35000) : spaced m (some c) = false := by simp [spaced, h]

/-! ### Opening a queue pair (R660) -/

theorem exec_cmReq (s : State) {service remote : Nat} {src : List Byte} (h : (Instr.cmReq service src remote).wf = true) :
    exec (.cmReq service src remote) s = .next { s with m := cmReq service src remote s.m } := onDev_next (c := .cmReq service src remote) _ s h

/-- A row of one queue pair, whose number fits. -/
theorem qpRow_wf {qp : Nat} (h : qp < 16777216) : boundsWf [(qp, 16777216)] = true := by simp [boundsWf, h]

/-! ### Retransmission (R661) -/

section
variable {m : Dev} {qp : Nat} {q : Qp} (hq : tfind m.port.qps qp = some q) (he : q.error = false)
include hq he

theorem ackTimeout_retries (h : q.retries < 7) : ackTimeout qp m = { m with
    port := { m.port with retransmits := min (m.port.retransmits + 1) (2 ^ 32 - 1)
                          qps := tput m.port.qps qp { q with retries := q.retries + 1 } }
    out := m.out ++ [.retransmit qp q.psn] } := by
  simp only [ackTimeout, liveQp_of hq he, if_pos h, updQp_listed hq]
  rfl

theorem ackTimeout_fails (h : 7 ≤ q.retries) : ackTimeout qp m = raisePart { m with
    port := { m.port with qps := tput m.port.qps qp { q with error := true } } } q.part 0x0106 0 (leBytes 4 qp ++ leBytes 1 0) := by
  simp only [ackTimeout, liveQp_of hq he, if_neg (Nat.not_lt.mpr h), qpFails, updQp_listed hq]

theorem nakReceive_sequence (psn : Nat) : nakReceive qp psn 0 m = { m with
    port := { m.port with retransmits := min (m.port.retransmits + 1) (2 ^ 32 - 1)
                          qps := tput m.port.qps qp { q with psn := psn, retries := 0 } }
    out := m.out ++ [.retransmit qp psn] } := by
  simp only [nakReceive, liveQp_of hq he, if_true, updQp_listed hq]
  rfl

/-! ### Congestion (R663) -/

theorem ecnMarked_spaced (h : spaced m q.lastCnpOut = true) : ecnMarked qp m = { m with
    port := { m.port with qps := tput m.port.qps qp { q with lastCnpOut := some m.cycle } }, out := m.out ++ [.cnp qp] } := by
  simp only [ecnMarked, liveQp_of hq he, if_pos h, updQp_listed hq]
  rfl

theorem ecnMarked_early (h : spaced m q.lastCnpOut = false) : ecnMarked qp m = m := by
  simp [ecnMarked, liveQp_of hq he, h]

theorem rateRaise_spaced (h : spaced m q.lastCnp = true) : rateRaise qp m = { m with
    port := { m.port with qps := tput m.port.qps qp { q with rate := min (lineRate m) (q.rate + lineRate m / 64) } } } := by
  simp only [rateRaise, liveQp_of hq he, if_pos h, updQp_listed hq]

theorem rateRaise_early (h : spaced m q.lastCnp = false) : rateRaise qp m = m := by
  simp [rateRaise, liveQp_of hq he, h]

/-- A notification is counted and noted, and cuts the rate unless the last cut is too near. -/
theorem cnpReceive_eq : cnpReceive qp m = { m with port := { m.port with
    cnpRx := min (m.port.cnpRx + 1) (2 ^ 32 - 1)
    qps := tput m.port.qps qp (if spaced m q.lastCut = true then
        { q with lastCnp := some m.cycle, rate := max 1000000000 (q.rate / 2), lastCut := some m.cycle }
      else { q with lastCnp := some m.cycle }) } } := by
  have hcounted : tfind (updPort m fun t => { t with cnpRx := sat 32 (t.cnpRx + 1) }).port.qps qp = some q := hq
  have hspaced : ∀ f g, spaced (updQp (updPort m f) qp g) q.lastCut = spaced m q.lastCut := fun _ _ => rfl
  simp only [cnpReceive, liveQp_of hq he]
  rw [hspaced]
  by_cases h : spaced m q.lastCut = true
  · rw [if_pos h, if_pos h, updQp_updQp hcounted, updQp_listed hcounted]
    rfl
  · rw [if_neg h, if_neg h, updQp_listed hcounted]
    rfl

end

/-- Settles O8: each row of a queue pair changes its one entry as the lemmas above say. -/
theorem queuePairs : Obligations.QueuePairs := by
  unfold Obligations.QueuePairs
  refine ⟨⟨fun s p remote src hwf hp => ?_, fun s qp hqp => ?_⟩, fun s qp q hqp hq he => ⟨fun h => ?_, fun h => ?_, fun psn hpsn => ?_⟩,
    fun s qp q hqp hq he => ⟨fun h => ?_, fun c hc h => ?_, fun h => ?_, fun c hc h => ?_, fun h => ?_, fun c hc h => ?_⟩⟩
  · rw [exec_cmReq s hwf]
    simp only [cmReq, Nat.add_sub_cancel_left, Nat.le_add_right, hp, true_and, qpsOf, qpsLive]
    rfl
  · exact onDev_next (c := .cmDreq qp) _ s (qpRow_wf hqp)
  · exact onDev_next_of (c := .rdmaAckTimeout qp) (qpRow_wf hqp) (ackTimeout_retries hq he h)
  · exact ⟨_, onDev_next_of (c := .rdmaAckTimeout qp) (qpRow_wf hqp) (ackTimeout_fails hq he h), rfl, rfl, rfl⟩
  · refine (onDevW_next (nakReceive qp psn 0) s ?_).trans (by rw [nakReceive_sequence hq he psn])
    simp [wfRdmaNakReceive, boundsWf, hqp, hpsn]
  · exact onDev_next_of (c := .ecnMarkedPacket qp) (qpRow_wf hqp) (ecnMarked_spaced hq he (spaced_iff.mpr h))
  · exact onDev_next_of (c := .ecnMarkedPacket qp) (qpRow_wf hqp) (ecnMarked_early hq he (hc ▸ not_spaced h))
  · exact (onDevW_next (rateRaise qp) s (qpRow_wf hqp)).trans (by rw [rateRaise_spaced hq he (spaced_iff.mpr h)])
  · exact (onDevW_next (rateRaise qp) s (qpRow_wf hqp)).trans (by rw [rateRaise_early hq he (hc ▸ not_spaced h)])
  · exact onDev_next_of (c := .cnpReceive qp) (qpRow_wf hqp) (by rw [cnpReceive_eq hq he, if_pos (spaced_iff.mpr h)])
  · exact onDev_next_of (c := .cnpReceive qp) (qpRow_wf hqp) (by rw [cnpReceive_eq hq he, hc, not_spaced h]; rfl)

/-! ### Messages of the port -/

/-- R665: a Sync sets the clock and its offset, and a delay request follows; the lock is as it was. -/
theorem ptpMessage_sync {m : Dev} (time : Nat) (offset : Int) (hcfg : m.port.ptpCfg ≠ 0) (hpower : powerState m < 4) :
    ptpMessage 0 time offset m.port.ptpLocked m = { m with
      port := { m.port with ptpTime := time, ptpAt := m.cycle, ptpOffset := offset }, out := m.out ++ [.ptpDelayReq] } := by
  simp only [ptpMessage, hcfg, Nat.not_le.mpr hpower, if_false, if_true, setPtp, updPort_port]
  rfl

/-- R657: the port holds the IPv4 address of each configured partition. -/
theorem portHolds_ipv4 {m : Dev} {p : Nat} {x : Part} (hx : tfind m.port.parts p = some x) (hcfg : x.configured = true) (hip : x.ipv4 ≠ 0) :
    portHolds m (leBytes 4 x.ipv4) = true := by
  simp only [portHolds, Bool.or_eq_true, List.any_eq_true]
  exact .inr ⟨(p, x), mem_of_tfind hx, by simp [hcfg, hip]⟩

/-- R677: another mode is told. -/
theorem setPortMode_changes {m : Dev} {mode : Nat} (cause : Nat) (hmode : m.port.mode ≠ mode) :
    ∃ up lpi, setPortMode m mode cause = raiseModule { m with port := { m.port with mode := mode, upSince := up, lpi := lpi } } 0x0104 0
      (leBytes 1 m.port.mode ++ leBytes 1 mode ++ leBytes 1 cause) := ⟨_, _, if_neg hmode⟩

/-- R664: a change to another mode is told, and low-power idle is as the partner and the mode allow. -/
theorem portLinkChange_changes {m : Dev} {mode : Nat} (cause : Nat) (lpiOk : Bool) (hmode : mode ≠ m.port.mode) :
    ∃ up lpi, portLinkChange mode cause lpiOk m = raiseModule { m with port := { m.port with
        mode := mode, upSince := up, lpi := lpi
        lpiOk := lpiOk && decide (mode = 1 ∨ mode = 2) && decide (m.port.lpiCfg = 1) } } 0x0104 0
      (leBytes 1 m.port.mode ++ leBytes 1 mode ++ leBytes 1 cause) :=
  setPortMode_changes (m := updPort m _) cause hmode.symm

/-- Settles O9: each message is one change of the port, the lemmas above say which. -/
theorem portMessages : Obligations.PortMessages := by
  unfold Obligations.PortMessages
  refine ⟨fun s time offset hwf hcfg hpower => ?_, fun s kind p x hkind hx hcfg hip => ?_, fun s priority quanta hwf => ?_,
    fun s mode cause lpiOk hwf hmode => ?_⟩
  · exact (onDevW_next (ptpMessage 0 time offset s.m.port.ptpLocked) s hwf).trans (by rw [ptpMessage_sync time offset hcfg hpower])
  · refine (onDevW_next (arpNdIcmp kind (leBytes 4 x.ipv4)) s ?_).trans (by rw [arpNdIcmp, if_pos (portHolds_ipv4 hx hcfg hip)]; rfl)
    simp [wfArpNdIcmp, boundsWf, hkind]
  · refine ⟨_, onDevW_next (pfcPause priority quanta) s hwf, rfl, rfl, fun p x hx => ?_⟩
    refine (tfind_tmap s.m.port.parts (fun _ p => if p.priority = priority then { p with paused := decide (quanta ≠ 0) } else p) p).trans ?_
    rw [hx, Option.map_some]
    split <;> rfl
  · obtain ⟨up, lpi, h⟩ := portLinkChange_changes cause lpiOk hmode
    exact ⟨_, onDev_next_of (c := .portLinkChange mode cause lpiOk) hwf h, rfl, rfl, rfl, rfl, rfl⟩

end Sys2Proof.Machine
end

section
/-! PROOFS of the family 16_power_thermal: priming, the power brake and the droop response (R642 to R645). -/

namespace Sys2Proof.Machine

/-- A table whose every listed value changes reads the changed value, when the default stays. -/
theorem tget_tmap {α β : Type} {d : α} {e : β} {g : Nat → α → β} (hg : ∀ k, g k d = e) (t : Tab α) (k : Nat) :
    tget e (tmap t g) k = g k (tget d t k) := by
  unfold tget
  rw [tfind_tmap]
  cases tfind t k with
  | none => exact (hg k).symm
  | some v => rfl

/-! ### Priming (R642, R643) -/

section
variable {m : Dev} {d : Nat}

/-- Only the power state of die `d` changes, to `y`. -/
theorem updPdie_only (s : State) (f : PwrDie → PwrDie) :
    (∀ k, pdieAt (updPdie s.m d f) k = if k = d then f (pdieAt s.m d) else pdieAt s.m k)
      ∧ ({ s with m := updPdie s.m d f } : State)
        = { s with m := { s.m with power := { s.m.power with dies := (updPdie s.m d f).power.dies } } } :=
  ⟨fun k => pdieAt_updPdie s.m d k f, rfl⟩

/-- R642: a die in P0 that waits for its cause starts at the level of the last 100 µs. -/
theorem primingStart_starts {cause activity : Nat} (hst : (pdieAt m d).st = 0) (hdeep : m.power.deep = 0) (hprime : (pdieAt m d).priming = false)
    (hbrake : m.power.brake = false) (hlo : 1 ≤ cause) (hhi : cause ≤ 3) (hen : bitOf m.power.primeEn (cause - 1) = true)
    (hholds : primeHolds m d cause = true) (hact : cause ≠ 2 ∨ 16384 ≤ activity) (hlevel : 1024 ≤ activity) :
    primingStart d cause activity m = updPdie m d fun x =>
      { x with priming := true, level := activity / 1024, cause := cause, rampDown := false, job := primeJob m d cause } :=
  if_pos ⟨hst, hdeep, by simp [hprime], by simp [hbrake], hlo, hhi, hen, hholds, hact, Nat.div_pos hlevel (by decide)⟩

/-- R643: once its cause has ended or its limit has passed, priming loses a level, and ends below level 1. -/
theorem primingStep_steps (hprime : (pdieAt m d).priming = true)
    (h : (pdieAt m d).rampDown = true ∨ primeHolds m d (pdieAt m d).cause = false) :
    primingStep d m = updPdie m d fun x => if x.level ≤ 1 then stopPriming x else { x with level := x.level - 1, rampDown := true } :=
  if_pos ⟨hprime, h.imp_right fun h => by simp [h]⟩

end

/-! ### The brake (R183, R644) -/

/-- What the brake leaves of an array. -/
def brakedArray (x : MArray) : MArray := { x with braked := true, ramped := false }

/-- The first `n` arrays of a die are braked. -/
def brakeArrays (n d : Nat) (m : Dev) : Dev := (List.range n).foldl (fun m a => updArray m d a brakedArray) m

theorem brakeArrays_succ (n d : Nat) (m : Dev) : brakeArrays (n + 1) d m = updArray (brakeArrays n d m) d n brakedArray := by
  simp [brakeArrays, List.range_succ]

theorem brakeArrays_frame (n d : Nat) (m : Dev) : ∃ arrays, brakeArrays n d m = { m with arrays := arrays } := by
  induction n with
  | zero => exact ⟨_, rfl⟩
  | succ n ih =>
    obtain ⟨arrays, h⟩ := ih
    rw [brakeArrays_succ, h]
    exact ⟨_, rfl⟩

theorem arrayAt_brakeArrays {n : Nat} (hn : n ≤ 48) (d : Nat) (m : Dev) (e : Nat) {a : Nat} (ha : a < 48) :
    arrayAt (brakeArrays n d m) e a = if e = d ∧ a < n then brakedArray (arrayAt m e a) else arrayAt m e a := by
  induction n with
  | zero => simp [brakeArrays]
  | succ n ih =>
    rw [brakeArrays_succ, arrayAt_updArray, ih (by omega)]
    by_cases hkey : e * 48 + a = d * 48 + n
    · obtain ⟨rfl, rfl⟩ : e = d ∧ a = n := by omega
      have := ih (by omega)
      simp_all
    · have hne : ¬(e = d ∧ a = n) := fun ⟨he, hx⟩ => hkey (by rw [he, hx])
      rw [if_neg hkey]
      congr 1
      simp only [eq_iff_iff]
      omega

/-- The arrays of those of the first `n` dies that are in P0 or P1 are braked. -/
def brakeDies (n : Nat) (m : Dev) : Dev :=
  (List.range n).foldl (fun m d => if (pdieAt m d).st < 2 then brakeArrays 48 d m else m) m

theorem brakeDies_succ (n : Nat) (m : Dev) : brakeDies (n + 1) m
    = if (pdieAt (brakeDies n m) n).st < 2 then brakeArrays 48 n (brakeDies n m) else brakeDies n m := by
  simp [brakeDies, List.range_succ]

theorem brakeDies_frame (n : Nat) (m : Dev) : ∃ arrays, brakeDies n m = { m with arrays := arrays } := by
  induction n with
  | zero => exact ⟨_, rfl⟩
  | succ n ih =>
    obtain ⟨arrays, h⟩ := ih
    rw [brakeDies_succ, h]
    split
    · exact brakeArrays_frame 48 n _
    · exact ⟨_, rfl⟩

theorem pdieAt_brakeDies (n : Nat) (m : Dev) (d : Nat) : pdieAt (brakeDies n m) d = pdieAt m d := by
  obtain ⟨arrays, h⟩ := brakeDies_frame n m
  rw [h]
  rfl

theorem arrayAt_brakeDies (n : Nat) (m : Dev) (d : Nat) {a : Nat} (ha : a < 48) :
    arrayAt (brakeDies n m) d a = if d < n ∧ (pdieAt m d).st < 2 then brakedArray (arrayAt m d a) else arrayAt m d a := by
  induction n with
  | zero => simp [brakeDies]
  | succ n ih =>
    rw [brakeDies_succ, pdieAt_brakeDies]
    by_cases hd : d = n
    · subst hd
      split
      next hst => rw [arrayAt_brakeArrays (le_refl _) _ _ _ ha, ih]; simp [hst, ha]
      next hst => rw [ih]; simp [hst]
    · have hother : arrayAt (if (pdieAt m n).st < 2 then brakeArrays 48 n (brakeDies n m) else brakeDies n m) d a
          = arrayAt (brakeDies n m) d a := by
        split
        · rw [arrayAt_brakeArrays (le_refl _) _ _ _ ha, if_neg (fun h => hd h.1)]
        · rfl
      rw [hother, ih]
      congr 1
      simp only [eq_iff_iff]
      omega

/-- The power hub under a brake that has just been asserted. -/
def brakedPower (cycle : Nat) (w : Power) : Power := { w with
  brakePin := true, brake := true, brakeAck := true, brakeHold := false, brakeStart := cycle
  brakes := min (w.brakes + 1) 65535, dies := tmap w.dies (fun _ => stopPriming) }

theorem brakeOn_brakes {m : Dev} (hst : m.sys.st ≠ .off) (hbrake : m.power.brake = false) :
    brakeOn (updPower m fun w => { w with brakePin := true }) = brakeDies 8 { m with power := brakedPower m.cycle m.power } :=
  if_neg (by simp [hst, hbrake])

theorem pdieAt_brakedPower (m : Dev) (d : Nat) :
    pdieAt { m with power := brakedPower m.cycle m.power } d = stopPriming (pdieAt m d) :=
  tget_tmap (d := ({} : PwrDie)) (e := ({} : PwrDie)) (g := fun _ => stopPriming) (fun _ => rfl) m.power.dies d

/-- A brake that is released reports its length and holds the cap loop. -/
def brakeReleased (m : Dev) : Dev :=
  raiseModule { m with power := { m.power with brakePin := false, brake := false, brakeAck := false, brakeHold := true } } 0x0905 0
    (leBytes 8 (m.cycle - m.power.brakeStart))

/-- Settles O45: priming and the droop change one die, and the brake the dies and their arrays. -/
theorem primingBrakeAndDroop : Obligations.PrimingBrakeAndDroop := by
  unfold Obligations.PrimingBrakeAndDroop
  refine ⟨fun s d x hd hx => ?_, fun s => ⟨fun hst hbrake => ?_, fun hbrake => ?_, rfl⟩⟩
  · subst hx
    have hwf : boundsWf [(d, 8)] = true := dieRow_wf hd
    refine ⟨fun cause activity hcause hactivity hst hdeep hprime hbrake hlo hhi hen hholds hact hlevel => ?_, fun hprime => ⟨fun hends =>
      ⟨fun hlevel => ?_, fun hlevel => ?_⟩, ?_⟩, ?_⟩
    · have hrow : (Instr.primingStart d cause activity).wf = true := by
        unfold Instr.wf
        simp [boundsWf, hd, hcause]
        omega
      exact ⟨_, onDev_next_of hrow (primingStart_starts hst hdeep hprime hbrake hlo hhi hen hholds hact hlevel), updPdie_only s _⟩
    · obtain ⟨hread, honly⟩ := updPdie_only (d := d) s
        (fun x => if x.level ≤ 1 then stopPriming x else { x with level := x.level - 1, rampDown := true })
      refine ⟨_, (onDevW_next (primingStep d) s hwf).trans (by rw [primingStep_steps hprime hends]), fun k => ?_, honly⟩
      rw [hread, if_neg (show ¬(pdieAt s.m d).level ≤ 1 by omega)]
    · obtain ⟨hread, honly⟩ := updPdie_only (d := d) s
        (fun x => if x.level ≤ 1 then stopPriming x else { x with level := x.level - 1, rampDown := true })
      refine ⟨_, (onDevW_next (primingStep d) s hwf).trans (by rw [primingStep_steps hprime hends]), fun k => ?_, honly⟩
      rw [hread, if_pos hlevel]
      rfl
    · obtain ⟨hread, honly⟩ := updPdie_only (d := d) s (fun x => if x.priming then { x with rampDown := true } else x)
      refine ⟨_, onDevW_next (primeLimit d) s hwf, fun k => ?_, honly⟩
      exact (hread k).trans (by rw [if_pos hprime])
    · exact ⟨_, onDevW_next (vcoreDroop d) s hwf, rfl, fun k => pdieAt_updPdie s.m d k fun x => { x with droopUntil := s.m.cycle + 64 }, rfl⟩
  · have hrow : exec .powerBrakeAssert s = .next { s with m := brakeDies 8 { s.m with power := brakedPower s.m.cycle s.m.power } } :=
      congrArg (fun m => Host.Outcome.next ({ s with m := m } : State)) (brakeOn_brakes hst hbrake)
    obtain ⟨arrays, hframe⟩ := brakeDies_frame 8 { s.m with power := brakedPower s.m.cycle s.m.power }
    refine ⟨_, hrow, ?_, fun d => ?_, fun d hd a ha => ?_, ?_⟩
    · simp only [hframe]
      rfl
    · rw [pdieAt_brakeDies, pdieAt_brakedPower]
      rfl
    · rw [arrayAt_brakeDies 8 _ d ha, pdieAt_brakedPower]
      simp only [hd, true_and]
      rfl
    · simp only [hframe]
  · have hrow : exec .powerBrakeRelease s = .next { s with m := brakeReleased s.m } :=
      congrArg (fun m => Host.Outcome.next ({ s with m := m } : State)) (if_pos hbrake)
    exact ⟨_, hrow, rfl, rfl⟩

end Sys2Proof.Machine
end

section
/-! PROOFS of the family 16_power_thermal: the intervals of the power cap, and the rise of the clock (R631 to R633, R637, R647). -/

namespace Sys2Proof.Machine

/-! ### Every key of a run of a table changes -/

/-- Changing the keys below `n` one after the other changes each of them once. -/
theorem tget_foldl_tmod_range {α : Type} [DecidableEq α] (d : α) (f : Nat → α → α) (t : Tab α) (n k : Nat) :
    tget d ((List.range n).foldl (fun t r => tmod d t r (f r)) t) k = if k < n then f k (tget d t k) else tget d t k := by
  induction n with
  | zero => simp
  | succ n ih =>
    rw [List.range_succ, List.foldl_append, List.foldl_cons, List.foldl_nil, tget_tmod]
    by_cases hk : k = n
    · subst hk
      rw [if_pos rfl, ih, if_neg (Nat.lt_irrefl _), if_pos (Nat.lt_succ_self _)]
    · rw [if_neg hk, ih]
      congr 1
      simp only [eq_iff_iff]
      omega

theorem foldl_updPdie (f : PwrDie → PwrDie) (l : List Nat) : ∀ m : Dev, l.foldl (fun m d => updPdie m d f) m
    = { m with power := { m.power with dies := l.foldl (fun t d => tmod {} t d f) m.power.dies } } := by
  induction l with
  | nil => exact fun _ => rfl
  | cons d l ih => exact fun m => (ih _).trans rfl

theorem pdieAt_foldl_updPdie (f : PwrDie → PwrDie) (m : Dev) {n d : Nat} (hd : d < n) :
    pdieAt ((List.range n).foldl (fun m d => updPdie m d f) m) d = f (pdieAt m d) := by
  rw [foldl_updPdie]
  exact (tget_foldl_tmod_range {} (fun _ => f) m.power.dies n d).trans (if_pos hd)

/-! ### What the regulators measure (R631, R632) -/

/-- R632: a rail that draws `power` for 10 µs. -/
def railMeasured (power : Nat) (x : Rail) : Rail := { x with power := power, energy := x.energy + intervalEnergy power }

/-- R631: the power hub at a point of the grid. -/
def powerMeasured (cycle : Nat) (rails : List Nat) (input : Nat) (w : Power) : Power := { w with
  gridAt := cycle
  rails := (List.range 32).foldl (fun t r => tmod {} t r (railMeasured (nth 0 rails r))) w.rails
  input := railMeasured input w.input }

def measured (rails : List Nat) (input : Nat) (m : Dev) : Dev := { m with power := powerMeasured m.cycle rails input m.power }

theorem railAt_measured (rails : List Nat) (input : Nat) (m : Dev) {r : Nat} (hr : r < 32) :
    railAt (measured rails input m) r = railMeasured (nth 0 rails r) (railAt m r) := by
  have hget := tget_foldl_tmod_range ({} : Rail) (fun r => railMeasured (nth 0 rails r)) m.power.rails 32 r
  rw [if_pos hr] at hget
  simpa only [railAt, measured, powerMeasured] using hget

theorem capTick_eq {m : Dev} (rails : List Nat) (input : Nat) (h : m.sys.st ≠ .off) :
    capTick rails input m = settle m.power.gridAt (floorCheck (govern (apportion (primeDither (measured rails input m))))) := by
  simp only [capTick, if_neg h]
  exact congrArg (fun x => settle m.power.gridAt (floorCheck (govern (apportion (primeDither x))))) rfl

/-! ### The dither of priming counts as activity (R642) -/

/-- From `m` to `t` only the matrix arrays have changed. -/
def ArraysOnly (m t : Dev) : Prop := ∃ arrays, t = { m with arrays := arrays }

theorem ArraysOnly.updArray {m t : Dev} (h : ArraysOnly m t) (d a : Nat) (f : MArray → MArray) : ArraysOnly m (updArray t d a f) := by
  obtain ⟨_, rfl⟩ := h
  exact ⟨_, rfl⟩

theorem primeDither_arraysOnly (m : Dev) : ArraysOnly m (primeDither m) := by
  refine List.foldlRecOn _ _ ⟨m.arrays, rfl⟩ fun t ht d _ => ?_
  dsimp only
  split
  · exact ht
  · exact List.foldlRecOn _ _ ht fun u hu a _ => hu.updArray d a _

/-! ### Energy on the accounts of jobs and partitions (R633) -/

/-- From `m` to `t` only the accounts of jobs and the idle accounts of partitions have changed. -/
structure Apportioned (m t : Dev) : Prop where
  frame : t = { m with jobs := t.jobs, port := { m.port with parts := t.port.parts } }
  parts : ∀ p, ∃ e, partAt t p = { partAt m p with idleEnergy := e }

namespace Apportioned
variable {m t : Dev}

theorem refl (m : Dev) : Apportioned m m := ⟨rfl, fun _ => ⟨_, rfl⟩⟩

theorem addIdle (h : Apportioned m t) (p : Nat) (e : Rat) : Apportioned m (addIdle p e t) where
  frame := by
    rw [h.frame]
    rfl
  parts q := by
    obtain ⟨x, hx⟩ := h.parts q
    rw [Machine.addIdle, partAt_updPart]
    split
    next hq =>
      subst hq
      exact ⟨x + e, by rw [hx]⟩
    next => exact ⟨x, hx⟩

theorem updJob (h : Apportioned m t) (s : Nat) (f : Job → Job) : Apportioned m (updJob t s f) where
  frame := by
    rw [h.frame]
    rfl
  parts := h.parts

theorem foldl {α : Type} {f : Dev → α → Dev} (h : Apportioned m t) (hf : ∀ u x, Apportioned m u → Apportioned m (f u x)) (l : List α) :
    Apportioned m (l.foldl f t) := by
  induction l generalizing t with
  | nil => exact h
  | cons x l ih => exact ih (hf t x h)

theorem spreadEnergy (h : Apportioned m t) (p : Nat) (e : Rat) (acts : Tab Nat) : Apportioned m (spreadEnergy p e acts t) := by
  unfold Machine.spreadEnergy
  split
  · exact h.addIdle p e
  · exact h.foldl (fun _ _ hu => hu.updJob _ _) acts

theorem configured (h : Apportioned m t) (p : Nat) : (partAt t p).configured = (partAt m p).configured := by
  obtain ⟨_, hx⟩ := h.parts p
  rw [hx]

theorem dies (h : Apportioned m t) (p : Nat) : (partAt t p).dies = (partAt m p).dies := by
  obtain ⟨_, hx⟩ := h.parts p
  rw [hx]

theorem share (h : Apportioned m t) (p : Nat) : (partAt t p).share = (partAt m p).share := by
  obtain ⟨_, hx⟩ := h.parts p
  rw [hx]

theorem power (h : Apportioned m t) : t.power = m.power := by rw [h.frame]

theorem dieOwner (h : Apportioned m t) (d : Nat) : dieOwner t d = dieOwner m d := by
  simp only [Machine.dieOwner, h.configured, h.dies]

theorem dieRails (h : Apportioned m t) (d : Nat) : dieRails t d = dieRails m d := by
  simp only [Machine.dieRails, railAt, h.power]

theorem sharedPower (h : Apportioned m t) : sharedPower t = sharedPower m := by
  simp only [Machine.sharedPower, railSum, railAt, h.power]

theorem configuredParts (h : Apportioned m t) : configuredParts t = configuredParts m := by
  simp only [Machine.configuredParts, h.configured]

end Apportioned

/-- R633: the interval's energy lies on accounts, and the activity counters are read. -/
theorem apportion_apportioned (m : Dev) : ∃ t act, Apportioned m t ∧ apportion m = { t with power := { t.power with lastAct := act } } := by
  refine ⟨_, _, ?_, rfl⟩
  refine Apportioned.addIdle (Apportioned.foldl (Apportioned.foldl (.refl m) (fun u d hu => ?_) _) (fun u p hu => ?_) _) _ _
  · dsimp only
    split
    · split
      · exact hu.spreadEnergy ..
      · exact (hu.spreadEnergy ..).updJob ..
    · exact hu.spreadEnergy ..
  · exact hu.spreadEnergy ..

/-! ### Without jobs all of it is idle energy (R633) -/

/-- Energies go onto the idle accounts of partitions. -/
def idled (l : List (Nat × Rat)) (m : Dev) : Dev := l.foldl (fun m x => addIdle x.1 x.2 m) m

theorem idled_apportioned {m t : Dev} (h : Apportioned m t) (l : List (Nat × Rat)) : Apportioned m (idled l t) :=
  h.foldl (fun _ _ hu => hu.addIdle _ _) l

theorem idled_jobs (l : List (Nat × Rat)) : ∀ m : Dev, (idled l m).jobs = m.jobs := by
  induction l with
  | nil => exact fun _ => rfl
  | cons x l ih => exact fun m => ih _

theorem idleEnergy_idled (p : Nat) (l : List (Nat × Rat)) : ∀ m : Dev, (partAt (idled l m) p).idleEnergy
    = (partAt m p).idleEnergy + ((l.filter (fun x => decide (x.1 = p))).map (·.2)).sum := by
  induction l with
  | nil => intro m; simp [idled]
  | cons x l ih =>
    intro m
    have hstep := ih (addIdle x.1 x.2 m)
    rw [addIdle, partAt_updPart] at hstep
    refine hstep.trans ?_
    by_cases hx : x.1 = p
    · simp [hx, add_assoc]
    · simp [hx, Ne.symm hx]

/-- A loop that only adds idle energy adds what each round names. -/
theorem foldl_idles {α : Type} {m : Dev} {step : Dev → α → Dev} (key : α → Nat) (e : α → Rat) (l : List α)
    (h : ∀ u x, x ∈ l → Apportioned m u → u.jobs = m.jobs → step u x = addIdle (key x) (e x) u) :
    ∀ {t : Dev}, Apportioned m t → t.jobs = m.jobs → l.foldl step t = idled (l.map fun x => (key x, e x)) t := by
  induction l with
  | nil => exact fun _ _ => rfl
  | cons x l ih =>
    intro t ht hj
    rw [List.foldl_cons, h t x List.mem_cons_self ht hj]
    exact ih (fun u y hy => h u y (List.mem_cons_of_mem _ hy)) (ht.addIdle _ _) hj

theorem jobAt_none_of_jobs {m : Dev} (h : m.jobs = []) (s : Nat) : jobAt m s = none := by simp [jobAt, h, tfind]

/-- Without jobs no unit works for one. -/
theorem dieActs_none {m : Dev} (h : m.jobs = []) (d : Nat) : dieActs m d = [] := by
  unfold dieActs
  generalize hl : List.foldl _ ([] : Tab Nat) (dieUnits m d) = l
  obtain rfl : l = [] := by
    rw [← hl]
    refine List.foldlRecOn (motive := (· = [])) _ _ rfl fun t ht u _ => ?_
    split
    · simpa [jobAt_none_of_jobs h] using ht
    · exact ht
  split
  · simp [jobAt_none_of_jobs h]
  · rfl

theorem spreadEnergy_idle (p : Nat) (e : Rat) (m : Dev) : spreadEnergy p e [] m = addIdle p e m := rfl

/-- The energies of an interval without jobs: those of the dies, of the shared rails and of the conversion loss. -/
def idleShares (m : Dev) : List (Nat × Rat) :=
  (List.range 8).map (fun d => (dieOwner m d, intervalEnergy (dieRails m d)))
    ++ (configuredParts m).map (fun p => (p, intervalEnergy (sharedPower m) * ((bitsOf 8 (partAt m p).dies).length : Nat) / 8))
    ++ [(0, intervalEnergy (railAt m 31).power)]

theorem nth_map_const_nil (f : Nat → Tab Nat) (hf : ∀ d, f d = []) (l : List Nat) (k : Nat) : nth [] (l.map f) k = [] := by
  rw [funext hf, nth, List.map_const', List.getD_eq_getElem?_getD, List.getElem?_replicate]
  split <;> rfl

theorem idled_append (l l' : List (Nat × Rat)) (m : Dev) : idled (l ++ l') m = idled l' (idled l m) := List.foldl_append

/-- No activity of a job: the activity of a partition is none. -/
theorem foldl_nil_of_forall {f : Nat → Tab Nat} (hf : ∀ d, f d = []) (l : List Nat) :
    l.foldl (fun (t : Tab Nat) d => (f d).foldl (fun t x => tmod 0 t x.1 (· + x.2)) t) [] = [] := by
  refine List.foldlRecOn (motive := (· = [])) _ _ rfl fun t ht d _ => ?_
  rw [hf, ht]
  rfl

/-- R633: without jobs the whole interval lies on idle accounts. -/
theorem apportion_idle {m : Dev} (h : m.jobs = []) :
    ∃ act, apportion m = updPower (idled (idleShares m) m) (fun w => { w with lastAct := act }) := by
  have hacts (d : Nat) : nth [] ((List.range 8).map (dieActs m)) d = [] := nth_map_const_nil _ (dieActs_none h) _ d
  unfold apportion
  dsimp only
  rw [foldl_idles (m := m) (dieOwner m) (fun d => intervalEnergy (dieRails m d)) (List.range 8) ?_ (.refl m) rfl]
  · have h1 := idled_apportioned (.refl m) ((List.range 8).map (fun d => (dieOwner m d, intervalEnergy (dieRails m d))))
    rw [foldl_idles (m := m) id (fun p => intervalEnergy (sharedPower m) * ((bitsOf 8 (partAt m p).dies).length : Nat) / 8) _ ?_ h1
      (idled_jobs _ m), ← idled_append]
    · rw [idleShares, idled_append _ [_]]
      exact ⟨_, rfl⟩
    · intro u p _ hu _
      rw [hu.dies, hu.sharedPower, foldl_nil_of_forall hacts, spreadEnergy_idle]
      rfl
  · intro u d _ hu _
    rw [hacts, spreadEnergy_idle, hu.dieRails, hu.dieOwner]
    split
    · exact if_pos rfl
    · rfl

theorem sum_idleShares (m : Dev) {p : Nat} (hp : p < 8) : (((idleShares m).filter (fun x => decide (x.1 = p))).map (·.2)).sum
    = (((List.range 8).filter (fun d => decide (dieOwner m d = p))).map (fun d => intervalEnergy (dieRails m d))).sum
      + (if (partAt m p).configured = true then intervalEnergy (sharedPower m) * ((bitsOf 8 (partAt m p).dies).length : Nat) / 8 else 0)
      + (if p = 0 then intervalEnergy (railAt m 31).power else 0) := by
  have hpart : (((configuredParts m).filter (fun q => decide (q = p))).map
      (fun q => intervalEnergy (sharedPower m) * ((bitsOf 8 (partAt m q).dies).length : Nat) / 8)).sum
      = if (partAt m p).configured = true then intervalEnergy (sharedPower m) * ((bitsOf 8 (partAt m p).dies).length : Nat) / 8 else 0 := by
    have hf : (configuredParts m).filter (fun q => decide (q = p)) = if (partAt m p).configured = true then [p] else [] := by
      have h8 : (List.range 8).filter (fun q => decide (q = p)) = [p] := by
        interval_cases p <;> rfl
      calc (configuredParts m).filter (fun q => decide (q = p))
          = ((List.range 8).filter (fun q => decide (q = p))).filter (fun q => (partAt m q).configured) := by
            simp only [configuredParts, List.filter_filter, Bool.and_comm]
        _ = _ := by simp [h8, List.filter_cons]
    rw [hf]
    split <;> simp
  simp only [idleShares, List.filter_append, List.map_append, List.sum_append, List.filter_map, List.map_map]
  congr 1
  · congr 1
  · by_cases h0 : p = 0
    · simp [h0]
    · simp [h0, Ne.symm h0]

/-! ### Governing, the floor and settling (R637, R640, R641) -/

/-- From `m` to `t` only duties, priming, the clock, the state of the cap loop and what waits and is reported have changed. -/
def CapLoopOnly (m t : Dev) : Prop := ∃ dies freq since above unreach floor ctl, t = { m with
  ctl := ctl
  power := { m.power with dies := dies, freq := freq, sinceRaise := since, above := above, capUnreach := unreach, capFloor := floor } }

namespace CapLoopOnly
variable {m t u : Dev}

theorem refl (m : Dev) : CapLoopOnly m m := ⟨_, _, _, _, _, _, _, rfl⟩

theorem trans (h : CapLoopOnly m t) (h' : CapLoopOnly t u) : CapLoopOnly m u := by
  obtain ⟨_, _, _, _, _, _, _, rfl⟩ := h
  obtain ⟨_, _, _, _, _, _, _, rfl⟩ := h'
  exact ⟨_, _, _, _, _, _, _, rfl⟩

theorem foldl_updPdie (m : Dev) (f : PwrDie → PwrDie) (l : List Nat) : CapLoopOnly m (l.foldl (fun m d => updPdie m d f) m) := by
  rw [Machine.foldl_updPdie]
  exact ⟨_, _, _, _, _, _, _, rfl⟩

theorem governScope (ds : List Nat) (s c : Nat) (may : Bool) (m : Dev) : CapLoopOnly m (governScope ds s c may m).2 := by
  unfold Machine.governScope
  dsimp only
  split
  · split
    · exact foldl_updPdie ..
    · split
      · exact ⟨_, _, _, _, _, _, _, rfl⟩
      · exact foldl_updPdie ..
  · split
    · exact foldl_updPdie ..
    · exact refl m

end CapLoopOnly

/-- R640: the floor counts, and reports. -/
theorem floorCheck_eq (m : Dev) : ∃ above unreach floor ctl, floorCheck m
    = { m with ctl := ctl, power := { m.power with above := above, capUnreach := unreach, capFloor := floor } } := by
  unfold floorCheck
  dsimp only
  split_ifs <;> exact ⟨_, _, _, _, rfl⟩

theorem floorCheck_capLoopOnly (m : Dev) : CapLoopOnly m (floorCheck m) := by
  obtain ⟨_, _, _, _, h⟩ := floorCheck_eq m
  exact ⟨_, _, _, _, _, _, _, h⟩

theorem pdieAt_floorCheck (m : Dev) (d : Nat) : pdieAt (floorCheck m) d = pdieAt m d := by
  obtain ⟨_, _, _, _, h⟩ := floorCheck_eq m
  rw [h]
  rfl

/-- From `m` to `t` only the module's control part has changed. -/
def CtlOnly (m t : Dev) : Prop := ∃ ctl, t = { m with ctl := ctl }

theorem finishWaits_ctlOnly {m t : Dev} (h : CtlOnly m t) (p : WaitFor → Bool) (f : Reply → Reply) : CtlOnly m (finishWaits t p f) := by
  obtain ⟨_, rfl⟩ := h
  exact ⟨_, rfl⟩

/-- R641: settling answers commands. -/
theorem settle_ctlOnly (start : Nat) (m : Dev) : CtlOnly m (settle start m) := by
  unfold settle
  dsimp only
  refine List.foldlRecOn _ _ ?_ fun t ht p _ => ?_
  · split
    · exact finishWaits_ctlOnly ⟨_, rfl⟩ _ _
    · split
      · exact finishWaits_ctlOnly ⟨_, rfl⟩ _ _
      · exact ⟨_, rfl⟩
  · split
    · exact finishWaits_ctlOnly ht _ _
    · split
      · exact finishWaits_ctlOnly ht _ _
      · exact ht

theorem CtlOnly.capLoopOnly {m t : Dev} (h : CtlOnly m t) : CapLoopOnly m t := by
  obtain ⟨_, rfl⟩ := h
  exact ⟨_, _, _, _, _, _, _, rfl⟩

/-- R637: whether a duty may rise. -/
def mayRaise (m : Dev) : Bool := decide (10 ≤ m.power.sinceRaise) && !m.power.brake && !m.power.brakeHold

/-- R638: a partition with a share is a scope of its own. -/
def governPart (may : Bool) (r : Bool × Dev) (p : Nat) : Bool × Dev :=
  if (partAt r.2 p).share = 0 then r
  else
    let e := effShare r.2 p
    let x := governScope (bitsOf 8 (partAt r.2 p).dies) (partDraw64 r.2 p * e.2) (64 * e.1) may r.2
    (r.1 || x.1, x.2)

def governParts (m : Dev) : Bool × Dev := (configuredParts m).foldl (governPart (mayRaise m)) (false, m)

theorem govern_eq (m : Dev) : ∃ since, govern m = updPower (governScope (List.range 8) (governParts m).2.power.input.power
    (8 * capWatts (governParts m).2) (mayRaise m && !(governParts m).1) (governParts m).2).2 (fun w => { w with sinceRaise := since }) :=
  ⟨_, rfl⟩

theorem govern_capLoopOnly (m : Dev) : CapLoopOnly m (govern m) := by
  have hparts : CapLoopOnly m (governParts m).2 := by
    refine List.foldlRecOn (motive := fun r : Bool × Dev => CapLoopOnly m r.2) _ _ (.refl m) fun r hr p _ => ?_
    unfold governPart
    split
    · exact hr
    · exact hr.trans (.governScope ..)
  obtain ⟨since, h⟩ := govern_eq m
  rw [h]
  exact (hparts.trans (.governScope ..)).trans ⟨_, _, _, _, _, _, _, rfl⟩

/-- Without shares the module's scope alone is governed. -/
theorem govern_of_no_share {m : Dev} (h : ∀ p < 8, (partAt m p).share = 0) (d : Nat) : pdieAt (govern m) d
    = pdieAt (governScope (List.range 8) m.power.input.power (8 * capWatts m) (mayRaise m) m).2 d := by
  have hparts : governParts m = (false, m) := by
    refine List.foldlRecOn (motive := (· = (false, m))) _ _ rfl fun r hr p hp => ?_
    subst hr
    exact if_pos (h p (List.mem_range.mp (List.mem_of_mem_filter hp)))
  obtain ⟨since, heq⟩ := govern_eq m
  rw [heq, hparts, Bool.not_false, Bool.and_true]
  rfl

section
variable {m : Dev} (hprime : anyPriming m = false) (hfreq : m.power.freqMode = 0) {s c d : Nat} (hd : d < 8)
include hprime hfreq hd

/-- R637: above the cap every duty falls by the step. -/
theorem governScope_over (h : c < s) (may : Bool) : pdieAt (governScope (List.range 8) s c may m).2 d
    = { pdieAt m d with capDuty := max 8 ((pdieAt m d).capDuty - (64 * (s - c) + s - 1) / s) } := by
  rw [anyPriming] at hprime
  simp only [governScope, if_pos h, hprime, hfreq]
  exact pdieAt_foldl_updPdie _ m hd

omit hprime hfreq in
/-- R637: below 98% of the cap every duty rises by one where a rise is due. -/
theorem governScope_under (h : 100 * s < 98 * c) : pdieAt (governScope (List.range 8) s c true m).2 d
    = { pdieAt m d with capDuty := min 64 ((pdieAt m d).capDuty + 1) } := by
  simp only [governScope, if_neg (show ¬ c < s by omega), h, and_self, if_true]
  exact pdieAt_foldl_updPdie _ m hd

end

/-- R637: between the two, or where no rise is due, the duties stand. -/
theorem governScope_between {m : Dev} {s c : Nat} {may : Bool} (ds : List Nat) (h : s ≤ c) (h' : 98 * c ≤ 100 * s ∨ may = false) :
    governScope ds s c may m = (false, m) := by
  rw [governScope, if_neg (Nat.not_lt.mpr h), if_neg]
  rintro ⟨hlt, rfl⟩
  rcases h' with h' | h'
  · omega
  · exact Bool.noConfusion h'

/-! ### The interval as a whole -/

theorem pdieAt_settle (start : Nat) (m : Dev) (d : Nat) : pdieAt (settle start m) d = pdieAt m d := by
  obtain ⟨_, h⟩ := settle_ctlOnly start m
  rw [h]
  rfl

/-- The module when the energy of the interval lies on accounts. -/
theorem apportion_measured (rails : List Nat) (input : Nat) (m : Dev) : ∃ arrays t act,
    Apportioned { measured rails input m with arrays := arrays } t
    ∧ apportion (primeDither (measured rails input m)) = updPower t (fun w => { w with lastAct := act })
    ∧ (m.jobs = [] → t = idled (idleShares { measured rails input m with arrays := arrays }) { measured rails input m with arrays := arrays }) := by
  obtain ⟨arrays, ha⟩ := primeDither_arraysOnly (measured rails input m)
  rw [ha]
  by_cases hj : m.jobs = []
  · obtain ⟨act, h⟩ := apportion_idle (m := { measured rails input m with arrays := arrays }) hj
    exact ⟨arrays, _, act, idled_apportioned (.refl _) _, h, fun _ => rfl⟩
  · obtain ⟨t, act, ht, h⟩ := apportion_apportioned { measured rails input m with arrays := arrays }
    exact ⟨arrays, t, act, ht, h, fun h => absurd h hj⟩

theorem capTick_capLoopOnly {m t : Dev} {rails : List Nat} {input : Nat} (hst : m.sys.st ≠ .off)
    (h : apportion (primeDither (measured rails input m)) = t) : CapLoopOnly t (capTick rails input m) := by
  rw [capTick_eq rails input hst, h]
  exact ((govern_capLoopOnly t).trans (floorCheck_capLoopOnly _)).trans (settle_ctlOnly _ _).capLoopOnly

theorem pdieAt_capTick {m t : Dev} {rails : List Nat} {input : Nat} (hst : m.sys.st ≠ .off)
    (h : apportion (primeDither (measured rails input m)) = t) (d : Nat) : pdieAt (capTick rails input m) d = pdieAt (govern t) d := by
  rw [capTick_eq rails input hst, h, pdieAt_settle, pdieAt_floorCheck]

/-- Settles O44: an interval measures, apportions, governs, checks the floor and settles; each stage has its own frame. -/
theorem capIntervals : Obligations.CapIntervals := by
  unfold Obligations.CapIntervals
  refine ⟨fun s rails input hwf hst => ?_, fun s => ⟨fun hmode hlow htemp => ?_, fun hmode => ?_⟩⟩
  · obtain ⟨arrays, t, act, ht, hap, hidle⟩ := apportion_measured rails input s.m
    obtain ⟨dies, freq, since, above, unreach, floor, ctl, hfin⟩ := capTick_capLoopOnly hst hap
    have hpart (p : Nat) : partAt (capTick rails input s.m) p = partAt t p := by rw [hfin]; rfl
    have hrail (r : Nat) : railAt (capTick rails input s.m) r = railAt (measured rails input s.m) r := by
      rw [hfin]
      simp only [railAt, updPower, ht.power]
    have hin : (capTick rails input s.m).power.input = railMeasured input s.m.power.input := by
      rw [hfin]
      simp only [updPower, ht.power]
      rfl
    refine ⟨_, onDev_next _ s hwf, rfl, rfl, ?_, fun r hr => (hrail r).trans (railAt_measured rails input s.m hr), hin, fun hj p hp => ?_,
      fun hshare hprime hfreq cap hcap => ?_⟩
    · change (capTick rails input s.m).mem = s.m.mem
      rw [hfin]
      exact congrArg (·.mem) ht.frame
    · have hrails (d : Nat) : dieRails (capTick rails input s.m) d = dieRails (measured rails input s.m) d := by simp only [dieRails, hrail]
      have hshared : sharedPower (capTick rails input s.m) = sharedPower (measured rails input s.m) := by
        simp only [sharedPower, railSum, hrail, hin]
        rfl
      simp only [hpart, hrails, hshared, hrail, hidle hj]
      rw [idleEnergy_idled, sum_idleShares _ hp, ← add_assoc, ← add_assoc]
      rfl
    · generalize hu : updPower t (fun w => { w with lastAct := act }) = u at hap
      have hpow : u.power = { (measured rails input s.m).power with lastAct := act } := by
        rw [← hu, updPower, ht.power]
      have hdie (d : Nat) : pdieAt u d = pdieAt s.m d := by
        rw [pdieAt, hpow]
        rfl
      have huin : u.power.input.power = input := by rw [hpow]; rfl
      have hucap : 8 * capWatts u = cap := by rw [capWatts, hpow]; exact hcap
      have huprime : anyPriming u = false := by simpa only [anyPriming, hdie] using hprime
      have hufreq : u.power.freqMode = 0 := by rw [hpow]; exact hfreq
      have humay : mayRaise u = mayRaise s.m := by rw [mayRaise, hpow]; rfl
      have hushare (p : Nat) (hp : p < 8) : (partAt u p).share = 0 := by
        rw [← hu]
        exact (ht.share p).trans (hshare p hp)
      have hduty (d : Nat) : pdieAt (capTick rails input s.m) d = pdieAt (governScope (List.range 8) input cap (mayRaise s.m) u).2 d := by
        rw [pdieAt_capTick hst hap, govern_of_no_share hushare, huin, hucap, humay]
      refine ⟨fun hover d hd => ?_, fun hunder hsince hbrake hhold d hd => ?_, fun hle hno d _ => ?_⟩
      · exact (hduty d).trans (hdie d ▸ governScope_over huprime hufreq hd hover _)
      · have hmay : mayRaise s.m = true := by simp [mayRaise, hsince, hbrake, hhold]
        rw [hmay] at hduty
        exact (hduty d).trans (hdie d ▸ governScope_under hd hunder)
      · have hno' : 98 * cap ≤ 100 * input ∨ mayRaise s.m = false := by
          rcases hno with hlow | hlt | hbrake | hhold
          · exact .inl hlow
          · exact .inr (by simp [mayRaise, Nat.not_le.mpr hlt])
          · exact .inr (by simp [mayRaise, hbrake])
          · exact .inr (by simp [mayRaise, hhold])
        rw [governScope_between _ hle hno'] at hduty
        exact (hduty d).trans (hdie d)
  · have htick : freqTick s.m = updPower s.m (fun w => { w with freq := min 38 (w.freq + 1) }) :=
      if_pos ⟨hmode, hlow, by simpa using htemp⟩
    exact onDev_next_of (c := .freqStepTick) rfl htick
  · have htick : freqTick s.m = s.m := if_neg fun h => Nat.zero_ne_one (hmode.symm.trans h.1)
    exact onDev_next_of (c := .freqStepTick) rfl htick

end Sys2Proof.Machine
end

section
/-! PROOFS of the family 18_boot_firmware_security: the steps of a start, and how it fails (R687, R691 to R694). -/

namespace Sys2Proof.Machine

/-! ### The steps of a start -/

/-- The start's next step is due. -/
def stepped (m : Dev) : Dev := updSys m (fun s => { s with startStep := s.startStep + 1 })

/-- What the step after `n` ended ones does. -/
def stepAfter (fails : List Nat) (nv : NonVol) (m : Dev) (n : Nat) : NonVol × Dev :=
  match n with
  | 0 => (appendRecord nv 0xFFFF 0xFFFF, keepersTrain (stepped m))
  | 1 => if flashReason nv = 0 then (nv, stepped m) else startFails (flashReason nv) 0 nv m
  | 2 => match flashBadSegment nv with
    | none => (nv, stepped m)
    | some i => startFails 6 i nv m
  | 3 => (nv, applyRepairs (stepped m))
  | 4 => (nv, applyColumns fails (stepped m))
  | 5 => (nv, clearMemory (stepped m))
  | _ =>
    let t := drawFree (stepped m) 64
    let nv := changeLast nv (fun r => { r with reason := 0, detail := 0, ticks := t.1 })
    (burnFuses nv, updCtl (updSys (runImage nv t.2) (fun s => { s with st := .ready })) (fun c => { c with localStroke := 0 }))

theorem startStep_eq {m : Dev} (fails : List Nat) (nv : NonVol) (hst : m.sys.st = .boot) (hwait : m.sys.startWait = false)
    (hlt : m.sys.startStep < 7) : startStep fails nv m = stepAfter fails nv m m.sys.startStep :=
  if_neg (by simp [hst, hwait, hlt])

/-- R446: the keepers train every enabled link that is off or failed. -/
def keeperStart (k : Link) : Link :=
  if k.enabled ∧ (k.st = .off ∨ k.st = .failed) then { k with st := .training, cause := 1, attempts := 0 } else k

theorem foldl_updLink (f : Link → Link) (l : List Nat) : ∀ m : Dev, l.foldl (fun m k => updLink m k f) m
    = { m with net := { m.net with links := l.foldl (fun t k => tmod {} t k f) m.net.links } } := by
  induction l with
  | nil => exact fun _ => rfl
  | cons k l ih => exact fun m => (ih _).trans rfl

theorem keepersTrain_eq (m : Dev) : keepersTrain m
    = { m with net := { m.net with links := (List.range 32).foldl (fun t k => tmod {} t k keeperStart) m.net.links } } :=
  foldl_updLink keeperStart _ m

theorem linkAt_keepersTrain (m : Dev) {l : Nat} (hl : l < 32) : linkAt (keepersTrain m) l = keeperStart (linkAt m l) := by
  have hget := tget_foldl_tmod_range ({} : Link) (fun _ => keeperStart) m.net.links 32 l
  rw [if_pos hl] at hget
  simpa only [keepersTrain_eq, linkAt] using hget

/-! ### The repair record (R307) -/

/-- Counting the retired segments of units retires none. -/
theorem retired_foldl_count (l : List Nat) (m : Mem) : (l.foldl (fun x s =>
    let u := segUnit s
    if u < 16 then { x with hbm := tmod {} x.hbm u (fun k => { k with retired := sat 16 (k.retired + 1) }) }
    else { x with cis := tmod {} x.cis (u - 16) (fun k => { k with retired := sat 16 (k.retired + 1) }) }) m).retired = m.retired := by
  refine List.foldlRecOn (motive := fun x : Mem => x.retired = m.retired) _ _ rfl fun x hx s _ => ?_
  dsimp only
  split <;> exact hx

/-- A repair retires no less than before. -/
theorem retired_applyRepair {m : Mem} {g : Nat} (h : g ∈ m.retired) (r : RepairRow) : g ∈ (applyRepair m r).retired := by
  unfold applyRepair
  split
  · exact h
  · split
    · unfold takeSpare
      split <;> exact h
    · rw [retired_foldl_count]
      exact List.mem_append_left _ h

/-- R307 item 4: a row without a spare retires the segments that it touches. -/
theorem applyRepair_retires {m : Mem} {x : RepairRow} (hsoft : x.soft = false) (hspare : bankSpares m x = 0) {g : Nat}
    (hg : g ∈ Config.rowSegments x.kind x.unit x.bank x.row) : g ∈ (applyRepair m x).retired := by
  unfold applyRepair
  rw [hsoft, hspare, if_neg (by decide), if_neg (by decide), retired_foldl_count]
  by_cases hm : g ∈ m.retired
  · exact List.mem_append_left _ hm
  · exact List.mem_append_right _ (List.mem_filter.mpr ⟨hg, by simpa using hm⟩)

theorem retired_foldl_applyRepair {m : Mem} {g : Nat} (h : g ∈ m.retired) (l : List RepairRow) : g ∈ (l.foldl applyRepair m).retired :=
  List.foldlRecOn (motive := fun x : Mem => g ∈ x.retired) _ _ h fun _ hx r _ => retired_applyRepair hx r

/-! ### The columns (R185 to R187) -/

/-- A column that the self-test found joins the record of its array. -/
def addColumn (t : Tab (List Nat)) (c : Nat) : Tab (List Nat) :=
  tmod [] t (c / 256) (fun l => if c % 256 ∈ l then l else l ++ [c % 256])

theorem mem_addColumn_same (t : Tab (List Nat)) (c : Nat) : c % 256 ∈ tget [] (addColumn t c) (c / 256) := by
  rw [addColumn, tget_tmod, if_pos rfl]
  split
  · assumption
  · exact List.mem_append_right _ (List.mem_singleton.mpr rfl)

theorem mem_addColumn {t : Tab (List Nat)} {k x : Nat} (h : x ∈ tget [] t k) (c : Nat) : x ∈ tget [] (addColumn t c) k := by
  rw [addColumn, tget_tmod]
  split
  next hk =>
    subst hk
    split
    · exact h
    · exact List.mem_append_left _ h
  next => exact h

theorem mem_foldl_addColumn {l : List Nat} {c : Nat} (hc : c ∈ l) : ∀ t, c % 256 ∈ tget [] (l.foldl addColumn t) (c / 256) := by
  induction l with
  | nil => cases hc
  | cons x l ih =>
    intro t
    rcases List.mem_cons.mp hc with rfl | hc
    · exact List.foldlRecOn (motive := fun t => c % 256 ∈ tget [] t (c / 256)) l _ (mem_addColumn_same t c) fun _ ht y _ => mem_addColumn ht y
    · exact ih hc _

theorem applyColumns_found {fails : List Nat} {c : Nat} (hc : c ∈ fails) (hlt : c < 384 * 256) (m : Dev) :
    c % 256 ∈ tget [] (applyColumns fails m).sys.colRecord (c / 256) :=
  mem_foldl_addColumn (List.mem_filter.mpr ⟨hc, decide_eq_true hlt⟩) m.sys.colRecord

/-! ### Failures -/

theorem startRuns_of_wait {m : Dev} (h : m.sys.startWait = true) : startRuns m = false := by simp [startRuns, h]

/-- Settles O49: a start's step is `stepAfter` the steps that have ended, and a failure that is reported is `startFails`. -/
theorem startsAndTheirFailures : Obligations.StartsAndTheirFailures := by
  unfold Obligations.StartsAndTheirFailures
  intro s
  refine ⟨fun hst hwait fails => ?_, fun hrun => ⟨fun reason detail hwf hmem => ?_, ?_⟩, fun hst hwait => ⟨fun hlt hc => ?_, fun hge => ?_⟩,
    fun hst => ?_⟩
  · have hstep (n : Nat) (hn : s.m.sys.startStep = n) (hlt : n < 7) :
        exec (.startStep fails) s = .next { s with nv := (stepAfter fails s.nv s.m n).1, m := (stepAfter fails s.nv s.m n).2 } := by
      have hx := onBoot_next (c := .startStep fails) (startStep fails) s rfl
      rwa [startStep_eq fails s.nv hst hwait (hn ▸ hlt), hn] at hx
    refine ⟨fun hn => ⟨_, hstep 0 hn (by decide), ?_, rfl, fun l hl hen hoff => ?_⟩, fun hn h0 => ⟨_, hstep 1 hn (by decide), ?_⟩,
      fun hn r hr hne => (hstep 1 hn (by decide)).trans ?_, fun hn hnone => ⟨_, hstep 2 hn (by decide), ?_⟩,
      fun hn i hi => (hstep 2 hn (by decide)).trans ?_,
      fun hn => ⟨_, hstep 3 hn (by decide), ⟨rfl, hst⟩, rfl, rfl, rfl, fun x hx hsoft hspare g hg => ?_,
        fun g hg => retired_foldl_applyRepair hg _⟩,
      fun hn => ⟨_, hstep 4 hn (by decide), ⟨rfl, hst⟩, rfl, fun c hc hlt => applyColumns_found hc hlt _⟩,
      fun hn => ⟨_, hstep 5 hn (by decide), ⟨rfl, hst⟩, rfl, fun a => rfl, rfl, rfl, rfl⟩,
      fun hn => ⟨_, _, hstep 6 hn (by decide), rfl, congrArg (· + 1) hn, rfl, rfl⟩⟩
    · have hsys : (keepersTrain (stepped s.m)).sys = (stepped s.m).sys := by rw [keepersTrain_eq]
      exact ⟨congrArg Sys.startStep hsys, (congrArg Sys.st hsys).trans hst⟩
    · have htrain := linkAt_keepersTrain (stepped s.m) hl
      exact (congrArg Link.st htrain).trans (congrArg Link.st (if_pos ⟨hen, hoff⟩))
    · rw [show stepAfter fails s.nv s.m 1 = (s.nv, stepped s.m) from if_pos h0]
      exact ⟨⟨rfl, hst⟩, rfl⟩
    · simp only [stepAfter, hr, if_neg hne]
      rfl
    · unfold stepAfter
      rw [hnone]
      exact ⟨⟨rfl, hst⟩, rfl⟩
    · simp only [stepAfter, hi]
      rfl
    · change g ∈ (s.m.mem.rowRecord.foldl applyRepair s.m.mem).retired
      rw [hx]
      exact applyRepair_retires hsoft hspare hg
  · have hx := onBoot_next (c := .startFailed reason detail) (startFailed reason detail) s hwf
    rw [startFailed, if_pos ⟨hrun, hmem⟩] at hx
    exact hx
  · have hx := onBoot_next (c := .startWatchdog) startWatchdog s rfl
    rw [startWatchdog, if_pos hrun] at hx
    exact hx
  · have hx := onBoot_next (c := .startWaitEnd) startWaitEnd s rfl
    rw [startWaitEnd, if_pos ⟨hst, hwait⟩, if_pos hlt, enterBoot_of_not_committing none hc] at hx
    refine ⟨_, hx, rfl, rfl, rfl, ?_⟩
    simp [bootLog, startRuns_of_wait hwait]
  · have hx := onBoot_next (c := .startWaitEnd) startWaitEnd s rfl
    rw [startWaitEnd, if_pos ⟨hst, hwait⟩, if_neg (Nat.not_lt.mpr hge)] at hx
    exact hx
  · exact onDev_next_of (c := .minimalServiceUp) rfl (if_pos hst)

end Sys2Proof.Machine
end

section
/-! PROOFS of the family 12_collectives: a collective that is alone at its module, what it waits for, and how it ends (R484, R492,
R493, R495 to R500, R505 to R508, R732). -/

namespace Sys2Proof.Machine

/-! ### One collective -/

theorem sameColl_iff (c d : Coll) : sameColl c d = true ↔ c.slot = d.slot ∧ c.group = d.group ∧ c.seq = d.seq := by
  simp [sameColl, and_assoc]

@[simp] theorem sameColl_self (c : Coll) : sameColl c c = true := by simp [sameColl]

section
variable {m : Dev} {c d : Coll}

theorem findColl_one (hm : m.colls = [d]) (h : sameColl c d = true) : findColl m c = some d := by
  simp [findColl, hm, h]

theorem updColl_one (hm : m.colls = [d]) (h : sameColl c d = true) (f : Coll → Coll) : updColl m c f = { m with colls := [f d] } := by
  simp [updColl, hm, h]

/-- R494: the collective in flight that a chunk names, when it is alone. -/
theorem chunkColl_one {slot : Nat} {k : Chunk} (hm : m.colls = [c]) (hs : c.slot = slot) (hg : c.group = k.group) (hq : c.seq = k.seq) :
    chunkColl m slot k = some c := by
  simp [chunkColl, hm, hs, hg, hq]

end

/-- A chunk on a link that is up, for a group that is held (R484, R495). -/
theorem onChunk_held {m : Dev} {link slot : Nat} {k : Chunk} {e : TreeEntry} {j : Job} {g : Group} (hfwd : forwarding m = true)
    (hup : linkUp (linkAt m link) = true) (htree : treeOf m k.tree = some e) (hjob : jobById m e.jobId = some (slot, j))
    (hgroup : groupAt' m slot k.group = some g) (f : Nat → Dev → Dev) : onChunk link k f m = f slot m := by
  have hslot : chunkSlot m k = some slot := by simp [chunkSlot, htree, hjob, hgroup]
  simp [onChunk, hfwd, hup, htree, hslot]

theorem groupAt'_updGroup (m : Dev) (slot k : Nat) (f : Group → Group) : groupAt' (updGroup m slot k f) slot k = (groupAt' m slot k).map f := by
  simp [groupAt', updGroup, tfind_tupd]

/-! ### A reduction that waits (R481, R497) -/

theorem chunkCount_pos {c : Coll} {p : CollPhase} (h : 0 < p.len) : 0 < chunkCount c p :=
  Nat.div_pos (by have := Nat.two_pow_pos c.chunkLog; omega) (Nat.two_pow_pos _)

theorem sourcesRead_false {c : Coll} (h : ∃ d ∈ c.dies, d.src ≠ 0 ∧ d.engine = none ∧ d.ready = false) : sourcesRead c = false := by
  obtain ⟨d, hd, hsrc, heng, hready⟩ := h
  simp only [sourcesRead, List.all_eq_false]
  exact ⟨d, hd, by simp [gives, heng, hsrc, hready]⟩

/-- A collective of a group of several modules that none of its phases can advance, and that is not at its end. -/
theorem collAdvance_waits {m : Dev} {c d : Coll} {g : Group} (hm : m.colls = [d]) (hsame : sameColl c d = true)
    (hgroup : groupAt' m d.slot d.group = some g) (hlocal : isLocal g = false) (hstep : collStep d (collPhases m d) m = none)
    (hend : ∃ x ∈ List.zip (List.range (collPhases m d).length) (collPhases m d), nextChunk d x.1 < chunkCount d x.2) :
    collAdvance c m = m := by
  have hfind := findColl_one hm (sameColl_self d)
  have htry : tryEnd d m = m := by
    obtain ⟨x, hx, hlt⟩ := hend
    have hall : ¬ (List.zip (List.range (collPhases m d).length) (collPhases m d)).all (fun x => decide (chunkCount d x.2 ≤ nextChunk d x.1)) := by
      rw [List.all_eq_true]
      exact fun h => absurd (of_decide_eq_true (h x hx)) (Nat.not_le.mpr hlt)
    simp only [tryEnd, hfind]
    exact if_neg fun h => hall h.2.1
  have hrun (n : Nat) : collRun d n m = m := by
    cases n with
    | zero => exact htry
    | succ n =>
      rw [collRun, hfind]
      simp only [hstep, htry, ite_self]
  simp only [collAdvance, findColl_one hm hsame, hgroup, hlocal, Bool.false_eq_true, if_false]
  exact hrun _

/-- R497: a reduction waits while a die's source is unread. -/
theorem collAdvance_unread {m : Dev} {c d : Coll} {g : Group} (hm : m.colls = [d]) (hsame : sameColl c d = true)
    (hgroup : groupAt' m d.slot d.group = some g) (hlocal : isLocal g = false) (hop : d.op = 2) (hbytes : 0 < d.bytes)
    (hdone : d.doneChunks = []) (hunread : ∃ x ∈ d.dies, x.src ≠ 0 ∧ x.engine = none ∧ x.ready = false) : collAdvance c m = m := by
  have hphases : collPhases m d = [{ reduce := true, tree := (groupTree g d.root).getD 0xFFFF, root := d.root, first := 0, len := d.bytes }] := by
    simp [collPhases, hgroup, hop]
  refine collAdvance_waits hm hsame hgroup hlocal ?_ ?_
  · simp only [collStep, hphases, List.length_singleton, List.range_one, List.zip_cons_cons, List.zip_nil_right, List.findSome?_cons,
      List.findSome?_nil, phaseStep, sourcesRead_false hunread, Bool.false_and, if_true]
    simp
  · rw [hphases]
    exact ⟨_, List.mem_singleton.mpr rfl, by simpa [nextChunk, hdone] using chunkCount_pos hbytes⟩

theorem collAdvance_updColl_unread {m : Dev} {c : Coll} {g : Group} {f : Coll → Coll} (hm : m.colls = [c]) (hsame : sameColl c (f c) = true)
    (hgroup : groupAt' m c.slot c.group = some g) (hlocal : isLocal g = false) (hop : (f c).op = 2) (hbytes : 0 < (f c).bytes)
    (hdone : (f c).doneChunks = []) (hunread : ∃ x ∈ (f c).dies, x.src ≠ 0 ∧ x.engine = none ∧ x.ready = false) :
    collAdvance c (updColl m c f) = { m with colls := [f c] } := by
  obtain ⟨hs, hg, -⟩ := (sameColl_iff _ _).mp hsame
  rw [updColl_one hm (sameColl_self c)]
  exact collAdvance_unread rfl hsame (by rw [← hs, ← hg]; exact hgroup) hlocal hop hbytes hdone hunread

/-! ### Chunks of a collective that is alone (R484, R492 to R500, R507, R732) -/

section
variable {m : Dev} {link slot : Nat} {k : Chunk} {e : TreeEntry} {j : Job} {g : Group} (hfwd : forwarding m = true)
  (hup : linkUp (linkAt m link) = true) (htree : treeOf m k.tree = some e) (hjob : jobById m e.jobId = some (slot, j))
  (hgroup : groupAt' m slot k.group = some g)
include hfwd hup htree hjob hgroup

/-- R484: a HEADER chunk that comes before its collective waits in the group's entry. -/
theorem headerChunk_early (hnone : ∀ x ∈ m.colls, x.slot = slot → x.group ≠ k.group) :
    headerChunk link k m = updGroup m slot k.group (fun g => { g with early := g.early ++ [{
      link := link, tree := k.tree, digest := k.digest, mismatch := bitOf k.flags 1, src := k.src, restarts := k.restarts }] }) := by
  have hfind (p : Coll → Bool) : m.colls.find? (fun x => decide (x.slot = slot) && (decide (x.group = k.group) && p x)) = none := by
    refine List.find?_eq_none.mpr fun x hx h => ?_
    simp only [Bool.and_eq_true, decide_eq_true_eq] at h
    exact hnone x hx h.1 h.2.1
  have hany (p : Coll → Bool) : m.colls.any (fun x => decide (x.slot = slot) && (decide (x.group = k.group) && p x)) = false := by
    rw [List.any_eq_not_all_not, Bool.not_eq_false', List.all_eq_true]
    intro x hx
    by_cases hs : x.slot = slot
    · simp [hnone x hx hs]
    · simp [hs]
  refine (onChunk_held hfwd hup htree hjob hgroup _).trans ?_
  simp only [Bool.and_assoc, hfind, hany, Bool.false_eq_true, if_false]

section
variable {c : Coll} (hm : m.colls = [c]) (hs : c.slot = slot) (hg : c.group = k.group)
include hm hs hg

/-- R492: GO comes down the collective's tree. -/
theorem goChunk_taken (hst : c.st = .header) (hsent : c.headerSent = true) (hht : headerTree m c = k.tree) (hr : c.restarts = k.restarts)
    (hupl : (collTree m c).up = some link) : goChunk link k m = takeGo c (bitOf k.flags 1) m := by
  refine (onChunk_held hfwd hup htree hjob hgroup _).trans ?_
  have hfind : m.colls.find? (fun x => decide (x.slot = slot) && decide (x.group = k.group) && decide (x.st = .header) && x.headerSent
      && decide (headerTree m x = k.tree) && decide (x.restarts = k.restarts)) = some c := by
    simp [hm, hs, hg, hst, hsent, hht, hr]
  simp only [hfind, hupl, if_true]

variable (hq : c.seq = k.seq)
include hq

/-- R507: a DATA chunk of another run is discarded. -/
theorem dataChunk_other (hr : k.restarts ≠ c.restarts) : dataChunk link k m = m := by
  refine (onChunk_held hfwd hup htree hjob hgroup _).trans ?_
  simp only [chunkColl_one hm hs hg hq]
  exact if_neg fun h => hr h.2.1.symm

/-- A DATA chunk of the present run waits among the staged ones. -/
def staging (link : Nat) (k : Chunk) (c : Coll) : Coll := { c with
  staged := c.staged ++ [{ phase := k.phase, chunk := k.chunk, link := link, src := k.src, flags := k.flags, payload := k.payload, poison := k.poison }]
  throttled := c.throttled || bitOf k.flags 3 }

theorem dataChunk_staged (hst : c.st = .data) (hdone : c.doneChunks = []) (hr : k.restarts = c.restarts) (hd : k.digest = c.digest)
    (hfree : stagedFor c k.phase k.chunk link = none) : dataChunk link k m
      = collAdvance c (updColl (collActive m slot (anchorOf m c) (moveCycles k.payload.length)) c (staging link k)) := by
  refine (onChunk_held hfwd hup htree hjob hgroup _).trans ?_
  simp only [chunkColl_one hm hs hg hq]
  refine (if_pos ⟨hst, hr.symm, hd.symm, ?_, ?_⟩).trans rfl
  · simp [hfree]
  · simp [nextChunk, hdone]

/-- R732: ENDED of a child is kept. -/
def childEnded (link : Nat) (c : Coll) : Coll := { c with endeds := c.endeds ++ [link] }

theorem endedChunk_kept (hst : c.st = .data) (hr : k.restarts = c.restarts) (hdown : link ∈ (collTree m c).down) (hnew : link ∉ c.endeds) :
    endedChunk link k m = collAdvance c (updColl m c (childEnded link)) := by
  refine (onChunk_held hfwd hup htree hjob hgroup _).trans ?_
  simp only [chunkColl_one hm hs hg hq]
  exact (if_pos ⟨hst, hr.symm, hdown, hnew⟩).trans rfl

end

end

/-! ### What the end of a collective changes (R487, R498 to R500) -/

/-- The sticky bits of an engine that are set stay set. -/
structure FabKeeps (a b : Fab) : Prop where
  mismatch : a.mismatch = true → b.mismatch = true
  aborted : a.aborted = true → b.aborted = true
  nonfinite : a.nonfinite = true → b.nonfinite = true

theorem FabKeeps.refl (a : Fab) : FabKeeps a a := ⟨id, id, id⟩

theorem FabKeeps.trans {a b c : Fab} (h : FabKeeps a b) (h' : FabKeeps b c) : FabKeeps a c :=
  ⟨h'.mismatch ∘ h.mismatch, h'.aborted ∘ h.aborted, h'.nonfinite ∘ h.nonfinite⟩

/-- Without an uncorrectable block in memory: from `m` to `t` memory, banks, jobs, engines and the control part have changed. -/
structure EndStep (m t : Dev) : Prop where
  frame : ∃ mem banks ctl jobs fabs, t = { m with mem := mem, banks := banks, ctl := ctl, jobs := jobs, fabs := fabs }
  sound : t.mem.damaged = []
  fabs : ∀ d, FabKeeps (fabAt m d) (fabAt t d)

namespace EndStep
variable {m t : Dev}

theorem refl (h : m.mem.damaged = []) : EndStep m m := ⟨⟨_, _, _, _, _, rfl⟩, h, fun _ => .refl _⟩

theorem of_frame (h : EndStep m t) {u : Dev} (hu : ∃ banks ctl jobs, u = { t with banks := banks, ctl := ctl, jobs := jobs }) : EndStep m u := by
  obtain ⟨_, _, _, rfl⟩ := hu
  obtain ⟨⟨_, _, _, _, _, rfl⟩, hsound, hfabs⟩ := h
  exact ⟨⟨_, _, _, _, _, rfl⟩, hsound, hfabs⟩

theorem foldl {α : Type} {f : Dev → α → Dev} (h : EndStep m t) (hf : ∀ u x, EndStep m u → EndStep m (f u x)) (l : List α) :
    EndStep m (l.foldl f t) := List.foldlRecOn (motive := EndStep m) l f h fun u hu x _ => hf u x hu

theorem updBank (h : EndStep m t) (die b : Nat) (f : Bank → Bank) : EndStep m (updBank t die b f) := h.of_frame ⟨_, _, _, rfl⟩

theorem updJob (h : EndStep m t) (s : Nat) (f : Job → Job) : EndStep m (updJob t s f) := h.of_frame ⟨_, _, _, rfl⟩

theorem updFab (h : EndStep m t) (die : Nat) {f : Fab → Fab} (hf : ∀ x, FabKeeps x (f x)) : EndStep m (updFab t die f) where
  frame := by
    obtain ⟨_, _, _, _, _, ht⟩ := h.frame
    exact ⟨_, _, _, _, _, by rw [ht]; rfl⟩
  sound := h.sound
  fabs d := by
    rw [fabAt_updFab]
    split
    next hd => exact hd ▸ (h.fabs d).trans (hf _)
    next => exact h.fabs d

theorem memWrite (h : EndStep m t) (a : Nat) (l : List Byte) : EndStep m { t with mem := memWrite t.mem a l } where
  frame := by
    obtain ⟨_, _, _, _, _, ht⟩ := h.frame
    exact ⟨_, _, _, _, _, by rw [ht]⟩
  sound := by
    change List.filter _ t.mem.damaged = []
    rw [h.sound]
    rfl
  fabs := h.fabs

theorem admitAccess (h : EndStep m t) (unit slot addr n cause : Nat) : EndStep m (admitAccess t unit slot addr n cause).2 := by
  rw [Machine.admitAccess]
  split
  · rw [barredFault]
    split
    · rw [bankFault]
      dsimp only
      split <;> exact h.of_frame ⟨_, _, _, rfl⟩
    · exact h.of_frame ⟨_, _, _, rfl⟩
  · exact h

theorem touchPages (h : EndStep m t) (a n : Nat) : EndStep m (touchPages t a n) := by
  rw [Machine.touchPages]
  split
  · refine h.foldl (fun u slot hu => ?_) _
    unfold touchJob
    split
    · exact hu
    · dsimp only
      rw [freeFinds_undamaged hu.sound]
      refine hu.foldl (fun v p hv => ?_) _
      split
      · exact hv
      · split
        · exact (hv.updJob _ _).updFab _ fun _ => ⟨id, id, id⟩
        · exact hv.updFab _ fun _ => ⟨id, id, id⟩
  · exact h

/-- A write of sound bytes. -/
theorem unitWrite (h : EndStep m t) (unit slot addr : Nat) (l : List Byte) : EndStep m (unitWrite t unit slot addr l false) := by
  refine h.foldl (fun u p hu => ?_) _
  have hadmit := hu.admitAccess unit slot p.1 p.2 1
  generalize Machine.admitAccess u unit slot p.1 p.2 1 = r at hadmit
  obtain ⟨b, v⟩ := r
  cases b
  · exact hadmit
  · exact (hadmit.touchPages p.1 p.2).memWrite ..

theorem collRecord (h : EndStep m t) (c : Coll) (d : CollDie) (status : Nat) : EndStep m (collRecord t c d status) := by
  unfold Machine.collRecord
  split
  · exact h
  · exact (h.unitWrite ..).unitWrite ..

theorem returnStaging (h : EndStep m t) (d : CollDie) : EndStep m (returnStaging t d) := h.foldl (fun _ _ hu => hu.updBank ..) _

theorem releaseNamed (h : EndStep m t) (c : Coll) : EndStep m (releaseNamed c t) := by
  refine h.foldl (fun u d hu => hu.foldl (fun v b hv => ?_) _) _
  split
  · exact hv
  · exact hv.updBank ..

end EndStep

/-- The sticky bits and counts that the end of a collective leaves in a die's engine. -/
def fabEnd (status : Nat) (d : CollDie) (f : Fab) : Fab := { f with
  mismatch := f.mismatch || decide (status = 0x6001), aborted := f.aborted || decide (status = 0x6003 ∨ status = 0x6005)
  throttled := f.throttled || decide (status = 0x8003), nonfinite := f.nonfinite || d.nonfinite
  poison := f.poison || d.poison
  mismatched := if status = 0x6001 then sat 16 (f.mismatched + 1) else f.mismatched
  abortedCount := if status = 0x6003 ∨ status = 0x6005 then sat 8 (f.abortedCount + 1) else f.abortedCount }

theorem fabEnd_keeps (status : Nat) (d : CollDie) (f : Fab) : FabKeeps f (fabEnd status d f) :=
  ⟨fun h => by simp [fabEnd, h], fun h => by simp [fabEnd, h], fun h => by simp [fabEnd, h]⟩

/-- A die's part in the end of a collective. -/
def dieEnd (c : Coll) (status : Nat) (m : Dev) (d : CollDie) : Dev :=
  updFab (returnStaging (collRecord m c d status) d) d.die (fabEnd status d)

theorem dieEnd_step {m t : Dev} (h : EndStep m t) (c : Coll) (status : Nat) (d : CollDie) : EndStep m (dieEnd c status t d) :=
  ((h.collRecord c d status).returnStaging d).updFab _ (fabEnd_keeps status d)

/-- What the sticky bits of the engines of a collective's dies read after its end. -/
structure EngineTold (status : Nat) (d : CollDie) (f : Fab) : Prop where
  mismatch : status = 0x6001 → f.mismatch = true
  aborted : status = 0x6003 → f.aborted = true
  nonfinite : d.nonfinite = true → f.nonfinite = true

theorem EngineTold.keeps {status : Nat} {d : CollDie} {f f' : Fab} (h : EngineTold status d f) (hf : FabKeeps f f') : EngineTold status d f' :=
  ⟨hf.mismatch ∘ h.mismatch, hf.aborted ∘ h.aborted, hf.nonfinite ∘ h.nonfinite⟩

theorem dieEnd_told (c : Coll) (status : Nat) (m : Dev) (d : CollDie) : EngineTold status d (fabAt (dieEnd c status m d) d.die) := by
  rw [dieEnd, fabAt_updFab, if_pos rfl]
  exact ⟨fun h => by simp [fabEnd, h], fun h => by simp [fabEnd, h], fun h => by simp [fabEnd, h]⟩

theorem foldl_dieEnd_told (c : Coll) (status : Nat) (l : List CollDie) : ∀ {m : Dev}, m.mem.damaged = [] → ∀ d ∈ l,
    EngineTold status d (fabAt (l.foldl (dieEnd c status) m) d.die) := by
  induction l with
  | nil => exact fun _ _ h => nomatch h
  | cons x l ih =>
    intro m hdam d hd
    have hx := dieEnd_step (.refl hdam) c status x
    rcases List.mem_cons.mp hd with rfl | hd
    · exact (dieEnd_told c status m d).keeps (((EndStep.refl hx.sound).foldl (fun _ y hu => dieEnd_step hu c status y) l).fabs d.die)
    · exact ih hx.sound d hd

/-- What a collective that ends with a status leaves: `i` is the count of COLL_STATUS that it adds to. -/
structure CollEnded (c : Coll) (g : Group) (status i : Nat) (m t : Dev) : Prop where
  colls : t.colls = []
  group : groupAt' t c.slot c.group = some { g with stats := setNth g.stats i (nth 0 g.stats i + 1) }
  told : ∀ d ∈ c.dies, EngineTold status d (fabAt t d.die)
  frame : ∃ mem banks ctl jobs fabs groups, t = { m with
    mem := mem, banks := banks, ctl := ctl, jobs := jobs, fabs := fabs, groups := groups, colls := [] }

/-- What is left of the end of a collective once its descriptors are served. -/
def collClosed (c : Coll) (status : Nat) (m : Dev) : Dev :=
  let m := engineEnd c status m
  match jobAt m c.slot with
  | some j =>
    if j.phase = .learn then updLearn m c.slot (fun g => { g with
      flagNonfinite := g.flagNonfinite || c.dies.any (·.nonfinite), flagPoison := g.flagPoison || c.dies.any (·.poison)
      flagMismatch := g.flagMismatch || decide (status = 0x6001) })
    else m
  | none => m

theorem engineEnd_jobs (c : Coll) (status : Nat) (m : Dev) : ∃ jobs, engineEnd c status m = { m with jobs := jobs } := by
  unfold engineEnd
  dsimp only
  split
  · split
    · unfold stageRecordDone
      split
      · exact ⟨_, rfl⟩
      · split
        · dsimp only
          split_ifs <;> exact ⟨_, rfl⟩
        · exact ⟨_, rfl⟩
    · unfold secureRecordDone
      split
      · exact ⟨_, rfl⟩
      · split <;> exact ⟨_, rfl⟩
    · exact ⟨_, rfl⟩
  · exact ⟨_, rfl⟩

theorem collClosed_jobs (c : Coll) (status : Nat) (m : Dev) : ∃ jobs, collClosed c status m = { m with jobs := jobs } := by
  obtain ⟨jobs, h⟩ := engineEnd_jobs c status m
  unfold collClosed
  rw [h]
  dsimp only
  split
  · split <;> exact ⟨_, rfl⟩
  · exact ⟨_, rfl⟩

/-- The counts that a status adds to, with the index of its own count. -/
theorem collEnd_counted {m : Dev} {c : Coll} {status i : Nat} (hm : m.colls = [c])
    (hst : status = 0 ∧ c.throttled = false ∧ i = 1 ∨ status = 0x6001 ∧ i = 2 ∨ status = 0x6003 ∧ i = 3) :
    collEnd c status m = collClosed c status (collCount (releaseNamed c { c.dies.foldl (dieEnd c status) m with
      colls := (c.dies.foldl (dieEnd c status) m).colls.filter (fun d => !sameColl c d) }) c i) := by
  unfold collEnd
  rw [findColl_one hm (sameColl_self c)]
  rcases hst with ⟨rfl, hthr, rfl⟩ | ⟨rfl, rfl⟩ | ⟨rfl, rfl⟩
  · simp only [hthr]
    rfl
  · rfl
  · rfl

/-- R487, R498 to R500: how a collective that is alone ends. -/
theorem collEnd_ends {m : Dev} {c : Coll} {g : Group} {status i : Nat} (hm : m.colls = [c]) (hg : groupAt' m c.slot c.group = some g)
    (hdam : m.mem.damaged = [])
    (hst : status = 0 ∧ c.throttled = false ∧ i = 1 ∨ status = 0x6001 ∧ i = 2 ∨ status = 0x6003 ∧ i = 3) :
    CollEnded c g status i m (collEnd c status m) := by
  rw [collEnd_counted hm hst]
  have hdies : EndStep m (c.dies.foldl (dieEnd c status) m) := (EndStep.refl hdam).foldl (fun _ d hu => dieEnd_step hu c status d) _
  have htold := foldl_dieEnd_told c status c.dies hdam
  generalize c.dies.foldl (dieEnd c status) m = u at hdies htold
  obtain ⟨⟨mem, banks, ctl, jobs, fabs, rfl⟩, hsound, -⟩ := hdies
  have hnone : m.colls.filter (fun d => !sameColl c d) = [] := by simp [hm]
  have hsound' : ({ m with mem := mem, banks := banks, ctl := ctl, jobs := jobs, fabs := fabs, colls := [] } : Dev).mem.damaged = [] := hsound
  have hrel := (EndStep.refl hsound').releaseNamed c
  simp only [hnone]
  generalize releaseNamed c _ = v at hrel ⊢
  obtain ⟨⟨_, _, _, _, _, rfl⟩, -, hkeeps⟩ := hrel
  obtain ⟨jobs', hclosed⟩ := collClosed_jobs c status (collCount _ c i)
  rw [hclosed]
  refine ⟨rfl, ?_, fun d hd => (htold d hd).keeps (hkeeps d.die), _, _, _, _, _, _, rfl⟩
  exact (groupAt'_updGroup _ c.slot c.group _).trans (congrArg _ hg)

end Sys2Proof.Machine
end

section
/-! PROOFS of the family 12_collectives: header and data chunks, aborts and the end pass (R484, R492, R493, R495 to R497, R505, R507,
R508, R732). -/

namespace Sys2Proof.Machine

/-- R497: the data phase begins with every source unread. -/
def dataBegun (c : Coll) : Coll := { c with
  st := .data, staged := [], doneChunks := [], endeds := [], endedSent := false, result := []
  dies := c.dies.map (fun d => { d with contrib := none, ready := false, nonfinite := false, poison := false, written := 0 }) }

/-- R492: at a module without children GO does no more than begin the data phase, which waits for the sources. -/
theorem enterData_waits {m : Dev} {c : Coll} {g : Group} (hm : m.colls = [c]) (hgroup : groupAt' m c.slot c.group = some g)
    (hlocal : isLocal g = false) (hop : c.op = 2) (hbytes : 0 < c.bytes) (heng : ∀ d ∈ c.dies, d.engine = none)
    (hsrc : ∃ d ∈ c.dies, d.src ≠ 0) : enterData c m = { m with colls := [dataBegun c] } := by
  have hbegun : ({ c with
      st := .data, staged := [], doneChunks := [], endeds := [], endedSent := false, result := []
      dies := c.dies.map (fun d =>
        let own := d.engine.bind (·.record)
        { d with
          contrib := own.map (fun r => (r, List.replicate ((r.length + 63) / 64) false)), ready := own.isSome
          nonfinite := false, poison := false, written := 0 }) } : Coll) = dataBegun c := by
    unfold dataBegun
    congr 1
    exact List.map_congr_left fun d hd => by simp [heng d hd]
  obtain ⟨d, hd, hne⟩ := hsrc
  rw [enterData, updColl_one hm (sameColl_self c), hbegun]
  exact collAdvance_unread (d := dataBegun c) rfl (by simp [sameColl_iff, dataBegun]) hgroup hlocal hop hbytes rfl
    ⟨_, List.mem_map_of_mem hd, hne, heng d hd, rfl⟩

theorem takeGo_down_nil {m : Dev} {c : Coll} (hdown : (collTree m c).down = []) (b : Bool) :
    takeGo c b m = if b then collEnd c 0x6001 m else enterData c m := by
  simp [takeGo, sendDown, hdown]

theorem fabAt_collActive (m : Dev) (slot die n : Nat) :
    fabAt (collActive m slot die n) die = { fabAt m die with job := some slot, active := ((fabAt m die).active + n) % 2 ^ 64 } := by
  rw [collActive, fabAt_updFab, if_pos rfl]

/-- Settles O21: a chunk waits in its group's entry, ends or begins its collective, or is staged while a source is unread. -/
theorem collectiveChunks : Obligations.CollectiveChunks := by
  unfold Obligations.CollectiveChunks
  refine ⟨fun s link slot k e j g hfwd hup htree hjob hgroup => ⟨fun hwf hnone => ?_, fun c hwf hm hs hg hst hsent hht hr hupl hdown => ?_⟩,
    fun s link slot k e j g c hfwd hup htree hjob hgroup hlocal hm hs hg hq hst hop hbytes hdone hunread =>
      ⟨fun hwf => ⟨fun hr hd hfree => ?_, fun hr => ?_⟩, fun hwf hr hdown hnew => ?_⟩⟩
  · exact ⟨_, onDev_next_of hwf (headerChunk_early hfwd hup htree hjob hgroup hnone),
      (groupAt'_updGroup ..).trans (congrArg _ hgroup), rfl⟩
  · have hgo := onDev_next_of hwf ((goChunk_taken hfwd hup htree hjob hgroup hm hs hg hst hsent hht hr hupl).trans (takeGo_down_nil hdown _))
    have hgroup' : groupAt' s.m c.slot c.group = some g := by rw [hs, hg, hgroup]
    refine ⟨fun hmis hdam => ?_, fun hmis hop hlocal hbytes heng hsrc => ?_⟩
    · rw [hmis, if_pos rfl] at hgo
      have hend := collEnd_ends (status := 0x6001) (i := 2) hm hgroup' hdam (by simp)
      obtain ⟨_, _, _, _, _, _, hframe⟩ := hend.frame
      refine ⟨_, hgo, hend.colls, fun d hd => (hend.told d hd).mismatch rfl, ?_, rfl, ?_⟩
      · rw [← hs, ← hg]
        exact hend.group
      · rw [hframe]
        exact ⟨rfl, rfl, rfl, rfl⟩
    · rw [hmis, if_neg Bool.false_ne_true, enterData_waits hm hgroup' hlocal hop hbytes heng hsrc] at hgo
      exact hgo
  · have hgroup' : groupAt' s.m c.slot c.group = some g := by rw [hs, hg, hgroup]
    have hstage := dataChunk_staged hfwd hup htree hjob hgroup hm hs hg hq hst hdone hr hd hfree
    rw [collAdvance_updColl_unread (m := collActive s.m slot (anchorOf s.m c) (moveCycles k.payload.length)) hm
      (by simp [sameColl_iff, staging]) hgroup' hlocal hop hbytes hdone hunread] at hstage
    refine ⟨_, onDev_next_of hwf hstage, rfl, ?_, rfl⟩
    exact congrArg Fab.active (fabAt_collActive s.m slot (anchorOf s.m c) (moveCycles k.payload.length))
  · exact onDev_next_of hwf (dataChunk_other hfwd hup htree hjob hgroup hm hs hg hq hr)
  · have hgroup' : groupAt' s.m c.slot c.group = some g := by rw [hs, hg, hgroup]
    have hkept := endedChunk_kept hfwd hup htree hjob hgroup hm hs hg hq hst hr hdown hnew
    rw [collAdvance_updColl_unread hm (by simp [sameColl_iff, childEnded]) hgroup' hlocal hop hbytes hdone hunread] at hkept
    exact onDev_next_of hwf hkept

/-! ### Aborts and the end pass (R505, R507, R508, R732) -/

/-- Chunks change links and what is sent. -/
theorem foldl_sendChunk_frame (k : Chunk) (l : List Nat) : ∀ m : Dev,
    ∃ links out, l.foldl (fun m l => sendChunk m l k) m = { m with net := { m.net with links := links }, out := out } := by
  induction l with
  | nil => exact fun m => ⟨m.net.links, m.out, rfl⟩
  | cons x l ih =>
    intro m
    obtain ⟨links, out, h⟩ := sendUnit_frame m x k.vc (chunkBytes k) (.chunk x k)
    obtain ⟨links', out', h'⟩ := ih (sendChunk m x k)
    exact ⟨links', out', h'.trans (by rw [show sendChunk m x k = _ from h])⟩

/-- R505: ABORT goes on to the collective's other links. -/
def abortOn (c : Coll) (link : Nat) (k : Chunk) (m : Dev) : Dev :=
  ((collLinks m c).filter (fun l => decide (l ≠ link))).foldl (fun m l => sendChunk m l k) m

section
variable {m : Dev} {link slot : Nat} {k : Chunk} {e : TreeEntry} {j : Job} {g : Group} {c : Coll} (hfwd : forwarding m = true)
  (hup : linkUp (linkAt m link) = true) (htree : treeOf m k.tree = some e) (hjob : jobById m e.jobId = some (slot, j))
  (hgroup : groupAt' m slot k.group = some g) (hm : m.colls = [c]) (hs : c.slot = slot) (hg : c.group = k.group) (hq : c.seq = k.seq)
include hfwd hup htree hjob hgroup hm hs hg hq

theorem abortChunk_ends (hst : c.st ≠ .stopped) (hflag : bitOf k.flags 2 = false) :
    abortChunk link k m = abortEvent c 0 k.src (collEnd c 0x6003 (abortOn c link k m)) := by
  refine (onChunk_held hfwd hup htree hjob hgroup _).trans ?_
  simp only [chunkColl_one hm hs hg hq, if_neg hst, hflag, Bool.false_eq_true, if_false]
  rfl

/-- The restart count of an ABORT is kept. -/
def abortKept (k : Chunk) (c : Coll) : Coll := { c with abortSeen := c.abortSeen ++ [k.restarts] }

theorem abortChunk_restarts (hst : c.st ≠ .stopped) (hflag : bitOf k.flags 2 = true) (hlt : c.restarts < k.restarts)
    (hnew : k.restarts ∉ c.abortSeen) :
    abortChunk link k m = collRestart c k.restarts (updColl (abortOn c link k m) c (abortKept k)) := by
  refine (onChunk_held hfwd hup htree hjob hgroup _).trans ?_
  simp only [chunkColl_one hm hs hg hq, if_neg hst, hflag, if_true]
  exact (if_pos ⟨hlt, hnew⟩).trans rfl

theorem abortChunk_old (hst : c.st ≠ .stopped) (hflag : bitOf k.flags 2 = true) (hold : k.restarts ≤ c.restarts ∨ k.restarts ∈ c.abortSeen) :
    abortChunk link k m = m := by
  refine (onChunk_held hfwd hup htree hjob hgroup _).trans ?_
  simp only [chunkColl_one hm hs hg hq, if_neg hst, hflag, if_true]
  refine if_neg fun h => ?_
  rcases hold with hle | hmem
  · exact absurd h.1 (Nat.not_lt.mpr hle)
  · exact h.2 hmem

theorem finishChunk_ends (hupl : (collTree m c).up = some link) (hst : c.st = .data) (hended : c.endedSent = true)
    (hdown : (collTree m c).down = []) : finishChunk link k m = collEnd c 0 m := by
  refine (onChunk_held hfwd hup htree hjob hgroup _).trans ?_
  have hfin : sendFinish c m = m := by simp [sendFinish, hdown]
  simp only [chunkColl_one hm hs hg hq, hfin]
  exact if_pos ⟨hupl, .inl ⟨hst, hended⟩⟩

end

/-- A run begins again. -/
def restarted (n : Nat) (c : Coll) : Coll := { c with
  st := .header, restarts := n % 256, mismatch := false, headers := [], endeds := [], headerSent := false, endedSent := false, staged := [] }

section
variable {m : Dev} {c : Coll} {g : Group} (hfind : findColl m c = some c) (hg : groupAt' m c.slot c.group = some g)
include hfind hg

/-- R490: the header pass waits for every die of the group. -/
theorem tryHeader_waits (hmiss : ∃ x < 8, bitOf g.dies x = true ∧ ∀ y ∈ c.dies, y.die ≠ x) : tryHeader c m = m := by
  obtain ⟨x, hx, hbit, hne⟩ := hmiss
  have hall : ¬ (bitsOf 8 g.dies).all (fun k => c.dies.any (fun y => decide (y.die = k))) = true := by
    rw [List.all_eq_true]
    intro h
    obtain ⟨y, hy, heq⟩ := List.any_eq_true.mp (h x (List.mem_filter.mpr ⟨List.mem_range.mpr hx, hbit⟩))
    exact hne y hy (of_decide_eq_true heq)
  simp only [tryHeader, hfind, hg]
  exact if_neg fun h => hall h.2.2.1

/-- Without early headers the group's entry is read and put back. -/
theorem takeEarly_none (hearly : g.early = []) : takeEarly c m = updGroup m c.slot c.group (fun _ => g) := by
  have hgroup : groupAt' (updGroup m c.slot c.group (fun _ => g)) c.slot c.group = some g :=
    (groupAt'_updGroup ..).trans (congrArg _ hg)
  unfold takeEarly
  rw [hfind, hg]
  refine List.foldlRecOn (motive := (· = updGroup m c.slot c.group (fun _ => g))) _ _ rfl fun t ht l _ => ?_
  subst ht
  rw [hgroup]
  split
  next heq =>
    obtain rfl := Option.some.inj heq
    rw [hearly]
    rfl
  next => rfl

theorem startHeader_waits (hearly : g.early = []) (hmiss : ∃ x < 8, bitOf g.dies x = true ∧ ∀ y ∈ c.dies, y.die ≠ x) :
    startHeader c m = updGroup m c.slot c.group (fun _ => g) := by
  rw [startHeader, takeEarly_none hfind hg hearly]
  exact tryHeader_waits hfind ((groupAt'_updGroup ..).trans (congrArg _ hg)) hmiss

end

/-- A count of COLL_STATUS changes its group's and its job's. -/
theorem collCount_frame {m : Dev} {c : Coll} {g : Group} (i : Nat) (hg : groupAt' m c.slot c.group = some g) :
    ∃ jobs groups, collCount m c i = { m with jobs := jobs, groups := groups }
      ∧ tfind groups (c.slot * 65536 + c.group) = some { g with stats := setNth g.stats i (nth 0 g.stats i + 1) } :=
  ⟨_, _, rfl, (groupAt'_updGroup m c.slot c.group _).trans (congrArg _ hg)⟩

theorem foldl_updFab_frame (f : CollDie → Fab → Fab) (l : List CollDie) : ∀ m : Dev,
    ∃ fabs, l.foldl (fun m d => updFab m d.die (f d)) m = { m with fabs := fabs } := by
  induction l with
  | nil => exact fun m => ⟨m.fabs, rfl⟩
  | cons d l ih => exact fun m => (ih (updFab m d.die (f d))).imp fun _ h => h

/-- The module when a run begins again, before its header pass. -/
def runAgain (c : Coll) (n : Nat) (m : Dev) : Dev :=
  c.dies.foldl (fun m d => updFab m d.die (fun f => { f with restarts := sat 4 (f.restarts + 1) })) (collCount (updColl m c (restarted n)) c 5)

theorem collRestart_found {m : Dev} {c d : Coll} {n : Nat} (h : findColl (runAgain c n m) c = some d) :
    collRestart c n m = startHeader d (runAgain c n m) := by
  unfold runAgain restarted at h ⊢
  simp only [collRestart, h]

theorem runAgain_frame {m : Dev} {c d : Coll} {g : Group} (n : Nat) (hm : m.colls = [d]) (hsame : sameColl c d = true)
    (hg : groupAt' m c.slot c.group = some g) :
    ∃ jobs groups fabs, runAgain c n m = { m with jobs := jobs, groups := groups, fabs := fabs, colls := [restarted n d] }
      ∧ tfind groups (c.slot * 65536 + c.group) = some { g with stats := setNth g.stats 5 (nth 0 g.stats 5 + 1) } := by
  rw [runAgain, updColl_one hm hsame]
  obtain ⟨jobs, groups, hcount, hgroup⟩ := collCount_frame (m := { m with colls := [restarted n d] }) (c := c) 5 hg
  rw [hcount]
  obtain ⟨fabs, hfabs⟩ := foldl_updFab_frame (fun _ f => { f with restarts := sat 4 (f.restarts + 1) }) c.dies
    { m with colls := [restarted n d], jobs := jobs, groups := groups }
  exact ⟨jobs, groups, fabs, hfabs, hgroup⟩

/-- R508: a collective whose group has a die that has not posted yet waits in the header pass of its new run. -/
theorem collRestart_waits {m : Dev} {c d : Coll} {g : Group} (n : Nat) (hm : m.colls = [d]) (hsame : sameColl c d = true)
    (hg : groupAt' m c.slot c.group = some g) (hearly : g.early = []) (hmiss : ∃ x < 8, bitOf g.dies x = true ∧ ∀ y ∈ d.dies, y.die ≠ x) :
    ∃ jobs fabs groups, collRestart c n m = { m with jobs := jobs, fabs := fabs, groups := groups, colls := [restarted n d] } := by
  have hkeys := (sameColl_iff _ _).mp hsame
  obtain ⟨jobs, groups, fabs, hrun, hgroup⟩ := runAgain_frame n hm hsame hg
  have hsame' : sameColl c (restarted n d) = true := by simpa [sameColl_iff, restarted] using hkeys
  rw [collRestart_found (d := restarted n d) (findColl_one (by rw [hrun]) hsame'), hrun,
    startHeader_waits (c := restarted n d) (g := { g with stats := setNth g.stats 5 (nth 0 g.stats 5 + 1) }) (findColl_one rfl (sameColl_self _))
      (by rw [hkeys.1, hkeys.2.1] at hgroup; exact hgroup) hearly hmiss]
  exact ⟨_, _, _, rfl⟩

/-- Settles O22: an ABORT ends the collective or begins its run again; FINISH from UP ends it. -/
theorem collectiveAbortsAndFinishes : Obligations.CollectiveAbortsAndFinishes := by
  unfold Obligations.CollectiveAbortsAndFinishes
  intro s link slot k e j g c hfwd hup htree hjob hgroup hm hs hg hq hdam
  have hgroup' : groupAt' s.m c.slot c.group = some g := by rw [hs, hg, hgroup]
  refine ⟨fun hwf hst => ⟨fun hflag => ?_, fun hflag hlt hnew hearly hmiss => ?_, fun hflag hold => ?_⟩,
    fun hwf hst hended hthr hupl hdown => ?_⟩
  · obtain ⟨links, out, hon⟩ := foldl_sendChunk_frame k ((collLinks s.m c).filter (fun l => decide (l ≠ link))) s.m
    have habort := abortChunk_ends hfwd hup htree hjob hgroup hm hs hg hq hst hflag
    rw [abortOn, hon] at habort
    have hend := collEnd_ends (m := { s.m with net := { s.m.net with links := links }, out := out }) (status := 0x6003) (i := 3) hm hgroup' hdam
      (by simp)
    generalize collEnd c 0x6003 _ = u at habort hend
    obtain ⟨_, _, _, _, _, _, hframe⟩ := hend.frame
    obtain ⟨evq, hctl⟩ : ∃ evq, abortEvent c 0 k.src u = { u with ctl := { u.ctl with evq := evq } } := raiseJob_frame u c.slot _ _ _
    rw [hctl] at habort
    refine ⟨_, onDev_next_of hwf habort, hend.colls, fun d hd => (hend.told d hd).aborted rfl, ?_, rfl, ?_⟩
    · rw [← hs, ← hg]
      exact hend.group
    · rw [hframe]
      exact ⟨rfl, rfl, rfl, rfl⟩
  · obtain ⟨links, out, hon⟩ := foldl_sendChunk_frame k ((collLinks s.m c).filter (fun l => decide (l ≠ link))) s.m
    have habort := abortChunk_restarts hfwd hup htree hjob hgroup hm hs hg hq hst hflag hlt hnew
    rw [abortOn, hon, updColl_one (m := { s.m with net := { s.m.net with links := links }, out := out }) hm (sameColl_self c)] at habort
    obtain ⟨jobs, fabs, groups, hrun⟩ := collRestart_waits (d := abortKept k c)
      (m := { s.m with net := { s.m.net with links := links }, out := out, colls := [abortKept k c] }) k.restarts rfl
      (by simp [sameColl_iff, abortKept]) hgroup' hearly hmiss
    have h256 : k.restarts % 256 = k.restarts := by
      have hk : k.wf = true := by simpa [Instr.wf] using (Bool.and_eq_true _ _ ▸ hwf).2
      simp only [Chunk.wf, Bool.and_eq_true, decide_eq_true_eq] at hk
      omega
    rw [hrun] at habort
    refine ⟨_, onDev_next_of hwf habort, ?_, rfl, rfl, rfl, rfl⟩
    simp only [restarted, h256]
    rfl
  · exact onDev_next_of hwf (abortChunk_old hfwd hup htree hjob hgroup hm hs hg hq hst hflag hold)
  · have hfin := finishChunk_ends hfwd hup htree hjob hgroup hm hs hg hq hupl hst hended hdown
    have hend := collEnd_ends (status := 0) (i := 1) hm hgroup' hdam (by simp [hthr])
    obtain ⟨_, _, _, _, _, _, hframe⟩ := hend.frame
    refine ⟨_, onDev_next_of hwf hfin, hend.colls, fun d hd => (hend.told d hd).nonfinite, ?_, rfl, ?_⟩
    · rw [← hs, ← hg]
      exact hend.group
    · rw [hframe]
      exact ⟨rfl, rfl, rfl, rfl⟩

end Sys2Proof.Machine
end

section
/-! PROOFS of the family 12_collectives: an engine reads its source, and the collective goes on (R481, R482, R485, R497). -/

namespace Sys2Proof.Machine

/-! ### A source is read (R497) -/

/-- The marks of a source without poison. -/
def soundMarks (n : Nat) : List Bool := List.replicate ((n + 63) / 64) false

section
variable {m : Dev} {die slot : Nat} {c : Coll} {d : CollDie} (hone : bankPieces d.src c.bytes = [(d.src, c.bytes)])
  (hdam : m.mem.damaged = []) (hadmit : admitAccess m (collUnit d.die) c.slot d.src c.bytes 0 = (true, m))
  (hsound : memPoisoned m.mem d.src c.bytes = false) (heng : d.engine = none)
include hone hdam hadmit hsound heng

theorem dieSource_sound : dieSource m c d = ((memRead m.mem d.src c.bytes, soundMarks c.bytes), m) := by
  simp only [dieSource, heng, unitRead, unitReads_one hdam hone hadmit, hsound]
  rfl

end

/-- A die's engine has read its source. -/
def sourceTaken (die : Nat) (x : List Byte × List Bool) (nonf : Bool) (c : Coll) : Coll := { c with dies := c.dies.map (fun e =>
  if e.die = die then { e with contrib := some x, ready := true, nonfinite := e.nonfinite || nonf } else e) }

/-- R499: what was read is not finite. -/
def readNonfinite (c : Coll) (x : List Byte) : Bool := decide (c.red = 1 ∨ c.red = 4 ∨ c.red = 5) && nonfiniteData c.red c.typ x

theorem collRead_reads {m : Dev} {c : Coll} {d : CollDie} {op die slot group seq : Nat} {x : List Byte × List Bool} (hm : m.colls = [c])
    (hs : c.slot = slot) (hg : c.group = group) (hq : c.seq = seq) (hop : c.op = op) (hst : c.st = .data)
    (hd : c.dies.find? (fun e => decide (e.die = die)) = some d) (hready : d.ready = false) (hreads : readsSource m c d = true)
    (hsrc : dieSource m c d = (x, m)) :
    collRead op die slot group seq m = collAdvance c { m with colls := [sourceTaken die x (readNonfinite c x.1) c] } := by
  have hfind : m.colls.find? (fun c => decide (c.slot = slot) && decide (c.group = group) && decide (c.seq = seq)
      && decide (c.op = op) && decide (c.st = .data)) = some c := by
    simp [hm, hs, hg, hq, hop, hst]
  simp only [collRead, hfind, hd, hready, hreads, hsrc, Bool.false_eq_true, if_false, if_true]
  rw [updColl_one hm (sameColl_self c)]
  rfl

/-- R485: a module-local group goes on only when every die that gives has read its source. -/
theorem collAdvance_local_waits {m : Dev} {c d : Coll} {g : Group} (hm : m.colls = [d]) (hsame : sameColl c d = true)
    (hgroup : groupAt' m d.slot d.group = some g) (hlocal : isLocal g = true) (hop : d.op ≠ 1 ∧ d.op ≠ 7)
    (hunread : ∃ e ∈ d.dies, e.src ≠ 0 ∧ e.engine = none ∧ e.ready = false) : collAdvance c m = m := by
  obtain ⟨e, he, hsrc, heng, hready⟩ := hunread
  simp only [collAdvance, findColl_one hm hsame, hgroup, hlocal, if_true]
  refine if_neg fun h => ?_
  have hall := List.all_eq_true.mp h.2 e he
  split at hall
  next h1 => exact hop.1 h1
  next h7 => exact hop.2 h7
  next => simp [gives, heng, hsrc, hready] at hall

/-! ### The root of a broadcast or a scatter (R481, R482) -/

theorem bitsOf_two_pow {l : Nat} (hl : l < 32) : bitsOf 32 (2 ^ l) = [l] := by
  revert l
  decide

/-- A collective that moves its tensor down one tree from its root. -/
def rootPhase (tr : Nat) (c : Coll) : CollPhase := { reduce := false, tree := tr, root := c.root, first := 0, len := c.bytes }

theorem collPhases_root {m : Dev} {c : Coll} {g : Group} {tr : Nat} (hgroup : groupAt' m c.slot c.group = some g)
    (htree : groupTree g c.root = some tr) (hop : c.op = 1 ∨ c.op = 7) : collPhases m c = [rootPhase tr c] := by
  rcases hop with hop | hop <;> simp [collPhases, hgroup, htree, hop, rootPhase]

theorem chunkCount_root {c : Coll} (tr : Nat) (hlo : 0 < c.bytes) (hhi : c.bytes ≤ 2 ^ c.chunkLog) : chunkCount c (rootPhase tr c) = 1 := by
  have hpos := Nat.two_pow_pos c.chunkLog
  exact Nat.div_eq_of_lt_le (by simp only [rootPhase]; omega) (by simp only [rootPhase]; omega)

theorem treeLinks_root {m : Dev} {tr l : Nat} {e : TreeEntry} (htree : treeOf m tr = some e) (hup : e.up = 0xFF) (hdown : e.down = 2 ^ l)
    (hl : l < 32) : treeLinks m tr = { up := none, down := [l] } := by
  simp [treeLinks, htree, hup, hdown, bitsOf_two_pow hl]

/-- R503: what is read neither from a stack that throttles nor delayed stays so whatever collectives are in flight. -/
theorem hotDelay_colls {m : Dev} {a : Nat} (h : hotDelay m a = (false, m)) (colls : List Coll) :
    hotDelay { m with colls := colls } a = (false, { m with colls := colls }) := by
  unfold hotDelay at h ⊢
  split
  next k hk =>
    rw [hk] at h
    dsimp only at h ⊢
    by_cases hlev : 0 < (tget {} m.mem.hbm k).level
    · rw [if_pos hlev] at h
      have hfree := congrArg (fun x : Bool × Dev => x.2.free) h
      exact absurd hfree (Nat.succ_ne_self _)
    · exact if_neg hlev
  next => rfl

/-- A die without a destination keeps nothing of a result. -/
theorem writeDie_none {m : Dev} {c d : Coll} (hfind : findColl m c = some d) (h : ∀ x ∈ d.dies, x.engine = none ∧ x.dst = 0) (die first : Nat)
    (x : Contrib) (nonf : Bool) : writeDie c die first x nonf m = m := by
  unfold writeDie
  rw [hfind]
  simp only [Option.bind_some]
  cases hd : d.dies.find? (fun e => decide (e.die = die)) with
  | none => rfl
  | some e =>
    obtain ⟨heng, hdst⟩ := h e (List.mem_of_find?_eq_some hd)
    simp only [heng, hdst, if_true, ite_self]

/-- The chunk that carries what the root has read. -/
def rootChunk (m : Dev) (c : Coll) (tr : Nat) (x : Contrib) : Chunk :=
  { collChunk m c 3 0 tr with phase := 0, chunk := 0, payload := x.data, poison := x.poison }

/-- A chunk of a broadcast at a module that keeps nothing of it: it goes out on the link DOWN. -/
theorem broadcastChunk_sends {m : Dev} {c : Coll} {p : CollPhase} {l : Nat} {x : Contrib} (hm : m.colls = [c])
    (hdies : ∀ d ∈ c.dies, d.engine = none ∧ d.dst = 0) (hlinks : treeLinks m p.tree = { up := none, down := [l] })
    (hpoison : x.poison.any id = false) (htakes : (linkAt m l).takes c.vc (chunkBytes (rootChunk m c p.tree x)) = true) :
    ∃ links fabs, broadcastChunk c p 0 0 0 x m = { m with
      out := m.out ++ [.chunk l (rootChunk m c p.tree x)], net := { m.net with links := links }, fabs := fabs
      colls := [{ c with doneChunks := c.doneChunks ++ [(0, 0)] }] } := by
  obtain ⟨links, hsend, -⟩ := sendUnit_takes m l _ _ (.chunk l (rootChunk m c p.tree x)) htakes
  obtain ⟨u, hdown, hu⟩ : ∃ u, sendDown m { up := none, down := [l] } (rootChunk m c p.tree x) = u
      ∧ u = { m with out := m.out ++ [.chunk l (rootChunk m c p.tree x)], net := { m.net with links := links } } := ⟨_, rfl, hsend⟩
  have hucolls : u.colls = [c] := by rw [hu]; exact hm
  have hkeep (u : Dev) (hu : u.colls = [c]) (dies : List Nat) (first : Nat) (nonf : Bool) :
      dies.foldl (fun m d => writeDie c d first x nonf m) u = u := by
    refine List.foldlRecOn (motive := (· = u)) _ _ rfl fun t ht d _ => ?_
    rw [ht, writeDie_none (findColl_one hu (sameColl_self c)) hdies]
  unfold rootChunk at hdown
  unfold broadcastChunk
  simp only [hlinks, hpoison, Nat.zero_and, Bool.false_eq_true, if_false, Nat.or_zero, hdown, List.isEmpty_cons]
  rw [hkeep (collActive u _ _ _) hucolls, updColl_one (m := collActive u _ _ _) hucolls (sameColl_self c), hu]
  exact ⟨_, _, rfl⟩

/-- R481: the root's source goes out as one chunk, and the collective waits for its child. -/
theorem collAdvance_root {m : Dev} {b c : Coll} {d : CollDie} {g : Group} {e : TreeEntry} {tr l : Nat} {data : List Byte} {marks : List Bool}
    (hm : m.colls = [c]) (hsame : sameColl b c = true) (hgroup : groupAt' m c.slot c.group = some g) (hlocal : isLocal g = false)
    (htree : groupTree g c.root = some tr)
    (hop : c.op = 1 ∨ c.op = 7) (hentry : treeOf m tr = some e) (hup : e.up = 0xFF) (hl : l < 32) (hdown : e.down = 2 ^ l)
    (hlo : 0 < c.bytes) (hhi : c.bytes ≤ 2 ^ c.chunkLog) (hst : c.st = .data) (hdone : c.doneChunks = []) (hendeds : c.endeds = [])
    (hthr : c.throttled = false) (hdies : c.dies = [d]) (hroot : ownPos m = c.root) (hdie : d.die = c.rootDie) (hlt : d.die < 8)
    (heng : d.engine = none) (hdst : d.dst = 0) (hcontrib : d.contrib = some (data, marks)) (hlen : data.length = c.bytes)
    (hmarks : marks = soundMarks c.bytes) (hhot : hotDelay m d.src = (false, m))
    (htakes : (linkAt m l).takes c.vc (chunkBytes (rootChunk m c tr { data := data, poison := marks })) = true) :
    ∃ links fabs, collAdvance b m = { m with
      out := m.out ++ [.chunk l (rootChunk m c tr { data := data, poison := marks })], net := { m.net with links := links }, fabs := fabs
      colls := [{ c with doneChunks := [(0, 0)] }] } := by
  have hphases := collPhases_root hgroup htree hop
  have hcount := chunkCount_root tr hlo hhi
  have hlinks := treeLinks_root hentry hup hdown hl
  have hanchor : anchorOf m c = d.die := by
    rw [anchorOf, if_pos ⟨hroot, hdie ▸ hlt⟩, hdie]
  obtain ⟨links, fabs, hsend⟩ := broadcastChunk_sends (p := rootPhase tr c) (x := { data := data, poison := marks }) hm
    (by rw [hdies]; simp [heng, hdst]) hlinks (by simp [hmarks, soundMarks]) htakes
  have hkeep : updColl m c (fun c => { c with throttled := c.throttled }) = m := by
    rw [updColl_one hm (sameColl_self c), ← hm]
  have hdata : data.take (min (2 ^ c.chunkLog) c.bytes) = data := by rw [Nat.min_eq_right hhi, ← hlen, List.take_length]
  have hpoison : marks.take ((min (2 ^ c.chunkLog) c.bytes + 63) / 64) = marks := by
    rw [Nat.min_eq_right hhi, List.take_of_length_le (by simp [hmarks, soundMarks])]
  have hsrc : srcAddr d = d.src := by simp [srcAddr, heng]
  have hstep : collStep c (collPhases m c) m = some (broadcastChunk c (rootPhase tr c) 0 0 0 { data := data, poison := marks } m) := by
    have hphase : phaseStep c [rootPhase tr c] 0 (rootPhase tr c) m
        = some (broadcastChunk c (rootPhase tr c) 0 0 0 { data := data, poison := marks } m) := by
      simp only [phaseStep, nextChunk, hdone, List.filter_nil, List.length_nil, hcount, if_neg Nat.one_ne_zero, Nat.le_zero]
      simp [rootPhase, hlinks, hdies, hanchor, hcontrib, hsrc, hhot, hkeep, hdata, hpoison, hthr, b2n]
    simp [collStep, hphases, hphase]
  have hfuel : collFuel m c = 1 := by simp [collFuel, hphases, hcount]
  have hadv : collAdvance b m = tryEnd c (broadcastChunk c (rootPhase tr c) 0 0 0 { data := data, poison := marks } m) := by
    simp only [collAdvance, findColl_one hm hsame, hgroup, hlocal, Bool.false_eq_true, if_false, hfuel]
    rw [collRun, findColl_one hm (sameColl_self c)]
    simp only [hst, if_true, hstep]
    rfl
  rw [hadv, hsend, tryEnd, findColl_one (d := { c with doneChunks := c.doneChunks ++ [(0, 0)] }) rfl (by simp [sameColl_iff])]
  refine ⟨links, fabs, (if_neg fun h => ?_).trans (by rw [hdone]; rfl)⟩
  obtain ⟨-, -, hall, -⟩ := h
  have hdown' : (collTree m c).down = [l] := by simp [collTree, hgroup, htree, hlinks]
  have hend := List.all_eq_true.mp hall l (show l ∈ (collTree m c).down by rw [hdown']; exact List.mem_singleton_self l)
  simp [hendeds] at hend

/-- Settles O20: the engine reads its source; a local group waits for the other dies, and the root of a tree sends its chunk down. -/
theorem collectiveSourcesAreRead : Obligations.CollectiveSourcesAreRead := by
  unfold Obligations.CollectiveSourcesAreRead
  intro s die slot group seq c d g hgroup hd hready hsrc heng hs hg hq hst hone hdam hadmit hsound
  subst hs hg hq
  have hdie : d.die = die := by simpa using List.find?_some hd
  have hgives : gives d = true := by simp [gives, heng, hsrc]
  have hread : dieSource s.m c d = ((memRead s.m.mem d.src c.bytes, soundMarks c.bytes), s.m) :=
    dieSource_sound hone hdam (by rw [hdie]; exact hadmit) hsound heng
  refine ⟨fun x hx hwf hop hred hlocal hm hother => ?_, fun x hx tr e l hwf hop hlocal hm hdies hdst hroot hrootDie htree hentry hup hl hdown
    hlo hhi hdone hstaged hendeds hthr hhot htakes => ?_⟩
  · have hnonf : readNonfinite c (memRead s.m.mem d.src c.bytes) = false := by
      simp only [List.mem_cons, List.not_mem_nil, or_false, not_or] at hred
      simp [readNonfinite, hred]
    have hcoll : collLocal s.m c = true := by simp [collLocal, hgroup, hlocal]
    have hrun (n : Nat) (hn : c.op = n) (h17 : n ≠ 1 ∧ n ≠ 7) : collRead n die c.slot c.group c.seq s.m = { s.m with colls := [{ c with
        dies := c.dies.map (fun e => if e.die = die then { e with ready := true, contrib := some (memRead s.m.mem d.src c.bytes, soundMarks c.bytes) }
          else e) }] } := by
      have hreads : readsSource s.m c d = true := by
        simp only [readsSource, hgives, Bool.true_and, hcoll, Bool.true_or]
        split
        next h1 => exact absurd (hn.symm.trans h1) h17.1
        next h7 => exact absurd (hn.symm.trans h7) h17.2
        next => rfl
        next => rfl
      rw [collRead_reads hm rfl rfl rfl hn hst hd hready hreads hread, hnonf]
      have htaken : sourceTaken die (memRead s.m.mem d.src c.bytes, soundMarks c.bytes) false c = { c with
          dies := c.dies.map (fun e => if e.die = die then { e with ready := true, contrib := some (memRead s.m.mem d.src c.bytes, soundMarks c.bytes) }
            else e) } := by simp [sourceTaken]
      rw [← htaken]
      refine collAdvance_local_waits (d := sourceTaken die _ false c) rfl (by simp [sameColl_iff, sourceTaken]) hgroup hlocal
        (by rw [← hn] at h17; exact h17) ?_
      obtain ⟨y, hy, hne, hysrc, hyeng, hyready⟩ := hother
      exact ⟨y, List.mem_map.mpr ⟨y, hy, if_neg hne⟩, hysrc, hyeng, hyready⟩
    simp only [List.mem_cons, List.not_mem_nil, or_false] at hx
    rcases hx with rfl | rfl | rfl | rfl | rfl | rfl <;> exact onDev_next_of hwf (hrun _ hop (by decide))
  · have hlt : die < 8 := by
      simp only [List.mem_cons, List.not_mem_nil, or_false] at hx
      rcases hx with rfl | rfl <;> exact of_decide_eq_true ((Bool.and_eq_true _ _ ▸ hwf : _ ∧ _).1)
    have hcoll : collLocal s.m c = false := by simp [collLocal, hgroup, hlocal]
    have hrun (n : Nat) (hn : c.op = n) (h17 : n = 1 ∨ n = 7) : ∃ links fabs colls, collRead n die c.slot c.group c.seq s.m = { s.m with
        out := s.m.out ++ [.chunk l (rootChunk s.m c tr { data := memRead s.m.mem d.src c.bytes, poison := soundMarks c.bytes })]
        net := { s.m.net with links := links }, fabs := fabs, colls := colls } := by
      have hreads : readsSource s.m c d = true := by
        rcases h17 with rfl | rfl <;> simp [readsSource, hgives, hn, hcoll, hroot, hdie, hrootDie]
      rw [collRead_reads hm rfl rfl rfl hn hst hd hready hreads hread]
      generalize readNonfinite c (memRead s.m.mem d.src c.bytes) = nonf
      have htaken : sourceTaken die (memRead s.m.mem d.src c.bytes, soundMarks c.bytes) nonf c = { c with dies := [{ d with
          contrib := some (memRead s.m.mem d.src c.bytes, soundMarks c.bytes), ready := true, nonfinite := d.nonfinite || nonf }] } := by
        simp [sourceTaken, hdies, hdie]
      rw [htaken]
      obtain ⟨links, fabs, h⟩ := collAdvance_root (b := c) (m := { s.m with colls := [{ c with dies := [{ d with
          contrib := some (memRead s.m.mem d.src c.bytes, soundMarks c.bytes), ready := true, nonfinite := d.nonfinite || nonf }] }] })
        rfl (by simp [sameColl_iff]) hgroup hlocal htree (by rw [← hn] at h17; exact h17) hentry hup hl hdown hlo hhi hst hdone hendeds hthr rfl
        hroot.symm (hdie.trans hrootDie.symm) (hdie ▸ hlt) heng hdst rfl (by simp [memRead]) rfl (hotDelay_colls hhot _) htakes
      exact ⟨links, fabs, _, h⟩
    simp only [List.mem_cons, List.not_mem_nil, or_false] at hx
    rcases hx with rfl | rfl
    · obtain ⟨links, fabs, colls, h⟩ := hrun _ hop (.inl rfl)
      exact ⟨_, onDev_next_of hwf h, rfl, rfl⟩
    · obtain ⟨links, fabs, colls, h⟩ := hrun _ hop (.inr rfl)
      exact ⟨_, onDev_next_of hwf h, rfl, rfl⟩

end Sys2Proof.Machine
end

section
/-! PROOFS of the family 12_collectives: a command bank with one descriptor, and an engine that waits (R487 to R490, R504). -/

namespace Sys2Proof.Machine

/-! ### Checks of a descriptor (R489) -/

/-- Reading the header of a command bank changes none of what the checks read. -/
theorem ownsBank_headerRead (m : Dev) (die bank unit slot d b : Nat) :
    ownsBank (headerRead m die bank) unit slot d b = ownsBank m unit slot d b := by
  simp only [ownsBank, headerRead, bankAt_updBank]
  split
  next h => rw [show bankAt m d b = bankAt m die bank by rw [bankAt, bankAt, h]]
  next => rfl

theorem collResult_headerRead (m : Dev) (die bank e slot : Nat) (d : List Byte) :
    collResult (headerRead m die bank) e slot d = collResult m e slot d := by
  have hrange (a len : Nat) : collRange (headerRead m die bank) e slot a len = collRange m e slot a len := by
    simp only [collRange, ownsBank_headerRead]
  have htests (c : Coll) (g : Group) : groupTests (headerRead m die bank) e c g d = groupTests m e c g d := by
    simp only [groupTests, ownsBank_headerRead]
    rfl
  simp only [collResult, hrange, htests]
  rfl

/-! ### A collective begins (R490) -/

/-- The collective that a descriptor begins. -/
def collBegun (m : Dev) (die slot : Nat) (d : List Byte) : Coll :=
  let c := collOf m slot d
  let dg := collDigest c (match jobAt m slot with | some j => j.id | none => 0)
  { c with digest := dg, st := .header, dies := [{
      die := die, src := recField d 24 8, dst := recField d 32 8, doneAddr := recField d 40 8
      stageFirst := recField d 48 1, stageCount := recField d 49 1, digest := dg }] }

/-- The group has given its number to a collective. -/
def collNumbered (m : Dev) (die slot : Nat) (d : List Byte) : Dev :=
  updGroup (updFab m die (fun f => { f with posted := sat 32 (f.posted + 1) })) slot (collOf m slot d).group
    (fun g => { g with seq := (g.seq + 1) % 2 ^ 32 })

/-- The module when a collective has begun, before its header pass. -/
def collPosted (m : Dev) (die slot : Nat) (d : List Byte) : Dev :=
  collCount { collNumbered m die slot d with colls := m.colls ++ [collBegun m die slot d] } (collBegun m die slot d) 0

theorem groupAt'_collCount (m : Dev) (c : Coll) (i : Nat) : groupAt' (collCount m c i) c.slot c.group
    = (groupAt' m c.slot c.group).map (fun g => { g with stats := setNth g.stats i (nth 0 g.stats i + 1) }) :=
  groupAt'_updGroup m c.slot c.group _

theorem groupAt'_collNumbered {m : Dev} {slot : Nat} {d : List Byte} {g : Group} (die : Nat)
    (hg : groupAt' m slot (recField d 4 2) = some g) :
    groupAt' (collNumbered m die slot d) slot (recField d 4 2) = some { g with seq := (g.seq + 1) % 2 ^ 32 } :=
  (groupAt'_updGroup (updFab m die _) slot (recField d 4 2) _).trans (congrArg _ hg)

theorem groupAt'_collPosted {m : Dev} {slot : Nat} {d : List Byte} {g : Group} (die : Nat)
    (hg : groupAt' m slot (recField d 4 2) = some g) : groupAt' (collPosted m die slot d) slot (recField d 4 2)
      = some { g with seq := (g.seq + 1) % 2 ^ 32, stats := setNth g.stats 0 (nth 0 g.stats 0 + 1) } := by
  have hcount := groupAt'_collCount { collNumbered m die slot d with colls := m.colls ++ [collBegun m die slot d] } (collBegun m die slot d) 0
  have hseq : groupAt' { collNumbered m die slot d with colls := m.colls ++ [collBegun m die slot d] } (collBegun m die slot d).slot
      (collBegun m die slot d).group = some { g with seq := (g.seq + 1) % 2 ^ 32 } := groupAt'_collNumbered die hg
  rw [hseq] at hcount
  exact hcount

theorem fabAt_collPosted (m : Dev) (die slot : Nat) (d : List Byte) :
    fabAt (collPosted m die slot d) die = { fabAt m die with posted := sat 32 ((fabAt m die).posted + 1) } := by
  simp only [fabAt, collPosted, collCount, updJob, updGroup, collNumbered, updFab, tget_tmod, if_pos]

theorem collPosted_frame (m : Dev) (die slot : Nat) (d : List Byte) : ∃ fabs groups jobs, collPosted m die slot d
    = { m with fabs := fabs, groups := groups, jobs := jobs, colls := m.colls ++ [collBegun m die slot d] } := by
  simp only [collPosted, collCount, updJob, updGroup, collNumbered, updFab]
  exact ⟨_, _, _, rfl⟩

theorem collAccept_new {m : Dev} {die slot : Nat} {d : List Byte} (hmate : m.colls.find? (fun x => decide (x.slot = slot)
      && decide (x.group = (collOf m slot d).group) && decide (x.st ≠ .stopped) && !x.dies.any (fun y => decide (y.die = die))) = none)
    (hfind : findColl (collPosted m die slot d) (collBegun m die slot d) = some (collBegun m die slot d)) :
    collAccept die slot d false m = startHeader (collBegun m die slot d) (collPosted m die slot d) := by
  unfold collAccept
  simp only [hmate]
  split
  next x hx =>
    obtain rfl : collBegun m die slot d = x := Option.some.inj (hfind.symm.trans hx)
    rfl
  next hx => cases hfind.symm.trans hx

/-- What the acceptance of a descriptor that begins a collective leaves of the module `m`. -/
structure CollAccepted (m : Dev) (die slot : Nat) (d : List Byte) (g : Group) (t : Dev) : Prop where
  colls : t.colls = m.colls ++ [collBegun m die slot d]
  fab : (fabAt t die).posted = min ((fabAt m die).posted + 1) (2 ^ 32 - 1)
  group : ∀ g', groupAt' t slot (recField d 4 2) = some g' → g'.seq = (g.seq + 1) % 2 ^ 32
  frame : ∃ fabs groups jobs colls, t = { m with fabs := fabs, groups := groups, jobs := jobs, colls := colls }

theorem collAccept_begins {m : Dev} {die slot : Nat} {d : List Byte} {g : Group} (hg : groupAt' m slot (recField d 4 2) = some g)
    (hmiss : ∃ x < 8, x ≠ die ∧ bitOf g.dies x = true) (hearly : g.early = [])
    (hnone : ∀ x ∈ m.colls, x.slot = slot → x.group ≠ recField d 4 2) : CollAccepted m die slot d g (collAccept die slot d false m) := by
  have hmate : m.colls.find? (fun x => decide (x.slot = slot) && decide (x.group = (collOf m slot d).group) && decide (x.st ≠ .stopped)
      && !x.dies.any (fun y => decide (y.die = die))) = none := by
    refine List.find?_eq_none.mpr fun x hx h => ?_
    simp only [Bool.and_eq_true, decide_eq_true_eq] at h
    exact hnone x hx h.1.1.1 h.1.1.2
  have hfind : findColl (collPosted m die slot d) (collBegun m die slot d) = some (collBegun m die slot d) := by
    have hold : m.colls.find? (sameColl (collBegun m die slot d)) = none := by
      refine List.find?_eq_none.mpr fun x hx h => ?_
      obtain ⟨hslot, hgroup, -⟩ := (sameColl_iff _ _).mp h
      exact hnone x hx hslot.symm hgroup.symm
    change (m.colls ++ [collBegun m die slot d]).find? (sameColl (collBegun m die slot d)) = _
    rw [List.find?_append, hold, List.find?_singleton, sameColl_self]
    rfl
  have hgroup := groupAt'_collPosted die hg
  have hfab := fabAt_collPosted m die slot d
  have hnew := collAccept_new hmate hfind
  obtain ⟨fabs, groups, jobs, hframe⟩ := collPosted_frame m die slot d
  obtain ⟨x, hx, hne, hbit⟩ := hmiss
  rw [startHeader_waits hfind hgroup hearly ⟨x, hx, hbit, fun y hy => by
    rw [List.mem_singleton.mp hy]
    exact hne.symm⟩] at hnew
  have hput := groupAt'_updGroup (collPosted m die slot d) slot (recField d 4 2)
    (fun _ => { g with seq := (g.seq + 1) % 2 ^ 32, stats := setNth g.stats 0 (nth 0 g.stats 0 + 1) })
  rw [hgroup] at hput
  rw [hnew]
  refine ⟨congrArg (·.colls) hframe, congrArg Fab.posted hfab, fun g' hg' => ?_, _, _, _, _, by rw [hframe]; rfl⟩
  rw [← Option.some.inj (hput.symm.trans hg')]

/-! ### A batch of one descriptor (R487) -/

theorem collPost_accepted {die slot addr : Nat} {m : Dev} {d : List Byte} (hd : memRead m.mem (addr + 64) 64 = d)
    (hres : collResult m die slot d = 0) :
    collPost die slot addr (0, 0, m) 0 = (1, 0, collAccept die slot d false (ownWrite m (addr + 124) (leBytes 1 0))) := by
  simp [collPost, hd, hres]

/-- The batch's descriptor is accepted, and the header counts it. -/
theorem collHandover_one {m : Dev} {die bank slot a : Nat} {b : Bank} {d : List Byte} (hb : bankAt m die bank = b) (howner : b.owner = 0xC0)
    (hvalid : b.jobValid = true) (hslot : b.jobSlot = slot) (ha : bankAddr die bank = a) (hmagic : memNat m.mem a 2 = 0xA7C0)
    (hcount : memNat m.mem (a + 2) 2 = 1) (hd : memRead m.mem (a + 64) 64 = d) (hres : collResult m die slot d = 0) :
    collHandover die bank m = ownWrite (collAccept die slot d false (ownWrite (headerRead m die bank) (a + 124) (leBytes 1 0)))
      (a + 8) (leBytes 4 1 ++ leBytes 4 0) := by
  have hpost := collPost_accepted (addr := a) (m := headerRead m die bank) hd ((collResult_headerRead m die bank die slot d).trans hres)
  have hmem : memNat (headerRead m die bank).mem a 2 = 0xA7C0 := hmagic
  unfold collHandover
  simp only [hb, howner, hvalid, and_self, if_true, ha, hcount, hmem, hslot, List.range_one, List.foldl_cons, List.foldl_nil, hpost]
  exact if_pos (by decide)

/-- Settles O23: a batch of one descriptor begins a collective, which waits for the other dies of its group. -/
theorem collectivePosting : Obligations.CollectivePosting := by
  unfold Obligations.CollectivePosting
  refine ⟨fun s die bank slot a b g d hwf hb howner hvalid hslot ha hmagic hcount hd hres hg hmiss hearly hnone hhost => ?_,
    fun s die below hwf => ⟨_, onDev_next _ s hwf, ?_, fun d hd => ?_, rfl⟩⟩
  · subst ha
    have hrun := collHandover_one hb howner hvalid hslot rfl hmagic hcount hd hres
    have hbanks : bankAt (headerRead s.m die bank) die bank = { b with fresh := false } := by rw [headerRead, bankAt_updBank_same, hb]
    have hothers (e x : Nat) (h : e * 160 + x ≠ die * 160 + bank) : bankAt (headerRead s.m die bank) e x = bankAt s.m e x :=
      bankAt_updBank_other s.m _ h
    have hhost' : underHost (headerRead s.m die bank) (bankAddr die bank) 0x100000 = false := hhost
    rw [ownWrite_bank (o := 124) hhost' (by simp)] at hrun
    have hacc := collAccept_begins (m := { headerRead s.m die bank with
      mem := memWrite (headerRead s.m die bank).mem (bankAddr die bank + 124) (leBytes 1 0) }) (d := d) hg
      (hmiss.imp fun x hx => ⟨hx.1, hx.2.1, hx.2.2⟩) hearly hnone
    generalize collAccept die slot d false _ = u at hrun hacc
    obtain ⟨fabs, groups, jobs, colls, hframe⟩ := hacc.frame
    have hhost'' : underHost u (bankAddr die bank) 0x100000 = false := by rw [hframe]; exact hhost
    rw [ownWrite_bank (o := 8) hhost'' (by simp)] at hrun
    have humem : u.mem = memWrite s.m.mem (bankAddr die bank + 124) (leBytes 1 0) := by rw [hframe]; rfl
    refine ⟨_, onDev_next_of hwf hrun, ?_, ?_, ?_, ⟨_, hacc.colls, rfl, rfl, ?_, rfl, rfl, rfl, rfl⟩, hacc.group, hacc.fab, ?_,
      fun e x h => ?_, rfl, ?_, ?_⟩
    · change memByte (memWrite u.mem _ _) _ = 0
      rw [memByte_memWrite_out _ _ _ _ (.inr (by simp)), humem]
      exact memByte_memWrite_in s.m.mem (bankAddr die bank + 124) (leBytes 1 0) 0 (by simp)
    · exact congrArg leNat (memRead_memWrite u.mem (bankAddr die bank + 8) (leBytes 4 1 ++ leBytes 4 0) (o := 0) (n := 4) (by simp))
    · exact congrArg leNat (memRead_memWrite u.mem (bankAddr die bank + 8) (leBytes 4 1 ++ leBytes 4 0) (o := 4) (n := 4) (by simp))
    · change (match groupAt' s.m slot (recField d 4 2) with | some g => g.seq | none => 0) = g.seq
      rw [hg]
    · refine Eq.trans ?_ hbanks
      rw [hframe]
      rfl
    · refine Eq.trans ?_ (hothers e x h)
      rw [hframe]
      rfl
    · rw [hframe]; rfl
    · rw [hframe]; rfl
  · exact congrArg Fab.waiting ((fabAt_updFab s.m die die _).trans (if_pos rfl))
  · exact (fabAt_updFab s.m die d _).trans (if_neg hd)

end Sys2Proof.Machine
end

section
/-! PROOFS of the family 14_securing: the packets of a generation (R562, R563, R569, R574). -/

namespace Sys2Proof.Machine

/-! ### One job's securing changes -/

theorem OnlyJob.updSecure {slot : Nat} {j : Job} {x : Secure} {m r : Dev} (h : OnlyJob slot { j with secure := x } m r) (f : Secure → Secure) :
    OnlyJob slot { j with secure := f x } m (updSecure r slot f) := h.updJob fun j => { j with secure := f j.secure }

theorem OnlyJob.of_secure {slot : Nat} {j : Job} {x : Secure} {m : Dev} (h : jobAt m slot = some j) (hx : j.secure = x) :
    OnlyJob slot { j with secure := x } m m := .refl (hx ▸ h)

theorem OnlyJob.of_jobs {slot : Nat} {j : Job} {m r t : Dev} (h : OnlyJob slot j m r) (ht : t.jobs = r.jobs) : OnlyJob slot j m t := by
  simp only [OnlyJob, jobAt, ht] at h ⊢
  exact h

/-- One hold slot of a job changes (R549). -/
def holdSet (x : Secure) (i : Nat) (f : Hold → Hold) : Secure := { x with holds := tmod {} x.holds i f }

theorem holdAt_holdSet (x : Secure) (i k : Nat) (f : Hold → Hold) :
    holdAt (holdSet x i f) k = if k = i then f (holdAt x i) else holdAt x k := tget_tmod ({} : Hold) x.holds i k f

/-- In `y` hold slot `i` is `h`, and the rest is as in `x`. -/
structure HoldOnly (x : Secure) (i : Nat) (h : Hold) (y : Secure) : Prop where
  same : holdAt y i = h
  others : ∀ k, k ≠ i → holdAt y k = holdAt x k
  frame : y = { x with holds := y.holds }

theorem HoldOnly.refl (x : Secure) (i : Nat) : HoldOnly x i (holdAt x i) x := ⟨rfl, fun _ _ => rfl, rfl⟩

theorem HoldOnly.set {x y : Secure} {i : Nat} {h : Hold} (hy : HoldOnly x i h y) (f : Hold → Hold) : HoldOnly x i (f h) (holdSet y i f) where
  same := by rw [holdAt_holdSet, if_pos rfl, hy.same]
  others k hk := by rw [holdAt_holdSet, if_neg hk, hy.others k hk]
  frame := by
    rw [hy.frame]
    rfl

theorem OnlyJob.updHold {slot i : Nat} {j : Job} {x : Secure} {m r : Dev} (h : OnlyJob slot { j with secure := x } m r) (f : Hold → Hold) :
    OnlyJob slot { j with secure := holdSet x i f } m (updHold r slot i f) := h.updSecure _

/-! ### Control packets of a generation (R548, R561) -/

/-- R548: a packet goes out at once on the first of its links that is up. -/
theorem secureSend_takes {m : Dev} {links dest l : Nat} {payload : List Byte}
    (hup : ((bitsOf 32 links).filter (fun l => linkUp (linkAt m l))).head? = some l)
    (htakes : (linkAt m l).takes 6 (40 + payload.length) = true) :
    ∃ ls, secureSend m links dest payload = { m with
        out := m.out ++ [.packet l (controlPacket m dest payload)], net := { m.net with links := ls } }
      ∧ sentOn m (secureSend m links dest payload) l 6 (40 + payload.length) := by
  have hsend : secureSend m links dest payload
      = sendUnit m l 6 (40 + payload.length) (.packet l (controlPacket m dest payload)) := by
    cases hl : (bitsOf 32 links).filter (fun l => linkUp (linkAt m l)) with
    | nil => simp [hl] at hup
    | cons k ks =>
      rw [hl] at hup
      obtain rfl := Option.some.inj hup
      simp [secureSend, sendStriped, hl, nth, controlPacket, packetBytes]
  rw [hsend]
  exact sendUnit_takes m l 6 _ _ htakes

theorem length_securePayload (kind jobId gen : Nat) (rest : List Byte) : (securePayload kind jobId gen rest).length = 64 := length_padTo ..

/-- A module answers a generation's packet on link `l`: the job's securing is `y` then. -/
structure SecureAnswer (slot : Nat) (j : Job) (y : Secure) (l dest : Nat) (payload : List Byte) (m u : Dev) : Prop where
  out : u.out = m.out ++ [.packet l (controlPacket m dest payload)]
  sent : sentOn m u l 6 104
  job : OnlyJob slot { j with secure := y } m u
  frame : u = { m with jobs := u.jobs, out := u.out, net := { m.net with links := u.net.links } }

theorem secureSend_answers {m r : Dev} {slot links dest l : Nat} {j : Job} {y : Secure} {kind jobId gen : Nat} {rest : List Byte}
    (hr : OnlyJob slot { j with secure := y } m r) (hframe : ∃ jobs, r = { m with jobs := jobs })
    (hup : ((bitsOf 32 links).filter (fun l => linkUp (linkAt m l))).head? = some l) (htakes : (linkAt m l).takes 6 104 = true) :
    SecureAnswer slot j y l dest (securePayload kind jobId gen rest) m (secureSend r links dest (securePayload kind jobId gen rest)) := by
  obtain ⟨jobs, rfl⟩ := hframe
  obtain ⟨ls, hsend, hsent⟩ := secureSend_takes (m := { m with jobs := jobs }) (dest := dest) (payload := securePayload kind jobId gen rest) hup
    (by rw [length_securePayload]; exact htakes)
  rw [length_securePayload] at hsent
  rw [hsend] at hsent ⊢
  exact ⟨rfl, hsent, hr.of_jobs rfl, rfl⟩

/-- R561: a packet of the job's partner, or of the one that it holds for, is taken. -/
theorem onSecure_taken {m : Dev} {js src : Nat} {j : Job} {c : SecureReq} (hfwd : forwarding m = true) (hj : jobAt m js = some j)
    (hc : j.secure.cfg = some c) (hsrc : src = c.partner ∨ src = c.heldFor) (f : Dev → Dev) : onSecure js src f m = f m := by
  have hs : secureSource m js src = true := by
    simpa [secureSource, hj, hc] using hsrc
  simp [onSecure, hfwd, hj, hs]

/-! ### The holder (R562) -/

section
variable {m : Dev} {slot i gen bytes link : Nat} {j : Job} {x : Secure} {c : SecureReq} (hj : jobAt m slot = some j) (hx : j.secure = x)
  (hc : x.cfg = some c)
include hj hx hc

theorem secureBegin_waits (hi : holdSlotOf c gen = i) (hholds : holdsFor c = true) (hread : slotRead x c i = true) :
    secureBegin slot c.heldFor gen bytes m
      = updHold (updHold m slot i (fun _ => { st := .receiving, gen := gen, bytes := bytes })) slot i (fun h => { h with readyOwed := true }) := by
  subst hi
  simp [secureBegin, hj, hx, hc, hholds, hread]

theorem secureBegin_answers (hi : holdSlotOf c gen = i) (hholds : holdsFor c = true) (hread : slotRead x c i = false) :
    secureBegin slot c.heldFor gen bytes m
      = sendReady slot j c i gen (updHold m slot i (fun _ => { st := .receiving, gen := gen, bytes := bytes })) := by
  subst hi
  simp [secureBegin, hj, hx, hc, hholds, hread]

theorem holdFree_answers (howed : (holdAt x i).readyOwed = true) (hread : slotRead x c i = false) :
    holdFree slot i m = sendReady slot j c i (holdAt x i).gen m := by
  simp [holdFree, hj, hx, hc, howed, hread]

omit hj hx hc in
/-- READY goes to the sender, and is owed no more. -/
theorem sendReady_answers {r : Dev} {l : Nat} {y : Secure} (hr : OnlyJob slot { j with secure := y } m r)
    (hframe : ∃ jobs, r = { m with jobs := jobs }) (hup : ((bitsOf 32 c.heldLinks).filter (fun l => linkUp (linkAt m l))).head? = some l)
    (htakes : (linkAt m l).takes 6 104 = true) :
    SecureAnswer slot j (holdSet y i (fun h => { h with readyOwed := false })) l c.heldFor (securePayload 0x12 j.id gen (leBytes 1 i)) m
      (sendReady slot j c i gen r) := by
  refine secureSend_answers (hr.updHold _) ?_ hup htakes
  obtain ⟨jobs, rfl⟩ := hframe
  exact ⟨_, rfl⟩

theorem secureEnd_taken (hi : holdSlotOf c gen = i) (hholds : holdsFor c = true) (hst : (holdAt x i).st = .receiving)
    (hgen : (holdAt x i).gen = gen) : secureEnd slot c.heldFor gen link bytes m
      = tryHeld slot i (updHold m slot i (fun h => { h with ends := tput h.ends link bytes })) := by
  subst hi
  simp [secureEnd, hj, hx, hc, hholds, hst, hgen]

theorem secureReady_taken (hi : holdSlotOf c gen = i) (hopen : x.opened = true) (hbegun : x.begun = gen) (hcopy : x.copy = 1) :
    secureReady slot c.partner gen i m = updSecure m slot (fun s => { s with copy := 2 }) := by
  subst hi
  simp [secureReady, hj, hx, hc, hopen, hbegun, hcopy]

theorem secureHeld_taken (hi : holdSlotOf c gen = i) (hopen : x.opened = true) (hbegun : x.begun = gen) (hcopy : x.copy = 2) :
    secureHeld slot c.partner gen i m = postSecure slot 0 m := by
  subst hi
  simp [secureHeld, hj, hx, hc, hopen, hbegun, hcopy]

end

/-- Every byte that the ENDs name has come (R562 item 5). -/
def holdFull (h : Hold) : Prop :=
  (∀ p ∈ h.got, tfind h.ends p.1 = some p.2) ∧ (∀ p ∈ h.ends, tget 0 h.got p.1 = p.2) ∧ (h.got.map (·.2)).sum = h.bytes

section
variable {m : Dev} {slot i : Nat} {j : Job} {y : Secure} {c : SecureReq} (hj : jobAt m slot = some { j with secure := y }) (hc : y.cfg = some c)
include hj hc

theorem tryHeld_waits (h : ((holdAt y i).got.map (·.2)).sum ≠ (holdAt y i).bytes) : tryHeld slot i m = m := by
  simp only [tryHeld, hj, hc]
  exact if_neg fun hcond => h hcond.2.2.2

theorem tryHeld_holds (hst : (holdAt y i).st = .receiving) (hfull : holdFull (holdAt y i)) : tryHeld slot i m
    = secureSend (updHold m slot i (fun h => { h with st := .held, stepNext := recField (holdImage m slot i 64) 16 8 })) c.heldLinks c.heldFor
        (securePayload 0x14 j.id (holdAt y i).gen (leBytes 1 i)) := by
  obtain ⟨hgot, hends, hsum⟩ := hfull
  simp only [tryHeld, hj, hc]
  exact if_pos ⟨hst, List.all_eq_true.mpr fun p hp => decide_eq_true (hgot p hp),
    List.all_eq_true.mpr fun p hp => decide_eq_true (hends p hp), hsum⟩

end

/-! ### The record of a generation (R563) -/

/-- R563: the words of a member's secure record. -/
def secureWords (cause : Nat) : List Nat :=
  [1, if cause ≠ 0 then 1 else 0] ++ (List.range 5).map (fun n => if cause = n + 1 then 1 else 0) ++ List.replicate 9 0

theorem postSecure_posts {m : Dev} {slot : Nat} {j : Job} {x : Secure} {c : SecureReq} (hj : jobAt m slot = some j) (hx : j.secure = x)
    (hc : x.cfg = some c) : postSecure slot 0 m = postRecord slot c.group .secure j.epoch (secureWords x.failCause)
      { m with jobs := tput m.jobs slot { j with secure := { x with copy := 3 } } } := by
  have hcause : (if x.failCause ≠ 0 then x.failCause else 0) = x.failCause := by
    split
    · rfl
    next h => exact (not_not.mp h).symm
  have hupd (f : Secure → Secure) : updSecure m slot f = { m with jobs := tput m.jobs slot { j with secure := f x } } := by
    rw [updSecure, updJob, tupd_listed hj, hx]
  simp only [postSecure, hj, hx, hcause, hc, hupd, b2n, decide_eq_true_eq]
  rfl

/-- R563: the lowest cause that a record counts. -/
theorem secureCause_first {words : List Nat} {k : Nat} (h1 : 1 ≤ k) (h5 : k ≤ 5) (hne : nth 0 words (k + 1) ≠ 0)
    (hzero : ∀ n, 1 ≤ n → n < k → nth 0 words (n + 1) = 0) :
    (List.range 5).find? (fun i => decide (nth 0 words (i + 2) ≠ 0)) = some (k - 1) := by
  refine List.find?_range_eq_some.mpr ⟨?_, List.mem_range.mpr (by omega), fun n hn => ?_⟩
  · rw [show k - 1 + 2 = k + 1 by omega]
    exact decide_eq_true hne
  · simp [hzero (n + 1) (by omega) (by omega)]

section
variable {m : Dev} {slot : Nat} {j : Job} {x : Secure} {words : List Nat} (hj : jobAt m slot = some j) (hx : j.secure = x)
  (ho : j.isOrigin = true) (hopen : x.opened = true) (hnext : x.next = none)
include hj hx ho hopen hnext

theorem secureRecordDone_complete (h0 : nth 0 words 0 = j.members) (h1 : nth 0 words 1 = 0) :
    secureRecordDone slot words m = updSecure m slot (fun s => { s with next := some (2, 0, x.begun) }) := by
  simp [secureRecordDone, hj, hx, ho, hopen, hnext, h0, h1]

theorem secureRecordDone_failed {k : Nat} (h1 : nth 0 words 1 ≠ 0)
    (hfirst : (List.range 5).find? (fun i => decide (nth 0 words (i + 2) ≠ 0)) = some (k - 1)) (hk : 1 ≤ k) :
    secureRecordDone slot words m = updSecure m slot (fun s => { s with next := some (3, k, x.begun) }) := by
  simp only [secureRecordDone, hj, hx, ho, hopen, hnext, and_self, if_true, hfirst, h1, and_false, if_false, Option.map_some, Option.getD_some,
    Nat.sub_add_cancel hk]

theorem secureTimeout_fails : secureTimeout slot m = updSecure m slot (fun s => { s with next := some (3, 5, s.begun) }) := by
  simp [secureTimeout, hj, hx, ho, hopen, hnext]

end

theorem holdSlotOf_lt (c : SecureReq) (gen : Nat) : holdSlotOf c gen < 2 := by
  unfold holdSlotOf
  split
  · exact Nat.mod_lt _ (by decide)
  · decide

/-- One job's securing changes, and nothing else of the module. -/
theorem updSecure_only {s : State} {slot : Nat} {j : Job} {x : Secure} (hj : jobAt s.m slot = some j) (hx : j.secure = x) (f : Secure → Secure) :
    jobAt (updSecure s.m slot f) slot = some { j with secure := f x } ∧ (∀ k, k ≠ slot → jobAt (updSecure s.m slot f) k = jobAt s.m k)
      ∧ ({ s with m := updSecure s.m slot f } : State)
        = { s with m := { s.m with jobs := (updSecure s.m slot f).jobs, out := (updSecure s.m slot f).out } } :=
  have h := (OnlyJob.of_secure hj hx).updSecure f
  ⟨h.1, h.2, rfl⟩

/-- An answer as the settlement of the packets has it. -/
theorem SecureAnswer.holds {s : State} {slot i l dest : Nat} {j : Job} {x y : Secure} {h : Hold} {payload : List Byte} {u : Dev}
    (hans : SecureAnswer slot j y l dest payload s.m u) (hy : HoldOnly x i h y) :
    u.out = s.m.out ++ [.packet l (controlPacket s.m dest payload)] ∧ sentOn s.m u l 6 104
      ∧ ∃ y, (holdAt y i = h ∧ (∀ k, k ≠ i → holdAt y k = holdAt x k) ∧ y = { x with holds := y.holds })
        ∧ jobAt u slot = some { j with secure := y } ∧ (∀ k, k ≠ slot → jobAt u k = jobAt s.m k)
        ∧ ({ s with m := u } : State)
          = { s with m := { s.m with jobs := u.jobs, out := u.out, net := { s.m.net with links := u.net.links } } } :=
  ⟨hans.out, hans.sent, y, ⟨hy.same, hy.others, hy.frame⟩, hans.job.1, hans.job.2, congrArg (fun m => ({ s with m := m } : State)) hans.frame⟩

/-- Settles O40: each packet of a generation changes one hold slot or one field of the job's securing, and is answered on a link that is up. -/
theorem securingPackets : Obligations.SecuringPackets := by
  unfold Obligations.SecuringPackets
  intro s slot i gen j x c hslot hgen hpart hheld hj hx hc hi hfwd
  have hjc : j.secure.cfg = some c := hx ▸ hc
  have hpartner (f : Dev → Dev) : onSecure slot c.partner f s.m = f s.m := onSecure_taken hfwd hj hjc (.inl rfl) f
  have hholder (f : Dev → Dev) : onSecure slot c.heldFor f s.m = f s.m := onSecure_taken hfwd hj hjc (.inr rfl) f
  have hi2 : i < 2 := hi ▸ holdSlotOf_lt c gen
  have hbase := OnlyJob.of_secure hj hx
  have hopened := HoldOnly.refl x i
  have hready : (Instr.secureReady slot c.partner gen i).wf = true := by
    simp [Instr.wf, boundsWf, hslot, hpart, hi2]
    exact hgen
  refine ⟨fun src estimate hwf ho hph =>
      ⟨_, onDev_next_of (c := .secureRequest slot src estimate) hwf ?_, updSecure_only hj hx (fun s => { s with dueRisk := true }), rfl⟩,
    fun bytes hwf hholds => ⟨fun hread => ?_, fun l hread hlink => ?_⟩,
    fun l howed hg hread hlink => ?_, fun hopen hbegun => ⟨fun hcopy => ?_, fun hcopy => ?_⟩,
    fun link bytes e hwf hholds hst hg he => ⟨fun hsum => ?_, fun hgot hends hsum l hlink => ?_⟩,
    fun ho hopen hnext => ⟨fun words hwf => ⟨fun h0 h1 => ?_, fun k h1 hk1 hk5 hne hzero => ?_⟩, ?_⟩, ?_⟩
  · simp [arriving, hfwd, secureRequest, hj, ho, hph]
    rfl
  · have hrun := (hholder _).trans (secureBegin_waits (bytes := bytes) hj hx hc hi hholds hread)
    have hjob := (hbase.updHold (i := i) (fun _ => { st := .receiving, gen := gen, bytes := bytes })).updHold (i := i)
      (fun h => { h with readyOwed := true })
    have hhold := (hopened.set (fun _ => { st := .receiving, gen := gen, bytes := bytes })).set (fun h => { h with readyOwed := true })
    exact ⟨_, onDev_next_of (c := .secureBegin slot c.heldFor gen bytes) hwf hrun, rfl, _, ⟨hjob.1, hjob.2, rfl⟩,
      hhold.same, hhold.others, hhold.frame⟩
  · have hrun := (hholder _).trans (secureBegin_answers (bytes := bytes) hj hx hc hi hholds hread)
    have hhold := (hopened.set (fun _ => { st := .receiving, gen := gen, bytes := bytes })).set (fun h => { h with readyOwed := false })
    have hans := sendReady_answers (c := c) (gen := gen) (i := i) (hbase.updHold (i := i) (fun _ => { st := .receiving, gen := gen, bytes := bytes }))
      ⟨_, rfl⟩ hlink.1 hlink.2
    exact ⟨_, onDev_next_of (c := .secureBegin slot c.heldFor gen bytes) hwf hrun, hans.holds hhold⟩
  · have hrun := holdFree_answers hj hx hc howed hread
    rw [hg] at hrun
    have hans := sendReady_answers (c := c) (gen := gen) (i := i) hbase ⟨_, rfl⟩ hlink.1 hlink.2
    exact ⟨_, onDev_next_of (c := .holdSlotFree slot i) (by simp [Instr.wf, boundsWf, hslot, hi2]) hrun,
      hans.holds (hopened.set fun h => { h with readyOwed := false })⟩
  · exact ⟨_, onDev_next_of hready ((hpartner _).trans (secureReady_taken hj hx hc hi hopen hbegun hcopy)),
      updSecure_only hj hx (fun s => { s with copy := 2 }), rfl⟩
  · exact onDev_next_of (c := .secureHeld slot c.partner gen i) hready
      ((hpartner _).trans ((secureHeld_taken hj hx hc hi hopen hbegun hcopy).trans (postSecure_posts hj hx hc)))
  · subst he
    have hjob := hbase.updHold (i := i) (fun h => { h with ends := tput h.ends link bytes })
    have hhold := hopened.set (fun h => { h with ends := tput h.ends link bytes })
    have hwaits := tryHeld_waits (i := i) hjob.1 hc (by rw [hhold.same]; exact hsum)
    have hrun := (hholder _).trans ((secureEnd_taken (link := link) (bytes := bytes) hj hx hc hi hholds hst hg).trans hwaits)
    exact ⟨_, onDev_next_of (c := .secureEnd slot c.heldFor gen link bytes) hwf hrun, rfl, _, ⟨hjob.1, hjob.2, rfl⟩,
      hhold.same, hhold.others, hhold.frame⟩
  · subst he
    have hjob := hbase.updHold (i := i) (fun h => { h with ends := tput h.ends link bytes })
    have hhold := hopened.set (fun h => { h with ends := tput h.ends link bytes })
    have hholds' := tryHeld_holds (i := i) hjob.1 hc (by rw [hhold.same]; exact hst) (by rw [hhold.same]; exact ⟨hgot, hends, hsum⟩)
    rw [hhold.same] at hholds'
    have hrun := (hholder _).trans ((secureEnd_taken (link := link) (bytes := bytes) hj hx hc hi hholds hst hg).trans hholds')
    have hans := secureSend_answers (kind := 0x14) (jobId := j.id) (gen := (holdAt x i).gen) (rest := leBytes 1 i) (dest := c.heldFor)
      (hjob.updHold (i := i) (fun h => { h with st := .held, stepNext := recField (holdImage s.m slot i 64) 16 8 })) ⟨_, rfl⟩ hlink.1 hlink.2
    rw [hg] at hrun hans
    exact ⟨_, onDev_next_of (c := .secureEnd slot c.heldFor gen link bytes) hwf hrun,
      hans.holds (hhold.set fun h => { h with st := .held, stepNext := recField (holdImage s.m slot i 64) 16 8 })⟩
  · exact ⟨_, onDev_next_of (c := .secureRecordDone slot words) hwf (secureRecordDone_complete hj hx ho hopen hnext h0 h1),
      updSecure_only hj hx (fun s => { s with next := some (2, 0, x.begun) }), rfl⟩
  · exact ⟨_, onDev_next_of (c := .secureRecordDone slot words) hwf
      (secureRecordDone_failed hj hx ho hopen hnext h1 (secureCause_first hk1 hk5 hne hzero) hk1),
      updSecure_only hj hx (fun s => { s with next := some (3, k, x.begun) }), rfl⟩
  · exact ⟨_, onDev_next_of (c := .secureTimeout slot) (slotRow_wf hslot) (secureTimeout_fails hj hx ho hopen hnext),
      updSecure_only hj hx (fun s => { s with next := some (3, 5, s.begun) }), rfl⟩
  · exact ⟨_, onDevW_next (fun m => updSecure m slot (fun s => { s with reqArmed := true })) s (slotRow_wf hslot),
      updSecure_only hj hx (fun s => { s with reqArmed := true }), rfl⟩

end Sys2Proof.Machine
end

section
/-! PROOFS of the family 14_securing: the pages of a snapshot that are kept until they are sent (R553 to R555, R562). -/

namespace Sys2Proof.Machine

/-! ### A write to a protected page (R554, R555) -/

/-- R555: the reserve's slots of a page's die that are in use. -/
def reserveUsed (x : Secure) (page : Nat) : Nat :=
  (x.reserved.filter (fun r => decide (pageDie r.1 = pageDie page))).length + (x.copying.filter (fun p => decide (pageDie p = pageDie page))).length

/-- The write that a page's job holds, before its page finds a slot. -/
def holdWrite (slot page addr : Nat) (data : List Byte) (m : Dev) : Dev :=
  updSecure m slot (fun s => { s with heldWrites := s.heldWrites ++ [(page, addr, data)] })

section
variable {m : Dev} {slot page die addr : Nat} {data : List Byte} {j : Job} {x : Secure} (hj : jobAt m slot = some j) (hx : j.secure = x)
  (hpage : addr / 65536 = page) (hof : pageJob m page = some slot)
include hj hx hpage hof

/-- R554: the page is being copied already. -/
theorem protectedWrite_waits (hin : page ∈ x.copying) : protectedWrite die addr data m = holdWrite slot page addr data m := by
  subst hpage hx
  simp only [protectedWrite, hof, hj, if_pos hin]
  rfl

/-- R554: the page's copy into the reserve begins. -/
theorem protectedWrite_copies (hin : page ∉ x.copying) (hroom : reserveUsed x page < tget 0 x.reserveCap (pageDie page)) :
    protectedWrite die addr data m
      = updSecure (holdWrite slot page addr data m) slot (fun s => { s with copying := s.copying ++ [page] }) := by
  subst hpage hx
  simp only [protectedWrite, hof, hj, if_neg hin]
  exact if_pos hroom

/-- R555: the reserve of the page's die is full. -/
theorem protectedWrite_full (hin : page ∉ x.copying) (hroom : ¬ reserveUsed x page < tget 0 x.reserveCap (pageDie page)) :
    protectedWrite die addr data m = updFab (holdWrite slot page addr data m) die (fun f => { f with siphonFull := true }) := by
  subst hpage hx
  simp only [protectedWrite, hof, hj, if_neg hin]
  exact if_neg hroom

end

/-! ### The writes that waited for a page -/

/-- The writes of other pages. -/
def keepWrites (page : Nat) (s : Secure) : Secure := { s with heldWrites := s.heldWrites.filter (fun h => decide (h.1 ≠ page)) }

theorem releaseWrites_one {m : Dev} {slot page addr : Nat} {data : List Byte} {j : Job} (hj : jobAt m slot = some j)
    (hw : j.secure.heldWrites = [(page, addr, data)]) :
    releaseWrites slot page m = { updSecure m slot (keepWrites page) with mem := memWrite m.mem addr data } := by
  have hone : j.secure.heldWrites.filter (fun h => decide (h.1 = page)) = [(page, addr, data)] := by simp [hw]
  simp only [releaseWrites, hj, hone, List.foldl_cons, List.foldl_nil]
  rfl

theorem releaseWrites_none {m : Dev} {slot page : Nat} {j : Job} (hj : jobAt m slot = some j) (hw : ∀ h ∈ j.secure.heldWrites, h.1 ≠ page) :
    releaseWrites slot page m = updSecure m slot (keepWrites page) := by
  have hnone : j.secure.heldWrites.filter (fun h => decide (h.1 = page)) = [] := by simpa using hw
  simp only [releaseWrites, hj, hnone, List.foldl_nil]
  rfl

theorem keepWrites_all {page : Nat} {s : Secure} (hw : ∀ h ∈ s.heldWrites, h.1 ≠ page) : keepWrites page s = s := by
  rw [keepWrites, List.filter_eq_self.mpr fun h hh => decide_eq_true (hw h hh)]

/-! ### A page in the reserve (R554) -/

/-- The job's securing once a page is copied. -/
def pageReserved (m : Dev) (page : Nat) (s : Secure) : Secure := { s with
  copying := s.copying.filter (fun p => decide (p ≠ page)), protectedPages := s.protectedPages.filter (fun p => decide (p ≠ page))
  reserved := tput s.reserved page (trange m.mem.bytes (page * 65536) 65536), touches := s.touches + 1
  reservePeak := max s.reservePeak (s.reserved.length + s.copying.length) }

/-- R554: the count of the copy at its die. -/
def copyCounted (f : Fab) : Fab := { f with siphonActive := (f.siphonActive + 1400) % 2 ^ 64, touches := f.touches + 1 }

theorem reserveCopyDone_releases {m : Dev} {slot page die addr : Nat} {data : List Byte} {j : Job} {x : Secure} (hj : jobAt m slot = some j)
    (hx : j.secure = x) (hof : pageJob m page = some slot) (hin : page ∈ x.copying) (hw : x.heldWrites = [(page, addr, data)]) :
    reserveCopyDone die page m
      = { updSecure (updFab (updSecure m slot (pageReserved m page)) die copyCounted) slot (keepWrites page) with
          mem := memWrite m.mem addr data } := by
  subst hx
  have hrun : reserveCopyDone die page m = releaseWrites slot page (updFab (updSecure m slot (pageReserved m page)) die copyCounted) := by
    simp only [reserveCopyDone, hof, hj, if_pos hin]
    rfl
  rw [hrun]
  exact releaseWrites_one (j := { j with secure := pageReserved m page j.secure }) ((OnlyJob.of_secure hj rfl).updSecure (pageReserved m page)).1 hw

/-! ### A page that is sent (R553) -/

/-- The job's securing once a page that holds no poison is sent. -/
def pageDropped (page : Nat) (s : Secure) : Secure :=
  { s with protectedPages := s.protectedPages.filter (fun p => decide (p ≠ page)), reserved := tdel s.reserved page }

/-- R553: a page is sent, and protected no more. -/
def pageGone (slot page : Nat) (m : Dev) : Dev :=
  updSecure (updFab (updSecure (send m (.siphonPage slot page false)) slot (pageDropped page)) (pageDie page % 8)
    (fun f => { f with siphonActive := (f.siphonActive + 717) % 2 ^ 64 })) slot (keepWrites page)

theorem fabAt_pageGone (m : Dev) (slot page d : Nat) : fabAt (pageGone slot page m) d = if d = pageDie page % 8
    then { fabAt m d with siphonActive := ((fabAt m d).siphonActive + 717) % 2 ^ 64 } else fabAt m d := by
  have hset := fabAt_updFab (m := updSecure (send m (.siphonPage slot page false)) slot (pageDropped page)) (pageDie page % 8) d
    (fun f => { f with siphonActive := (f.siphonActive + 717) % 2 ^ 64 })
  refine Eq.trans hset ?_
  by_cases hd : d = pageDie page % 8
  · rw [if_pos hd, if_pos hd, hd]
    rfl
  · rw [if_neg hd, if_neg hd]
    rfl

section
variable {m : Dev} {slot page : Nat} {j : Job} {x : Secure} {c : SecureReq} (hj : jobAt m slot = some j) (hx : j.secure = x) (hc : x.cfg = some c)
  (hw : ∀ h ∈ x.heldWrites, h.1 ≠ page)
include hj hx hw

theorem pageGone_job : OnlyJob slot { j with secure := pageDropped page x } m (pageGone slot page m) := by
  have h := ((OnlyJob.of_secure hj hx).updSecure (pageDropped page)).updSecure (keepWrites page)
  rw [keepWrites_all (s := pageDropped page x) hw] at h
  exact h

include hc in
theorem pageSent_gone (hcopy : x.copy = 2) (hin : page ∉ x.copying) (hclean : memPoisoned m.mem (page * 65536) 65536 = false)
    (hof : page ∈ x.protectedPages ∨ (tfind x.reserved page).isSome = true) (hsound : m.mem.damaged = []) :
    pageSent slot page m = if (pageDropped page x).protectedPages.isEmpty ∧ (pageDropped page x).reserved.isEmpty
      then sendCopy slot c (pageDropped page x) (pageGone slot page m) else pageGone slot page m := by
  subst hx
  have hjob := (pageGone_job hj rfl hw).1
  have hreleased : releaseWrites slot page (updFab (updSecure (send m (.siphonPage slot page false)) slot (fun s => { s with
      protectedPages := s.protectedPages.filter (fun p => decide (p ≠ page)), reserved := tdel s.reserved page })) (pageDie page % 8)
      (fun f => { f with siphonActive := (f.siphonActive + 717) % 2 ^ 64 })) = pageGone slot page m :=
    releaseWrites_none ((OnlyJob.of_secure hj rfl).updSecure (pageDropped page)).1 hw
  simp only [pageSent, hj, if_pos (And.intro hcopy (And.intro hof hin)), freeFinds_undamaged hsound, hclean, Bool.false_eq_true, if_false,
    false_and, Bool.or_false, hreleased, hjob, hc]

end

/-! ### The end of a copy (R561, R562 item 4) -/

theorem bitsOf_one {l : Nat} (h : l < 32) : bitsOf 32 (1 <<< l) = [l] := by
  have hall : ∀ l < 32, bitsOf 32 (1 <<< l) = [l] := by decide
  exact hall l h

/-- R561: END of a copy that used one link goes out on that link. -/
theorem copyEnds_sends {m : Dev} {slot l : Nat} {j : Job} {x : Secure} {c : SecureReq} (hj : jobAt m slot = some j) (hx : j.secure = x)
    (hc : x.cfg = some c) (hcopy : x.copy = 2) (hpages : x.protectedPages = []) (hreserve : x.reserved = []) (hfail : x.failCause = 0)
    (hacked : x.delivered = [(l, x.image.length)]) (hup : linkUp (linkAt m l) = true) :
    copyEnds slot m = secureSend m (1 <<< l) c.partner
      (securePayload 0x13 j.id x.begun (zeros 4 ++ leBytes 8 x.image.length ++ leBytes 1 l)) := by
  subst hx
  simp [copyEnds, hj, hc, hcopy, hpages, hreserve, hacked, hfail, hup]

end Sys2Proof.Machine
end

section
/-! PROOFS of the family 14_securing: the writes of a generation to the deeper layers (R567, R568, R581). -/

namespace Sys2Proof.Machine

/-! ### The event of a deep write (R581) -/

/-- R137: an event of a job is put behind the events that wait. -/
theorem raiseJob_queues {m : Dev} {slot : Nat} {j : Job} (hj : jobAt m slot = some j) (etype status : Nat) (payload : List Byte) :
    ∃ stream e, raiseJob m slot etype status payload = { m with ctl := { m.ctl with evq := m.ctl.evq ++ [(stream, e)] } }
      ∧ e.etype = etype ∧ e.status = status ∧ e.jobId = j.id ∧ e.part = j.part ∧ e.payload = payload := by
  simp only [raiseJob, hj]
  exact ⟨_, _, rfl, rfl, rfl, rfl, rfl, rfl⟩

/-- A deep write of a generation has ended: SNAPSHOT_DEEP says how, and the job's securing is `y` then. -/
structure DeepEnds (slot layer n gen status : Nat) (j : Job) (c : SecureReq) (y : Secure) (m u : Dev) : Prop where
  event : ∃ stream e, u.ctl.evq = m.ctl.evq ++ [(stream, e)] ∧ e.etype = 0x0702 ∧ e.status = status ∧ e.jobId = j.id
    ∧ e.payload = leBytes 4 gen ++ leBytes 1 layer ++ leBytes 1 n ++ leBytes 2 c.heldFor
  job : OnlyJob slot { j with secure := y } m u
  frame : u = { m with
    jobs := u.jobs, out := u.out, ctl := { m.ctl with evq := u.ctl.evq }, mem := { m.mem with aq := u.mem.aq } }

section
variable {slot layer n gen status : Nat} {j : Job} {c : SecureReq} {y : Secure} {m r u : Dev}

theorem deepEvent_ends (hr : OnlyJob slot { j with secure := y } m r) (hframe : ∃ jobs out, r = { m with jobs := jobs, out := out })
    (hc : y.cfg = some c) : DeepEnds slot layer n gen status j c y m (deepEvent slot layer n gen status r) := by
  have hcfg : ((jobAt r slot).bind (·.secure.cfg)) = some c := by rw [hr.1]; exact hc
  obtain ⟨stream, e, hraise, htype, hstatus, hid, -, hpayload⟩ :=
    raiseJob_queues hr.1 0x0702 status (leBytes 4 gen ++ leBytes 1 layer ++ leBytes 1 n ++ leBytes 2 c.heldFor)
  have hrun : deepEvent slot layer n gen status r = { r with ctl := { r.ctl with evq := r.ctl.evq ++ [(stream, e)] } } := by
    simp only [deepEvent, hcfg]
    exact hraise
  obtain ⟨jobs, out, rfl⟩ := hframe
  rw [hrun]
  exact ⟨⟨stream, e, rfl, htype, hstatus, hid, hpayload⟩, hr.of_jobs rfl, rfl⟩

theorem DeepEnds.updSecure (h : DeepEnds slot layer n gen status j c y m u) (f : Secure → Secure) :
    DeepEnds slot layer n gen status j c (f y) m (updSecure u slot f) where
  event := h.event
  job := h.job.updSecure f
  frame := by
    rw [h.frame]
    rfl

theorem DeepEnds.updAquifer (h : DeepEnds slot layer n gen status j c y m u) (f : Aquifer → Aquifer) :
    DeepEnds slot layer n gen status j c y m (updMem u (fun x => { x with aq := f x.aq })) where
  event := h.event
  job := h.job.of_jobs rfl
  frame := by
    rw [h.frame]
    rfl

theorem DeepEnds.of_secure {z : Secure} (h : DeepEnds slot layer n gen status j c y m u) (hz : y = z) :
    DeepEnds slot layer n gen status j c z m u := hz ▸ h

/-- The job and the frame as the settlement of the deeper layers has them. -/
theorem DeepEnds.holds {s : State} (h : DeepEnds slot layer n gen status j c y s.m u) :
    jobAt u slot = some { j with secure := y } ∧ (∀ k, k ≠ slot → jobAt u k = jobAt s.m k)
      ∧ ({ s with m := u } : State) = { s with m := { s.m with
          jobs := u.jobs, out := u.out, ctl := { s.m.ctl with evq := u.ctl.evq }, mem := { s.m.mem with aq := u.mem.aq } } } :=
  ⟨h.job.1, h.job.2, congrArg (fun m => ({ s with m := m } : State)) h.frame⟩

/-! ### The generation that waited (R567) -/

theorem deepNext_idle (hj : jobAt u slot = some j) (hdeep : j.secure.deep = none) (hw : j.secure.deepWait = []) :
    deepNext slot u = Machine.updSecure u slot (fun s => { s with deepWait := [] }) := by
  simp [deepNext, hj, hdeep, hw]

theorem quotaAdmits_congr {part kind k : Nat} {a b : Job} (hmem : r.mem = m.mem) (ha : jobAt m slot = some a) (hb : jobAt r slot = some b)
    (hq : b.quota = a.quota) : quotaAdmits r part (some slot) kind k = quotaAdmits m part (some slot) kind k := by
  simp only [quotaAdmits, hmem, ha, hb, hq]

/-- R567: the aquifer write of a generation is admitted. -/
theorem deepAquifer_begins {g : Nat} (hj : jobAt u slot = some j) (hc : j.secure.cfg = some c) (hst : u.mem.aq.st = 0)
    (hquota : quotaAdmits u j.part (some slot) 3 (emptyExtents u.mem j.part (c.aqFirst + g % 2 * aqExtents c) (aqExtents c)) = true) :
    deepAquifer slot g u = Machine.updSecure u slot (fun s => { s with deep := some (1, g % 2, g) }) := by
  simp [deepAquifer, hj, hc, hst, hquota]

theorem deepStart_aquifer {g : Nat} (hj : jobAt u slot = some j) (hdeep : j.secure.deep = none) :
    deepStart slot g false u = deepAquifer slot g (Machine.updSecure u slot (fun s => { s with deepAll := false })) := by
  simp [deepStart, hj, hdeep]

theorem deepNext_one {g : Nat} (hj : jobAt u slot = some j) (hdeep : j.secure.deep = none) (hw : j.secure.deepWait = [(g, false)]) :
    deepNext slot u = deepStart slot g false (Machine.updSecure u slot (fun s => { s with deepWait := [] })) := by
  simp [deepNext, hj, hdeep, hw]

/-- No generation waits. -/
theorem DeepEnds.deepNext_idle (h : DeepEnds slot layer n gen status j c y m u) (hdeep : y.deep = none) (hw : y.deepWait = []) :
    ∃ t, deepNext slot u = t ∧ DeepEnds slot layer n gen status j c y m t ∧ t.mem = u.mem ∧ t.out = u.out :=
  ⟨_, Machine.deepNext_idle h.job.1 hdeep hw, (h.updSecure fun s => { s with deepWait := [] }).of_secure
    (congrArg (fun w => { y with deepWait := w }) hw.symm), rfl, rfl⟩

/-- The generation that waited goes to the aquifer. -/
theorem DeepEnds.deepNext_one {g : Nat} (h : DeepEnds slot layer n gen status j c y m u) (hj : jobAt m slot = some j) (hmem : u.mem = m.mem)
    (hc : y.cfg = some c) (hdeep : y.deep = none) (hw : y.deepWait = [(g, false)]) (hst : m.mem.aq.st = 0)
    (hquota : quotaAdmits m j.part (some slot) 3 (emptyExtents m.mem j.part (c.aqFirst + g % 2 * aqExtents c) (aqExtents c)) = true) :
    ∃ t, deepNext slot u = t ∧ DeepEnds slot layer n gen status j c { y with deep := some (1, g % 2, g), deepAll := false, deepWait := [] } m t
      ∧ t.mem = u.mem ∧ t.out = u.out := by
  have hfree := h.updSecure fun s => { s with deepWait := [] }
  have hpart := hfree.updSecure fun s => { s with deepAll := false }
  have hadmits := (quotaAdmits_congr (part := j.part) (kind := 3)
    (k := emptyExtents m.mem j.part (c.aqFirst + g % 2 * aqExtents c) (aqExtents c))
    (r := Machine.updSecure (Machine.updSecure u slot fun s => { s with deepWait := [] }) slot fun s => { s with deepAll := false })
    hmem hj hpart.job.1 rfl).trans hquota
  rw [← hmem] at hst hadmits
  exact ⟨_, (Machine.deepNext_one h.job.1 hdeep hw).trans ((deepStart_aquifer hfree.job.1 hdeep).trans
    (deepAquifer_begins hpart.job.1 hc hst hadmits)), hpart.updSecure fun s => { s with deep := some (1, g % 2, g) }, rfl, rfl⟩

end

/-! ### The image of a hold slot (R549) -/

theorem piecesRead_one {a size n : Nat} (x : Mem) (h : n ≤ size) : piecesRead x (spanPieces [(a, size)] 0 n) = memRead x a n := by
  rcases Nat.eq_zero_or_pos n with rfl | hn
  · rfl
  · rw [spanPieces_one hn (by omega)]
    simp [piecesRead]

theorem holdImage_one {m : Dev} {slot i a size n : Nat} (hp : holdPieces m slot i = [(a, size)]) (h : n ≤ size) :
    holdImage m slot i n = memRead m.mem a n := by rw [holdImage, hp, piecesRead_one m.mem h]

/-! ### The aquifer's layer (R567) -/

/-- The module once the event of a deep write is out, and its job runs none. -/
def deepOver (slot layer n gen status : Nat) (m : Dev) : Dev :=
  deepEvent slot layer n gen status (updSecure m slot (fun s => { s with deep := none }))

theorem deepOver_mem (slot layer n gen status : Nat) (m : Dev) : (deepOver slot layer n gen status m).mem = m.mem := raiseJob_mem ..

theorem deepOver_out (slot layer n gen status : Nat) (m : Dev) : (deepOver slot layer n gen status m).out = m.out := raiseJob_out ..

/-- R567: the 2 MiB from an address as an extent of a job holds them. -/
def extentImage (slot a : Nat) (image : Mem) : Extent := { data := runEntries 0 (memRead image a segBytes), job := some slot }

theorem tget_extentImage {slot a i : Nat} {image : Mem} (hi : i < 0x200000) : tget 0 (extentImage slot a image).data i = memByte image (a + i) := by
  have hlen : i < (memRead image a segBytes).length := by
    rw [memRead, List.length_map, List.length_range]
    exact hi
  have h := tget_runEntries 0 (memRead image a segBytes) i hlen
  rw [Nat.zero_add] at h
  rw [extentImage, h]
  simp only [memRead, List.getElem_map, List.getElem_range]

/-- R567: the image of a hold slot goes into one extent. -/
def extentPut (slot key a : Nat) (image : Mem) (q : Aquifer) : Aquifer := { q with extents := tput q.extents key (extentImage slot a image) }

/-- R567: the generation that an aquifer slot holds, and its step. -/
def aquiferHolds (n gen step : Nat) (s : Secure) : Secure := { s with aqGen := tset 0 s.aqGen n gen, aqStep := tset 0 s.aqStep n step }

/-- R568: the generation that a store slot holds. -/
def storeHolds (n gen : Nat) (s : Secure) : Secure := { s with storeGen := tset 0 s.storeGen n gen }

section
variable {m : Dev} {slot n gen status a : Nat} {j : Job} {x : Secure} {c : SecureReq} (hj : jobAt m slot = some j) (hx : j.secure = x)
  (hc : x.cfg = some c)
include hj hx hc

theorem deepOver_ends (layer : Nat) : DeepEnds slot layer n gen status j c { x with deep := none } m (deepOver slot layer n gen status m) :=
  deepEvent_ends ((OnlyJob.of_secure hj hx).updSecure fun s => { s with deep := none }) ⟨_, _, rfl⟩ hc

theorem aqSlotDone_fails (hdeep : x.deep = some (1, n, gen)) (hst : status ≠ 0) :
    aqSlotDone slot status m = deepNext slot (deepOver slot 1 n gen status m) := by
  subst hx
  simp only [aqSlotDone, hj, hc, hdeep, if_pos hst]
  rfl

theorem aqSlotDone_stores (hdeep : x.deep = some (1, n, gen)) (hpieces : holdPieces m slot (holdSlotOf c gen) = [(a, 0x200000)])
    (hone : aqExtents c = 1) (hall : x.deepAll = false) (hnever : c.storeEvery = 0) :
    aqSlotDone slot 0 m = deepNext slot (updSecure
      (updMem (deepOver slot 1 n gen 0 m) (fun y => { y with aq := extentPut slot (extentKey j.part (c.aqFirst + n)) a m.mem y.aq }))
      slot (aquiferHolds n gen (recField (memRead m.mem a 64) 16 8))) := by
  subst hx
  have hmem := deepOver_mem slot 1 n gen 0 m
  have hpieces' : holdPieces (deepOver slot 1 n gen 0 m) slot (holdSlotOf c gen) = [(a, 0x200000)] := by rw [holdPieces, hmem]; exact hpieces
  have hhead := holdImage_one hpieces' (show 64 ≤ 0x200000 by omega)
  have hread : piecesRead (deepOver slot 1 n gen 0 m).mem (spanPieces [(a, 0x200000)] (0 * segBytes) segBytes) = memRead m.mem a segBytes := by
    rw [Nat.zero_mul, piecesRead_one _ (show segBytes ≤ 0x200000 from le_rfl), hmem]
  rw [hmem] at hhead
  simp only [deepOver] at hpieces' hhead hread
  simp only [aqSlotDone, hj, hc, hdeep, hone, hall, hnever, hpieces', hhead, ne_eq, not_true, if_false, List.range_one, List.foldl_cons,
    List.foldl_nil, updMem, hread, Nat.mul_one, Nat.add_zero, Bool.false_eq_true, false_and, or_false]
  rfl

/-- R567: the aquifer's slot holds the generation. -/
theorem aqSlotDone_stored (hdeep : x.deep = some (1, n, gen)) (hpieces : holdPieces m slot (holdSlotOf c gen) = [(a, 0x200000)])
    (hone : aqExtents c = 1) (hall : x.deepAll = false) (hnever : c.storeEvery = 0) (hw : x.deepWait = []) :
    ∃ t, aqSlotDone slot 0 m = t
      ∧ DeepEnds slot 1 n gen 0 j c (aquiferHolds n gen (recField (memRead m.mem a 64) 16 8) { x with deep := none }) m t ∧ t.out = m.out
      ∧ t.mem.aq = extentPut slot (extentKey j.part (c.aqFirst + n)) a m.mem m.mem.aq := by
  have hends := deepOver_ends (n := n) (gen := gen) (status := 0) hj hx hc 1
  have hmem := deepOver_mem slot 1 n gen 0 m
  have hout := deepOver_out slot 1 n gen 0 m
  rw [aqSlotDone_stores hj hx hc hdeep hpieces hone hall hnever]
  generalize deepOver slot 1 n gen 0 m = u at hends hmem hout ⊢
  obtain ⟨t, hrun, ht, htmem, htout⟩ := ((hends.updAquifer (extentPut slot (extentKey j.part (c.aqFirst + n)) a m.mem)).updSecure
    (aquiferHolds n gen (recField (memRead m.mem a 64) 16 8))).deepNext_idle rfl hw
  refine ⟨t, hrun, ht, htout.trans hout, htmem ▸ ?_⟩
  rw [← hmem]
  rfl

/-! ### The store's layer (R568) -/

theorem storeSlotDone_fails (hdeep : x.deep = some (2, n, gen)) (hst : status ≠ 0) : storeSlotDone slot status m
    = deepNext slot (deepEvent slot 2 n gen status (updSecure m slot (fun s => { s with deep := none, deepAll := false }))) := by
  subst hx
  simp only [storeSlotDone, hj, hc, hdeep, if_pos hst]

/-- R568: the image goes to the store, its header last. -/
theorem storeSlotDone_sends {b : Nat} {img : List Byte} (hdeep : x.deep = some (2, n, gen))
    (hpieces : holdPieces m slot (holdSlotOf c gen) = [(a, 0x200000)]) (hb : recField (memRead m.mem a 64) 56 8 = b) (hlen : b ≤ 0x200000)
    (himg : memRead m.mem a b = img) : storeSlotDone slot 0 m
    = deepNext slot (deepEvent slot 2 n gen 0 (updSecure
        (send (send (updSecure m slot (fun s => { s with deep := none, deepAll := false }))
          (.hostWrite c.storeQp (c.storeAddr + gen % 2 * c.storeStride + 256) c.storeRkey (img.drop 256)))
          (.hostWrite c.storeQp (c.storeAddr + gen % 2 * c.storeStride) c.storeRkey (img.take 256))) slot (storeHolds n gen))) := by
  subst hx
  have hpieces' : holdPieces (updSecure m slot (fun s => { s with deep := none, deepAll := false })) slot (holdSlotOf c gen)
    = [(a, 0x200000)] := hpieces
  have hhead := (holdImage_one hpieces' (show 64 ≤ 0x200000 by omega)).trans (show memRead _ a 64 = memRead m.mem a 64 from rfl)
  have hbody := (holdImage_one hpieces' hlen).trans himg
  simp only [storeSlotDone, hj, hc, hdeep, ne_eq, not_true, if_false, hhead, hb, hbody]
  rfl

/-- R568: the store has been sent the generation. -/
theorem storeSlotDone_sent {b : Nat} {img : List Byte} (hdeep : x.deep = some (2, n, gen))
    (hpieces : holdPieces m slot (holdSlotOf c gen) = [(a, 0x200000)]) (hb : recField (memRead m.mem a 64) 56 8 = b) (hlen : b ≤ 0x200000)
    (himg : memRead m.mem a b = img) (hw : x.deepWait = []) : ∃ t, storeSlotDone slot 0 m = t
      ∧ DeepEnds slot 2 n gen 0 j c (storeHolds n gen { x with deep := none, deepAll := false }) m t ∧ t.mem = m.mem
      ∧ t.out = m.out ++ [.hostWrite c.storeQp (c.storeAddr + gen % 2 * c.storeStride + 256) c.storeRkey (img.drop 256),
          .hostWrite c.storeQp (c.storeAddr + gen % 2 * c.storeStride) c.storeRkey (img.take 256)] := by
  rw [storeSlotDone_sends hj hx hc hdeep hpieces hb hlen himg]
  have hsent := (((OnlyJob.of_secure hj hx).updSecure fun s => { s with deep := none, deepAll := false }).send
    (.hostWrite c.storeQp (c.storeAddr + gen % 2 * c.storeStride + 256) c.storeRkey (img.drop 256))).send
    (.hostWrite c.storeQp (c.storeAddr + gen % 2 * c.storeStride) c.storeRkey (img.take 256))
  have hends := deepEvent_ends (layer := 2) (n := n) (gen := gen) (status := 0) (c := c) (OnlyJob.updSecure hsent (storeHolds n gen))
    ⟨_, _, rfl⟩ hc
  obtain ⟨t, hrun, ht, htmem, htout⟩ := hends.deepNext_idle rfl hw
  refine ⟨t, hrun, ht, htmem.trans (raiseJob_mem ..), htout.trans ((raiseJob_out ..).trans ?_)⟩
  exact List.append_assoc ..

end

end Sys2Proof.Machine
end

section
/-! PROOFS of the family 14_securing: protected pages and deeper layers together. -/

namespace Sys2Proof.Machine

/-- Settles O41: a write, a copy and a sent page each change the page's own job, its die's counts and the memory of the write; a deep write that
ends changes its job, the event queue and the aquifer. -/
theorem protectedPagesAndDeepLayers : Obligations.ProtectedPagesAndDeepLayers := by
  unfold Obligations.ProtectedPagesAndDeepLayers
  refine ⟨?pages, ?layers⟩
  case pages =>
    intro s slot page j x hslot hpage32 hj hx
    have hbase := OnlyJob.of_secure hj hx
    refine ⟨fun die addr data used hwf haddr hof hused => ?write, fun die addr data hwf hof hin hw => ?copied,
      fun c l rest hc hcopy hin hclean hw hfail hof hrest hsound => ?sent⟩
    case write =>
      have hexec {u : Dev} (h : Machine.protectedWrite die addr data s.m = u) := onDev_next_of (c := .protectedWrite die addr data) hwf h
      have hheld := hbase.updSecure (fun s => { s with heldWrites := s.heldWrites ++ [(page, addr, data)] })
      have hused' : reserveUsed x page = used := hused
      by_cases hin : page ∈ x.copying
      · refine ⟨_, hexec (protectedWrite_waits hj hx haddr hof hin), rfl, rfl, ?_, fun d => (if_neg fun h => h.2.1 hin).symm⟩
        rw [if_neg fun h => h.1 hin]
        exact ⟨hheld.1, hheld.2, rfl⟩
      · by_cases hroom : used < tget 0 x.reserveCap (pageDie page)
        · refine ⟨_, hexec (protectedWrite_copies hj hx haddr hof hin (hused' ▸ hroom)), rfl, rfl, ?_,
            fun d => (if_neg fun h => absurd h.2.2 (Nat.not_le.mpr hroom)).symm⟩
          rw [if_pos ⟨hin, hroom⟩]
          have hjob := hheld.updSecure (fun s => { s with copying := s.copying ++ [page] })
          exact ⟨hjob.1, hjob.2, rfl⟩
        · refine ⟨_, hexec (protectedWrite_full hj hx haddr hof hin (hused' ▸ hroom)), rfl, rfl, ?_, fun d => (fabAt_updFab ..).trans ?_⟩
          · rw [if_neg fun h => hroom h.2]
            exact ⟨hheld.1, hheld.2, rfl⟩
          · by_cases hd : d = die
            · rw [if_pos hd, if_pos ⟨hd, hin, Nat.not_lt.mp hroom⟩, hd]
              rfl
            · rw [if_neg hd, if_neg fun h => hd h.1]
              rfl
    case copied =>
      have hrun := reserveCopyDone_releases (die := die) hj hx hof hin hw
      have hjob := (hbase.updSecure (pageReserved s.m page)).updSecure (keepWrites page)
      have hkeep : keepWrites page (pageReserved s.m page x) = { pageReserved s.m page x with heldWrites := [] } := by
        simp [keepWrites, pageReserved, hw]
      rw [hkeep] at hjob
      refine ⟨_, onDev_next_of (c := .reserveCopyDone die page) hwf hrun, rfl, rfl, fabAt_updFab_same ..,
        fun d hd => (fabAt_updFab ..).trans (if_neg hd),
        fun n h => memByte_memWrite_in s.m.mem addr data n h, fun b hb => memByte_memWrite_out s.m.mem addr data b hb, hjob.1, hjob.2, rfl⟩
    case sent =>
      have hjob := pageGone_job hj hx hw
      have hdrop : pageDropped page x = { x with protectedPages := rest, reserved := tdel x.reserved page } := by rw [pageDropped, hrest]
      have hrun := pageSent_gone hj hx hc hw hcopy hin hclean hof hsound
      have hwf : (Instr.siphonPageSent slot page).wf = true := by
        simp [Instr.wf, boundsWf, hslot]
        exact hpage32
      rw [hdrop] at hjob hrun
      have hfab := fabAt_pageGone s.m slot page
      refine ⟨fun hne => ⟨_, onDev_next_of (c := .siphonPageSent slot page) hwf (hrun.trans (if_neg ?_)),
          rfl, rfl, rfl, ⟨hjob.1, hjob.2, rfl⟩, hfab⟩,
        fun hnil hlast => ⟨{ s with m := pageGone slot page s.m }, ⟨rfl, rfl, rfl, ⟨hjob.1, hjob.2, rfl⟩, hfab⟩,
          onDev_next_of (c := .siphonPageSent slot page) hwf (hrun.trans ?_)⟩,
        fun hpages hreserve hacked hup hl htakes => ⟨_, copyEnds_sends hj hx hc hcopy hpages hreserve hfail hacked hup, ?_⟩⟩
      · simp [hne]
      · rw [hnil, hlast]
        rfl
      · have hone : ((bitsOf 32 (1 <<< l)).filter (fun l => linkUp (linkAt s.m l))).head? = some l := by simp [bitsOf_one hl, hup]
        have hsend := secureSend_takes (dest := c.partner)
          (payload := securePayload 0x13 j.id x.begun (zeros 4 ++ leBytes 8 x.image.length ++ leBytes 1 l)) hone
          (by rw [length_securePayload]; exact htakes)
        rw [length_securePayload] at hsend
        obtain ⟨ls, hls, hsent⟩ := hsend
        exact ⟨hsent, by rw [hls], by rw [hls]⟩
  case layers =>
    intro s slot status n gen a j x c hslot hstatus hj hx hc hpieces
    have hwfA : (Instr.aquiferSlotWriteDone slot status).wf = true := by simp [Instr.wf, boundsWf, hslot, hstatus]
    have hwfS : (Instr.storeSlotWriteDone slot status).wf = true := by simp [Instr.wf, boundsWf, hslot, hstatus]
    have hbase := OnlyJob.of_secure hj hx
    refine ⟨fun hdeep => ⟨fun hst hwait => ?failed, fun g hst hwait hq hquota => ?next, fun hst hone hall hnever hwait => ?stored⟩,
      fun hdeep hwait => ⟨fun hst => ?storeFailed, fun hst b img hb hlen himg => ?storeSent⟩⟩
    case failed =>
      have hends := deepOver_ends (n := n) (gen := gen) (status := status) hj hx hc 1
      obtain ⟨t, hrun, ht, hmem, hout⟩ := hends.deepNext_idle rfl hwait
      exact ⟨_, onDev_next_of (c := .aquiferSlotWriteDone slot status) hwfA ((aqSlotDone_fails hj hx hc hdeep hst).trans hrun),
        ht.event, ht.holds, hmem.trans (deepOver_mem ..), hout.trans (deepOver_out ..)⟩
    case next =>
      have hends := deepOver_ends (n := n) (gen := gen) (status := status) hj hx hc 1
      obtain ⟨t, hrun, ht, hmem, hout⟩ := hends.deepNext_one hj (deepOver_mem ..) hc rfl hwait hq hquota
      exact ⟨_, onDev_next_of (c := .aquiferSlotWriteDone slot status) hwfA ((aqSlotDone_fails hj hx hc hdeep hst).trans hrun),
        ht.event, ht.holds, hmem.trans (deepOver_mem ..), hout.trans (deepOver_out ..)⟩
    case stored =>
      subst hst
      obtain ⟨t, hrun, ht, hout, haq⟩ := aqSlotDone_stored hj hx hc hdeep hpieces hone hall hnever hwait
      generalize recField (memRead s.m.mem a 64) 16 8 = step at ht ⊢
      refine ⟨{ s with m := t }, aquiferHolds n gen step { x with deep := none },
        onDev_next_of (c := .aquiferSlotWriteDone slot 0) hwfA hrun, ht.event, ht.holds, hout, rfl,
        (tget_tset 0 x.aqGen n n gen).trans (if_pos rfl), (tget_tset 0 x.aqStep n n _).trans (if_pos rfl),
        fun k hk => ⟨(tget_tset 0 x.aqGen n k gen).trans (if_neg hk), (tget_tset 0 x.aqStep n k _).trans (if_neg hk)⟩,
        ⟨extentImage slot a s.m.mem, ?_, rfl, fun i hi => tget_extentImage hi⟩, fun k hk => ?_, ?_⟩
      · exact haq ▸ (tfind_tput ..).trans (if_pos rfl)
      · exact haq ▸ (tfind_tput ..).trans (if_neg hk)
      · exact haq ▸ rfl
    case storeFailed =>
      have hevent := deepEvent_ends (layer := 2) (n := n) (gen := gen) (status := status) (c := c)
        (hbase.updSecure (fun s => { s with deep := none, deepAll := false })) ⟨_, _, rfl⟩ hc
      obtain ⟨t, hrun, ht, hmem, hout⟩ := hevent.deepNext_idle rfl hwait
      exact ⟨_, onDev_next_of (c := .storeSlotWriteDone slot status) hwfS ((storeSlotDone_fails hj hx hc hdeep hst).trans hrun),
        ht.event, hmem.trans (raiseJob_mem ..), ht.holds, hout.trans (raiseJob_out ..)⟩
    case storeSent =>
      subst hst
      obtain ⟨t, hrun, ht, hmem, hout⟩ := storeSlotDone_sent hj hx hc hdeep hpieces hb hlen himg hwait
      exact ⟨{ s with m := t }, storeHolds n gen { x with deep := none, deepAll := false },
        onDev_next_of (c := .storeSlotWriteDone slot 0) hwfS hrun, ht.event, ht.holds, hmem, hout, rfl,
        (tget_tset 0 x.storeGen n n gen).trans (if_pos rfl), fun k hk => (tget_tset 0 x.storeGen n k gen).trans (if_neg hk)⟩

end Sys2Proof.Machine
end

section
/-! PROOFS of the family 15_recovery: what messages, links that go down and fences leave as it was (R451, R468, R597). -/

namespace Sys2Proof.Machine

/-! ### Messages on their way (R462, R468) -/

/-- A link's state and its peer. -/
def linkPeer (k : Link) : LinkState × Bool × Bool × Nat := (k.st, k.enabled, k.peerValid, k.peerPos)

/-- From `m` to `t` frames have gone out on link `l`, and no other link has changed. -/
structure FramesOn (l : Nat) (m t : Dev) : Prop where
  out : ∀ o ∈ m.out, o ∈ t.out
  other : ∀ k, k ≠ l → linkAt t k = linkAt m k
  peer : linkPeer (linkAt t l) = linkPeer (linkAt m l)

section
variable {l : Nat} {m t u : Dev}

theorem FramesOn.refl (l : Nat) (m : Dev) : FramesOn l m m := ⟨fun _ => id, fun _ _ => rfl, rfl⟩

theorem FramesOn.trans (h : FramesOn l m t) (h' : FramesOn l t u) : FramesOn l m u :=
  ⟨fun o ho => h'.out o (h.out o ho), fun k hk => (h'.other k hk).trans (h.other k hk), h'.peer.trans h.peer⟩

theorem FramesOn.updLink (h : FramesOn l m t) (f : Link → Link) (hf : linkPeer (f (linkAt t l)) = linkPeer (linkAt t l)) :
    FramesOn l m (updLink t l f) where
  out := h.out
  other k hk := by rw [linkAt_updLink, if_neg hk, h.other k hk]
  peer := by rw [linkAt_updLink_same, hf, h.peer]

theorem FramesOn.send (h : FramesOn l m t) (o : Out) : FramesOn l m (send t o) :=
  ⟨fun x hx => List.mem_append_left _ (h.out x hx), h.other, h.peer⟩

theorem serveLink_frames (l : Nat) : ∀ (n : Nat) (m : Dev), FramesOn l m (serveLink l n m)
  | 0, m => .refl l m
  | n + 1, m => by
    unfold serveLink
    simp only
    split
    · exact .refl l m
    · split
      · exact (((FramesOn.refl l m).updLink _ rfl).updLink _ rfl |>.send _).trans (serveLink_frames l n _)
      · exact .refl l m
      next v _ _ =>
        have hframe : FramesOn l m (frameSent l (.data v (serveVc (linkAt m l) v).2) (Machine.updLink m l (fun _ => (serveVc (linkAt m l) v).1))) :=
          ((FramesOn.refl l m).updLink _ rfl).updLink _ rfl
        refine .trans ?_ (serveLink_frames l n _)
        split
        · exact hframe.send _
        · exact hframe

end

/-- From `m` to `t` messages have gone out, or wait on their links. -/
structure Messaged (m t : Dev) : Prop where
  frame : t = { m with net := { m.net with links := t.net.links }, out := t.out }
  peer : ∀ k, linkPeer (linkAt t k) = linkPeer (linkAt m k)
  keeps : ∀ k p, onItsWay m k p → onItsWay t k p

section
variable {m t u : Dev}

theorem Messaged.refl (m : Dev) : Messaged m m := ⟨rfl, fun _ => rfl, fun _ _ => id⟩

theorem Messaged.trans (h : Messaged m t) (h' : Messaged t u) : Messaged m u :=
  ⟨by rw [h'.frame, h.frame], fun k => (h'.peer k).trans (h.peer k), fun k p hp => h'.keeps k p (h.keeps k p hp)⟩

theorem FramesOn.messaged {l : Nat} (h : FramesOn l m t) (hframe : t = { m with net := { m.net with links := t.net.links }, out := t.out })
    (hkeeps : ∀ p, onItsWay m l p → onItsWay t l p) : Messaged m t where
  frame := hframe
  peer k := by
    by_cases hk : k = l
    · rw [hk, h.peer]
    · rw [h.other k hk]
  keeps k p hp := by
    by_cases hk : k = l
    · exact hk ▸ hkeeps p (hk ▸ hp)
    · exact hp.imp (h.out _) fun ⟨n, hn⟩ => ⟨n, (h.other k hk).symm ▸ hn⟩

theorem sendUnit_messaged (m : Dev) (l v bytes : Nat) (o : Out) : Messaged m (sendUnit m l v bytes o) := by
  rw [sendUnit]
  split
  · have hwaits := (FramesOn.refl l m).updLink (fun k => { k with txq := k.txq ++ [(v, unitFrames bytes, o)] }) rfl
    have hserved := serveLink_served l (creditLeft (linkAt (updLink m l (fun k => { k with txq := k.txq ++ [(v, unitFrames bytes, o)] })) l))
      (updLink m l (fun k => { k with txq := k.txq ++ [(v, unitFrames bytes, o)] }))
    refine (hwaits.trans (serveLink_frames l _ _)).messaged hserved.frame fun p hp => hserved.keeps p (hp.imp id fun ⟨n, hn⟩ => ⟨n, ?_⟩)
    rw [linkAt_updLink_same]
    exact List.mem_append_left _ hn
  · exact .refl m

theorem sendControl_messaged (m : Dev) (d : Nat) (payload : List Byte) : Messaged m (sendControl m d payload) := by
  rw [sendControl, sendRouted]
  split
  · exact sendUnit_messaged ..
  · exact ⟨rfl, fun _ => rfl, fun _ _ hp => hp.imp (List.mem_append_left _) id⟩

theorem Messaged.linkUp (h : Messaged m t) (k : Nat) : linkUp (linkAt t k) = linkUp (linkAt m k) := by
  have hst : (linkAt t k).st = (linkAt m k).st := congrArg Prod.fst (h.peer k)
  rw [Machine.linkUp, Machine.linkUp, hst]

theorem Messaged.routeLink (h : Messaged m t) (d : Nat) : routeLink t d = routeLink m d := by
  have hroutes : t.net.routes = m.net.routes := by rw [h.frame]
  have hst (k : Nat) : (linkAt t k).st = (linkAt m k).st := congrArg Prod.fst (h.peer k)
  have hvalid (k : Nat) : (linkAt t k).peerValid = (linkAt m k).peerValid := congrArg (·.2.2.1) (h.peer k)
  have hpos (k : Nat) : (linkAt t k).peerPos = (linkAt m k).peerPos := congrArg (·.2.2.2) (h.peer k)
  simp only [Machine.routeLink, hroutes, h.linkUp, hst, hvalid, hpos]

/-- R468: a message to a destination that has a route is on its way. -/
theorem onItsWay_sendControl {d l : Nat} (payload : List Byte) (h : Machine.routeLink m d = some l) :
    onItsWay (sendControl m d payload) l (controlPacket m d payload) := by
  obtain ⟨_, _, _, _, hway⟩ := sendControl_routed (payload := payload) h
  exact hway

end

/-! ### Links that go down with nothing secured on them (R451) -/

/-- No job has a partner. -/
def Unsecured (m : Dev) : Prop := ∀ p ∈ m.jobs, p.2.secure.cfg = none

theorem Unsecured.updJob {m : Dev} (h : Unsecured m) (slot : Nat) (f : Job → Job) (hf : ∀ j, (f j).secure = j.secure) :
    Unsecured (updJob m slot f) := by
  intro p hp
  rw [updJob_jobs] at hp
  cases hj : tfind m.jobs slot with
  | none =>
    rw [tupd, hj] at hp
    exact h p hp
  | some j =>
    rw [tupd_listed hj] at hp
    rcases mem_tput hp with rfl | hp
    · exact (congrArg Secure.cfg (hf j)).trans (h (slot, j) (mem_of_tfind hj))
    · exact h p hp

theorem secureResend_unsecured {m : Dev} (h : Unsecured m) (q : List Out) : secureResend q m = m := by
  have hnone : m.jobs.filterMap (·.2.secure.cfg) = [] := List.filterMap_eq_nil_iff.mpr h
  refine List.foldlRecOn (motive := fun t => t = m) q _ rfl fun t ht u _ => ?_
  subst ht
  cases u <;> simp only [hnone, List.find?_nil, ite_self]

theorem secureLinkDown_unsecured {m : Dev} (h : Unsecured m) : secureLinkDown m = m := by
  refine List.foldlRecOn (motive := fun t => t = m) m.jobs _ rfl fun t ht p hp => ?_
  simp only [h p hp, ht]

theorem linkDown_unsecured {m : Dev} (hcolls : m.colls = []) (h : Unsecured m) (l : Nat) :
    linkDown l m = setLinkState l (if (linkAt m l).enabled then .training else .off) (updLink m l linkDropped) := by
  have hsecure : Unsecured (setLinkState l (if (linkAt m l).enabled then .training else .off) (updLink m l linkDropped)) := fun p hp => by
    rw [setLinkState_jobs] at hp
    exact h p hp
  simp only [linkDown]
  split
  · rw [collLinkDown_none _ _ (by rw [setLinkState_colls]; exact hcolls), secureResend_unsecured hsecure, secureLinkDown_unsecured hsecure]
  · rfl

/-! ### Fences (R590, R597) -/

/-- From `m` to `t` routes, trees and links have changed, no link is enabled anew, and each keeps its peer. -/
structure Fencing (m t : Dev) : Prop where
  frame : t = { m with net := t.net, ctl := { m.ctl with evq := t.ctl.evq } }
  raised : ∃ es, t.ctl.evq = m.ctl.evq ++ es
  peers : ∀ k, (linkAt t k).peerValid = (linkAt m k).peerValid ∧ (linkAt t k).peerPos = (linkAt m k).peerPos
    ∧ ((linkAt t k).enabled = true → (linkAt m k).enabled = true)

section
variable {m t u : Dev}

theorem Fencing.refl (m : Dev) : Fencing m m := ⟨rfl, ⟨[], (List.append_nil _).symm⟩, fun _ => ⟨rfl, rfl, id⟩⟩

theorem Fencing.trans (h : Fencing m t) (h' : Fencing t u) : Fencing m u where
  frame := by rw [h'.frame, h.frame]
  raised := by
    obtain ⟨es, he⟩ := h.raised
    obtain ⟨fs, hf⟩ := h'.raised
    exact ⟨es ++ fs, by rw [hf, he, List.append_assoc]⟩
  peers k := by
    obtain ⟨hv, hp, he⟩ := h.peers k
    obtain ⟨hv', hp', he'⟩ := h'.peers k
    exact ⟨hv'.trans hv, hp'.trans hp, fun hk => he (he' hk)⟩

theorem Fencing.jobs (h : Fencing m t) : t.jobs = m.jobs := by rw [h.frame]

theorem Fencing.colls (h : Fencing m t) : t.colls = m.colls := by rw [h.frame]

theorem Fencing.unsecured (h : Fencing m t) (hm : Unsecured m) : Unsecured t := fun p hp => hm p (h.jobs ▸ hp)

theorem updLink_fencing (l : Nat) (f : Link → Link) (hvalid : ∀ k, (f k).peerValid = k.peerValid) (hpos : ∀ k, (f k).peerPos = k.peerPos)
    (hen : ∀ k, (f k).enabled = true → k.enabled = true) : Fencing m (updLink m l f) where
  frame := rfl
  raised := ⟨[], (List.append_nil _).symm⟩
  peers k := by
    rw [linkAt_updLink]
    split
    next h => exact h ▸ ⟨hvalid _, hpos _, hen _⟩
    next => exact ⟨rfl, rfl, id⟩

theorem setLinkState_fencing (l : Nat) (st : LinkState) (m : Dev) : Fencing m (setLinkState l st m) := by
  by_cases h : (linkAt m l).st = st
  · rw [(LinkStep.refl rfl).setLinkState_same h]
    exact .refl m
  · obtain ⟨e, hstep⟩ := (LinkStep.refl (m := m) (l := l) rfl).setLinkState h
    obtain ⟨net, evq, hframe⟩ : ∃ net evq, setLinkState l st m = { m with net := net, ctl := { m.ctl with evq := evq } } :=
      ⟨_, _, hstep.onlyEvq⟩
    refine ⟨by rw [hframe], ⟨[e], hstep.evq⟩, fun k => ?_⟩
    by_cases hk : k = l
    · rw [hk, hstep.link]
      exact ⟨rfl, rfl, id⟩
    · rw [hstep.other k hk]
      exact ⟨rfl, rfl, id⟩

theorem linkDown_fencing (hcolls : m.colls = []) (h : Unsecured m) (l : Nat) : Fencing m (linkDown l m) := by
  rw [linkDown_unsecured hcolls h]
  exact (updLink_fencing l linkDropped (fun _ => rfl) (fun _ => rfl) fun _ => id).trans (setLinkState_fencing ..)

theorem applySet_fencing (x : DeltaSet) (m : Dev) : Fencing m (applySet x m) :=
  ⟨rfl, ⟨[], (List.append_nil _).symm⟩, fun _ => ⟨rfl, rfl, id⟩⟩

theorem applySets_fencing (js kind subject spare : Nat) (m : Dev) : Fencing m (applySets js kind subject spare m) := by
  rw [applySets]
  split
  · exact .refl m
  · exact List.foldlRecOn (motive := Fencing m) _ _ (.refl m) fun t ht x _ => ht.trans (applySet_fencing x t)

/-- R597: the link to a position that is fenced is disabled and goes down. -/
def fenceLink (pos : Nat) (m : Dev) (l : Nat) : Dev :=
  if (linkAt m l).enabled ∧ (linkAt m l).peerValid ∧ (linkAt m l).peerPos = pos
  then linkDown l (updLink m l (fun k => { k with enabled := false })) else m

theorem disable_fencing (l : Nat) (m : Dev) : Fencing m (updLink m l (fun k => { k with enabled := false })) :=
  updLink_fencing l _ (fun _ => rfl) (fun _ => rfl) fun _ h => absurd h Bool.false_ne_true

theorem fenceLink_fencing (hcolls : m.colls = []) (h : Unsecured m) (pos l : Nat) : Fencing m (fenceLink pos m l) := by
  rw [fenceLink]
  split
  · exact (disable_fencing l m).trans (linkDown_fencing (m := updLink m l (fun k => { k with enabled := false })) hcolls h l)
  · exact .refl m

theorem fenceLink_disables (hcolls : m.colls = []) (h : Unsecured m) {pos l : Nat} (hvalid : (linkAt m l).peerValid = true)
    (hpos : (linkAt m l).peerPos = pos) : (linkAt (fenceLink pos m l) l).enabled = false := by
  rw [fenceLink]
  split
  · have hdown := linkDown_fencing (m := updLink m l (fun k => { k with enabled := false })) hcolls h l
    refine Bool.eq_false_iff.mpr fun hon => ?_
    have hoff := (hdown.peers l).2.2 hon
    rw [linkAt_updLink_same] at hoff
    cases hoff
  next hcond => exact Bool.eq_false_iff.mpr fun hon => hcond ⟨hon, hvalid, hpos⟩

theorem fence_fencing (hcolls : m.colls = []) (h : Unsecured m) (js pos : Nat) : Fencing m (fence js pos m) :=
  List.foldlRecOn (motive := Fencing m) (List.range 32) (fenceLink pos) (applySets_fencing js 0 pos 0 m) fun _ ht l _ =>
    ht.trans (fenceLink_fencing (ht.colls.trans hcolls) (ht.unsecured h) pos l)

/-- R597: every link to a fenced position is disabled. -/
theorem fence_disables (hcolls : m.colls = []) (h : Unsecured m) (js : Nat) {pos l : Nat} (hl : l < 32)
    (hvalid : (linkAt m l).peerValid = true) (hpos : (linkAt m l).peerPos = pos) : (linkAt (fence js pos m) l).enabled = false := by
  have hreached := foldl_reaches (f := fenceLink pos) (a := l) (P := Fencing m) (Q := fun t => Fencing m t ∧ (linkAt t l).enabled = false)
    (fun t k ht => ht.trans (fenceLink_fencing (ht.colls.trans hcolls) (ht.unsecured h) pos k))
    (fun t k ht => ?keep) (fun t ht => ?off) (List.range 32) (applySets js 0 pos 0 m) (List.mem_range.mpr hl) (applySets_fencing ..)
  · exact hreached.2
  case keep =>
    have hstep := fenceLink_fencing (ht.1.colls.trans hcolls) (ht.1.unsecured h) pos k
    exact ⟨ht.1.trans hstep, Bool.eq_false_iff.mpr fun hon => absurd ((hstep.peers l).2.2 hon) (Bool.eq_false_iff.mp ht.2)⟩
  case off =>
    obtain ⟨hv, hp, _⟩ := ht.peers l
    exact ⟨ht.trans (fenceLink_fencing (ht.colls.trans hcolls) (ht.unsecured h) pos l),
      fenceLink_disables (ht.colls.trans hcolls) (ht.unsecured h) (hv.trans hvalid) (hp.trans hpos)⟩

end

end Sys2Proof.Machine
end

section
/-! PROOFS of the family 15_recovery: notices and declarations (R586, R587, R597). -/

namespace Sys2Proof.Machine

/-! ### Recovery messages (R596) -/

theorem recField_padTo {l : List Byte} {o n size : Nat} (hl : o + n ≤ l.length) (h : o + n ≤ size) :
    recField (padTo size l) o n = recField l o n := by
  rw [padTo, recField_append_left _ _ _ _ (by rw [List.length_take]; omega)]
  conv_rhs => rw [← List.take_append_drop size l]
  rw [recField_append_left _ _ _ _ (by rw [List.length_take]; omega)]

theorem recField_recoveryPayload_kind (j : Job) {kind attempt size : Nat} (b13 rest : List Byte) (hk : kind < 256) (hs : 1 ≤ size) :
    recField (recoveryPayload j kind attempt size b13 rest) 0 1 = kind := by
  rw [recoveryPayload, recField_padTo (by simp) hs]
  simp only [List.append_assoc]
  rw [recField_append_left _ _ _ _ (by simp), recField_leBytes (n := 1) hk]

theorem recField_recoveryPayload_attempt (j : Job) {kind attempt size : Nat} (b13 rest : List Byte) (hs : 13 ≤ size) :
    recField (recoveryPayload j kind attempt size b13 rest) 12 1 = attempt % 256 := by
  rw [recoveryPayload, recField_padTo (by simp; omega) hs]
  simp only [List.append_assoc]
  rw [recField_append_right _ _ _ _ (by simp), recField_append_right _ _ _ _ (by simp), recField_append_right _ _ _ _ (by simp),
    recField_append_right _ _ _ _ (by simp), recField_append_left _ _ _ _ (by simp)]
  simp only [length_leBytes, length_zeros]
  show recField (leBytes 1 attempt) 0 1 = attempt % 256
  rw [recField, List.drop_zero, List.take_of_length_le (by simp), leNat_leBytes, Nat.pow_one]

/-! ### Notices (R587, R614) -/

/-- The job once the NOTICEs of an attempt are out. -/
def noticing (j : Job) : Job := { j with recov := { j.recov with
  stage := 1, acks := [], expected := liveOthers j, chosen := [], spareUps := [], configured := [], restored := [], next := none
  noticeSent := decide (j.phase ≠ .idle ∧ j.phase ≠ .halted), done := false, spreading := false, noticed := none, tookPhase := 0 } }

/-- One NOTICE. -/
def sendNotice (j : Job) (dest : Nat) (m : Dev) (p : List Nat) : Dev :=
  sendControl m dest (recoveryPayload j 0x21 j.recov.attempt 64 (leBytes 1 p.length ++ leBytes 2 j.self) (p.flatMap (leBytes 2)))

/-- The failed positions, packet by packet. -/
def noticeParts (j : Job) : List (List Nat) :=
  if (unfilled j.recov).isEmpty then [[]] else chunksOf 20 (((unfilled j.recov).length + 19) / 20) (unfilled j.recov)

theorem noticeParts_ne_nil (j : Job) : noticeParts j ≠ [] := by
  rw [noticeParts]
  cases hf : unfilled j.recov with
  | nil => simp
  | cons p ps =>
    obtain ⟨n, hn⟩ : ∃ n, ((p :: ps).length + 19) / 20 = n + 1 := ⟨((p :: ps).length + 19) / 20 - 1, by simp only [List.length_cons]; omega⟩
    rw [hn]
    simp [chunksOf]

/-- The NOTICEs of an attempt. -/
def notices (j : Job) (m : Dev) : Dev := (liveOthers j).foldl (fun m dest => (noticeParts j).foldl (sendNotice j dest) m) m

theorem sendNotices_eq {slot : Nat} {m : Dev} {j : Job} (hj : jobAt m slot = some j) : ∃ f : Recov → Recov,
    sendNotices slot m = updRecov (notices j m) slot f ∧ ({ j with recov := f j.recov } : Job) = noticing j := by
  simp only [sendNotices, hj]
  exact ⟨_, rfl, rfl⟩

theorem notices_messaged (j : Job) (m : Dev) : Messaged m (notices j m) :=
  List.foldlRecOn (motive := Messaged m) _ _ (.refl m) fun _ ht _ _ =>
    List.foldlRecOn (motive := Messaged m) _ _ ht fun _ hu _ _ => hu.trans (sendControl_messaged ..)

/-- Messages have gone out from `m` to `t`, and a NOTICE to a position is on its way on a link. -/
def NoticeOut (m : Dev) (d l : Nat) (t : Dev) : Prop :=
  Messaged m t ∧ ∃ p, onItsWay t l p ∧ p.dest = d ∧ recField p.payload 0 1 = 0x21

theorem NoticeOut.messaged {m t u : Dev} {d l : Nat} (h : NoticeOut m d l t) (hu : Messaged t u) : NoticeOut m d l u := by
  obtain ⟨ht, p, hway, hdest, hkind⟩ := h
  exact ⟨ht.trans hu, p, hu.keeps l p hway, hdest, hkind⟩

theorem sendNotice_out {m t : Dev} {d l : Nat} (j : Job) (part : List Nat) (hroute : routeLink m d = some l) (ht : Messaged m t) :
    NoticeOut m d l (sendNotice j d t part) :=
  ⟨ht.trans (sendControl_messaged ..), _, onItsWay_sendControl _ ((ht.routeLink d).trans hroute), rfl,
    recField_recoveryPayload_kind j _ _ (by decide) (by decide)⟩

/-- The NOTICE to one member. -/
def noticeTo (j : Job) (m : Dev) (dest : Nat) : Dev := (noticeParts j).foldl (sendNotice j dest) m

theorem noticeTo_messaged (j : Job) (m : Dev) (dest : Nat) : Messaged m (noticeTo j m dest) :=
  List.foldlRecOn (motive := Messaged m) _ _ (.refl m) fun _ hu _ _ => hu.trans (sendControl_messaged ..)

theorem noticeTo_out {m t : Dev} {d l : Nat} (j : Job) (hroute : routeLink m d = some l) (ht : Messaged m t) :
    NoticeOut m d l (noticeTo j t d) := by
  obtain ⟨part, hpart⟩ := List.exists_mem_of_ne_nil _ (noticeParts_ne_nil j)
  exact foldl_reaches (f := sendNotice j d) (P := Messaged m) (Q := NoticeOut m d l) (a := part) (fun _ _ hu => hu.trans (sendControl_messaged ..))
    (fun _ _ hu => hu.messaged (sendControl_messaged ..)) (fun _ hu => sendNotice_out j part hroute hu) (noticeParts j) t hpart ht

/-- R587: a NOTICE to a member that has a route is on its way. -/
theorem onItsWay_notices {j : Job} {m : Dev} {d l : Nat} (hd : d ∈ liveOthers j) (hroute : routeLink m d = some l) :
    NoticeOut m d l (notices j m) :=
  foldl_reaches (P := Messaged m) (Q := NoticeOut m d l) (f := noticeTo j) (a := d) (fun _ _ ht => ht.trans (noticeTo_messaged ..))
    (fun _ _ ht => ht.messaged (noticeTo_messaged ..)) (fun _ ht => noticeTo_out j hroute ht) (liveOthers j) m hd (.refl m)

/-! ### Declarations (R586, R597) -/

/-- A position is declared failed. -/
def declaredRecov (pos : Nat) (r : Recov) : Recov := { r with
  failed := r.failed.filter (fun p => decide (p ≠ pos)) ++ [pos], replaced := r.replaced.filter (fun x => decide (x.1 ≠ pos))
  passed := if pos ∈ r.passed then r.passed else r.passed ++ [pos], attempt := if r.attempt = 0 then 1 else r.attempt }

/-- The job once a declaration's NOTICEs are out. -/
def declaredJob (pos : Nat) (j : Job) : Job := noticing { j with recov := declaredRecov pos j.recov }

theorem mem_unfilled_declared (pos : Nat) (r : Recov) : pos ∈ unfilled (declaredRecov pos r) := by
  simp [unfilled, declaredRecov]

theorem not_mem_expected_declared (pos : Nat) (j : Job) : pos ∉ (declaredJob pos j).recov.expected := by
  have hfailed : pos ∈ unfilled ({ j with recov := declaredRecov pos j.recov } : Job).recov := mem_unfilled_declared pos j.recov
  simp only [declaredJob, noticing, liveOthers]
  simp [hfailed]

/-- A position has been declared failed: the job, its fences, its event and its NOTICEs. -/
structure Declared (slot pos cause : Nat) (j : Job) (m t : Dev) : Prop where
  job : jobAt t slot = some (declaredJob pos j)
  fenced : ∀ l < 32, (linkAt m l).peerValid = true → (linkAt m l).peerPos = pos → (linkAt t l).enabled = false
  event : ∃ e ∈ t.ctl.evq, e.2.etype = 0x0703 ∧ e.2.jobId = j.id
    ∧ e.2.payload = leBytes 2 pos ++ leBytes 1 cause ++ leBytes 1 (declaredJob pos j).recov.attempt ++ leBytes 2 j.self
  notices : ∀ d ∈ (declaredJob pos j).recov.expected, ∀ l, routeLink t d = some l →
    ∃ p, onItsWay t l p ∧ p.dest = d ∧ recField p.payload 0 1 = 0x21
  frame : t.mem = m.mem ∧ t.port = m.port ∧ t.sys = m.sys

theorem declareFailed_eq {slot pos : Nat} {m : Dev} {j : Job} (cause : Nat) (hj : jobAt m slot = some j) (hpos : pos ∉ unfilled j.recov)
    (hphase : j.phase ≠ .recovering) : ∃ f : Recov → Recov, declareFailed slot pos cause m = sendNotices slot (fence slot pos
      (raiseJob (updRecov m slot f) slot 0x0703 0
        (leBytes 2 pos ++ leBytes 1 cause ++ leBytes 1 (declaredRecov pos j.recov).attempt ++ leBytes 2 j.self)))
      ∧ f j.recov = declaredRecov pos j.recov := by
  simp only [declareFailed, hj, if_neg hpos, if_neg hphase]
  exact ⟨_, rfl, rfl⟩

theorem declareFailed_declares {slot pos : Nat} {m : Dev} {j : Job} (cause : Nat) (hj : jobAt m slot = some j) (hpos : pos ∉ unfilled j.recov)
    (hphase : j.phase ≠ .recovering) (hcolls : m.colls = []) (hm : Unsecured m) :
    Declared slot pos cause j m (declareFailed slot pos cause m) := by
  obtain ⟨f, hrun, hf⟩ := declareFailed_eq cause hj hpos hphase
  obtain ⟨y, hy⟩ : ∃ y : Job, { j with recov := declaredRecov pos j.recov } = y := ⟨_, rfl⟩
  have hju : jobAt (updRecov m slot f) slot = some y := by
    rw [← hy, ← hf]
    exact (OnlyJob.updJob (.refl hj) fun j => { j with recov := f j.recov }).1
  have hunsec : Unsecured (updRecov m slot f) := hm.updJob slot _ fun _ => rfl
  obtain ⟨stream, e, hraise, htype, -, hid, -, hpayload⟩ := raiseJob_queues hju 0x0703 0
    (leBytes 2 pos ++ leBytes 1 cause ++ leBytes 1 (declaredRecov pos j.recov).attempt ++ leBytes 2 j.self)
  obtain ⟨v, hv⟩ : ∃ v : Dev, { updRecov m slot f with
    ctl := { m.ctl with evq := m.ctl.evq ++ [(stream, e)] } } = v := ⟨_, rfl⟩
  have hraise' : _ = v := hraise.trans hv
  have hcollsv : v.colls = [] := hv ▸ hcolls
  have hunsecv : Unsecured v := hv ▸ hunsec
  have hlinkv (l : Nat) : linkAt v l = linkAt m l := hv ▸ rfl
  have hfence := fence_fencing hcollsv hunsecv slot pos
  have hdisable := fun l hl hvalid hpeer => fence_disables hcollsv hunsecv slot (pos := pos) (l := l) hl (hlinkv l ▸ hvalid) (hlinkv l ▸ hpeer)
  have hjv : jobAt v slot = some y := hv ▸ hju
  have hmemv : v.mem = m.mem ∧ v.port = m.port ∧ v.sys = m.sys := hv ▸ ⟨rfl, rfl, rfl⟩
  have hev : (stream, e) ∈ v.ctl.evq := hv ▸ List.mem_append_right _ (List.mem_singleton_self _)
  rw [hrun, hraise']
  have hjw : jobAt (fence slot pos v) slot = some y := by
    rw [jobAt, hfence.jobs]
    exact hjv
  obtain ⟨g, hsend, hg⟩ := sendNotices_eq hjw
  rw [hsend]
  generalize fence slot pos v = w at hfence hdisable hjw ⊢
  have hmsg := notices_messaged y w
  have hout := fun d l hd hroute => onItsWay_notices (j := y) (m := w) (d := d) (l := l) hd hroute
  generalize notices y w = n at hmsg hout ⊢
  have hjn : jobAt n slot = some y := by
    rw [hmsg.frame]
    exact hjw
  have hdone : declaredJob pos j = { y with recov := g y.recov } := by rw [hg, ← hy, declaredJob]
  obtain ⟨es, hes⟩ := hfence.raised
  have hframe : n.mem = m.mem ∧ n.port = m.port ∧ n.sys = m.sys := by
    rw [hmsg.frame, hfence.frame]
    exact hmemv
  refine ⟨hdone ▸ (OnlyJob.updJob (.refl hjn) fun j => { j with recov := g j.recov }).1,
    fun l hl hvalid hpeer => (congrArg (·.2.1) (hmsg.peer l)).trans (hdisable l hl hvalid hpeer),
    ⟨(stream, e), ?raised, htype, hid.trans (hy ▸ rfl), hpayload⟩, fun d hd l hroute => ?sent, hframe⟩
  case raised =>
    show (stream, e) ∈ n.ctl.evq
    rw [hmsg.frame]
    show (stream, e) ∈ w.ctl.evq
    rw [hes]
    exact List.mem_append_left _ hev
  case sent =>
    have hlive : d ∈ liveOthers y := hy ▸ hd
    exact (hout d l hlive ((hmsg.routeLink d).symm.trans hroute)).2

end Sys2Proof.Machine
end

section
/-! PROOFS of the family 15_recovery: reports, the coordinator's declarations and the members' ACKs (R585 to R587, R593 to R597). -/

namespace Sys2Proof.Machine

/-! ### The frame of a recovery packet (R596) -/

theorem onPacket_taken {m : Dev} {slot src : Nat} {j : Job} (hj : jobAt m slot = some j) (hfwd : forwarding m = true)
    (hsrc : knownSource j src = true) (f : Job → Dev → Dev) : onPacket slot src f m = f j m := by
  simp [onPacket, hj, hfwd, hsrc]

theorem OnlyJob.updRecov {slot : Nat} {j : Job} {m r : Dev} (h : OnlyJob slot j m r) (f : Recov → Recov) :
    OnlyJob slot { j with recov := f j.recov } m (updRecov r slot f) := h.updJob fun j => { j with recov := f j.recov }

/-- A job's recovery changes, and nothing else of the module. -/
theorem updRecov_only {s : State} {slot : Nat} {j : Job} {r : Recov} (hj : jobAt s.m slot = some j) (hr : j.recov = r) (f : Recov → Recov) :
    jobAt (updRecov s.m slot f) slot = some { j with recov := f r } ∧ (∀ k, k ≠ slot → jobAt (updRecov s.m slot f) k = jobAt s.m k)
      ∧ ({ s with m := updRecov s.m slot f } : State)
        = { s with m := { s.m with jobs := (updRecov s.m slot f).jobs, out := (updRecov s.m slot f).out } } :=
  have h := OnlyJob.updRecov (.refl hj) f
  ⟨hr ▸ h.1, h.2, rfl⟩

/-! ### Reports (R586, R594) -/

/-- A REPORT is recorded once. -/
def recordReport (cause subject : Nat) (r : Recov) : Recov :=
  { r with recorded := if (cause, subject) ∈ r.recorded then r.recorded else r.recorded ++ [(cause, subject)] }

section
variable {m : Dev} {slot cause subject : Nat} {j : Job} (hj : jobAt m slot = some j)
include hj

/-- R594: the next position claims the role. -/
theorem takeReport_claims (hcause : cause ∈ [3, 4, 6, 7]) (hc : coordOf j = some subject) (hn : nextCoord j = some j.self) :
    takeReport slot cause subject m
      = updRecov (updRecov m slot (recordReport cause subject)) slot (fun r => { r with claim := true }) := by
  have hlost : cause = 3 ∨ cause = 4 ∨ cause = 6 ∨ cause = 7 := by simpa using hcause
  simp only [takeReport, hj]
  exact if_pos ⟨hlost, hc.symm, hn⟩

theorem takeReport_records (hother : cause ∉ [2, 3, 4, 5, 6, 7] ∨ subject ∉ otherMembers j) (hc : coordOf j ≠ some subject) :
    takeReport slot cause subject m = updRecov m slot (recordReport cause subject) := by
  have hcause : ¬ (subject ∈ otherMembers j ∧ (cause = 2 ∨ 4 ≤ cause ∧ cause ≤ 7)) := fun ⟨hmember, hcause⟩ =>
    hother.elim (fun h => h (by simp; omega)) fun h => h hmember
  simp only [takeReport, hj]
  rw [if_neg fun h => hc h.2.1.symm, if_neg fun h => hcause h.2]
  rfl

theorem takeReport_declares (hcause : cause ∈ [2, 4, 5, 6, 7]) (hmember : subject ∈ otherMembers j) (hcoord : isCoord j = true) :
    takeReport slot cause subject m = declareFailed slot subject cause (updRecov m slot (recordReport cause subject)) := by
  have hself : subject ≠ j.self := by
    intro h
    subst h
    simp only [otherMembers] at hmember
    split at hmember
    · simp at hmember
    · cases hmember
  have hc : coordOf j = some j.self := by simpa [isCoord] using hcoord
  have hkind : cause = 2 ∨ 4 ≤ cause ∧ cause ≤ 7 := by
    simp only [List.mem_cons, List.not_mem_nil, or_false] at hcause
    omega
  simp only [takeReport, hj]
  rw [if_neg fun h => hself (Option.some.inj (h.2.1.trans hc)), if_pos ⟨hcoord, hmember, hkind⟩]
  rfl

/-- R586: no ACK of a position has come. -/
theorem ackLimit_declares {pos : Nat} (hcoord : isCoord j = true) (hstage : j.recov.stage = 1) (hexp : pos ∈ j.recov.expected)
    (hnone : ∀ a ∈ j.recov.acks, a.src ≠ pos) : ackLimit slot pos m = declareFailed slot pos 2 m := by
  have hacks : pos ∉ j.recov.acks.map (·.src) := fun h => by
    obtain ⟨a, ha, hpos⟩ := List.mem_map.mp h
    exact hnone a ha hpos
  simp only [ackLimit, hj]
  exact if_pos ⟨hcoord, hstage, hexp, hacks⟩

/-! ### The coordinator changes (R594, R595) -/

/-- The job of the position that takes the role. -/
def coordinating (old : Nat) (j : Job) : Job := { j with
  isOrigin := true, origin := j.self, tree := strokeTree j j.self, joined := j.members
  recov := { j.recov with claim := false, addressed := none, skip := true, passed := j.recov.passed ++ [old] } }

theorem coordinatorTakeover_declares {old : Nat} (hclaim : j.recov.claim = true) (hc : coordOf j = some old) (hn : nextCoord j = some j.self) :
    ∃ f : Job → Job, coordinatorTakeover slot m = declareFailed slot old 3 (updJob m slot f) ∧ f j = coordinating old j
      ∧ ∀ k, (f k).secure = k.secure := by
  simp only [coordinatorTakeover, hj, hc, if_pos (And.intro hclaim hn)]
  exact ⟨_, rfl, rfl, fun _ => rfl⟩

/-- R585: a report of a lost link goes to the coordinator. -/
theorem sendReport_link {d : Nat} (hc : coordOf j = some d) (hd : d ≠ j.self) : sendReport slot 5 subject m
    = sendControl m d (recoveryPayload j 0x20 j.recov.attempt 64 (leBytes 1 5 ++ leBytes 2 subject) []) := by
  simp [sendReport, hj, hc, hd]

/-- R594: a report that the coordinator is lost goes to the position after it. -/
theorem sendReport_origin {c d : Nat} (hc : coordOf j = some c) (hn : nextCoord j = some d) (hd : d ≠ j.self) : sendReport slot 3 c m
    = sendControl (updRecov m slot (fun r => { r with addressed := some d })) d
        (recoveryPayload j 0x20 j.recov.attempt 64 (leBytes 1 3 ++ leBytes 2 c) []) := by
  simp [sendReport, hj, hc, hn, hd]

theorem reportOriginTimeout_passes {a c : Nat} (ha : j.recov.addressed = some a) (hc : coordOf j = some c) (hnew : a ∉ j.recov.passed) :
    ∃ f : Recov → Recov, reportOriginTimeout slot m = sendReport slot 3 c (updRecov m slot f)
      ∧ f j.recov = { j.recov with addressed := none, passed := j.recov.passed ++ [a] } := by
  simp only [reportOriginTimeout, hj, ha, hc]
  exact ⟨_, rfl, by simp only [if_neg hnew]⟩

end

theorem linkLost_reports {m : Dev} {slot l : Nat} {j : Job} {k : Link} (hk : linkAt m l = k) (hdown : linkUp k = false)
    (hvalid : k.peerValid = true) (hjobs : m.jobs = [(slot, j)]) (hmember : k.peerPos ∈ otherMembers j) (hnew : k.peerPos ∉ unfilled j.recov) :
    linkLost l m = sendReport slot 5 k.peerPos m := by
  simp [linkLost, hk, hdown, hvalid, hjobs, hmember, hnew]

/-! ### Notices (R595, R597, R614) -/

theorem takeNotice_taken {m : Dev} {slot src attempt pos : Nat} {j : Job} (hsucc : src ∈ succPositions j.recov) (hpos : pos ≠ j.self)
    (hatt : j.recov.attempt ≤ attempt) (hcoord : isCoord j = false) (hnone : j.recov.noticed = none) :
    ∃ f : Job → Job, takeNotice slot src attempt src [pos] j m = sendAck slot src (fence slot pos
        (if j.recov.attempt < attempt then endFetch slot (updJob m slot f) else updJob m slot f))
      ∧ ((f j).isOrigin = false ∧ (f j).origin = src ∧ pos ∈ (f j).recov.failed ∧ (f j).recov.attempt = attempt
        ∧ (f j).recov.noticed = some src) ∧ ∀ k, (f k).secure = k.secure := by
  have hgo : ¬ (src ∉ succPositions j.recov ∨ src ≠ src ∨ j.self ∈ [pos] ∨ attempt < j.recov.attempt
      ∨ (isCoord j && decide (succRank j j.self < succRank j src)) = true ∨ false = true) := by
    simp [hsucc, hcoord, Ne.symm hpos]
    omega
  simp only [takeNotice, hnone, if_neg hgo, List.foldl_cons, List.foldl_nil]
  refine ⟨_, rfl, ⟨rfl, rfl, ?_, rfl, rfl⟩, fun _ => rfl⟩
  exact List.mem_append_right _ (List.mem_singleton_self pos)

end Sys2Proof.Machine
end

section
/-! PROOFS of the family 15_recovery: a member answers NOTICE (R595 to R597), and the obligation on reports and declarations. -/

namespace Sys2Proof.Machine

/-! ### The ACK of a NOTICE -/

/-- The job of a member that has taken a NOTICE. -/
structure Notified (src attempt pos : Nat) (y : Job) : Prop where
  member : y.isOrigin = false
  origin : y.origin = src
  failed : pos ∈ y.recov.failed
  attempt : y.recov.attempt = attempt
  noticed : y.recov.noticed = some src

/-- From `m` to `t` only the jobs and the windows of the module have changed. -/
structure JobsMoved (m t : Dev) : Prop where
  links : ∀ l, linkAt t l = linkAt m l
  colls : t.colls = m.colls
  frame : t.mem = m.mem ∧ t.port = m.port ∧ t.sys = m.sys

theorem notified_fetchEnded {m : Dev} {slot src attempt pos old : Nat} {j y : Job} (hj : jobAt m slot = some j) (f : Job → Job) (hf : f j = y)
    (hy : Notified src attempt pos y) (hkept : ∀ k, (f k).secure = k.secure) (hm : Unsecured m) :
    ∃ v z, (if old < attempt then endFetch slot (updJob m slot f) else updJob m slot f) = v ∧ jobAt v slot = some z
      ∧ Notified src attempt pos z ∧ Unsecured v ∧ JobsMoved m v := by
  have hjob : OnlyJob slot y m (updJob m slot f) := hf ▸ OnlyJob.updJob (.refl hj) f
  have hunsec : Unsecured (updJob m slot f) := hm.updJob slot f hkept
  split
  · refine ⟨_, _, rfl, (OnlyJob.updJob (r := updNet (updJob m slot f) _) hjob _).1, ⟨hy.1, hy.2, hy.3, hy.4, hy.5⟩,
      Unsecured.updJob (m := updNet (updJob m slot f) _) hunsec slot _ fun _ => rfl, ⟨fun _ => rfl, rfl, rfl, rfl, rfl⟩⟩
  · exact ⟨_, y, rfl, hjob.1, hy, hunsec, ⟨fun _ => rfl, rfl, rfl, rfl, rfl⟩⟩

theorem sendAck_eq {m : Dev} {slot : Nat} {y : Job} (hj : jobAt m slot = some y) (dest : Nat) :
    ∃ b13 rest, sendAck slot dest m = sendControl m dest (recoveryPayload y 0x22 y.recov.attempt 128 b13 rest) := by
  simp only [sendAck, hj]
  exact ⟨_, _, rfl⟩

/-- A NOTICE has been taken and answered. -/
structure Acked (slot src attempt pos : Nat) (y : Job) (m t : Dev) : Prop where
  job : jobAt t slot = some y
  notified : Notified src attempt pos y
  fenced : ∀ l < 32, (linkAt m l).peerValid = true → (linkAt m l).peerPos = pos → (linkAt t l).enabled = false
  ack : ∀ l, routeLink t src = some l → ∃ p, onItsWay t l p ∧ p.dest = src ∧ recField p.payload 0 1 = 0x22
    ∧ recField p.payload 12 1 = attempt % 256
  frame : t.mem = m.mem ∧ t.port = m.port ∧ t.sys = m.sys

theorem takeNotice_acks {m : Dev} {slot src attempt pos : Nat} {j : Job} (hj : jobAt m slot = some j) (hsucc : src ∈ succPositions j.recov)
    (hpos : pos ≠ j.self) (hatt : j.recov.attempt ≤ attempt) (hcoord : isCoord j = false) (hnone : j.recov.noticed = none)
    (hcolls : m.colls = []) (hm : Unsecured m) :
    ∃ y, Acked slot src attempt pos y m (takeNotice slot src attempt src [pos] j m) := by
  obtain ⟨f, hrun, ⟨hmember, horigin, hfailed, hattempt, hnoticed⟩, hkept⟩ :=
    takeNotice_taken (m := m) (slot := slot) hsucc hpos hatt hcoord hnone
  obtain ⟨v, y, hv, hjv, hy, hunsec, hmoved⟩ := notified_fetchEnded (old := j.recov.attempt) hj f rfl
    ⟨hmember, horigin, hfailed, hattempt, hnoticed⟩ hkept hm
  have hcollsv := hmoved.colls.trans hcolls
  have hfence := fence_fencing hcollsv hunsec slot pos
  have hdisable := fun l hl hvalid hpeer => fence_disables hcollsv hunsec slot (pos := pos) (l := l) hl
    (hmoved.links l ▸ hvalid) (hmoved.links l ▸ hpeer)
  have hjw : jobAt (fence slot pos v) slot = some y := by
    rw [jobAt, hfence.jobs]
    exact hjv
  obtain ⟨b13, rest, hack⟩ := sendAck_eq hjw src
  rw [hrun, hv, hack]
  generalize fence slot pos v = w at hfence hdisable hjw ⊢
  have hmsg := sendControl_messaged w src (recoveryPayload y 0x22 y.recov.attempt 128 b13 rest)
  refine ⟨y, ?_, hy, fun l hl hvalid hpeer => (congrArg (·.2.1) (hmsg.peer l)).trans (hdisable l hl hvalid hpeer),
    fun l hroute => ⟨_, onItsWay_sendControl _ ((hmsg.routeLink src).symm.trans hroute), rfl,
      recField_recoveryPayload_kind y _ _ (by decide) (by decide),
      (recField_recoveryPayload_attempt y _ _ (by decide)).trans (congrArg (· % 256) hy.attempt)⟩, ?_⟩
  · rw [hmsg.frame]
    exact hjw
  · rw [hmsg.frame, hfence.frame]
    exact hmoved.frame

/-! ### A message that goes out at once -/

/-- A recovery message of 64 bytes goes out on its route. -/
theorem sendControl_leaves {m r : Dev} {d l : Nat} {payload : List Byte} (hframe : ∃ jobs, r = { m with jobs := jobs })
    (hlen : payload.length = 64) (hroute : routeLink m d = some l) (htakes : (linkAt m l).takes 6 104 = true) :
    ∃ t, sendControl r d payload = t ∧ t.out = m.out ++ [.packet l (controlPacket m d payload)] ∧ sentOn m t l 6 104
      ∧ t.jobs = r.jobs ∧ t = { m with jobs := t.jobs, out := t.out, net := { m.net with links := t.net.links } } := by
  obtain ⟨jobs, rfl⟩ := hframe
  obtain ⟨ls, hrun, hsent⟩ := sendControl_takes (m := { m with jobs := jobs }) (bytes := 104) (payload := payload) hroute (by rw [hlen]) htakes
  rw [hrun] at hsent ⊢
  exact ⟨_, rfl, rfl, hsent, rfl, rfl⟩

/-! ### The obligation -/

/-- A declaration as the settlement of the reports has it. -/
theorem Declared.settled {slot pos cause a self id : Nat} {j : Job} {m t : Dev} (h : Declared slot pos cause j m t) (ha : j.recov.attempt = a)
    (hid : j.id = id) (hself : j.self = self) {P : Prop} (rest : P) :
    jobAt t slot = some (declaredJob pos j) ∧ pos ∈ (declaredJob pos j).recov.failed ∧ pos ∈ (declaredJob pos j).recov.passed
      ∧ (declaredJob pos j).recov.attempt = (if a = 0 then 1 else a) ∧ (declaredJob pos j).recov.stage = 1
      ∧ (declaredJob pos j).recov.acks = [] ∧ (declaredJob pos j).recov.expected = liveOthers (declaredJob pos j)
      ∧ pos ∉ (declaredJob pos j).recov.expected
      ∧ (∀ l < 32, (linkAt m l).enabled = true → (linkAt m l).peerValid = true → (linkAt m l).peerPos = pos → (linkAt t l).enabled = false)
      ∧ (∃ e ∈ t.ctl.evq, e.2.etype = 0x0703 ∧ e.2.jobId = id
          ∧ e.2.payload = leBytes 2 pos ++ leBytes 1 cause ++ leBytes 1 (declaredJob pos j).recov.attempt ++ leBytes 2 self)
      ∧ (∀ d ∈ (declaredJob pos j).recov.expected, ∀ l, routeLink t d = some l →
          ∃ p, onItsWay t l p ∧ p.dest = d ∧ recField p.payload 0 1 = 0x21) ∧ P := by
  subst ha hid hself
  refine ⟨h.job, List.mem_append_right _ (List.mem_singleton_self pos), ?_, rfl, rfl, rfl, rfl, not_mem_expected_declared pos j,
    fun l hl _ => h.fenced l hl, h.event, h.notices, rest⟩
  show pos ∈ if pos ∈ j.recov.passed then j.recov.passed else j.recov.passed ++ [pos]
  split
  next hin => exact hin
  next => exact List.mem_append_right _ (List.mem_singleton_self pos)

/-- Settles O42: a report changes one field, or declares its subject (`declareFailed_declares`), or goes to the position that is to take it;
a NOTICE is answered with ACK (`takeNotice_acks`). -/
theorem reportsAndDeclarations : Obligations.ReportsAndDeclarations := by
  unfold Obligations.ReportsAndDeclarations
  intro s slot j r hslot hj hr hcolls hcfg hfwd
  have hm : Unsecured s.m := hcfg
  subst hr
  refine ⟨fun src cause subject seen hwf hsrc hseen => ⟨fun hcause hc hn => ?claims, fun hother hc => ?records,
      fun hcause hmember hcoord hnew hphase => ?declares⟩, fun pos hpos hcoord hstage hexp hnone hnew hphase => ?limit,
    fun old hclaim hc hn hnew hphase => ?takeover, fun a c d y ha hc hnew hy hcy hny hd l hroute htakes => ?passes,
    fun l k d hl hk hdown hvalid hjobs hmember hnew hc hd o hroute htakes => ?link,
    fun src attempt pos hwf hsrc hsucc hpos hatt hcoord hnone => ?notice⟩
  case claims =>
    subst hseen
    have hrun := (onPacket_taken hj hfwd hsrc fun _ => takeReport slot cause subject).trans (takeReport_claims hj hcause hc hn)
    have hjob := (OnlyJob.updRecov (.refl hj) (recordReport cause subject)).updRecov fun r => { r with claim := true }
    exact ⟨_, onDev_next_of (c := .reportReceive slot src cause subject) hwf hrun, ⟨hjob.1, hjob.2, rfl⟩, rfl⟩
  case records =>
    subst hseen
    have hrun := (onPacket_taken hj hfwd hsrc fun _ => takeReport slot cause subject).trans (takeReport_records hj hother hc)
    exact ⟨_, onDev_next_of (c := .reportReceive slot src cause subject) hwf hrun, updRecov_only hj rfl (recordReport cause subject), rfl⟩
  case declares =>
    have hrun := (onPacket_taken hj hfwd hsrc fun _ => takeReport slot cause subject).trans (takeReport_declares hj hcause hmember hcoord)
    have hjob := OnlyJob.updRecov (.refl hj) (recordReport cause subject)
    have hdone := declareFailed_declares cause hjob.1 hnew hphase hcolls (hm.updJob slot _ fun _ => rfl)
    exact ⟨_, _, onDev_next_of (c := .reportReceive slot src cause subject) hwf hrun, hdone.settled rfl rfl rfl ⟨rfl, hdone.frame⟩⟩
  case limit =>
    have hdone := declareFailed_declares 2 hj hnew hphase hcolls hm
    have hwf : (Instr.ackLimitTimeout slot pos).wf = true := by simp [Instr.wf, boundsWf, hslot, hpos]
    exact ⟨_, _, onDev_next_of (c := .ackLimitTimeout slot pos) hwf (ackLimit_declares hj hcoord hstage hexp hnone),
      hdone.settled rfl rfl rfl ⟨rfl, hdone.frame⟩⟩
  case takeover =>
    obtain ⟨f, hrun, hf, hkept⟩ := coordinatorTakeover_declares hj hclaim hc hn
    have hjob : jobAt (updJob s.m slot f) slot = some (coordinating old j) := hf ▸ (OnlyJob.updJob (.refl hj) f).1
    have hdone := declareFailed_declares 3 hjob hnew hphase hcolls (hm.updJob slot f hkept)
    obtain ⟨hy, hfailed, hpassed, hattempt, hstage, hacks, hexp, hout, hfenced, hevent, hnotices, hrest⟩ :=
      hdone.settled (a := j.recov.attempt) (id := j.id) (self := j.self) rfl rfl rfl (show s.nv = s.nv ∧ _ from ⟨rfl, hdone.frame⟩)
    exact ⟨_, _, onDev_next_of (c := .coordinatorTakeover slot) (slotRow_wf hslot) hrun,
      ⟨hy, hfailed, hpassed, hattempt, hstage, hacks, hexp, hout, hfenced, hevent, hnotices, hrest⟩, rfl, rfl, rfl, rfl, rfl⟩
  case passes =>
    obtain ⟨f, hrun, hf⟩ := reportOriginTimeout_passes hj ha hc hnew
    have hjob := OnlyJob.updRecov (.refl hj) f
    rw [hf] at hjob
    subst hy
    have hsend := sendReport_origin hjob.1 hcy hny hd
    obtain ⟨t, ht, hout, hsent, hjobs, hframe⟩ := sendControl_leaves (d := d)
      (payload := recoveryPayload j 0x20 j.recov.attempt 64 (leBytes 1 3 ++ leBytes 2 c) [])
      (r := updRecov (updRecov s.m slot f) slot (fun r => { r with addressed := some d })) ⟨_, rfl⟩ (length_recoveryPayload ..) hroute htakes
    have hjobt := (hjob.updRecov fun r => { r with addressed := some d }).of_jobs hjobs
    exact ⟨_, onDev_next_of (c := .reportOriginTimeout slot) (slotRow_wf hslot) (hrun.trans (hsend.trans ht)), ⟨hout, hsent, rfl, rfl⟩,
      hjobt.1, hjobt.2, hframe⟩
  case link =>
    have hrun := (linkLost_reports hk hdown hvalid hjobs hmember hnew).trans (sendReport_link hj hc hd)
    obtain ⟨t, ht, hout, hsent, hjobt, hframe⟩ := sendControl_leaves (d := d)
      (payload := recoveryPayload j 0x20 j.recov.attempt 64 (leBytes 1 5 ++ leBytes 2 k.peerPos) []) ⟨s.m.jobs, rfl⟩
      (length_recoveryPayload ..) hroute htakes
    rw [hjobt] at hframe
    have hwf : wfLinkLostTimeout l = true := by simp [wfLinkLostTimeout, boundsWf, hl]
    exact ⟨{ s with m := t }, (onDevW_next (linkLost l) s hwf).trans (congrArg (fun m => Host.Outcome.next { s with m := m }) (hrun.trans ht)),
      ⟨hout, hsent, rfl, rfl⟩, hframe⟩
  case notice =>
    obtain ⟨y, hack⟩ := takeNotice_acks hj hsucc hpos hatt hcoord hnone hcolls hm
    have hrun := onPacket_taken hj hfwd hsrc (takeNotice slot src attempt src [pos])
    exact ⟨_, y, onDev_next_of (c := .noticeReceive slot src attempt src [pos]) hwf hrun, hack.job, hack.notified.member, hack.notified.origin,
      hack.notified.failed, hack.notified.attempt, hack.notified.noticed, fun l hl _ => hack.fenced l hl, hack.ack, rfl, hack.frame⟩

end Sys2Proof.Machine
end

section
/-! PROOFS of the family 15_recovery: the coordinator's stages (R597, R605, R606, R611, R614). -/

namespace Sys2Proof.Machine

/-- The last of a set has come when each other stands already. -/
theorem all_mem_append {α : Type} (l : List α) (g : α → Nat) (ups : List Nat) (p : Nat) :
    l.all (fun c => decide (g c ∈ ups ++ [p])) = true ↔ ∀ c ∈ l, g c = p ∨ g c ∈ ups := by simp [or_comm]

section
variable {m : Dev} {slot : Nat} {j : Job}

/-- R597: the ACK of an expected position is kept. -/
theorem takeAck_keeps {a : AckInfo} (hcoord : isCoord j = true) (hstage : j.recov.stage = 1) (hexp : a.src ∈ j.recov.expected)
    (hnew : ∀ b ∈ j.recov.acks, b.src ≠ a.src) :
    takeAck slot a j.recov.attempt j m = updRecov m slot (fun r => { r with acks := r.acks ++ [a] }) := by
  have hacks : a.src ∉ j.recov.acks.map (·.src) := fun h => by
    obtain ⟨b, hb, hsrc⟩ := List.mem_map.mp h
    exact hnew b hb hsrc
  exact if_pos ⟨hcoord, hstage, rfl, hexp, hacks⟩

/-- R605: a spare that is up is counted; TAKEOVER is attached with the last. -/
theorem takeSpareUp_counts {pos : Nat} (hcoord : isCoord j = true) (hstage : j.recov.stage = 2) (hchosen : ∃ c ∈ j.recov.chosen, c.1 = pos)
    (hnew : pos ∉ j.recov.spareUps) : ∃ f : Recov → Recov, takeSpareUp slot pos j m = updRecov m slot f ∧ f j.recov = { j.recov with
      spareUps := j.recov.spareUps ++ [pos]
      next := if ∀ c ∈ j.recov.chosen, c.1 = pos ∨ c.1 ∈ j.recov.spareUps then
        some { action := 2, kind := j.recov.kind, attempt := j.recov.attempt, generation := j.recov.generation, pairs := j.recov.chosen }
        else j.recov.next } := by
  obtain ⟨c, hc, hpos⟩ := hchosen
  refine ⟨_, if_pos ⟨hcoord, hstage, List.mem_map.mpr ⟨c, hc, hpos⟩, hnew⟩, ?_⟩
  exact congrArg (fun n => { j.recov with spareUps := j.recov.spareUps ++ [pos], next := n })
    (if_congr (all_mem_append j.recov.chosen (·.1) j.recov.spareUps pos) rfl rfl)

/-- R606, R613: RESTORE is attached. -/
theorem restoreItem_attaches (hj : jobAt m slot = some j) : ∃ (f : Recov → Recov) (i : RecItem), restoreItem slot m = updRecov m slot f
    ∧ f j.recov = { j.recov with next := some i } ∧ i.action = 3 ∧ i.kind = j.recov.kind ∧ i.attempt = j.recov.attempt
    ∧ i.generation = j.recov.generation := by
  simp only [restoreItem, hj]
  exact ⟨_, _, rfl, rfl, rfl, rfl, rfl, rfl⟩

/-- A spare that is configured is counted. -/
def countConfigured (src : Nat) (r : Recov) : Recov := { r with configured := r.configured ++ [src] }

section
variable {src : Nat} (hcoord : isCoord j = true) (hstage : j.recov.stage = 3) (hchosen : ∃ c ∈ j.recov.chosen, c.1 = src)
  (hnew : src ∉ j.recov.configured)
include hcoord hstage hchosen hnew

theorem takeConfigured_counts : ∃ f : Recov → Recov, f j.recov = countConfigured src j.recov ∧ takeConfigured slot src 0 j m
    = if j.recov.chosen.all (fun c => decide (c.1 ∈ j.recov.configured ++ [src])) then restoreItem slot (updRecov m slot f)
      else updRecov m slot f := by
  obtain ⟨c, hc, hsrc⟩ := hchosen
  exact ⟨fun r => { r with configured := j.recov.configured ++ [src] }, rfl,
    if_pos ⟨hcoord, hstage, rfl, List.mem_map.mpr ⟨c, hc, hsrc⟩, hnew⟩⟩

/-- R606: more spares are to be configured. -/
theorem takeConfigured_waits (hmore : ∃ c ∈ j.recov.chosen, c.1 ≠ src ∧ c.1 ∉ j.recov.configured) :
    ∃ f : Recov → Recov, takeConfigured slot src 0 j m = updRecov m slot f ∧ f j.recov = countConfigured src j.recov := by
  obtain ⟨f, hf, hrun⟩ := takeConfigured_counts (m := m) (slot := slot) hcoord hstage hchosen hnew
  obtain ⟨c, hc, hother, hlacks⟩ := hmore
  refine ⟨f, hrun.trans (if_neg fun hall => ?_), hf⟩
  exact ((all_mem_append j.recov.chosen (·.1) j.recov.configured src).mp hall c hc).elim hother hlacks

/-- R606: the last spare is configured. -/
theorem takeConfigured_restores (hj : jobAt m slot = some j) (hall : ∀ c ∈ j.recov.chosen, c.1 = src ∨ c.1 ∈ j.recov.configured) :
    ∃ (f g : Recov → Recov) (i : RecItem), takeConfigured slot src 0 j m = updRecov (updRecov m slot f) slot g
      ∧ g (f j.recov) = { countConfigured src j.recov with next := some i } ∧ i.action = 3 ∧ i.kind = j.recov.kind
      ∧ i.attempt = j.recov.attempt ∧ i.generation = j.recov.generation := by
  obtain ⟨f, hf, hrun⟩ := takeConfigured_counts (m := m) (slot := slot) hcoord hstage hchosen hnew
  obtain ⟨g, i, hg, hnext, haction, hkind, hattempt, hgen⟩ := restoreItem_attaches (OnlyJob.updRecov (.refl hj) f).1
  simp only [hf] at hnext hkind hattempt hgen
  refine ⟨f, g, i, hrun.trans ((if_pos ((all_mem_append j.recov.chosen (·.1) j.recov.configured src).mpr hall)).trans hg), ?_,
    haction, hkind, hattempt, hgen⟩
  rw [hf, hnext]

end

/-- R611: a restored member is counted; RESUME is attached with the last. -/
theorem takeRestored_counts {src : Nat} (hj : jobAt m slot = some j) (hcoord : isCoord j = true) (hstage : j.recov.stage = 4)
    (hnew : src ∉ j.recov.restored) : ∃ f : Recov → Recov, takeRestored slot src 0 m = updRecov m slot f ∧ f j.recov = { j.recov with
      restored := j.recov.restored ++ [src]
      next := if ∀ p ∈ j.self :: liveOthers j, p = src ∨ p ∈ j.recov.restored then
        some { action := 4, kind := j.recov.kind, attempt := j.recov.attempt, generation := j.recov.generation } else j.recov.next } := by
  have hgo : ¬ ((!isCoord j) = true ∨ j.recov.stage ≠ 4) := by simp [hcoord, hstage]
  simp only [takeRestored, hj, if_neg hgo, ne_eq, not_true, if_false, if_neg hnew]
  refine ⟨_, rfl, ?_⟩
  exact congrArg (fun n => { j.recov with restored := j.recov.restored ++ [src], next := n })
    (if_congr (all_mem_append (j.self :: liveOthers j) id j.recov.restored src) rfl rfl)

/-- R614: no attempt is left. -/
theorem nextAttempt_fails {p : Plan} (hj : jobAt m slot = some j) (hp : j.recov.plan = some p) (hlast : p.attempts ≤ j.recov.attempt) :
    nextAttempt slot m = updRecov m slot (fun r => { r with
      noticeSent := false, next := some { action := 5, kind := r.lastCause, attempt := r.attempt, generation := r.generation } }) := by
  simp [nextAttempt, hj, hp, hlast]

/-- R614: the class of a failed restoration. -/
theorem takeRestored_fails {src c n : Nat} (hj : jobAt m slot = some j) (hcoord : isCoord j = true) (hstage : j.recov.stage = 4)
    (hn : (if c = 2 ∨ c = 5 then 4 else if c = 1 ∧ j.recov.byHost = true ∧ (∃ q, j.recov.source = some q ∧ q.1 = 3) then 5 else 1) = n)
    (hc : c ≠ 0) : takeRestored slot src c m = nextAttempt slot (updRecov m slot (fun r => { r with lastCause := n })) := by
  have hgo : ¬ ((!isCoord j) = true ∨ j.recov.stage ≠ 4) := by simp [hcoord, hstage]
  subst hn
  simp only [takeRestored, hj, if_neg hgo, if_pos hc]
  cases hs : j.recov.source with
  | none => simp
  | some q => simp [and_comm]

end

end Sys2Proof.Machine
end

section
/-! PROOFS of the family 15_recovery: FETCH, images and TAKEOVER (R602 to R604, R609), and the obligation on the course of a recovery. -/

namespace Sys2Proof.Machine

/-! ### FETCH (R609) -/

section
variable {m : Dev} {slot src hs gen : Nat} {j : Job} {c : SecureReq} (hc : j.secure.cfg = some c) (hholds : holdsFor c = true)
  (hfor : c.heldFor = src) (hsound : m.mem.damaged = [])
include hc hholds hfor hsound

theorem takeFetch_hold (hst : (holdAt j.secure hs).st = .complete) (hgen : (holdAt j.secure hs).gen = gen) {ps : List (Nat × Nat)}
    (hps : spanPieces (holdPieces m slot hs) 0 (holdAt j.secure hs).bytes = ps) :
    takeFetch slot src 1 hs gen j m = sendImage src (piecesRead m.mem ps) (pieceMarks m ps) m := by
  subst hps
  simp [takeFetch, hc, hholds, hfor, hst, hgen, freeFinds_undamaged hsound]

theorem takeFetch_layout {y : Layout} (hy : layoutOf j = some y) {ps : List (Nat × Nat)} (hps : regionRuns m slot j y = ps) :
    takeFetch slot src 0 hs gen j m = sendImage src (piecesRead m.mem ps) (pieceMarks m ps) m := by
  subst hps
  simp [takeFetch, hc, hholds, hfor, hy, freeFinds_undamaged hsound]

end

/-! ### An image on its way (R463, R609) -/

theorem le_upTo64 (n : Nat) : n ≤ upTo64 n := by
  unfold upTo64
  omega

theorem take_padTo {l : List Byte} {n : Nat} (h : l.length ≤ n) : (padTo n l).take l.length = l := by
  rw [padTo, List.take_of_length_le h, List.take_left]

/-- The packet of an image of one packet. -/
theorem writePackets_one (m : Dev) (dest window vc : Nat) {data : List Byte} (marks : List Bool) (h0 : 0 < data.length) (h : data.length ≤ 4096) :
    ∃ p, writePackets m dest window vc data marks = [p] ∧ p.dest = dest ∧ p.window = window ∧ p.offset = 0 ∧ p.vc = vc
      ∧ p.payload = padTo (upTo64 data.length) data := by
  have hone : (data.length + 4095) / 4096 = 1 := by omega
  rw [writePackets, hone, packetsOf, packetsOf, List.take_of_length_le h]
  exact ⟨_, rfl, rfl, rfl, rfl, rfl, rfl⟩

theorem sendImage_one {m : Dev} {src l : Nat} {data : List Byte} (marks : List Bool) (hroute : routeLink m src = some l) (h0 : 0 < data.length)
    (h : data.length ≤ 4096) (htakes : (linkAt m l).takes 7 (40 + upTo64 data.length) = true) :
    ∃ p, (sendImage src data marks m).out = m.out ++ [.packet l p] ∧ p.dest = src ∧ p.window = 0xF100 ∧ p.offset = 0 ∧ p.vc = 7
      ∧ p.payload.take data.length = data ∧ sentOn m (sendImage src data marks m) l 7 (40 + upTo64 data.length) := by
  obtain ⟨p, hp, hdest, hwindow, hoffset, hvc, hpayload⟩ := writePackets_one m src 0xF100 7 marks h0 h
  have hbytes : packetBytes p = 40 + upTo64 data.length := by rw [packetBytes, hpayload, length_padTo]
  have hrun : sendImage src data marks m = sendUnit m l 7 (40 + upTo64 data.length) (.packet l p) := by
    rw [sendImage, hp, List.foldl_cons, List.foldl_nil, sendRouted, hdest, hroute]
    simp only [hvc, hbytes]
  obtain ⟨links, hout, hsent⟩ := sendUnit_takes m l 7 _ (.packet l p) htakes
  rw [hrun]
  exact ⟨p, by rw [hout], hdest, hwindow, hoffset, hvc, hpayload ▸ take_padTo (le_upTo64 _), hsent⟩

/-! ### The spare takes a position (R602 to R604) -/

/-- R603: TAKEOVER_REFUSED goes to partition 0. -/
theorem takeoverRefused_raises (l : List Byte) (cause : Nat) (m : Dev) : ∃ e, takeoverRefused l cause m
    = { m with ctl := { m.ctl with evq := m.ctl.evq ++ [(none, e)] } } ∧ e.etype = 0x0707 ∧ e.part = 0
      ∧ e.payload = leBytes 2 (recField l 16 2) ++ leBytes 2 (recField l 14 2) ++ leBytes 1 cause := ⟨_, rfl, rfl, rfl, rfl⟩

/-- A job stands in its slot, but for what a join sets, and the module has no spare's plan any more. -/
structure Bound (slot : Nat) (j : Job) (p : Option Nat) (t : Dev) : Prop where
  job : ∃ y, jobAt t slot = some y ∧ y = { j with joined := y.joined, minMargin := y.minMargin, margin := y.margin }
  spare : t.sys.spare = none
  position : t.net.position = p

section
variable {slot : Nat} {j : Job} {p : Option Nat} {m t : Dev}

theorem Bound.of_frame (h : Bound slot j p m) (hjobs : t.jobs = m.jobs) (hsys : t.sys = m.sys) (hpos : t.net.position = m.net.position) :
    Bound slot j p t := by
  obtain ⟨y, hy, hjob⟩ := h.job
  refine ⟨⟨y, ?_, hjob⟩, hsys ▸ h.spare, hpos.trans h.position⟩
  rw [jobAt, hjobs]
  exact hy

theorem Bound.messaged (h : Bound slot j p m) (hm : Messaged m t) : Bound slot j p t :=
  h.of_frame (by rw [hm.frame]) (by rw [hm.frame]) (by rw [hm.frame])

theorem Bound.updJob (h : Bound slot j p m) (k : Nat) (f : Job → Job)
    (hf : ∀ y, f y = { y with joined := (f y).joined, minMargin := (f y).minMargin, margin := (f y).margin }) :
    Bound slot j p (updJob m k f) := by
  obtain ⟨y, hy, hjob⟩ := h.job
  refine ⟨?_, h.spare, h.position⟩
  by_cases hk : slot = k
  · subst hk
    refine ⟨f y, (jobAt_updJob_same ..).trans (congrArg (Option.map f) hy), ?_⟩
    rw [hf y, hjob]
  · exact ⟨y, (jobAt_updJob ..).trans ((if_neg hk).trans hy), hjob⟩

theorem treeDepth_free (m : Dev) (e : Option TreeEntry) : ∃ free, (treeDepth m e).2 = { m with free := free } := by
  cases e with
  | none => exact ⟨_, rfl⟩
  | some e =>
    simp only [treeDepth]
    split
    · exact ⟨_, rfl⟩
    · exact ⟨_, rfl⟩

theorem treeFlight_free (m : Dev) (e : Option TreeEntry) : ∃ free, (treeFlight m e).2 = { m with free := free } := by
  cases e with
  | none => exact ⟨_, rfl⟩
  | some e => exact ⟨_, rfl⟩

theorem Bound.originJoined (h : Bound slot j p m) (k : Nat) : Bound slot j p (originJoined k m) := by
  rw [Machine.originJoined]
  split
  · exact h
  next y _ =>
    split
    · obtain ⟨free, hdepth⟩ := treeDepth_free m (originTree m y)
      obtain ⟨free', hflight⟩ := treeFlight_free (treeDepth m (originTree m y)).2 (originTree m y)
      rw [hdepth] at hflight
      have hdrawn : Bound slot j p (treeFlight (treeDepth m (originTree m y)).2 (originTree m y)).2 :=
        h.of_frame (by rw [hdepth, hflight]) (by rw [hdepth, hflight]) (by rw [hdepth, hflight])
      simp only
      split
      · exact (hdrawn.updJob k _ fun _ => rfl).of_frame (raiseJob_jobs ..) (raiseJob_sys ..) (by rw [raiseJob_net])
      · exact hdrawn.updJob k _ fun _ => rfl
    · exact h

theorem Bound.sendJoin (h : Bound slot j p m) (e : TreeEntry) : Bound slot j p (sendJoin m e) := by
  rw [Machine.sendJoin]
  split
  · obtain ⟨links, out, hframe⟩ := sendFlit_frame m e.up (.join e.tree (joinCount m e))
    exact h.of_frame (by rw [hframe]) (by rw [hframe]) (by rw [hframe])
  · split
    · split
      · exact (h.updJob _ _ fun _ => rfl).originJoined _
      · exact h
    · exact h

theorem generatorsAlloc_mem (js part : Nat) (m : Dev) : ∃ mem, generatorsAlloc js part m = { m with mem := mem } := by
  rw [generatorsAlloc]
  split
  next r n h =>
    rw [allocate] at h
    split at h
    · cases h
    · split at h
      · cases h
      · cases h
        exact ⟨_, rfl⟩
  next => exact ⟨m.mem, rfl⟩

/-- R84, R604: a job that another origin leads is bound. -/
theorem bindJob_bound (m : Dev) (slot : Nat) {j : Job} (hj : j.isOrigin = false) : Bound slot j m.net.position (bindJob slot j m) := by
  have hput : Bound slot j m.net.position (updSys { m with jobs := tput m.jobs slot j } (fun s => { s with
      st := if s.st = .ready then .active else s.st, spare := none })) :=
    ⟨⟨j, (tfind_tput ..).trans (if_pos rfl), rfl⟩, rfl, rfl⟩
  obtain ⟨mem, hmem⟩ := generatorsAlloc_mem slot j.part (updSys { m with jobs := tput m.jobs slot j } (fun s => { s with
    st := if s.st = .ready then .active else s.st, spare := none }))
  have halloc := hput.of_frame (t := generatorsAlloc slot j.part (updSys { m with jobs := tput m.jobs slot j } (fun s => { s with
    st := if s.st = .ready then .active else s.st, spare := none }))) (by rw [hmem]) (by rw [hmem]) (by rw [hmem])
  rw [bindJob, if_neg (by simp [hj])]
  exact List.foldlRecOn (motive := Bound slot j m.net.position) _ _ halloc fun t ht e _ => ht.sendJoin e

end

/-- The job of the spare that takes a position (R604). -/
def tookPosition (a : SpareArm) (l : List Byte) : Job := {
  id := recField l 4 4, part := a.part, periodK := recField l 9 1, margin := recField l 12 2, cfgMargin := recField l 12 2
  stretchLimit := recField l 10 1, fill := decide (recField l 11 1 = 1), self := recField l 14 2, origin := recField l 16 2
  members := recField l 18 2, seed := recField l 32 8, phase := .recovering, epoch := recField l 20 4, turnNumber := recField l 52 4
  stroke := recField l 24 8, tree := (a.plan.succ.find? (fun e => decide (e.1 = recField l 16 2))).map (·.2.1)
  layoutNow := if recField l 50 1 = 0 then none else some (recField l 50 1)
  recov := {
    plan := some a.plan, stage := 2, attempt := recField l 8 1, failed := [recField l 14 2]
    replaced := [(recField l 14 2, recField l 48 2)], used := [recField l 48 2]
    passed := (a.plan.succ.map (·.1)).takeWhile (fun p => decide (p ≠ recField l 16 2)), tookPhase := recField l 51 1
    prevPhase := if recField l 51 1 = 1 then .generate else .learn, enterStroke := recField l 24 8 } }

/-- R604: the spare binds the job at its new position, and tells the coordinator. -/
theorem takePosition_binds (a : SpareArm) (l : List Byte) (slot : Nat) (m : Dev) : ∃ r, r.net.position = some (recField l 14 2)
    ∧ takePosition a l slot m = sendControl (bindJob slot (tookPosition a l) r) (recField l 16 2)
        (recoveryPayload (tookPosition a l) 0x24 (recField l 8 1) 64 (zeros 1 ++ leBytes 2 (recField l 14 2)) []) := by
  refine ⟨_, ?_, rfl⟩
  exact List.foldlRecOn (motive := fun t : Dev => t.net.position = some (recField l 14 2)) _ _ rfl fun _ ht _ _ => ht

theorem recField_spareUp (j : Job) (attempt pos : Nat) (h : pos < 65536) :
    recField (recoveryPayload j 0x24 attempt 64 (zeros 1 ++ leBytes 2 pos) []) 14 2 = pos := by
  have hbody : padTo 3 (zeros 1 ++ leBytes 2 pos) = zeros 1 ++ leBytes 2 pos := by
    rw [padTo, List.take_of_length_le (by simp), show 3 - (zeros 1 ++ leBytes 2 pos).length = 0 by simp]
    exact List.append_nil _
  rw [recoveryPayload, recField_padTo (by simp) (by decide), hbody]
  simp only [List.append_assoc]
  rw [recField_append_right _ _ _ _ (by simp), recField_append_right _ _ _ _ (by simp), recField_append_right _ _ _ _ (by simp),
    recField_append_right _ _ _ _ (by simp), recField_append_right _ _ _ _ (by simp), recField_append_right _ _ _ _ (by simp),
    recField_append_left _ _ _ _ (by simp)]
  simp only [length_leBytes, length_zeros]
  exact recField_leBytes (n := 2) h

/-- R603: the checks that a TAKEOVER passes. -/
theorem takeTakeover_takes {l : List Byte} {m : Dev} {a : SpareArm} {e : Nat × Nat × List Byte} {slot : Nat} (ha : m.sys.spare = some a)
    (hid : a.jobId = recField l 4 4) (hpos : m.net.position = some (recField l 48 2)) (hslot : freeSlot m = some slot)
    (he : a.plan.succ.find? (fun x => decide (x.1 = recField l 16 2)) = some e) (hdigest : a.plan.digest = recField l 40 8)
    (hspare : ∃ x ∈ a.plan.spares, x.1 = recField l 48 2 ∧ x.2.1 ≤ recField l 14 2 ∧ recField l 14 2 < x.2.1 + x.2.2)
    (hsig : edVerify e.2.2 (l.take 128) (recBytes l 128 114) = true) : takeTakeover l m = takePosition a l slot m := by
  have hcovers : a.plan.spares.any (fun s =>
      decide (s.1 = recField l 48 2 ∧ s.2.1 ≤ recField l 14 2 ∧ recField l 14 2 < s.2.1 + s.2.2)) = true := by
    obtain ⟨x, hx, hcond⟩ := hspare
    exact List.any_eq_true.mpr ⟨x, hx, decide_eq_true hcond⟩
  simp only [takeTakeover, ha, he, hslot]
  rw [if_neg (by simp [hid, hpos]), if_neg (not_not.mpr hdigest), if_neg (by rw [hcovers]; decide), if_neg (by simp [hsig])]

/-! ### The obligation -/

/-- A job's recovery changes, and nothing else of the module but its jobs. -/
theorem updRecov_jobs {s : State} {slot : Nat} {j : Job} {y : Recov} (hj : jobAt s.m slot = some j) (f : Recov → Recov) (hf : f j.recov = y) :
    jobAt (updRecov s.m slot f) slot = some { j with recov := y } ∧ (∀ k, k ≠ slot → jobAt (updRecov s.m slot f) k = jobAt s.m k)
      ∧ ({ s with m := updRecov s.m slot f } : State) = { s with m := { s.m with jobs := (updRecov s.m slot f).jobs } } :=
  have h := OnlyJob.updRecov (.refl hj) f
  ⟨hf ▸ h.1, h.2, rfl⟩

/-- Two changes of a job's recovery. -/
theorem updRecov_twice {s : State} {slot : Nat} {j : Job} {y : Recov} (hj : jobAt s.m slot = some j) (f g : Recov → Recov)
    (hfg : g (f j.recov) = y) :
    jobAt (updRecov (updRecov s.m slot f) slot g) slot = some { j with recov := y }
      ∧ (∀ k, k ≠ slot → jobAt (updRecov (updRecov s.m slot f) slot g) k = jobAt s.m k)
      ∧ ({ s with m := updRecov (updRecov s.m slot f) slot g } : State)
        = { s with m := { s.m with jobs := (updRecov (updRecov s.m slot f) slot g).jobs } } :=
  have h := (OnlyJob.updRecov (.refl hj) f).updRecov g
  ⟨hfg ▸ h.1, h.2, rfl⟩

/-- Settles O43: each packet of a stage changes the coordinator's recovery alone (`takeSpareUp_counts`, `takeConfigured_restores`,
`takeRestored_counts`); FETCH is answered with the image, and a TAKEOVER that passes its checks binds the job (`bindJob_bound`). -/
theorem recoveryRunsItsCourse : Obligations.RecoveryRunsItsCourse := by
  unfold Obligations.RecoveryRunsItsCourse
  refine ⟨?course, fun m src l b data marks hroute hlen htakes =>
    sendImage_one (data := b :: data) marks hroute (Nat.succ_pos _) hlen htakes, ?takeover⟩
  case course =>
    intro s slot src j r hslot hsrc hj hr hknown hfwd
    subst hr
    have htaken (f : Job → Dev → Dev) : onPacket slot src f s.m = f j s.m := onPacket_taken hj hfwd hknown f
    refine ⟨fun hcoord => ⟨fun flags hg ag hs as hwf hstage hexp hnew => ?ack, fun pos hpos hstage hchosen hnew => ?spare,
      fun hstage hchosen hnew => ?configured, fun hstage hnew => ?restored, fun p c n hstage hp hlast hn hc hc16 => ?failed⟩,
      fun c layer hs gen hwf hc hholds hfor hsound => ⟨fun hlayer hst hgen ps hps => ?hold, fun y hlayer hy ps hps => ?layout⟩⟩
    case ack =>
      have hrun := (htaken (takeAck slot { src, flags, holdGen := hg, aqGen := ag, holdStep := hs, aqStep := as } j.recov.attempt)).trans
        (takeAck_keeps hcoord hstage hexp hnew)
      exact ⟨_, onDev_next_of (c := .ackReceive slot src j.recov.attempt flags hg ag hs as) hwf hrun, updRecov_jobs hj _ rfl⟩
    case spare =>
      obtain ⟨f, hrun, hf⟩ := takeSpareUp_counts (m := s.m) (slot := slot) hcoord hstage hchosen hnew
      have hwf : (Instr.spareUpReceive slot src pos).wf = true := by simp [Instr.wf, boundsWf, hslot, hsrc, hpos]
      exact ⟨_, onDev_next_of (c := .spareUpReceive slot src pos) hwf ((htaken _).trans hrun), updRecov_jobs hj f hf⟩
    case configured =>
      have hwf : (Instr.configuredReceive slot src 0).wf = true := by simp [Instr.wf, boundsWf, hslot, hsrc]
      by_cases hall : ∀ c ∈ j.recov.chosen, c.1 = src ∨ c.1 ∈ j.recov.configured
      · obtain ⟨f, g, i, hrun, hfg, haction, hkind, hattempt, hgen⟩ := takeConfigured_restores hcoord hstage hchosen hnew hj hall
        refine ⟨_, some i, onDev_next_of (c := .configuredReceive slot src 0) hwf ((htaken _).trans hrun), updRecov_twice hj f g hfg, ?_,
          fun _ => ⟨i, rfl, haction, hkind, hattempt, hgen⟩⟩
        rintro ⟨c, hc, hother, hlacks⟩
        exact ((hall c hc).elim hother hlacks).elim
      · have hmore : ∃ c ∈ j.recov.chosen, c.1 ≠ src ∧ c.1 ∉ j.recov.configured := by
          simpa only [not_forall, not_or, exists_prop] using hall
        obtain ⟨f, hrun, hf⟩ := takeConfigured_waits (m := s.m) (slot := slot) hcoord hstage hchosen hnew hmore
        exact ⟨_, j.recov.next, onDev_next_of (c := .configuredReceive slot src 0) hwf ((htaken _).trans hrun), updRecov_jobs hj f hf,
          fun _ => rfl, fun h => absurd h hall⟩
    case restored =>
      obtain ⟨f, hrun, hf⟩ := takeRestored_counts hj hcoord hstage hnew
      have hwf : (Instr.restoredReceive slot src 0).wf = true := by simp [Instr.wf, boundsWf, hslot, hsrc]
      exact ⟨_, onDev_next_of (c := .restoredReceive slot src 0) hwf ((htaken fun _ => takeRestored slot src 0).trans hrun),
        updRecov_jobs hj f hf⟩
    case failed =>
      have hjob := OnlyJob.updRecov (.refl hj) fun r => { r with lastCause := n }
      have hrun := (takeRestored_fails (src := src) hj hcoord hstage hn hc).trans (nextAttempt_fails hjob.1 hp hlast)
      have hwf : (Instr.restoredReceive slot src c).wf = true := by simp [Instr.wf, boundsWf, hslot, hsrc, hc16]
      exact ⟨_, onDev_next_of (c := .restoredReceive slot src c) hwf ((htaken fun _ => takeRestored slot src c).trans hrun),
        updRecov_twice hj _ _ rfl⟩
    case hold =>
      subst hlayer
      exact onDev_next_of (c := .fetchReceive slot src 1 hs gen) hwf ((htaken _).trans (takeFetch_hold hc hholds hfor hsound hst hgen hps))
    case layout =>
      subst hlayer
      exact onDev_next_of (c := .fetchReceive slot src 0 hs gen) hwf ((htaken _).trans (takeFetch_layout hc hholds hfor hsound hy hps))
  case takeover =>
    intro s l hlen hfwd
    have hwf : (Instr.takeoverReceive l).wf = true := decide_eq_true hlen
    have harrives : arriving (takeTakeover l) s.m = takeTakeover l s.m := if_pos hfwd
    refine ⟨fun hnone => ?_, fun a e slot ha hid hpos hslot he hdigest hspare hsig => ?_⟩
    · have hrefused : takeTakeover l s.m = takeoverRefused l 0 s.m := by simp only [takeTakeover, hnone]
      obtain ⟨e, hraise, htype, hpart, hpayload⟩ := takeoverRefused_raises l 0 s.m
      exact ⟨_, e, onDev_next_of (c := .takeoverReceive l) hwf (harrives.trans (hrefused.trans hraise)), rfl, htype, hpart, hpayload, rfl⟩
    · have htakes := takeTakeover_takes ha hid hpos hslot he hdigest hspare hsig
      obtain ⟨r, hr, hbind⟩ := takePosition_binds a l slot s.m
      have hbound := bindJob_bound r slot (j := tookPosition a l) rfl
      have hmsg := sendControl_messaged (bindJob slot (tookPosition a l) r) (recField l 16 2)
        (recoveryPayload (tookPosition a l) 0x24 (recField l 8 1) 64 (zeros 1 ++ leBytes 2 (recField l 14 2)) [])
      obtain ⟨⟨y, hy, hjob⟩, hspareless, hat⟩ := hbound.messaged hmsg
      refine ⟨_, y, onDev_next_of (c := .takeoverReceive l) hwf (harrives.trans (htakes.trans hbind)), hy, ?_⟩
      rw [hjob]
      exact ⟨hid.symm, rfl, rfl, rfl, rfl, rfl, rfl, rfl, rfl, hat.trans hr, hspareless, fun o hroute =>
        ⟨_, onItsWay_sendControl _ ((hmsg.routeLink _).symm.trans hroute), rfl, recField_recoveryPayload_kind _ _ _ (by decide) (by decide),
          recField_spareUp _ _ _ (recField_two_lt l 14)⟩, rfl⟩

end Sys2Proof.Machine
end
